-- ==== Sys2Proof/Word.lean ====
section
/-! DEFINITION. The word types of the block and their plainest arithmetic. -/

namespace Sys2Proof

/-- A register, tally or descriptor word (R61, R244, R309). -/
abbrev Word := BitVec 32

/-- A byte of an image, a payload or a record. -/
abbrev Byte := BitVec 8

/-- A 64-bit quantity: an accumulator (R155), meridian time (R209), a transit number (R210). -/
abbrev Word64 := BitVec 64

/-- The four sticky flags as one value: bit 0 INEXACT, bit 1 UNDERFLOW, bit 2 OVERFLOW, bit 3 INVALID (R110). -/
abbrev Flags := BitVec 4

/-- An exact dyadic value `m · 2^e`: what the arithmetic chapters call an exact real result (R98, R121). -/
structure Dy where
  m : Int
  e : Int
  deriving DecidableEq, Repr, Inhabited

/-- A finite map held as data: (key, value) pairs, keys strictly rising, no value equal to what an unlisted key reads as. -/
abbrev Table (α : Type) := List (Nat × α)

end Sys2Proof
end

