-- ==== Sys2Proof/Syntax.lean ====
section
/-! DEFINITION. The commands of the block: one constructor of Instr for each row of spec/opcode_table.json, with the operands that its rule gives it (log 13). -/

namespace Sys2Proof

/-- Who makes a register access: a master behind a management port (R62), or the steward (R378). -/
inductive Agent where
  | mgmt (port master : Nat)
  | steward
  deriving DecidableEq, Repr, Inhabited

/-- A started operation: its queue, its slot and, for a standing order, its run (R262); run 0 otherwise. -/
structure OpId where
  queue : Nat
  slot : Nat
  run : Nat
  deriving DecidableEq, Repr, Inhabited

/-- What start-up finds at the trim port and in the block's SRAM (R360, R362): the trim words, and the rows, by macro, that the march test finds faulty. -/
structure BootInput where
  trims : List Word
  testRows : List (Nat × Nat)
  deriving DecidableEq, Repr, Inhabited

/-- Where a detected fault struck (R77, R343, R425): nothing an operation owns, a page or beat that an operation wrote, its reduced piece,
a page, record or block word that holds sealed values of a ledger, or a beat on a seam, by its plane and the operation whose beat it is. -/
inductive FaultPlace where
  | fabric
  | opPage (op : OpId)
  | opPiece (op : OpId)
  | ledgerPage (ledger : BitVec 12)
  | seamBeat (plane : Nat) (op : OpId)
  deriving DecidableEq, Repr, Inhabited

/-- An action that the steward attempts and a guard of R378 tests. -/
inductive StewardAction where
  | transmit (port vc : Nat)
  | write (addr : BitVec 22) (value : Word)
  | diagRead (addr : BitVec 22)
  | memRequest (addr : Nat) (sectors : Nat)
  | forceCondition
  deriving DecidableEq, Repr, Inhabited

/-- What a TRAIN flit carries (R303). -/
structure TrainInfo where
  version : Word
  coords : List Nat
  port : Nat
  axis : Nat
  dirNeg : Bool
  credits : List Nat
  deriving DecidableEq, Repr, Inhabited

/-- The partner's stamps in a time frame that answers one of ours, in 1/16 ns, and whether it is LOCKED (R213). -/
structure TimeReply where
  t2 : Int
  t3 : Int
  locked : Bool
  deriving DecidableEq, Repr, Inhabited

/-- What a binocular mismatch was found on (R353 to R355): a chunk at the down ports, the flit of an operation's step that a port is to send next, or a memory write by its identifier. -/
inductive BinoPoint where
  | downChunk (op : OpId)
  | ringFlit (op : OpId) (port : Nat)
  | memWrite (op : OpId) (id : BitVec 8)
  deriving DecidableEq, Repr, Inhabited

/-- Which filtered input a removed change belongs to (R219). -/
inductive GlitchInput where
  | bellExt (line : Nat)
  | fenceIn
  | throttle
  deriving DecidableEq, Repr, Inhabited

/-- A change that the filter removes: its input, and the FCLK edges for which the level was stable (R219). -/
structure Glitch where
  input : GlitchInput
  edges : Nat
  deriving DecidableEq, Repr, Inhabited

/-- A new level of a filtered input, and the FCLK edges for which it has been stable (R59, R219). -/
structure Sampled (α : Type) where
  level : α
  edges : Nat
  deriving DecidableEq, Repr, Inhabited

/-- A MER_CODE frame: its bits, and the instant at which the MER_REF edge of its end, reference period 72, reached the pins, in 1/16 ns since the release of RST_N (R58, R225). -/
structure Timecode where
  bits : BitVec 56
  edge : Int
  deriving DecidableEq, Repr, Inhabited

/-- The commands. `cyc` is the FCLK cycle of the current transit at which the event happens (log 5); `edge` the instant at which the MER_REF edge of a relock reached the pins, in 1/16 ns since the release of RST_N (R212, R229); `rows` the faulty rows, by macro, that a plane's self-test found (R362). -/
inductive Instr where
  -- reset and start-up
  | resetAssert
  | startup (boot : BootInput)
  | imageTimeout
  | lockTimeout
  | trainTimeout
  | ownerElection
  | transitBoundary (cycles ticks : Nat)
  -- up path
  | upBeat (stall plane : Nat) (tag : BitVec 12) (chunk : BitVec 24) (last : Bool) (data : BitVec 512) (scale : BitVec 32) (cyc : Nat)
  | treeSumArrive (op : OpId) (chunk beat cyc : Nat)
  -- tally ports and the tally window
  | tallyAdd (stall : Nat) (idx : BitVec 6) (arg : Word)
  | tallySub (stall : Nat) (idx : BitVec 6) (arg : Word)
  | tallyWait (stall : Nat) (idx : BitVec 6) (arg : Word)
  | tallyTake (stall : Nat) (idx : BitVec 6) (arg : Word)
  | tallyRead (stall : Nat) (idx : BitVec 6)
  | tallyBadIndex (stall : Nat) (tlyOp : BitVec 3) (idx : BitVec 6)
  | tallyRetest (stall : Nat)
  | tlyCancel (stall : Nat)
  | tallyWindowSet (agent : Agent) (stall tally : Nat) (value : Word)
  | tallyWindowAdd (agent : Agent) (stall tally : Nat) (value : Word)
  | tallyWindowSub (agent : Agent) (stall tally : Nat) (value : Word)
  | tallyWindowRead (agent : Agent) (stall tally : Nat)
  -- bells, musters, verdicts
  | bellOutChange (stall line : Nat) (level : Bool)
  | bellExtSenseChange (line : Nat) (level : Sampled Bool)
  | bellRing (line : Nat)
  | boardHoldExpire (line : Nat)
  | bellRearm (line : Nat)
  | bellMsgReceive (port cyc : Nat)
  | verdictMsgReceive (port cyc : Nat)
  | verdictPass (tgroup : Nat) (legSeq : BitVec 16)
  | verdictRing (tgroup : Nat) (legSeq : BitVec 16)
  | sigSend (agent : Agent)
  | remoteAddReceive (port cyc : Nat)
  | remoteAddApply (port : Nat)
  -- memory port
  | memReadData (id : BitVec 8) (data : BitVec 1024) (poison : BitVec 4) (err last : Bool) (cyc : Nat)
  | memWriteResponse (id : BitVec 8) (err : Bool)
  | memTimeout (write : Bool) (id : BitVec 8)
  -- queues
  | descriptorFetch (queue cyc : Nat)
  | descriptorDecode (queue slot : Nat)
  | doorbell (agent : Agent) (queue : Nat) (value : Word)
  | standingPin (agent : Agent) (queue : Nat) (value : Word)
  | standingUnpin (agent : Agent) (queue : Nat)
  | standingRun (queue slot : Nat)
  | descriptorStart (queue : Nat)
  -- operations
  | reduce (op : OpId) (cyc : Nat)
  | broadcast (op : OpId) (cyc : Nat)
  | allreduce (op : OpId) (cyc : Nat)
  | reduceScatter (op : OpId) (cyc : Nat)
  | allgather (op : OpId) (cyc : Nat)
  | max (op : OpId) (cyc : Nat)
  | argmax (op : OpId) (cyc : Nat)
  | topk (op : OpId) (cyc : Nat)
  | sample (op : OpId) (cyc : Nat)
  | alltoall (op : OpId) (cyc : Nat)
  | barrier (queue : Nat)
  | fence (queue : Nat)
  | ledgerOpen (op : OpId)
  | ledgerAdd (op : OpId) (cyc : Nat)
  | ledgerClose (op : OpId) (cyc : Nat)
  | save (op : OpId) (cyc : Nat)
  | restore (op : OpId) (cyc : Nat)
  -- ledgers and the data path
  | ledgerClaim (op : OpId)
  | waitListClaim (ledger : BitVec 12)
  | pageGrant (op : OpId)
  | upPhaseOpen (op : OpId) (plane : Nat)
  | upPhaseClose (op : OpId) (plane : Nat)
  | egress (op : OpId) (cyc : Nat)
  | almanacCompare (op : OpId)
  | recallOp (op : OpId) (cyc : Nat)
  | reEmission (op : OpId) (cyc : Nat)
  | chunkRelease (op : OpId) (stall chunk : Nat)
  | seal (op : OpId)
  | descriptorFail (op : OpId)
  | completionRecordWrite (id : BitVec 8) (err : Bool)
  -- ring engines
  | ringStepStart (op : OpId) (reverse : Bool) (step cyc : Nat)
  | ringChunkReceive (port tag cyc : Nat)
  | chunkForward (port tag cyc : Nat)
  | ringStepEnd (port tag : Nat)
  | statisticsLap (op : OpId) (cyc : Nat)
  | recallMsgReceive (port cyc : Nat)
  -- links
  | flitReceive (port : Nat) (flit : BitVec 1024) (symErr : Bool) (cyc : Nat)
  | nakReceive (port cyc : Nat)
  | replayTimeout (port cyc : Nat)
  | flitTransmit (port cyc : Nat)
  | heartbeatSend (port cyc : Nat)
  | nullSend (port cyc : Nat)
  | linkLost (port : Nat) (lockFell : Bool) (cyc : Nat)
  | linkDown (port : Nat) (code : BitVec 8)
  | trainFlitReceive (port : Nat) (info : TrainInfo) (cyc : Nat)
  | timeFrameReceive (port : Nat) (reply : Option TimeReply) (stamp : Int)
  -- meridian and inputs
  | meridianCal (agent : Agent)
  | resync (agent : Agent)
  | merMarkPulse (width : Nat) (offset : Int)
  | timecodeFrame (frame : Timecode)
  | meridianLock
  | markMissing
  | refLoss
  | meridianLost
  | reacquire (edge : Int)
  | slewComplete
  | inputDelayWrite (agent : Agent) (value : Word)
  | fenceInChange (level : Sampled Bool)
  | throttleChange (value : Sampled (BitVec 2))
  | bellExtHigh (line : Nat)
  | bellExtLow (line : Nat)
  | fenceHigh
  -- ephemeris
  | swapArm (agent : Agent)
  | swapDisarm (agent : Agent)
  | bankSwap
  | ephemerisEntryWrite (agent : Agent) (word : Nat) (value : Word)
  -- power and pages
  | idleEnter
  | powerFenceWrite (agent : Agent) (value : Word)
  | planePowerDown (agent : Agent) (plane : Nat)
  | planePowerUp (agent : Agent) (plane : Nat)
  | planeSelftestDone (plane : Nat) (rows : List (Nat × Nat))
  | softReset (agent : Agent) (page : Nat)
  | pageLock (agent : Agent) (page : Nat)
  | restoreTrims (agent : Agent)
  | errlogPop (agent : Agent)
  | errlogHeadRead (agent : Agent)
  | loReadLatch (agent : Agent) (addr : BitVec 22)
  | readToClear (agent : Agent) (addr : BitVec 22)
  -- faults
  | faultDetect (code : BitVec 8) (source : BitVec 16) (place : FaultPlace)
  | containedReplay (op : OpId) (code : BitVec 8) (source : BitVec 16)
  | ledgerFatal (ledger : BitVec 12) (code : BitVec 8) (source : BitVec 16)
  | fabricFatal (code : BitVec 8) (source : BitVec 16)
  | watchdog (op : OpId)
  | binoMismatch (point : BinoPoint)
  | binoStateCompare (op : OpId) (differ : Bool)
  | lateMismatch (ledger : Option (BitVec 12))
  | sideFault (sideB : Bool) (code : BitVec 8)
  | takeover (agent : Agent)
  | repair (agent : Agent)
  | repairWithdraw (agent : Agent)
  -- ownership, mailboxes, steward
  | ownerClaim (port master : Nat) (nonce : BitVec 16)
  | ownerOffer (agent : Agent) (value : Word)
  | ownerAccept (port master : Nat) (nonce : BitVec 16)
  | offerLapse
  | ownerHeartbeat (agent : Agent) (window : Option Word)
  | ownerVacant
  | nonownerWrite (port master : Nat) (addr : BitVec 22) (value : Word)
  | mailboxWrite (port master : Nat) (value : Word)
  | mailboxRead (agent : Agent) (port : Nat)
  | stewardKick (agent : Agent)
  | stewardWatchdog
  | stewardRestart (agent : Agent)
  | stewardGuard (action : StewardAction)
  -- queue, ledger, ring and topology registers
  | queueEnable (agent : Agent) (value : Word)
  | queueDisable (agent : Agent)
  | queueResume (agent : Agent)
  | queueCfgWrite (agent : Agent) (offset : Nat) (value : Word)
  | maskDataWrite (agent : Agent) (value : Word)
  | ledgerRelease (agent : Agent)
  | retrain (agent : Agent) (port : Nat)
  | linkTraining (port : Nat) (locked : Bool) (phyStat : Word) (cyc : Nat)
  | ringCreditWrite (agent : Agent) (port offset : Nat) (value : Word)
  | unfence (agent : Agent)
  | topologyWrite (agent : Agent) (offset : Nat) (value : Word)
  | groupCfgWrite (agent : Agent) (value : Word)
  | lineCfgWrite (agent : Agent) (value : Word)
  | lineMembersWrite (agent : Agent) (value : Word)
  | musterCtrlWrite (agent : Agent) (value : Word)
  | thresholdWrite (agent : Agent) (offset : Nat) (value : Word)
  | assayPolicyWrite (agent : Agent) (offset : Nat) (value : Word)
  | spillPoolWrite (agent : Agent) (plane offset : Nat) (value : Word)
  | perfClear (agent : Agent)
  | injectArm (agent : Agent) (value : Word)
  | injectFire (op : Option OpId)
  | mgmtErrorResponse (port master : Nat) (write : Bool) (addr : BitVec 22) (value : Word)
  | registerWrite (agent : Agent) (addr : BitVec 22) (value : Word)
  | merRefReturn
  | glitchRemoved (glitch : Glitch)
  deriving DecidableEq, Repr

end Sys2Proof
end

