-- ==== Sys2Proof/Decode.lean ====
section
/-! DEFINITION. The decoder over the command table: no row of spec/opcode_table.json gives bits, so no word spells a command. -/

namespace Sys2Proof

/-- The command that a table word spells; the table gives no row any bits, so there is none. -/
def decodeTableWord (_nbits _w : Nat) : Option Instr := none

end Sys2Proof
end

