-- ==== Sys2Proof/Config.lean ====
section
/-! DEFINITION. What an implementation fixes and the values the manual leaves open: constants without a body. -/

namespace Sys2Proof.Config

/-- Spare rows of an SRAM by its number (R362, R418): not given by the manual (log 14). -/
opaque spareRows : Nat → Nat

/-- The plane whose share an SRAM macro belongs to by its number, none where it is a control SRAM (R362): the manual numbers no macro (log 14). -/
opaque macroPlane : Nat → Option Nat

/-- A word of the trim set that start-up reads where the set is invalid and no rule gives a default: FW_ADDR, IMAGE_ADDR, FW_MIN, KEY_REVOKE (R360, R361, log 12). -/
opaque bareTrim : Nat → Word

/-- The tail of the CP64 value of an integer that is no sum of two binary32 values (R90, R105): not given by the manual (log 64). -/
opaque pairTail : Int → Word

/-- Where the edges of a MER_REF that returns at a time stand against the local count, in 1/16 ns (R224, R226): no rule gives their phase or number (log 55). -/
opaque refPhase : Nat → Int

/-- The four Abaor key digests in the block's ROM (R370): not given by the manual (log 14). -/
opaque romKeyDigest : Nat → Nat

/-- The content field of a STATS chunk's header (R287): no code is given for it (log 28). -/
opaque statsContent : Nat

end Sys2Proof.Config
end

