-- ==== Sys2Proof/Machine/Bytes.lean ====
section
/-! DEFINITION. Bit fields, little-endian images and the three cyclic checks (R28, R58, R179, R288, R294). -/

namespace Sys2Proof.Machine

/-- Bits [lo + n - 1 : lo] of a natural number. -/
def bitsAt (x lo n : Nat) : Nat := (x >>> lo) % 2 ^ n

/-- Field [lo + n - 1 : lo] of a word, as a number. -/
def fieldOf (w : Word) (lo n : Nat) : Nat := bitsAt w.toNat lo n

/-- Bit i of a word. -/
def bitOf (w : Word) (i : Nat) : Bool := w.getLsbD i

/-- Sign extension of an n-bit field (n ≥ 1). -/
def signedField (x n : Nat) : Int := if x < 2 ^ (n - 1) then (x : Int) else (x : Int) - (2 ^ n : Nat)

/-- A number placed at a bit position of a word. -/
def putAt (lo : Nat) (x : Nat) : Word := BitVec.ofNat 32 (x <<< lo)

def boolNat (b : Bool) : Nat := if b then 1 else 0

/-- The n low bytes of a number, little-endian. -/
def leBytes (n x : Nat) : List Byte := (List.range n).map fun i => BitVec.ofNat 8 (x >>> (8 * i))

/-- The number whose little-endian bytes are given. -/
def leNat (l : List Byte) : Nat := l.foldr (fun b acc => b.toNat + 256 * acc) 0

/-- The number whose big-endian bytes are given (R369). -/
def beNat (l : List Byte) : Nat := l.foldl (fun acc b => acc * 256 + b.toNat) 0

/-- `n` bytes of an image from an offset; bytes beyond its end read 0. -/
def sliceB (l : List Byte) (at' n : Nat) : List Byte :=
  let p := (l.drop at').take n
  p ++ List.replicate (n - p.length) 0#8

/-- The little-endian 32-bit word at a byte offset. -/
def word32At (l : List Byte) (at' : Nat) : Word := BitVec.ofNat 32 (leNat (sliceB l at' 4))

/-- The 32-bit words of an image. -/
def wordsOf (l : List Byte) : List Word := (List.range ((l.length + 3) / 4)).map fun i => word32At l (4 * i)

/-- An image of 32-bit words, little-endian. -/
def bytesOfWords (l : List Word) : List Byte := l.flatMap fun w => leBytes 4 w.toNat

/-- One 64 B beat from its bytes (R192): byte k in DATA[8k + 7 : 8k]; absent bytes are 0. -/
def beatOf (l : List Byte) : BitVec 512 := BitVec.ofNat 512 (leNat (l.take 64))

/-- A byte list cut into pieces of n bytes, n ≥ 1; fuel bounds the number of pieces. -/
def cutEvery (n : Nat) : Nat → List Byte → List (List Byte)
  | 0, _ => []
  | f + 1, l => if l.isEmpty then [] else l.take n :: cutEvery n f (l.drop n)

/-- Pad with zero bytes to a multiple of n. -/
def padTo (n : Nat) (l : List Byte) : List Byte := l ++ List.replicate ((n - l.length % n) % n) 0#8

/-! ### Cyclic checks -/

/-- One byte into a reflected 32-bit CRC. -/
def crc32Byte (poly : Word) (c : Word) (b : Byte) : Word :=
  (List.range 8).foldl (fun c _ => if c.getLsbD 0 then (c >>> 1) ^^^ poly else c >>> 1) (c ^^^ b.setWidth 32)

/-- Reflected CRC with initial value all ones and final inversion. -/
def crc32Of (poly : Word) (l : List Byte) : Word := (l.foldl (crc32Byte poly) 0xFFFFFFFF#32) ^^^ 0xFFFFFFFF#32

/-- CRC-32C: polynomial 0x1EDC_6F41, reflected (R288). -/
def crc32c (l : List Byte) : Word := crc32Of 0x82F63B78#32 l

/-- The link check: polynomial 0x04C1_1DB7, reflected (R294). -/
def crc32Link (l : List Byte) : Word := crc32Of 0xEDB88320#32 l

/-- The timecode CRC: x^8 + x^2 + x + 1, initial value 0, most significant bit first, no inversion (R58). -/
def crc8Byte (c b : Byte) : Byte :=
  (List.range 8).foldl (fun c _ => if c.getLsbD 7 then (c <<< 1) ^^^ 0x07#8 else c <<< 1) (c ^^^ b)

def crc8 (l : List Byte) : Byte := l.foldl crc8Byte 0#8

end Sys2Proof.Machine
end

