-- ==== Sys2Proof/Machine/Fp.lean ====
section
/-! DEFINITION. Exact dyadic arithmetic, rounding to 24 bits, binary32, the plain and the compensated node and the integer node (R92, R121 to R126, R134). -/

namespace Sys2Proof.Machine

/-- Number of significant bits of a natural number (R92). -/
def bitlength (n : Nat) : Nat := if n = 0 then 0 else Nat.log2 n + 1

/-- Zero as a dyadic. -/
def dyZero : Dy := ⟨0, 0⟩

/-- The mantissa of `a` moved down to the exponent `e ≤ a.e`. -/
def dyAlign (a : Dy) (e : Int) : Int := a.m * (2 ^ (a.e - e).toNat : Nat)

def dyAdd (a b : Dy) : Dy :=
  let e := min a.e b.e
  ⟨dyAlign a e + dyAlign b e, e⟩

def dyNeg (a : Dy) : Dy := ⟨-a.m, a.e⟩

def dySub (a b : Dy) : Dy := dyAdd a (dyNeg b)

def dyMul (a b : Dy) : Dy := ⟨a.m * b.m, a.e + b.e⟩

def dyAbs (a : Dy) : Dy := ⟨a.m.natAbs, a.e⟩

/-- `a · 2^k`, exact. -/
def dyShift (a : Dy) (k : Int) : Dy := ⟨a.m, a.e + k⟩

def dyLt (a b : Dy) : Bool :=
  let e := min a.e b.e
  decide (dyAlign a e < dyAlign b e)

def dyLe (a b : Dy) : Bool := !dyLt b a

def dyEq (a b : Dy) : Bool :=
  let e := min a.e b.e
  decide (dyAlign a e = dyAlign b e)

/-- `2^k`. -/
def dyPow2 (k : Int) : Dy := ⟨1, k⟩

/-- floor(log2 |a|), for `a ≠ 0`. -/
def dyLog2 (a : Dy) : Int := a.e + (bitlength a.m.natAbs : Int) - 1

/-- Divide `n` by `2^k` and round to the nearest integer, ties to even (R98). -/
def shiftRne (n k : Nat) : Nat :=
  if k = 0 then n
  else
    let q := n >>> k
    let r := n % 2 ^ k
    let half := 2 ^ (k - 1)
    if r > half ∨ (r = half ∧ q % 2 = 1) then q + 1 else q

/-- Give an absolute value the sign of `m`. -/
def signAs (m : Int) (n : Nat) : Int := if m < 0 then -(n : Int) else (n : Int)

/-- Round to `p` significant bits, nearest, ties to even, unbounded exponent; a zero is +0 (R121 with p = 24). -/
def roundTo (p : Nat) (a : Dy) : Dy :=
  let n := a.m.natAbs
  let l := bitlength n
  if l ≤ p then a
  else ⟨signAs a.m (shiftRne n (l - p)), a.e + (l - p : Nat)⟩

/-- rnd of R121. -/
def rnd (a : Dy) : Dy := roundTo 24 a

/-- Truncate to 24 significant bits (R135, rtz24). -/
def rtz24 (a : Dy) : Dy :=
  let n := a.m.natAbs
  let l := bitlength n
  if l ≤ 24 then a
  else ⟨signAs a.m (n >>> (l - 24)), a.e + (l - 24 : Nat)⟩

/-- rnd of the exact quotient `a / b`, for `b ≠ 0` (R135, R173): 64 extra bits and a sticky bit decide every case. -/
def rndDiv (a b : Dy) : Dy :=
  let k := bitlength b.m.natAbs + 64
  let num := a.m.natAbs * 2 ^ k
  let den := b.m.natAbs
  let q := num / den
  let sticky := if num % den = 0 then 0 else 1
  let neg := (decide (a.m < 0)) != (decide (b.m < 0))
  rnd ⟨if neg then -((2 * q + sticky : Nat) : Int) else ((2 * q + sticky : Nat) : Int), a.e - b.e - k - 1⟩

/-- Round to the nearest integer, ties to even (R173, rne_int). -/
def rneInt (a : Dy) : Int :=
  if a.e ≥ 0 then a.m * (2 ^ a.e.toNat : Nat)
  else signAs a.m (shiftRne a.m.natAbs (-a.e).toNat)

/-! ### Flags -/

def fInexact : Flags := 1#4
def fUnderflow : Flags := 2#4
def fOverflow : Flags := 4#4
def fInvalid : Flags := 8#4
def fNone : Flags := 0#4

/-- One flag where a condition holds. -/
def flagIf (c : Bool) (f : Flags) : Flags := if c then f else fNone

/-! ### binary32 -/

/-- +infinity, and the largest finite value, and the one NaN that the fabric produces (R93, R100). -/
def f32Inf : Word := 0x7F800000#32
def f32Max : Word := 0x7F7FFFFF#32
def f32NaN : Word := 0x7FC00000#32

def f32Sign (x : Word) : Bool := x.getLsbD 31
def f32Exp (x : Word) : Nat := (x.toNat >>> 23) % 256
def f32Man (x : Word) : Nat := x.toNat % 2 ^ 23
def f32IsNaN (x : Word) : Bool := f32Exp x == 255 && f32Man x != 0
def f32IsInf (x : Word) : Bool := f32Exp x == 255 && f32Man x == 0
def f32IsZero (x : Word) : Bool := x.toNat % 2 ^ 31 == 0
/-- Neither infinite nor NaN. -/
def f32Fin (x : Word) : Bool := f32Exp x != 255

/-- A magnitude pattern with a sign. -/
def withSign (neg : Bool) (mag : Word) : Word := if neg then mag ||| 0x80000000#32 else mag &&& 0x7FFFFFFF#32

/-- Zero with a sign (R92, signed_zero). -/
def signedZero (neg : Bool) : Word := withSign neg 0#32

/-- Negation of a binary32 pattern, exact (R174). -/
def f32Neg (x : Word) : Word := x ^^^ 0x80000000#32

/-- The exact value of a finite binary32 pattern, subnormals included. -/
def f32Val (x : Word) : Dy :=
  let m := if f32Exp x = 0 then f32Man x else 2 ^ 23 + f32Man x
  let e : Int := (if f32Exp x = 0 then 1 else f32Exp x : Nat) - (150 : Int)
  ⟨if f32Sign x then -(m : Int) else (m : Int), e⟩

/-- The binary32 pattern of a value that has one with a normal exponent; a zero gives +0. -/
def f32Enc (a : Dy) : Word :=
  let n := a.m.natAbs
  if n = 0 then 0#32
  else
    let l := bitlength n
    let man := if l ≤ 24 then n <<< (24 - l) else n >>> (l - 24)
    let ex : Int := dyLog2 a + 127
    withSign (decide (a.m < 0)) (BitVec.ofNat 32 (ex.toNat * 2 ^ 23 + (man - 2 ^ 23)))

/-- |a| above the largest finite binary32 value. -/
def dyAboveMax (a : Dy) : Bool := dyLt (f32Val f32Max) (dyAbs a)

/-- a is not zero and |a| is below 2^-126. -/
def dyBelowMin (a : Dy) : Bool := a.m != 0 && dyLt (dyAbs a) (dyPow2 (-126))

/-- The range rules of add_plain on a rounded value: infinity with OVERFLOW, +0 with UNDERFLOW (R122). -/
def rangePlain (r : Dy) : Word × Flags :=
  if dyAboveMax r then (withSign (decide (r.m < 0)) f32Inf, fOverflow)
  else if dyBelowMin r then (0#32, fUnderflow)
  else (f32Enc r, fNone)

/-- Round once and apply the range rules; INEXACT where the rounding changes the value. -/
def roundPlain (a : Dy) : Word × Flags :=
  let r := rnd a
  let (w, f) := rangePlain r
  (w, f ||| flagIf (!dyEq r a) fInexact)

/-- The plain node (R122). -/
def addPlain (a b : Word) : Word × Flags :=
  if f32IsNaN a || f32IsNaN b then (f32NaN, fNone)
  else if f32IsInf a && f32IsInf b && (f32Sign a != f32Sign b) then (f32NaN, fInvalid)
  else if f32IsInf a then (a, fNone)
  else if f32IsInf b then (b, fNone)
  else roundPlain (dyAdd (f32Val a) (f32Val b))

/-- The product of R134: rnd of the exact product with the range rules of add_plain, NaN with INVALID for infinity times zero. -/
def mulPlain (a b : Word) : Word × Flags :=
  if f32IsNaN a || f32IsNaN b then (f32NaN, fNone)
  else if (f32IsInf a && f32IsZero b) || (f32IsZero a && f32IsInf b) then (f32NaN, fInvalid)
  else if f32IsInf a || f32IsInf b then (withSign (f32Sign a != f32Sign b) f32Inf, fNone)
  else roundPlain (dyMul (f32Val a) (f32Val b))

/-! ### CP64 pairs -/

/-- Head and tail of a CP64 value: head in [63:32] (R81). -/
def pairH (p : Word64) : Word := p.extractLsb' 32 32
def pairT (p : Word64) : Word := p.extractLsb' 0 32
def mkPair (h t : Word) : Word64 := h ++ t

/-- The exact sum of a finite pair. -/
def pairVal (p : Word64) : Dy := dyAdd (f32Val (pairH p)) (f32Val (pairT p))

/-- finish of R123. -/
def finishPair (h l : Dy) : Word64 × Flags :=
  if dyAboveMax h then (mkPair (withSign (decide (h.m < 0)) f32Inf) 0#32, fOverflow ||| fInexact)
  else if h.m = 0 then (0#64, fNone)
  else if dyBelowMin h then (0#64, fUnderflow ||| fInexact)
  else if dyBelowMin l then (mkPair (f32Enc h) 0#32, fInexact)
  else (mkPair (f32Enc h) (f32Enc l), fNone)

/-- The finite case of the compensated node: two-sum of the heads, tails and error term, fast two-sum (R123). -/
def addCompFinite (ah at' bh bt : Dy) : Word64 × Flags :=
  let s := rnd (dyAdd ah bh)
  let bb := rnd (dySub s ah)
  let e := rnd (dyAdd (rnd (dySub ah (rnd (dySub s bb)))) (rnd (dySub bh bb)))
  let t := rnd (dyAdd (rnd (dyAdd at' bt)) e)
  let h := rnd (dyAdd s t)
  let l := rnd (dySub t (rnd (dySub h s)))
  let exact := dyAdd (dyAdd ah at') (dyAdd bh bt)
  let (p, f) := finishPair h l
  (p, f ||| flagIf (!dyEq (dyAdd h l) exact) fInexact)

/-- The compensated node (R123). -/
def addComp (a b : Word64) : Word64 × Flags :=
  let ah := pairH a
  let bh := pairH b
  if f32IsNaN ah || f32IsNaN bh then (mkPair f32NaN 0#32, fNone)
  else if f32IsInf ah && f32IsInf bh && (f32Sign ah != f32Sign bh) then (mkPair f32NaN 0#32, fInvalid)
  else if f32IsInf ah then (a, fNone)
  else if f32IsInf bh then (b, fNone)
  else addCompFinite (f32Val ah) (f32Val (pairT a)) (f32Val bh) (f32Val (pairT b))

/-! ### The integer node -/

/-- add_int of R126: 64-bit two's complement, saturating with OVERFLOW and INEXACT. -/
def addInt (a b : Word64) : Word64 × Flags :=
  let s := a.toInt + b.toInt
  if s > 2 ^ 63 - 1 then (0x7FFFFFFFFFFFFFFF#64, fOverflow ||| fInexact)
  else if s < -(2 ^ 63) then (0x8000000000000000#64, fOverflow ||| fInexact)
  else (BitVec.ofInt 64 s, fNone)

/-- Which node a sum uses: plain (R122), compensated (R123) or integer (R126). -/
inductive NodeMode where
  | plain
  | comp
  | int
  deriving DecidableEq, Repr, Inhabited

/-- One node of the tree on 64-bit carriers; a plain value is the head, with tail +0 (R117). -/
def treeNode (m : NodeMode) (a b : Word64) : Word64 × Flags :=
  match m with
  | .plain => let (r, f) := addPlain (pairH a) (pairH b); (mkPair r 0#32, f)
  | .comp => addComp a b
  | .int => addInt a b

/-- The addition that an accumulator, a fold or a ring hop uses: compensated, or integer on the integer path (R117, R126, R163). -/
def accAdd (int : Bool) (a b : Word64) : Word64 × Flags := if int then addInt a b else addComp a b

/-- The tree over `2^j` stalls from `lo`: non-members contribute +0 (R12, R116). `leaf` gives a member's value. -/
def treeSum (m : NodeMode) (leaf : Nat → Option Word64) : Nat → Nat → Word64 × Flags
  | 0, lo => ((leaf lo).getD 0#64, fNone)
  | j + 1, lo =>
    let (a, fa) := treeSum m leaf j lo
    let (b, fb) := treeSum m leaf j (lo + 2 ^ j)
    let (r, f) := treeNode m a b
    (r, fa ||| fb ||| f)

end Sys2Proof.Machine
end

