-- ==== Sys2Proof/Machine/Flags.lean ====
section
/-! DEFINITION. The sticky flags: how flags of parallel events combine, and which bit is which (R109 to R112). -/

namespace Sys2Proof.Machine

/-- A value with the flags that forming it raised. -/
abbrev Flagged (α : Type) := α × Flags

/-- Flags raised by several units combine by OR (R111). -/
def flagsUnion (l : List Flags) : Flags := l.foldl (· ||| ·) fNone

/-- Map over a list, collecting the flags (R110). -/
def flagMap {α β : Type} (f : α → Flagged β) (l : List α) : Flagged (List β) :=
  let r := l.map f
  (r.map Prod.fst, flagsUnion (r.map Prod.snd))

/-- A write of ones clears flags; an event of the same moment wins (R11, R111). -/
def flagsClear (cur : Flags) (ones : Flags) : Flags := cur &&& ~~~ones

/-- Sticky: an event only sets bits. -/
def flagsRaise (cur ev : Flags) : Flags := cur ||| ev

end Sys2Proof.Machine
end

