-- ==== Sys2Proof/Machine/RegMap.lean ====
section
/-! DEFINITION. The register map: which plain registers each page holds, with access code, width mask and reset value (R11, R388, R395 to R444). -/

namespace Sys2Proof.Machine

/-- Access codes (R11). A `sel` register has one copy for the owner and one for the steward (R393). -/
inductive Acc where
  | ro
  | rw
  | rwl
  | rc
  | w1c
  | sel
  deriving DecidableEq, Repr, Inhabited

/-- A stored register of a page: its offset, access code, writable bits and reset value. -/
structure RegRow where
  off : Nat
  acc : Acc
  mask : Word
  reset : Word
  deriving DecidableEq, Repr, Inhabited

def row (off : Nat) (acc : Acc) (mask reset : Word) : RegRow := ⟨off, acc, mask, reset⟩

/-- Register pages by kind: planes and ring ports have one page each (R421, R422). -/
inductive PageKind where
  | global | owner | meridian | ephemeris | steward | config | errlog | power | memport
  | queue | ledger | assay | bell | binocular | perf | diag | plane | ring | topology | stall | none
  deriving DecidableEq, Repr, Inhabited

/-- The kind of a page number (R387, R422). -/
def pageKind (p : Nat) : PageKind :=
  match p with
  | 0x00 => .global | 0x01 => .owner | 0x02 => .meridian | 0x03 => .ephemeris | 0x04 => .steward | 0x05 => .config
  | 0x06 => .errlog | 0x07 => .power | 0x08 => .memport | 0x09 => .queue | 0x0A => .ledger | 0x0B => .assay
  | 0x0C => .bell | 0x0D => .binocular | 0x0E => .perf | 0x0F => .diag
  | 0x20 => .topology | 0x40 => .stall
  | _ => if 0x10 ≤ p ∧ p < 0x18 then .plane else if 0x18 ≤ p ∧ p < 0x20 then .ring else .none

/-- The common header's stored registers (R388): the page control bits, causes, enables, last code, code count, scratch. -/
def headerRows : List RegRow :=
  [row 0x008 .ro 0x6#32 0#32, row 0x010 .ro 0#32 0#32, row 0x014 .rw 0xFFFFFFFF#32 0#32, row 0x01C .ro 0#32 0#32,
   row 0x020 .rc 0#32 0#32, row 0x024 .rw 0xFFFFFFFF#32 0#32]

def all32 : Word := 0xFFFFFFFF#32

def globalRows : List RegRow :=
  (List.range 9).map fun i => row (0x060 + 4 * i) .rw all32 0#32

def ownerRows : List RegRow :=
  [row 0x04C .rw 0xFFFF#32 0x64#32, row 0x050 .rw 0x8000FF03#32 0#32, row 0x054 .rw 0xFFFF#32 0x64#32,
   row 0x058 .rc 0#32 0#32, row 0x05C .ro 0#32 0#32]

def meridianRows : List RegRow :=
  [row 0x040 .ro 0#32 0#32, row 0x048 .rwl 1#32 1#32, row 0x04C .rwl 0xF#32 2#32, row 0x050 .rwl 0x7FF#32 0x17#32,
   row 0x054 .rw 0xFFFF#32 0#32, row 0x058 .rwl 0xFF#32 0xC#32, row 0x05C .rw 0xF#32 2#32, row 0x060 .rw 0xFFFF#32 0x3E8#32,
   row 0x064 .rw all32 0xF4240#32, row 0x068 .rw all32 0x186A0#32, row 0x06C .rw 7#32 0#32, row 0x070 .ro 0#32 0#32, row 0x074 .ro 0#32 0#32,
   row 0x088 .ro 0#32 0#32, row 0x08C .ro 0#32 0#32, row 0x090 .ro 0#32 0#32, row 0x094 .rc 0#32 0#32, row 0x098 .rc 0#32 0#32,
   row 0x09C .rc 0#32 0#32, row 0x0A0 .rc 0#32 0#32]

def ephemerisRows : List RegRow :=
  [row 0x040 .ro 0#32 0#32, row 0x044 .sel 0x80001FFF#32 0#32, row 0x058 .rw all32 0#32, row 0x05C .rw all32 0#32, row 0x060 .rw all32 0#32,
   row 0x064 .rw 3#32 0#32, row 0x068 .rw all32 0#32, row 0x06C .rw all32 0#32, row 0x070 .rw all32 0#32, row 0x074 .rw 3#32 0#32,
   row 0x078 .rw all32 0#32, row 0x07C .rw all32 0#32, row 0x084 .rc 0#32 0#32, row 0x088 .rc 0#32 0#32]

def stewardRows : List RegRow :=
  [row 0x040 .ro 0#32 0#32, row 0x04C .rw 0xFFFF#32 0x2710#32, row 0x050 .ro 0#32 0#32, row 0x054 .rc 0#32 0#32,
   row 0x058 .rc 0#32 0#32, row 0x05C .ro 0#32 0#32]

def configRows : List RegRow :=
  [row 0x040 .ro 0#32 0#32, row 0x048 .rwl 0xFFFF#32 0xC8#32, row 0x04C .rwl 0xFFFF#32 0x14#32, row 0x050 .ro 0#32 0#32,
   row 0x054 .ro 0#32 0#32, row 0x058 .ro 0#32 all32, row 0x05C .sel 0x3FF#32 0#32]

def errlogRows : List RegRow := [row 0x048 .rw all32 0#32]

def powerRows : List RegRow :=
  [row 0x048 .rw 1#32 0#32, row 0x04C .rw 0xFF#32 0#32, row 0x050 .rw 0xFFFF#32 0x40#32]

def memportRows : List RegRow :=
  [row 0x040 .rw 0xFFFF#32 0x14#32, row 0x048 .ro 0#32 0#32, row 0x04C .ro 0#32 0#32, row 0x050 .ro 0#32 0#32] ++
  (List.range 8).flatMap fun n => [row (0x080 + 16 * n) .rw 0xFFFFF000#32 0#32, row (0x084 + 16 * n) .rw 0x1FFFFFF#32 0#32,
    row (0x088 + 16 * n) .rw all32 0#32, row (0x08C + 16 * n) .rw 1#32 0#32]

def queueRows : List RegRow := [row 0x040 .sel 0xFFFF#32 0#32, row 0x074 .sel 0x1F3F#32 0#32]

def ledgerRows : List RegRow := [row 0x040 .sel 0xFFF#32 0#32, row 0x060 .rw 0xFFFFFF#32 0x10000#32, row 0x0C0 .sel 0x3F#32 0#32]

/-- The nine calibrated settings with their defaults, then the controller's state (R441). -/
def assayRows : List RegRow :=
  [row 0x040 .rw 0x3FFF#32 0x800#32, row 0x044 .rw 0x3FFF#32 0x2000#32, row 0x048 .rw 0x3FFF#32 0x1000#32, row 0x04C .rw 0x3FFF#32 0x3000#32,
   row 0x050 .rw 0x7F1#32 0x431#32, row 0x054 .rw 0xFFFF#32 0x290#32, row 0x058 .rw 0xFFFF#32 0x80#32, row 0x05C .rw 0x1FFF#32 0x40#32,
   row 0x060 .rw 7#32 3#32, row 0x064 .rw 1#32 0#32, row 0x068 .ro 0#32 0#32, row 0x070 .sel 0x3FF#32 0#32]

def bellRows : List RegRow :=
  [row 0x040 .sel 7#32 0#32, row 0x044 .sel 3#32 0#32, row 0x048 .sel 0x3FF#32 0#32, row 0x04C .sel 0x3F#32 0#32, row 0x050 .sel all32 0#32,
   row 0x054 .sel 0xFFFF#32 0#32, row 0x060 .rc 0#32 0#32, row 0x064 .rc 0#32 0#32, row 0x068 .sel 0xF#32 0#32, row 0x070 .sel 0x1F#32 0#32,
   row 0x07C .w1c 0xFFFF#32 0#32, row 0x080 .rw 0xFF#32 4#32, row 0x084 .rc 0#32 0#32, row 0x088 .rc 0#32 0#32, row 0x08C .sel 0x3FF#32 0#32]

def binocularRows : List RegRow :=
  [row 0x040 .ro 0#32 0#32, row 0x048 .rw 1#32 0#32, row 0x04C .rc 0#32 0#32, row 0x050 .rc 0#32 0#32, row 0x054 .ro 0#32 0#32]

def perfRows : List RegRow :=
  row 0x040 .rw 2#32 0#32 :: (List.range 21).map fun i => row (0x044 + 4 * i) .ro 0#32 0#32

def diagRows : List RegRow :=
  [row 0x040 .sel 0xFFF#32 0#32, row 0x048 .rc 0#32 0#32, row 0x04C .rc 0#32 0#32, row 0x050 .rw 0x8000070F#32 0#32, row 0x054 .rc 0#32 0#32,
   row 0x058 .ro 0#32 0#32, row 0x05C .ro 0#32 0#32, row 0x060 .ro 0#32 0#32]

def planeRows : List RegRow :=
  [row 0x040 .w1c 0xF#32 0#32, row 0x044 .rw 0xFFFFF000#32 0#32, row 0x048 .rw 0x1FFFFFF#32 0#32, row 0x04C .rw 0xFFFFFF#32 0#32]

def ringRows : List RegRow :=
  [row 0x048 .w1c 0xF#32 0#32, row 0x04C .rc 0#32 0#32, row 0x050 .rw all32 0#32, row 0x054 .rw all32 0#32, row 0x058 .ro 0#32 0#32,
   row 0x060 .rw 0xFFF#32 0x100#32, row 0x064 .rw 0xFFF#32 0x580#32, row 0x068 .rw 0xFFF#32 0x100#32, row 0x06C .rw 0xFFF#32 0x80#32,
   row 0x070 .rw 0xF#32 4#32, row 0x074 .rw 0xF#32 8#32, row 0x078 .rw 0xF#32 3#32,
   row 0x080 .rw 0x1FF#32 0x100#32, row 0x084 .rw 0x1FF#32 0x100#32, row 0x088 .rw 0x1FF#32 0x100#32, row 0x08C .rw 0x1FF#32 0x10#32,
   row 0x098 .rc 0#32 0#32, row 0x09C .rc 0#32 0#32, row 0x0A0 .ro 0#32 0#32, row 0x0A4 .ro 0#32 0#32, row 0x0A8 .ro 0#32 0#32, row 0x0AC .ro 0#32 0#32]

def topologyRows : List RegRow :=
  [row 0x040 .rw 7#32 1#32, row 0x044 .rw 0x17F#32 1#32, row 0x048 .rw 0x17F#32 1#32, row 0x04C .rw 0x17F#32 1#32, row 0x050 .rw 0x17F#32 1#32,
   row 0x054 .rw 0x3F3F3F3F#32 0#32, row 0x080 .sel 0xFF#32 0#32] ++ (List.range 8).map fun i => row (0x060 + 4 * i) .rw 0xF#32 8#32

def stallRows : List RegRow := [row 0x040 .sel 0x3FF#32 0#32]

/-- The stored registers of a page beside its header. -/
def kindRows : PageKind → List RegRow
  | .global => globalRows | .owner => ownerRows | .meridian => meridianRows | .ephemeris => ephemerisRows | .steward => stewardRows
  | .config => configRows | .errlog => errlogRows | .power => powerRows | .memport => memportRows | .queue => queueRows | .ledger => ledgerRows
  | .assay => assayRows | .bell => bellRows | .binocular => binocularRows | .perf => perfRows | .diag => diagRows | .plane => planeRows
  | .ring => ringRows | .topology => topologyRows | .stall => stallRows | .none => []

def findRow (off : Nat) : List RegRow → Option RegRow
  | [] => none
  | r :: rs => if r.off = off then some r else findRow off rs

/-- The stored register at a byte address, if there is one. -/
def regRow (addr : Nat) : Option RegRow :=
  let p := addr / 0x1000
  let off := addr % 0x1000
  if off < 0x040 then (if pageKind p = .none then none else findRow off headerRows) else findRow off (kindRows (pageKind p))

/-- The steward's copy of a `sel` register stands at this distance from the owner's (R393). -/
def stewardCopy : Nat := 0x400000

/-- What an unlisted register reads as: its reset value; BINOCULAR.STATE depends on the build and is handled where it is read. -/
def regReset (addr : Nat) : Word :=
  match regRow (addr % stewardCopy) with
  | some r => r.reset
  | none => 0#32

/-! ### Names of registers that rules mention (R395 to R444) -/

def pageBase (p : Nat) : Nat := 0x1000 * p

def rIrqRaw (p : Nat) : Nat := pageBase p + 0x010
def rIrqEnable (p : Nat) : Nat := pageBase p + 0x014
def rErrCode (p : Nat) : Nat := pageBase p + 0x01C
def rErrCount (p : Nat) : Nat := pageBase p + 0x020
def rPageCtrl (p : Nat) : Nat := pageBase p + 0x008
def pGLOBAL : Nat := 0x00
def pOWNER : Nat := 0x01
def pMERIDIAN : Nat := 0x02
def pEPHEMERIS : Nat := 0x03
def pSTEWARD : Nat := 0x04
def pCONFIG : Nat := 0x05
def pERRLOG : Nat := 0x06
def pPOWER : Nat := 0x07
def pMEMPORT : Nat := 0x08
def pQUEUE : Nat := 0x09
def pLEDGER : Nat := 0x0A
def pASSAY : Nat := 0x0B
def pBELL : Nat := 0x0C
def pBINOCULAR : Nat := 0x0D
def pPERF : Nat := 0x0E
def pDIAG : Nat := 0x0F
def pPLANE (n : Nat) : Nat := 0x10 + n
def pRING (n : Nat) : Nat := 0x18 + n
def pTOPOLOGY : Nat := 0x20
def pSTALL : Nat := 0x40
def rHEARTBEAT_WINDOW : Nat := 0x0104C
def rOFFER : Nat := 0x01050
def rOFFER_WINDOW : Nat := 0x01054
def rREJECTED : Nat := 0x01058
def rREJECT_LAST : Nat := 0x0105C
def rMER_STATE : Nat := 0x02040
def rSOURCE : Nat := 0x02048
def rTRANSIT_SHIFT : Nat := 0x0204C
def rFREE_CYCLES : Nat := 0x02050
def rINPUT_DELAY : Nat := 0x02054
def rGLITCH_CYCLES : Nat := 0x02058
def rMARK_WINDOW : Nat := 0x0205C
def rSLEW_LIMIT : Nat := 0x02060
def rBELL_LOW_LIMIT : Nat := 0x02064
def rFENCE_HIGH_LIMIT : Nat := 0x02068
def rCAL_PORT : Nat := 0x0206C
def rCAL_OFFSET : Nat := 0x02070
def rCAL_RTT : Nat := 0x02074
def rLOCK_TRANSIT_LO : Nat := 0x02088
def rFCLK_PER_EPOCH : Nat := 0x02090
def rGLITCH_COUNT : Nat := 0x02094
def rMARK_SLIP : Nat := 0x02098
def rMARK_EARLY : Nat := 0x0209C
def rCODE_ERR : Nat := 0x020A0
def rEPH_ACTIVE : Nat := 0x03040
def rENTRY_SELECT : Nat := 0x03044
def rBANK (b i : Nat) : Nat := 0x03058 + 16 * b + 4 * i
def rSWAP_AT_LO : Nat := 0x03078
def rSLOT_WAIT : Nat := 0x03084
def rOVER_THROTTLE : Nat := 0x03088
def rSTEWARD_STATE : Nat := 0x04040
def rWDOG_WINDOW : Nat := 0x0404C
def rFW_VERSION : Nat := 0x04050
def rWDOG_RESETS : Nat := 0x04054
def rGUARD_COUNT : Nat := 0x04058
def rGUARD_LAST : Nat := 0x0405C
def rCFG_STATUS : Nat := 0x05040
def rLOCK_WAIT : Nat := 0x05048
def rTRAIN_WAIT : Nat := 0x0504C
def rREC_APPLIED : Nat := 0x05050
def rREC_REFUSED : Nat := 0x05054
def rFIRST_REFUSED : Nat := 0x05058
def rTRIM_SELECT : Nat := 0x0505C
def rOVERRUN : Nat := 0x06048
def rFENCE : Nat := 0x07048
def rPLANE_PD : Nat := 0x0704C
def rIDLE_DELAY : Nat := 0x07050
def rTIMEOUT : Nat := 0x08040
def rLAST_ERR_ADDR_LO : Nat := 0x08048
def rLAST_ERR : Nat := 0x08050
def rWIN (n i : Nat) : Nat := 0x08080 + 16 * n + 4 * i
def rQ_SELECT : Nat := 0x09040
def rMASK_SELECT : Nat := 0x09074
def rL_SELECT : Nat := 0x0A040
def rWATCHDOG : Nat := 0x0A060
def rPROFILE_SELECT : Nat := 0x0A0C0
def rTH_E2M1 : Nat := 0x0B040
def rTH_E4M3 : Nat := 0x0B044
def rFLOOR_E2M1 : Nat := 0x0B048
def rFLOOR_E4M3 : Nat := 0x0B04C
def rPOLICY : Nat := 0x0B050
def rTARGET : Nat := 0x0B054
def rBAND : Nat := 0x0B058
def rSTEP : Nat := 0x0B05C
def rWINDOW : Nat := 0x0B060
def rCTL_STATE : Nat := 0x0B064
def rLAST_RATE : Nat := 0x0B068
def rALM_SELECT : Nat := 0x0B070
def rSIG_PORT : Nat := 0x0C040
def rSIG_VC : Nat := 0x0C044
def rSIG_STALL : Nat := 0x0C048
def rSIG_TALLY : Nat := 0x0C04C
def rSIG_AMOUNT : Nat := 0x0C050
def rSIG_FENCE : Nat := 0x0C054
def rSIG_REFUSED : Nat := 0x0C060
def rREMOTE_BAD : Nat := 0x0C064
def rLINE_SELECT : Nat := 0x0C068
def rLINE_MEMBER_SEL : Nat := 0x0C070
def rRANG : Nat := 0x0C07C
def rBOARD_HOLD : Nat := 0x0C080
def rCFG_REFUSED : Nat := 0x0C084
def rSTALE_MSG : Nat := 0x0C088
def rMUSTER_SELECT : Nat := 0x0C08C
def rBINO_STATE : Nat := 0x0D040
def rBINO_POLICY : Nat := 0x0D048
def rMISMATCHES : Nat := 0x0D04C
def rLATE_MISMATCHES : Nat := 0x0D050
def rSIDE_FAULT_CODE : Nat := 0x0D054
def rPERF_CTRL : Nat := 0x0E040
def rPERF (i : Nat) : Nat := 0x0E044 + 4 * i
def rREPAIR_SELECT : Nat := 0x0F040
def rECC_CORRECTED : Nat := 0x0F048
def rECC_UNCORRECTED : Nat := 0x0F04C
def rINJECT : Nat := 0x0F050
def rINJECT_COUNT : Nat := 0x0F054
def rFATAL_CODE : Nat := 0x0F058
def rFATAL_TRANSIT_LO : Nat := 0x0F05C
def rPLANE_FLAGS (p : Nat) : Nat := pageBase (pPLANE p) + 0x040
def rSPILL_BASE_LO (p : Nat) : Nat := pageBase (pPLANE p) + 0x044
def rSPILL_PAGES (p : Nat) : Nat := pageBase (pPLANE p) + 0x04C
def rRING_FLAGS (n : Nat) : Nat := pageBase (pRING n) + 0x048
def rREPLAYS (n : Nat) : Nat := pageBase (pRING n) + 0x04C
def rPHY_CFG_LO (n : Nat) : Nat := pageBase (pRING n) + 0x050
def rPHY_STAT (n : Nat) : Nat := pageBase (pRING n) + 0x058
def rCREDIT (n v : Nat) : Nat := pageBase (pRING n) + 0x060 + 4 * v
def rWEIGHT (n v : Nat) : Nat := pageBase (pRING n) + 0x070 + 4 * v
def rCAP (n v : Nat) : Nat := pageBase (pRING n) + 0x080 + 4 * v
def rLINK_CHECK_FAIL (n : Nat) : Nat := pageBase (pRING n) + 0x098
def rCHUNK_FAIL (n : Nat) : Nat := pageBase (pRING n) + 0x09C
def rTX_FLITS (n : Nat) : Nat := pageBase (pRING n) + 0x0A0
def rRX_FLITS (n : Nat) : Nat := pageBase (pRING n) + 0x0A8
def rAXES : Nat := 0x20040
def rAXIS (a : Nat) : Nat := 0x20044 + 4 * a
def rSELF : Nat := 0x20054
def rPORTMAP (n : Nat) : Nat := 0x20060 + 4 * n
def rGROUP_SELECT : Nat := 0x20080
def rSTALL_SELECT : Nat := 0x40040

end Sys2Proof.Machine
end

