-- ==== Sys2Proof/Machine/State.lean ====
section
/-! DEFINITION. The state of the block as plain data, the reasons to stop, and the state after reset. -/

namespace Sys2Proof.Machine

/-- Why the model stops on a command: the command names a port that the build does not contain, so the hardware has no such event (log 11). Safe: no behaviour of the hardware is lost. -/
inductive Fault where
  /-- Raised by commands that name a stall at or above LEAVES, or a plane that the build lacks (R16, R26). Safe. -/
  | noSuchStallPort
  /-- Raised by commands that name a ring port that the build lacks (R5, R26). Safe. -/
  | noSuchRingPort
  /-- Raised by commands that name a management port that the build lacks (R5, R26). Safe. -/
  | noSuchMgmtPort
  /-- Raised by commands that name a bell line above 15 or a board bell line above 3 (R8, R26). Safe. -/
  | noSuchBellLine
  /-- Raised by commands of binocular sides on a build with PAIRED = 0 (R5, R353). Safe. -/
  | noSuchSide
  deriving DecidableEq, Repr, Inhabited

/-- Why the model refuses a command. -/
inductive Refusal where
  /-- Raised by the dispatcher for a command without a meaning. Safe. -/
  | notModelled (mnemonic : String)
  deriving DecidableEq, Repr, Inhabited

/-- The build parameters (R5, R395): fixed, no command writes them. -/
structure Build where
  log2Leaves : Nat
  planes : Nat
  ringPorts : Nat
  chUnits : Nat
  paired : Bool
  seams : Nat
  mgmtPorts : Nat
  deriving DecidableEq, Repr, Inhabited

/-- A position in the order of one transit (R216): the class and the sub-order within it. -/
structure Place where
  cls : Nat
  key : List Nat
  deriving DecidableEq, Repr, Inhabited

/-- A fault to enter: code, class, source, the ledger struck with its operation's attempt count (R335), and the page it is attributed to where its code and source do not name that (R392, R425). -/
structure LogIn where
  code : Nat
  cls : Nat
  src : BitVec 16
  ledger : Option (Nat × Nat)
  page : Option Nat
  deriving DecidableEq, Repr, Inhabited

/-- What a memory request is for (R24). A page is named by ledger, plane, page and its number among the page's partial pages; a part of an image by its byte offset. -/
inductive Purpose where
  | descFetch (queue slot count : Nat)
  | record (queue slot : Nat)
  | partialWrite (op : OpId) (plane page idx : Nat)
  | partialRead (op : OpId) (ledger plane page idx : Nat)
  | saveWrite (op : OpId)
  | restoreRead (op : OpId) (offset : Nat)
  | sizeTable (op : OpId) (offset : Nat)
  | image (offset : Nat)
  | firmware (offset : Nat)
  deriving DecidableEq, Repr, Inhabited

/-- What a unit has found in one transit and takes effect in class 2 of the next (R215 to R217, R235): an entry; the first replay attempt of a link; a contained fault of an operation, with whether its contributions are asked again; a bad chunk of a leg that this chip does not run; a ledger-fatal fault of an operation; a failure; an error of a memory request, with the code, its identifier and address; a resynchronised meridian; a takeover from the serving side (R356); an idle side that a REPAIR has reset and that passes its self-test (R357). A bell line is due in class 3 of every transit, once all of its samples are in (R322). -/
inductive Due where
  | entry (e : LogIn)
  | retry (port : Nat)
  | contained (op : OpId) (code : BitVec 8) (src : BitVec 16) (resend : Bool)
  | relayed (port tgroup : Nat) (seq : BitVec 16)
  | fatal (op : OpId) (code : BitVec 8) (src : BitVec 16)
  | failed (op : OpId) (code : Nat) (src : BitVec 16)
  | memory (purpose : Purpose) (code id addr : Nat)
  | resynced
  | takeover (sideB : Bool)
  | repaired
  | line (n : Nat)
  deriving DecidableEq, Repr, Inhabited

/-- The pins that say whether the block runs, the transit clock, and the order of the current transit: how far it has come, the events held for the next one, what is due in class 2 of this transit and has not applied, and what this transit has found for the next. `sampled` are the inputs whose sample of this transit has been taken (R59); `addsHeld` says that the transit began with a remote ADD accepted and not applied (R330). -/
structure Clock where
  rstN : Bool
  fabReady : Bool
  fabFault : Bool
  readyNext : Bool
  phase : Nat
  phaseAt : Nat
  fclk : Nat
  now : Nat
  transit : Word64
  reached : Place
  held : List (Place × Instr)
  due : List (Place × Due)
  found : List (Place × Due)
  sampled : List Nat
  addsHeld : Bool
  throttle : BitVec 2
  fenceIn : Bool
  bellSense : BitVec 4
  fenced : Bool
  gated : Bool
  idleRun : Nat
  deriving DecidableEq, Repr, Inhabited

/-- Live state of the meridian (07): the time, the lock and calibration in progress and the stuck-line detectors. `edgeAt` is the instant, in 1/16 ns, at which the count reached or is to reach `time` at the pins (R212); `calT1` this chip's stamp of the frame that it sent last (R213); `frameEdge` the instant of reference period 72 of the last acquired epoch (R225); `reload` says that the next first edge takes its number from the time anew (R225, R229); `ratioAcc` is what the FCLK ratio has counted beyond the last boundary, in 1/16 ns times FCLK_PER_EPOCH (R226); `markEpoch` the epoch of the last accepted marker, `epochFclk` the cycle in which the epoch in progress began where it began in LOCKED (R226); `acquired` the reacquired time and its instant, `slewDiff` what a slew has still to close (R229). -/
structure Meridian where
  time : Word64
  edgeAt : Int
  delayAt : Nat
  calCount : Nat
  calTheta : Int
  calRtt : Int
  calT1 : Int
  calWaiting : Bool
  acqMark : Bool
  acqPrev : Option (BitVec 40)
  acqReady : Bool
  frameEdge : Int
  lockPending : Bool
  reload : Bool
  mismatches : Nat
  holdPeriods : Nat
  refLost : Bool
  ratioAcc : Nat
  markStuck : Option Nat
  markEpoch : Option (BitVec 40)
  epochFclk : Option Nat
  acquired : Option (Word64 × Int)
  slewDiff : Int
  bellHighRun : List Nat
  bellHighFired : List Bool
  bellLowSince : List Nat
  bellLowFired : List Bool
  fenceHighSince : Nat
  fenceHighFired : Bool
  swapAt : Option Word64
  deriving DecidableEq, Repr, Inhabited

/-- A held ownership claim (R373, R398). -/
structure Claim where
  master : Nat
  nonce : BitVec 16
  transit : Word64
  deriving DecidableEq, Repr, Inhabited

/-- The answer of a management port to an access (R63). -/
structure MgmtAnswer where
  master : Nat
  rdata : Word
  err : Bool
  deriving DecidableEq, Repr, Inhabited

/-- A request of a management port: the access until it has taken effect, and its answer from then on (R61). -/
structure MgmtReq where
  access : Option Instr
  answer : Option MgmtAnswer
  deriving DecidableEq, Repr

/-- Ownership (R373 to R375) and the mailboxes (R399). `role` is the owner as the transit began, by which its accesses are treated; `next` is an accepted handover that takes effect after them; `requests` are the requests of each management port that it has not answered, in request order, with the answers that wait for earlier ones (R61), and `answering` the place there of the request that is being carried out. -/
structure Owner where
  role : Option (Nat × Nat)
  state : Nat
  port : Nat
  master : Nat
  nonce : BitVec 16
  next : Option (Nat × Nat × BitVec 16)
  hbStart : Nat
  offerStart : Nat
  claims : Table (Option Claim)
  mailbox : Table (List Word)
  mailOver : Table Nat
  requests : Table (List MgmtReq)
  answering : Option Nat
  deriving DecidableEq, Repr, Inhabited

/-- The steward as far as the manual gives it (R369, R370, R379): its code, where it starts, its watchdog, and how often it has been started. -/
structure Steward where
  code : List Byte
  entry : Nat
  starts : Nat
  kickAt : Nat
  resetTimes : List Nat
  deriving DecidableEq, Repr, Inhabited

/-- What start-up holds between its phases (R360 to R370): the staging buffer as mailbox writes and as memory reads fill it, the next record of a valid image, the firmware as read, whether a read of the phase has failed, and the rows that self-tests found faulty, by macro. -/
structure Boot where
  trimsValid : Bool
  staging : List Word
  image : List Byte
  applying : Option Nat
  firmware : List Byte
  readBad : Bool
  testRows : List (Nat × Nat)
  deriving DecidableEq, Repr, Inhabited

/-- An entry of the error log (R335). -/
structure LogEntry where
  transit : BitVec 48
  code : BitVec 8
  cls : Nat
  source : BitVec 16
  ledger : BitVec 12
  ledgerValid : Bool
  nested : Bool
  first : BitVec 8
  attempt : BitVec 2
  deriving DecidableEq, Repr, Inhabited

/-- The error log, oldest entry first, its latched head words, the open chains by ledger and by source with their first code (R335 to R338, R407), and the attempt count of the operation that sealed last on each ledger, which a late mismatch of its output names (R335, R355). -/
structure ErrLog where
  entries : List LogEntry
  latch1 : Word
  latch2 : Word
  latch3 : Word
  ledgerChains : Table Nat
  sourceChains : Table Nat
  sealedAt : Table Nat
  deriving DecidableEq, Repr, Inhabited

/-- An outstanding memory request (R44 to R51). -/
structure MemReq where
  write : Bool
  id : Nat
  addr : Nat
  sectors : Nat
  urgent : Bool
  purpose : Purpose
  issuedAt : Nat
  got : List Byte
  poisoned : Bool
  err : Bool
  deriving DecidableEq, Repr, Inhabited

/-- A remote ADD (R316); `vc` is its channel. -/
structure RemoteAdd where
  vc : Nat
  stall : Nat
  tally : Nat
  amount : Word
  fence : BitVec 16
  deriving DecidableEq, Repr, Inhabited

/-- What a remote ADD waits for (R317, R318): on a port the DATA flits of one channel, or of every channel, up to a serial number; on a plane the beats up to a serial number. -/
inductive Path where
  | channel (port vc serial : Nat)
  | port (port serial : Nat)
  | plane (plane serial : Nat)
  deriving DecidableEq, Repr, Inhabited

/-- A received CONTROL message: its channel, the serial number of the last DATA flit before it, its payload, and what it waits for where it is a remote ADD (R302, R317). -/
structure CtlMsg where
  vc : Nat
  serial : Nat
  payload : List Byte
  waits : List Path
  deriving DecidableEq, Repr, Inhabited

/-- Part of an operation's output, as the bytes [lo, hi) of the image of a half of a piece; the empty range stands for the piece's count header (R194, R286, R317). -/
structure OutPart where
  op : OpId
  piece : Nat
  reverse : Bool
  lo : Nat
  hi : Nat
  deriving DecidableEq, Repr, Inhabited

/-- What delivers the data of a flit (R317): a part of an output has been presented, or a port has sent a number of flits of a step. -/
inductive Delivery where
  | shown (part : OutPart)
  | sent (port sid upto : Nat)
  deriving DecidableEq, Repr, Inhabited

/-- A DATA flit that has been used and is not yet delivered (R317): its serial number, its channel and what delivers it. -/
structure Shown where
  serial : Nat
  vc : Nat
  how : Delivery
  deriving DecidableEq, Repr, Inhabited

/-- An accepted remote ADD that has not applied, with what it waits for; and whether all that held before this transit began (R317, R318). -/
structure HeldAdd where
  add : RemoteAdd
  waits : List Path
  ready : Bool
  deriving DecidableEq, Repr, Inhabited

/-- A kept message of a cross-chip part: generation or attempt, phase and bitmap (R324, R327). -/
structure KeptMsg where
  gen : Nat
  phase : Nat
  bits : Nat
  deriving DecidableEq, Repr, Inhabited

/-- A bell line (R321 to R324, R414); its member mask is in the member table. `recover` are the members whose BELL_OUT has still to sample low after a SAVE's clearing before an enabled line is armed again (R331). -/
structure Line where
  cfg : Word
  gen : BitVec 16
  armed : Bool
  ondie : Bool
  boardLow : Bool
  board : Bool
  chip : Bool
  maps : List Nat
  kept : List KeptMsg
  pull : Bool
  rangAt : Option Word64
  sigWait : List (Nat × Nat)
  recover : Option (List Nat)
  deriving DecidableEq, Repr, Inhabited

/-- A leg's verdict as a cross-chip part (R305, R327). -/
structure Verdict where
  attempt : Nat
  passed : Bool
  maps : List Nat
  kept : List KeptMsg
  rung : Bool
  deriving DecidableEq, Repr, Inhabited

/-- A pending WAIT or TAKE of a tally port (R40, R444). -/
structure Pend where
  take : Bool
  idx : Nat
  arg : Word
  deriving DecidableEq, Repr, Inhabited

/-- A flit to be sent: its kind, the number of the step that a DATA flit belongs to and whether it is that step's last, its group (R301), its payload. -/
structure TxFlit where
  kind : Nat
  step : Nat
  last : Bool
  group : Nat
  payload : List Byte
  deriving DecidableEq, Repr, Inhabited

/-- A sequenced flit in the replay buffer (R295, R296). -/
structure Sent where
  seq : Nat
  vc : Nat
  body : TxFlit
  attempts : Nat
  sentAt : Nat
  deriving DecidableEq, Repr, Inhabited

/-- A tag's stream at the receiver (R286, R293): bytes not yet consumed and, where it is forwarded, bytes not yet forwarded; the flits received and those whose space is free again; and, by a flit's number in the stream from 0 on, what delivers it beyond its use here (R317). -/
structure Stream where
  vc : Nat
  bytes : List Byte
  fwd : List Byte
  onward : Bool
  flits : Nat
  freed : Nat
  last : Bool
  firstAt : Nat
  notes : List (Nat × Delivery)
  deriving DecidableEq, Repr, Inhabited

/-- A step that this chip sends (R281, R285), of the leg of a definition and number, with its own number on its port: the bytes not yet packed into flits and how far it is; of the chunk that is being sent, the part of its header that has gone, the bytes after its header still to go, and whether an injection inverts the check value that is going out (R419); and the number of its flits that have been queued. -/
structure TxStep where
  group : Nat
  seq : BitVec 16
  reverse : Bool
  step : Nat
  port : Nat
  sid : Nat
  buf : List Byte
  sentChunks : Nat
  lastQueued : Bool
  from_ : Option (Nat × Nat)
  head : List Byte
  left : Nat
  hit : Bool
  flits : Nat
  deriving DecidableEq, Repr, Inhabited

/-- The link layer of one ring port (R292 to R303). `relays` are the steps that the port sends for other chips (R276, R290); `rxCtl` holds received CONTROL messages; `undel` lists accepted DATA flits whose data has not been used: serial number, channel, stream, and `showing` those whose data is still to be presented (R317); `sigLost` are the remote ADDs, by number, that a link going DOWN left unacknowledged (R320, R330). `tags` gives the tag of every step whose first flit has been sent, `nextSid` the number of the next step (R293). `dying` is the cause for which the link goes DOWN in class 2 of the next transit; `nakOwed` a NAK to send, `nakSeen` one that was received; `lastTx` the first cycle after the last frame sent; `rr` what is left of the round for channels 0 to 2; `groupRr` the turns within channels 0 and 1 (R300, R301); `weight` and `cap` are the registers of those names as the last first edge took them (R431). -/
structure Link where
  state : Nat
  phyEnable : Bool
  phyLocked : Bool
  cause : BitVec 8
  phyCfg : Word64
  txSeq : Nat
  replay : List Sent
  retx : List Nat
  rxSeq : Nat
  discarding : Bool
  ackOwed : Bool
  nakOwed : Bool
  nakSeen : Bool
  dying : BitVec 8
  replaying : Bool
  credit : List Nat
  creditMax : List Nat
  rxOccupied : List Nat
  owed : List Nat
  advertised : List Nat
  rr : List Nat
  groupRr : List (Nat × Nat)
  sentLog : List (Nat × Nat)
  lastTx : Nat
  lastGood : Nat
  trainSent : Bool
  trainGot : Bool
  txq : List (List TxFlit)
  streams : Table (Option Stream)
  rxCtl : List CtlMsg
  sigSerial : Nat
  sigLost : List Nat
  adds : List HeldAdd
  relays : List TxStep
  undel : List (Nat × Nat × Nat)
  showing : List Shown
  rxSerial : Nat
  tags : List (Nat × Nat)
  nextSid : Nat
  weight : List Nat
  cap : List Nat
  deriving DecidableEq, Repr, Inhabited

/-- A group definition (R274, R433): its registers, the fence and LEG_SEQ. -/
structure GroupDef where
  cfg : Word
  rangeA : Word
  rangeB : Word
  fenced : Bool
  legSeq : BitVec 16
  deriving DecidableEq, Repr, Inhabited

/-- A fetched descriptor slot (R242, R248): its words and, once decoded, the code that it fails with, 0 where it passes, and the first edge of the transit of its decoding. -/
structure Fetched where
  slot : Nat
  words : List Word
  decoded : Option (BitVec 8)
  decodedAt : Nat
  deriving DecidableEq, Repr, Inhabited

/-- A queue (R237): its configuration registers and its state. Configuration words are CFG, GROUP, DESC_BASE and COMP_BASE (R435). -/
structure QueueSt where
  cfg : Word
  group : Word
  descBase : Nat
  compBase : Nat
  head : Nat
  tail : Nat
  state : Nat
  err : BitVec 8
  runs : Word
  lap : Bool
  fetched : List Fetched
  nextFetch : Nat
  nextStart : Nat
  written : List Nat
  records : List (Nat × List Byte)
  badRecords : List Nat
  disabling : Bool
  pinTarget : Nat
  deriving DecidableEq, Repr, Inhabited

/-- A pinned standing order (R261 to R263): its run number and whether it is to be unpinned after its run. -/
structure Order where
  queue : Nat
  slot : Nat
  words : List Word
  run : Nat
  unpin : Bool
  deriving DecidableEq, Repr, Inhabited

/-- A page of a ledger in one plane: spilled, in partial mode, and its partial pages' pool pages in contribution order (R155, R160, R161). -/
structure PageSt where
  spilled : Bool
  partialMode : Bool
  pool : List Nat
  deriving DecidableEq, Repr, Inhabited

/-- A ledger (R143, R145, R179): attributes, flags, contributions, accumulators by element, block words by block, pages by plane and page. -/
structure Ledger where
  state : Nat
  holder : Option OpId
  waiting : List OpId
  fmt : BitVec 4
  planes : Nat
  sat : Bool
  count : Nat
  contribs : Nat
  flags : Flags
  seed : Word64
  pos : Word
  almanac : Word
  outTscale : Word
  fault : BitVec 8
  acc : Table Word64
  blocks : Table Word64
  pages : Table PageSt
  deriving DecidableEq, Repr, Inhabited

/-- Where an operation's claim stands (R150, R164). -/
inductive ClaimSt where
  | none
  | starting
  | waiting
  | claimed
  deriving DecidableEq, Repr, Inhabited

/-- An input beat as accepted. -/
structure Beat where
  data : BitVec 512
  scale : BitVec 32
  deriving DecidableEq, Repr, Inhabited

/-- An early-use chunk of a sealed operation whose comparison ends after the seal, on a paired block (R264, R353): it is released in the first transit from the given cycle, at the place of its ledger. -/
structure LateChunk where
  op : OpId
  ledger : Nat
  stall : Nat
  chunk : Nat
  tally : Nat
  from' : Nat
  deriving DecidableEq, Repr, Inhabited

/-- What a member stall has presented on a plane for an operation (R30, R342): the attempt it is on, the attempt that the fabric asks for and whether that request is pending, the chunk and beat in progress, and the chunks complete in this attempt. -/
structure TileProg where
  attempt : Nat
  want : Nat
  asked : Bool
  chunk : Option Nat
  beat : Nat
  done : List Nat
  deriving DecidableEq, Repr, Inhabited

/-- A ring leg in progress (R279 to R291, R347). Received chunk counts are by direction and step; regions by element; statistics and images by piece; the beats of each chunk of R34 given to the crier; data channels whose restart marker is still to come, or came before the recall was applied; a recall that is to be applied, the ports it came from and those from which its echo is still to come; the first transit in which a step may start; whether the second all-gather lap of a speculative miss runs, and the halves whose first lap has ended (R206). -/
structure Leg where
  tgroup : Nat
  seq : BitVec 16
  attempt : Nat
  n : Nat
  pos : Nat
  twoWay : Bool
  wire : Nat
  started : List (Nat × Nat)
  tx : List TxStep
  got : Table Nat
  region : Table Word64
  stats : Table (List Byte)
  images : Table (List Byte)
  beatsOut : Table Nat
  delivered : List Nat
  reduced : Bool
  markers : List Nat
  marked : List Nat
  recallAt : Option (BitVec 8)
  recallFrom : List Nat
  recallEcho : List Nat
  notBefore : Word64
  relap : Bool
  lapDone : List Nat
  sizes : List Word
  deriving DecidableEq, Repr, Inhabited

/-- A beat for the down ports (R32): its plane, offset, stream, contents, receivers, its output chunk, the first FCLK cycle in which it can be presented, and its number among the beats of its plane (R318). -/
structure DnBeat where
  plane : Nat
  offset : Nat
  kind : Nat
  data : BitVec 512
  scale : BitVec 32
  dest : List Nat
  chunk : Nat
  from' : Nat
  serial : Nat
  deriving DecidableEq, Repr, Inhabited

/-- The measures of R184: `s` in units of 2^-300. -/
structure Measures where
  s : Nat
  amax : Word
  nfInf : Bool
  nfNan : Bool
  deriving DecidableEq, Repr, Inhabited

/-- What an operation has taken at its claim (R167, R190, R201): profile words, thresholds, policy, rotation, almanac entry and prediction. -/
structure Copies where
  profile : List Word
  thE2m1 : Nat
  thE4m3 : Nat
  policy : Word
  rot : Bool
  predA : Int
  predU : Int
  deriving DecidableEq, Repr, Inhabited

/-- The egress of an operation (R166 to R208): next element, the factors in use, measures, form counts, patch entries and how many of their beats have gone to the crier, flags, the cycle in which the measures became complete or the output was recalled, and the outcome of the comparison. -/
structure Egress where
  next : Nat
  a : Int
  u : Int
  spec : Bool
  meas : Measures
  nForm1 : Nat
  nForm2 : Nat
  nForm3 : Nat
  nDecided : Nat
  nOutlier : Nat
  rotated : Bool
  patch : List Byte
  patchOut : Nat
  flags : Flags
  ended : Bool
  endedAt : Nat
  chunkOut : List (Nat × Nat × Nat)
  released : List (Nat × Nat)
  measAt : Nat
  compared : Option Bool
  trueAU : Option (Int × Int)
  reEmit : Bool
  recallDue : Bool
  shown : Bool
  deriving DecidableEq, Repr, Inhabited

/-- A SAVE or RESTORE in progress (R178 to R180): the area, the ledgers that it holds, the next offset to transfer, and the requests outstanding. -/
structure SaveSt where
  area : List Byte
  entries : Nat
  next : Nat
  issued : Nat
  built : Bool
  headerSent : Bool
  done : Bool
  deriving DecidableEq, Repr, Inhabited

/-- An operation that has started and has not sealed or failed (R253 to R258, R343, R348). `doneAt` is the cycle of its comparison or of its leg's verdict, from which its seal waits (R255); `replay` is a replay that is due and whether it asks the contributors again; `blocks0` the ledger's block words before the claim (R149); `sizesPending` an ALLTOALL whose size table is still being read (R290); `hit` is the first code of its ledger's chain once an entry of a contained or ledger-fatal fault has named it, and 0 before (R338); `legFlags` are the flags of its leg's reduce-scatter, which a re-emission keeps (R140, R206); `passed` are the beats of a selection or of a copy that have passed the exchange (R14, R15); `down` are the output beats that it has computed and the crier has not presented (R35, R259). -/
structure Op where
  id : OpId
  d : List Word
  members : List Nat
  maskGroup : Bool
  planes : Nat
  startT : Word64
  startCls : Nat
  creditOnly : Bool
  entryBad : Bool
  pos : Word
  claim : ClaimSt
  cop : Copies
  firstContrib : Bool
  upOpen : List Nat
  upDone : List Nat
  upHold : List Nat
  prog : Table TileProg
  beats : Table (Option Beat)
  summed : Table Nat
  passed : Table Nat
  limbs : Table (Option Word64)
  fresh : Table (Option Word64)
  freshFlags : Flags
  shadow : List (Nat × Nat)
  staging : List (Nat × Nat)
  regionPages : List (Nat × Nat)
  poolPages : List (Nat × Nat × Nat)
  partWritten : List (Nat × Nat)
  folded : Table Word64
  foldBuf : List (Nat × Nat × Nat × List Byte)
  foldDone : Bool
  addAt : Nat
  doneAt : Nat
  added : Bool
  blocks0 : Table Word64
  sizesPending : Bool
  eg : Egress
  leg : Option Leg
  save : Option SaveSt
  attempt : Nat
  struck : Option Word64
  replay : Option Bool
  comparing : Bool
  idle : Nat
  progress : Bool
  recalled : Bool
  replayed : Bool
  hit : Nat
  legFlags : Flags
  down : List DnBeat
  spilled : Bool
  fail : Option (BitVec 8 × Word64)
  deriving DecidableEq, Repr, Inhabited

/-- One stall's boundary (R43, R257, R444): bell lines and counts are in registers; here the lines as sampled and driven and the tags being discarded. -/
structure StallSt where
  bellOut : BitVec 16
  bellIn : BitVec 16
  bellLow : BitVec 16
  pend : Option Pend
  upValid : BitVec 8
  upBeats : Word
  dnBeats : Word
  discarded : Word
  badIndex : Word
  dropTags : List (Nat × Nat × Nat)
  deriving DecidableEq, Repr, Inhabited

/-- A recall cycle that waits for its turn on a plane: its tag, the stalls at which it asks for a RESEND, and those at which it only recalls (R35, R341). -/
structure RecallCyc where
  tag : Nat
  resend : List Nat
  recallOnly : List Nat
  deriving DecidableEq, Repr, Inhabited

/-- A plane (R14, R33, R162, R259, R380, R383, R384): its power state as R409 codes it, requests that act in class 1 of the next transit, its pool pages in use, the first FCLK cycle in which its down ports are free, the recall cycles that wait, the beats that its crier has queued so far, the operation whose beat went last, the first cycle in which its exchange is free, and for each forwarding weigh-house the child whose turn is next. -/
structure PlaneSt where
  power : Nat
  pdNext : Option Bool
  pool : List Nat
  dnNext : Nat
  recalls : List RecallCyc
  queued : Nat
  lastDn : Option OpId
  exchNext : Nat
  nextChild : Table Nat
  deriving DecidableEq, Repr, Inhabited

/-- What the block has presented on its ports, oldest first (log 7). -/
inductive PortOut where
  | dn (stalls : List Nat) (plane tag offset kind : Nat) (data : BitVec 512) (scale : BitVec 32) (at' : Nat)
  | dnRecall (stalls : List Nat) (plane tag : Nat) (resend : Bool)
  | tlyAck (stall : Nat) (rdata : Word) (stat : Nat)
  | memRead (id addr sectors hint : Nat) (urgent : Bool)
  | memWrite (id addr sectors hint : Nat)
  | memWData (data : BitVec 1024) (sectors : BitVec 4) (last : Bool)
  | flit (port : Nat) (bytes : List Byte)
  | trainFlit (port : Nat) (info : TrainInfo)
  | timeFrame (port : Nat) (t1 : Int)
  | timeAnswer (port : Nat) (t2 t3 : Int)
  | mgmtRsp (port master : Nat) (rdata : Word) (err : Bool)
  | stewardRsp (rdata : Word)
  | trimRead (addr : Nat)
  deriving DecidableEq, Repr, Inhabited

/-- Indexed tables that software writes word by word, keyed by object and word. -/
structure Tabs where
  trims : Table Word
  ephemeris : Table Word
  masks : Table Word
  profiles : Table Word
  musters : Table Word
  lineMembers : Table Word
  almanac : Table Word
  tallies : Table Word
  deriving DecidableEq, Repr, Inhabited

/-- The state of the block. `ops` stand in the order of their starts; `setNow` are the bits that events of the current transit have set in each register (R11, R391); `late` are chunk releases that outlive their operation; `memLate` are requests that timed out or were given up and that the memory system has not answered; `pageWait` holds the page requests that wait, oldest first, with the planes that each asks (R164); `counts` is what the PERF counters take at the next first edge, by counter (R417). -/
structure State where
  build : Build
  clock : Clock
  regs : Table Word
  hiLatch : Table (Option Word)
  setNow : Table Word
  tabs : Tabs
  mer : Meridian
  owner : Owner
  steward : Steward
  boot : Boot
  log : ErrLog
  mem : List MemReq
  memLate : List MemReq
  lines : Table Line
  verdicts : Table Verdict
  links : Table Link
  groups : Table GroupDef
  queues : Table QueueSt
  orders : List Order
  ledgers : Table Ledger
  ops : List Op
  late : List LateChunk
  pageWait : List (OpId × List Nat)
  stalls : Table StallSt
  planes : Table PlaneSt
  assayWin : List (Nat × Nat)
  counts : Table Nat
  injected : Option Word
  out : List PortOut
  pending : List Instr
  deriving DecidableEq, Repr, Inhabited

/-! ### What an unlisted key of each table reads as: the value after reset -/

def Place.start : Place := ⟨0, []⟩

def Line.idle : Line := ⟨0#32, 0#16, false, false, false, false, false, [0, 0, 0, 0], [], true, none, [], none⟩

def Verdict.idle : Verdict := ⟨0, false, [0, 0, 0, 0], [], false⟩

def Link.down : Link :=
  { state := 0, phyEnable := false, phyLocked := false, cause := 0#8, phyCfg := 0#64, txSeq := 0, replay := [], retx := [],
    rxSeq := 4095, discarding := false, ackOwed := false, nakOwed := false, nakSeen := false, dying := 0#8, replaying := false, credit := [0, 0, 0, 0], creditMax := [0, 0, 0, 0],
    rxOccupied := [0, 0, 0, 0], owed := [0, 0, 0, 0], advertised := [0, 0, 0, 0], rr := [0, 0, 0], groupRr := [], sentLog := [], lastTx := 0, lastGood := 0,
    trainSent := false, trainGot := false, txq := [[], [], [], []], streams := [], rxCtl := [], sigSerial := 0, sigLost := [], adds := [], relays := [], undel := [], showing := [], rxSerial := 0, tags := [], nextSid := 0, weight := [4, 8, 3], cap := [256, 256, 256, 16] }

def GroupDef.clear : GroupDef := ⟨0#32, 0#32, 0#32, false, 0#16⟩

def QueueSt.idle : QueueSt :=
  { cfg := 0#32, group := 0#32, descBase := 0, compBase := 0, head := 0, tail := 0, state := 0, err := 0#8, runs := 0#32, lap := false,
    fetched := [], nextFetch := 0, nextStart := 0, written := [], records := [], badRecords := [], disabling := false, pinTarget := 0 }

def PageSt.resident : PageSt := ⟨false, false, []⟩

def Ledger.free : Ledger :=
  { state := 0, holder := none, waiting := [], fmt := 0#4, planes := 0, sat := false, count := 0, contribs := 0, flags := 0#4, seed := 0#64,
    pos := 0#32, almanac := 0#32, outTscale := 0#32, fault := 0#8, acc := [], blocks := [], pages := [] }

def TileProg.fresh : TileProg := ⟨0, 0, false, none, 0, []⟩

def StallSt.quiet : StallSt := ⟨0#16, 0#16, 0#16, none, 0#8, 0#32, 0#32, 0#32, 0#32, []⟩

def PlaneSt.on : PlaneSt := ⟨0, none, [], 0, [], 0, none, 0, []⟩

/-- The reference configuration (R5): the build that the model's reset state has (log 1). -/
def Build.reference : Build := ⟨8, 4, 8, 4, false, 0, 4⟩

/-- A block of the given build held in reset (R69, R309, R332, R395 to R444): RST_N low, every register at its reset value, all state cleared. A paired build resets to PAIRED with side A serving (R353, R416). -/
def State.resetOf (b : Build) : State :=
  { build := b
    clock := ⟨false, false, false, false, 1, 0, 0, 0, 0#64, Place.start, [], [], [], [], false, 0#2, false, 0#4, false, false, 0⟩
    regs := if b.paired then [(0x0D040, 1#32)] else []
    hiLatch := []
    setNow := []
    tabs := ⟨[], [], [], [], [], [], [], []⟩
    mer := ⟨0#64, 0, 0, 0, 0, 0, 0, false, false, none, false, 0, false, false, 0, 0, false, 0, none, none, none, none, 0, [0, 0, 0, 0], [false, false, false, false],
      [0, 0, 0, 0], [false, false, false, false], 0, false, none⟩
    owner := ⟨none, 0, 0, 0, 0#16, none, 0, 0, [], [], [], [], none⟩
    steward := ⟨[], 0, 0, 0, []⟩
    boot := ⟨false, [], [], none, [], false, []⟩
    log := ⟨[], 0#32, 0#32, 0#32, [], [], []⟩
    mem := [], memLate := [], lines := [], verdicts := [], links := [], groups := [], queues := [], orders := [], ledgers := [], ops := [], late := [], pageWait := [],
    stalls := [], planes := [], assayWin := [], counts := [], injected := none, out := [], pending := [] }

/-- The block right after reset: the reference configuration, RST_N low. -/
def State.reset : State := State.resetOf Build.reference

end Sys2Proof.Machine
end

