-- ==== Sys2Proof/Machine/Ops.lean ====
section
/-! DEFINITION. Named operations over the state that every unit shares: tables, registers, counters, interrupts, the error log, flags, the port journal, and the order of one transit. -/

namespace Sys2Proof.Machine

/-! ### Tables: sparse data in one canonical form -/

/-- The value at a key; an unlisted key reads as `d`. -/
def tget {α : Type} (d : α) (k : Nat) : Table α → α
  | [] => d
  | (k', v) :: t => if k = k' then v else tget d k t

/-- Insert or replace, keeping keys rising; writing the value an unlisted key reads as removes the entry. -/
def tset {α : Type} [DecidableEq α] (d : α) (k : Nat) (v : α) : Table α → Table α
  | [] => if v = d then [] else [(k, v)]
  | (k', v') :: t =>
    if k < k' then (if v = d then (k', v') :: t else (k, v) :: (k', v') :: t)
    else if k = k' then (if v = d then t else (k, v) :: t)
    else (k', v') :: tset d k v t

/-- Every key of the table lies above `k`. -/
def keysAbove {α : Type} (k : Nat) (t : Table α) : Bool := t.all fun p => decide (k < p.1)

/-- The canonical form where an unlisted key `k` reads as `d k`: keys strictly rising, no entry equal to what its key would read as unlisted. -/
def tableWfBy {α : Type} [DecidableEq α] (d : Nat → α) : Table α → Bool
  | [] => true
  | (k, v) :: t => keysAbove k t && !decide (v = d k) && tableWfBy d t

/-- The canonical form where every unlisted key reads as `d`. -/
def tableWf {α : Type} [DecidableEq α] (d : α) (t : Table α) : Bool := tableWfBy (fun _ => d) t

/-- Apply a function to the value at a key. -/
def tupd {α : Type} [DecidableEq α] (d : α) (k : Nat) (f : α → α) (t : Table α) : Table α := tset d k (f (tget d k t)) t

/-! ### The build -/

def leaves (b : Build) : Nat := 2 ^ b.log2Leaves

/-- 4 KiB pages in one plane's share (R155). -/
def sharePages (b : Build) : Nat := b.chUnits * 16 * 256 / b.planes

def hasPlane (p : Nat) (s : State) : Bool := decide (p < s.build.planes)
def hasStall (n : Nat) (s : State) : Bool := decide (n < leaves s.build)
def hasPort (n : Nat) (s : State) : Bool := decide (n < s.build.ringPorts)

/-- Set bits of a plane mask, lowest first (R20). -/
def planesOf (mask : Nat) : List Nat := (List.range 8).filter fun p => mask.testBit p

/-! ### Registers -/

/-- The stored word of a register. -/
def reg (a : Nat) (s : State) : Word := tget (regReset a) a s.regs

def setReg (a : Nat) (v : Word) (s : State) : State := { s with regs := tset (regReset a) a v s.regs }

def regNat (a : Nat) (s : State) : Nat := (reg a s).toNat

/-- A counter that stops at 0xFFFF_FFFF (R388, R400, R417). -/
def satAdd (w : Word) (n : Nat) : Word := if w.toNat + n ≥ 0xFFFFFFFF then 0xFFFFFFFF#32 else w + BitVec.ofNat 32 n

def count (a : Nat) (n : Nat) (s : State) : State := setReg a (satAdd (reg a s) n) s

/-- Set bits of a register by an event; a clearing write of the same transit leaves them set (R11, R391). -/
def orReg (a : Nat) (v : Word) (s : State) : State :=
  { setReg a (reg a s ||| v) s with setNow := tset 0#32 a (tget 0#32 a s.setNow ||| v) s.setNow }

/-- A W1C write: bits written 1 clear, except those that an event of this transit set (R11, R391). -/
def clearBits (a : Nat) (v : Word) (s : State) : State := setReg a (reg a s &&& ~~~(v &&& ~~~(tget 0#32 a s.setNow))) s

def bit (i : Nat) : Word := BitVec.ofNat 32 (2 ^ i)

/-- A 64-bit quantity held as a low and a high word (R10). -/
def reg64 (a : Nat) (s : State) : Word64 := reg (a + 4) s ++ reg a s

def setReg64 (a : Nat) (v : Word64) (s : State) : State :=
  setReg (a + 4) (v.extractLsb' 32 32) (setReg a (v.extractLsb' 0 32) s)

/-- An interrupt cause sets its bit whatever the enables hold (R391). -/
def irq (page b : Nat) (s : State) : State := orReg (rIrqRaw page) (bit b) s

/-- The page's interrupt is asserted: some cause is set and enabled (R391). -/
def irqAsserted (page : Nat) (s : State) : Bool := (reg (rIrqRaw page) s &&& reg (rIrqEnable page) s) != 0#32

/-- PERF counters advance unless FREEZE is set; reaching the stop raises the page's cause (R417, R420). -/
def perf (i n : Nat) (s : State) : State :=
  if bitOf (reg rPERF_CTRL s) 1 || n == 0 then s
  else
    let old := reg (rPERF i) s
    let s := count (rPERF i) n s
    if old != 0xFFFFFFFF#32 && reg (rPERF i) s == 0xFFFFFFFF#32 then irq pPERF 0 s else s

/-- A 64-bit PERF pair counts modulo 2^64 (R417); `i` is the index of its low word. -/
def perf64 (i n : Nat) (s : State) : State :=
  if bitOf (reg rPERF_CTRL s) 1 then s else setReg64 (rPERF i) (reg64 (rPERF i) s + BitVec.ofNat 64 n) s

/-- What happens within a transit counts from the next first edge on (R417). -/
def perfLater (i n : Nat) (s : State) : State := { s with counts := tset 0 i (tget 0 i s.counts + n) s.counts }

/-- Places of the PERF counters (R417). -/
def pcLedgerWait : Nat := 0
def pcInflightWait : Nat := 1
def pcRun : Nat := 2
def pcIdle : Nat := 3
def pcFenced : Nat := 4
def pcThrottled : Nat := 5
def pcStarted : Nat := 6
def pcSeals : Nat := 7
def pcFails : Nat := 8
def pcRecalls : Nat := 9
def pcReplays : Nat := 10
def pcPartWritten : Nat := 11
def pcPartRead : Nat := 12
def pcRdSectors : Nat := 13
def pcWrSectors : Nat := 15
def pcExchBeats : Nat := 17
def pcDnBeats : Nat := 19

/-- The counters advance at a first edge by what the transit has counted (R417). -/
def countsEdge (s : State) : State :=
  s.counts.foldl (fun s x => if x.1 < pcRdSectors then perf x.1 x.2 s else perf64 x.1 x.2 s) { s with counts := [] }

/-! ### Fault injection on what the ports send (R419) -/

/-- The occasion of an armed injection of this kind and instance has come: what its port sends next is altered. -/
def injects (kind inst : Nat) (s : State) : Bool :=
  match s.injected with
  | none => false
  | some w => w == reg rINJECT s && bitOf w 31 && fieldOf w 0 4 == kind && fieldOf w 8 3 == inst

/-- An injection fires: ARMED clears, it counts, and DIAG interrupts (R418 to R420). -/
def fireInjection (s : State) : State :=
  let s := irq pDIAG 0 (count rINJECT_COUNT 1 (setReg rINJECT (reg rINJECT s &&& 0x7FFFFFFF#32) s))
  { s with injected := none }

/-- Four bytes at an offset inverted. -/
def invert4 (at' : Nat) (b : List Byte) : List Byte := sliceB b 0 at' ++ (sliceB b at' 4).map (~~~ ·) ++ b.drop (at' + 4)

/-! ### Ports -/

/-- Append to the journal of what the ports presented (log 7). -/
def present (o : PortOut) (s : State) : State := { s with out := s.out ++ [o] }

/-! ### Units of the state -/

def ledgerAt (l : Nat) (s : State) : Ledger := tget Ledger.free l s.ledgers
def setLedger (l : Nat) (v : Ledger) (s : State) : State := { s with ledgers := tset Ledger.free l v s.ledgers }
def queueAt (q : Nat) (s : State) : QueueSt := tget QueueSt.idle q s.queues
def setQueue (q : Nat) (v : QueueSt) (s : State) : State := { s with queues := tset QueueSt.idle q v s.queues }
def linkAt (n : Nat) (s : State) : Link := tget Link.down n s.links
def setLink (n : Nat) (v : Link) (s : State) : State := { s with links := tset Link.down n v s.links }
def groupAt (g : Nat) (s : State) : GroupDef := tget GroupDef.clear g s.groups
def setGroup (g : Nat) (v : GroupDef) (s : State) : State := { s with groups := tset GroupDef.clear g v s.groups }
def stallAt (n : Nat) (s : State) : StallSt := tget StallSt.quiet n s.stalls
def setStall (n : Nat) (v : StallSt) (s : State) : State := { s with stalls := tset StallSt.quiet n v s.stalls }
def planeAt (p : Nat) (s : State) : PlaneSt := tget PlaneSt.on p s.planes
def setPlane (p : Nat) (v : PlaneSt) (s : State) : State := { s with planes := tset PlaneSt.on p v s.planes }
def lineAt (n : Nat) (s : State) : Line := tget Line.idle n s.lines
def setLine (n : Nat) (v : Line) (s : State) : State := { s with lines := tset Line.idle n v s.lines }
def verdictKey (tgroup : Nat) (seq : BitVec 16) : Nat := tgroup * 65536 + seq.toNat
def verdictAt (k : Nat) (s : State) : Verdict := tget Verdict.idle k s.verdicts
def setVerdict (k : Nat) (v : Verdict) (s : State) : State := { s with verdicts := tset Verdict.idle k v s.verdicts }

/-- Tally t of a stall (R309). -/
def tallyKey (stall t : Nat) : Nat := stall * 64 + t
def tally (stall t : Nat) (s : State) : Word := tget 0#32 (tallyKey stall t) s.tabs.tallies
def setTally (stall t : Nat) (v : Word) (s : State) : State :=
  { s with tabs := { s.tabs with tallies := tset 0#32 (tallyKey stall t) v s.tabs.tallies } }
/-- Addition modulo 2^32, no flag and no error (R309). -/
def addTally (stall t : Nat) (a : Word) (s : State) : State := setTally stall t (tally stall t s + a) s

/-- Bits of a word table as a set of numbers (MEMBERS, the mask table). -/
def bitsOfTable (t : Table Word) (base n : Nat) : List Nat :=
  (List.range n).filter fun i => (tget 0#32 (base + i / 32) t).getLsbD (i % 32)

/-- The member stalls of a bell line (R321). -/
def lineMembers (n : Nat) (s : State) : List Nat := bitsOfTable s.tabs.lineMembers (32 * n) (leaves s.build)

/-- The stalls of a mask table entry (R250). -/
def maskStalls (e : Nat) (s : State) : List Nat := bitsOfTable s.tabs.masks (32 * e) (leaves s.build)

/-! ### Operations -/

def findOp (id : OpId) : List Op → Option Op
  | [] => none
  | o :: os => if o.id = id then some o else findOp id os

def opAt (id : OpId) (s : State) : Option Op := findOp id s.ops

def replaceOp (o : Op) : List Op → List Op
  | [] => []
  | p :: ps => if p.id = o.id then o :: ps else p :: replaceOp o ps

def setOp (o : Op) (s : State) : State := { s with ops := replaceOp o s.ops }

def removeOp (id : OpId) (s : State) : State := { s with ops := s.ops.filter fun o => o.id != id }

def modOp (id : OpId) (f : Op → Op) (s : State) : State :=
  match opAt id s with
  | none => s
  | some o => setOp (f o) s

/-- Run on the named operation; a name that no started operation bears changes nothing (log 2). -/
def withOp (id : OpId) (f : Op → State → State) (s : State) : State :=
  match opAt id s with
  | none => s
  | some o => f o s

/-! ### Meridian, power and steward state as other units read them -/

/-- MERIDIAN.STATE.STATE (R224). -/
def merState (s : State) : Nat := fieldOf (reg rMER_STATE s) 0 3

/-- Gating by the ephemeris is on in LOCKED and HOLDOVER (R224). -/
def gatingOn (s : State) : Bool := merState s == 2 || merState s == 3

/-- POWER.STATE.STATE: FENCED takes precedence over IDLE (R380). -/
def powerState (s : State) : Nat := if s.clock.fenced then 2 else if s.clock.gated then 1 else 0

/-- PLANE_STATE of a plane (R409). -/
def planePower (p : Nat) (s : State) : Nat := if hasPlane p s then (planeAt p s).power else 1

/-- BINOCULAR.STATE.STATE (R416): 0 unpaired, 1 PAIRED, 2 SINGLE_A, 3 SINGLE_B. -/
def binoState (s : State) : Nat := fieldOf (reg rBINO_STATE s) 0 2
def setBinoState (n : Nat) (s : State) : State := setReg rBINO_STATE ((reg rBINO_STATE s &&& ~~~3#32) ||| BitVec.ofNat 32 n) s
/-- The sides compare their outputs (R353). -/
def binoPaired (s : State) : Bool := binoState s == 1

/-- STEWARD.STATE.STATE (R404): 0 OFF, 1 RUNNING, 2 HELD. -/
def stewardState (s : State) : Nat := fieldOf (reg rSTEWARD_STATE s) 0 2
def setStewardState (n : Nat) (s : State) : State := setReg rSTEWARD_STATE ((reg rSTEWARD_STATE s &&& ~~~3#32) ||| BitVec.ofNat 32 n) s
def stewardRuns (s : State) : Bool := stewardState s == 1

/-- The block serves: out of reset, no fabric-fatal fault (R351). -/
def alive (s : State) : Bool := s.clock.rstN && !s.clock.fabFault

/-- Descriptors start and the stall ports run from FAB_READY (R359). -/
def serving (s : State) : Bool := alive s && s.clock.fabReady

/-! ### The error log (R333 to R338, R392, R425) -/

def clsNotice : Nat := 0
def clsCorrectable : Nat := 1
def clsContained : Nat := 2
def clsLedgerFatal : Nat := 3
def clsFabricFatal : Nat := 4

/-- SOURCE: unit kind and instance (R336). -/
def source (kind inst : Nat) : BitVec 16 := BitVec.ofNat 16 (kind * 4096 + inst)

/-- The page a code is attributed to; `src` gives the instance for planes and rings (R392, R425). -/
def codePage (code : Nat) (src : BitVec 16) : Nat :=
  let kind := src.toNat / 4096
  let inst := src.toNat % 4096
  if 0x10 ≤ code ∧ code ≤ 0x18 then pMERIDIAN
  else if 0x19 ≤ code ∧ code ≤ 0x1B then pEPHEMERIS
  else if code = 0x29 then pTOPOLOGY
  else if (0x20 ≤ code ∧ code ≤ 0x2A) ∨ code = 0x30 then pRING inst
  else if 0x31 ≤ code ∧ code ≤ 0x33 then (if kind = 1 then pPLANE inst else pLEDGER)
  else if code = 0x34 ∨ code = 0x35 ∨ (0x50 ≤ code ∧ code ≤ 0x57) then pLEDGER
  else if (0x40 ≤ code ∧ code ≤ 0x48) ∨ (0x58 ≤ code ∧ code ≤ 0x5F) then pQUEUE
  else if 0x60 ≤ code ∧ code ≤ 0x65 then pMEMPORT
  else if 0x70 ≤ code ∧ code ≤ 0x75 then pSTEWARD
  else if 0x80 ≤ code ∧ code ≤ 0x85 then pBINOCULAR
  else if 0x90 ≤ code ∧ code ≤ 0x97 then pCONFIG
  else if code = 0x98 ∨ code = 0x99 then pPOWER
  else if 0xA0 ≤ code ∧ code ≤ 0xA2 then pOWNER
  else pGLOBAL

/-- The page of an entry: the one that it names, or that of its code. -/
def entryPage (e : LogIn) : Nat := e.page.getD (codePage e.code e.src)

/-- Interrupt causes that a code raises on its page (R420, R426). -/
def codeIrq (code : Nat) (page : Nat) (s : State) : State :=
  if page = pMERIDIAN then (if code ≤ 0x15 then irq page 3 s else irq page 2 s)
  else if page = pEPHEMERIS then irq page (code - 0x18) s
  else if page = pTOPOLOGY then irq page 1 s
  else if 0x18 ≤ page ∧ page < 0x20 then
    (if code = 0x20 then irq page 1 s
     else if code = 0x21 ∨ code = 0x22 ∨ code = 0x23 ∨ code = 0x2A then irq page 2 s
     else if code = 0x30 then irq page 3 s
     else if code = 0x24 then irq page 4 s else s)
  else if 0x10 ≤ page ∧ page < 0x18 then irq page 1 s
  else if page = pQUEUE then (if code = 0x5C then irq page 1 s else irq page 2 s)
  else if page = pLEDGER then (if code = 0x35 then irq page 1 s else if 0x50 ≤ code then irq page 2 s else s)
  else if page = pMEMPORT then (if code = 0x63 then irq page 1 s else irq page 0 s)
  else if page = pSTEWARD then (if code ≤ 0x73 then irq page 2 s else if code = 0x74 then irq page 0 s else s)
  else if page = pBINOCULAR then
    (if code = 0x80 ∨ code = 0x84 then irq page 0 s else if code = 0x82 then irq page 1 s else if code = 0x85 then irq page 3 s else s)
  else if page = pCONFIG then (if code = 0x97 then irq page 0 s else s)
  else if page = pPOWER then (if code = 0x99 then irq page 3 s else s)
  else if page = pOWNER then (if code = 0xA0 then irq page 0 s else if code = 0xA1 then s else irq page 4 s)
  else s

/-- The entry begins a lasting condition of its source: a replay attempt, a side fault, or what moves the meridian out of LOCKED, which it is still in as the entry enters (R338). -/
def lastingChain (src : BitVec 16) (code : Nat) (s : State) : Bool :=
  let kind := src.toNat / 4096
  (kind == 2 && code == 0x20) || (kind == 8 && code == 0x82) || (kind == 4 && decide (0x10 ≤ code ∧ code ≤ 0x13) && merState s == 2)

/-- First code of the chain that an entry belongs to, or none where it opens one (R338). -/
def chainOf (e : LogIn) (s : State) : Nat :=
  match e.ledger with
  | some (l, _) => tget 0 l s.log.ledgerChains
  | none => tget 0 e.src.toNat s.log.sourceChains

/-- The entry with its chain fields (R335, R338); a 0x34 has NESTED set even where the attempts before it entered nothing here (R344, log 24). -/
def entryOf (e : LogIn) (s : State) : LogEntry :=
  let c := chainOf e s
  { transit := s.clock.transit.extractLsb' 0 48, code := BitVec.ofNat 8 e.code, cls := e.cls, source := e.src,
    ledger := BitVec.ofNat 12 (match e.ledger with | some (l, _) => l | none => 0)
    ledgerValid := e.ledger.isSome, nested := decide (c ≠ 0 ∨ e.code = 0x34), first := BitVec.ofNat 8 (if c = 0 then e.code else c)
    attempt := BitVec.ofNat 2 (match e.ledger with | some (_, a) => a | none => 0) }

/-- Open the entry's chain where it opens one that lasts (R338). -/
def openChain (e : LogIn) (s : State) : State :=
  if chainOf e s ≠ 0 then s
  else match e.ledger with
    | some (l, _) =>
      if e.cls = clsContained ∨ e.cls = clsLedgerFatal then
        { s with log := { s.log with ledgerChains := tset 0 l e.code s.log.ledgerChains } } else s
    | none =>
      if lastingChain e.src e.code s then { s with log := { s.log with sourceChains := tset 0 e.src.toNat e.code s.log.sourceChains } } else s

def closeLedgerChain (l : Nat) (s : State) : State := { s with log := { s.log with ledgerChains := tset 0 l 0 s.log.ledgerChains } }
def closeSourceChain (src : BitVec 16) (s : State) : State :=
  { s with log := { s.log with sourceChains := tset 0 src.toNat 0 s.log.sourceChains } }

/-- Attribution: PAGE_ERR_CODE and PAGE_ERR_COUNT of the code's page, and of ERRLOG, which counts every entry (R392). -/
def attribute_ (e : LogIn) (s : State) : State :=
  let p := entryPage e
  let s := count (rErrCount p) 1 (setReg (rErrCode p) (BitVec.ofNat 32 e.code) s)
  count (rErrCount pERRLOG) 1 (setReg (rErrCode pERRLOG) (BitVec.ofNat 32 e.code) s)

/-- An entry of the transit that comes after the given one in the order of class 2: that of a 0x34, which enters at the place of the fault that it replaces, is not given by the order of the places (R335, R344). -/
def entersAfter (e x : LogEntry) : Bool :=
  x.transit == e.transit &&
    ((x.code == 0x34#8 && decide (0x30#8 ≤ e.code) && (decide (e.code < 0x34#8) || (e.code == 0x34#8 && decide (e.source < x.source)))) || (e.code == 0x34#8 && decide (0x34#8 < x.code ∧ x.code ≤ 0x83#8)))

/-- The log with a new entry, before those of its transit that come after it. -/
def entriesWith (e : LogEntry) (l : List LogEntry) : List LogEntry :=
  let n := l.length - (l.reverse.takeWhile (entersAfter e)).length
  l.take n ++ e :: l.drop n

/-- The log takes the entry, or overrun discards it (R337). -/
def logPush (e : LogEntry) (s : State) : State :=
  let n := s.log.entries.length
  let room := decide (n < 31) || (e.cls == clsFabricFatal && decide (n < 32))
  if room then
    let s := { s with log := { s.log with entries := entriesWith e s.log.entries } }
    let s := if n = 0 then irq pERRLOG 0 s else s
    let s := if e.cls = clsContained then irq pERRLOG 2 s else s
    let s := if e.cls = clsLedgerFatal then irq pERRLOG 3 s else s
    if e.cls = clsFabricFatal then irq pERRLOG 4 s else s
  else
    let s := if reg rOVERRUN s != 0xFFFFFFFF#32 then irq pERRLOG 1 (count rOVERRUN 1 s) else s
    if e.cls = clsFabricFatal then irq pERRLOG 4 s else s

/-- A fault enters the error log with its class, source and chain fields (R335 to R338), its page and interrupts (R392, R420, R425, R426). -/
def logFault (e : LogIn) (s : State) : State :=
  let ent := entryOf e s
  let s := openChain e s
  let s := logPush ent s
  let s := attribute_ e s
  codeIrq e.code (entryPage e) s

/-- A NOTICE without a ledger. -/
def notice (code : Nat) (src : BitVec 16) (s : State) : State := logFault ⟨code, clsNotice, src, none, none⟩ s

/-- A NOTICE that names a ledger. -/
def noticeLedger (code : Nat) (src : BitVec 16) (l attempt : Nat) (s : State) : State :=
  logFault ⟨code, clsNotice, src, some (l, attempt), none⟩ s

/-! ### Sticky flags (R110, R111) -/

/-- Raise flags of a plane; its interrupt marks a bit that changed from 0 to 1 (R426). -/
def raisePlane (p : Nat) (f : Flags) (s : State) : State :=
  if f = fNone then s
  else
    let old := reg (rPLANE_FLAGS p) s
    let s := orReg (rPLANE_FLAGS p) (f.setWidth 32) s
    if reg (rPLANE_FLAGS p) s != old then irq (pPLANE p) 0 s else s

def raiseRing (n : Nat) (f : Flags) (s : State) : State := if f = fNone then s else orReg (rRING_FLAGS n) (f.setWidth 32) s

/-- Raise flags on a ledger's behalf (R110). -/
def raiseLedger (l : Nat) (f : Flags) (s : State) : State :=
  if f = fNone then s else let v := ledgerAt l s; setLedger l { v with flags := v.flags ||| f } s

/-! ### The order of one transit (R216 to R218) -/

/-- Lexicographic order; a shorter list comes first. -/
def keyLe : List Nat → List Nat → Bool
  | [], _ => true
  | _ :: _, [] => false
  | a :: as, b :: bs => if a = b then keyLe as bs else decide (a < b)

def placeLe (a b : Place) : Bool := if a.cls = b.cls then keyLe a.key b.key else decide (a.cls < b.cls)

/-- Stable insertion among events in the order of their places. -/
def holdInsert {α : Type} (p : Place) (c : α) : List (Place × α) → List (Place × α)
  | [] => [(p, c)]
  | (q, d) :: t => if placeLe q p then (q, d) :: holdInsert p c t else (p, c) :: (q, d) :: t

/-- Where in class 2 what has been found takes effect: by its code and its source (R216). -/
def duePlace (d : Due) : Place :=
  match d with
  | .entry e => ⟨2, [e.code, e.src.toNat]⟩
  | .retry p => ⟨2, [0x20, (source 2 p).toNat]⟩
  | .contained _ c src _ => ⟨2, [c.toNat, src.toNat]⟩
  | .relayed p _ _ => ⟨2, [0x30, (source 2 p).toNat]⟩
  | .fatal _ c src => ⟨2, [c.toNat, src.toNat]⟩
  | .failed _ c src => ⟨2, [c, src.toNat]⟩
  | .memory _ c _ _ => ⟨2, [c, (source 3 0).toNat]⟩
  | .resynced => ⟨2, [0, (source 4 0).toNat]⟩
  | .takeover b => ⟨2, [0x82, (source 8 (if b then 1 else 0)).toNat]⟩
  | .repaired => ⟨2, [0x86, 0x8000]⟩
  | .line n => ⟨3, [n, 0, 2048]⟩

/-- A unit has found something that takes effect in class 2 of the next transit (R215, R217). -/
def find_ (d : Due) (s : State) : State := { s with clock := { s.clock with found := holdInsert (duePlace d) d s.clock.found } }

/-- A fault of the operation has been found and has not taken effect. -/
def struckSoon (id : OpId) (s : State) : Bool :=
  (s.clock.found ++ s.clock.due).any fun x => match x.2 with
    | .contained i _ _ _ | .fatal i _ _ | .failed i _ _ => i == id
    | _ => false

/-- A NOTICE without a ledger that enters in class 2 of the next transit (R235). -/
def noticeNext (code : Nat) (src : BitVec 16) (s : State) : State := find_ (.entry ⟨code, clsNotice, src, none, none⟩) s

/-- FCLK cycles since the release at a cycle of the current transit (R384, log 5). -/
def stamp (cyc : Nat) (s : State) : Nat := s.clock.fclk + cyc

/-- FABRIC_VERSION (R395). -/
def fabricVersion : Word := 0x00030001#32

/-- Time units of 1/16 ns (R212) in a microsecond and in a millisecond. -/
def unitsUs : Nat := 16000
def unitsMs : Nat := 16000000

end Sys2Proof.Machine
end

