-- ==== Sys2Proof/Machine/Dice.lean ====
section
/-! DEFINITION. The dice generator and the functions of SAMPLE and of SILU (R106, R107, R134, R135, R173). -/

namespace Sys2Proof.Machine

/-- mix of R106. -/
def diceMix (x0 : Word) : Word :=
  let x := x0 ^^^ (x0 >>> 16)
  let x := x * 0x2C1B3C6D#32
  let x := x ^^^ (x >>> 12)
  let x := x * 0x297A2D39#32
  x ^^^ (x >>> 15)

/-- dice(seed, pos, idx, purpose) of R106. -/
def dice (seed : Word64) (pos idx purpose : Word) : Word :=
  let h := diceMix (seed.extractLsb' 0 32 ^^^ 0x9E3779B9#32)
  let h := diceMix (h ^^^ seed.extractLsb' 32 32)
  let h := diceMix (h ^^^ pos)
  let h := diceMix (h ^^^ idx)
  diceMix (h ^^^ purpose)

/-- The 16 bits of stochastic rounding for an element: purpose 1, bits [15:0] (R107). -/
def diceSr (seed : Word64) (pos : Word) (idx : Nat) : Nat :=
  (dice seed pos (BitVec.ofNat 32 idx) 1#32).toNat % 2 ^ 16

/-- The rotation word of a block: purpose 2 (R107). -/
def diceRot (seed : Word64) (pos : Word) (block : Nat) : Word :=
  dice seed pos (BitVec.ofNat 32 block) 2#32

/-! ### The noise of SAMPLE: every operation is one rnd (R135). -/

def fv (w : Word) : Dy := f32Val w
def rAdd (a b : Dy) : Dy := rnd (dyAdd a b)
def rSub (a b : Dy) : Dy := rnd (dySub a b)
def rMul (a b : Dy) : Dy := rnd (dyMul a b)
def dyOne : Dy := ⟨1, 0⟩

/-- ln(1 + f) of R135. -/
def lnk (f : Dy) : Dy :=
  let s := rndDiv f (rAdd f ⟨2, 0⟩)
  let z := rMul s s
  let p := rAdd (rMul z (fv 0x3E124925#32)) (fv 0x3E4CCCCD#32)
  let p := rAdd (rMul p z) (fv 0x3EAAAAAB#32)
  let p := rAdd (rMul p z) dyOne
  rMul (rAdd s s) p

/-- ln x of R135, for x positive and normal. -/
def lnx (x : Dy) : Dy :=
  let e0 := dyLog2 x
  let m0 := dyShift x (-e0)
  let up := dyLt (fv 0x3FB504F3#32) m0
  let m := if up then dyShift m0 (-1) else m0
  let e : Int := if up then e0 + 1 else e0
  rAdd (rMul ⟨e, 0⟩ (fv 0x3F317218#32)) (lnk (dySub m dyOne))

/-- gumbel of R135, from its dice word. -/
def gumbelOf (w : Word) : Dy :=
  let v := rtz24 ⟨2 * (w.toNat : Int) + 1, -33⟩
  let a := if dyLe v (dyPow2 (-2)) then dyNeg (lnk (dyNeg v)) else dyNeg (lnx (rSub dyOne v))
  dyNeg (lnx a)

/-- The noise of global index `idx` as a binary32 pattern (R134, R135). -/
def gumbel (seed : Word64) (pos : Word) (idx : Word) : Word :=
  f32Enc (gumbelOf (dice seed pos idx 3#32))

/-- The noised value y of a candidate (R134): a temperature of -0 counts as +0. -/
def sampleValue (seed : Word64) (pos it x idx : Word) : Word × Flags :=
  let it' := if f32IsZero it then 0#32 else it
  let (m, f1) := mulPlain x it'
  let (y, f2) := addPlain m (gumbel seed pos idx)
  (y, f1 ||| f2)

/-! ### SILU (R173). -/

/-- e^(-v) for -88 < v < 88. -/
def expneg (v : Dy) : Dy :=
  let z := dyNeg v
  let k := rneInt (rMul z (fv 0x3FB8AA3B#32))
  let kd : Dy := ⟨k, 0⟩
  let r := rSub (rSub z (rMul kd (fv 0x3F317200#32))) (rMul kd (fv 0x35BFBE8E#32))
  let p := rAdd (rMul r (fv 0x3AB60B61#32)) (fv 0x3C088889#32)
  let p := rAdd (rMul p r) (fv 0x3D2AAAAB#32)
  let p := rAdd (rMul p r) (fv 0x3E2AAAAB#32)
  let p := rAdd (rMul p r) (dyPow2 (-1))
  let p := rAdd (rMul p r) dyOne
  let p := rAdd (rMul p r) dyOne
  let y := dyShift p k
  if dyBelowMin y then dyZero else y

/-- silu of R173; it raises no flag. -/
def silu (v : Word) : Word :=
  if f32IsNaN v then v
  else if f32IsInf v then (if f32Sign v then 0#32 else v)
  else
    let d := f32Val v
    if dyLe d (fv 0xC2B00000#32) then 0#32
    else if dyLe (fv 0x42B00000#32) d then v
    else if d.m = 0 then 0#32
    else
      let y := rndDiv d (rAdd dyOne (expneg d))
      if dyBelowMin y then 0#32 else f32Enc y

end Sys2Proof.Machine
end

