-- ==== Sys2Proof/Machine/Operands.lean ====
section
/-! DEFINITION. Operand forms: format codes, decoding of every input format, the rounding modes and the encoding of every output format (R81 to R105, R447, R448). -/

namespace Sys2Proof.Machine

/-! ### Format codes (R81) -/

abbrev Fmt := BitVec 4

def fmtE2M1 : Fmt := 0x0#4
def fmtI4 : Fmt := 0x1#4
def fmtE4M3 : Fmt := 0x2#4
def fmtE5M2 : Fmt := 0x3#4
def fmtI8 : Fmt := 0x4#4
def fmtE8M7 : Fmt := 0x5#4
def fmtE5M10 : Fmt := 0x6#4
def fmtE8M23 : Fmt := 0x7#4
def fmtI32 : Fmt := 0x8#4
def fmtE8M0 : Fmt := 0x9#4
def fmtCP64 : Fmt := 0xA#4

/-- Reserved codes, and E8M0, which names no element (R82). -/
def fmtBad (f : Fmt) : Bool := f.toNat ≥ 9 && f != fmtCP64

/-- Element width in bits (R81); a code without elements gives 8 (E8M0). -/
def fmtWidth (f : Fmt) : Nat :=
  match f.toNat with
  | 0 | 1 => 4
  | 2 | 3 | 4 | 9 => 8
  | 5 | 6 => 16
  | 7 | 8 => 32
  | 10 => 64
  | _ => 8

def fmtScaled (f : Fmt) : Bool := f == fmtE2M1 || f == fmtE4M3 || f == fmtE5M2
def fmtInt (f : Fmt) : Bool := f == fmtI4 || f == fmtI8 || f == fmtI32

/-- Exponent bias B of a scaled element format (R85). -/
def elemBias (f : Fmt) : Int := if f == fmtE2M1 then 1 else if f == fmtE4M3 then 7 else 15
/-- Mantissa bits p of a scaled element format (R85). -/
def elemMan (f : Fmt) : Nat := if f == fmtE2M1 then 1 else if f == fmtE4M3 then 3 else 2
/-- emax_elem of R85. -/
def elemEmax (f : Fmt) : Int := if f == fmtE2M1 then 2 else if f == fmtE4M3 then 8 else 15
/-- Magnitude code of the largest finite element (R85). -/
def elemMaxCode (f : Fmt) : Nat := if f == fmtE2M1 then 0x7 else if f == fmtE4M3 then 0x7E else 0x7B
/-- Bits of a scaled element without its sign. -/
def elemMagBits (f : Fmt) : Nat := if f == fmtE2M1 then 3 else 7

/-- Elements of a beat (R28). -/
def perBeat (f : Fmt) : Nat := 512 / fmtWidth f
/-- Elements of a full chunk: 4 KiB (R28, R156). -/
def perChunk (f : Fmt) : Nat := 4096 * 8 / fmtWidth f

/-- Element `i` of a packed beat (R28). -/
def beatElem (f : Fmt) (data : BitVec 512) (i : Nat) : Nat := bitsAt data.toNat (fmtWidth f * i) (fmtWidth f)

/-- Scale code `j` of a beat's sideband (R19). -/
def beatScale (scale : BitVec 32) (j : Nat) : Nat := bitsAt scale.toNat (8 * j) 8

/-! ### Input conversion (R92 to R94) -/

/-- What an element code stands for before scaling. -/
inductive Raw where
  | nan
  | inf (neg : Bool)
  | fin (neg : Bool) (m : Nat) (e : Int)
  deriving DecidableEq, Repr, Inhabited

/-- Magnitude of a scaled element code (R85). -/
def elemMag (f : Fmt) (mag : Nat) : Nat × Int :=
  let p := elemMan f
  let ef := mag >>> p
  let mf := mag % 2 ^ p
  if ef = 0 then (mf, 1 - elemBias f - p) else (2 ^ p + mf, (ef : Int) - elemBias f - p)

/-- A code of an IEEE-like format with `eb` exponent and `mb` mantissa bits. -/
def ieeeRaw (eb mb : Nat) (code : Nat) : Raw :=
  let neg := (code >>> (eb + mb)) % 2 == 1
  let ef := (code >>> mb) % 2 ^ eb
  let mf := code % 2 ^ mb
  let bias : Int := (2 ^ (eb - 1) : Nat) - 1
  if ef = 2 ^ eb - 1 then (if mf = 0 then .inf neg else .nan)
  else if ef = 0 then .fin neg mf (1 - bias - mb)
  else .fin neg (2 ^ mb + mf) ((ef : Int) - bias - mb)

/-- An integer element as sign and magnitude (R92, integer formats). -/
def intRaw (signed : Bool) (w code : Nat) : Raw :=
  if signed then
    let v := signedField code w
    .fin (decide (v < 0)) v.natAbs 0
  else .fin false code 0

/-- What an element code of a format stands for (R85, R89); CP64 halves are decoded one by one as E8M23. -/
def rawOf (f : Fmt) (signed : Bool) (code : Nat) : Raw :=
  if f == fmtE2M1 then
    let (m, e) := elemMag f (code % 8); .fin (code / 8 % 2 == 1) m e
  else if f == fmtE4M3 then
    if code % 128 = 127 then .nan else let (m, e) := elemMag f (code % 128); .fin (code / 128 % 2 == 1) m e
  else if f == fmtE5M2 then
    let mag := code % 128
    if mag > 0x7C then .nan else if mag = 0x7C then .inf (code / 128 % 2 == 1)
    else let (m, e) := elemMag f mag; .fin (code / 128 % 2 == 1) m e
  else if f == fmtE8M7 then ieeeRaw 8 7 code
  else if f == fmtE5M10 then ieeeRaw 5 10 code
  else if f == fmtI4 || f == fmtI8 || f == fmtI32 then intRaw signed (fmtWidth f) code
  else ieeeRaw 8 23 code

/-- to_working of R92, for a finite element with magnitude m · 2^e and scale exponent k. -/
def toWorking (neg : Bool) (m : Nat) (e k : Int) (sat : Bool) : Word × Flags :=
  if m = 0 then (signedZero neg, fNone)
  else
    let top := e + k + bitlength m - 1
    if top > 127 then (withSign neg (if sat then f32Max else f32Inf), fOverflow ||| fInexact)
    else if top < -126 then (signedZero neg, fUnderflow ||| fInexact)
    else (f32Enc ⟨if neg then -(m : Int) else (m : Int), e + k⟩, fNone)

/-- Conversion of one decoded element (R92, R93). -/
def convRaw (r : Raw) (k : Int) (sat : Bool) : Word × Flags :=
  match r with
  | .nan => (f32NaN, fInvalid)
  | .inf neg => (withSign neg f32Inf, fNone)
  | .fin neg m e => toWorking neg m e k sat

/-- A CP64 input: both halves by R92 and R93, then the cases of R94, then renormalisation. -/
def convCp64 (code : Nat) (k : Int) (sat : Bool) : Word64 × Flags :=
  let hr := ieeeRaw 8 23 (code >>> 32)
  let tr := ieeeRaw 8 23 (code % 2 ^ 32)
  let (h, fh) := convRaw hr k sat
  let (t, ft0) := convRaw tr k sat
  let ft := if ft0 == (fUnderflow ||| fInexact) then fInexact else ft0
  let f := fh ||| ft
  let sated := sat && (fh &&& fOverflow) != fNone
  if f32IsInf h || sated then (mkPair h 0#32, f)
  else if f32IsNaN h then (mkPair f32NaN 0#32, f)
  else if !f32Fin t then (mkPair f32NaN 0#32, f ||| fInvalid)
  else
    let (p, fr) := addComp (mkPair h t) 0#64
    (p, f ||| fr)

/-- A leaf of the tree from an element code (R92 to R94, R117, R126): `c` is the block's scale code for scaled formats, `t` the tensor exponent.
In plain mode a CP64 leaf is its head, with INEXACT where the dropped tail is not +0 (R94). -/
def leafValue (f : Fmt) (signed : Bool) (mode : NodeMode) (t : Int) (sat : Bool) (c code : Nat) : Word64 × Flags :=
  match mode with
  | .int => (if signed then BitVec.ofInt 64 (signedField code 32) else BitVec.ofNat 64 code, fNone)
  | _ =>
    if f == fmtCP64 then
      let (p, fl) := convCp64 code t sat
      if mode == .plain then (mkPair (pairH p) 0#32, fl ||| flagIf (pairT p != 0#32) fInexact) else (p, fl)
    else
      let k : Int := if fmtScaled f then (c : Int) - 127 + t else t
      let (w, fl) := if fmtScaled f && c == 255 then (f32NaN, fInvalid) else convRaw (rawOf f signed code) k sat
      (mkPair w 0#32, fl)

/-! ### Rounding modes (R95 to R99) -/

/-- The three rounding modes; the code 3 fails with 0x43 (R95). -/
inductive Rounding where
  | rne
  | rtz
  | sr
  deriving DecidableEq, Repr, Inhabited

def roundingOf (code : Nat) : Rounding := if code = 1 then .rtz else if code = 2 then .sr else .rne

/-- Round |v| / 2^ulp to an integer by a mode; `r` holds the 16 dice bits of SR (R98). -/
def roundUnits (md : Rounding) (v : Dy) (ulp : Int) (r : Nat) : Nat :=
  let n := v.m.natAbs
  let sh := v.e - ulp
  match md with
  | .rne => if sh ≥ 0 then n * 2 ^ sh.toNat else shiftRne n (-sh).toNat
  | .rtz => if sh ≥ 0 then n * 2 ^ sh.toNat else n >>> (-sh).toNat
  | .sr =>
    let f := if sh + 16 ≥ 0 then n * 2 ^ (sh + 16).toNat else n >>> (-(sh + 16)).toNat
    (f + r) >>> 16

/-- The magnitude of a rounded result as a dyadic, sign re-applied (R98). -/
def roundMode (md : Rounding) (v : Dy) (ulp : Int) (r : Nat) : Dy :=
  if v.m = 0 then dyZero else ⟨signAs v.m (roundUnits md v ulp r), ulp⟩

/-! ### Output conversion: unscaled floating point (R100) -/

/-- A value at stage 6: finite exact, infinite or NaN. -/
inductive Val where
  | nan
  | inf (neg : Bool)
  | fin (v : Dy)
  deriving DecidableEq, Repr, Inhabited

/-- The value of a binary32 pattern. -/
def valOf32 (w : Word) : Val := if f32IsNaN w then .nan else if f32IsInf w then .inf (f32Sign w) else .fin (f32Val w)

/-- The exact value of a pair (R90). -/
def valOfPair (p : Word64) : Val :=
  let h := pairH p
  if f32IsNaN h then .nan else if f32IsInf h then .inf (f32Sign h) else .fin (pairVal p)

/-- Exponent and mantissa bits of E8M7, E5M10 and E8M23. -/
def floatShape (f : Fmt) : Nat × Nat := if f == fmtE8M7 then (8, 7) else if f == fmtE5M10 then (5, 10) else (8, 23)

/-- Largest finite value of an IEEE-like shape. -/
def shapeMax (eb mb : Nat) : Dy := ⟨(2 ^ (mb + 1) - 1 : Nat), (2 ^ (eb - 1) : Nat) - 1 - (mb : Int)⟩
/-- Exponent of the smallest normal value. -/
def shapeMinExp (eb : Nat) : Int := 2 - (2 ^ (eb - 1) : Nat)
/-- Magnitude codes: infinity, largest finite, NaN. -/
def shapeInf (eb mb : Nat) : Nat := (2 ^ eb - 1) <<< mb
def shapeMaxCode (eb mb : Nat) : Nat := shapeInf eb mb - 1
def shapeNaN (eb mb : Nat) : Nat := shapeInf eb mb + 2 ^ (mb - 1)

def signBit (w : Nat) (neg : Bool) : Nat := if neg then 2 ^ (w - 1) else 0

/-- Code of a normal value of the shape (rounded already). -/
def shapeEnc (eb mb : Nat) (v : Dy) : Nat :=
  let n := v.m.natAbs
  let l := bitlength n
  let man := if l ≤ mb + 1 then n <<< (mb + 1 - l) else n >>> (l - (mb + 1))
  let ex := dyLog2 v + ((2 ^ (eb - 1) : Nat) - 1 : Int)
  ex.toNat * 2 ^ mb + (man - 2 ^ mb)

/-- Conversion to E8M7, E5M10 or E8M23 (R97 to R100). -/
def encFloat (f : Fmt) (md : Rounding) (sat : Bool) (v : Val) (r : Nat) : Nat × Flags :=
  let (eb, mb) := floatShape f
  let w := eb + mb + 1
  match v with
  | .nan => (shapeNaN eb mb, fNone)
  | .inf neg => if sat then (signBit w neg + shapeMaxCode eb mb, fOverflow ||| fInexact) else (signBit w neg + shapeInf eb mb, fNone)
  | .fin d =>
    if d.m = 0 then (0, fNone)
    else
      let neg := decide (d.m < 0)
      let y := roundMode md d (dyLog2 d - mb) r
      if dyLt (shapeMax eb mb) (dyAbs y) then
        if sat || md == .rtz then (signBit w neg + shapeMaxCode eb mb, fOverflow ||| fInexact)
        else (signBit w neg + shapeInf eb mb, fOverflow ||| fInexact)
      else if y.m = 0 ∨ dyLt (dyAbs y) (dyPow2 (shapeMinExp eb)) then (signBit w neg, fUnderflow ||| fInexact)
      else (signBit w neg + shapeEnc eb mb y, flagIf (!dyEq y d) fInexact)

/-! ### Output conversion: scaled element formats (R101 to R103, R447) -/

/-- std_scale of R101 before the range check of R103; `amax` a finite magnitude. -/
def stdScale (amax : Dy) (emax u : Int) : Int := if amax.m = 0 then 0 else dyLog2 amax - emax - u + 127

/-- Largest finite element (R85). -/
def elemMaxVal (f : Fmt) : Dy := let (m, e) := elemMag f (elemMaxCode f); ⟨m, e⟩

/-- Code of an element-grid magnitude in units of the grid spacing `2^ulp`. -/
def elemEnc (f : Fmt) (v : Dy) : Nat :=
  if v.m = 0 then 0
  else
    let p := elemMan f
    let n := v.m.natAbs
    let lg := dyLog2 v
    if lg < 1 - elemBias f then
      -- below the element's normal range: mantissa in units of 2^(1 - B - p)
      let sh := v.e - (1 - elemBias f - p)
      if sh ≥ 0 then n * 2 ^ sh.toNat else n >>> (-sh).toNat
    else
      let l := bitlength n
      let man := if l ≤ p + 1 then n <<< (p + 1 - l) else n >>> (l - (p + 1))
      (lg + elemBias f).toNat * 2 ^ p + (man - 2 ^ p)

/-- Rounded element-domain value with the spacing of R97, before the clamp (R102 steps 1 and 2). -/
def elemRound (f : Fmt) (md : Rounding) (w : Dy) (r : Nat) : Dy :=
  if w.m = 0 then dyZero
  else roundMode md w (max (dyLog2 w) (1 - elemBias f) - elemMan f) r

/-- One finite element against scale code c and tensor exponent u (R102). -/
def encElemFin (f : Fmt) (md : Rounding) (c u : Int) (d : Dy) (r : Nat) : Nat × Flags :=
  let w := dyShift d (-(c - 127 + u))
  let y := elemRound f md w r
  let s := signBit (elemMagBits f + 1) (decide (d.m < 0))
  if dyLt (elemMaxVal f) (dyAbs y) then (s + elemMaxCode f, fInexact)
  else (s + elemEnc f y, flagIf (!dyEq y w) fInexact)

/-- An infinity meets an element format that has none, or has it clamped (R102). DEDUCED (log 59): the value changes, so INEXACT goes with the OVERFLOW (R109). -/
def infFlags : Flags := fOverflow ||| fInexact

/-- One element of a block that is not a NaN block (R102). -/
def encElem (f : Fmt) (md : Rounding) (sat : Bool) (c u : Int) (v : Val) (r : Nat) : Nat × Flags :=
  match v with
  | .nan => (0x7F, fNone)
  | .inf neg =>
    let s := signBit (elemMagBits f + 1) neg
    if sat then (s + elemMaxCode f, infFlags)
    else if f == fmtE4M3 then (0x7F, infFlags) else (s + 0x7C, fNone)
  | .fin d => encElemFin f md c u d r

/-- A converted block: scale code, element codes, and the fallback mark of R103. -/
structure EncBlock where
  scale : Nat
  elems : List Nat
  mark : Bool
  deriving DecidableEq, Repr, Inhabited

def valIsNaN : Val → Bool | .nan => true | _ => false
def valIsInf : Val → Bool | .inf _ => true | _ => false
def valDy : Val → Dy | .fin d => d | _ => dyZero

/-- Larger of two magnitudes. -/
def dyMax (a b : Dy) : Dy := if dyLt a b then b else a

/-- Largest finite magnitude of a block; +0 where there is none (R101). -/
def blockAmax (vs : List Val) : Dy := vs.foldl (fun m v => dyMax m (dyAbs (valDy v))) dyZero

/-- An E2M1 block that a NaN, or an infinity without SAT, makes a NaN block (R102). -/
def nanBlock (f : Fmt) (sat : Bool) (vs : List Val) : Bool :=
  f == fmtE2M1 && (vs.any valIsNaN || (!sat && vs.any valIsInf))

/-- The elements against a code in range, each with its dice bits (R102). -/
def encElems (f : Fmt) (md : Rounding) (sat : Bool) (c u : Int) (vs : List Val) (rs : List Nat) : List Nat × Flags :=
  flagMap (fun p => encElem f md sat c u p.1 p.2) (vs.zip rs)

/-- INEXACT where zeroing changes a finite value (R103, sum below 0 without SAT). -/
def anyNonzero (vs : List Val) : Bool := vs.any fun v => (valDy v).m != 0

/-- A block of a scaled format at a given scale sum (R102, R103, R447, R448). DESIGN CHOICE (log 59): an E2M1 NaN block whose sum is below 0 raises R103's INEXACT where SAT is 0 and a finite element is not zero, and never where SAT is 1, since its elements are not converted (R447); an infinity that makes such a block raises OVERFLOW alone, the flag that R102's table gives it (R447 allows no other, R109 would add INEXACT). -/
def encBlockAt (f : Fmt) (md : Rounding) (sat : Bool) (c u : Int) (vs : List Val) (rs : List Nat) : EncBlock × Flags :=
  let rangeFlags : Flags :=
    if c > 254 then fOverflow ||| fInexact
    else if c < 0 then (if sat then fUnderflow else fUnderflow ||| flagIf (anyNonzero vs) fInexact)
    else fNone
  let mark := decide (c > 254 ∨ c < 0)
  if nanBlock f sat vs then
    (⟨255, vs.map fun _ => 0, mark⟩, rangeFlags ||| flagIf (vs.any valIsInf) fOverflow)
  else if c > 254 then
    if sat then let (es, fl) := encElems f md sat 254 u vs rs; (⟨254, es, true⟩, rangeFlags ||| fl)
    else (⟨255, vs.map fun _ => 0, true⟩, rangeFlags)
  else if c < 0 then
    if sat then let (es, fl) := encElems f md sat 0 u vs rs; (⟨0, es, true⟩, rangeFlags ||| fl)
    else
      let (es, fl) := flagMap (fun v : Val => match v with
        | .fin _ => (0, fNone)
        | _ => encElem f md sat 0 u v 0) vs
      (⟨0, es, true⟩, rangeFlags ||| fl)
  else let (es, fl) := encElems f md sat c u vs rs; (⟨c.toNat, es, false⟩, fl)

/-- A block of a scaled format under the standard scale (R101). -/
def encBlock (f : Fmt) (md : Rounding) (sat : Bool) (u : Int) (vs : List Val) (rs : List Nat) : EncBlock × Flags :=
  encBlockAt f md sat (stdScale (blockAmax vs) (elemEmax f) u) u vs rs

/-- Scale code of a block whose elements are unchanged, re-expressed against another tensor scale (R103, R448): the new code, whether every element becomes +0, and the flags.
With SAT the elements of an out-of-range block are converted against the end of the range by R102 under RNE, and a zero keeps its sign (R98). -/
def reexpressBlock (f : Fmt) (sat : Bool) (c : Nat) (t u : Int) (codes : List Nat) : EncBlock × Flags :=
  if c = 255 then (⟨255, codes, false⟩, fNone)
  else
    let s := (c : Int) + t - u
    if 0 ≤ s ∧ s ≤ 254 then (⟨s.toNat, codes, false⟩, fNone)
    else
      let vs := codes.map fun code => match rawOf f true code with
        | .nan => Val.nan
        | .inf neg => Val.inf neg
        | .fin neg m e => Val.fin ⟨if neg then -(m : Int) else (m : Int), e + ((c : Int) - 127 + t)⟩
      let (b, fl) := encBlockAt f .rne sat s u vs (codes.map fun _ => 0)
      (if sat then { b with elems := (codes.zip b.elems).map fun x => if x.1 % 2 ^ elemMagBits f = 0 then x.1 else x.2 } else b, fl)

/-! ### Integers and CP64 (R104, R105) -/

/-- Ends of an integer format's range. -/
def intLo (signed : Bool) (w : Nat) : Int := if signed then -(2 ^ (w - 1) : Nat) else 0
def intHi (signed : Bool) (w : Nat) : Int := if signed then (2 ^ (w - 1) : Nat) - 1 else (2 ^ w : Nat) - 1

/-- Two's-complement code of an integer. -/
def intCode (w : Nat) (v : Int) : Nat := (v % (2 ^ w : Nat)).toNat

/-- Conversion to I4, I8 or I32 (R104). -/
def encInt (f : Fmt) (signed : Bool) (md : Rounding) (v : Val) (r : Nat) : Nat × Flags :=
  let w := fmtWidth f
  match v with
  | .nan => (0, fInvalid)
  | .inf neg => (intCode w (if neg then intLo signed w else intHi signed w), fInvalid)
  | .fin d =>
    let y : Int := if d.m = 0 then 0 else signAs d.m (roundUnits md d 0 r)
    if y > intHi signed w then (intCode w (intHi signed w), fOverflow ||| fInexact)
    else if y < intLo signed w then (intCode w (intLo signed w), fOverflow ||| fInexact)
    else (intCode w y, flagIf (!dyEq ⟨y, 0⟩ d) fInexact)

/-- The canonical pair of an integer: its head rounded by RNE, its tail what is left (R90, R105). Where that is no binary32 value the integer has no such pair, and no rule gives the tail: it is a free value (log 64). -/
def intPair (v : Int) : Word64 :=
  let h := rnd ⟨v, 0⟩
  let l := dySub ⟨v, 0⟩ h
  mkPair (f32Enc h) (if dyEq (rnd l) l then f32Enc l else Config.pairTail v)

/-- Conversion to CP64: the canonical pair of the value, nothing rounded (R105); `p` is the stage-5 pair. -/
def encCp64 (p : Word64) : Nat × Flags :=
  match valOfPair p with
  | .nan => ((mkPair f32NaN 0#32).toNat, fNone)
  | .inf neg => ((mkPair (withSign neg f32Inf) 0#32).toNat, fNone)
  | .fin _ => (p.toNat, fNone)

end Sys2Proof.Machine
end

