-- ==== Sys2Proof/Machine/Select.lean ====
section
/-! DEFINITION. Candidates, their total order and the selecting operations (R128 to R134). -/

namespace Sys2Proof.Machine

/-- A candidate: the value's 32 bits and the global index (R128). -/
structure Cand where
  value : Word
  index : Word
  deriving DecidableEq, Repr, Inhabited

/-- How candidate values compare: binary32, or I32 under its signedness (R129). -/
inductive CandKind where
  | float
  | int (signed : Bool)
  deriving DecidableEq, Repr, Inhabited

/-- Value class of R129, larger ranks first: NaN, +Inf, finite, -Inf. -/
def candClass (k : CandKind) (v : Word) : Nat :=
  match k with
  | .int _ => 1
  | .float => if f32IsNaN v then 3 else if f32IsInf v then (if f32Sign v then 0 else 2) else 1

/-- Numeric value within the finite class; the two zeros are equal (R129). -/
def candNum (k : CandKind) (v : Word) : Dy :=
  match k with
  | .int true => ⟨v.toInt, 0⟩
  | .int false => ⟨v.toNat, 0⟩
  | .float => if f32Fin v then f32Val v else dyZero

/-- a is earlier than b by the key of R129. -/
def earlier (k : CandKind) (a b : Cand) : Bool :=
  let ca := candClass k a.value
  let cb := candClass k b.value
  if ca ≠ cb then decide (cb < ca)
  else
    let na := candNum k a.value
    let nb := candNum k b.value
    if ca = 1 && !dyEq na nb then dyLt nb na
    else if a.index ≠ b.index then decide (a.index.toNat < b.index.toNat)
    else decide (a.value.toNat < b.value.toNat)

/-- The earlier of two candidates. -/
def best (k : CandKind) (a b : Cand) : Cand := if earlier k b a then b else a

/-- Insert a candidate into a list in key order. -/
def candInsert (k : CandKind) (c : Cand) : List Cand → List Cand
  | [] => [c]
  | d :: ds => if earlier k c d then c :: d :: ds else d :: candInsert k c ds

/-- Candidates in key order. -/
def candSort (k : CandKind) (l : List Cand) : List Cand := l.foldl (fun acc c => candInsert k c acc) []

/-- The earliest n candidates (R132); fewer where there are fewer. -/
def topK (k : CandKind) (n : Nat) (l : List Cand) : List Cand := (candSort k l).take n

/-- merge of R132: two ordered lists, their first k entries. -/
def mergeK (k : CandKind) : Nat → List Cand → List Cand → List Cand
  | 0, _, _ => []
  | _ + 1, [], [] => []
  | n + 1, a :: as, [] => a :: mergeK k n as []
  | n + 1, [], b :: bs => b :: mergeK k n [] bs
  | n + 1, a :: as, b :: bs =>
    if earlier k a b then a :: mergeK k n as (b :: bs) else b :: mergeK k n (a :: as) bs

/-- The earliest candidate of a non-empty list. -/
def bestOf (k : CandKind) (c : Cand) (l : List Cand) : Cand := l.foldl (best k) c

/-- The filler pair of R133. -/
def fillerPair : Cand := ⟨0xFFFFFFFF#32, 0xFFFFFFFF#32⟩

/-- A pair as 64 bits: the value below, the index above (R133). -/
def pairBits (c : Cand) : Word64 := c.index ++ c.value

/-- Eight pairs of a PAIRS beat, filled up with the filler pair (R133). -/
def pairsBeat (l : List Cand) : BitVec 512 :=
  let cs := (l.take 8) ++ List.replicate (8 - (l.take 8).length) fillerPair
  BitVec.ofNat 512 ((cs.zipIdx.map fun p => (pairBits p.1).toNat <<< (64 * p.2)).foldl (· + ·) 0)

/-- The byte image of a list of pairs, eight bytes each (R286, selecting operations). -/
def pairsImage (l : List Cand) : List Byte := l.flatMap fun c => leBytes 8 (pairBits c).toNat

/-- Pairs back from an image; filler pairs are dropped (R133, R286). -/
def pairsOfImage (l : List Byte) : List Cand :=
  ((List.range (l.length / 8)).map fun i =>
    (⟨word32At l (8 * i), word32At l (8 * i + 4)⟩ : Cand)).filter (fun c => c != fillerPair)

/-- Global index of element i of the member of rank r (R128). -/
def globalIndex (base : Word) (count rank i : Nat) : Word := BitVec.ofNat 32 (base.toNat + rank * count + i)

/-- Index range check of R128: base + members·count - 1 at most 0xFFFF_FFFE. -/
def indexRangeOk (base : Word) (members count : Nat) : Bool := decide (base.toNat + members * count ≤ 0xFFFFFFFF)

end Sys2Proof.Machine
end

