-- ==== Sys2Proof/Machine/Descriptor.lean ====
section
/-! DEFINITION. Descriptors: the fields of R244, group encodings (R249), and the static checks of R248. -/

namespace Sys2Proof.Machine

/-! ### Fields of a descriptor (R244) -/

def dWord (d : List Word) (i : Nat) : Word := d.getD i 0#32
def dField (d : List Word) (i lo n : Nat) : Nat := fieldOf (dWord d i) lo n

def dOp (d : List Word) : Nat := dField d 0 0 8
def dFlags (d : List Word) : Nat := dField d 0 8 8
def dInFmt (d : List Word) : BitVec 4 := BitVec.ofNat 4 (dField d 0 16 4)
def dInSigned (d : List Word) : Bool := bitOf (dWord d 0) 20
def dOutFmt (d : List Word) : BitVec 4 := BitVec.ofNat 4 (dField d 0 21 4)
def dOutSigned (d : List Word) : Bool := bitOf (dWord d 0) 25
def dLimbs (d : List Word) : Nat := dField d 0 26 2
def dLedger (d : List Word) : Nat := dField d 1 0 12
def dGroup (d : List Word) : Nat := dField d 1 16 16
def dPlanes (d : List Word) : Nat := dField d 2 0 8
def dProfile (d : List Word) : Nat := dField d 2 8 6
def dAlmanac (d : List Word) : Nat := dField d 2 16 10
def dTopk (d : List Word) : Nat := dField d 2 26 6
def dCount (d : List Word) : Nat := (dWord d 3).toNat
def dOperand (d : List Word) : Word := dWord d 4
def dInTscale (d : List Word) : Word := dWord d 5
def dBias (d : List Word) : Nat := dField d 6 0 12
def dRoot (d : List Word) : Nat := dField d 6 16 10
def dIndexBase (d : List Word) : Word := dWord d 6
def dTrigTally (d : List Word) : Nat := dField d 7 0 6
def dTrigStall (d : List Word) : Nat := dField d 7 6 10
def dTrigEn (d : List Word) : Bool := bitOf (dWord d 7) 16
def dTrigTake (d : List Word) : Bool := bitOf (dWord d 7) 17
def dTrigMembers (d : List Word) : Bool := bitOf (dWord d 7) 18
def dThreshold (d : List Word) : Word := dWord d 8
def dCompTally (d : List Word) : Nat := dField d 9 0 6
def dCompStall (d : List Word) : Nat := dField d 9 6 10
def dCompEn (d : List Word) : Bool := bitOf (dWord d 9) 16
def dCompMembers (d : List Word) : Bool := bitOf (dWord d 9) 17
def dChunkTally (d : List Word) : Nat := dField d 9 24 6
def dEphSlot (d : List Word) : Nat := dField d 10 0 12
def dRingLeg (d : List Word) : Nat := dField d 10 16 16
def dDicePos (d : List Word) : Word := dWord d 11
def dSeed (d : List Word) : Word64 := dWord d 13 ++ dWord d 12
def dAddr (d : List Word) : Nat := (dWord d 14).toNat + (dField d 15 0 25) * 2 ^ 32

/-- FLAGS bits (R246). -/
def dComp (d : List Word) : Bool := bitOf (dWord d 0) 8
def dSpec (d : List Word) : Bool := bitOf (dWord d 0) 9
def dEarly (d : List Word) : Bool := bitOf (dWord d 0) 10
def dExcl (d : List Word) : Bool := bitOf (dWord d 0) 11
def dSat (d : List Word) : Bool := bitOf (dWord d 0) 12
def dBino (d : List Word) : Bool := bitOf (dWord d 0) 13

/-- Operation codes (R245). -/
def oREDUCE : Nat := 0x01
def oBROADCAST : Nat := 0x02
def oALLREDUCE : Nat := 0x03
def oREDUCE_SCATTER : Nat := 0x04
def oALLGATHER : Nat := 0x05
def oMAX : Nat := 0x06
def oARGMAX : Nat := 0x07
def oTOPK : Nat := 0x08
def oSAMPLE : Nat := 0x09
def oALLTOALL : Nat := 0x0A
def oBARRIER : Nat := 0x0B
def oLEDGER_OPEN : Nat := 0x0C
def oLEDGER_ADD : Nat := 0x0D
def oLEDGER_CLOSE : Nat := 0x0E
def oSAVE : Nat := 0x0F
def oRESTORE : Nat := 0x10
def oFENCE : Nat := 0x11

/-- The sums (R246). -/
def isSum (o : Nat) : Bool := o == oREDUCE || o == oALLREDUCE || o == oREDUCE_SCATTER || o == oLEDGER_ADD || o == oLEDGER_CLOSE
/-- Sums that egress (R148). -/
def isClosing (o : Nat) : Bool := isSum o && o != oLEDGER_ADD
/-- Sums with an implicit ledger (R148). -/
def isOneShot (o : Nat) : Bool := o == oREDUCE || o == oALLREDUCE || o == oREDUCE_SCATTER
/-- The selecting operations (R128 to R134). -/
def isSelect (o : Nat) : Bool := o == oMAX || o == oARGMAX || o == oTOPK || o == oSAMPLE
/-- Operations that deliver their inputs' bits (R247). -/
def isCopy (o : Nat) : Bool := o == oBROADCAST || o == oALLGATHER || o == oALLTOALL
/-- Operations that name a ledger (R148). -/
def namesLedger (o : Nat) : Bool := o != oBARRIER && o != oFENCE && o != oSAVE && o != oRESTORE
/-- Operations with a contribution (R258). -/
def hasContrib (d : List Word) : Bool :=
  let o := dOp d
  isSelect o || isCopy o || isOneShot o || o == oLEDGER_ADD || (o == oLEDGER_CLOSE && dCount d != 0)
/-- Operations with output (R258). -/
def hasOutput (o : Nat) : Bool := isClosing o || isSelect o || isCopy o

/-- The I32 path (R84): the ledger's placement format is I32. -/
def intPath (fmt : BitVec 4) : Bool := fmt == fmtI32

/-- A tensor scale's exponent (R91): 0 stands for 1.0. -/
def tscaleExp (w : Word) : Int := if w = 0#32 then 0 else (f32Exp w : Int) - 127
def tscaleOk (w : Word) : Bool := w == 0#32 || (!f32Sign w && f32Man w == 0 && decide (1 ≤ f32Exp w ∧ f32Exp w ≤ 254))

/-! ### Groups (R249) -/

/-- A group encoding that keeps the rules, apart from the emptiness of a mask entry. DESIGN CHOICE (log 63): bit [10] of an aligned encoding, which R249 gives no meaning, is 0. -/
def groupOk (b : Build) (g : Nat) : Bool :=
  if g.testBit 15 then decide (bitsAt g 6 9 = 0)
  else
    let n := bitsAt g 11 4
    let base := bitsAt g 0 10
    decide (n ≤ b.log2Leaves ∧ base < leaves b ∧ base % 2 ^ n = 0) && !g.testBit 10

/-- Members of a well-formed encoding, ascending. -/
def groupMembers (g : Nat) (s : State) : List Nat :=
  if g.testBit 15 then maskStalls (bitsAt g 0 6) s
  else (List.range (2 ^ bitsAt g 11 4)).map fun i => bitsAt g 0 10 + i

/-- The group that a descriptor of a queue names: 0xFFFF is the queue's own. -/
def descGroup (q : QueueSt) (d : List Word) : Nat := if dGroup d = 0xFFFF then fieldOf q.group 0 16 else dGroup d

/-- The plane mask that a descriptor of a queue names: 0 is the queue's own. -/
def queuePlanes (q : QueueSt) : Nat := fieldOf q.cfg 16 8
def descPlanes (q : QueueSt) (d : List Word) : Nat := if dPlanes d = 0 then queuePlanes q else dPlanes d

/-- a is a subset of b, as masks. -/
def maskWithin (a b : Nat) : Bool := a &&& b == a

/-! ### Static checks (R248, R449): each gives its code where it fails -/

def check (bad : Bool) (code : Nat) : List Nat := if bad then [code] else []

/-- Format codes, signedness, tensor scales, limbs and selection operands (R82, R91, R133, R134, R139, R142). DESIGN CHOICE (log 60): the output tensor scale of a copy of I32 data, its OPERAND, passes wherever it is a valid scale; only the input's is held to 1.0 or 0. -/
def checkFormats (d : List Word) (members : Nat) : List Nat :=
  let o := dOp d
  let f := dInFmt d
  let operands := hasContrib d || o == oLEDGER_OPEN
  check (operands && fmtBad f) 0x40 ++
  check (isCopy o && fmtBad (dOutFmt d)) 0x40 ++
  check (hasContrib d && !tscaleOk (dInTscale d)) 0x42 ++
  check (hasContrib d && f == fmtI32 && dInTscale d != 0#32 && dInTscale d != 0x3F800000#32) 0x42 ++
  check (isCopy o && !tscaleOk (dOperand d)) 0x42 ++
  check (isSelect o && f == fmtCP64) 0x44 ++
  check (o == oSAMPLE && f == fmtI32) 0x44 ++
  check (o == oTOPK && (dTopk d == 0 || decide (32 < dTopk d))) 0x45 ++
  check (hasContrib d && isSum o && (dLimbs d == 0 || (dLimbs d == 2 && f != fmtE8M7) || (dLimbs d == 3 && f != fmtE4M3))) 0x46 ++
  check (isSelect o && dLimbs d != 1) 0x46 ++
  check (o == oSAMPLE && (!f32Fin (dOperand d) || (f32Sign (dOperand d) && !f32IsZero (dOperand d)))) 0x47 ++
  check (isSelect o && !indexRangeOk (dIndexBase d) members (dCount d)) 0x48

/-- The group, plane mask and ROOT (R249, R383). -/
def checkGroup (s : State) (q : QueueSt) (d : List Word) : List Nat :=
  let o := dOp d
  let g := descGroup q d
  let m := groupMembers g s
  let qm := groupMembers (fieldOf q.group 0 16) s
  let pm := descPlanes q d
  let grouped := namesLedger o || (dTrigEn d && dTrigMembers d) || (dCompEn d && dCompMembers d)
  check (grouped && (!groupOk s.build g || m.isEmpty || m.any (fun x => !qm.contains x))) 0x58 ++
  check (namesLedger o && (!maskWithin pm (queuePlanes q) || decide (2 ^ s.build.planes ≤ pm))) 0x58 ++
  check ((o == oREDUCE || o == oBROADCAST) && !m.contains (dRoot d)) 0x58 ++
  check (namesLedger o && (planesOf pm).any fun p => hasPlane p s && (planePower p s == 1 || planePower p s == 2)) 0x98

/-- Operation code, flags, output format (R245 to R247), early use (R265). -/
def checkOp (s : State) (q : QueueSt) (d : List Word) : List Nat :=
  let o := dOp d
  let f := dFlags d
  check (o == 0 || decide (0x12 ≤ o)) 0x59 ++
  check (o == oALLTOALL && dRingLeg d == 0) 0x59 ++
  check (dRingLeg d != 0 && s.build.ringPorts == 0) 0x59 ++
  check (f.testBit 6 || f.testBit 7) 0x59 ++
  check (dSpec d && !isClosing o) 0x59 ++
  check (dBino d && s.build.paired && !hasOutput o) 0x59 ++
  check (isCopy o && (dOutFmt d != dInFmt d || dOutSigned d != dInSigned d)) 0x59 ++
  check (dEarly d && (dSpec d || !bitOf q.cfg 3 || !isCopy o)) 0x5D

/-- Tally references and COUNT (R248, R258, R265, R270). -/
def checkRefs (s : State) (d : List Word) : List Nat :=
  let o := dOp d
  let f := dInFmt d
  let n := leaves s.build
  check (dTrigEn d && (decide (48 ≤ dTrigTally d) || (!dTrigMembers d && decide (n ≤ dTrigStall d)))) 0x5E ++
  check (dCompEn d && (decide (48 ≤ dCompTally d) || (!dCompMembers d && decide (n ≤ dCompStall d)))) 0x5E ++
  check (dEarly d && decide (48 ≤ dChunkTally d)) 0x5E ++
  check (o == oLEDGER_OPEN && (dCount d == 0 || decide (2 ^ 28 < dCount d))) 0x53 ++
  check (isOneShot o && decide (2 ^ 28 < dCount d)) 0x53 ++
  check ((isSelect o || isCopy o || isOneShot o || o == oLEDGER_ADD) && dCount d == 0) 0x5F ++
  check ((o == oSAVE || o == oRESTORE) && dCount d == 0) 0x5F ++
  check (o == oALLGATHER && !fmtBad f && (dCount d % perBeat f != 0 || (fmtScaled f && dCount d % 32 != 0))) 0x5F

/-- Smallest of a list of codes; 0 where there is none (R449). -/
def lowest : List Nat → Nat
  | [] => 0
  | c :: cs => let r := lowest cs; if r = 0 ∨ c ≤ r then c else r

/-- The code that a descriptor fails its static checks with, 0 where it passes; a standing order must have a trigger (R248, R261, R449). -/
def staticCheck (s : State) (q : QueueSt) (d : List Word) : Nat :=
  let o := dOp d
  if o == 0 || decide (0x12 ≤ o) then lowest (0x59 :: checkGroup s q d)
  else
    lowest (checkFormats d (groupMembers (descGroup q d) s).length ++ checkGroup s q d ++ checkOp s q d ++ checkRefs s d ++
      check (bitOf q.cfg 2 && !dTrigEn d) 0x59)

end Sys2Proof.Machine
end

