-- ==== Sys2Proof/Machine/Ephemeris.lean ====
section
/-! DEFINITION. The ephemeris: banks, entries, windows, and bank swaps (R230 to R234, R402, R403). -/

namespace Sys2Proof.Machine

/-- The bank in use (R230). -/
def activeBank (s : State) : Nat := fieldOf (reg rEPH_ACTIVE s) 0 1

/-- Word w of an entry of a bank. -/
def ephKey (bank idx w : Nat) : Nat := (bank * 4096 + idx) * 4 + w
def ephWord (bank idx w : Nat) (s : State) : Word := tget 0#32 (ephKey bank idx w) s.tabs.ephemeris

def ephStart (b i : Nat) (s : State) : Nat := (ephWord b i 0 s).toNat
def ephStride (b i : Nat) (s : State) : Nat := fieldOf (ephWord b i 1 s) 0 16
/-- WIDTH: 0 is treated as 1. -/
def ephWidth (b i : Nat) (s : State) : Nat := max 1 (fieldOf (ephWord b i 1 s) 16 16)
def ephSteps (b i : Nat) (s : State) : Nat := fieldOf (ephWord b i 2 s) 0 16
def ephValid (b i : Nat) (s : State) : Bool := bitOf (ephWord b i 2 s) 16

/-- The entry gates step j (R231). -/
def gatesStep (b i j : Nat) (s : State) : Bool := ephSteps b i s == 0 || decide (j < ephSteps b i s)

/-- A window of step j is open in transit T (R231). -/
def windowOpen (b i j : Nat) (s : State) : Bool :=
  let anchor := (reg64 (rBANK b 0) s).toNat
  let cycle := regNat (rBANK b 2) s
  let base := anchor + ephStart b i s + j * ephStride b i s
  let t := s.clock.transit.toNat
  decide (base ≤ t) && (let r := t - base; decide ((if cycle = 0 then r else r % cycle) < ephWidth b i s))

/-- A descriptor's queue is ephemeris-bound (R231). -/
def ephBound (q : QueueSt) : Bool := bitOf q.cfg 1

/-- Step j of a descriptor is gated now: a bound queue, gating on, a valid entry that gates the step (R228, R231, R233). -/
def stepGated (q : QueueSt) (d : List Word) (j : Nat) (s : State) : Bool :=
  let b := activeBank s
  ephBound q && gatingOn s && ephValid b (dEphSlot d) s && gatesStep b (dEphSlot d) j s

/-- A step that is not gated though its queue is bound runs credit-only (R228, R233). -/
def stepCreditOnly (q : QueueSt) (d : List Word) (j : Nat) (s : State) : Bool :=
  let b := activeBank s
  ephBound q && (!gatingOn s || !ephValid b (dEphSlot d) s) && (gatesStep b (dEphSlot d) j s || !ephValid b (dEphSlot d) s)

/-- The step's entry has VALID = 0: 0x1A is reported once for the descriptor (R233). -/
def entryInvalid (q : QueueSt) (d : List Word) (s : State) : Bool :=
  ephBound q && !ephValid (activeBank s) (dEphSlot d) s

/-- The sampled THROTTLE exceeds the active bank's THROTTLE_MAX (R234). -/
def overThrottle (s : State) : Bool := decide (regNat (rBANK (activeBank s) 3) s < s.clock.throttle.toNat)

/-- OVER_THROTTLE rose (R234, R420). -/
def noteThrottle (was : Bool) (s : State) : State := if overThrottle s && !was then irq pMERIDIAN 4 s else s

/-- The place of an armed swap has come (R233). -/
def swapDue (s : State) : Bool :=
  match s.mer.swapAt with
  | none => false
  | some t => decide (t.toNat ≤ s.clock.transit.toNat)

/-- An armed swap takes effect in its transit, or in the next one where that has passed: ACTIVE names the other bank and SWAP_ARMED clears (R233, R403). -/
def bankSwapApply (s : State) : State :=
  match s.mer.swapAt with
  | none => s
  | some t =>
    if !alive s || !decide (t.toNat ≤ s.clock.transit.toNat) then s
    else
      let s := { s with mer := { s.mer with swapAt := none } }
      noteThrottle (overThrottle s) (irq pEPHEMERIS 0 (setReg rEPH_ACTIVE (BitVec.ofNat 32 (1 - activeBank s)) s))

/-- A write of SWAP_ARM: 1 arms at the SWAP_AT of the moment, with 0x19 where that is no later than this transit; 0 disarms (R233, R403). -/
def swapArmWrite (v : Word) (s : State) : State :=
  if bitOf v 0 then
    let t := reg64 rSWAP_AT_LO s
    let s := { s with mer := { s.mer with swapAt := some t } }
    if t.toNat ≤ s.clock.transit.toNat then noticeNext 0x19 (source 4 0) s else s
  else { s with mer := { s.mer with swapAt := none } }

/-- ENTRY_SELECT of an agent's copy: index and bank. -/
def entrySel (copy : Nat) (s : State) : Nat × Nat :=
  let w := reg (rENTRY_SELECT + copy) s
  (fieldOf w 0 12, fieldOf w 12 1)

/-- AUTO_INC after an access to ENTRY_W3 (R403). -/
def entryAutoInc (copy w : Nat) (s : State) : State :=
  let r := reg (rENTRY_SELECT + copy) s
  if w == 3 && bitOf r 31 then
    setReg (rENTRY_SELECT + copy) ((r &&& 0xFFFFF000#32) ||| BitVec.ofNat 32 ((fieldOf r 0 12 + 1) % 4096)) s
  else s

/-- Writes to the active bank are ignored; the records of the configuration image, applied in phase 4, may carry it (R230, R367). -/
def bankClosed (b : Nat) (s : State) : Bool := b == activeBank s && fieldOf (reg rCFG_STATUS s) 8 4 != 4

/-- A write of an entry word: stored in the inactive bank, ignored with 0x1B for the active one (R230, R403). Reserved bits are kept 0. -/
def entryWrite (copy w : Nat) (v : Word) (s : State) : State :=
  let (i, b) := entrySel copy s
  let v := if w = 2 then v &&& 0x1FFFF#32 else if w = 3 then 0#32 else v
  let s :=
    if bankClosed b s then noticeNext 0x1B (source 4 0) s
    else { s with tabs := { s.tabs with ephemeris := tset 0#32 (ephKey b i w) v s.tabs.ephemeris } }
  entryAutoInc copy w s

end Sys2Proof.Machine
end

