-- ==== Sys2Proof/Machine/Order.lean ====
section
/-! DEFINITION. The order of one transit: the class and sub-order of every event (R216, R312). -/

namespace Sys2Proof.Machine

/-- The agent owned the block as the transit began (R62, R65, R373). -/
def isOwner (a : Agent) (s : State) : Bool :=
  match a with
  | .mgmt p m => s.owner.role == some (p, m)
  | .steward => false

/-- Class 8: the owner's accesses, then other ports by port and master, then the steward's. -/
def agentKey (a : Agent) (s : State) : List Nat :=
  match a with
  | .steward => [2]
  | .mgmt p m => if isOwner a s then [0] else [1, p, m]

def access (a : Agent) (s : State) : Option Place := some ⟨8, agentKey a s⟩

/-- A write's place: a doorbell's is class 7, by queue and then in the order of class 8; every other's is class 8 (R65, R216, R241). -/
def writePlace (a : Agent) (addr : Nat) (s : State) : Option Place :=
  if 0x100000 ≤ addr ∧ addr < 0x200000 then some ⟨7, 0 :: addr / 16 % 65536 :: agentKey a s⟩ else access a s

/-- Slots of a queue's ring (R238). -/
def queueSize (v : QueueSt) : Nat := 2 ^ max 1 (fieldOf v.cfg 8 5)

def qStanding (v : QueueSt) : Bool := bitOf v.cfg 2

/-- Slot order of a queue: from HEAD on around the ring; by slot number among standing orders (R242, R243). -/
def slotOrder (queue slot : Nat) (s : State) : Nat :=
  let v := queueAt queue s
  if qStanding v then slot else (slot + queueSize v - v.head % queueSize v) % queueSize v

/-- Class 4: claims of wait lists and grants of pages follow what frees them, grants in the order of the requests (R154, R164); before them an operation that names a ledger by ledger (comparison 0, recall 1, seal 2), then those that name none by queue and slot order. -/
def opKey (id : OpId) (sub : Nat) (s : State) : List Nat :=
  match opAt id s with
  | none => match s.late.find? fun x => x.op == id with
    | some x => [0, x.ledger, sub]
    | none => [1, id.queue, slotOrder id.queue id.slot s]
  | some o => if namesLedger (dOp o.d) then [0, dLedger o.d, sub] else [1, id.queue, slotOrder id.queue id.slot s]

/-- Class 2: ascending error code, then ascending source; replays follow the detections, whose gravest decides (R343, R345). -/
def faultPlace (code src : Nat) : Option Place := some ⟨2, [code, src]⟩

/-- The descriptor at the head of a queue's starts is gated now; one that has failed its static checks waits for no window (R248). -/
def headGated (q : Nat) (s : State) : Bool :=
  let v := queueAt q s
  match v.fetched.find? (fun f => f.slot == v.nextStart) with
  | some f => f.decoded == some 0#8 && stepGated v f.words 0 s
  | none => false

/-- A start: class 5 where it is scheduled, class 7 otherwise, by ascending queue number; the starts of one queue come in their own order (R243, R253). -/
def startPlace (queue : Nat) (gated : Bool) : Option Place :=
  if gated then some ⟨5, [1, queue]⟩ else some ⟨7, [2, queue]⟩

/-- The place of a start that is an operation's: that of its queue's, and on a STANDING queue in slot order (R243). -/
def runPlace (queue slot : Nat) (gated : Bool) (s : State) : Option Place :=
  if qStanding (queueAt queue s) then (if gated then some ⟨5, [1, queue, slot]⟩ else some ⟨7, [2, queue, slot]⟩) else startPlace queue gated

/-- The place of a ring step's start (R231, R283). -/
def stepPlace (id : OpId) (step : Nat) (s : State) : Option Place :=
  runPlace id.queue id.slot (match opAt id s with | some o => stepGated (queueAt id.queue s) o.d step s | none => false) s

/-- The bell line that has its board part on a board line; 0 where none has. -/
def boardOwner (b : Nat) (s : State) : Nat :=
  ((List.range 16).find? fun n => bitOf (lineAt n s).cfg 0 && bitOf (lineAt n s).cfg 1 && fieldOf (lineAt n s).cfg 2 2 == b).getD 0

/-- The order's words of a pinned standing order. -/
def orderWords (queue slot : Nat) (s : State) : List Word :=
  match s.orders.find? (fun o => o.queue == queue && o.slot == slot) with
  | some o => o.words
  | none => []

/-- The place of a fired injection: the fault's that it produces; what it alters on a ring port it alters as that is sent (R419). -/
def injectPlace (s : State) : Option Place :=
  let w := reg rINJECT s
  match fieldOf w 0 4 with
  | 1 => faultPlace 0x32 (0x1000 + fieldOf w 8 3)
  | 2 => faultPlace 0x33 (0x1000 + fieldOf w 8 3)
  | 5 => faultPlace 0x80 0x8000
  | _ => none

/-- The agent of a command that is a register access (R62, R378). -/
def agentOf (c : Instr) : Option Agent :=
  match c with
  | .doorbell a _ _ | .standingPin a _ _ | .standingUnpin a _ | .tallyWindowSet a _ _ _ | .tallyWindowAdd a _ _ _ | .tallyWindowSub a _ _ _ |
    .tallyWindowRead a _ _ | .sigSend a | .meridianCal a | .resync a | .inputDelayWrite a _ | .swapArm a | .swapDisarm a |
    .ephemerisEntryWrite a _ _ | .powerFenceWrite a _ | .planePowerDown a _ | .planePowerUp a _ | .softReset a _ | .pageLock a _ | .restoreTrims a |
    .errlogPop a | .errlogHeadRead a | .loReadLatch a _ | .readToClear a _ | .takeover a | .repair a | .repairWithdraw a | .ownerOffer a _ |
    .ownerHeartbeat a _ | .mailboxRead a _ | .stewardKick a | .stewardRestart a | .queueEnable a _ | .queueDisable a | .queueResume a |
    .queueCfgWrite a _ _ | .maskDataWrite a _ | .ledgerRelease a | .retrain a _ | .ringCreditWrite a _ _ _ | .unfence a | .topologyWrite a _ _ |
    .groupCfgWrite a _ | .lineCfgWrite a _ | .lineMembersWrite a _ | .musterCtrlWrite a _ | .thresholdWrite a _ _ | .assayPolicyWrite a _ _ |
    .spillPoolWrite a _ _ _ | .perfClear a | .injectArm a _ | .registerWrite a _ _ => some a
  | .ownerClaim p m _ | .ownerAccept p m _ | .nonownerWrite p m _ _ | .mailboxWrite p m _ | .mgmtErrorResponse p m _ _ _ => some (.mgmt p m)
  | _ => none

/-- The place of an event in its transit; none for an event that R216 does not place: it happens at an FCLK edge of its own (R215). -/
def placeOf (c : Instr) (s : State) : Option Place :=
  match c with
  | .fenceInChange _ => some ⟨1, [0]⟩
  | .throttleChange _ => some ⟨1, [1]⟩
  | .faultDetect code src _ => faultPlace code.toNat src.toNat
  | .containedReplay _ code src => faultPlace (256 + code.toNat) src.toNat
  | .ledgerFatal _ code src => faultPlace code.toNat src.toNat
  | .fabricFatal code src => faultPlace code.toNat src.toNat
  | .watchdog _ => faultPlace 0x35 0
  | .binoMismatch _ => faultPlace 0x80 0x8000
  | .binoStateCompare _ _ => faultPlace 0x81 0x8000
  | .lateMismatch _ => faultPlace 0x84 0x8000
  | .sideFault b _ => faultPlace 0x82 (0x8000 + if b then 1 else 0)
  | .injectFire _ => injectPlace s
  | .bellExtHigh n => faultPlace 0x16 (0x4000 + n)
  | .bellExtLow n => faultPlace 0x17 (0x4000 + n)
  | .fenceHigh => faultPlace 0x18 0x4000
  | .markMissing => faultPlace 0x11 0x4000
  | .refLoss => faultPlace 0x12 0x4000
  | .meridianLost => faultPlace 0x13 0x4000
  | .reacquire _ => faultPlace 0x15 0x4000
  | .meridianLock => faultPlace 0 0x4000
  | .slewComplete => faultPlace 0 0x4000
  | .merRefReturn => faultPlace 0 0x4000
  | .merMarkPulse _ _ => faultPlace 0x10 0x4000
  | .timecodeFrame _ => faultPlace 0x13 0x4000
  | .ownerVacant => faultPlace 0xA0 (0x9000 + s.owner.port)
  | .ownerElection => some ⟨8, [3]⟩
  | .linkLost p _ _ => faultPlace 0x21 (0x2000 + p)
  | .linkDown p code => faultPlace code.toNat (0x2000 + p)
  | .stewardWatchdog => faultPlace 0x74 0x5000
  | .memTimeout w _ => faultPlace (if w then 0x65 else 0x62) 0x3000
  | .lockTimeout => faultPlace 0x95 0
  | .trainTimeout => faultPlace 0x96 0
  | .imageTimeout => faultPlace 0x91 0
  | .bellOutChange st n _ => some ⟨3, [n, 0, st]⟩
  | .bellExtSenseChange n _ => some ⟨3, [boardOwner n s, 0, 1024 + n]⟩
  | .boardHoldExpire n => some ⟨3, [n, 1]⟩
  | .bellRearm n => some ⟨3, [n, 2]⟩
  | .bellRing n => some ⟨3, [n, 3]⟩
  | .verdictPass g q => some ⟨3, [16, g, q.toNat, 0]⟩
  | .verdictRing g q => some ⟨3, [16, g, q.toNat, 1]⟩
  | .almanacCompare id => some ⟨4, opKey id 0 s⟩
  | .recallOp id _ => some ⟨4, opKey id 1 s⟩
  | .seal id => some ⟨4, opKey id 2 s⟩
  | .chunkRelease id _ _ => some ⟨4, opKey id 2 s⟩
  | .descriptorFail id => some ⟨4, opKey id 2 s⟩
  | .waitListClaim l => some ⟨4, [2, l.toNat]⟩
  | .pageGrant id => some ⟨4, [3, (s.pageWait.takeWhile fun x => x.1 != id).length]⟩
  | .bankSwap => some ⟨5, [0]⟩
  | .descriptorStart q => startPlace q (headGated q s)
  | .barrier q => startPlace q (headGated q s)
  | .fence q => startPlace q (headGated q s)
  | .standingRun q sl => runPlace q sl (stepGated (queueAt q s) (orderWords q sl s) 0 s) s
  | .ledgerOpen id => runPlace id.queue id.slot (match opAt id s with | some o => o.startCls == 5 | none => false) s
  | .ledgerClaim id => runPlace id.queue id.slot (match opAt id s with | some o => o.startCls == 5 | none => false) s
  | .ringStepStart id _ step _ => stepPlace id step s
  | .statisticsLap id _ => stepPlace id (match opAt id s with | some o => (match o.leg with | some g => g.n | none => 0) | none => 0) s
  | .planeSelftestDone p _ => faultPlace 0x93 (0x1000 + p)
  | .remoteAddApply p => some ⟨6, [p]⟩
  | .doorbell a q _ => some ⟨7, 0 :: q :: agentKey a s⟩
  | .standingPin a q _ => some ⟨7, 0 :: q :: agentKey a s⟩
  | .standingUnpin a q => some ⟨7, 0 :: q :: agentKey a s⟩
  | .tallyAdd st _ _ => some ⟨7, [1, st, 0]⟩
  | .tallySub st _ _ => some ⟨7, [1, st, 0]⟩
  | .tallyWait st _ _ => some ⟨7, [1, st, 0]⟩
  | .tallyTake st _ _ => some ⟨7, [1, st, 0]⟩
  | .tallyRead st _ => some ⟨7, [1, st, 0]⟩
  | .tallyBadIndex st _ _ => some ⟨7, [1, st, 0]⟩
  | .tallyRetest st => some ⟨7, [1, st, 0]⟩
  | .tlyCancel st => some ⟨7, [1, st, 1]⟩
  | .tallyWindowSet a _ _ _ => access a s
  | .tallyWindowAdd a _ _ _ => access a s
  | .tallyWindowSub a _ _ _ => access a s
  | .tallyWindowRead a _ _ => access a s
  | .sigSend a => access a s
  | .meridianCal a => access a s
  | .resync a => access a s
  | .inputDelayWrite a _ => access a s
  | .swapArm a => access a s
  | .swapDisarm a => access a s
  | .ephemerisEntryWrite a _ _ => access a s
  | .powerFenceWrite a _ => access a s
  | .planePowerDown a _ => access a s
  | .planePowerUp a _ => access a s
  | .softReset a _ => access a s
  | .pageLock a _ => access a s
  | .restoreTrims a => access a s
  | .errlogPop a => access a s
  | .errlogHeadRead a => access a s
  | .loReadLatch a _ => access a s
  | .readToClear a _ => access a s
  | .takeover a => access a s
  | .repair a => access a s
  | .repairWithdraw a => access a s
  | .ownerClaim p m _ => access (.mgmt p m) s
  | .ownerOffer a _ => access a s
  | .ownerAccept p m _ => access (.mgmt p m) s
  | .ownerHeartbeat a _ => access a s
  | .nonownerWrite p m addr _ => writePlace (.mgmt p m) addr.toNat s
  | .mailboxWrite p m _ => access (.mgmt p m) s
  | .mailboxRead a _ => access a s
  | .stewardKick a => access a s
  | .stewardRestart a => access a s
  | .stewardGuard _ => access .steward s
  | .queueEnable a _ => access a s
  | .queueDisable a => access a s
  | .queueResume a => access a s
  | .queueCfgWrite a _ _ => access a s
  | .maskDataWrite a _ => access a s
  | .ledgerRelease a => access a s
  | .retrain a _ => access a s
  | .ringCreditWrite a _ _ _ => access a s
  | .unfence a => access a s
  | .topologyWrite a _ _ => access a s
  | .groupCfgWrite a _ => access a s
  | .lineCfgWrite a _ => access a s
  | .lineMembersWrite a _ => access a s
  | .musterCtrlWrite a _ => access a s
  | .thresholdWrite a _ _ => access a s
  | .assayPolicyWrite a _ _ => access a s
  | .spillPoolWrite a _ _ _ => access a s
  | .perfClear a => access a s
  | .injectArm a _ => access a s
  | .mgmtErrorResponse p m w addr _ => if w then writePlace (.mgmt p m) addr.toNat s else access (.mgmt p m) s
  | .registerWrite a addr _ => writePlace a addr.toNat s
  | .resetAssert | .startup _ | .transitBoundary _ _ | .upBeat .. | .treeSumArrive .. | .bellMsgReceive .. | .verdictMsgReceive ..
  | .remoteAddReceive .. | .memReadData .. | .memWriteResponse .. | .descriptorFetch .. | .descriptorDecode .. | .reduce .. | .broadcast ..
  | .allreduce .. | .reduceScatter .. | .allgather .. | .max .. | .argmax .. | .topk .. | .sample .. | .alltoall .. | .ledgerAdd ..
  | .ledgerClose .. | .save .. | .restore .. | .upPhaseOpen .. | .upPhaseClose .. | .egress .. | .reEmission .. | .completionRecordWrite ..
  | .ringChunkReceive .. | .chunkForward .. | .ringStepEnd .. | .recallMsgReceive .. | .flitReceive .. | .nakReceive ..
  | .replayTimeout .. | .flitTransmit .. | .heartbeatSend .. | .nullSend .. | .trainFlitReceive .. | .timeFrameReceive .. | .idleEnter
  | .offerLapse | .linkTraining .. | .glitchRemoved .. => none

end Sys2Proof.Machine
end

