-- ==== Sys2Proof/Machine/Assay.lean ====
section
/-! DEFINITION. The egress stages, the measures, the block decision, the patch entries, the fallback-rate controller and the almanac (R166 to R174, R182 to R208). -/

namespace Sys2Proof.Machine

/-! ### What an egress works with -/

/-- The parameters of one egress: the ledger's, the copied profile's and the descriptor's (R167, R190). -/
structure EgCtx where
  int : Bool
  fmt : BitVec 4
  signed : Bool
  md : Rounding
  sat : Bool
  a : Int
  u : Int
  sigma : Word
  biasKind : Nat
  biasImm : Word
  biasFmt : BitVec 4
  biasSigned : Bool
  act : Nat
  opA : Word
  opB : Word
  rot : Bool
  decided : Bool
  thE2m1 : Nat
  thE4m3 : Nat
  policy : Word
  seed : Word64
  pos : Word
  count : Nat
  deriving DecidableEq, Repr, Inhabited

/-- Profile fields (R440). -/
def profOutFmt (p : List Word) : BitVec 4 := BitVec.ofNat 4 (fieldOf (p.getD 0 0#32) 0 4)
def profSigned (p : List Word) : Bool := bitOf (p.getD 0 0#32) 4
def profRound (p : List Word) : Nat := fieldOf (p.getD 0 0#32) 5 2
def profAct (p : List Word) : Nat := fieldOf (p.getD 0 0#32) 8 3
def profBiasKind (p : List Word) : Nat := fieldOf (p.getD 0 0#32) 12 2
def profRotate (p : List Word) : Bool := bitOf (p.getD 0 0#32) 16
def profAssay (p : List Word) : Bool := bitOf (p.getD 0 0#32) 17
def profBiasFmt (p : List Word) : BitVec 4 := BitVec.ofNat 4 (fieldOf (p.getD 0 0#32) 20 4)
def profBiasSigned (p : List Word) : Bool := bitOf (p.getD 0 0#32) 24

/-- |sigma| is a power of two. -/
def sigmaPow2 (s : Word) : Bool := let d := f32Val s; f32Fin s && d.m != 0 && decide (d.m.natAbs = 2 ^ Nat.log2 d.m.natAbs)

/-- Rotation of an egress (R198): the profile's, or one that the copied state or ROT_FORCE adds to an eligible decided egress. -/
def egRotates (p : List Word) (policy : Word) (rotCopy decided int : Bool) (count : Nat) : Bool :=
  profRotate p || (decided && (bitOf policy 8 || rotCopy) && !int && count % 32 == 0)

/-- The egress decides block forms: Assay = 1, E2M1 output, CP64 path (R182). -/
def egDecides (p : List Word) (int : Bool) : Bool := profAssay p && profOutFmt p == fmtE2M1 && !int

def egCtx (o : Op) (l : Ledger) : EgCtx :=
  let p := o.cop.profile
  let int := intPath l.fmt
  let dec := egDecides p int
  { int := int, fmt := profOutFmt p, signed := profSigned p, md := roundingOf (profRound p), sat := l.sat, a := o.eg.a, u := o.eg.u,
    sigma := dOperand o.d, biasKind := profBiasKind p, biasImm := p.getD 3 0#32, biasFmt := profBiasFmt p, biasSigned := profBiasSigned p,
    act := profAct p, opA := p.getD 1 0#32, opB := p.getD 2 0#32, rot := egRotates p o.cop.policy o.cop.rot dec int l.count,
    decided := dec, thE2m1 := o.cop.thE2m1, thE4m3 := o.cop.thE4m3, policy := o.cop.policy, seed := l.seed, pos := l.pos, count := l.count }

/-- The identity path (R168). -/
def identityPath (c : EgCtx) : Bool := sigmaPow2 c.sigma && c.biasKind == 0 && c.act == 0 && !c.rot

/-! ### Stages 1 to 4: values travel as pairs; a binary32 value has tail +0 -/

/-- rnd of a scaled value under the range rules of R169. -/
def scaleRound (d : Dy) : Word × Flags :=
  let r := rnd d
  if dyAboveMax r then (withSign (decide (r.m < 0)) f32Inf, fOverflow ||| fInexact)
  else if dyBelowMin r then (0#32, fUnderflow ||| fInexact)
  else (f32Enc r, flagIf (!dyEq r d) fInexact)

/-- Stage 1 off the identity path, and the measure value with a = 0 (R169, R184). -/
def stageScale (w : Word64) (sigma : Word) (a : Int) : Word × Flags :=
  let h := pairH w
  if f32IsNaN h then (f32NaN, fNone)
  else if f32IsInf h then
    if f32IsZero sigma then (f32NaN, fInvalid) else (withSign (f32Sign h != f32Sign sigma) f32Inf, fNone)
  else scaleRound (dyShift (dyMul (pairVal w) (f32Val sigma)) a)

/-- The identity path's stage 4 (R168). -/
def stageIdentity (w : Word64) (sigma : Word) (a : Int) : Word64 × Flags :=
  let h := pairH w
  if f32IsNaN h then (mkPair f32NaN 0#32, fNone)
  else if f32IsInf h then (mkPair (withSign (f32Sign h != f32Sign sigma) f32Inf) 0#32, fNone)
  else
    let k := fun x : Word => dyShift (dyMul (f32Val x) (f32Val sigma)) a
    finishPair (k h) (k (pairT w))

/-- The immediate bias (R170). -/
def biasImmediate (c : EgCtx) : Word × Flags :=
  if c.biasFmt == fmtI32 then
    let v : Int := if c.biasSigned then c.biasImm.toInt else c.biasImm.toNat
    let r := rnd ⟨v, 0⟩
    (f32Enc r, flagIf (!dyEq r ⟨v, 0⟩) fInexact)
  else convRaw (rawOf c.biasFmt c.biasSigned (c.biasImm.toNat % 2 ^ fmtWidth c.biasFmt)) 0 false

/-- Stage 2 (R170): `b` is the bias ledger's accumulator of the element. -/
def stageBias (c : EgCtx) (b : Word64) (v : Word) : Word × Flags :=
  if c.biasKind = 1 then
    let (i, f) := biasImmediate c
    let (r, g) := addPlain v i
    (r, f ||| g)
  else if c.biasKind = 2 then
    let (i, f) := stageScale b 0x3F800000#32 0
    let (r, g) := addPlain v i
    (r, f ||| g)
  else (v, fNone)

/-- v > 0, or NaN. -/
def posOrNaN (v : Word) : Bool := f32IsNaN v || (!f32Sign v && !f32IsZero v)

/-- v < w for values that are not NaN. -/
def f32Lt (v w : Word) : Bool :=
  if f32IsInf v then f32Sign v && !(f32IsInf w && f32Sign w)
  else if f32IsInf w then !f32Sign w
  else dyLt (f32Val v) (f32Val w)

/-- Stage 3 (R172). -/
def stageAct (c : EgCtx) (v : Word) : Word × Flags :=
  let noZero := fun r : Word => if f32IsZero r then 0#32 else r
  match c.act with
  | 1 => (if posOrNaN v then v else 0#32, fNone)
  | 2 => if posOrNaN v then (v, fNone) else let (r, f) := mulPlain v c.opA; (noZero r, f)
  | 3 => (noZero (if f32IsNaN v then v else if f32Lt v c.opA then c.opA else if f32Lt c.opB v then c.opB else v), fNone)
  | 4 => (silu v, fNone)
  | _ => (v, fNone)

/-- The activation's operands meet R172. -/
def actOk (act : Nat) (a b : Word) : Bool :=
  match act with
  | 2 => f32Fin a
  | 3 => !f32IsNaN a && !f32IsNaN b && !f32Lt b a
  | n => decide (n ≤ 4)

/-- One butterfly level of R174 on a list of 32 values. -/
def rotLevel (s : Nat) (l : List Word) : List Word × Flags :=
  let r := (List.range l.length).map fun i =>
    let j := i ^^^ 2 ^ s
    if i.testBit s then addPlain (l.getD j 0#32) (f32Neg (l.getD i 0#32)) else addPlain (l.getD i 0#32) (l.getD j 0#32)
  (r.map Prod.fst, flagsUnion (r.map Prod.snd))

/-- scale2(x, -3) of R174. -/
def rotScale (x : Word) : Word × Flags :=
  if !f32Fin x then (x, fNone)
  else
    let d := dyShift (f32Val x) (-3)
    if dyBelowMin d then (0#32, fUnderflow ||| fInexact) else (f32Enc d, fNone)

/-- Stage 4 (R174). -/
def rotate (d : Word) (l : List Word) : List Word × Flags :=
  let l0 := l.zipIdx.map fun p => if d.getLsbD p.2 then f32Neg p.1 else p.1
  let r := (List.range 5).foldl (fun (acc : List Word × Flags) s => let (l', f) := rotLevel s acc.1; (l', acc.2 ||| f)) (l0, fNone)
  let s := r.1.map rotScale
  (s.map Prod.fst, r.2 ||| flagsUnion (s.map Prod.snd))

/-- Stages 1 to 3 of one element: its value as a pair. -/
def stages13 (c : EgCtx) (w b : Word64) : Word64 × Flags :=
  if c.int then (w, fNone)
  else if identityPath c then stageIdentity w c.sigma c.a
  else
    let (v, f1) := stageScale w c.sigma c.a
    let (v, f2) := stageBias c b v
    let (v, f3) := stageAct c v
    (mkPair v 0#32, f1 ||| f2 ||| f3)

/-- Stages 1 to 4 of block `j` from its accumulators and bias values. -/
def stages14 (c : EgCtx) (j : Nat) (ws bs : List Word64) : List Word64 × Flags :=
  let (l, f) := flagMap (fun p => stages13 c p.1 p.2) (ws.zip bs)
  if c.rot && !c.int then
    let (r, g) := rotate (diceRot c.seed c.pos j) (l.map pairH)
    (r.map fun v => mkPair v 0#32, f ||| g)
  else (l, f)

/-- The exact value that stages 5 and 6 see. -/
def stageVal (int : Bool) (w : Word64) : Val := if int then .fin ⟨w.toInt, 0⟩ else valOfPair w

/-! ### Measures (R184, R185) -/

def Measures.none : Measures := ⟨0, 0#32, false, false⟩

/-- The measure of one accumulator. -/
def measureOf (w : Word64) (sigma : Word) : Measures :=
  let g := (stageScale w sigma 0).1
  if f32IsNaN g then ⟨0, 0#32, false, true⟩
  else if f32IsInf g then ⟨0, 0#32, true, false⟩
  else
    let d := f32Val g
    ⟨d.m.natAbs ^ 2 * 2 ^ (2 * d.e + 300).toNat, if d.m = 0 then 0#32 else withSign false g, false, false⟩

/-- Measures combine exactly (R185). -/
def measuresAdd (x y : Measures) : Measures :=
  ⟨x.s + y.s, if x.amax.toNat < y.amax.toNat then y.amax else x.amax, x.nfInf || y.nfInf, x.nfNan || y.nfNan⟩

/-! ### The block decision (R186 to R189) -/

/-- floor(256 |w - q| / 2^floor_log2 |w|), for w not zero. -/
def errTerm (w q : Dy) : Nat :=
  let d := dyShift (dyAbs (dySub w q)) (8 - dyLog2 w)
  if 0 ≤ d.e then d.m.natAbs * 2 ^ d.e.toNat else d.m.natAbs >>> (-d.e).toNat

/-- err of R186 over the values with the positions of `skip` left out. -/
def errSum (u : Int) (vs : List Dy) (skip : List Nat) : Nat :=
  let ps := vs.zipIdx.filter fun p => !skip.contains p.2
  let m := ps.foldl (fun m p => dyMax m (dyAbs p.1)) dyZero
  if m.m = 0 then 0
  else
    let c := stdScale m 2 u
    (ps.map fun p =>
      if p.1.m = 0 then 0
      else
        let w := dyShift p.1 (-(c - 127 + u))
        let y := elemRound fmtE2M1 .rne w 0
        let q := if dyLt (elemMaxVal fmtE2M1) (dyAbs y) then ⟨signAs y.m (elemMaxVal fmtE2M1).m.natAbs, (elemMaxVal fmtE2M1).e⟩ else y
        errTerm w q).sum

/-- Positions by falling magnitude, the lower index first among equals. -/
def magInsert (p : Dy × Nat) : List (Dy × Nat) → List (Dy × Nat)
  | [] => [p]
  | q :: qs => if dyLt q.1 p.1 then p :: q :: qs else q :: magInsert p qs

def magOrder (vs : List Dy) : List (Dy × Nat) := (vs.zipIdx.map fun p => (dyAbs p.1, p.2)).foldl (fun acc p => magInsert p acc) []

/-- What the assay measures on a block. -/
structure BlockMeasure where
  special : Bool
  m1 : Dy
  m2 : Dy
  m3 : Dy
  out : List Nat
  d : Nat
  d' : Nat
  deriving DecidableEq, Repr, Inhabited

def blockMeasure (c : EgCtx) (vs : List Val) : BlockMeasure :=
  if vs.any fun v => valIsNaN v || valIsInf v then ⟨true, dyZero, dyZero, dyZero, [], 0, 0⟩
  else
    let ds := vs.map valDy
    let o := magOrder ds
    let at' := fun i => (o[i]?).getD (dyZero, 0)
    let m3 := (at' 2).1
    let sh : Int := fieldOf c.policy 4 4
    let isOut := fun p : Dy × Nat => m3.m != 0 && decide (dyLog2 m3 + sh ≤ dyLog2 p.1)
    let out := ([at' 0, at' 1].filter isOut).map Prod.snd
    let d := errSum c.u ds []
    ⟨false, (at' 0).1, (at' 1).1, m3, out, d, if out.isEmpty then d else errSum c.u ds out⟩

def scaleInRange (x : Int) : Bool := decide (0 ≤ x ∧ x ≤ 254)

/-- The block's form (R188). -/
def blockForm (c : EgCtx) (m : BlockMeasure) : Nat :=
  if m.special || m.m1.m == 0 then 0
  else if !scaleInRange (stdScale m.m1 2 c.u) then 3
  else if m.d ≤ c.thE2m1 then 0
  else if bitOf c.policy 0 && decide (1 ≤ m.out.length) && decide (m.d' ≤ c.thE2m1) &&
      scaleInRange (stdScale (if m.out.length = 1 then m.m2 else m.m3) 2 c.u) then 1
  else if m.d ≤ c.thE4m3 && scaleInRange (stdScale m.m1 8 c.u) then 2
  else 3

/-- A block as emitted: scale code, 32 element codes, patch entries, block word, form, flags. -/
structure BlockOut where
  scale : Nat
  elems : List Nat
  patch : List Byte
  word : Word64
  form : Nat
  deriving DecidableEq, Repr, Inhabited

/-- The outlier and record values w = v / 2^u (R189). -/
def overU (u : Int) (v : Val) : Val := match v with | .fin d => .fin (dyShift d (-u)) | x => x

def padNat (n : Nat) (l : List Nat) : List Nat := l ++ List.replicate (n - l.length) 0

def outlierEntry (idx code : Nat) : List Byte := leBytes 4 idx ++ leBytes 2 code ++ [0x01#8, 0#8]
def e4m3Record (j scale : Nat) (codes : List Nat) : List Byte :=
  leBytes 4 j ++ [BitVec.ofNat 8 scale, 0#8, 0x02#8, 0#8] ++ (padNat 32 codes).map (BitVec.ofNat 8)
def e8m7Record (j : Nat) (codes : List Nat) : List Byte :=
  leBytes 4 j ++ [0#8, 0#8, 0x03#8, 0#8] ++ (padNat 32 codes).flatMap (leBytes 2)

/-- The block word of R187. -/
def blockWord (m : BlockMeasure) (form : Nat) (mark rot : Bool) (pScale eScale : Nat) : Word64 :=
  BitVec.ofNat 64 (m.d % 2 ^ 14 + m.d' % 2 ^ 14 * 2 ^ 14 + m.out.length * 2 ^ 28 + form * 2 ^ 30 + boolNat mark * 2 ^ 32 + boolNat m.special * 2 ^ 33
    + boolNat rot * 2 ^ 34 + 2 ^ 35 + pScale * 2 ^ 36 + eScale * 2 ^ 44)

/-- Decide and convert block `j`, whose first element has global index 32 j (R188, R189). -/
def decideBlock (c : EgCtx) (j : Nat) (vs : List Val) : BlockOut × Flags :=
  let rs := (List.range vs.length).map fun i => diceSr c.seed c.pos (32 * j + i)
  let m := blockMeasure c vs
  let form := blockForm c m
  let (f0, fl0) := encBlock fmtE2M1 c.md c.sat c.u vs rs
  let word := fun ps es => blockWord m form f0.mark c.rot ps es
  let e8 := fun i => encFloat fmtE8M7 c.md c.sat (overU c.u (vs.getD i (.fin dyZero))) (rs.getD i 0)
  if form = 1 then
    let sc := stdScale (if m.out.length = 1 then m.m2 else m.m3) 2 c.u
    let (es, fl) := flagMap (fun i => if m.out.contains i then (0, fNone) else encElem fmtE2M1 c.md c.sat sc c.u (vs.getD i (.fin dyZero)) (rs.getD i 0)) (List.range vs.length)
    let outs := (List.range vs.length).filter fun i => m.out.contains i
    let (ents, fe) := flagMap (fun i => let (x, f) := e8 i; (outlierEntry (32 * j + i) x, f)) outs
    (⟨sc.toNat, padNat 32 es, ents.flatten, word sc.toNat 0, 1⟩, fl ||| fe)
  else if form = 2 then
    let sc := stdScale m.m1 8 c.u
    let (es, fl) := encElems fmtE4M3 c.md c.sat sc c.u vs rs
    (⟨f0.scale, padNat 32 f0.elems, e4m3Record j sc.toNat es, word f0.scale sc.toNat, 2⟩, fl)
  else if form = 3 then
    let (es, fl) := flagMap e8 (List.range vs.length)
    (⟨f0.scale, padNat 32 f0.elems, e8m7Record j es, word f0.scale 0, 3⟩, fl)
  else (⟨f0.scale, padNat 32 f0.elems, [], word f0.scale 0, 0⟩, fl0)

/-- Convert block `j` of an egress that decides no forms (R182): scale code (0 for unscaled formats) and element codes. -/
def plainBlock (c : EgCtx) (j : Nat) (ws : List Word64) : BlockOut × Flags :=
  let vs := ws.map (stageVal c.int)
  let rs := (List.range vs.length).map fun i => diceSr c.seed c.pos (32 * j + i)
  if fmtScaled c.fmt then
    let (b, f) := encBlock c.fmt c.md c.sat c.u vs rs
    (⟨b.scale, padNat 32 b.elems, [], 0#64, 0⟩, f)
  else
    let (es, f) := flagMap (fun p : Word64 × Nat =>
      if c.fmt == fmtCP64 then (if c.int then ((intPair p.1.toInt).toNat, fNone) else encCp64 p.1)
      else if fmtInt c.fmt then encInt c.fmt c.signed c.md (stageVal c.int p.1) p.2
      else encFloat c.fmt c.md c.sat (stageVal c.int p.1) p.2) (ws.zip rs)
    (⟨0, padNat 32 es, [], 0#64, 0⟩, f)

/-- One block of an egress: all six stages (R166). -/
def egressBlock (c : EgCtx) (j : Nat) (ws bs : List Word64) : BlockOut × Flags :=
  let (l, f) := stages14 c j ws bs
  if c.decided then let (b, g) := decideBlock c j (l.map valOfPair); (b, f ||| g)
  else let (b, g) := plainBlock c j l; (b, f ||| g)

/-! ### The almanac (R201 to R205) -/

def almWord (e w : Nat) (s : State) : Word := tget 0#32 (4 * e + w) s.tabs.almanac
def setAlmWord (e w : Nat) (v : Word) (s : State) : State :=
  { s with tabs := { s.tabs with almanac := tset 0#32 (4 * e + w) v s.tabs.almanac } }

def predA (e : Nat) (s : State) : Int := signedField (fieldOf (almWord e 1 s) 16 8) 8
def predU (e : Nat) (s : State) : Int := signedField (fieldOf (almWord e 1 s) 24 8) 8

/-- A positive normal finite binary32 value. -/
def f32PosNormal (w : Word) : Bool := !f32Sign w && decide (1 ≤ f32Exp w ∧ f32Exp w ≤ 254)

/-- The true clip exponent (R202). -/
def trueA (ctrl limit : Word) (m : Measures) : Int :=
  if !bitOf ctrl 0 || !f32PosNormal limit || m.nfInf || m.nfNan then 0
  else
    let c2 := dyMul (f32Val limit) (f32Val limit)
    let n := ((List.range 126).find? fun (n : Nat) => dyLe ⟨m.s, -300⟩ (dyShift c2 (2 * (n : Int)))).getD 126
    0 - (n : Int)

def clampInt (lo hi x : Int) : Int := max lo (min hi x)

/-- The true tensor exponent (R203). -/
def trueU (ctrl : Word) (fmt : BitVec 4) (a : Int) (m : Measures) : Int :=
  if bitOf ctrl 1 && fmtScaled fmt && m.amax != 0#32 then clampInt (-126) 127 (dyLog2 (f32Val m.amax) + a - elemEmax fmt) else 0

/-- OUT_TSCALE: 2^u in binary32. -/
def tscaleOf (u : Int) : Word := f32Enc (dyPow2 u)

/-- The almanac entry takes the true values and counts the first comparison (R205). -/
def almanacSeal (e : Nat) (a u : Int) (hit : Bool) (s : State) : State :=
  let ctrl := (almWord e 1 s &&& 0x0000FFFF#32) ||| putAt 16 (intCode 8 a) ||| putAt 24 (intCode 8 u)
  let s := setAlmWord e 1 ctrl s
  if hit then setAlmWord e 2 (satAdd (almWord e 2 s) 1) s else setAlmWord e 3 (satAdd (almWord e 3 s) 1) s

/-! ### NORM (R208) -/

/-- Integer square root by bits, from bit `k` down. -/
def isqrtBits : Nat → Nat → Nat → Nat
  | 0, _, acc => acc
  | k + 1, n, acc => let t := acc + 2 ^ k; isqrtBits k n (if t * t ≤ n then t else acc)

/-- NORM (R208): the square root of S rounded to binary32 by RNE. DESIGN CHOICE (log 62): where both NF_NAN and NF_INF are set, NaN. -/
def normOf (m : Measures) : Word :=
  if m.nfNan then f32NaN
  else if m.nfInf then f32Inf
  else if m.s = 0 then 0#32
  else
    let n := m.s * 2 ^ 64
    let r := isqrtBits 352 n 0
    let v := rnd ⟨(2 * r + boolNat (r * r != n) : Nat), -183⟩
    if dyAboveMax v then f32Inf else f32Enc v

/-! ### The fallback-rate controller (R197 to R200) -/

def rotActive (s : State) : Bool := bitOf (reg rCTL_STATE s) 0
def setRotActive (b : Bool) (s : State) : State :=
  if rotActive s = b then s else irq pASSAY 1 (setReg rCTL_STATE (if b then 1#32 else 0#32) s)

/-- A threshold moved up by STEP stops at its floor; reaching it interrupts (R197, R426). -/
def raiseTh (th floor : Nat) (s : State) : State :=
  let v := regNat th s
  let n := min (v + regNat rSTEP s) (regNat floor s)
  let s := setReg th (BitVec.ofNat 32 n) s
  if v < n ∧ n = regNat floor s then irq pASSAY 0 s else s

def lowerTh (th : Nat) (s : State) : State := setReg th (BitVec.ofNat 32 (regNat th s - regNat rSTEP s)) s

/-- update(fb, nb) (R197). -/
def ctlUpdate (fb nb : Nat) (s : State) : State :=
  if !bitOf (reg rPOLICY s) 10 then s
  else
    let win := s.assayWin ++ [(fb, nb)]
    let keep := 2 ^ regNat rWINDOW s
    let win := win.drop (win.length - keep)
    let s := { s with assayWin := win }
    let f := (win.map Prod.fst).sum
    let n := (win.map Prod.snd).sum
    if n = 0 then s
    else
      let rate := f * 65536 / n
      let s := setReg rLAST_RATE (BitVec.ofNat 32 rate) s
      let target := regNat rTARGET s
      let band := regNat rBAND s
      if rate > target + band then
        if regNat rTH_E2M1 s < regNat rFLOOR_E2M1 s ∨ regNat rTH_E4M3 s < regNat rFLOOR_E4M3 s then
          raiseTh rTH_E4M3 rFLOOR_E4M3 (raiseTh rTH_E2M1 rFLOOR_E2M1 s)
        else if bitOf (reg rPOLICY s) 9 then setRotActive true s
        else s
      else if rate + band < target then
        if rotActive s then setRotActive false s else lowerTh rTH_E4M3 (lowerTh rTH_E2M1 s)
      else s

def emptyWindow (s : State) : State := { s with assayWin := [] }

/-- The thresholds never exceed their floors (R199). -/
def clampTh (s : State) : State :=
  let s := if regNat rFLOOR_E2M1 s < regNat rTH_E2M1 s then setReg rTH_E2M1 (reg rFLOOR_E2M1 s) s else s
  if regNat rFLOOR_E4M3 s < regNat rTH_E4M3 s then setReg rTH_E4M3 (reg rFLOOR_E4M3 s) s else s

/-- A write of an ASSAY setting, offsets 0x040 to 0x060, by the owner or the steward after its guard (R199, R200, R443). -/
def assaySetting (off : Nat) (v : Word) (s : State) : State :=
  if off = 0x040 then clampTh (setReg rTH_E2M1 (v &&& 0x3FFF#32) s)
  else if off = 0x044 then clampTh (setReg rTH_E4M3 (v &&& 0x3FFF#32) s)
  else if off = 0x048 then clampTh (setReg rFLOOR_E2M1 (v &&& 0x3FFF#32) s)
  else if off = 0x04C then clampTh (setReg rFLOOR_E4M3 (v &&& 0x3FFF#32) s)
  else if off = 0x050 then
    let v := v &&& 0x7F1#32
    let v := if fieldOf v 4 4 = 0 then v ||| 0x10#32 else v
    let s' := setReg rPOLICY v s
    if bitOf v 10 != bitOf (reg rPOLICY s) 10 then emptyWindow s' else s'
  else if off = 0x054 then setReg rTARGET (v &&& 0xFFFF#32) s
  else if off = 0x058 then setReg rBAND (v &&& 0xFFFF#32) s
  else if off = 0x05C then
    let n := fieldOf v 0 13
    setReg rSTEP (if n = 0 then 1#32 else if 4096 < n then 0x1000#32 else BitVec.ofNat 32 n) s
  else if off = 0x060 then
    let n := fieldOf v 0 3
    let n := if n = 7 then 6 else n
    let s' := setReg rWINDOW (BitVec.ofNat 32 n) s
    if n = regNat rWINDOW s then s' else emptyWindow s'
  else if off = 0x064 then setRotActive (bitOf v 0) s
  else s

end Sys2Proof.Machine
end

