-- ==== Sys2Proof/Machine/Meridian.lean ====
section
/-! DEFINITION. Meridian time, lock, holdover and loss, calibration, and the stuck-line detectors (R209 to R229). -/

namespace Sys2Proof.Machine

def merSource : BitVec 16 := source 4 0

/-- The transit shift k, 1 to 8 (R210). -/
def shiftK (s : State) : Nat := fieldOf (reg rTRANSIT_SHIFT s) 0 4

/-- One sixteenth of the nominal transit, in 1/16 ns (R212): a period of 4 ns is 64 units. -/
def slewStep (s : State) : Nat := 4 * 2 ^ shiftK s

def setMer (m : Meridian) (s : State) : State := { s with mer := m }

/-- Bits [63:24] of meridian time (R209). -/
def timeEpoch (s : State) : BitVec 40 := s.mer.time.extractLsb' 24 40

/-! ### Calibration: its end (R213, R401) -/

def calBit (i : Nat) (on : Bool) (s : State) : State :=
  setReg rMER_STATE (if on then reg rMER_STATE s ||| bit i else reg rMER_STATE s &&& ~~~bit i) s

def calPort (s : State) : Nat := fieldOf (reg rCAL_PORT s) 0 3

/-- A CAL ends: its outcome bit, BUSY clear, the interrupt. -/
def calEnd (outcome : Nat) (s : State) : State := irq pMERIDIAN 1 (calBit outcome true (calBit 10 false s))

/-- The exchanges of a CAL are under way. -/
def calRuns (s : State) : Bool := bitOf (reg rMER_STATE s) 10 && !s.mer.calWaiting

/-! ### Changes of state (R224) -/

/-- LOCKED begins: no whole epoch has been counted in it, and the window of the epoch in progress is not waited for (R226); the chain of the meridian closes (R338). -/
def lockedBegins (s : State) : State := closeSourceChain merSource { s with mer := { s.mer with epochFclk := none, markEpoch := some (timeEpoch s) } }

/-- A change of meridian state (R224): the STATE field and its interrupt (R420). A measurement that runs ends in failure where LOCKED ends (R213). -/
def setMerState (n : Nat) (s : State) : State :=
  if merState s = n then s
  else
    let s := if merState s == 2 && calRuns s then calEnd 9 s else s
    let s := irq pMERIDIAN 0 (setReg rMER_STATE ((reg rMER_STATE s &&& ~~~7#32) ||| BitVec.ofNat 32 n) s)
    if n = 2 then lockedBegins s else s

/-! ### Where the count stands (R209, R212) -/

/-- 20 ns in units of 1/16 ns (R212). -/
def edgeDelay : Nat := 320

/-- The instant at which the count reaches a time at the pins: 64 units to a reference period. -/
def edgeOf (t : Nat) (s : State) : Int := s.mer.edgeAt + 64 * ((t : Int) - s.mer.time.toNat)

/-- Where R212 places the first edge of a transit. -/
def targetOf (n : Nat) (s : State) : Int := edgeOf (n * 2 ^ shiftK s) s + s.mer.delayAt + edgeDelay

/-- This chip's own meridian time at the first edge of the current transit, in 1/16 ns: 0 at its boundary of time 0 (R213). -/
def stampNow (s : State) : Int := 64 * s.mer.time.toNat + (s.clock.now - (s.mer.edgeAt + s.mer.delayAt + edgeDelay))

/-- The count jumps to the time that was, or is to be, at an instant, as of the first edge of the current transit (R225, R229). -/
def loadTime (t : Nat) (edge : Int) (s : State) : State :=
  let p : Nat := ((s.clock.now - (edge + s.mer.delayAt + edgeDelay)) / 64).toNat
  { s with mer := { s.mer with time := BitVec.ofNat 64 (t + p), edgeAt := edge + 64 * p, reload := true } }

/-! ### Markers and timecode -/

/-- A marker accepted off its expected place sets bits [23:0] to 0 at its first edge: from there on the count stands `offset` periods lower, and the transit in progress takes the difference (R211, R221, log 15). -/
def markerAt (offset : Int) (s : State) : State :=
  { s with mer := { s.mer with time := BitVec.ofInt 64 ((s.mer.time.toNat : Int) - offset) } }

/-- A marker of two periods is tested against the acceptance window in LOCKED, HOLDOVER and SLEWING, and accepted in ACQUIRE; an epoch that brought no frame ends a run of differing ones (R221, R222, R225). DESIGN CHOICE (log 54): in LOST, which reacquires as ACQUIRE does (R229) and counts without MER_REF, it is accepted too. -/
def markerTest (offset : Int) (s : State) : State :=
  if merState s = 1 ∨ merState s = 4 then { s with mer := { s.mer with acqMark := true } }
  else if merState s = 0 then s
  else if offset.natAbs ≤ fieldOf (reg rMARK_WINDOW s) 0 4 then
    let s := { s with mer := { s.mer with acqMark := true, mismatches := if s.mer.acqMark then 0 else s.mer.mismatches } }
    let s := if offset ≠ 0 then count rMARK_SLIP 1 (markerAt offset s) else s
    { s with mer := { s.mer with markEpoch := some (timeEpoch s) } }
  else count rMARK_EARLY 1 s

/-- One whole epoch, 2^24 reference periods, in units of 1/16 ns: how long MER_MARK stays low before a marker is accepted again (R220, log 51). -/
def epochUnits : Nat := 2 ^ 24 * 64

/-- MER_MARK was stuck, and has not been low for one whole epoch since its last pulse (R220, log 51). -/
def markHeldOff (s : State) : Bool :=
  match s.mer.markStuck with
  | some t => decide (s.clock.now < t + epochUnits)
  | none => false

/-- MER_MARK high for `width` consecutive edges (R220): a glitch is counted whether or not markers are accepted; a stuck line in LOCKED starts a holdover (R226). -/
def merMarkApply (width : Nat) (offset : Int) (s : State) : State :=
  if !alive s ∨ width = 0 then s
  else if 2 < width then
    let s := logFault ⟨0x10, clsNotice, merSource, none, none⟩ { s with mer := { s.mer with markStuck := some s.clock.now } }
    if merState s = 2 then setMerState 3 { s with mer := { s.mer with holdPeriods := 0, refLost := false } } else s
  else
    let off := markHeldOff s
    let s := { s with mer := { s.mer with markStuck := if off then some s.clock.now else none } }
    if width = 1 then count rGLITCH_COUNT 1 s else if off then s else markerTest offset s

/-- The 40-bit epoch number of a valid frame (R58, R222). -/
def frameEpoch (bits : BitVec 56) : Option (BitVec 40) :=
  let e := bits.extractLsb' 8 40
  let bytes := (List.range 5).map fun i => e.extractLsb' (8 * (4 - i)) 8
  if bits.extractLsb' 48 8 = 0xA7#8 ∧ crc8 bytes = bits.extractLsb' 0 8 then some e else none

/-- A valid frame during acquisition: a second epoch in a row whose number is one above completes it (R225, R229). -/
def frameAcquire (e : BitVec 40) (edge : Int) (s : State) : State :=
  if !s.mer.acqMark then { s with mer := { s.mer with acqPrev := none } }
  else
    let ready := match s.mer.acqPrev with
      | some p => decide (e = p + 1)
      | none => false
    { s with mer := { s.mer with acqMark := false, acqPrev := some e, acqReady := ready, frameEdge := edge } }

/-- What the last first edge stood beyond its place, on the FCLK ratio (R226). -/
def ratioStart (s : State) : Nat := (s.clock.now - targetOf s.clock.transit.toNat s).toNat * regNat rFCLK_PER_EPOCH s

/-- The meridian is LOST: the count goes on by the FCLK ratio, and what was acquired before counts no more (R226, R229). -/
def countLost (s : State) : State :=
  let acc := if merState s == 3 && s.mer.refLost then s.mer.ratioAcc else ratioStart s
  setMerState 4 { s with mer := { s.mer with ratioAcc := acc, acqPrev := none, acqReady := false, acqMark := false, acquired := none } }

/-- A complete MER_CODE frame (R222, R226). DESIGN CHOICE (log 66): its epoch is held against the time that the block counts with, which is that of the current first edge and stands INPUT_DELAY + 20 ns behind the count at the pins (R212). -/
def timecodeApply (frame : Timecode) (s : State) : State :=
  if !alive s then s
  else match frameEpoch frame.bits with
  | none =>
    let s := count rCODE_ERR 1 s
    { s with mer := { s.mer with acqMark := false, acqPrev := none, mismatches := 0 } }
  | some e =>
    if merState s = 1 ∨ merState s = 4 then frameAcquire e frame.edge s
    else if merState s = 2 then
      if e = timeEpoch s then { s with mer := { s.mer with mismatches := 0, acqMark := false } }
      else
        let n := s.mer.mismatches + 1
        let s := { s with mer := { s.mer with mismatches := if 2 ≤ n then 0 else n, acqMark := false } }
        if 2 ≤ n then countLost (notice 0x14 merSource (notice 0x13 merSource s)) else notice 0x14 merSource s
    else if merState s = 3 then
      if s.mer.acqMark && e == timeEpoch s then setMerState 2 { s with mer := { s.mer with acqMark := false, refLost := false, mismatches := 0 } }
      else { s with mer := { s.mer with acqMark := false } }
    else s

/-- The meridian time at the end of the second frame: reference period 72 of its epoch (R225). -/
def lockTime (e : BitVec 40) : Nat := e.toNat * 2 ^ 24 + 72

/-- ACQUIRE locks: meridian time is loaded as of reference period 72 of the second epoch, whose edge ended the second frame; the transit number follows at the next first edge (R225). -/
def lockApply (s : State) : State :=
  if alive s && merState s == 1 && s.mer.acqReady then
    match s.mer.acqPrev with
    | none => s
    | some e => setMerState 2 (loadTime (lockTime e) s.mer.frameEdge { s with mer := { s.mer with acqReady := false, lockPending := true, mismatches := 0, acqMark := false } })
  else s

/-- The acceptance window of the epoch in progress has closed, and no marker of this epoch has been accepted (R221, R226). -/
def windowMissed (s : State) : Bool :=
  decide (fieldOf (reg rMARK_WINDOW s) 0 4 < s.mer.time.toNat % 2 ^ 24) && s.mer.markEpoch != some (timeEpoch s)

/-- The window closed without a marker: holdover on MER_REF edges, 0x11 (R226). -/
def markMissingApply (s : State) : State :=
  if alive s && merState s == 2 && windowMissed s then
    setMerState 3 { notice 0x11 merSource s with mer := { s.mer with holdPeriods := 0, refLost := false, acqMark := false } }
  else s

/-- No MER_REF edge: holdover on the FCLK ratio, 0x12; a running holdover goes on without restarting its duration (R226). DESIGN CHOICE (log 66): R226 speaks of LOCKED; in SLEWING a lost MER_REF, a missing marker and a stuck one leave the state, and the count goes on. -/
def refLossApply (s : State) : State :=
  if !alive s then s
  else if merState s = 2 then
    setMerState 3 { notice 0x12 merSource s with mer := { s.mer with holdPeriods := 0, refLost := true, ratioAcc := ratioStart s } }
  else if merState s = 3 && !s.mer.refLost then notice 0x12 merSource { s with mer := { s.mer with refLost := true, ratioAcc := ratioStart s } }
  else s

/-- MER_REF edges are back: the holdover counts on them again (R224, R226). DESIGN CHOICE (log 55): an edge takes the number that is nearest to the local count; how far it stands from there, half a period at most, is a free value. -/
def refReturnApply (s : State) : State :=
  if alive s && merState s == 3 && s.mer.refLost then
    { s with mer := { s.mer with refLost := false, edgeAt := s.mer.edgeAt + (Config.refPhase s.clock.now % 64 - 32) } }
  else s

/-- A holdover of 2^24 periods without relock becomes LOST, 0x13 (R226). -/
def lostApply (s : State) : State :=
  if alive s && merState s == 3 && decide (2 ^ 24 ≤ s.mer.holdPeriods) then countLost (notice 0x13 merSource s) else s

/-- A LOST chip relocks at reference period 72 of the second acquired epoch, whose edge ended its frame (R225): a difference from its own count within SLEW_LIMIT starts a slew, a larger one is refused with 0x15 (R229). A µs has 16,000 units. -/
def reacquireApply (edge : Int) (s : State) : State :=
  if alive s && merState s == 4 && s.mer.acqReady && edge == s.mer.frameEdge then
    match s.mer.acqPrev with
    | none => s
    | some e =>
      let diff : Int := 64 * lockTime e - (64 * s.mer.time.toNat + (edge - s.mer.edgeAt))
      let s := { s with mer := { s.mer with acqReady := false, acquired := some (BitVec.ofNat 64 (lockTime e), edge) } }
      if diff.natAbs ≤ unitsUs * regNat rSLEW_LIMIT s then setMerState 5 { s with mer := { s.mer with slewDiff := diff } }
      else notice 0x15 merSource s
  else s

/-- A slew below 1 ns ends in LOCKED: from there on the boundaries stand where R212 places them (R229). -/
def slewCompleteApply (s : State) : State :=
  if alive s && merState s == 5 && decide (s.mer.slewDiff.natAbs < 16) then
    setMerState 2 { s with mer := { s.mer with slewDiff := 0, edgeAt := s.mer.edgeAt - s.mer.slewDiff, acquired := none } }
  else s

/-- Some ledger is held (R152). -/
def anyHeld (s : State) : Bool := s.ledgers.any fun p => p.2.holder.isSome

/-- RESYNC, while FENCED with no ledger held and in LOST, loads meridian time from the acquired time, the transit number at the next first edge, and the state becomes LOCKED in class 2 there; at any other time it is ignored, with 0x15 (R217, R229). -/
def resyncWrite (s : State) : State :=
  match s.mer.acquired with
  | some t =>
    if s.clock.fenced && !anyHeld s && merState s == 4 then
      find_ .resynced (loadTime t.1.toNat t.2 { s with mer := { s.mer with acquired := none, mismatches := 0 } })
    else noticeNext 0x15 merSource s
  | none => noticeNext 0x15 merSource s

/-! ### Calibration: its exchanges (R213, R401) -/

/-- A frame of a port's own leaves: it counts among the flits sent (R56, R429). -/
def frameOut (port at' : Nat) (o : PortOut) (s : State) : State :=
  let l := linkAt port s
  present o (setReg64 (rTX_FLITS port) (reg64 (rTX_FLITS port) s + 1) (setLink port { l with lastTx := at' + 1 } s))

/-- Time frames of a CAL go out on a port that is UP and not about to go down (R74). -/
def timePort (port : Nat) (s : State) : Bool := (linkAt port s).state == 2 && (linkAt port s).dying == 0#8

/-- The measurement runs: it fails where this chip is not LOCKED or the link is not UP, and else sends its first frame. -/
def calStart (s : State) : State :=
  let t := stampNow s
  let s := { s with mer := { s.mer with calWaiting := false, calCount := 0, calTheta := 0, calRtt := 0, calT1 := t } }
  if merState s == 2 && timePort (calPort s) s then frameOut (calPort s) s.clock.fclk (.timeFrame (calPort s) t) s else calEnd 9 s

/-- CAL written: ignored while one runs; it waits for the end of a delay slew. -/
def calWrite (s : State) : State :=
  if bitOf (reg rMER_STATE s) 10 then s
  else
    let s := calBit 10 true (calBit 8 false (calBit 9 false s))
    if bitOf (reg rMER_STATE s) 11 then { s with mer := { s.mer with calWaiting := true } } else calStart s

/-- A time frame: a request is answered in every state; an answer feeds the running CAL with this chip's own stamps of the frame that it answers and of its arrival, and the next frame leaves at that edge (R213). -/
def timeFrameApply (port : Nat) (reply : Option TimeReply) (stamp : Int) (s : State) : State :=
  if !alive s then s
  else match reply with
  | none => if (linkAt port s).phyEnable && (linkAt port s).dying == 0#8 then frameOut port s.clock.fclk (.timeAnswer port stamp stamp) s else s
  | some r =>
    if !bitOf (reg rMER_STATE s) 10 || s.mer.calWaiting || port != calPort s then s
    else if !r.locked || merState s != 2 || !timePort port s then calEnd 9 s
    else
      let th := s.mer.calTheta + ((stamp - r.t3) - (r.t2 - s.mer.calT1))
      let rt := s.mer.calRtt + ((r.t2 - s.mer.calT1) + (stamp - r.t3))
      let n := s.mer.calCount + 1
      let s := { s with mer := { s.mer with calCount := n, calTheta := th, calRtt := rt, calT1 := stamp } }
      if n = 64 then
        calEnd 8 (setReg rCAL_RTT (BitVec.ofInt 32 (rt.tdiv 128)) (setReg rCAL_OFFSET (BitVec.ofInt 32 (th.tdiv 128)) s))
      else frameOut port s.clock.fclk (.timeFrame port stamp) s

/-- A running CAL ends in failure when its link goes down (R213). -/
def calLinkDown (port : Nat) (s : State) : State :=
  if calRuns s && port == calPort s then calEnd 9 s else s

/-- A delay slew has ended: a CAL that waits for it starts (R212, R401). -/
def delaySlewEnds (s : State) : State :=
  let s := calBit 11 false s
  if s.mer.calWaiting then calStart s else s

/-- INPUT_DELAY written: the boundaries slew to the new value from where they stand; one that names where they stand ends a slew (R212). -/
def inputDelayApply (v : Word) (s : State) : State :=
  let s := setReg rINPUT_DELAY (v &&& 0xFFFF#32) s
  if s.mer.delayAt = regNat rINPUT_DELAY s then delaySlewEnds s else calBit 11 true s

/-- Move x toward a target by at most d. -/
def approach (x target d : Nat) : Nat := if x < target then min target (x + d) else max target (x - d)

/-- One boundary of a delay slew (R212). -/
def delaySlew (s : State) : State :=
  if !bitOf (reg rMER_STATE s) 11 then s
  else
    let s := { s with mer := { s.mer with delayAt := approach s.mer.delayAt (regNat rINPUT_DELAY s) (slewStep s) } }
    if s.mer.delayAt = regNat rINPUT_DELAY s then delaySlewEnds s else s

/-! ### The next boundary (R211, R212, R225, R226, R229) -/

/-- The count goes by the FCLK ratio: in LOST, and in a holdover without reference (R224). -/
def onRatio (s : State) : Bool := merState s == 4 || (merState s == 3 && s.mer.refLost)

/-- How far the next boundary of a delay slew moves, in 1/16 ns (R212). -/
def delayStep (s : State) : Int :=
  if bitOf (reg rMER_STATE s) 11 then (approach s.mer.delayAt (regNat rINPUT_DELAY s) (slewStep s) : Int) - s.mer.delayAt else 0

/-- How much the next transit of a slew is shortened, or lengthened where negative: one sixteenth of it at most (R229). -/
def slewMove (s : State) : Int := if merState s = 5 then max (-(slewStep s : Int)) (min (slewStep s) s.mer.slewDiff) else 0

/-- Where the first edge of a transit is to fall after the slews of this boundary. -/
def nextTarget (n : Nat) (s : State) : Int := targetOf n s + delayStep s - slewMove s

/-- A boundary after this many cycles and this much time is the first FCLK edge at or after an instant. -/
def firstEdgeAt (target : Int) (cycles ticks : Nat) (s : State) : Bool :=
  decide (target ≤ s.clock.now + ticks) && decide (((s.clock.now + ticks : Int) - target) * cycles < ticks)

/-- So few cycles of the given length remain to an instant that the boundary there would leave a transit of fewer than 8. -/
def tooSoon (target : Int) (cycles ticks : Nat) (s : State) : Bool := decide ((target - s.clock.now) * cycles ≤ 7 * (ticks : Int))

/-- The first transit that R212 places after the current first edge. -/
def reloadTransit (s : State) : Nat :=
  let k : Int := 64 * 2 ^ shiftK s
  ((64 * (s.mer.time.toNat : Int) + (s.clock.now - (s.mer.edgeAt + s.mer.delayAt + edgeDelay))) / k + 1).toNat

/-- The number of the transit that follows: one more; where the count has been loaded, the first that R212 places at least 8 cycles ahead, or the one after it (R211, R225). -/
def nextTransit (cycles ticks : Nat) (s : State) : Nat :=
  if s.mer.reload then (if tooSoon (targetOf (reloadTransit s) s) cycles ticks s then reloadTransit s + 1 else reloadTransit s)
  else s.clock.transit.toNat + 1

/-- What the FCLK ratio needs for a number of periods and units of 1/16 ns more: an FCLK cycle counts 2^30, a period 64 times FCLK_PER_EPOCH (R226). -/
def ratioNeed (n : Nat) (s : State) : Int :=
  (64 * ((n * 2 ^ shiftK s : Int) - s.mer.time.toNat) + delayStep s) * regNat rFCLK_PER_EPOCH s - s.mer.ratioAcc

/-- The boundary of the ratio falls after this many cycles: the first at which the count suffices; any from 8 on where no epoch has been recorded (log 55). -/
def ratioFits (cycles : Nat) (s : State) : Bool :=
  let need := ratioNeed (s.clock.transit.toNat + 1) s
  regNat rFCLK_PER_EPOCH s == 0 || (decide (need ≤ cycles * 2 ^ 30) && (cycles == 8 || decide ((cycles - 1) * 2 ^ 30 < need)))

/-- A free transit: FREE_CYCLES where that is in its range (R224, R225). -/
def freeFits (cycles : Nat) (s : State) : Bool :=
  let n := regNat rFREE_CYCLES s
  if 8 ≤ n ∧ n ≤ 2047 then cycles == n else decide (8 ≤ cycles)

/-- The boundary can fall here: free transits last FREE_CYCLES, the others end where R212 places the next first edge, and no transit has fewer than 8 FCLK cycles (R211, R225, R229). -/
def boundaryFits (cycles ticks : Nat) (s : State) : Bool :=
  if !s.mer.reload && (merState s == 0 || merState s == 1) then freeFits cycles s
  else
    decide (8 ≤ cycles) &&
      if !s.mer.reload && onRatio s then ratioFits cycles s
      else
        let target := nextTarget (nextTransit cycles ticks s) s
        firstEdgeAt target cycles ticks s || (cycles == 8 && !s.mer.reload && decide (target ≤ s.clock.now + ticks))

/-- Meridian time at the boundary to transit n: the count stands at n times 2^k; a holdover has lasted as many periods longer; a slew closes by its step; the ratio carries on what it counted beyond (R209, R211, R226, R229). DESIGN CHOICE (log 66): where an image record changes TRANSIT_SHIFT after the lock (R210), the number goes on by one and the time becomes that number times the new 2^k. -/
def merBoundary (n cycles ticks : Nat) (s : State) : State :=
  if !s.mer.reload && (merState s == 0 || merState s == 1) then s
  else
    let m := s.mer
    let t := n * 2 ^ shiftK s
    let ratio := !m.reload && onRatio s
    let f := regNat rFCLK_PER_EPOCH s
    let acc : Nat := if ratio && f != 0 then (cycles * 2 ^ 30 - ratioNeed n s).toNat else m.ratioAcc
    let edge : Int := if ratio then s.clock.now + ticks - acc / max 1 f - (m.delayAt + delayStep s) - edgeDelay else edgeOf t s - slewMove s
    { s with mer := { m with time := BitVec.ofNat 64 t, edgeAt := edge, ratioAcc := acc, reload := false, holdPeriods := if merState s = 3 then m.holdPeriods + (t - m.time.toNat) else m.holdPeriods, slewDiff := m.slewDiff - slewMove s } }

/-- An epoch ends at a boundary in LOCKED: its FCLK cycles are recorded where all of it was counted (R226). -/
def epochEdge (s : State) : State :=
  if merState s != 2 || s.mer.time.toNat % 2 ^ 24 != 0 then s
  else
    let s := match s.mer.epochFclk with
      | some f => setReg rFCLK_PER_EPOCH (BitVec.ofNat 32 (s.clock.fclk - f)) s
      | none => s
    { s with mer := { s.mer with epochFclk := some s.clock.fclk } }

/-! ### Stuck-line detectors (R223) -/

/-- BELL_EXT_PULL of a board line: the line that has its board part there, else pulled low (R321, R332). -/
def boardPull (b : Nat) (s : State) : Bool :=
  match (List.range 16).find? fun n => bitOf (lineAt n s).cfg 0 && bitOf (lineAt n s).cfg 1 && fieldOf (lineAt n s).cfg 2 2 == b with
  | some n => (lineAt n s).pull
  | none => true

def setAt {α : Type} (i : Nat) (v : α) (l : List α) : List α := l.set i v

/-- The detectors at a boundary: the run of high samples under our pull, the time low while our part is complete, and re-arming where the line has held the opposite level for the transit that ends. -/
def detectorBoundary (s : State) : State :=
  (List.range 4).foldl (fun s b =>
    let high := s.clock.bellSense.getLsbD b
    let pull := boardPull b s
    let m := s.mer
    let m := { m with bellHighRun := setAt b (if high && pull then m.bellHighRun.getD b 0 + 1 else 0) m.bellHighRun }
    let m := if !high then { m with bellHighFired := setAt b false m.bellHighFired } else { m with bellLowFired := setAt b false m.bellLowFired }
    let m := if high || pull then { m with bellLowSince := setAt b s.clock.now m.bellLowSince } else m
    { s with mer := m }) (if s.clock.fenceIn then s else { s with mer := { s.mer with fenceHighFired := false } })

def bellExtHighApply (n : Nat) (s : State) : State :=
  if alive s && decide (8 ≤ s.mer.bellHighRun.getD n 0) && !s.mer.bellHighFired.getD n false then
    notice 0x16 (source 4 0) { s with mer := { s.mer with bellHighFired := setAt n true s.mer.bellHighFired } }
  else s

def bellExtLowApply (n : Nat) (s : State) : State :=
  let lim := regNat rBELL_LOW_LIMIT s
  if alive s && lim != 0 && !boardPull n s && !s.clock.bellSense.getLsbD n && !s.mer.bellLowFired.getD n false
      && decide (lim * unitsUs ≤ s.clock.now - s.mer.bellLowSince.getD n 0) then
    notice 0x17 (source 4 0) { s with mer := { s.mer with bellLowFired := setAt n true s.mer.bellLowFired } }
  else s

def fenceHighApply (s : State) : State :=
  let lim := regNat rFENCE_HIGH_LIMIT s
  if alive s && lim != 0 && s.clock.fenceIn && !s.mer.fenceHighFired && decide (lim * unitsUs ≤ s.clock.now - s.mer.fenceHighSince) then
    notice 0x18 (source 4 0) { s with mer := { s.mer with fenceHighFired := true } }
  else s

/-- A change that the glitch filter removes is counted (R219). -/
def glitchApply (s : State) : State := if alive s then count rGLITCH_COUNT 1 s else s

end Sys2Proof.Machine
end

