-- ==== Sys2Proof/Machine/Topology.lean ====
section
/-! DEFINITION. Axes, the port map, group definitions and ring positions (R271 to R276), and writes to the TOPOLOGY page (R272, R274, R307, R434). -/

namespace Sys2Proof.Machine

def topSource : BitVec 16 := source 0 0

def axesN (s : State) : Nat := regNat rAXES s
def axisSize (a : Nat) (s : State) : Nat := fieldOf (reg (rAXIS a) s) 0 7
def axisWrap (a : Nat) (s : State) : Bool := bitOf (reg (rAXIS a) s) 8
def selfCoord (a : Nat) (s : State) : Nat := fieldOf (reg rSELF s) (8 * a) 6

/-- The defaults hold (R368): then every port map entry reads ABSENT. -/
def defaultsUsed (s : State) : Bool := bitOf (reg rCFG_STATUS s) 0
def portMap (n : Nat) (s : State) : Word := if defaultsUsed s then 8#32 else reg (rPORTMAP n) s
def portAbsent (n : Nat) (s : State) : Bool := !hasPort n s || bitOf (portMap n s) 3
def portAxis (n : Nat) (s : State) : Nat := fieldOf (portMap n s) 0 2
def portNeg (n : Nat) (s : State) : Bool := bitOf (portMap n s) 2

/-- Coordinate after a move of one along an axis; none past an end without WRAP (R271). -/
def moveCoord (a x : Nat) (neg : Bool) (s : State) : Option Nat :=
  let n := axisSize a s
  if neg then (if x = 0 then (if axisWrap a s then some (n - 1) else none) else some (x - 1))
  else if x + 1 < n then some (x + 1) else if axisWrap a s then some 0 else none

/-- The coordinates of a port's partner (R271). -/
def partnerCoords (n : Nat) (s : State) : Option (List Nat) :=
  if portAbsent n s then none
  else match moveCoord (portAxis n s) (selfCoord (portAxis n s) s) (portNeg n s) s with
    | none => none
    | some x => some ((List.range (axesN s)).map fun a => if a = portAxis n s then x else selfCoord a s)

/-- The port mapped to an axis and direction. -/
def portOn (a : Nat) (neg : Bool) (s : State) : Option Nat :=
  (List.range s.build.ringPorts).find? fun n => !portAbsent n s && portAxis n s == a && portNeg n s == neg

/-! ### Group definitions -/

def gValid (g : GroupDef) : Bool := bitOf g.cfg 0
def gMask (g : GroupDef) : Nat := fieldOf g.cfg 4 4
def gVc (g : GroupDef) : Nat := fieldOf g.cfg 8 1
def gShared (g : GroupDef) : Bool := bitOf g.cfg 9
def gWeight (g : GroupDef) : Nat := fieldOf g.cfg 12 4
def gAxes (g : GroupDef) : List Nat := (List.range 4).filter fun a => (gMask g).testBit a
def gLo (g : GroupDef) (a : Nat) : Nat := fieldOf (if a < 2 then g.rangeA else g.rangeB) (16 * (a % 2)) 6
def gHi (g : GroupDef) (a : Nat) : Nat := fieldOf (if a < 2 then g.rangeA else g.rangeB) (16 * (a % 2) + 8) 6
def gLen (g : GroupDef) (a : Nat) : Nat := gHi g a + 1 - gLo g a
/-- N: the product of the range lengths (R274). -/
def gN (g : GroupDef) : Nat := ((gAxes g).map (gLen g)).foldl (· * ·) 1

/-- This chip is a member: its coordinates lie in every range (R274). -/
def gMember (g : GroupDef) (s : State) : Bool := (gAxes g).all fun a => decide (gLo g a ≤ selfCoord a s ∧ selfCoord a s ≤ gHi g a)

/-- ring_pos over digits and lengths, highest axis first (R275). -/
def ringPosOf : List (Nat × Nat) → Nat → Nat
  | [], p => p
  | (d, n) :: t, p => ringPosOf t (p * n + if p % 2 = 1 then n - 1 - d else d)

/-- This chip's ring position (R275). -/
def gPos (g : GroupDef) (s : State) : Nat := ringPosOf ((gAxes g).reverse.map fun a => (selfCoord a s - gLo g a, gLen g a)) 0

/-- Digits of a ring position, highest axis first: the inverse of `ringPosOf`; `ns` are the lengths highest axis first. -/
def ringDigits : List Nat → Nat → Nat → List Nat
  | [], _, _ => []
  | n :: t, p, hi =>
    let below := t.foldl (· * ·) 1
    let q := p / below
    let x := q % n
    (if hi % 2 = 1 then n - 1 - x else x) :: ringDigits t p q

/-- The axis and direction of the hop from position q to q + 1, and whether it is an ordinary hop of one axis step (R276). -/
def hopOf (g : GroupDef) (q q' : Nat) : Option (Nat × Bool) :=
  let axs := (gAxes g).reverse
  let ns := axs.map (gLen g)
  let a := ringDigits ns q 0
  let b := ringDigits ns q' 0
  match (axs.zip (a.zip b)).filter fun x => x.2.1 != x.2.2 with
  | [(ax, x, y)] => some (ax, decide (y < x))
  | _ => none

/-- The highest included axis. -/
def gTop (g : GroupDef) : Nat := (gAxes g).getLastD 0

/-- The range on an axis is the whole axis with WRAP, so that its ends are partners (R271, R276). -/
def wholeAxis (g : GroupDef) (a : Nat) (s : State) : Bool := axisWrap a s && gLen g a == axisSize a s

/-- The closing hop is direct: the whole axis with WRAP, or a range of length 2 (R276). -/
def closingDirect (g : GroupDef) (s : State) : Bool := wholeAxis g (gTop g) s || gLen g (gTop g) == 2

/-- The axis and direction in which position q sends toward q + 1 (forward) or q - 1 (reverse), positions modulo N (R276). A closing hop over the wrap goes on in the ring's own direction, on an axis of SIZE 2 too; a range of length 2 without one goes back over its only link. -/
def sendHop (g : GroupDef) (q : Nat) (reverse : Bool) (s : State) : Option (Nat × Bool) :=
  let n := gN g
  let a := gTop g
  if !reverse then
    if q + 1 < n then hopOf g q (q + 1)
    else if wholeAxis g a s then some (a, false)
    else if gLen g a = 2 then hopOf g q 0
    else some (a, true)
  else
    if 0 < q then hopOf g q (q - 1)
    else if wholeAxis g a s then some (a, true)
    else if gLen g a = 2 then hopOf g q (n - 1)
    else some (a, false)

/-- The port on which this chip sends in a direction. -/
def sendPort (g : GroupDef) (reverse : Bool) (s : State) : Option Nat :=
  match sendHop g (gPos g s) reverse s with
  | none => none
  | some (a, neg) => portOn a neg s

/-- The sender's hop is the relayed closing hop (R276). -/
def sendRelayed (g : GroupDef) (reverse : Bool) (s : State) : Bool :=
  !closingDirect g s && (gPos g s == if reverse then 0 else gN g - 1)

/-- This chip relays the closing hop: it stands on the line along the highest axis, between the hop's two ends (R276). -/
def relaysClosing (g : GroupDef) (s : State) : Bool :=
  let a := gTop g
  !closingDirect g s && decide (gLo g a < selfCoord a s ∧ selfCoord a s < gHi g a) && (gAxes g).all fun b => b == a || selfCoord b s == gLo g b

/-- Every port that the definition's hops and relays on this chip use, none for one that is ABSENT (R276, R306). -/
def groupPorts (g : GroupDef) (s : State) : List (Option Nat) :=
  if gN g ≤ 1 then []
  else
    let q := gPos g s
    let n := gN g
    let prev := if q = 0 then n - 1 else q - 1
    let next := if q + 1 = n then 0 else q + 1
    let fromPrev := (sendHop g prev false s).map fun h => portOn h.1 (!h.2) s
    let fromNext := (sendHop g next true s).map fun h => portOn h.1 (!h.2) s
    let relay := if relaysClosing g s then [portOn (gTop g) true s, portOn (gTop g) false s] else []
    [sendPort g false s, sendPort g true s, fromPrev.getD none, fromNext.getD none] ++ relay

/-- A hop needs an ABSENT port (R276). -/
def groupAbsent (g : GroupDef) (s : State) : Bool := (groupPorts g s).any fun p => p.isNone

/-- The checks of R274 and, for enabling, of WEIGHT (R434). -/
def groupBad (g : GroupDef) (s : State) : Bool :=
  (gAxes g).any (fun a => decide (gHi g a < gLo g a ∨ axisSize a s ≤ gHi g a ∨ axesN s ≤ a)) || decide (4096 < gN g)
    || (decide (1 < (gAxes g).length) && gLen g (gTop g) % 2 == 1)

def allGroups : List Nat := List.range 256

/-- Some VALID definition breaks R274 in this state (R434). -/
def anyGroupBad (s : State) : Bool := s.groups.any fun p => gValid p.2 && groupBad p.2 s

/-- A leg is active on a definition (R434). -/
def legActive (g : Nat) (s : State) : Bool := s.ops.any fun o => match o.leg with | some l => l.tgroup == g | none => false

def cfgRefuse (s : State) : State := notice 0x29 topSource s

def anyLinkUp (s : State) : Bool := s.links.any fun p => p.2.state != 0

/-- LINK_STATE.ABSENT follows the port map: a port whose bit changes raises its page's cause 0 (R426, R430). -/
def absentIrq (before s : State) : State :=
  (List.range s.build.ringPorts).foldl (fun s n => if portAbsent n before == portAbsent n s then s else irq (pRING n) 0 s) s

/-- A write of AXES, an axis register, SELF or a port map entry (R272, R368, R434). -/
def topologyRegWrite (off : Nat) (v : Word) (s : State) : State :=
  if anyLinkUp s then cfgRefuse s
  else if 0x060 ≤ off then
    let n := (off - 0x060) / 4
    let v := v &&& 0xF#32
    if defaultsUsed s then cfgRefuse s
    else
      let s' := absentIrq s (setReg (rPORTMAP n) v s)
      let a := fieldOf v 0 2
      if bitOf v 3 then s'
      else if axesN s ≤ a || (List.range s.build.ringPorts).any (fun m => m != n && !portAbsent m s && portAxis m s == a && portNeg m s == bitOf v 2)
          || (moveCoord a (selfCoord a s) (bitOf v 2) s).isNone then cfgRefuse s
      else s'
  else if off = 0x054 then setReg rSELF (v &&& 0x3F3F3F3F#32) s
  else
    let s' := setReg (pageBase pTOPOLOGY + off) (v &&& if off = 0x040 then 7#32 else 0x17F#32) s
    if anyGroupBad s' then cfgRefuse s else s'

def groupSel (copy : Nat) (s : State) : Nat := fieldOf (reg (rGROUP_SELECT + copy) s) 0 8

/-- A bell line that is enabled names the definition (R434). -/
def lineUses (g : Nat) (s : State) : Bool :=
  (List.range 16).any fun n => let c := (lineAt n s).cfg; bitOf c 0 && fieldOf c 8 8 == g

/-- A GROUP_CFG write (R274, R434). -/
def groupCfgApply (copy : Nat) (v : Word) (s : State) : State :=
  let i := groupSel copy s
  let g := groupAt i s
  let v := v &&& 0xF3F1#32
  if gValid g then
    if v = g.cfg then s
    else if v ||| 1#32 != g.cfg then cfgRefuse s
    else if legActive i s || lineUses i s then cfgRefuse s
    else setGroup i { g with cfg := v } s
  else
    let g' := { g with cfg := v &&& ~~~1#32 }
    let s' := setGroup i g' s
    if !bitOf v 0 then s'
    else if groupBad g' s || gWeight g' == 0 then cfgRefuse s'
    else setGroup i { g' with cfg := v, fenced := false, legSeq := 0#16 } s'

/-- A write of GROUP_RANGE_A or _B: only while VALID is 0 (R434). -/
def groupRangeApply (copy : Nat) (second : Bool) (v : Word) (s : State) : State :=
  let i := groupSel copy s
  let g := groupAt i s
  let v := v &&& 0x3F3F3F3F#32
  if gValid g then cfgRefuse s
  else setGroup i (if second then { g with rangeB := v } else { g with rangeA := v }) s

/-- UNFENCE: every port that the definition uses on this chip is UP, or it is refused; one that this chip is no member of uses none (R306, R307). -/
def unfenceApply (copy : Nat) (s : State) : State :=
  let i := groupSel copy s
  let g := groupAt i s
  if !gMember g s || (groupPorts g s).all (fun p => match p with | some n => (linkAt n s).state == 2 | none => false) then
    setGroup i { g with fenced := false, legSeq := 0#16 } s
  else cfgRefuse s

end Sys2Proof.Machine
end

