-- ==== Sys2Proof/Machine/Tallies.lean ====
section
/-! DEFINITION. Tallies, the tally port, remote ADDs at their application, and musters (R38 to R42, R309 to R313, R317, R329). -/

namespace Sys2Proof.Machine

/-- The test of WAIT and TAKE: the count has reached the threshold without going more than half the number space beyond it (R310). -/
def reachedBy (v n : Word) : Bool := decide ((v - n).toNat < 2 ^ 31)

/-- TLY_STAT values (R38). -/
def stDone : Nat := 0
def stCancelled : Nat := 1
def stBadIndex : Nat := 2
def stCleared : Nat := 3

def setPend (stall : Nat) (p : Option Pend) (s : State) : State := setStall stall { stallAt stall s with pend := p } s

/-- BAD_INDEX: nothing is applied; the completion is counted and interrupts (R38, R426, R444). -/
def badIndexAck (stall : Nat) (s : State) : State :=
  let st := stallAt stall s
  irq pSTALL 0 (setStall stall { st with badIndex := satAdd st.badIndex 1 } (present (.tlyAck stall 0#32 stBadIndex) s))

/-- The tally port takes a request: the block serves and none is pending (R39, R70, R359). -/
def tallyReady (stall : Nat) (s : State) : Bool := serving s && (stallAt stall s).pend.isNone

/-- A request with a valid index; an index of 48 or above completes with BAD_INDEX. -/
def tallyReq (stall : Nat) (idx : BitVec 6) (f : State → State) (s : State) : State :=
  if !tallyReady stall s then s else if 48 ≤ idx.toNat then badIndexAck stall s else f s

def tallyAddApply (stall : Nat) (idx : BitVec 6) (a : Word) (s : State) : State :=
  tallyReq stall idx (fun s => present (.tlyAck stall (tally stall idx.toNat s + a) stDone) (addTally stall idx.toNat a s)) s

def tallySubApply (stall : Nat) (idx : BitVec 6) (a : Word) (s : State) : State :=
  tallyReq stall idx (fun s => present (.tlyAck stall (tally stall idx.toNat s - a) stDone) (addTally stall idx.toNat (-a) s)) s

def tallyReadApply (stall : Nat) (idx : BitVec 6) (s : State) : State :=
  tallyReq stall idx (fun s => present (.tlyAck stall (tally stall idx.toNat s) stDone) s) s

/-- The test of a WAIT or TAKE at its position: satisfied, it completes, a TAKE consuming its threshold; otherwise it stays pending (R40, R310, R446). -/
def tallyTest (stall : Nat) (p : Pend) (s : State) : State :=
  let v := tally stall p.idx s
  if reachedBy v p.arg then
    let s := setPend stall none s
    if p.take then present (.tlyAck stall (v - p.arg) stDone) (setTally stall p.idx (v - p.arg) s)
    else present (.tlyAck stall v stDone) s
  else setPend stall (some p) s

def tallyWaitApply (stall : Nat) (idx : BitVec 6) (n : Word) (s : State) : State :=
  tallyReq stall idx (tallyTest stall ⟨false, idx.toNat, n⟩) s

def tallyTakeApply (stall : Nat) (idx : BitVec 6) (n : Word) (s : State) : State :=
  tallyReq stall idx (tallyTest stall ⟨true, idx.toNat, n⟩) s

/-- A request whose index is 48 or above or whose op is reserved (R38). -/
def tallyBadApply (stall : Nat) (op : BitVec 3) (idx : BitVec 6) (s : State) : State :=
  if tallyReady stall s && (decide (48 ≤ idx.toNat) || decide (5 ≤ op.toNat)) then badIndexAck stall s else s

/-- A pending WAIT or TAKE is tested again in every later transit (R40, R313). -/
def tallyRetestApply (stall : Nat) (s : State) : State :=
  if !serving s then s
  else match (stallAt stall s).pend with
    | none => s
    | some p => tallyTest stall p s

/-- A cancel of a pending WAIT or TAKE: one that its threshold satisfies in the same transit completes with DONE instead (R41, R42, R446). -/
def tlyCancelApply (stall : Nat) (s : State) : State :=
  if !serving s then s
  else match (stallAt stall s).pend with
    | none => s
    | some p =>
      if reachedBy (tally stall p.idx s) p.arg then tallyTest stall p s
      else present (.tlyAck stall (tally stall p.idx s) stCancelled) (setPend stall none s)

/-- The clearing of a SAVE completes every pending request with CLEARED (R38, R331). -/
def clearTallies (s : State) : State :=
  let s := s.stalls.foldl (fun s p =>
    if p.2.pend.isSome then present (.tlyAck p.1 0#32 stCleared) (setPend p.1 none s) else s) s
  { s with tabs := { s.tabs with tallies := [] } }

/-! ### The tally window (R311): what an access does after its checks -/

/-- A slot that names a tally of a stall of the build. -/
def windowSlot (stall t : Nat) (s : State) : Bool := hasStall stall s && decide (t < 48)

def windowWrite (stall t off : Nat) (v : Word) (s : State) : State :=
  if !windowSlot stall t s then s
  else if off = 0 then setTally stall t v s
  else if off = 4 then addTally stall t v s
  else if off = 8 then addTally stall t (-v) s
  else s

def windowRead (stall t off : Nat) (s : State) : Word := if windowSlot stall t s && off == 0 then tally stall t s else 0#32

/-! ### Remote ADDs at their turn (R317) -/

/-- The oldest held ADD of a port applies, or is discarded where it names no tally (R317). -/
def remoteAddApplyAt (port : Nat) (s : State) : State :=
  if !alive s then s
  else
    let l := linkAt port s
    match l.adds with
    | [] => s
    | a :: rest =>
      if !a.ready then s
      else
        let s := setLink port { l with adds := rest } s
        if hasStall a.add.stall s && decide (a.add.tally < 48) then addTally a.add.stall a.add.tally a.add.amount s
        else irq pBELL 1 (count rREMOTE_BAD 1 s)

/-! ### Musters (R328, R329) -/

def musterCtrl (e : Nat) (s : State) : Word := tget 0#32 (2 * e) s.tabs.musters
def musterValue (e : Nat) (s : State) : Word := tget 0#32 (2 * e + 1) s.tabs.musters

/-- The valid entries of a line SET their tallies in ascending entry number (R329). -/
def muster (line : Nat) (s : State) : State :=
  s.tabs.musters.foldl (fun s p =>
    let c := p.2
    if p.1 % 2 == 0 && bitOf c 31 && fieldOf c 16 4 == line then setTally (fieldOf c 6 10) (fieldOf c 0 6) (musterValue (p.1 / 2) s) s else s) s

end Sys2Proof.Machine
end

