-- ==== Sys2Proof/Machine/Bells.lean ====
section
/-! DEFINITION. Bell lines, board and cross-chip parts, verdict messages, and remote ADDs at their sender and receiver (R314 to R332). -/

namespace Sys2Proof.Machine

/-! ### Flits that a unit puts into a channel's queue -/

/-- Append a flit to a channel's queue of a port. -/
def queueFlit (port vc : Nat) (f : TxFlit) (s : State) : State :=
  let l := linkAt port s
  setLink port { l with txq := l.txq.set vc (l.txq.getD vc [] ++ [f]) } s

def ctlFlit (payload : List Byte) : TxFlit := ⟨2, 0, false, 0, payload⟩

/-- A message under a key: at most one waits on a port, a newer one replaces it (R324). The key is the first eight bytes. -/
def replaceMsg (payload : List Byte) : List TxFlit → List TxFlit
  | [] => [ctlFlit payload]
  | f :: fs => if f.kind == 2 && f.payload.take 8 == payload.take 8 then ctlFlit payload :: fs else f :: replaceMsg payload fs

def queueKeyed (port : Nat) (payload : List Byte) (s : State) : State :=
  let l := linkAt port s
  setLink port { l with txq := l.txq.set 3 (replaceMsg payload (l.txq.getD 3 [])) } s

/-! ### Cross-chip parts (R324) -/

/-- Neighbours of this chip on an axis within the range: the ports to them. -/
def neighbours (g : GroupDef) (a : Nat) (s : State) : List Nat :=
  let x := selfCoord a s
  let whole := wholeAxis g a s
  let up := if x < gHi g a then true else whole
  let dn := if gLo g a < x then true else whole
  (if up then (portOn a false s).toList else []) ++ (if dn then (portOn a true s).toList else [])

def fullMap (g : GroupDef) (j : Nat) : Nat := 2 ^ gLen g ((gAxes g).getD j 0) - 1

def ownBit (g : GroupDef) (j : Nat) (s : State) : Nat :=
  let a := (gAxes g).getD j 0
  2 ^ (selfCoord a s - gLo g a)

/-- Own bits set phase by phase: of phase 0 when the chip part is complete, of phase j when the map before it is full. -/
def settleMaps (g : GroupDef) (chip : Bool) (maps : List Nat) (s : State) : List Nat :=
  (List.range (gAxes g).length).foldl (fun ms j =>
    let go := if j = 0 then chip else ms.getD (j - 1) 0 == fullMap g (j - 1)
    if go then ms.set j (ms.getD j 0 ||| ownBit g j s) else ms) maps

/-- The part is complete: the last phase's map is full (R324). -/
def crossDone (g : GroupDef) (maps : List Nat) : Bool :=
  let m := (gAxes g).length
  if m = 0 then true else maps.getD (m - 1) 0 == fullMap g (m - 1)

/-- Send every map that gained a bit to the neighbours on its axis. -/
def sendGained (g : GroupDef) (old new : List Nat) (msg : Nat → Nat → List Byte) (s : State) : State :=
  (List.range (gAxes g).length).foldl (fun s j =>
    if old.getD j 0 = new.getD j 0 then s
    else (neighbours g ((gAxes g).getD j 0) s).foldl (fun s p => queueKeyed p (msg j (new.getD j 0)) s) s) s

def mergeKept (gen : Nat) (kept : List KeptMsg) (maps : List Nat) : List Nat :=
  kept.foldl (fun ms k => if k.gen = gen then ms.set k.phase (ms.getD k.phase 0 ||| k.bits) else ms) maps

/-- Keep a message, merging it with another of its generation and phase. -/
def keepMsg (k : KeptMsg) : List KeptMsg → List KeptMsg
  | [] => [k]
  | x :: xs => if x.gen = k.gen ∧ x.phase = k.phase then { x with bits := x.bits ||| k.bits } :: xs else x :: keepMsg k xs

/-! ### Lines -/

def lEnable (c : Word) : Bool := bitOf c 0
def lBoard (c : Word) : Bool := bitOf c 1
def lBoardLine (c : Word) : Nat := fieldOf c 2 2
def lXchip (c : Word) : Bool := bitOf c 4
def lDrain (c : Word) : Bool := bitOf c 5
def lGroup (c : Word) : Nat := fieldOf c 8 8

def bellMsg (n : Nat) (gen : BitVec 16) (j bits : Nat) : List Byte :=
  [0x02#8, BitVec.ofNat 8 n] ++ leBytes 2 gen.toNat ++ [0x01#8, BitVec.ofNat 8 j, 0#8, 0#8] ++ leBytes 8 bits

/-- Remote ADDs that this chip sent on a port up to a serial number and that the link has not acknowledged, those among them that never will be (R320, R330, log 31). -/
def sigOutstanding (port serial : Nat) (s : State) : Bool :=
  let l := linkAt port s
  let isSig := fun f : TxFlit => f.kind == 2 && f.payload.headD 0#8 == 0x01#8 && decide (f.group ≤ serial)
  l.txq.any (fun q => q.any isSig) || l.replay.any (fun x => isSig x.body) || l.sigLost.any fun n => decide (n ≤ serial)

/-- The chip part (R322): the on-die part, the board part where enabled, and the sending condition of R330. -/
def chipPart (l : Line) (s : State) : Bool :=
  l.ondie && (!lBoard l.cfg || l.board) && (!lDrain l.cfg || !(l.sigWait.any fun w => sigOutstanding w.1 w.2 s))

/-- The chip part completes: the line's own bit enters its cross-chip part (R324). -/
def lineChip (n : Nat) (s : State) : State :=
  let l := lineAt n s
  if lEnable l.cfg && l.armed && !l.chip && chipPart l s then
    let g := groupAt (lGroup l.cfg) s
    if lXchip l.cfg then
      let maps := settleMaps g true l.maps s
      sendGained g l.maps maps (bellMsg n l.gen) (setLine n { l with chip := true, maps := maps } s)
    else setLine n { l with chip := true } s
  else s

/-- The on-die part completes in a transit in which every member's BELL_OUT samples high; the remote ADDs to wait for are noted (R322, R330). -/
def lineOndie (n : Nat) (s : State) : State :=
  let l := lineAt n s
  if lEnable l.cfg && l.armed && !l.ondie && (lineMembers n s).all (fun m => (stallAt m s).bellOut.getLsbD n) then
    lineChip n (setLine n { l with ondie := true, sigWait := s.links.map fun p => (p.1, p.2.sigSerial) } s)
  else s

/-- The pull is released when the on-die part is complete, after the low period of R323. -/
def lineRelease (n : Nat) (s : State) : State :=
  let l := lineAt n s
  let free := match l.rangAt with
    | none => true
    | some t => decide (t.toNat + regNat rBOARD_HOLD s + 2 ≤ s.clock.transit.toNat)
  if lEnable l.cfg && lBoard l.cfg && l.pull && l.ondie && free then setLine n { l with pull := false } s else s

/-- A sample of the line's board line: the board part completes on a high one after a low one taken since the line was armed (R322). -/
def lineBoard (n : Nat) (s : State) : State :=
  let l := lineAt n s
  if lEnable l.cfg && lBoard l.cfg && l.armed then
    if !s.clock.bellSense.getLsbD (lBoardLine l.cfg) then setLine n { l with boardLow := true } s
    else if l.boardLow then lineChip n (setLine n { l with board := true } s)
    else s
  else s

/-- A line once the samples of a transit are in: what they complete. -/
def lineEdge (n : Nat) (s : State) : State := lineChip n (lineBoard n (lineRelease n (lineOndie n s)))

/-- After a SAVE's clearing an enabled line is armed in the transit after every member's BELL_OUT has sampled low, each in a transit of its own (R331). -/
def lineRecover (n : Nat) (s : State) : State :=
  let l := lineAt n s
  match l.recover with
  | none => s
  | some [] => setLine n { l with recover := none, armed := lEnable l.cfg } s
  | some ms => setLine n { l with recover := some (ms.filter fun m => (stallAt m s).bellOut.getLsbD n) } s

/-- A line in class 3 of a transit (R216, R322, R331). -/
def lineTurn (n : Nat) (s : State) : State := lineEdge n (lineRecover n s)

def bellOutApply (stall n : Nat) (level : Bool) (s : State) : State :=
  if !serving s then s
  else
    let st := stallAt stall s
    let b : BitVec 16 := BitVec.ofNat 16 (2 ^ n)
    setStall stall { st with bellOut := if level then st.bellOut ||| b else st.bellOut &&& ~~~b } s

def bellSenseApply (b : Nat) (level : Bool) (s : State) : State :=
  if !alive s then s
  else
    let m : BitVec 4 := BitVec.ofNat 4 (2 ^ b)
    { s with clock := { s.clock with bellSense := if level then s.clock.bellSense ||| m else s.clock.bellSense &&& ~~~m } }

/-- The line may ring (R322, R324, R330). -/
def canRing (n : Nat) (s : State) : Bool :=
  let l := lineAt n s
  let g := groupAt (lGroup l.cfg) s
  lEnable l.cfg && l.armed && l.chip && (!lXchip l.cfg || (crossDone g l.maps && !g.fenced))
    && (!lDrain l.cfg || !s.clock.addsHeld)

/-- The next generation begins: parts open, kept messages of that generation merged (R323, R324). -/
def nextGen (l : Line) (t : Word64) : Line :=
  let gen := l.gen + 1
  { l with gen := gen, armed := false, ondie := false, board := false, boardLow := false, chip := false, sigWait := [], rangAt := some t, maps := mergeKept gen.toNat l.kept [0, 0, 0, 0], kept := l.kept.filter fun k => k.gen != gen.toNat }

/-- The bits that kept messages bring to a line's new generation are sent on (R324). -/
def sendKept (n : Nat) (s : State) : State :=
  let l := lineAt n s
  if lXchip l.cfg then sendGained (groupAt (lGroup l.cfg) s) [0, 0, 0, 0] l.maps (bellMsg n l.gen) s else s

/-- The line rings in class 3; its muster entries apply after the ring (R322, R323, R329). -/
def bellRingApply (n : Nat) (s : State) : State :=
  if serving s && canRing n s then
    let s := sendKept n (setLine n (nextGen (lineAt n s) s.clock.transit) s)
    muster n (irq pBELL 2 (orReg rRANG (bit n) s))
  else s

/-- From BOARD_HOLD transits after the ring the board line is pulled low again, for at least two transits even where the on-die part of the new generation is complete (R323). -/
def boardHoldApply (n : Nat) (s : State) : State :=
  let l := lineAt n s
  match l.rangAt with
  | none => s
  | some t =>
    let due := t.toNat + regNat rBOARD_HOLD s
    if alive s && lBoard l.cfg && !l.pull && decide (due ≤ s.clock.transit.toNat) && (!l.ondie || decide (s.clock.transit.toNat < due + 2)) then
      setLine n { l with pull := true } s
    else s

/-- The line is armed again when the last member's BELL_IN has fallen, or in the transit after the ring where it has no member (R323). -/
def bellRearmApply (n : Nat) (s : State) : State :=
  let l := lineAt n s
  match l.rangAt with
  | none => s
  | some t =>
    let ms := lineMembers n s
    let low := ms.all fun m => !(stallAt m s).bellIn.getLsbD n
    let after := if ms.isEmpty then 1 else 2
    if alive s && lEnable l.cfg && !l.armed && low && decide (t.toNat + after ≤ s.clock.transit.toNat) then
      lineEdge n (setLine n { l with armed := true } s)
    else s

/-- BELL_IN at a first edge: it rises at every member of a line that rang in the transit before, and falls at a stall whose BELL_OUT sampled low, or whose line was disabled or cleared (R43, R321, R331). -/
def bellInEdge (s : State) : State :=
  let prev := s.clock.transit - 1
  let rising := (List.range 16).filter fun n => (lineAt n s).rangAt == some prev
  let s := s.stalls.foldl (fun s p =>
    let v := p.2.bellIn &&& p.2.bellOut &&& ~~~p.2.bellLow
    if v = p.2.bellIn ∧ p.2.bellLow = 0#16 then s else setStall p.1 { p.2 with bellIn := v, bellLow := 0#16 } s) s
  rising.foldl (fun s n => (lineMembers n s).foldl (fun s m =>
    let st := stallAt m s
    setStall m { st with bellIn := st.bellIn ||| BitVec.ofNat 16 (2 ^ n) } s) s) s

/-- BELL_IN at a first edge; every line is due in class 3, after the changes of its samples. -/
def linesEdge (s : State) : State :=
  let s := bellInEdge s
  s.lines.foldl (fun s p => { s with clock := { s.clock with due := holdInsert (duePlace (.line p.1)) (.line p.1) s.clock.due } }) s

/-! ### Configuration writes (R321, R328, R415) -/

def cfgRefused (s : State) : State := irq pBELL 3 (count rCFG_REFUSED 1 s)

def lineSel (copy : Nat) (s : State) : Nat := fieldOf (reg (rLINE_SELECT + copy) s) 0 4

/-- The checks of R321 for setting ENABLE. -/
def lineBad (n : Nat) (c : Word) (s : State) : Bool :=
  let g := groupAt (lGroup c) s
  ((lineMembers n s).isEmpty && !lBoard c && !lXchip c) ||
  (lBoard c && (List.range 16).any fun m => m != n && lEnable (lineAt m s).cfg && lBoard (lineAt m s).cfg && lBoardLine (lineAt m s).cfg == lBoardLine c) ||
  (lXchip c && (!gValid g || !gMember g s || groupAbsent g s))

/-- Clearing ENABLE discards the line's partial state and kept messages; BELL_IN falls at the next first edge; the board line is pulled low (R321, R324). -/
def lineDisable (n : Nat) (s : State) : State :=
  let l := lineAt n s
  let s := setLine n { Line.idle with cfg := l.cfg &&& ~~~1#32 } s
  s.stalls.foldl (fun s p =>
    if p.2.bellIn.getLsbD n then setStall p.1 { p.2 with bellLow := p.2.bellLow ||| BitVec.ofNat 16 (2 ^ n) } s else s) s

def lineCfgApply (copy : Nat) (v : Word) (s : State) : State :=
  let n := lineSel copy s
  let l := lineAt n s
  let v := v &&& 0xFF3F#32
  if lEnable l.cfg then
    let s := if v ||| 1#32 != l.cfg then cfgRefused s else s
    if bitOf v 0 then s else lineDisable n s
  else
    let s := setLine n { l with cfg := v &&& ~~~1#32 } s
    if !bitOf v 0 then s
    else if lineBad n v s then cfgRefused s
    else
      sendKept n (setLine n { Line.idle with cfg := v, armed := true, maps := mergeKept 0 l.kept [0, 0, 0, 0] } s)

def lineMembersApply (copy : Nat) (v : Word) (s : State) : State :=
  let n := lineSel copy s
  let w := fieldOf (reg (rLINE_MEMBER_SEL + copy) s) 0 5
  if lEnable (lineAt n s).cfg then cfgRefused s
  else if leaves s.build ≤ 32 * w then s
  else
    let keep : Word := if leaves s.build < 32 * w + 32 then BitVec.ofNat 32 (2 ^ (leaves s.build - 32 * w) - 1) else all32
    { s with tabs := { s.tabs with lineMembers := tset 0#32 (32 * n + w) (v &&& keep) s.tabs.lineMembers } }

def musterSel (copy : Nat) (s : State) : Nat := fieldOf (reg (rMUSTER_SELECT + copy) s) 0 10

def musterCtrlApply (copy : Nat) (v : Word) (s : State) : State :=
  if leaves s.build ≤ fieldOf v 6 10 ∨ 48 ≤ fieldOf v 0 6 then cfgRefused s
  else { s with tabs := { s.tabs with musters := tset 0#32 (2 * musterSel copy s) (v &&& 0x800FFFFF#32) s.tabs.musters } }

/-! ### Messages (R324, R325, R327) -/

/-- Take the oldest received CONTROL message of a type. -/
def takeCtl (ty : Byte) : List CtlMsg → Option (CtlMsg × List CtlMsg)
  | [] => none
  | m :: ms =>
    if m.payload.headD 0#8 = ty then some (m, ms)
    else match takeCtl ty ms with
      | none => none
      | some (x, r) => some (x, m :: r)

/-- Run on the oldest message of a type that a port has received. -/
def onCtl (port : Nat) (ty : Byte) (f : CtlMsg → State → State) (s : State) : State :=
  let l := linkAt port s
  match takeCtl ty l.rxCtl with
  | none => s
  | some (m, rest) => f m (setLink port { l with rxCtl := rest } s)

def stale (s : State) : State := irq pBELL 4 (count rSTALE_MSG 1 s)

/-- A BELL message: merged, kept for the next generation, or stale (R324). -/
def bellMsgApply (p : List Byte) (s : State) : State :=
  let n := bitsAt (p.getD 1 0#8).toNat 0 4
  let gen := leNat (sliceB p 2 2)
  let j := bitsAt (p.getD 5 0#8).toNat 0 2
  let bits := leNat (sliceB p 8 8)
  let l := lineAt n s
  if !lEnable l.cfg then
    (if gen = 0 then setLine n { l with kept := keepMsg ⟨0, j, bits⟩ l.kept } s else stale s)
  else if gen = l.gen.toNat then
    let g := groupAt (lGroup l.cfg) s
    let merged := l.maps.set j (l.maps.getD j 0 ||| bits)
    let maps := settleMaps g l.chip merged s
    let s := setLine n { l with maps := maps } s
    if lXchip l.cfg then sendGained g l.maps maps (bellMsg n l.gen) s else s
  else if gen = (l.gen + 1).toNat then setLine n { l with kept := keepMsg ⟨gen, j, bits⟩ l.kept } s
  else stale s

def verdictMsg (tgroup : Nat) (seq : BitVec 16) (attempt j bits : Nat) : List Byte :=
  [0x03#8, BitVec.ofNat 8 tgroup] ++ leBytes 2 seq.toNat ++ [0x01#8, BitVec.ofNat 8 j, BitVec.ofNat 8 attempt, 0#8] ++ leBytes 8 bits

/-- The attempt of a verdict's leg, none where this chip has not started it (R327). -/
def legAttempt (tgroup : Nat) (seq : BitVec 16) (s : State) : Option Nat :=
  (s.ops.find? fun o => match o.leg with | some l => l.tgroup == tgroup && l.seq == seq | none => false).map fun o =>
    match o.leg with | some l => l.attempt % 256 | none => 0

/-- The operation of a leg has made progress in this transit (R348). -/
def legProgress (tgroup : Nat) (seq : BitVec 16) (s : State) : State :=
  { s with ops := s.ops.map fun o => match o.leg with
      | some l => if l.tgroup == tgroup && l.seq == seq then { o with progress := true } else o
      | none => o }

/-- A VERDICT message: merged into the current attempt, kept for the next or for a leg not yet started, else discarded (R327). -/
def verdictMsgApply (p : List Byte) (s : State) : State :=
  let tg := (p.getD 1 0#8).toNat
  let seq : BitVec 16 := BitVec.ofNat 16 (leNat (sliceB p 2 2))
  let j := bitsAt (p.getD 5 0#8).toNat 0 2
  let att := (p.getD 6 0#8).toNat
  let bits := leNat (sliceB p 8 8)
  let k := verdictKey tg seq
  let v := verdictAt k s
  match legAttempt tg seq s with
  | none =>
    let past := ((groupAt tg s).legSeq - seq).toNat
    if 0 < past ∧ past ≤ 32768 then s else setVerdict k { v with kept := keepMsg ⟨att, j, bits⟩ v.kept } s
  | some a =>
    if att = a then
      let g := groupAt tg s
      let merged := v.maps.set j (v.maps.getD j 0 ||| bits)
      let maps := settleMaps g v.passed merged s
      let s := sendGained g v.maps maps (verdictMsg tg seq a) (setVerdict k { v with attempt := a, maps := maps } s)
      if maps = v.maps then s else legProgress tg seq s
    else if att = (a + 1) % 256 then setVerdict k { v with kept := keepMsg ⟨att, j, bits⟩ v.kept } s
    else s

/-- The operation of a leg is not to seal in this transit (R255). -/
def legDoneNow (tgroup : Nat) (seq : BitVec 16) (s : State) : State :=
  { s with ops := s.ops.map fun o => match o.leg with
      | some l => if l.tgroup == tgroup && l.seq == seq then { o with doneAt := s.clock.fclk } else o
      | none => o }

/-- A complete verdict rings in class 3 (R327). -/
def verdictRingApply (tg : Nat) (seq : BitVec 16) (s : State) : State :=
  let k := verdictKey tg seq
  let v := verdictAt k s
  if alive s && v.passed && !v.rung && crossDone (groupAt tg s) v.maps then legDoneNow tg seq (setVerdict k { v with rung := true } s) else s

/-- This chip passes a leg: its own bit enters the verdict (R305, R327). -/
def verdictPassNow (tg : Nat) (seq : BitVec 16) (attempt : Nat) (s : State) : State :=
  let k := verdictKey tg seq
  let v := verdictAt k s
  if v.passed then s
  else
    let g := groupAt tg s
    let maps := settleMaps g true v.maps s
    legProgress tg seq (sendGained g v.maps maps (verdictMsg tg seq (attempt % 256)) (setVerdict k { v with passed := true, attempt := attempt % 256, maps := maps } s))

/-- A leg starts, or restarts: its verdict begins anew with the kept messages of the attempt, whose bits are sent on (R324, R327). -/
def verdictStart (tg : Nat) (seq : BitVec 16) (attempt : Nat) (s : State) : State :=
  let k := verdictKey tg seq
  let v := verdictAt k s
  let a := attempt % 256
  let maps := mergeKept a v.kept [0, 0, 0, 0]
  sendGained (groupAt tg s) [0, 0, 0, 0] maps (verdictMsg tg seq a) (setVerdict k { attempt := a, passed := false, maps := maps, kept := v.kept.filter fun m => m.gen == (a + 1) % 256, rung := false } s)

/-! ### Remote ADDs (R314 to R318) -/

/-- Signals waiting in a port's signal queue (R314). -/
def sigWaiting (port : Nat) (s : State) : Nat :=
  ((linkAt port s).txq.map fun q => (q.filter fun f => f.kind == 2 && f.payload.headD 0#8 == 0x01#8).length).sum

def sigPayload (stall tally : Nat) (amount : Word) (fence : Nat) : List Byte :=
  [0x01#8, 0#8] ++ leBytes 2 stall ++ [BitVec.ofNat 8 tally, 0#8, 0#8, 0#8] ++ leBytes 4 amount.toNat ++ leBytes 2 fence ++ [0#8, 0#8]

def sigRefused (s : State) : State := irq pBELL 0 (count rSIG_REFUSED 1 s)

/-- SIG_SEND from an agent's copy of the signal fields (R314, R315, R393). -/
def sigSendApply (copy : Nat) (s : State) : State :=
  let port := fieldOf (reg (rSIG_PORT + copy) s) 0 3
  let vc := fieldOf (reg (rSIG_VC + copy) s) 0 2
  let t := fieldOf (reg (rSIG_TALLY + copy) s) 0 6
  if portAbsent port s || (linkAt port s).state != 2 || decide (48 ≤ t) || decide (64 ≤ sigWaiting port s) then sigRefused s
  else
    let l := linkAt port s
    let payload := sigPayload (fieldOf (reg (rSIG_STALL + copy) s) 0 10) t (reg (rSIG_AMOUNT + copy) s) (fieldOf (reg (rSIG_FENCE + copy) s) 0 16)
    let s := setLink port { l with sigSerial := l.sigSerial + 1 } s
    queueFlit port vc { ctlFlit payload with group := l.sigSerial + 1 } s

/-- The FENCE mask of a REMOTE_ADD (R316). -/
def addFence (p : List Byte) : Nat := leNat (sliceB p 12 2)

/-- What a remote ADD waits for, as its sequence point fixes it: its own channel, the down planes and the receive ports that FENCE names (R317, R318). -/
def addWaits (port vc : Nat) (p : List Byte) (s : State) : List Path :=
  let fence := addFence p
  let planes := ((List.range s.build.planes).filter fun i => fence.testBit i).map fun i => Path.plane i (planeAt i s).queued
  let ports := ((List.range s.build.ringPorts).filter fun i => fence.testBit (8 + i)).map fun i => Path.port i (linkAt i s).rxSerial
  .channel port vc (linkAt port s).rxSerial :: planes ++ ports

/-- A REMOTE_ADD message is taken up with what it waits for. -/
def remoteAddAccept (port : Nat) (m : CtlMsg) (s : State) : State :=
  let p := m.payload
  let add : RemoteAdd := ⟨m.vc, leNat (sliceB p 2 2), (p.getD 4 0#8).toNat, word32At p 8, BitVec.ofNat 16 (addFence p)⟩
  let l := linkAt port s
  setLink port { l with adds := l.adds ++ [⟨add, m.waits, false⟩] } s

/-- Some remote ADD has been accepted and has not applied (R330). -/
def addsPending (s : State) : Bool := s.links.any fun p => !p.2.adds.isEmpty || p.2.rxCtl.any fun m => m.payload.headD 0#8 == 0x01#8

/-- The clearing of a SAVE (R331): tallies, lines, verdicts, remote ADDs, unsent signals. -/
def clearBells (s : State) : State :=
  let s := s.lines.foldl (fun s p =>
    setLine p.1 { Line.idle with cfg := p.2.cfg, recover := if lEnable p.2.cfg then some (lineMembers p.1 s) else none } s) s
  let s := s.stalls.foldl (fun s p => setStall p.1 { p.2 with bellLow := p.2.bellIn } s) s
  let keep := fun f : TxFlit => !(f.kind == 2 && (f.payload.headD 0#8 == 0x01#8 || f.payload.headD 0#8 == 0x03#8))
  let s := s.links.foldl (fun s p => setLink p.1 { p.2 with adds := [], rxCtl := p.2.rxCtl.filter (fun m => m.payload.headD 0#8 != 0x01#8), txq := p.2.txq.map fun q => q.filter keep } s) s
  { s with verdicts := [] }

end Sys2Proof.Machine
end

