-- ==== Sys2Proof/Machine/Crier.lean ====
section
/-! DEFINITION. The crier and the geometry of contributions and placements: chunks and planes (R20, R137, R156), members and receivers (R258), beats on the down ports (R32 to R37, R259, R384), recall and RESEND cycles (R35, R341, R342), and the discarding of a failed operation's beats (R257). -/

namespace Sys2Proof.Machine

def ceilDiv (a b : Nat) : Nat := (a + b - 1) / b

/-! ### Chunks of a contribution (R20, R30, R137) -/

/-- Limb streams of a contribution (R139). -/
def limbsOf (d : List Word) : Nat := if isSum (dOp d) then max 1 (dLimbs d) else 1
/-- Chunks in one limb stream. -/
def streamChunks (d : List Word) : Nat := ceilDiv (dCount d) (perChunk (dInFmt d))
/-- Chunks that one contributor presents. -/
def upChunks (d : List Word) : Nat := if hasContrib d then limbsOf d * streamChunks d else 0
/-- Chunk number within its limb stream. -/
def chunkInStream (d : List Word) (c : Nat) : Nat := c % max 1 (streamChunks d)
def chunkLimb (d : List Word) (c : Nat) : Nat := c / max 1 (streamChunks d)
/-- Elements of a chunk. -/
def chunkElems (d : List Word) (c : Nat) : Nat :=
  min (perChunk (dInFmt d)) (dCount d - chunkInStream d c * perChunk (dInFmt d))
/-- Beats of a chunk. -/
def chunkBeats (d : List Word) (c : Nat) : Nat := ceilDiv (chunkElems d c) (perBeat (dInFmt d))
/-- The plane of chunk c under a mask (R20). -/
def maskPlane (mask c : Nat) : Nat := (planesOf mask).getD (c % max 1 (planesOf mask).length) 0
/-- The chunks that R20 assigns to a plane. -/
def planeChunks (o : Op) (p : Nat) : List Nat := (List.range (upChunks o.d)).filter fun c => maskPlane o.planes c == p

/-- The members that contribute (R258). -/
def contributors (o : Op) : List Nat :=
  if !hasContrib o.d then [] else if dOp o.d == oBROADCAST then o.members.filter (· == dRoot o.d) else o.members
/-- The members that receive the output (R22, R258). -/
def receivers (o : Op) : List Nat :=
  if dOp o.d == oREDUCE then o.members.filter (· == dRoot o.d) else if dOp o.d == oBROADCAST then o.members.filter (· != dRoot o.d) else o.members
/-- The rank of a member (R258). -/
def rankOf (o : Op) (stall : Nat) : Nat := (o.members.takeWhile (· != stall)).length

/-! ### Placement of a ledger's elements (R156) -/

def homeCount (planes : Nat) : Nat := max 1 (planesOf planes).length
def homePlane (fmt : BitVec 4) (planes i : Nat) : Nat := maskPlane planes (i / perChunk fmt)
/-- Position of an element among its plane's elements. -/
def homePos (fmt : BitVec 4) (planes i : Nat) : Nat := (i / perChunk fmt / homeCount planes) * perChunk fmt + i % perChunk fmt
def pageOf (fmt : BitVec 4) (planes i : Nat) : Nat := homePos fmt planes i / 512
/-- Elements among the first n that live in a plane: its whole chunks, and the last short one where it lies there. -/
def planeElems (fmt : BitVec 4) (planes n p : Nat) : Nat :=
  if !(planesOf planes).contains p then 0
  else
    let e := perChunk fmt
    let m := homeCount planes
    let k := ((planesOf planes).takeWhile (· != p)).length
    (n / e + m - 1 - k) / m * e + (if n / e % m = k then n % e else 0)
/-- Pages that the first n elements take in a plane. -/
def planePages (fmt : BitVec 4) (planes n p : Nat) : Nat := ceilDiv (planeElems fmt planes n p) 512
/-- Page key: plane and page of a ledger. -/
def pageKey (p page : Nat) : Nat := page * 8 + p
/-- The element at a position of a plane. -/
def elemAt (fmt : BitVec 4) (planes p pos : Nat) : Nat :=
  let c := pos / perChunk fmt * homeCount planes + ((planesOf planes).takeWhile (· != p)).length
  c * perChunk fmt + pos % perChunk fmt
/-- Every (plane, page) of the first n elements, planes ascending, then pages. -/
def allPages (fmt : BitVec 4) (planes n : Nat) : List (Nat × Nat) :=
  (planesOf planes).flatMap fun p => (List.range (planePages fmt planes n p)).map fun i => (p, i)

/-! ### Beats on the down ports -/

/-- DN_KIND (R32). -/
def kDATA : Nat := 0
def kPRIMARY : Nat := 1
def kPATCH : Nat := 2
def kPAIRS : Nat := 3

/-- The first FCLK cycle at or after t in which plane p is enabled (R384). -/
def dutyNext (p t : Nat) (s : State) : Nat :=
  let d := s.clock.throttle.toNat
  t + ((List.range 4).find? fun k => decide ((t + k + p) % 4 < 4 - d)).getD 0

/-- Latency from the end of stage 1 of an egress to the down ports: 13 FCLK cycles, 19 where the block has seams (R204). -/
def stageWait (s : State) : Nat := if 0 < s.build.seams then 19 else 13

def countDn (stalls : List Nat) (s : State) : State :=
  stalls.foldl (fun s n => let st := stallAt n s; setStall n { st with dnBeats := st.dnBeats + 1 } s) s

/-- The chunk's last cycle and count of beats, for its release and its comparison (R264, R353). -/
def noteChunk (c t : Nat) : List (Nat × Nat × Nat) → List (Nat × Nat × Nat)
  | [] => [(c, t, 1)]
  | (c', t', n) :: r => if c' = c then (c, max t t', n + 1) :: r else (c', t', n) :: noteChunk c t r

/-- The crier takes a beat of an operation, to be presented from a cycle on (R259, R318). -/
def queueBeat (id : OpId) (t : Nat) (s : State) (b : DnBeat) : State :=
  if b.dest.isEmpty then s
  else withOp id (fun o s =>
    let v := planeAt b.plane s
    setOp { o with down := o.down ++ [{ b with from' := t, serial := v.queued + 1 }] } (setPlane b.plane { v with queued := v.queued + 1 } s)) s

def queueBeats (id : OpId) (t : Nat) (bs : List DnBeat) (s : State) : State := bs.foldl (queueBeat id t) s

/-- One beat is presented, provisionally (R21, R37, R255). -/
def presentBeat (id : OpId) (t : Nat) (b : DnBeat) (s : State) : State :=
  withOp id (fun o s =>
    let s := perfLater pcDnBeats 1 (countDn b.dest (present (.dn b.dest b.plane (dLedger o.d) b.offset b.kind b.data b.scale t) s))
    let eg := { o.eg with endedAt := max o.eg.endedAt t, shown := true, chunkOut := if dEarly o.d || binoPaired s then noteChunk b.chunk t o.eg.chunkOut else o.eg.chunkOut }
    setOp { o with eg := eg, down := o.down.filter (· != b), progress := true } s) s

/-- The beat of an operation that a plane would take next in a cycle: its PRIMARY, DATA or PAIRS beats come before its PATCH beats (R196). -/
def headBeat (p t : Nat) (o : Op) : Option DnBeat :=
  let here := o.down.filter fun b => b.plane == p && decide (b.from' ≤ t)
  (here.find? fun b => b.kind != kPATCH).orElse fun _ => here.head?

/-- Operations in the order of their turns: those that started after the one served last, then the others (R259). -/
def turnOrder (last : Option OpId) (l : List Op) : List Op :=
  match last with
  | none => l
  | some id => ((l.dropWhile fun o => o.id != id).drop 1) ++ (l.takeWhile fun o => o.id != id) ++ l.filter fun o => o.id == id

/-- What a plane presents in a cycle: a recall that waits, else one beat of the operation whose turn it is (R35, R259). -/
def planeCycle (p t : Nat) (s : State) : State :=
  let v := planeAt p s
  match v.recalls with
  | r :: rest =>
    let s := setPlane p { v with recalls := rest, dnNext := t + 1 } s
    let s := if r.recallOnly.isEmpty then s else present (.dnRecall r.recallOnly p r.tag false) s
    if r.resend.isEmpty then s else irq pSTALL 2 (present (.dnRecall r.resend p r.tag true) s)
  | [] =>
    match (turnOrder v.lastDn s.ops).findSome? fun o => (headBeat p t o).map fun b => (o.id, b) with
    | none => s
    | some (id, b) => presentBeat id t b (setPlane p { v with dnNext := t + 1, lastDn := some id } s)

/-- The first cycle from which a plane has something to present; none where nothing waits. -/
def planeNext (p : Nat) (s : State) : Option Nat :=
  let v := planeAt p s
  let beats := s.ops.flatMap fun o => (o.down.filter fun b => b.plane == p).map fun b => b.from'
  if v.recalls.isEmpty then beats.min?.map fun t => max t v.dnNext else some v.dnNext

/-- A plane's crier works through the enabled cycles before one, one beat or recall in each (R33, R35, R384). -/
def planeRun : Nat → Nat → Nat → State → State
  | 0, _, _, s => s
  | f + 1, p, stop, s =>
    match planeNext p s with
    | none => s
    | some t =>
      let t := dutyNext p (max t s.clock.fclk) s
      if stop ≤ t then s else planeRun f p stop (planeCycle p t s)

/-- All criers work until the cycle that a transit ends with. -/
def crierRun (stop : Nat) (s : State) : State :=
  (List.range s.build.planes).foldl (fun s p => planeRun ((s.ops.map fun o => o.down.length).sum + (planeAt p s).recalls.length) p stop s) s

/-! ### Recall and RESEND (R35, R341, R342) -/

/-- Progress of a member on a plane. -/
def progKey (stall p : Nat) : Nat := stall * 8 + p
def progAt (o : Op) (stall p : Nat) : TileProg := tget TileProg.fresh (progKey stall p) o.prog
def setProg (o : Op) (stall p : Nat) (v : TileProg) : Op := { o with prog := tset TileProg.fresh (progKey stall p) v o.prog }

/-- The requested attempt has been presented whole (R342). -/
def progDone (v : TileProg) : Bool := decide (v.want < v.attempt)

/-- The planes that carry an operation: its mask and its output's home planes. -/
def opPlanes (o : Op) (s : State) : List Nat :=
  let l := ledgerAt (dLedger o.d) s
  planesOf (if isClosing (dOp o.d) then o.planes ||| l.planes else o.planes)

/-- One recall cycle on a plane: RESEND at the stalls given first, RECALL at the others; it goes before the beats that wait there (R35). -/
def recallCycle (p tag : Nat) (resend recallOnly : List Nat) (s : State) : State :=
  let v := planeAt p s
  setPlane p { v with recalls := v.recalls ++ [⟨tag, resend, recallOnly⟩] } s

/-- The attempt that a RESEND asks of a member on a plane; a pending request is reused (R342). -/
def askAgain (v : TileProg) : TileProg :=
  let fresh := v.chunk.isNone && v.done.isEmpty
  { v with want := if fresh then v.attempt else v.attempt + 1, asked := true }

/-- Whether a RESEND is presented to a member on a plane (R341, R342). -/
def resendsTo (o : Op) (p stall : Nat) : Bool :=
  (contributors o).contains stall && !(planeChunks o p).isEmpty && !(progAt o stall p).asked

/-- Recall of an operation's output on every down port of its planes at every member; what the crier has not presented is dropped; with `resend`, the contributors are asked again (R35, R341). PERF.RECALLS counts once per operation and transit (R417). -/
def recallNow (id : OpId) (resend : Bool) (s : State) : State :=
  withOp id (fun o s =>
    let s := (opPlanes o s).foldl (fun s p =>
      let rs := if resend then o.members.filter (resendsTo o p) else []
      recallCycle p (dLedger o.d) rs (o.members.filter fun n => !rs.contains n) s) s
    let o' := if resend then
        (planesOf o.planes).foldl (fun o p => ((contributors o).filter (resendsTo o p)).foldl (fun o n => setProg o n p (askAgain (progAt o n p))) o) o
      else o
    let again := (planesOf o.planes).filter fun p => !(planeChunks o p).isEmpty
    let eg := { o'.eg with shown := false, chunkOut := [], endedAt := 0, ended := false }
    let o' := { o' with eg := eg, down := [], upDone := if resend then o'.upDone.filter (fun p => !again.contains p) else o'.upDone, recalled := o.recalled || o.eg.shown, progress := true }
    setOp o' (perf pcRecalls 1 s)) s

/-! ### Discarding a failed operation's beats (R257) -/

/-- The chunk that holds element COUNT - 1; of several limb streams the last. -/
def lastChunk (o : Op) : Nat := upChunks o.d - 1

/-- Each member that has not presented the last chunk discards the tag's beats on the planes of the mask. -/
def discardBeats (o : Op) (s : State) : State :=
  if upChunks o.d = 0 then s
  else
    let c := lastChunk o
    let p := maskPlane o.planes c
    let ns := o.members.filter fun n =>
      let v := progAt o n p
      !(progDone v || (v.attempt == v.want && v.done.contains c))
    ns.foldl (fun s n => let st := stallAt n s; irq pSTALL 1 (setStall n { st with dropTags := (st.dropTags.filter fun x => x.1 != dLedger o.d) ++ [(dLedger o.d, o.planes, c)] } s)) s

/-- A later operation of the same ledger opens its up phase at its members: they stop discarding (R257). -/
def endDiscard (o : Op) (s : State) : State :=
  o.members.foldl (fun s n =>
    let st := stallAt n s
    if st.dropTags.any (fun x => x.1 == dLedger o.d) then setStall n { st with dropTags := st.dropTags.filter fun x => x.1 != dLedger o.d } s else s) s

end Sys2Proof.Machine
end

