-- ==== Sys2Proof/Machine/Pages.lean ====
section
/-! DEFINITION. The counting house and the spill pools: pages in use, allocation at an open, and the pages that an operation takes at its claim (R155 to R165, R284). -/

namespace Sys2Proof.Machine

/-! ### Pieces of a leg (R118) -/

def blocksOf (n : Nat) : Nat := ceilDiv n 32
/-- B, the blocks of a full piece. -/
def pieceB (n ringN : Nat) : Nat := ceilDiv (blocksOf n) (max 1 ringN)
def pieceLo (n ringN p : Nat) : Nat := min (p * pieceB n ringN) (blocksOf n)
def pieceHi (n ringN p : Nat) : Nat := min ((p + 1) * pieceB n ringN) (blocksOf n)
/-- The block at which a piece's reverse half begins. -/
def pieceMid (n ringN p : Nat) (twoWay : Bool) : Nat :=
  let b := pieceHi n ringN p - pieceLo n ringN p
  if twoWay then pieceLo n ringN p + ceilDiv b 2 else pieceHi n ringN p
/-- Blocks [lo, hi) of a half. -/
def halfBlocks (n ringN p : Nat) (twoWay rev : Bool) : Nat × Nat :=
  if rev then (pieceMid n ringN p twoWay, pieceHi n ringN p) else (pieceLo n ringN p, pieceMid n ringN p twoWay)
/-- Elements [lo, hi) of a half. -/
def halfElems (n ringN p : Nat) (twoWay rev : Bool) : Nat × Nat :=
  let b := halfBlocks n ringN p twoWay rev
  (min (32 * b.1) n, min (32 * b.2) n)

/-! ### Pages in use -/

def pageSt (l : Ledger) (p page : Nat) : PageSt := tget PageSt.resident (pageKey p page) l.pages
def setPageSt (p page : Nat) (v : PageSt) (l : Ledger) : Ledger := { l with pages := tset PageSt.resident (pageKey p page) v l.pages }

/-- Pages of a ledger that lie in a plane's share: none of a FREE or FAULTED ledger (R143, R155). -/
def residentPages (l : Ledger) (p : Nat) : Nat :=
  if l.state = 1 ∨ l.state = 2 then
    planePages l.fmt l.planes l.count p - (l.pages.filter fun x => x.1 % 8 == p && x.2.spilled).length
  else 0

/-- Shadow, staging and region pages that an operation holds in a plane. -/
def opPages (o : Op) (p : Nat) : Nat :=
  (o.shadow.filter fun x => x.1 == p).length + ((o.staging.filter fun x => x.1 == p).map Prod.snd).sum
    + ((o.regionPages.filter fun x => x.1 == p).map Prod.snd).sum

def usedPages (p : Nat) (s : State) : Nat := (s.ledgers.map fun x => residentPages x.2 p).sum + (s.ops.map fun o => opPages o p).sum
def freePages (p : Nat) (s : State) : Nat := sharePages s.build - usedPages p s

/-- Partial pages of a ledger in a plane. -/
def partialPages (l : Ledger) (p : Nat) : Nat := ((l.pages.filter fun x => x.1 % 8 == p).map fun x => x.2.pool.length).sum

/-! ### The spill pool (R162) -/

def spillBase (p : Nat) (s : State) : Nat := (regNat (rSPILL_BASE_LO p + 4) s * 2 ^ 32 + regNat (rSPILL_BASE_LO p) s) / 4096 * 4096
def spillPages (p : Nat) (s : State) : Nat := regNat (rSPILL_PAGES p) s
def poolAddr (p idx : Nat) (s : State) : Nat := spillBase p s + 4096 * idx

/-- The lowest free pool page of a plane. -/
def poolFree (p : Nat) (s : State) : Option Nat := (List.range (spillPages p s)).find? fun i => !(planeAt p s).pool.contains i

def poolTake (p i : Nat) (s : State) : State := let v := planeAt p s; setPlane p { v with pool := v.pool ++ [i] } s
def poolGive (p i : Nat) (s : State) : State := let v := planeAt p s; setPlane p { v with pool := v.pool.filter (· != i) } s

/-- The pool pages of a ledger are freed. -/
def freeLedgerPool (l : Ledger) (s : State) : State :=
  l.pages.foldl (fun s x => x.2.pool.foldl (fun s i => poolGive (x.1 % 8) i s) s) s

/-- The pool pages that an operation took are freed. -/
def freeOpPool (o : Op) (s : State) : State := o.poolPages.foldl (fun s x => poolGive x.1 x.2.2 s) s

/-! ### Opening (R160) -/

/-- A ledger's pages at its opening: each home plane allocates in page order, and its highest pages spill where it has too few. -/
def openPages (l : Ledger) (s : State) : Ledger :=
  (planesOf l.planes).foldl (fun l p =>
    let n := planePages l.fmt l.planes l.count p
    let k := min n (freePages p s)
    (List.range (n - k)).foldl (fun l i => setPageSt p (k + i) ⟨true, false, []⟩ l) l) { l with pages := [] }

/-! ### Taking pages at a claim (R158 to R161, R164, R284) -/

/-- Region pages of a leg in a plane: a region for each direction, both of the size of the largest half of any piece (R284). -/
def regionNeed (l : Ledger) (ringN : Nat) (twoWay : Bool) (p : Nat) : Nat :=
  let most := fun rev => ((List.range ringN).map fun q =>
      let h := halfElems l.count ringN q twoWay rev
      planeElems l.fmt l.planes h.2 p - planeElems l.fmt l.planes h.1 p).foldl max 0
  if twoWay then 2 * ceilDiv (max (most false) (most true)) 512 else ceilDiv (most false) 512

/-- Pool page tag of the i-th region page in a plane: no page of a ledger bears it. -/
def regionTag (i : Nat) : Nat := 2 ^ 20 + i

/-- Take n pool pages under the given page numbers; none where the pool runs out. -/
def takePool (p : Nat) : List Nat → Op × State → Option (Op × State)
  | [], x => some x
  | page :: r, (o, s) =>
    match poolFree p s with
    | none => none
    | some i => takePool p r ({ o with poolPages := o.poolPages ++ [(p, page, i)] }, poolTake p i s)

/-- The pages of one home plane: staging from the counting house; shadows where they are free, the pool for the others and for spilled and partial-mode pages; the region from the counting house, else the pool. The order is the model's (log 16). -/
def takePlane (l : Ledger) (n limbs ringN : Nat) (twoWay : Bool) (p : Nat) (x : Op × State) : Option (Op × State) :=
  let (o, s) := x
  let pages := List.range (planePages l.fmt l.planes n p)
  let free := freePages p s - opPages o p
  let stage := (limbs - 1) * pages.length
  if free < stage then none
  else
    let out := pages.filter fun i => (pageSt l p i).spilled || (pageSt l p i).partialMode
    let sh := if l.contribs = 0 then [] else pages.filter fun i => !((pageSt l p i).spilled || (pageSt l p i).partialMode)
    let granted := sh.take (free - stage)
    let toPool := out ++ sh.drop granted.length
    let reg := if ringN ≤ 1 then 0 else regionNeed l ringN twoWay p
    let regHere := min reg (free - stage - granted.length)
    let o := { o with shadow := o.shadow ++ granted.map fun i => (p, i), staging := if stage = 0 then o.staging else o.staging ++ [(p, stage)], regionPages := if regHere = 0 then o.regionPages else o.regionPages ++ [(p, regHere)] }
    takePool p (toPool ++ (List.range (reg - regHere)).map regionTag) (o, s)

/-- The planes in which an operation asks for a page. -/
def pageNeeds (l : Ledger) (n limbs ringN : Nat) (twoWay : Bool) : List Nat :=
  (planesOf l.planes).filter fun p =>
    let pages := List.range (planePages l.fmt l.planes n p)
    (decide (1 < limbs) && !pages.isEmpty) || (l.contribs != 0 && !pages.isEmpty)
      || pages.any (fun i => (pageSt l p i).spilled || (pageSt l p i).partialMode)
      || (decide (1 < ringN) && decide (0 < regionNeed l ringN twoWay p))

/-- An earlier request waits for pages of one of the planes (R164). -/
def pagesBlocked (id : OpId) (needs : List Nat) (s : State) : Bool :=
  (s.pageWait.takeWhile fun x => x.1 != id).any fun x => x.2.any needs.contains

/-- All the pages that a claim needs, or none. -/
def takePages (o : Op) (l : Ledger) (n limbs ringN : Nat) (twoWay : Bool) (s : State) : Option (Op × State) :=
  let needs := pageNeeds l n limbs ringN twoWay
  if pagesBlocked o.id needs s then none
  else (planesOf l.planes).foldl (fun x p => x.bind (takePlane l n limbs ringN twoWay p)) (some (o, s))

/-- A page request begins to wait (R164, R426). -/
def pageWaitBegin (id : OpId) (needs : List Nat) (s : State) : State :=
  if s.pageWait.any (fun x => x.1 == id) then s
  else needs.foldl (fun s p => irq (pPLANE p) 2 s) { s with pageWait := s.pageWait ++ [(id, needs)] }

def pageWaitEnd (id : OpId) (s : State) : State := { s with pageWait := s.pageWait.filter fun x => x.1 != id }

/-- An operation gives its shadow, staging and region pages back; pool pages that it holds too. -/
def dropPages (id : OpId) (s : State) : State :=
  withOp id (fun o s =>
    setOp { o with shadow := [], staging := [], regionPages := [], poolPages := [] } (freeOpPool o s)) s

end Sys2Proof.Machine
end

