-- ==== Sys2Proof/Machine/Leg.lean ====
section
/-! DEFINITION. Ring legs: the RING_LEG field and its checks (R276 to R278, R283, R307), steps and halves (R281, R118), headers and images (R286 to R289), tags and flits of a step (R285, R293), recalls and restarts (R304, R347). -/

namespace Sys2Proof.Machine

/-! ### The RING_LEG field (R277) -/

def lgGroup (d : List Word) : Nat := bitsAt (dRingLeg d) 0 8
def lgWire (d : List Word) : Nat := bitsAt (dRingLeg d) 8 2
def lgLaps (d : List Word) : Nat := bitsAt (dRingLeg d) 10 2
/-- Both directions: selecting operations go one way whatever LAPS says (R278). -/
def lgTwoWay (d : List Word) : Bool := lgLaps d == 2 && !isSelect (dOp d)

/-- Operations that allow a leg (R278). -/
def legAllowed (o : Nat) : Bool :=
  o == oALLREDUCE || o == oLEDGER_CLOSE || o == oREDUCE_SCATTER || o == oALLGATHER || o == oARGMAX || o == oTOPK || o == oSAMPLE || o == oALLTOALL

/-- Two laps: the sums (R278). -/
def twoLaps (o : Nat) : Bool := isClosing o

/-- The first all-gather or statistics step of a leg of n positions (R281, R450). -/
def lapStart (o n : Nat) : Nat := if twoLaps o then n else 1
/-- The last step of a descriptor's leg: a REDUCE_SCATTER on the integer path has no second lap (R281, R450). -/
def lapEnd (d : List Word) (n : Nat) : Nat :=
  if dOp d == oALLTOALL then 1 else if twoLaps (dOp d) && !(dOp d == oREDUCE_SCATTER && intPath (dInFmt d)) then 2 * n - 2 else n - 1

/-- The entry gates an all-gather step other than the lap's first (R283). -/
def gatesLater (q : QueueSt) (d : List Word) (s : State) : Bool :=
  let b := activeBank s
  let n := gN (groupAt (lgGroup d) s)
  ephBound q && ephValid b (dEphSlot d) s &&
    (List.range (lapEnd d n + 1)).any fun j => decide (lapStart (dOp d) n < j) && gatesStep b (dEphSlot d) j s

/-- The checks of R276, R277, R278 and R283: 0x26. -/
def legSpecBad (q : QueueSt) (d : List Word) (s : State) : Bool :=
  let g := groupAt (lgGroup d) s
  !(lgLaps d == 1 || lgLaps d == 2) || lgWire d == 3 || bitsAt (dRingLeg d) 12 4 != 0 || !legAllowed (dOp d)
    || !gValid g || !gMember g s || groupAbsent g s || gatesLater q d s

/-- The leg's checks at the start: 0x25 before 0x26 (R307, R449); 0 where it passes. -/
def legStartCheck (q : QueueSt) (d : List Word) (s : State) : Nat :=
  if dRingLeg d = 0 then 0
  else if (groupAt (lgGroup d) s).fenced then 0x25
  else if legSpecBad q d s then 0x26 else 0

/-! ### Positions, steps and halves (R118, R281) -/

/-- a - b modulo n. -/
def subMod (a b n : Nat) : Nat := (a + n - b % n) % n

/-- The piece that position q sends in reduce-scatter step j. -/
def rsOut (q j n : Nat) (rev : Bool) : Nat := if rev then (q + j) % n else subMod q j n
/-- The piece that position q receives in reduce-scatter step j. -/
def rsIn (q j n : Nat) (rev : Bool) : Nat := if rev then rsOut ((q + 1) % n) j n true else rsOut (subMod q 1 n) j n false
/-- The piece that position q sends in the t-th step of an all-gather lap. -/
def agOut (q t n : Nat) (rev : Bool) : Nat := if rev then (q + t + n - 1) % n else subMod (q + 1) t n
/-- The piece that position q receives in that step. -/
def agIn (q t n : Nat) (rev : Bool) : Nat := if rev then agOut ((q + 1) % n) t n true else agOut (subMod q 1 n) t n false

/-- Directions of a leg. -/
def legDirs (l : Leg) : List Bool := if l.twoWay then [false, true] else [false]
def dirNat (rev : Bool) : Nat := if rev then 1 else 0

/-- The ports on which forward and reverse data arrive (R276). -/
def recvPort (g : GroupDef) (rev : Bool) (s : State) : Option Nat :=
  let q := gPos g s
  let n := gN g
  let from' := if rev then (if q + 1 = n then 0 else q + 1) else (if q = 0 then n - 1 else q - 1)
  match sendHop g from' rev s with
  | none => none
  | some (a, neg) => portOn a (!neg) s

/-- The channel of a leg's data: its definition's VC, or VC2 over a relayed closing hop (R276, R299). -/
def dataVc (g : GroupDef) (rev : Bool) (s : State) : Nat := if sendRelayed g rev s then 2 else gVc g

/-- The channel on which a direction's data arrive. -/
def recvVc (g : GroupDef) (rev : Bool) (s : State) : Nat :=
  if !closingDirect g s && gPos g s == (if rev then gN g - 1 else 0) then 2 else gVc g

/-- Ports on which this chip sends the leg's data, with the channels: an ALLTOALL uses VC2 for pieces in transit too. -/
def legSends (l : Leg) (a2a : Bool) (s : State) : List (Nat × Nat) :=
  let g := groupAt l.tgroup s
  ((legDirs l).flatMap fun r => match sendPort g r s with
    | none => []
    | some p => (p, dataVc g r s) :: if a2a then [(p, 2)] else []).eraseDups

/-- A port and channel as one number. -/
def chanKey (port vc : Nat) : Nat := port * 4 + vc

/-- Data channels on which the leg's chunks arrive. -/
def legRecvs (l : Leg) (a2a : Bool) (s : State) : List Nat :=
  let g := groupAt l.tgroup s
  ((legDirs l).flatMap fun r => match recvPort g r s with
    | none => []
    | some p => chanKey p (recvVc g r s) :: if a2a then [chanKey p 2] else []).eraseDups

/-- Ports to the definition's neighbours, over which messages flood (R324, R347). -/
def floodPorts (g : GroupDef) (s : State) : List Nat := ((gAxes g).flatMap fun a => neighbours g a s).eraseDups

/-! ### Headers and images (R286 to R288) -/

def kRS : Nat := 1
def kAG : Nat := 2
def kA2A : Nat := 3
def kSTATS : Nat := 4
def kSELECT : Nat := 5

/-- A chunk header (R287). -/
structure ChunkHdr where
  tgroup : Nat
  kind : Nat
  rev : Bool
  content : Nat
  seq : BitVec 16
  piece : Nat
  src : Nat
  offset : Nat
  len : Nat
  step : Nat
  deriving DecidableEq, Repr, Inhabited

def hdrBytes (h : ChunkHdr) : List Byte :=
  [BitVec.ofNat 8 h.tgroup, BitVec.ofNat 8 (h.kind + 16 * dirNat h.rev + 32 * h.content)] ++ leBytes 2 h.seq.toNat ++ leBytes 2 h.piece ++ leBytes 2 h.src
    ++ leBytes 4 h.offset ++ leBytes 2 (h.len - 1) ++ leBytes 2 h.step

def hdrOf (l : List Byte) : ChunkHdr :=
  let b1 := (l.getD 1 0#8).toNat
  { tgroup := (l.getD 0 0#8).toNat, kind := b1 % 16, rev := b1.testBit 4, content := b1 / 32, seq := BitVec.ofNat 16 (leNat (sliceB l 2 2))
    piece := leNat (sliceB l 4 2) % 4096, src := leNat (sliceB l 6 2) % 4096, offset := leNat (sliceB l 8 4), len := leNat (sliceB l 12 2) % 4096 + 1
    step := leNat (sliceB l 14 2) % 4096 }

/-- A chunk on the wire: header, data, check value (R286, R288). -/
def chunkWire (h : ChunkHdr) (data : List Byte) : List Byte :=
  let b := hdrBytes h ++ data
  b ++ leBytes 4 (crc32c b).toNat

/-- An image cut into chunks of 4,096 B, from an offset. -/
def imageWire (h : ChunkHdr) (img : List Byte) : List Byte :=
  ((cutEvery 4096 (img.length / 4096 + 1) img).zipIdx.map fun p => chunkWire { h with offset := 4096 * p.2, len := p.1.length } p.1).flatten

def chunkCount (bytes : Nat) : Nat := ceilDiv bytes 4096

/-- Contents of a reduce-scatter chunk (R286, R287). -/
def rsContent (fmt : BitVec 4) (wire : Nat) : Nat := if intPath fmt then 3 else wire
def contentBytes (c : Nat) : Nat := if c = 0 then 4 else if c = 2 then 2 else 8

/-- wire() of R120 with its flags, as bytes. -/
def wireBytes (content : Nat) (w : Word64) : List Byte × Flags :=
  if content = 0 then (leBytes 4 (pairH w).toNat, fNone)
  else if content = 2 then
    let r := encFloat fmtE8M7 .rne false (valOfPair w) 0
    (leBytes 2 (if r.1 % 2 ^ 15 = 0 then 0 else r.1), r.2)
  else (leBytes 8 w.toNat, fNone)

/-- The pair, or integer, that the receiver decodes (R120). -/
def wireVal (content : Nat) (l : List Byte) : Word64 :=
  let x := leNat l
  if content = 0 then mkPair (BitVec.ofNat 32 x) 0#32 else if content = 2 then mkPair (BitVec.ofNat 32 (x * 65536)) 0#32 else BitVec.ofNat 64 x

/-! ### Steps, tags and flits (R285, R293) -/

def allLegs (s : State) : List Leg := s.ops.filterMap fun o => o.leg

/-- Active steps of a port, relays and forwards among them (R285). -/
def activeSteps (port : Nat) (s : State) : Nat :=
  (((allLegs s).map fun l => (l.tx.filter fun t => t.port == port).length).sum) + (linkAt port s).relays.length

def flitsOf (port : Nat) (s : State) : List TxFlit := (linkAt port s).txq.flatten ++ (linkAt port s).replay.map fun x => x.body

/-- A port's step, of a leg or of a relay, that is still active (R285). -/
def stepOpen (port sid : Nat) (s : State) : Bool :=
  (allLegs s).any (fun l => l.tx.any fun t => t.port == port && t.sid == sid) || (linkAt port s).relays.any fun t => t.sid == sid

/-- Flits of a step wait to be sent or to be acknowledged. -/
def stepHasFlits (port sid : Nat) (s : State) : Bool := (flitsOf port s).any fun f => f.kind == 1 && f.step == sid

/-- The step's LAST flit is queued: nothing more comes. -/
def stepFed (port sid : Nat) (s : State) : Bool :=
  !((allLegs s).any (fun l => l.tx.any fun t => t.port == port && t.sid == sid && !t.lastQueued) || (linkAt port s).relays.any fun t => t.sid == sid && !t.lastQueued)

/-- A tag is in use from its step's first flit to the acknowledgement of its LAST (R293). -/
def tagUsed (port tag : Nat) (s : State) : Bool :=
  (linkAt port s).tags.any fun x => x.2 == tag && (stepHasFlits port x.1 s || !stepFed port x.1 s)

/-- The tags in use on a port (R431). -/
def tagsUsed (port : Nat) (s : State) : Nat := ((linkAt port s).tags.filter fun x => stepHasFlits port x.1 s || !stepFed port x.1 s).length

/-- The tag that a step bears, where its first flit has been sent. -/
def stepTag (sid : Nat) (l : Link) : Option Nat := (l.tags.find? fun x => x.1 == sid).map fun x => x.2

/-- A free tag of a port (R293). -/
def freeTag (port : Nat) (s : State) : Nat := ((List.range 4096).find? fun t => !tagUsed port t s).getD 0

/-- A step's first flit is sent: the step takes a free tag (R293). Tags of steps that are over are forgotten. -/
def takeTag (port sid : Nat) (s : State) : State :=
  let l := linkAt port s
  if (stepTag sid l).isSome then s
  else setLink port { l with tags := (l.tags.filter fun x => stepHasFlits port x.1 s || stepOpen port x.1 s) ++ [(sid, freeTag port s)] } s

/-- A new step's number on its port. -/
def takeSid (port : Nat) (s : State) : Nat × State := let l := linkAt port s; (l.nextSid, setLink port { l with nextSid := l.nextSid + 1 } s)

/-- Queue a step's DATA flits: all but the last 116 bytes or fewer, and with `fin` those too, padded, with LAST (R286). -/
def feedFlits (vc group sid : Nat) (fin : Bool) : Nat → List Byte → Nat → State → List Byte × State
  | 0, buf, _, s => (buf, s)
  | f + 1, buf, port, s =>
    if 116 < buf.length then
      feedFlits vc group sid fin f (buf.drop 116) port (queueFlit port vc ⟨1, sid, false, group, buf.take 116⟩ s)
    else if fin then ([], queueFlit port vc ⟨1, sid, true, group, sliceB buf 0 116⟩ s)
    else (buf, s)

/-- One byte of a step on its way to the flits. An injection whose occasion has come fires as a chunk's check value goes out on the port, and inverts it (R419). -/
def sendByte (x : TxStep × State × List Byte) (b : Byte) : TxStep × State × List Byte :=
  let (t, s, out) := x
  if 0 < t.left then
    let fires := t.left == 4 && injects 3 t.port s
    let hit := fires || t.hit
    ({ t with left := t.left - 1, hit := hit && t.left != 1 }, (if fires then fireInjection s else s), (if hit then ~~~b else b) :: out)
  else
    let head := t.head ++ [b]
    if head.length < 16 then ({ t with head := head }, s, b :: out)
    else
      let h := hdrOf head
      ({ t with head := [], left := if h.kind = 0 then 0 else h.len + 4 }, s, b :: out)

/-- Append bytes to a step; `fin` ends it. -/
def feedStep (t : TxStep) (vc group chunks : Nat) (bytes : List Byte) (fin : Bool) (s : State) : TxStep × State :=
  let (t, s, sent) := bytes.foldl sendByte (t, s, [])
  let buf := t.buf ++ sent.reverse
  let r := feedFlits vc group t.sid fin (buf.length / 116 + 2) buf t.port s
  let n := if fin then max 1 ((buf.length + 115) / 116) else (buf.length - r.1.length) / 116
  ({ t with buf := r.1, sentChunks := t.sentChunks + chunks, lastQueued := t.lastQueued || fin, flits := t.flits + n }, r.2)

/-! ### Recall and restart (R302, R304, R347) -/

def recallMsg (tg : Nat) (seq : BitVec 16) (code : BitVec 8) : List Byte := [0x04#8, BitVec.ofNat 8 tg] ++ leBytes 2 seq.toNat ++ [code, 0#8, 0#8, 0#8]

/-- RECALL goes to every neighbour on VC3. -/
def floodRecall (l : Leg) (code : BitVec 8) (s : State) : State :=
  (floodPorts (groupAt l.tgroup s) s).foldl (fun s p => queueFlit p 3 (ctlFlit (recallMsg l.tgroup l.seq code)) s) s

/-- Steps that a leg leaves unfinished end on the wire with an empty last flit, so that their tags come free. -/
def abandonSteps (l : Leg) (s : State) : State :=
  l.tx.foldl (fun s t => if t.lastQueued then s else
    queueFlit t.port (dataVc (groupAt l.tgroup s) t.reverse s) ⟨1, t.sid, true, l.tgroup, List.replicate 116 0#8⟩ s) s

/-- The leg's recall is applied: markers lead the data channels, and the new attempt starts from the next transit. -/
def restartLeg (id : OpId) (code : BitVec 8) (s : State) : State :=
  withOp id (fun o s =>
    match o.leg with
    | none => s
    | some l =>
      let g := groupAt l.tgroup s
      let s := abandonSteps l s
      let a2a := dOp o.d == oALLTOALL
      let s := (legSends l a2a s).foldl (fun s p => queueFlit p.1 p.2 (ctlFlit (recallMsg l.tgroup l.seq code)) s) s
      let a := l.attempt + 1
      let l' := { l with attempt := a, started := [], tx := [], got := [], region := [], stats := [], images := [], beatsOut := [], delivered := [], reduced := false, markers := (legRecvs l a2a s).filter (fun k => !l.marked.contains k), marked := [], recallAt := none, recallEcho := (floodPorts g s).filter (fun p => !l.recallFrom.contains p), recallFrom := [], notBefore := s.clock.transit + 1, relap := false, lapDone := [] }
      verdictStart l.tgroup l.seq a (setOp { o with leg := some l', legFlags := fNone } s)) s

/-- A leg stops (R350): its unfinished steps end on the wire and its verdict is forgotten. -/
def stopLeg (id : OpId) (s : State) : State :=
  withOp id (fun o s =>
    match o.leg with
    | none => s
    | some l => setVerdict (verdictKey l.tgroup l.seq) Verdict.idle (setOp { o with leg := none } (abandonSteps l s))) s

end Sys2Proof.Machine
end

