-- ==== Sys2Proof/Machine/Fail.lean ====
section
/-! DEFINITION. What failures, contained faults and ledger-fatal faults do to an operation and its ledger (R149, R257, R343 to R345, R350), shared by every unit that detects one. -/

namespace Sys2Proof.Machine

/-- SOURCE of the queue engine and of the memory port (R336). -/
def queueSource : BitVec 16 := source 0xA 0
def memSource : BitVec 16 := source 3 0

/-- The binary32 value 1.0: the default output tensor scale (R91). -/
def f32One : Word := 0x3F800000#32

/-- An operation that runs: it has not failed, no replay is due, and no comparison of stored state holds it (R343, R354). -/
def runs (o : Op) : Bool := o.fail.isNone && o.replay.isNone && !o.comparing

/-- It holds its ledger (R152). -/
def holds (o : Op) (s : State) : Bool := namesLedger (dOp o.d) && (ledgerAt (dLedger o.d) s).holder == some o.id

/-- Run on a named operation that runs. -/
def withRunning (id : OpId) (f : Op → State → State) (s : State) : State :=
  withOp id (fun o s => if alive s && runs o then f o s else s) s

/-! ### Releasing ledgers -/

/-- A ledger becomes FREE; its wait list stays (R144). -/
def freeLedger (l : Nat) (s : State) : State :=
  let v := ledgerAt l s
  closeLedgerChain l (setLedger l { Ledger.free with waiting := v.waiting } (freeLedgerPool v s))

/-- What an operation holds beside its own ledger is released: a bias ledger (R171), and the ledgers of a RESTORE, which are FREE until it completes (R144, R180). -/
def releaseBias (id : OpId) (s : State) : State :=
  s.ledgers.foldl (fun s x =>
    if x.2.holder == some id then
      (let v := ledgerAt x.1 s; setLedger x.1 (if v.state = 0 then { Ledger.free with waiting := v.waiting } else { v with holder := none }) s)
    else s) s

/-- A holder fails: its ledger is as before the claim (R144, R149). -/
def endHoldFailed (o : Op) (s : State) : State :=
  let l := dLedger o.d
  if !holds o s then releaseBias o.id s
  else
    let v := ledgerAt l s
    let s :=
      if dOp o.d = oLEDGER_ADD then setLedger l { v with holder := none } s
      else if dOp o.d = oLEDGER_CLOSE then setLedger l { v with state := 1, holder := none, almanac := 0#32, outTscale := f32One, blocks := o.blocks0 } s
      else freeLedger l s
    releaseBias o.id s

/-- The operation leaves every wait list (R151, R164). -/
def leaveLists (id : OpId) (s : State) : State :=
  let s := s.ledgers.foldl (fun s x => if x.2.waiting.contains id then
    (let v := ledgerAt x.1 s; setLedger x.1 { v with waiting := v.waiting.filter (· != id) } s) else s) s
  pageWaitEnd id s

/-! ### Failure (R257) -/

/-- Codes that enter the log because they fail a descriptor: those of R113, R142, R181, R270, 0x25, 0x26 and 0x98. -/
def descriptorCode (code : Nat) : Bool := decide (0x40 ≤ code ∧ code ≤ 0x5F) || code == 0x25 || code == 0x26 || code == 0x98

/-- The first port that the leg's definition uses on this chip; 0 where it uses none. -/
def legPort (o : Op) (s : State) : Nat := ((groupPorts (groupAt (lgGroup o.d) s) s).findSome? id).getD 0

/-- SOURCE of a failed descriptor: the queue engine. A leg's codes are attributed to the RING page of the port in their SOURCE (R425); DESIGN CHOICE (log 22): the port is the first that the definition uses. -/
def failSource (o : Op) (code : Nat) (s : State) : BitVec 16 := if code = 0x25 ∨ code = 0x26 then source 2 (legPort o s) else queueSource

/-- The entry of a failed descriptor: it names the ledger once the operation has attempted its claim. -/
def logFail (o : Op) (code : Nat) (s : State) : State :=
  if !descriptorCode code then s
  else if namesLedger (dOp o.d) && o.claim != .none then noticeLedger code (failSource o code s) (dLedger o.d) o.attempt s
  else notice code (failSource o code s) s

/-- A ledger's chain closes when the operation that the chain struck seals or fails (R338). -/
def endChain (o : Op) (s : State) : State := if o.hit ≠ 0 ∧ namesLedger (dOp o.d) = true then closeLedgerChain (dLedger o.d) s else s

/-- A descriptor fails in this transit: its ledger is as before the claim, its pages are freed, its up phases end, and its stalls discard; the failure is delivered in the next transit. -/
def opFail (id : OpId) (code : Nat) (s : State) : State :=
  withOp id (fun o s =>
    if o.fail.isSome then s
    else
      let s := dropPages id (endHoldFailed o (leaveLists id (stopLeg id (logFail o code s))))
      let s := endChain o (discardBeats o s)
      modOp id (fun o => { o with fail := some (BitVec.ofNat 8 code, s.clock.transit), upOpen := [], upHold := [], beats := [], summed := [], passed := [], limbs := [], fresh := [], folded := [], foldBuf := [], down := [], replay := none, comparing := false, save := none, eg := { o.eg with recallDue := false, reEmit := false } }) s) s

/-! ### Ledger-fatal faults (R350) -/

/-- A fault with the given code strikes the operation: it belongs to its ledger's chain (R338). -/
def struckNow (id : OpId) (code : Nat) (s : State) : State :=
  modOp id (fun o => if o.hit ≠ 0 then o else { o with hit := (if tget 0 (dLedger o.d) s.log.ledgerChains = 0 then code else tget 0 (dLedger o.d) s.log.ledgerChains) }) s

/-- The ledger becomes FAULTED: it keeps its record and no accumulators, and its pages are freed (R143, R350). DESIGN CHOICE (log 52): of the record, OUT_TSCALE keeps the value of the claim and ALMANAC reads 0, since R201 gives it one only for as long as the operation holds the ledger. -/
def makeFaulted (l : Nat) (code : BitVec 8) (s : State) : State :=
  let v := ledgerAt l s
  if v.state = 1 ∨ v.state = 2 then
    irq pLEDGER 0 (setLedger l { v with state := 3, holder := none, fault := code, acc := [], blocks := [], pages := [], almanac := 0#32 } (freeLedgerPool v s))
  else s

/-- The effect of a ledger-fatal fault; its entry is the caller's. -/
def ledgerFatalNow (l : Nat) (code : BitVec 8) (s : State) : State :=
  match (ledgerAt l s).holder with
  | none => makeFaulted l code s
  | some id =>
    let s := withOp id (fun o s => if o.eg.shown then recallNow id false s else s) s
    opFail id code.toNat (makeFaulted l code s)

/-- A ledger-fatal fault with its entry. -/
def ledgerFatalLog (l : Nat) (code : BitVec 8) (src : BitVec 16) (s : State) : State :=
  let a := match (ledgerAt l s).holder with
    | none => 0
    | some id => match opAt id s with | some o => o.attempt | none => 0
  let s := match (ledgerAt l s).holder with | some id => struckNow id code.toNat s | none => s
  ledgerFatalNow l code (logFault ⟨code.toNat, clsLedgerFatal, src, some (l, a), none⟩ s)

/-- The operation has failed in this very transit (R345). -/
def failedNow (o : Op) (s : State) : Bool :=
  match o.fail with
  | some (_, t) => t == s.clock.transit
  | none => false

/-- An entry in the chain that opened with a given code, 0 for none; the chain has ended, and ends with the entry again (R338). -/
def logChained (first : Nat) (e : LogIn) (s : State) : State :=
  if first = 0 ∨ chainOf e s ≠ 0 then logFault e s
  else match e.ledger with
    | some (l, _) => closeLedgerChain l (logFault e { s with log := { s.log with ledgerChains := tset 0 l first s.log.ledgerChains } })
    | none => closeSourceChain e.src (logFault e { s with log := { s.log with sourceChains := tset 0 e.src.toNat first s.log.sourceChains } })

/-- A fault of an operation that has failed in this very transit enters in the chain of the failure (R345). -/
def afterFailure (o : Op) (e : LogIn) (s : State) : State := logChained o.hit e s

/-- A ledger-fatal fault of an operation, whose entry names the ledger that it struck, if any: the operation fails, and the chain of that ledger ends (R338, R350); one that has failed in this transit keeps the entry (R345). -/
def opFatalOn (id : OpId) (code : BitVec 8) (src : BitVec 16) (led : Option Nat) (s : State) : State :=
  withOp id (fun o s =>
    let e : LogIn := ⟨code.toNat, clsLedgerFatal, src, led.map fun l => (l, o.attempt), none⟩
    if failedNow o s then afterFailure o e s
    else
      let first := match led with | some l => tget 0 l s.log.ledgerChains | none => 0
      let s := modOp id (fun o => { o with hit := if first = 0 then code.toNat else first }) (logFault e s)
      let s := opFail id code.toNat s
      match led with | some l => closeLedgerChain l s | none => s) s

/-- A ledger-fatal fault of a running operation: its ledger where it holds one; otherwise the operation alone fails. -/
def opFatal (id : OpId) (code : BitVec 8) (src : BitVec 16) (s : State) : State :=
  withOp id (fun o s =>
    if holds o s then ledgerFatalLog (dLedger o.d) code src s
    else opFatalOn id code src (if namesLedger (dOp o.d) && failedNow o s then some (dLedger o.d) else none) s) s

/-! ### Contained faults (R343 to R345) -/

/-- Counts of ECC events (R418); a seam's uncorrectable error counts as one of them. -/
def countEcc (code : Nat) (s : State) : State :=
  if code = 0x32 then count rECC_CORRECTED 1 s
  else if code = 0x31 ∨ code = 0x33 ∨ code = 0xF0 then count rECC_UNCORRECTED 1 s
  else s

/-- MISMATCHES counts the 0x80 entries (R416). -/
def countMismatch (code : Nat) (s : State) : State := if code = 0x80 then count rMISMATCHES 1 s else s

/-- Detection of a contained fault: its entry, attributed to the given page where its source names none, and the replay that becomes due; the attempt count rises (R343). At attempt 2 the fault enters as 0x34 and the ledger becomes FAULTED (R344). Several faults of one operation in one transit count once, and one that a graver fault of the transit has failed keeps its entries (R345). -/
def containedHitOn (id : OpId) (code : BitVec 8) (src : BitVec 16) (page : Option Nat) (resend : Bool) (s : State) : State :=
  withOp id (fun o s =>
    let e := fun a : Nat => (⟨code.toNat, clsContained, src, some (dLedger o.d, a), page⟩ : LogIn)
    if !alive s then s
    else if failedNow o s then (if namesLedger (dOp o.d) then afterFailure o (e o.attempt) (countEcc code.toNat (countMismatch code.toNat s)) else s)
    else if o.fail.isSome || !holds o s then s
    else
      let again := o.struck == some s.clock.transit
      let s := struckNow id (if !again && decide (2 ≤ o.attempt) then 0x34 else code.toNat) (countEcc code.toNat s)
      if !again && decide (2 ≤ o.attempt) then
        ledgerFatalNow (dLedger o.d) 0x34#8 (logFault ⟨0x34, clsLedgerFatal, src, some (dLedger o.d, o.attempt), none⟩ s)
      else
        let a := if again then o.attempt else o.attempt + 1
        let s := logFault (e a) (countMismatch code.toNat s)
        if again && o.replay.isNone then s
        else modOp id (fun o => { o with struck := some s.clock.transit, attempt := a, replay := some (resend || o.replay == some true) }) s) s

/-- The page of a plane's fault whose source is a seam (R336, R425). -/
def seamPage (plane : Nat) (src : BitVec 16) : Option Nat := if src.toNat / 4096 = 7 then some (pPLANE plane) else none

/-- Detection of a contained fault. DESIGN CHOICE (log 24): where a seam is the source and nothing says which plane's beat was struck, it is the lowest plane of the operation. -/
def containedHit (id : OpId) (code : BitVec 8) (src : BitVec 16) (resend : Bool) (s : State) : State :=
  withOp id (fun o s => containedHitOn id code src (seamPage ((planesOf o.planes).headD 0) src) resend s) s

/-- The contribution's effects are discarded: its beats, sums, new accumulators and partial pages; the pages stay taken (R343). -/
def clearContribution (o : Op) : Op :=
  { o with beats := [], summed := [], passed := [], limbs := [], fresh := [], freshFlags := fNone, partWritten := [], folded := [], foldBuf := [], foldDone := false, added := false, addAt := 0 }

/-- What an egress reads of partial pages is to be read again (R163). -/
def clearFold (o : Op) : Op := { o with foldDone := false, folded := [], foldBuf := [] }

/-- The egress is to run again (R177, R207); a leg that restarts keeps the local values of its first phases (R147, R343). -/
def clearEgress (o : Op) : Op :=
  let e := o.eg
  let o := if o.leg.isNone then clearFold o else o
  { o with eg := { e with next := 0, meas := Measures.none, nForm1 := 0, nForm2 := 0, nForm3 := 0, nDecided := 0, nOutlier := 0, patch := [], patchOut := 0, flags := fNone, ended := false, endedAt := 0, chunkOut := [], recallDue := false, reEmit := false, shown := false } }

/-- The leg has sent or received something. -/
def legBusy (l : Leg) : Bool := !l.started.isEmpty || !l.got.isEmpty || !l.stats.isEmpty || !l.images.isEmpty

/-- The replay of a contained fault: discarded effects, recall or RESEND, leg restart (R343, R347). -/
def replayNow (id : OpId) (code : BitVec 8) (s : State) : State :=
  withOp id (fun o s =>
    match o.replay with
    | none => s
    | some resend =>
      if o.fail.isSome then s
      else
        let s := recallNow id resend s
        let s := modOp id (fun o =>
          let o := clearEgress (if resend then clearContribution o else o)
          { o with replay := none, replayed := true }) s
        let s := perf pcReplays 1 s
        withOp id (fun o s => match o.leg with
          | none => s
          | some l =>
            if code == 0x30#8 || legBusy l then restartLeg id code (floodRecall l code s) else s) s) s

end Sys2Proof.Machine
end

