-- ==== Sys2Proof/Machine/MemPort.lean ====
section
/-! DEFINITION. The memory port (R44 to R52, R411, R412): requests with their limits and windows, read data, write responses and timeouts, and what an error does by the request's purpose. -/

namespace Sys2Proof.Machine

/-- Hints of R49. -/
def hSTREAM : Nat := 0
def hKEEP : Nat := 1
def hDROP : Nat := 2

/-! ### Windows and limits (R46, R47, R50, R412) -/

def winBase (n : Nat) (s : State) : Nat := regNat (rWIN n 1) s * 2 ^ 32 + regNat (rWIN n 0) s
def winBytes (n : Nat) (s : State) : Nat := 4096 * regNat (rWIN n 2) s
/-- A word of the trim set: a free value where the set is invalid, and R361 gives it no default (log 12). -/
def bootWord (w : Nat) (s : State) : Word := if s.boot.trimsValid then tget 0#32 w s.tabs.trims else Config.bareTrim w

/-- The image's address and the firmware's (R360). -/
def trimAddr (word : Nat) (s : State) : Nat := (bootWord (word + 1) s).toNat * 2 ^ 32 + (bootWord word s).toNat
def imageAddr (s : State) : Nat := trimAddr 285 s
def fwAddr (s : State) : Nat := trimAddr 287 s

/-- The bytes lie wholly inside an enabled window; in phases 4 and 5 the two ranges of 512 KiB at the image's and the firmware's address stand in the windows' place (R364). -/
def inWindow (addr bytes : Nat) (s : State) : Bool :=
  if s.clock.phase = 4 ∨ s.clock.phase = 5 then [imageAddr s, fwAddr s].any fun b => decide (b ≤ addr ∧ addr + bytes ≤ b + 0x80000)
  else (List.range 8).any fun n => bitOf (reg (rWIN n 3) s) 0 && decide (winBase n s ≤ addr ∧ addr + bytes ≤ winBase n s + winBytes n s)

/-- Every request that the memory system has not answered, those that timed out or were given up among them. DESIGN CHOICE (log 53): such a request counts against the limits of R46 and in the overlaps of R47, and keeps its identifier, until its last beat or response has come. -/
def memOutstanding (w : Bool) (s : State) : List MemReq := (s.mem ++ s.memLate).filter fun r => r.write == w

def idUsed (w : Bool) (i : Nat) (s : State) : Bool := (memOutstanding w s).any fun r => r.id == i
def freeId (w : Bool) (s : State) : Option Nat := (List.range 256).find? fun i => !idUsed w i s

def overlaps (a n b m : Nat) : Bool := decide (a < b + m ∧ b < a + n)

/-- The port can take a request now (R46, R47). -/
def memCan (write urgent : Bool) (addr bytes : Nat) (s : State) : Bool :=
  let rd := memOutstanding false s
  let wr := memOutstanding true s
  (if write then decide (wr.length < 64) else decide (rd.length < 256) && (!urgent || decide ((rd.filter fun r => r.urgent).length < 16)))
    && !(wr.any fun r => overlaps addr bytes r.addr (32 * r.sectors))

/-! ### Queues as the memory port sees them (R52, R269) -/

/-- A queue halts: ERR takes the code, and the QUEUE page interrupts (R426). A halted queue keeps the code that halted it. -/
def queueHalt (q : Nat) (code : BitVec 8) (s : State) : State :=
  let v := queueAt q s
  if v.state = 2 then s else irq pQUEUE 0 (setQueue q { v with state := 2, err := code } s)

/-- HEAD passes every slot whose record has been written, in slot order; the lap bit flips as it passes the last slot (R269). -/
def advanceHead : Nat → QueueSt → QueueSt
  | 0, v => v
  | f + 1, v =>
    if v.written.contains v.head then
      advanceHead f { v with written := v.written.filter (· != v.head), head := (v.head + 1) % queueSize v, lap := if v.head + 1 = queueSize v then !v.lap else v.lap }
    else v

/-- The ledger that a record names, where its operation names one (R268). -/
def recordLedger (b : List Byte) : Option Nat :=
  if namesLedger (fieldOf (word32At b 16) 24 8) then some (fieldOf (word32At b 0) 20 12) else none

/-- The first record that waits for a slot. -/
def firstRecord (slot : Nat) : List (Nat × List Byte) → Option (List Byte)
  | [] => none
  | r :: rs => if r.1 = slot then some r.2 else firstRecord slot rs
def dropRecord (slot : Nat) : List (Nat × List Byte) → List (Nat × List Byte)
  | [] => []
  | r :: rs => if r.1 = slot then rs else r :: dropRecord slot rs

/-! ### The records of a save area (R179) -/

/-- Bytes of a ledger's entry. -/
def entryBytes (v : Ledger) : Nat :=
  if v.state = 1 then 64 + (8 * v.count + 8 * ceilDiv v.count 32 + 63) / 64 * 64 else 64

/-- The record at an offset of an area. -/
def recordAt (area : List Byte) (at' : Nat) : Nat × Ledger :=
  let r := sliceB area at' 64
  (leNat (sliceB r 0 2) % 4096,
   { Ledger.free with state := (r.getD 2 0#8).toNat, sat := (r.getD 3 0#8).getLsbD 1, fmt := (r.getD 4 0#8).setWidth 4, planes := (r.getD 5 0#8).toNat, flags := (r.getD 6 0#8).setWidth 4, count := leNat (sliceB r 8 4), contribs := leNat (sliceB r 12 4), seed := BitVec.ofNat 64 (leNat (sliceB r 16 8)), pos := word32At r 24, almanac := word32At r 28, outTscale := word32At r 32, fault := r.getD 36 0#8 })

/-- The entries of an area: offset, number, record. -/
def areaEntries (area : List Byte) : Nat → Nat → List (Nat × Nat × Ledger)
  | 0, _ => []
  | f + 1, at' =>
    let (n, v) := recordAt area at'
    (at', n, v) :: areaEntries area f (at' + entryBytes v)

/-- The ledger whose entry holds an offset of an area, as far as its records have been read. -/
def areaLedger (area : List Byte) (off : Nat) : Option Nat :=
  ((areaEntries area (min (leNat (sliceB area 12 4)) 4096) 64).find? fun x => decide (x.1 ≤ off ∧ off < x.1 + entryBytes x.2.2)).map fun x => x.2.1

/-! ### Errors (R52) -/

/-- LAST_ERR and its address (R411). -/
def noteErr (code id addr : Nat) (s : State) : State :=
  let s := setReg rLAST_ERR_ADDR_LO (BitVec.ofNat 32 addr) (setReg (rLAST_ERR_ADDR_LO + 4) (BitVec.ofNat 32 (addr / 2 ^ 32)) s)
  setReg rLAST_ERR (BitVec.ofNat 32 (code + 256 * id)) s

/-- What an error does, by the request's purpose. -/
def memConsequence (p : Purpose) (code : Nat) (s : State) : State :=
  let c := BitVec.ofNat 8 code
  match p with
  | .descFetch q slot _ =>
    let v := queueAt q s
    queueHalt q c (setQueue q { v with nextFetch := slot } (notice code memSource s))
  | .record q slot =>
    let v := queueAt q s
    let s := match (firstRecord slot v.records).bind recordLedger with
      | some l => noticeLedger code memSource l 0 s
      | none => notice code memSource s
    queueHalt q c (setQueue q { queueAt q s with badRecords := (queueAt q s).badRecords ++ [slot] } s)
  | .partialWrite id _ page _ =>
    withOp id (fun o s =>
      if dOp o.d = oRESTORE then opFatalOn id c memSource (some (page / 2 ^ 20 - 1)) s
      else opFatal id c memSource s) s
  | .partialRead id l _ _ _ =>
    withOp id (fun o s =>
      if failedNow o s then afterFailure o ⟨code, clsLedgerFatal, memSource, some (l, o.attempt), none⟩ s
      else
        let s := struckNow id code (ledgerFatalLog l c memSource s)
        closeLedgerChain l (opFail id code s)) s
  | .saveWrite id => opFail id code (notice code memSource s)
  | .restoreRead id off =>
    withOp id (fun o s =>
      opFatalOn id c memSource (o.save.bind fun v => areaLedger v.area off) s) s
  | .sizeTable id _ => opFail id code (notice code memSource s)
  | .image _ => { notice code memSource s with boot := { s.boot with readBad := s.boot.readBad || s.clock.phase == 4 } }
  | .firmware _ => { notice code memSource s with boot := { s.boot with readBad := s.boot.readBad || s.clock.phase == 5 } }

/-! ### Issuing -/

/-- The beats of a write (R45): one for each 128 B-aligned span that it touches, every sector in its lane, with the sectors that the beat carries. -/
def writeBeats (addr : Nat) (data : List Byte) : List PortOut :=
  let first := addr / 128
  let n := (addr + data.length + 127) / 128 - first
  (List.range n).map fun i =>
    let lo := max addr (128 * (first + i))
    let hi := min (addr + data.length) (128 * (first + i + 1))
    let at' := lo - 128 * (first + i)
    .memWData (BitVec.ofNat 1024 (leNat (List.replicate at' 0#8 ++ sliceB data (lo - addr) (hi - lo)))) (BitVec.ofNat 4 (2 ^ ((hi - lo) / 32 + at' / 32) - 2 ^ (at' / 32))) (decide (i + 1 = n))

def presentAll (l : List PortOut) (s : State) : State := { s with out := s.out ++ l }

/-- Issue a request: none where the port cannot take it now; outside every window it is not issued, and 0x63 is found. -/
def memIssue (write urgent : Bool) (addr sectors hint : Nat) (p : Purpose) (data : List Byte) (s : State) : Option State :=
  if !memCan write urgent addr (32 * sectors) s then none
  else match freeId write s with
    | none => none
    | some i =>
      if !inWindow addr (32 * sectors) s then some (find_ (.memory p 0x63 0 addr) s)
      else
        let s := { s with mem := s.mem ++ [⟨write, i, addr, sectors, urgent, p, s.clock.now, [], false, false⟩] }
        some (if write then perfLater pcWrSectors sectors (presentAll (writeBeats addr data) (present (.memWrite i addr sectors hint) s))
          else present (.memRead i addr sectors hint urgent) s)

/-- Issue, or leave the state as it is where the port cannot take the request. -/
def memTry (write urgent : Bool) (addr sectors hint : Nat) (p : Purpose) (data : List Byte) (s : State) : State :=
  (memIssue write urgent addr sectors hint p data s).getD s

/-- A request of this purpose is on its way, or its error is about to take effect. -/
def memHas (p : Purpose) (s : State) : Bool :=
  let errs := fun x : Place × Due => match x.2 with | .memory q _ _ _ => q == p | _ => false
  s.mem.any (fun r => r.purpose == p) || s.clock.due.any errs || s.clock.found.any errs

/-- The record writes that are due: the oldest of each slot, unless its write failed and waits for RESUME (R269). -/
def issueRecords (s : State) : State :=
  s.queues.foldl (fun s x => x.2.records.foldl (fun s r =>
    let v := queueAt x.1 s
    if memHas (.record x.1 r.1) s || v.badRecords.contains r.1 || firstRecord r.1 v.records != some r.2 then s
    else memTry true false (v.compBase + 32 * r.1) 1 hSTREAM (.record x.1 r.1) r.2 s) s) s

/-! ### Partial pages (R161) -/

/-- The elements of a page that a contribution of n elements touches: (position in the page, element). -/
def pageElems (l : Ledger) (n p page : Nat) : List (Nat × Nat) :=
  ((List.range 512).map fun i => (i, elemAt l.fmt l.planes p (512 * page + i))).filter fun x => decide (x.2 < n)

/-- The contribution's 512 values of a page: (+0, +0) or 0 beyond its count. -/
def partialImage (o : Op) (l : Ledger) (p page : Nat) : List Byte :=
  (List.range 512).flatMap fun i =>
    let e := elemAt l.fmt l.planes p (512 * page + i)
    leBytes 8 (if e < dCount o.d then (tget none e o.fresh).getD 0#64 else 0#64).toNat

/-- Every element of the page has been summed. -/
def pageReady (o : Op) (l : Ledger) (p page : Nat) : Bool := (pageElems l (dCount o.d) p page).all fun x => (tget none x.2 o.fresh).isSome

def partPurpose (o : Op) (x : Nat × Nat × Nat) : Purpose := .partialWrite o.id x.1 x.2.1 x.2.2

/-- Write the partial pages whose sums are complete. -/
def issuePartials (id : OpId) (s : State) : State :=
  withRunning id (fun o s =>
    let l := ledgerAt (dLedger o.d) s
    o.poolPages.foldl (fun s x =>
      if decide (2 ^ 20 ≤ x.2.1) || o.partWritten.contains (x.1, x.2.1) || memHas (partPurpose o x) s || !pageReady o l x.1 x.2.1 then s
      else memTry true false (poolAddr x.1 x.2.2 s) 128 hKEEP (partPurpose o x) (partialImage o l x.1 x.2.1) s) s) s

/-- All partial pages of the contribution are in memory. -/
def partialsDone (o : Op) : Bool := o.poolPages.all fun x => decide (2 ^ 20 ≤ x.2.1) || o.partWritten.contains (x.1, x.2.1)

/-! ### The size table of an ALLTOALL (R290) -/

/-- The sectors that hold the table of n entries: base address and bytes. -/
def tableSpan (d : List Word) (n : Nat) : Nat × Nat :=
  (dAddr d / 32 * 32, (dAddr d % 32 + 16 * n + 31) / 32 * 32)

/-- Read the next part of the table, up to a 4 KiB boundary; one request at a time. -/
def sizesIssue (id : OpId) (s : State) : State :=
  withOp id (fun o s =>
    match o.leg with
    | none => s
    | some g =>
      let (base, total) := tableSpan o.d g.n
      let off := 4 * g.sizes.length
      if !o.sizesPending || o.fail.isSome || total ≤ off || s.mem.any (fun r => match r.purpose with | .sizeTable i _ => i == id | _ => false) then s
      else memTry false false (base + off) (min (4096 - (base + off) % 4096) (total - off) / 32) hSTREAM (.sizeTable id off) [] s) s

/-! ### The images of start-up (R364, R369) -/

/-- Bytes that a header of the configuration image announces, once it is here; the header alone where they are no legal number (R365). -/
def imageSize (img : List Byte) : Nat :=
  let n := (word32At img 12).toNat
  if img.length < 64 then 64 else if decide (64 ≤ n ∧ n ≤ 262144) && n % 8 == 0 then n else 64

/-- The same of a firmware image: its header and the code that BYTES announces (R369). -/
def firmwareSize (f : List Byte) : Nat :=
  let n := (word32At f 8).toNat
  if f.length < 256 then 256 else if decide (4 ≤ n ∧ n ≤ 524032) && n % 4 == 0 then 256 + n else 256

/-- CONFIG_SRC, 2 where the trim set is invalid (R361). -/
def configSrc (s : State) : Nat := if s.boot.trimsValid then fieldOf (tget 0#32 284 s.tabs.trims) 0 2 else 2

/-- A read of start-up is on its way, or its error is about to take effect. -/
def bootReads (s : State) : Bool :=
  let isBoot := fun p : Purpose => match p with | .image _ => true | .firmware _ => true | _ => false
  let errs := fun x : Place × Due => match x.2 with | .memory q _ _ _ => isBoot q | _ => false
  s.mem.any (fun r => isBoot r.purpose) || s.clock.due.any errs || s.clock.found.any errs

/-- The next read of an image: from its next byte on to a 4 KiB boundary at most; one at a time, and none after one has failed. The order and the sizes of the reads are the model's (log 56). -/
def bootRead (base have' total : Nat) (p : Purpose) (s : State) : State :=
  if s.boot.readBad || total ≤ have' || bootReads s then s
  else memTry false false (base + have') (min (4096 - (base + have') % 4096) ((total - have' + 31) / 32 * 32) / 32) hDROP p [] s

/-- Phase 4 reads the configuration image, phase 5 the firmware. -/
def bootIssue (s : State) : State :=
  let b := s.boot
  if s.clock.phase = 4 ∧ configSrc s = 0 then bootRead (imageAddr s) b.image.length (imageSize b.image) (.image b.image.length) s
  else if s.clock.phase = 5 then bootRead (fwAddr s) b.firmware.length (firmwareSize b.firmware) (.firmware b.firmware.length) s
  else s

/-- Requests that waited for the port. -/
def memRetry (s : State) : State := s.ops.foldl (fun s o => sizesIssue o.id (issuePartials o.id s)) (issueRecords s)

/-! ### Read data -/

/-- The sectors of the next beat of a read: bytes from the lane of its next address on. -/
def takeBeat (r : MemReq) (data : BitVec 1024) (poison : BitVec 4) : MemReq :=
  let lane := (r.addr + r.got.length) / 32 % 4
  let n := min (4 - lane) (r.sectors - r.got.length / 32)
  let bytes := leBytes (32 * n) (data.toNat >>> (256 * lane))
  { r with got := r.got ++ bytes, poisoned := r.poisoned || (List.range n).any fun k => poison.getLsbD (lane + k) }

def opProgress (id : OpId) (s : State) : State := modOp id (fun o => { o with progress := true }) s

def purposeOp : Purpose → Option OpId
  | .descFetch _ _ _ => none
  | .record _ _ => none
  | .partialWrite id _ _ _ => some id
  | .partialRead id _ _ _ _ => some id
  | .saveWrite id => some id
  | .restoreRead id _ => some id
  | .sizeTable id _ => some id
  | .image _ => none
  | .firmware _ => none

/-- Bytes placed into an area at an offset. -/
def putBytes (area : List Byte) (off : Nat) (b : List Byte) : List Byte :=
  sliceB area 0 off ++ b ++ area.drop (off + b.length)

/-- What a read brings, by its purpose. -/
def memDeliver (p : Purpose) (b : List Byte) (s : State) : State :=
  match p with
  | .descFetch q slot _ =>
    let v := queueAt q s
    if v.state == 0 then s else setQueue q { v with fetched := v.fetched ++ [⟨slot, (List.range 16).map fun i => word32At b (4 * i), none, 0⟩] } s
  | .partialRead id l pl page i =>
    perfLater pcPartRead 1 (modOp id (fun o =>
      { o with foldBuf := o.foldBuf ++ [(if l = dLedger o.d || !namesLedger (dOp o.d) then pl else pl + 8, page + (if namesLedger (dOp o.d) then 0 else l * 2 ^ 24), i, b)], spilled := true }) s)
  | .restoreRead id off =>
    modOp id (fun o => match o.save with
      | some v => { o with save := some { v with area := putBytes v.area off b, issued := v.issued - 1 } }
      | none => o) s
  | .sizeTable id _ =>
    sizesIssue id (modOp id (fun o => match o.leg with
      | some l => { o with leg := some { l with sizes := l.sizes ++ wordsOf b } }
      | none => o) s)
  | .image off => bootIssue { s with boot := { s.boot with image := putBytes s.boot.image off b } }
  | .firmware off => bootIssue { s with boot := { s.boot with firmware := putBytes s.boot.firmware off b } }
  | _ => s

def removeReq (r : MemReq) (s : State) : State := { s with mem := s.mem.filter fun x => !(x.write == r.write && x.id == r.id) }

/-- MEMPORT.TIMEOUT in units of 1/16 ns. -/
def memTimeoutUnits (s : State) : Nat := regNat rTIMEOUT s * unitsUs

/-- A request has waited for MEMPORT.TIMEOUT: it is in error, and its data or response is discarded from then on (R51). -/
def timedOut (r : MemReq) (s : State) : Bool := decide (r.issuedAt + memTimeoutUnits s ≤ s.clock.now)

/-- The code of a timeout. -/
def timeoutCode (write : Bool) : Nat := if write then 0x65 else 0x62

/-- The last beat or the response of a request that has timed out: it is discarded, its identifier is free, and the timeout takes its effect (R51, log 53). -/
def lateAnswer (r : MemReq) (s : State) : State := find_ (.memory r.purpose (timeoutCode r.write) r.id r.addr) (removeReq r s)

def memReadApply (id : BitVec 8) (data : BitVec 1024) (poison : BitVec 4) (err last : Bool) (s : State) : State :=
  if !alive s then s
  else match s.mem.find? fun r => !r.write && r.id == id.toNat with
    | none => if last then { s with memLate := s.memLate.filter fun r => r.write || r.id != id.toNat } else s
    | some r =>
      if timedOut r s then (if last then lateAnswer r s else s)
      else
        let r' := takeBeat r data poison
        let r' := { r' with err := r'.err || err }
        let s := match purposeOp r.purpose with | some o => opProgress o s | none => s
        if !last then { s with mem := s.mem.map fun x => if !x.write && x.id == r.id then r' else x }
        else
          let s := perfLater pcRdSectors r.sectors (removeReq r s)
          if r'.err then find_ (.memory r.purpose 0x60 r.id r.addr) s
          else if r'.poisoned then find_ (.memory r.purpose 0x61 r.id r.addr) s
          else memDeliver r.purpose r'.got s

/-! ### Write responses and timeouts -/

/-- A write has reached memory. -/
def writeDone (p : Purpose) (s : State) : State :=
  match p with
  | .record q slot =>
    let v := queueAt q s
    let v := { v with records := dropRecord slot v.records }
    setQueue q (if slot < v.head ∧ bitOf v.cfg 2 = true then v else advanceHead (queueSize v) { v with written := v.written.filter (· != slot) ++ [slot] }) s
  | .partialWrite id pl page _ => perfLater pcPartWritten 1 (modOp id (fun o => { o with partWritten := o.partWritten ++ [(pl, page)], spilled := true }) s)
  | .saveWrite id => modOp id (fun o => match o.save with
      | some v => { o with save := some { v with issued := v.issued - 1 } }
      | none => o) s
  | _ => s

/-- A write response, of record writes or of the others. -/
def writeResponse (records : Bool) (id : BitVec 8) (err : Bool) (s : State) : State :=
  if !alive s then s
  else match s.mem.find? fun r => r.write && r.id == id.toNat with
    | none => { s with memLate := s.memLate.filter fun r => !r.write || r.id != id.toNat }
    | some r =>
      let isRec := match r.purpose with | .record _ _ => true | _ => false
      if isRec != records then s
      else
        if timedOut r s then memRetry (lateAnswer r s)
        else
          let s := match purposeOp r.purpose with | some o => opProgress o s | none => s
          let s := removeReq r s
          memRetry (if err then find_ (.memory r.purpose 0x64 r.id r.addr) s else writeDone r.purpose s)

def memTimeoutApply (write : Bool) (id : BitVec 8) (s : State) : State :=
  if !alive s then s
  else match s.mem.find? fun r => r.write == write && r.id == id.toNat with
    | none => s
    | some r =>
      if !timedOut r s then s
      else
        let code := timeoutCode write
        let s := { removeReq r s with memLate := s.memLate ++ [r] }
        memRetry (memConsequence r.purpose code (noteErr code r.id r.addr s))

/-- Requests of a purpose are given up: their data, when it comes, is discarded. -/
def memForget (f : Purpose → Bool) (s : State) : State :=
  { s with mem := s.mem.filter (fun r => !f r.purpose), memLate := s.memLate ++ s.mem.filter fun r => f r.purpose }

end Sys2Proof.Machine
end

