-- ==== Sys2Proof/Machine/Output.lean ====
section
/-! DEFINITION. The shape of an operation's output: its format and extent, the beats of each unit of it, what is still to come, its planes, the bound on streaming operations (R266), and the chunks of R34 that have been presented in part (R34, R194, R196, R259, R287, R289, R353). -/

namespace Sys2Proof.Machine

/-- The output's format. -/
def outFmtOf (o : Op) : BitVec 4 := if isCopy (dOp o.d) then dOutFmt o.d else profOutFmt o.cop.profile

/-- Elements of one position's piece of an ALLGATHER leg. -/
def gatherN (o : Op) : Nat := o.members.length * dCount o.d

/-- Elements of the whole output round a ring. -/
def outTotal (o : Op) (l : Ledger) (g : Leg) : Nat := if isCopy (dOp o.d) then g.n * gatherN o else l.count

/-- Element range of a half of a piece (R118, R286). -/
def halfRange (o : Op) (l : Ledger) (g : Leg) (p : Nat) (rev : Bool) : Nat × Nat :=
  if isCopy (dOp o.d) then
    let m := gatherN o
    let u := perChunk (dOutFmt o.d)
    let mid := if g.twoWay then min m (ceilDiv (ceilDiv m u) 2 * u) else m
    if rev then (p * m + mid, (p + 1) * m) else (p * m, p * m + mid)
  else halfElems l.count g.n p g.twoWay rev

/-- The element range of this chip's egress: the whole ledger, or its piece. -/
def egSpan (o : Op) (l : Ledger) : Nat × Nat :=
  match o.leg with
  | none => (0, l.count)
  | some g => (min (32 * pieceLo l.count g.n g.pos) l.count, min (32 * pieceHi l.count g.n g.pos) l.count)

/-- The leg, if there is one, ends with an all-gather lap that carries the output (R278). -/
def gathers (o : Op) : Bool := o.leg.isSome && dOp o.d != oREDUCE_SCATTER

/-- First DN_OFFSET of a piece's patch stream. -/
def patchStart (count n p : Nat) : Nat := p * (1 + ceilDiv (9 * pieceB count n) 8)

/-- Where the patch stream of an operation's own piece starts. -/
def egStart (o : Op) (l : Ledger) : Nat := match o.leg with | some g => patchStart l.count g.n g.pos | none => 0

/-- The leg's output carries decided blocks. -/
def legDecided (o : Op) (l : Ledger) : Bool := isClosing (dOp o.d) && egDecides o.cop.profile (intPath l.fmt)
/-- The output's beats round a ring. -/
def ringBeats (o : Op) (l : Ledger) (g : Leg) : Nat := ceilDiv (outTotal o l g) (perBeat (outFmtOf o))

/-- The beats of one chunk of R34, [first, last): of a PRIMARY stream those of one piece, a beat of several pieces being the highest one's; of a DATA stream 4 KiB (R192). -/
def unitBeats (o : Op) (l : Ledger) (g : Leg) (u : Nat) : Nat × Nat :=
  let b := perBeat (outFmtOf o)
  let nb := ringBeats o l g
  if legDecided o l then
    let lo := (halfRange o l g u false).1
    let hi := max (halfRange o l g u false).2 (halfRange o l g u g.twoWay).2
    if hi ≤ lo then (0, 0) else (lo / b, if hi = outTotal o l g then nb else hi / b)
  else (min nb (64 * u), min nb (64 * u + 64))

/-- A piece's entries form one chunk of R34: the count of its entry beats that have gone to the crier stands under this number. -/
def entryUnit (p : Nat) : Nat := 2 ^ 24 + p
/-- The count header of a piece's patch stream is a chunk of its own. -/
def headerUnit (p : Nat) : Nat := 2 ^ 25 + p

/-- The ring position whose piece an operation's own egress converts. -/
def ownPos (o : Op) : Nat := match o.leg with | some g => g.pos | none => 0

/-- Elements of the local image. -/
def copyTotal (o : Op) : Nat := if dOp o.d == oBROADCAST then dCount o.d else gatherN o

/-- Entries of the result list (R130 to R134). -/
def selK (o : Op) : Nat := if dOp o.d == oTOPK then dTopk o.d else 1

/-- Pairs that the operation delivers. -/
def selN (o : Op) : Nat := if dOp o.d == oMAX then dCount o.d else selK o

/-- Size table entry j: SEND_OFF, SEND_CNT, RECV_OFF, RECV_CNT. -/
def a2aEntry (g : Leg) (j i : Nat) : Nat := (g.sizes.getD (4 * j + i) 0#32).toNat

/-- The position whose RECV range brings a beat of an ALLTOALL's output. -/
def a2aFrom (o : Op) (g : Leg) (n : Nat) : Option Nat :=
  let b := perBeat (dOutFmt o.d)
  (List.range g.n).find? fun j => decide (a2aEntry g j 2 / b ≤ n ∧ n < (a2aEntry g j 2 + a2aEntry g j 3) / b)

/-- The beats that the RECV ranges bring to an output chunk of an ALLTOALL, ascending. -/
def a2aUnit (o : Op) (g : Leg) (u : Nat) : List Nat := ((List.range 64).map fun i => 64 * u + i).filter fun n => (a2aFrom o g n).isSome

/-- The offsets of an output's beats, apart from its patch streams, that the crier is still to be given. -/
def comeBeats (o : Op) (s : State) : List Nat :=
  let l := ledgerAt (dLedger o.d) s
  let c := dOp o.d
  let b := perBeat (if isCopy c then dOutFmt o.d else outFmtOf o)
  let from' := fun lo hi => (List.range hi).filter fun n => decide (lo ≤ n)
  if o.eg.ended || !hasOutput c then []
  else if isSelect c then List.range (ceilDiv (selN o) 8)
  else match o.leg with
    | none =>
      if isClosing c then from' (max o.eg.next (egSpan o l).1 / b) (ceilDiv (egSpan o l).2 b)
      else (List.range (ceilDiv (copyTotal o) b)).filter fun n => tget 0 n o.summed != 1
    | some g =>
      if c == oALLTOALL then (List.range (ceilDiv (ceilDiv (gatherN o) b) 64)).flatMap fun u => (a2aUnit o g u).drop (tget 0 u g.beatsOut)
      else if gathers o then
        (List.range (if legDecided o l then g.n else ceilDiv (ringBeats o l g) 64)).flatMap fun u => from' ((unitBeats o l g u).1 + tget 0 u g.beatsOut) (unitBeats o l g u).2
      else from' (max o.eg.next (egSpan o l).1 / b) (ceilDiv (egSpan o l).2 b)

/-- The planes on which an operation's output appears, with the ledger that it closes (R259). -/
def outPlanesOf (o : Op) (l : Ledger) : List Nat :=
  let c := dOp o.d
  if isClosing c then planesOf l.planes ++ (planesOf o.planes).take 1
  else if isCopy c then planesOf o.planes
  else if isSelect c then (planesOf o.planes).take 1
  else []

def outPlanes (o : Op) (s : State) : List Nat := outPlanesOf o (ledgerAt (dLedger o.d) s)

/-! ### The bound of R266 -/

/-- An operation streams on a plane: an open up phase or an unfinished egress there. -/
def streamsOn (p : Nat) (s : State) (o : Op) : Bool :=
  o.upOpen.contains p || (o.fail.isNone && o.claim == .claimed && hasOutput (dOp o.d) && !o.eg.ended && (outPlanes o s).contains p)

/-- One more operation may stream on a plane: at most 64 do (R266). -/
def streamRoom (p : Nat) (s : State) : Bool := decide ((s.ops.filter (streamsOn p s)).length < 64)

/-- An operation whose claim would begin its output has room on the output's planes (R266). -/
def claimRoom (o : Op) (l : Ledger) (s : State) : Bool := !hasOutput (dOp o.d) || (outPlanesOf o l).all fun p => o.upOpen.contains p || streamRoom p s

/-! ### Chunks that have been presented in part (R34, R353) -/

/-- The first beat of the chunk of R34 that holds a beat of an output's main stream. -/
def chunkHead (o : Op) (l : Ledger) (n : Nat) : Nat :=
  if isClosing (dOp o.d) && egDecides o.cop.profile (intPath l.fmt) then
    match o.leg with
    | some g =>
      if gathers o then (((List.range g.n).map (unitBeats o l g)).find? fun r => decide (r.1 ≤ n ∧ n < r.2)).elim n fun r => r.1
      else max ((egSpan o l).1 / perBeat (outFmtOf o)) (n / (perChunk l.fmt / perBeat (outFmtOf o)) * (perChunk l.fmt / perBeat (outFmtOf o)))
    | none => n / (perChunk l.fmt / perBeat (outFmtOf o)) * (perChunk l.fmt / perBeat (outFmtOf o))
  else match dOp o.d == oALLTOALL, o.leg with
    | true, some g => (a2aUnit o g (n / 64)).headD n
    | _, _ => max (if isClosing (dOp o.d) && !gathers o then (egSpan o l).1 / perBeat (outFmtOf o) else 0) (n / 64 * 64)

/-- The number of a beat's chunk: of a sum's output the chunk's first beat, of any other the chunk's place in the output. -/
def chunkNo (o : Op) (l : Ledger) (n : Nat) : Nat := if isClosing (dOp o.d) then chunkHead o l n else n / 64

/-- A chunk of the main stream has been presented in part. -/
def mainInPart (o : Op) (s : State) : Bool :=
  let left := ((o.down.filter fun b => b.kind != kPATCH).map fun b => b.offset) ++ comeBeats o s
  left.any fun n => !left.contains (chunkHead o (ledgerAt (dLedger o.d) s) n)

/-- The entries of a patch stream have been presented in part: some have gone, and more are to come. -/
def entriesInPart (o : Op) (sent start stop : Nat) (more : Bool) : Bool :=
  let waiting := (o.down.filter fun b => b.kind == kPATCH && decide (start < b.offset ∧ b.offset < stop)).length
  decide (waiting < sent) && (more || decide (0 < waiting))

def patchInPart (o : Op) (s : State) : Bool :=
  let l := ledgerAt (dLedger o.d) s
  match o.leg with
  | some g =>
    if gathers o then (List.range g.n).any fun p =>
      entriesInPart o (tget 0 (entryUnit p) g.beatsOut) (patchStart l.count g.n p) (patchStart l.count g.n (p + 1)) (!g.delivered.contains p)
    else entriesInPart o o.eg.patchOut (egStart o l) (egStart o l + 2 ^ 24) (!o.eg.ended)
  | none => entriesInPart o o.eg.patchOut 0 (2 ^ 24) (!o.eg.ended)

/-- A down chunk of the operation has been presented in part. -/
def chunkInPart (o : Op) (s : State) : Bool := o.eg.shown && (mainInPart o s || patchInPart o s)

/-- An unsealed operation with a down chunk that is not yet compared: the comparison ends 40 cycles after the chunk's last beat (R353). -/
def uncompared (o : Op) (s : State) : Bool := o.fail.isNone && o.eg.shown && (decide (s.clock.fclk < o.eg.endedAt + 40) || chunkInPart o s)

/-- No beat of a chunk waits or is still to come. -/
def chunkOver (o : Op) (s : State) (c : Nat) : Bool :=
  !(o.down.any fun b => b.chunk == c)
    && if headerUnit 0 ≤ c then true
      else if entryUnit 0 ≤ c then o.eg.ended || (match o.leg with | some g => gathers o && g.delivered.contains (c - entryUnit 0) | none => false)
      else !((comeBeats o s).any fun n => chunkNo o (ledgerAt (dLedger o.d) s) n == c)

/-- A comparison of one of the operation's down chunks ends in the cycles [lo, hi): 40 cycles after the chunk's last beat (R348, R353). -/
def comparesIn (lo hi : Nat) (o : Op) (s : State) : Bool :=
  binoPaired s && o.eg.chunkOut.any fun x => decide (lo ≤ x.2.1 + 40 ∧ x.2.1 + 40 < hi) && chunkOver o s x.1

end Sys2Proof.Machine
end

