-- ==== Sys2Proof/Machine/Turn.lean ====
section
/-! DEFINITION. A command's turn in its transit: what is due before it, its place, and its holding over (R59, R215 to R217); and the commands of the meridian, the tally ports, bells and the memory port. -/

namespace Sys2Proof.Machine

/-- The answer of a command whose effect is a state. -/
abbrev Answer := Host.Outcome State Fault Refusal

/-! ### What is due in class 2 (R215, R217) -/

/-- A bad chunk of a leg that this chip does not run: the fault is this chip's, and the members are told (R288, R304). -/
def relayedBad (port tgroup : Nat) (seq : BitVec 16) (s : State) : State :=
  let s := logFault ⟨0x30, clsContained, source 2 port, none, none⟩ s
  (floodPorts (groupAt tgroup s) s).foldl (fun s p => queueFlit p 3 (ctlFlit (recallMsg tgroup seq 0x30#8)) s) s

/-- The first replay attempt of some flit enters as 0x20; its chain ends with the entry where the replay has ended already (R296, R338). -/
def retryEntry (port : Nat) (s : State) : State :=
  let s := logFault ⟨0x20, clsCorrectable, source 2 port, none, none⟩ s
  if (linkAt port s).replaying then s else closeSourceChain (source 2 port) s

/-- The idle side has passed its self-test and is paired again; its own condition ends (R338, R357). -/
def pairAgain (s : State) : State :=
  if 2 ≤ binoState s then irq pBINOCULAR 2 (closeSourceChain (source 8 0) (closeSourceChain (source 8 1) (setBinoState 1 s))) else s

/-- SERVING: side B drives the ports. -/
def servingB (s : State) : Bool := bitOf (reg rBINO_STATE s) 4

/-- The other side serves from here on; operations with uncompared chunks are struck by 0x83, and comparison stops (R356). -/
def moveService (toB : Bool) (s : State) : State :=
  let s := setReg rBINO_STATE ((reg rBINO_STATE s &&& 0x20#32) ||| (if toB then 0x13#32 else 0x02#32)) s
  s.ops.foldl (fun s o => withOp o.id (fun o s =>
    let s := setOp { o with comparing := false } s
    if uncompared o s then containedHit o.id 0x83#8 (source 8 (if toB then 1 else 0)) (!isSum (dOp o.d)) s else s) s) s

/-- A takeover from the side that served as it was asked for (R356). -/
def takeService (sideB : Bool) (s : State) : State :=
  if alive s && binoPaired s && servingB s == sideB then moveService (!sideB) s else s

/-- What a unit found takes effect. -/
def dueApply (d : Due) (s : State) : State :=
  match d with
  | .entry e => logFault e s
  | .retry p => retryEntry p s
  | .contained id c src again => containedHit id c src again s
  | .relayed p tg seq => relayedBad p tg seq s
  | .fatal id c src => opFatal id c src s
  | .failed id c _ => opFail id c s
  | .memory p c i a => memConsequence p c (noteErr c i a s)
  | .resynced => setMerState 2 s
  | .takeover b => takeService b s
  | .repaired => pairAgain s
  | .line n => if alive s then lineTurn n s else s

/-- One that is due, at its place. -/
def dueStep (s : State) (x : Place × Due) : State := dueApply x.2 { s with clock := { s.clock with reached := x.1 } }

/-- All that is due up to a place, or in the whole transit, takes effect in order. -/
def settle (p : Option Place) (s : State) : State :=
  let now := fun x : Place × Due => match p with | none => true | some p => placeLe x.1 p
  (s.clock.due.filter now).foldl dueStep { s with clock := { s.clock with due := s.clock.due.filter fun x => !now x } }

/-! ### Turns -/

/-- The input that a command samples: FENCE_IN, THROTTLE, or a board bell line (R59). -/
def inputOf (c : Instr) : Option Nat :=
  match c with
  | .fenceInChange _ => some 0
  | .throttleChange _ => some 1
  | .bellExtSenseChange n _ => some (2 + n)
  | _ => none

/-- The sample of this transit has been taken of the input that a command changes. -/
def sampledNow (c : Instr) (s : State) : Bool :=
  match inputOf c with
  | none => false
  | some k => s.clock.sampled.contains k

/-! ### Requests of a management port (R61) -/

/-- The management ports serve from phase 4 (R70, R359). -/
def mgmtServes (s : State) : Bool := s.clock.rstN && decide (4 ≤ s.clock.phase)

/-- The management port whose request a command is. -/
def requestOf (c : Instr) : Option Nat :=
  match agentOf c with
  | some (.mgmt p _) => some p
  | _ => none

/-- What a management port has accepted and not answered, oldest first. -/
def requestsAt (port : Nat) (s : State) : List MgmtReq := tget [] port s.owner.requests
def setRequests (port : Nat) (q : List MgmtReq) (s : State) : State := { s with owner := { s.owner with requests := tset [] port q s.owner.requests } }

/-- The port of a request has eight outstanding, and takes no further one. -/
def portFull (c : Instr) (s : State) : Bool :=
  match requestOf c with
  | none => false
  | some p => s.owner.answering.isNone && decide (8 ≤ (requestsAt p s).length)

/-- A port accepts a request whose turn comes later. -/
def acceptRequest (c : Instr) (s : State) : State :=
  match requestOf c with
  | none => s
  | some p => if mgmtServes s && s.owner.answering.isNone && decide ((requestsAt p s).length < 8) then setRequests p (requestsAt p s ++ [⟨some c, none⟩]) s else s

/-- The answers at the head of a port's requests leave, up to the first request that has none. -/
def flushAnswers (port : Nat) (s : State) : State :=
  let q := requestsAt port s
  let now := q.takeWhile fun r => r.answer.isSome
  let s := now.foldl (fun s r => match r.answer with | some a => present (.mgmtRsp port a.master a.rdata a.err) s | none => s) s
  setRequests port (q.drop now.length) s

/-- An access is answered: at once where no earlier request of its port is outstanding, else after those. -/
def answer (port master : Nat) (v : Word) (err : Bool) (s : State) : State :=
  let q := requestsAt port s
  if q.isEmpty then present (.mgmtRsp port master v err) s
  else
    let r : MgmtReq := ⟨none, some ⟨master, v, err⟩⟩
    let q := match s.owner.answering with | some i => q.set i r | none => q ++ [r]
    flushAnswers port (setRequests port q { s with owner := { s.owner with answering := none } })

/-- How often a command is held. -/
def heldTimes (c : Instr) (s : State) : Nat := (s.clock.held.filter fun x => x.2 == c).length

/-- A held command is carried out: its port answers it in its place. One that the port does not answer leaves its requests, unless it is held again. -/
def asRequest (c : Instr) (f : State → State) (s : State) : State :=
  match requestOf c with
  | none => f s
  | some p =>
    let n := heldTimes c s
    let s := f { s with owner := { s.owner with answering := (requestsAt p s).findIdx? fun r => r.access == some c } }
    match s.owner.answering with
    | none => s
    | some i =>
      let s := { s with owner := { s.owner with answering := none } }
      if n < heldTimes c s then s else flushAnswers p (setRequests p ((requestsAt p s).eraseIdx i) s)

/-! ### A command at its place -/

/-- The state in which a placed command's effect runs. -/
def takeTurn (c : Instr) (p : Place) (s : State) : State :=
  { s with clock := { s.clock with reached := p, sampled := s.clock.sampled ++ (inputOf c).toList } }

/-- A command whose place has passed waits for the next transit; of one input only the last level does (R59, R217), and a request waits at its port (R61). -/
def holdOver (c : Instr) (p : Place) (s : State) : State :=
  acceptRequest c { s with clock := { s.clock with held := holdInsert p c (s.clock.held.filter fun x => (inputOf c).isNone || inputOf x.2 != inputOf c) } }

/-- The command takes its turn now: its place has not passed, and its input or port takes it; in reset nothing waits for a later transit (R70). -/
def turnNow (c : Instr) (p : Place) (s : State) : Bool := !s.clock.rstN || placeLe s.clock.reached p && !sampledNow c s && !portFull c s

/-- A command's effect in its turn: after all that is due before it, at its place, or in the next transit where that has passed (R216, R217, log 3). -/
def inTransit (c : Instr) (f : State → State) (s : State) : State :=
  match placeOf c s with
  | none => f (settle none s)
  | some p =>
    let s := settle (some p) s
    if turnNow c p s then f (takeTurn c p s) else holdOver c p s

/-- The command applies now: its place has not passed, its input or port takes it, and nothing is due before it. -/
def applies (c : Instr) (s : State) : Bool :=
  match placeOf c s with
  | none => s.clock.due.isEmpty
  | some p => turnNow c p s && s.clock.due.all fun x => !placeLe x.1 p

/-- The state in which a command that applies now takes effect. -/
def atPlace (c : Instr) (s : State) : State :=
  match placeOf c s with
  | none => s
  | some p => takeTurn c p s

/-! ### Ports that the build may lack (log 11) -/

/-- A command of a stall's port: the build has the stall. -/
def onStall (stall : Nat) (c : Instr) (f : State → State) (s : State) : Answer :=
  if hasStall stall s then .next (inTransit c f s) else .fault .noSuchStallPort

def onLine (n : Nat) (c : Instr) (f : State → State) (s : State) : Answer :=
  if n < 16 then .next (inTransit c f s) else .fault .noSuchBellLine

def onPort (port : Nat) (c : Instr) (f : State → State) (s : State) : Answer :=
  if hasPort port s then .next (inTransit c f s) else .fault .noSuchRingPort

def onBoard (n : Nat) (c : Instr) (f : State → State) (s : State) : Answer :=
  if n < 4 then .next (inTransit c f s) else .fault .noSuchBellLine

/-- A level that has been stable for some FCLK edges passes the glitch filter only from GLITCH_CYCLES of them on (R219). -/
def filterPasses (edges : Nat) (s : State) : Bool := decide (regNat rGLITCH_CYCLES s ≤ edges)

/-! ### The commands -/

def execMerMarkPulse (width : Nat) (offset : Int) (s : State) : Answer :=
  .next (inTransit (.merMarkPulse width offset) (merMarkApply width offset) s)
def execTimecodeFrame (frame : Timecode) (s : State) : Answer := .next (inTransit (.timecodeFrame frame) (timecodeApply frame) s)
def execMeridianLock (s : State) : Answer := .next (inTransit .meridianLock lockApply s)
def execMarkMissing (s : State) : Answer := .next (inTransit .markMissing markMissingApply s)
def execRefLoss (s : State) : Answer := .next (inTransit .refLoss refLossApply s)
def execMerRefReturn (s : State) : Answer := .next (inTransit .merRefReturn refReturnApply s)
def execMeridianLost (s : State) : Answer := .next (inTransit .meridianLost lostApply s)
def execReacquire (edge : Int) (s : State) : Answer := .next (inTransit (.reacquire edge) (reacquireApply edge) s)
def execSlewComplete (s : State) : Answer := .next (inTransit .slewComplete slewCompleteApply s)
def execBellExtHigh (line : Nat) (s : State) : Answer := onBoard line (.bellExtHigh line) (bellExtHighApply line) s
def execBellExtLow (line : Nat) (s : State) : Answer := onBoard line (.bellExtLow line) (bellExtLowApply line) s
def execFenceHigh (s : State) : Answer := .next (inTransit .fenceHigh fenceHighApply s)
def execGlitchRemoved (glitch : Glitch) (s : State) : Answer :=
  .next (inTransit (.glitchRemoved glitch) (fun s => if filterPasses glitch.edges s then s else glitchApply s) s)
def execTimeFrameReceive (port : Nat) (reply : Option TimeReply) (stamp : Int) (s : State) : Answer :=
  onPort port (.timeFrameReceive port reply stamp) (timeFrameApply port reply stamp) s
def execBankSwap (s : State) : Answer := .next (inTransit .bankSwap bankSwapApply s)

def execTallyAdd (stall : Nat) (idx : BitVec 6) (arg : Word) (s : State) : Answer :=
  onStall stall (.tallyAdd stall idx arg) (tallyAddApply stall idx arg) s
def execTallySub (stall : Nat) (idx : BitVec 6) (arg : Word) (s : State) : Answer :=
  onStall stall (.tallySub stall idx arg) (tallySubApply stall idx arg) s
def execTallyWait (stall : Nat) (idx : BitVec 6) (arg : Word) (s : State) : Answer :=
  onStall stall (.tallyWait stall idx arg) (tallyWaitApply stall idx arg) s
def execTallyTake (stall : Nat) (idx : BitVec 6) (arg : Word) (s : State) : Answer :=
  onStall stall (.tallyTake stall idx arg) (tallyTakeApply stall idx arg) s
def execTallyRead (stall : Nat) (idx : BitVec 6) (s : State) : Answer :=
  onStall stall (.tallyRead stall idx) (tallyReadApply stall idx) s
def execTallyBadIndex (stall : Nat) (op : BitVec 3) (idx : BitVec 6) (s : State) : Answer :=
  onStall stall (.tallyBadIndex stall op idx) (tallyBadApply stall op idx) s
def execTallyRetest (stall : Nat) (s : State) : Answer := onStall stall (.tallyRetest stall) (tallyRetestApply stall) s
def execTlyCancel (stall : Nat) (s : State) : Answer := onStall stall (.tlyCancel stall) (tlyCancelApply stall) s
def execRemoteAddApply (port : Nat) (s : State) : Answer :=
  if hasPort port s then .next (inTransit (.remoteAddApply port) (remoteAddApplyAt port) s) else .fault .noSuchRingPort

def execBellOutChange (stall line : Nat) (level : Bool) (s : State) : Answer :=
  if line < 16 then onStall stall (.bellOutChange stall line level) (bellOutApply stall line level) s else .fault .noSuchBellLine
def execBellExtSenseChange (line : Nat) (level : Sampled Bool) (s : State) : Answer :=
  if filterPasses level.edges s then onBoard line (.bellExtSenseChange line level) (bellSenseApply line level.level) s
  else if line < 4 then .next s else .fault .noSuchBellLine
def execBellRing (line : Nat) (s : State) : Answer := onLine line (.bellRing line) (bellRingApply line) s
def execBoardHoldExpire (line : Nat) (s : State) : Answer := onLine line (.boardHoldExpire line) (boardHoldApply line) s
def execBellRearm (line : Nat) (s : State) : Answer := onLine line (.bellRearm line) (bellRearmApply line) s
def execBellMsgReceive (port _cyc : Nat) (s : State) : Answer :=
  onPort port (.bellMsgReceive port _cyc) (onCtl port 0x02#8 fun m s => bellMsgApply m.payload s) s
def execVerdictMsgReceive (port _cyc : Nat) (s : State) : Answer :=
  onPort port (.verdictMsgReceive port _cyc) (onCtl port 0x03#8 fun m s => verdictMsgApply m.payload s) s
def execVerdictRing (tgroup : Nat) (legSeq : BitVec 16) (s : State) : Answer :=
  .next (inTransit (.verdictRing tgroup legSeq) (verdictRingApply tgroup legSeq) s)
def execRemoteAddReceive (port _cyc : Nat) (s : State) : Answer :=
  onPort port (.remoteAddReceive port _cyc) (onCtl port 0x01#8 fun m s => remoteAddAccept port m s) s

def execMemReadData (id : BitVec 8) (data : BitVec 1024) (poison : BitVec 4) (err last : Bool) (_cyc : Nat) (s : State) : Answer :=
  .next (inTransit (.memReadData id data poison err last _cyc) (memReadApply id data poison err last) s)
def execMemWriteResponse (id : BitVec 8) (err : Bool) (s : State) : Answer :=
  .next (inTransit (.memWriteResponse id err) (writeResponse false id err) s)
def execCompletionRecordWrite (id : BitVec 8) (err : Bool) (s : State) : Answer :=
  .next (inTransit (.completionRecordWrite id err) (writeResponse true id err) s)
def execMemTimeout (write : Bool) (id : BitVec 8) (s : State) : Answer :=
  .next (inTransit (.memTimeout write id) (memTimeoutApply write id) s)

end Sys2Proof.Machine
end

