-- ==== Sys2Proof/Machine/Ledgers.lean ====
section
/-! DEFINITION. Ledger claims: the table of R151, the joint claim of a bias ledger (R171), the checks of the claim (R449), what a claim copies (R145, R148, R167, R190, R201), wait lists (R151, R154) and page grants (R164). -/

namespace Sys2Proof.Machine

/-- The four words of an egress profile (R440). -/
def profWords (i : Nat) (s : State) : List Word := (List.range 4).map fun w => tget 0#32 (4 * i + w) s.tabs.profiles

/-- The ledger as an opening descriptor fixes it (R145): count, placement, planes, SAT, dice keys; flags and contributions cleared. -/
def openedBy (o : Op) (waiting : List OpId) : Ledger :=
  { Ledger.free with state := 1, waiting := waiting, fmt := dInFmt o.d, planes := o.planes, sat := dSat o.d, count := dCount o.d, seed := dSeed o.d, pos := o.pos, outTscale := f32One }

/-- The attributes that the claim's checks see: the opening descriptor's, or the ledger's (R148). -/
def claimLedger (o : Op) (s : State) : Ledger :=
  let v := ledgerAt (dLedger o.d) s
  if dOp o.d = oLEDGER_OPEN ∨ isOneShot (dOp o.d) = true then openedBy o v.waiting else v

/-- The bias ledger that a closing sum uses (R170). -/
def biasLedger (o : Op) (s : State) : Option Nat :=
  if isClosing (dOp o.d) && profBiasKind (profWords (dProfile o.d) s) == 2 then some (dBias o.d) else none

/-- A SAVE that started earlier and has not ended: every ledger counts as held (R178). -/
def saveAhead (id : OpId) (s : State) : Bool :=
  (s.ops.takeWhile fun o => o.id != id).any fun o => dOp o.d == oSAVE && o.fail.isNone

/-- A ledger with accumulators. -/
def hasAttrs (v : Ledger) : Bool := v.state == 1 || v.state == 2
/-- A ledger whose attributes can be checked against, a FAULTED one among them (R143); one under an operation that does not sum has none, and no home planes. -/
def hasRecord (v : Ledger) : Bool := v.state != 0 && v.planes != 0

/-- The bias ledger fits the ledger that closes (R170). -/
def biasFits (l b : Ledger) : Bool := !intPath b.fmt && b.count == l.count && b.fmt == l.fmt && b.planes == l.planes

/-! ### The checks of the claim (R449) -/

/-- The egress parameters of a closing sum (R82, R95, R168 to R172, R174, R176, R440), those that depend on the ledger's attributes where it has a record. -/
def egressChecks (d : List Word) (l : Ledger) (p : List Word) : List Nat :=
  let fmt := profOutFmt p
  let kind := profBiasKind p
  let bf := profBiasFmt p
  let sigma := dOperand d
  let int := hasRecord l && intPath l.fmt
  let ident := sigmaPow2 sigma && kind == 0 && profAct p == 0 && !profRotate p
  check (fmtBad fmt) 0x40 ++
  check (fmtBad bf && bf != fmtE8M0) 0x40 ++
  check (profRound p == 3) 0x43 ++
  check (!f32Fin sigma || kind == 3 || (kind == 1 && (bf == fmtE8M0 || bf == fmtCP64)) || (profRotate p && (int || (hasRecord l && l.count % 32 != 0)))
    || (fmt == fmtCP64 && !ident) || (int && (!ident || sigma != f32One))) 0x55 ++
  check (!actOk (profAct p) (p.getD 1 0#32) (p.getD 2 0#32)) 0x57

/-- The contribution against the ledger (R84, R139, R146). -/
def contribChecks (o : Op) (l : Ledger) : List Nat :=
  let d := o.d
  let c := dOp d
  if c = oLEDGER_ADD ∨ c = oLEDGER_CLOSE then
    check (dCount d != 0 && intPath l.fmt != (dInFmt d == fmtI32)) 0x41 ++
    check (dCount d != 0 && dLimbs d != 1 && intPath l.fmt) 0x46 ++
    check (decide (l.count < dCount d)) 0x53
  else []

/-- The checks of the third stage beside the tables of R151 and R171. -/
def claimChecks (o : Op) (s : State) : List Nat :=
  let l := claimLedger o s
  (if hasRecord l then contribChecks o l else []) ++ (if isClosing (dOp o.d) then egressChecks o.d l (profWords (dProfile o.d) s) else [])

/-! ### What a claim does -/

/-- The outcome of the table of R151 for the operation's own ledger: a code, or waiting, or the claim. -/
inductive ClaimRes where
  | fails (code : Nat)
  | waits
  | claims
  deriving DecidableEq, Repr, Inhabited

/-- DESIGN CHOICE (log 57): a LEDGER_ADD or LEDGER_CLOSE that meets a FREE ledger behind a running SAVE fails at once, as it would after it; R178 has every ledger count as held, and R151 has no column for a FREE ledger that is held. -/
def claimTable (o : Op) (s : State) : ClaimRes :=
  let v := ledgerAt (dLedger o.d) s
  let user := dOp o.d == oLEDGER_ADD || dOp o.d == oLEDGER_CLOSE
  let held := v.holder.isSome || saveAhead o.id s
  if v.state = 0 then (if user then .fails 0x50 else if held then .waits else .claims)
  else if v.state = 1 then (if user then (if held then .waits else .claims) else .fails 0x51)
  else if v.state = 2 then .waits
  else .fails (if user then 0x50 else 0x51)

/-- The bias ledger breaks R170 (R171). DESIGN CHOICE (log 58): one that is CLOSING under an operation that does not sum has no attributes, so it breaks R170, and the close fails rather than waits. -/
def biasBad (o : Op) (s : State) : Bool :=
  match biasLedger o s with
  | none => false
  | some b =>
    let v := ledgerAt b s
    let l := claimLedger o s
    !hasAttrs v || b == dLedger o.d || (hasAttrs l && !biasFits l v)

/-- The bias ledger can be claimed now. -/
def biasFree (o : Op) (s : State) : Bool :=
  match biasLedger o s with
  | none => true
  | some b => let v := ledgerAt b s; v.state == 1 && v.holder.isNone && !saveAhead o.id s

/-- The ledgers on whose wait lists the operation stands (R151, R171). -/
def claimLists (o : Op) (s : State) : List Nat := dLedger o.d :: (biasLedger o s).toList

/-- It heads every list that it stands on. -/
def headsLists (o : Op) (s : State) : Bool :=
  (claimLists o s).all fun l => let w := (ledgerAt l s).waiting; w.head? == some o.id || !w.contains o.id

/-- Some list that it must join is not empty of others. -/
def listsBusy (o : Op) (s : State) : Bool := (claimLists o s).any fun l => !(ledgerAt l s).waiting.isEmpty

/-- Stand on the lists of the ledgers that the claim needs, and on no other: the profile may name another bias ledger than it did (R151, R171). -/
def joinLists (o : Op) (s : State) : State :=
  let ls := claimLists o s
  let s := s.ledgers.foldl (fun s x =>
    if x.2.waiting.contains o.id && !ls.contains x.1 then (let v := ledgerAt x.1 s; setLedger x.1 { v with waiting := v.waiting.filter (· != o.id) } s) else s) s
  let s := ls.foldl (fun s l =>
    let v := ledgerAt l s
    if v.waiting.contains o.id then s else setLedger l { v with waiting := v.waiting ++ [o.id] } s) s
  modOp o.id (fun o => { o with claim := .waiting }) s

/-- Wait for a ledger; EXCLUSIVE fails instead, by the lowest code of the stage (R151, R171, R449). -/
def claimWait (o : Op) (s : State) : State :=
  if dExcl o.d then opFail o.id (lowest (0x52 :: check (biasBad o s) 0x56 ++ claimChecks o s)) s else joinLists o s

/-- The copies that a closing sum takes (R167, R190, R201). -/
def takeCopies (o : Op) (s : State) : Copies :=
  { profile := profWords (dProfile o.d) s, thE2m1 := regNat rTH_E2M1 s, thE4m3 := regNat rTH_E4M3 s, policy := reg rPOLICY s, rot := rotActive s,
    predA := predA (dAlmanac o.d) s, predU := predU (dAlmanac o.d) s }

/-- The record's ALMANAC field (R201). -/
def almanacRef (e : Nat) (a u : Int) : Word := BitVec.ofNat 32 (e + 2 ^ 10 + (a % 256).toNat * 2 ^ 16 + (u % 256).toNat * 2 ^ 24)

/-- N of the leg that needs a region (R164, R284). -/
def regionN (o : Op) : Nat := if isClosing (dOp o.d) then (match o.leg with | some l => l.n | none => 1) else 1

/-- Pages that a contribution asks: elements and limb streams. -/
def contribN (o : Op) : Nat := if isSum (dOp o.d) && hasContrib o.d then dCount o.d else 0

/-- The ledger as the claim leaves it, before its pages: opened where the operation opens it (R144, R145, R148, R160). -/
def claimedLedger (o : Op) (s : State) : Ledger :=
  let c := dOp o.d
  let v := ledgerAt (dLedger o.d) s
  if c = oLEDGER_OPEN ∨ isOneShot c = true then openPages (openedBy o v.waiting) s
  else if c = oLEDGER_ADD ∨ c = oLEDGER_CLOSE then v
  else { Ledger.free with waiting := v.waiting, outTscale := f32One }

/-- State and holder after the claim (R144, R152). -/
def claimedState (o : Op) (l : Ledger) : Ledger :=
  let c := dOp o.d
  if c = oLEDGER_OPEN then { l with state := 1, holder := none }
  else { l with state := if c = oLEDGER_ADD then 1 else 2, holder := some o.id }

/-- The claim takes effect: the pages have been granted. -/
def claimNow (o : Op) (l : Ledger) (s : State) : State :=
  let n := dLedger o.d
  let spec := isClosing (dOp o.d) && dSpec o.d && !intPath l.fmt
  let cop := if isClosing (dOp o.d) then takeCopies o s else o.cop
  let l' := claimedState o { l with waiting := l.waiting.filter (· != o.id), almanac := if spec then almanacRef (dAlmanac o.d) cop.predA cop.predU else l.almanac }
  let s := leaveLists o.id (setLedger n l' s)
  let s := match biasLedger o s with
    | none => s
    | some b => let v := ledgerAt b s; setLedger b { v with holder := some o.id } s
  let eg := { o.eg with spec := spec, a := if spec then cop.predA else 0, u := if spec then cop.predU else 0 }
  pageWaitEnd o.id (setOp { o with claim := .claimed, cop := cop, firstContrib := l.contribs == 0, blocks0 := l.blocks, addAt := s.clock.fclk, eg := eg, progress := true } s)

/-- The claim attempt (R151, R164, R171, R449); for pages an EXCLUSIVE operation waits too. DESIGN CHOICE (log 69): an output that would be the 65th on a plane waits at the claim, where the operation has started before the bound was reached (R266). -/
def claimTry (id : OpId) (s : State) : State :=
  withRunning id (fun o s =>
    if !namesLedger (dOp o.d) || o.claim == .claimed || o.claim == .none then s
    else if o.claim == .starting && listsBusy o s then claimWait o s
    else if o.claim == .waiting && !headsLists o s then s
    else
      let res := claimTable o s
      let bad := check (biasBad o s) 0x56
      match res, bad with
      | .fails c, _ => opFail id (lowest (c :: bad ++ claimChecks o s)) s
      | r, _ :: _ => opFail id (lowest (check (r == .waits && dExcl o.d) 0x52 ++ bad ++ claimChecks o s)) s
      | .waits, [] => claimWait o s
      | .claims, [] =>
        if !biasFree o s then claimWait o s
        else
          let codes := claimChecks o s
          if lowest codes ≠ 0 then opFail id (lowest codes) s
          else
            let l := claimedLedger o s
            if !claimRoom o l s then joinLists o s
            else
              let s' := setLedger (dLedger o.d) { l with state := if hasAttrs l then l.state else 2 } s
              match takePages o l (contribN o) (limbsOf o.d) (regionN o) (match o.leg with | some g => g.twoWay | none => false) s' with
              | some (o', s'') => claimNow o' l s''
              | none =>
                let needs := pageNeeds l (contribN o) (limbsOf o.d) (regionN o) (match o.leg with | some g => g.twoWay | none => false)
                pageWaitBegin id needs (joinLists o s)) s

/-- After a claim that waits with EXCLUSIVE the operation has failed: it waits for no page. -/
def tidyWait (id : OpId) (s : State) : State :=
  withOp id (fun o s => if o.fail.isSome then pageWaitEnd id s else s) s

/-- The claim attempt of a starting operation (R150). -/
def ledgerClaimApply (id : OpId) (s : State) : State :=
  withRunning id (fun o s => if o.claim == .starting && !o.sizesPending then tidyWait id (claimTry id s) else s) s

/-- The head of a wait list attempts, then those behind it, until one holds the ledger or waits (R154). -/
def serveList : Nat → Nat → State → State
  | 0, _, s => s
  | f + 1, l, s =>
    match (ledgerAt l s).waiting with
    | [] => s
    | id :: _ =>
      let s' := tidyWait id (claimTry id s)
      if (ledgerAt l s').waiting.head? == some id || (ledgerAt l s').holder.isSome then s' else serveList f l s'

def waitListApply (l : BitVec 12) (s : State) : State :=
  if !alive s then s else serveList ((ledgerAt l.toNat s).waiting.length) l.toNat s

/-- A waiting request is tried again for its pages (R164, R165). -/
def pageGrantApply (id : OpId) (s : State) : State :=
  withRunning id (fun o s => if o.claim == .waiting && s.pageWait.any (fun x => x.1 == id) then tidyWait id (claimTry id s) else s) s

/-! ### The commands -/

def execLedgerClaim (op : OpId) (s : State) : Answer := .next (inTransit (.ledgerClaim op) (ledgerClaimApply op) s)
def execWaitListClaim (ledger : BitVec 12) (s : State) : Answer := .next (inTransit (.waitListClaim ledger) (waitListApply ledger) s)
def execPageGrant (op : OpId) (s : State) : Answer := .next (inTransit (.pageGrant op) (pageGrantApply op) s)

end Sys2Proof.Machine
end

