-- ==== Sys2Proof/Machine/Contribution.lean ====
section
/-! DEFINITION. Contributions: up phases (R251), beats on the up ports with their checks and attempts (R27 to R31, R341, R342), tree sums (R116, R117), limb combinations (R139), accumulation in place, into shadow or into partial pages (R159, R161), and the folding of partial pages (R163). -/

namespace Sys2Proof.Machine

/-! ### Up phases (R251) -/

def sharesStall (o x : Op) : Bool := o.members.any x.members.contains

/-- The operation holds the plane: an open up phase, or a mask group's hold until its last output beat. -/
def holdsPlane (o : Op) (p : Nat) : Bool := o.upOpen.contains p || o.upHold.contains p

/-- An operation that holds the plane keeps another's up phase closed. -/
def upConflict (o x : Op) (p : Nat) : Bool :=
  (x.upOpen.contains p && sharesStall o x) || ((o.maskGroup || x.maskGroup) && holdsPlane x p)

def prioOf (o : Op) (s : State) : Nat := fieldOf (queueAt o.id.queue s).cfg 5 2

/-- The up phase on a plane waits. -/
def upWaits (o : Op) (p : Nat) : Bool :=
  hasContrib o.d && namesLedger (dOp o.d) && o.fail.isNone && (planesOf o.planes).contains p && !o.upOpen.contains p && !o.upDone.contains p

/-- Operations that wait ahead of the named one: a more urgent class, or the same class and an earlier start. -/
def upAhead (o : Op) (s : State) : List Op :=
  s.ops.filter (fun x => decide (prioOf x s < prioOf o s)) ++
    (s.ops.takeWhile fun x => x.id != o.id).filter fun x => prioOf x s == prioOf o s

/-- The up phase may open now. -/
def upMayOpen (o : Op) (p : Nat) (s : State) : Bool :=
  upWaits o p && !(s.ops.any fun x => x.id != o.id && upConflict o x p)
    && !((upAhead o s).any fun x => upWaits x p && (sharesStall o x || o.maskGroup || x.maskGroup))

/-! ### Beats on the up ports -/

/-- UP_READY apart from up phases and discarding: out of reset, the plane on, not FENCED, a duty-on cycle (R31, R384). -/
def upOn (p t : Nat) (s : State) : Bool :=
  serving s && planePower p s == 0 && !s.clock.fenced && dutyNext p t s == t

/-- Key of an accepted beat. -/
def beatKey (stall chunk beat : Nat) : Nat := (stall * 2 ^ 24 + chunk) * 64 + beat

/-- The beat's number in its chunk. -/
def beatNo (v : TileProg) (chunk : Nat) : Nat := if v.chunk == some chunk then v.beat else 0

/-- A beat that breaks R20 or R30: the wrong plane, a chunk that the contribution lacks or that is complete, another chunk left unfinished, UP_LAST in the wrong place. -/
def beatBad (o : Op) (v : TileProg) (p chunk : Nat) (last : Bool) : Bool :=
  maskPlane o.planes chunk != p || decide (upChunks o.d ≤ chunk) || v.done.contains chunk || (v.chunk.isSome && v.chunk != some chunk)
    || last != (beatNo v chunk + 1 == chunkBeats o.d chunk)

/-- The member's progress after a good beat: an attempt is complete when every chunk of the plane has been presented once (R342). -/
def progNext (o : Op) (v : TileProg) (p chunk : Nat) (last : Bool) : TileProg :=
  let v := if v.attempt == v.want then { v with asked := false } else v
  if !last then { v with chunk := some chunk, beat := beatNo v chunk + 1 }
  else
    let done := v.done ++ [chunk]
    if (planeChunks o p).all done.contains then { v with attempt := v.attempt + 1, chunk := none, beat := 0, done := [] }
    else { v with chunk := none, beat := 0, done := done }

/-- The operation whose up phase is open on the plane for this tag and stall. -/
def upOpFor (stall p tag : Nat) (s : State) : Option Op :=
  s.ops.find? fun o => runs o && namesLedger (dOp o.d) && dLedger o.d == tag && o.members.contains stall && o.upOpen.contains p

/-- The stall has presented the whole requested attempt: what follows on the tag belongs to a later operation (R252). -/
def upTakes (o : Op) (stall p : Nat) : Bool :=
  o.claim == .claimed && (!(contributors o).contains stall || !progDone (progAt o stall p))

/-- What follows the attempt is no beat of a later operation: none has started for the tag and the stall, and the chunk's plane is another one (R20, R252). -/
def astray (o : Op) (stall p chunk : Nat) (s : State) : Bool :=
  o.claim == .claimed && maskPlane o.planes chunk != p
    && !(s.ops.any fun x => x.id != o.id && runs x && namesLedger (dOp x.d) && dLedger x.d == dLedger o.d && x.members.contains stall && upWaits x p)

/-- A beat that the stall accepts. -/
def countUp (stall p : Nat) (s : State) : State :=
  let st := stallAt stall s
  setStall stall { st with upBeats := st.upBeats + 1, upValid := st.upValid &&& ~~~(BitVec.ofNat 8 (2 ^ p)) } s

def countDiscarded (stall : Nat) (s : State) : State :=
  let st := stallAt stall s
  setStall stall { st with discarded := satAdd st.discarded 1 } s

/-- The tile holds its beat: UP_VALID high, UP_READY low (R27). -/
def upHeld (stall p : Nat) (s : State) : State :=
  let st := stallAt stall s
  setStall stall { st with upValid := st.upValid ||| BitVec.ofNat 8 (2 ^ p) } s

/-- The failed operation whose beats the stall discards on the plane (R257). -/
def dropFor (stall p tag : Nat) (s : State) : Option (Nat × Nat × Nat) :=
  (stallAt stall s).dropTags.find? fun x => x.1 == tag && x.2.1.testBit p

/-- The stall discards the beat; with the last beat of the chunk that holds element COUNT - 1 the discarding ends. -/
def dropBeat (stall p tag chunk : Nat) (last : Bool) (x : Nat × Nat × Nat) (s : State) : State :=
  let s := countDiscarded stall (countUp stall p s)
  if last && x.2.2 == chunk then
    let st := stallAt stall s
    setStall stall { st with dropTags := st.dropTags.filter fun y => y.1 != tag } s
  else s

/-- A beat breaks the operation: it fails in class 2 of the next transit (R20, R30, R215). -/
def beatFails (o : Op) (s : State) : State := find_ (.failed o.id 0x5A queueSource) s

/-- The beat enters the operation. -/
def takeUpBeat (o : Op) (stall p chunk : Nat) (last : Bool) (data : BitVec 512) (scale : BitVec 32) (s : State) : State :=
  let s := countUp stall p s
  let v := progAt o stall p
  if !(contributors o).contains stall || beatBad o v p chunk last then beatFails o s
  else
    let o' := setProg { o with progress := true } stall p (progNext o v p chunk last)
    if v.attempt < v.want then countDiscarded stall (setOp o' s)
    else setOp { o' with beats := tset none (beatKey stall chunk (beatNo v chunk)) (some ⟨data, scale⟩) o'.beats } s

def upBeatApply (stall p tag chunk : Nat) (last : Bool) (data : BitVec 512) (scale : BitVec 32) (cyc : Nat) (s : State) : State :=
  if !upOn p (stamp cyc s) s then upHeld stall p s
  else match dropFor stall p tag s with
    | some x => dropBeat stall p tag chunk last x s
    | none =>
      match upOpFor stall p tag s with
      | none => upHeld stall p s
      | some o =>
        if upTakes o stall p then takeUpBeat o stall p chunk last data scale s
        else if astray o stall p chunk s then beatFails o (countUp stall p s)
        else upHeld stall p s

/-! ### Tree sums -/

/-- First element of a beat within its limb stream, and the number of elements. -/
def beatBase (d : List Word) (chunk beat : Nat) : Nat := chunkInStream d chunk * perChunk (dInFmt d) + beat * perBeat (dInFmt d)
def beatElems (d : List Word) (chunk beat : Nat) : Nat := min (perBeat (dInFmt d)) (dCount d - beatBase d chunk beat)

def beatOfOp (o : Op) (stall chunk beat : Nat) : Option Beat := tget none (beatKey stall chunk beat) o.beats

/-- The node of the operation's sum (R117, R122, R123, R126). -/
def sumMode (o : Op) (l : Ledger) : NodeMode := if intPath l.fmt then .int else if dComp o.d then .comp else .plain

/-- Leaf of a member for element i of a beat. -/
def leafOf (o : Op) (l : Ledger) (chunk beat i stall : Nat) : Word64 × Flags :=
  let d := o.d
  match beatOfOp o stall chunk beat with
  | none => (0#64, fNone)
  | some b => leafValue (dInFmt d) (dInSigned d) (sumMode o l) (tscaleExp (dInTscale d)) (dSat d) (beatScale b.scale (i / 32)) (beatElem (dInFmt d) b.data i)

/-- Height and first stall of the tree: the aligned group's, or the whole tree for a mask group (R116). -/
def treeSpan (o : Op) (s : State) : Nat × Nat :=
  if o.maskGroup then (s.build.log2Leaves, 0) else (Nat.log2 (max 1 o.members.length), o.members.headD 0)

/-- The tree sum of one element with its leaf and node flags. -/
def treeSumOf (o : Op) (l : Ledger) (chunk beat i : Nat) (s : State) : Word64 × Flags :=
  let leaves := o.members.map fun n => (n, leafOf o l chunk beat i n)
  let leaf := fun n => ((leaves.find? fun x => x.1 == n).map fun x => x.2.1)
  let r := treeSum (sumMode o l) leaf (treeSpan o s).1 (treeSpan o s).2
  (r.1, r.2 ||| flagsUnion (leaves.map fun x => x.2.2))

/-- Every contributor's beat has come. -/
def beatComplete (o : Op) (chunk beat : Nat) : Bool :=
  decide (chunk < upChunks o.d ∧ beat < chunkBeats o.d chunk) && (contributors o).all fun n => (beatOfOp o n chunk beat).isSome

/-- Limb sums by element and limb. -/
def limbKey (e j : Nat) : Nat := e * 4 + j

/-- The combination of an element's limb sums once all have come (R139). -/
def combineLimbs (o : Op) (int : Bool) (e : Nat) : Option (Word64 × Flags) :=
  match (List.range (limbsOf o.d)).mapM fun j => tget none (limbKey e j) o.limbs with
  | none => none
  | some [] => none
  | some (x :: xs) => some (xs.foldl (fun (acc : Word64 × Flags) w => let r := accAdd int acc.1 w; (r.1, acc.2 ||| r.2)) (x, fNone))

/-- The page of an element gets a partial page from this contribution (R161). -/
def toPartial (o : Op) (l : Ledger) (e : Nat) : Bool :=
  let p := homePlane l.fmt l.planes e
  let g := pageOf l.fmt l.planes e
  o.poolPages.any fun x => x.1 == p && x.2.1 == g

/-- A contribution's value of an element reaches its home: added to the accumulator, or kept for the partial page (R117, R159, R161). -/
def addElem (e : Nat) (l : Ledger) (x : Op × State) (c : Word64 × Flags) : Op × State :=
  let (o, s) := x
  let p := homePlane l.fmt l.planes e
  let r := if toPartial o l e then (c.1, fNone) else accAdd (intPath l.fmt) (tget 0#64 e l.acc) c.1
  let f := c.2 ||| r.2
  ({ o with fresh := tset none e (some r.1) o.fresh, freshFlags := o.freshFlags ||| f }, raisePlane p f s)

/-- One element's limb sum arrives: it waits in staging, or completes the contribution of its element. -/
def sumElem (l : Ledger) (chunk beat : Nat) (x : Op × State) (i : Nat) : Op × State :=
  let (o, s) := x
  let e := beatBase o.d chunk beat + i
  let (v, f) := treeSumOf o l chunk beat i s
  let s := raisePlane (maskPlane o.planes chunk) f s
  let o := { o with limbs := tset none (limbKey e (chunkLimb o.d chunk)) (some v) o.limbs, freshFlags := o.freshFlags ||| f }
  match combineLimbs o (intPath l.fmt) e with
  | none => (o, s)
  | some c =>
    let o := { o with limbs := (List.range (limbsOf o.d)).foldl (fun t j => tset none (limbKey e j) none t) o.limbs }
    addElem e l (o, s) c

/-- Every tree sum of the contribution has been added. -/
def allSummed (o : Op) : Bool :=
  (List.range (upChunks o.d)).all fun c => (List.range (chunkBeats o.d c)).all fun b => tget 0 (c * 64 + b) o.summed == 1

/-! ### Turns in the tree and at the exchange (R14, R445) -/

/-- A beat of a sum that waits in the tree: complete, and not yet through the exchange. -/
def beatWaits (o : Op) (chunk beat : Nat) : Bool := tget 0 (chunk * 64 + beat) o.summed != 1 && beatComplete o chunk beat

/-- The beats of a sum that wait on a plane. -/
def sumWaits (o : Op) (p : Nat) : List (Nat × Nat) :=
  if !isSum (dOp o.d) || o.claim != .claimed then []
  else (planeChunks o p).flatMap fun c => ((List.range (chunkBeats o.d c)).filter (beatWaits o c)).map fun b => (c, b)

/-- The number under which a beat of a selection or of a copy is noted as passed: each member's beats of a copy pass by themselves. -/
def passKey (o : Op) (stall chunk beat : Nat) : Nat := if isCopy (dOp o.d) then beatKey stall chunk beat else chunk * 64 + beat
def beatPassed (o : Op) (stall chunk beat : Nat) : Bool := tget 0 (passKey o stall chunk beat) o.passed == 1

/-- The beats of a selection that wait on a plane, complete; and those of a member of a copy, as they have come. -/
def selectWaits (o : Op) (p : Nat) : List (Nat × Nat) :=
  (planeChunks o p).flatMap fun c => ((List.range (chunkBeats o.d c)).filter fun b => !beatPassed o 0 c b && beatComplete o c b).map fun b => (c, b)
def copyWaits (o : Op) (p stall : Nat) : List (Nat × Nat) :=
  (planeChunks o p).flatMap fun c => ((List.range (chunkBeats o.d c)).filter fun b => !beatPassed o stall c b && (beatOfOp o stall c b).isSome).map fun b => (c, b)

/-- An operation with a beat in the tree: the height and first stall of its subtree, or, in a copy, of the member whose beat it is. -/
structure InTree where
  id : OpId
  height : Nat
  first : Nat
  deriving DecidableEq, Repr, Inhabited

/-- The subtree in which an operation's nodes combine its members' beats. -/
def ownTree (o : Op) (s : State) : InTree := ⟨o.id, (treeSpan o s).1, (treeSpan o s).2⟩

/-- Where an operation's beats wait on a plane: at the root of its subtree where its nodes combine them, and for each member of a copy at the member's own port (R14, R445, log 65). -/
def treeBeats (o : Op) (p : Nat) (s : State) : List InTree :=
  let c := dOp o.d
  if o.claim != .claimed then []
  else if isCopy c then ((contributors o).filter fun n => !(copyWaits o p n).isEmpty).map fun n => ⟨o.id, 0, n⟩
  else if (if isSum c then sumWaits o p else selectWaits o p).isEmpty then [] else [ownTree o s]

/-- The beats that wait on a plane, in the order of their operations' starts. -/
def inTree (p : Nat) (s : State) : List InTree := (s.ops.filter runs).flatMap fun o => treeBeats o p s

/-- A weigh-house of height h stands on children of this height: radix 4, but radix 2 at the top where the height is odd (R12). -/
def childHeight (h : Nat) : Nat := if h % 2 = 1 then h - 1 else h - 2
def houseRadix (h : Nat) : Nat := 2 ^ (h - childHeight h)
def childOf (h first : Nat) : Nat := first / 2 ^ childHeight h % houseRadix h
def houseKey (h base : Nat) : Nat := h * 2048 + base

/-- The beat that the weigh-houses from one of height h down let through: at the root of its subtree the earliest; above it the first child that holds a beat, after the one served last (R14). -/
def treePick (turns : Table Nat) : Nat → Nat → Nat → List InTree → Option InTree
  | 0, _, _, ws => ws.head?
  | f + 1, h, base, ws =>
    match ws.find? fun w => decide (h ≤ w.height) with
    | some w => some w
    | none =>
      let from' := tget 0 (houseKey h base) turns
      match ((List.range (houseRadix h)).map fun i => (from' + i) % houseRadix h).find? fun c => ws.any fun w => childOf h w.first == c with
      | none => none
      | some c => treePick turns f (childHeight h) (base + c * 2 ^ childHeight h) (ws.filter fun w => childOf h w.first == c)

/-- The weigh-houses above a subtree that has been served turn to the next child. -/
def treeServed (w : InTree) : Nat → Nat → Table Nat → Table Nat
  | 0, _, t => t
  | f + 1, h, t =>
    if h ≤ w.height then t
    else treeServed w f (childHeight h) (tset 0 (houseKey h (w.first / 2 ^ h * 2 ^ h)) ((childOf h w.first + 1) % houseRadix h) t)

/-- The beat that the exchange of a plane takes in a cycle, where the plane is enabled and the cycle is free (R14, R384). -/
def exchPick (p t : Nat) (s : State) : Option InTree :=
  let v := planeAt p s
  if decide (v.exchNext ≤ t) && dutyNext p t s == t then treePick v.nextChild s.build.log2Leaves s.build.log2Leaves 0 (inTree p s) else none

/-- It is an operation's turn (R14). -/
def exchTakes (id : OpId) (p t : Nat) (s : State) : Bool := (exchPick p t s).any fun w => w.id == id

/-- The tree has served a beat, which takes a number of cycles of the exchange. -/
def exchServe (w : InTree) (p t n : Nat) (s : State) : State :=
  let v := planeAt p s
  setPlane p { v with exchNext := t + n, nextChild := treeServed w s.build.log2Leaves s.build.log2Leaves v.nextChild } s

/-- Cycles of a beat of n elements at the exchange: a carry edge in compensated mode holds 64 pairs (R18). -/
def exchCycles (m : NodeMode) (n : Nat) : Nat := if m == .comp then max 1 (ceilDiv n 64) else 1

/-- A beat of a selection or of a copy passes the exchange of a plane, where it is its turn (R14, R15, R445). -/
def passBeat (id : OpId) (t : Nat) (s : State) (p : Nat) : State :=
  withOp id (fun o s =>
    if (treeBeats o p s).isEmpty then s
    else match exchPick p t s with
      | none => s
      | some w =>
        let c := isCopy (dOp o.d)
        match w.id == id, if c then copyWaits o p w.first else selectWaits o p with
        | true, x :: _ =>
          let o' := { o with passed := tset 0 (passKey o w.first x.1 x.2) 1 o.passed, progress := true }
          exchServe w p t 1 (perfLater pcExchBeats 1 (setOp o' s))
        | _, _ => s) s

/-- On each plane of an operation one beat that waits may pass in a cycle. -/
def passBeats (id : OpId) (t : Nat) (s : State) : State := withOp id (fun o s => (planesOf o.planes).foldl (passBeat id t) s) s

/-- A beat's tree sums reach the exchange in a cycle, and the ledger (R14, R117, R159). -/
def treeSumApply (id : OpId) (chunk beat cyc : Nat) (s : State) : State :=
  withRunning id (fun o s =>
    let p := maskPlane o.planes chunk
    if !serving s || !isSum (dOp o.d) || o.claim != .claimed || !beatWaits o chunk beat || !exchTakes id p (stamp cyc s) s then s
    else
      let l := ledgerAt (dLedger o.d) s
      let s := exchServe (ownTree o s) p (stamp cyc s) (exchCycles (sumMode o l) (beatElems o.d chunk beat)) s
      let (o', s) := (List.range (beatElems o.d chunk beat)).foldl (sumElem l chunk beat) (o, s)
      let beats := o.members.foldl (fun t n => tset none (beatKey n chunk beat) none t) o'.beats
      let o' := { o' with summed := tset 0 (chunk * 64 + beat) 1 o'.summed, beats := beats, addAt := max o'.addAt (stamp cyc s), progress := true }
      issuePartials id (perfLater pcExchBeats 1 (setOp { o' with added := allSummed o' } s))) s

/-- The contribution is complete: added, and its partial pages in memory; an operation without contribution has none to wait for. -/
def contribDone (o : Op) : Bool := !hasContrib o.d || (o.added && partialsDone o)

/-! ### Folding partial pages (R163) -/

/-- Pages of a ledger that have partial pages, with the pool page numbers: those of earlier contributions, then this one's. -/
def foldPages (o : Op) (l : Ledger) : List (Nat × Nat × List Nat) :=
  (allPages l.fmt l.planes l.count).filterMap fun x =>
    let mine := (o.poolPages.filter fun y => y.1 == x.1 && y.2.1 == x.2).map fun y => y.2.2
    let ps := (pageSt l x.1 x.2).pool ++ mine
    if ps.isEmpty && !(pageSt l x.1 x.2).spilled then none else some (x.1, x.2, ps)

/-- The reads of partial pages that a fold of a ledger asks; `off` is 0, or 8 for the bias ledger. -/
def foldReads (o : Op) (n : Nat) (l : Ledger) : List (Purpose × Nat) :=
  (foldPages o l).flatMap fun x => x.2.2.zipIdx.map fun y => (.partialRead o.id n x.1 x.2.1 y.2, y.1)

/-- The contents that a partial read brought. -/
def foldGot (o : Op) (p page i : Nat) : Option (List Byte) :=
  (o.foldBuf.find? fun x => x.1 == p && x.2.1 == page && x.2.2.1 == i).map fun x => x.2.2.2

def foldHave (o : Op) (off : Nat) : Purpose → Bool
  | .partialRead _ _ p page i => (foldGot o (p + off) page i).isSome
  | _ => false

/-- The bias ledger that the operation holds. -/
def heldBias (o : Op) (s : State) : Option (Nat × Ledger) :=
  if isClosing (dOp o.d) && profBiasKind o.cop.profile == 2 then some (dBias o.d, ledgerAt (dBias o.d) s) else none

/-- A ledger as the fold sees it: no partial pages of the operation for the bias ledger. -/
def noPool (o : Op) : Op := { o with poolPages := [] }

/-- The fold's reads that are still to come: (purpose, plane, pool page). -/
def foldMissing (o : Op) (s : State) : List (Purpose × Nat × Nat) :=
  let own := (foldReads o (dLedger o.d) (ledgerAt (dLedger o.d) s)).filter fun x => !foldHave o 0 x.1
  let bias := match heldBias o s with
    | none => []
    | some (n, l) => (foldReads (noPool o) n l).filter fun x => !foldHave o 8 x.1
  (own ++ bias).map fun x => (x.1, (match x.1 with | .partialRead _ _ p _ _ => p | _ => 0), x.2)

/-- Issue the reads of the fold that are not outstanding. -/
def foldIssue (id : OpId) (s : State) : State :=
  withRunning id (fun o s => (foldMissing o s).foldl (fun s x =>
    if memHas x.1 s then s else memTry false false (poolAddr x.2.1 x.2.2 s) 128 hDROP x.1 [] s) s) s

/-- Fold one element from the page in the counting house, or (+0, +0) for a spilled page. -/
def foldElem (o : Op) (off : Nat) (l : Ledger) (start : Word64) (p page i : Nat) (ps : List Nat) : Word64 × Flags :=
  let int := intPath l.fmt
  (List.range ps.length).foldl (fun (acc : Word64 × Flags) j =>
    let b := (foldGot o (p + off) page j).getD []
    let r := accAdd int acc.1 (BitVec.ofNat 64 (leNat (sliceB b (8 * i) 8)))
    (r.1, acc.2 ||| r.2)) (start, fNone)

/-- Keys of folded values: the ledger's elements, then the bias ledger's. -/
def foldKey (off e : Nat) : Nat := off * 2 ^ 28 + e

/-- Fold every page of a ledger that needs it: 0, or 8 for the bias ledger, which is read only and keeps its flags (R110, R170). -/
def foldLedger (off : Nat) (l : Ledger) (x : Op × State) : Op × State :=
  let src := if off = 0 then x.1 else noPool x.1
  (foldPages src l).foldl (fun x g =>
    (pageElems l l.count g.1 g.2.1).foldl (fun x e =>
      let (o, s) := x
      let start := if (pageSt l g.1 g.2.1).spilled then 0#64 else tget 0#64 e.2 l.acc
      let (w, f) := foldElem o off l start g.1 g.2.1 e.1 g.2.2
      let s := raisePlane g.1 f s
      let o := { o with folded := tset 0#64 (foldKey off e.2) w o.folded }
      (if off = 0 then { o with freshFlags := o.freshFlags ||| f } else o, s)) x) x

/-- Phase 2 of a close: where every partial page has been read, the pages are folded; otherwise reads are issued (R163). -/
def foldStep (id : OpId) (s : State) : State :=
  withRunning id (fun o s =>
    if o.foldDone then s
    else if !(foldMissing o s).isEmpty then foldIssue id s
    else
      let (o, s) := foldLedger 0 (ledgerAt (dLedger o.d) s) (o, s)
      let (o, s) := match heldBias o s with
        | none => (o, s)
        | some (_, l) => foldLedger 8 l (o, s)
      setOp { o with foldDone := true, foldBuf := [] } s) s

/-- The value that an egress reads for an element: folded where the page is spilled or in partial mode, else this contribution's accumulator, else the ledger's. -/
def elemVal (o : Op) (l : Ledger) (e : Nat) : Word64 :=
  let p := homePlane l.fmt l.planes e
  let g := pageOf l.fmt l.planes e
  let st := pageSt l p g
  if st.spilled || !st.pool.isEmpty || toPartial o l e then tget 0#64 (foldKey 0 e) o.folded
  else (tget none e o.fresh).getD (tget 0#64 e l.acc)

/-- The bias value of an element (R170). -/
def biasVal (o : Op) (s : State) (e : Nat) : Word64 :=
  match heldBias o s with
  | none => 0#64
  | some (_, l) =>
    let st := pageSt l (homePlane l.fmt l.planes e) (pageOf l.fmt l.planes e)
    if st.spilled || !st.pool.isEmpty then tget 0#64 (foldKey 8 e) o.folded else tget 0#64 e l.acc

/-! ### The commands -/

def execUpBeat (stall plane : Nat) (tag : BitVec 12) (chunk : BitVec 24) (last : Bool) (data : BitVec 512) (scale : BitVec 32) (cyc : Nat) (s : State) : Answer :=
  if !hasStall stall s || !hasPlane plane s then .fault .noSuchStallPort
  else .next (inTransit (.upBeat stall plane tag chunk last data scale cyc) (upBeatApply stall plane tag.toNat chunk.toNat last data scale cyc) s)
def execTreeSumArrive (op : OpId) (chunk beat cyc : Nat) (s : State) : Answer :=
  .next (inTransit (.treeSumArrive op chunk beat cyc) (treeSumApply op chunk beat cyc) s)
end Sys2Proof.Machine
end

