-- ==== Sys2Proof/Machine/Egress.lean ====
section
/-! DEFINITION. The egress of a sum: its span, groups, streams and receivers (R147, R166, R183, R191 to R196, R258, R259), the images and statistics that it hands to a ring leg (R286, R289), delivery of pieces from a ring, and the almanac comparison, the recall and the re-emission (R204 to R207, R341, R347). -/

namespace Sys2Proof.Machine

/-! ### Geometry of an output -/

def halfKey (p : Nat) (rev : Bool) : Nat := p * 2 + dirNat rev

/-! ### What the egress reads -/

/-- A fold must run before the egress. -/
def needsFold (o : Op) (s : State) : Bool :=
  !(foldPages o (ledgerAt (dLedger o.d) s)).isEmpty ||
    match heldBias o s with
    | none => false
    | some (_, l) => !(foldPages (noPool o) l).isEmpty

/-- A one-shot sum without SPECULATE streams behind its input (R259). -/
def streams (o : Op) (s : State) : Bool := isOneShot (dOp o.d) && !o.eg.spec && o.leg.isNone && !needsFold o s

/-- Phases 1 and 2 of R147 are complete. -/
def localDone (o : Op) : Bool := contribDone o && o.foldDone

/-- Elements below this one are ready for the egress. -/
def egReady (o : Op) (l : Ledger) (s : State) : Nat :=
  match o.leg with
  | some g => if g.reduced || ((egSpan o l).2 ≤ (egSpan o l).1 && localDone o) then (egSpan o l).2 else 0
  | none =>
    if streams o s then ((List.range l.count).takeWhile fun e => (tget none e o.fresh).isSome).length
    else if localDone o then l.count else 0

/-- The accumulator value that the egress sees: the reduced piece's where there is a leg. -/
def egVal (o : Op) (l : Ledger) (e : Nat) : Word64 :=
  match o.leg with
  | some g => tget 0#64 e g.region
  | none => elemVal o l e

/-! ### Beats -/

/-- Element codes of beat n within [lo, hi), packed as R28 gives; other positions are 0. -/
def packBeat (f : BitVec 4) (code : Nat → Nat) (lo hi n : Nat) : BitVec 512 :=
  BitVec.ofNat 512 ((List.range (perBeat f)).foldl (fun acc i =>
    let e := n * perBeat f + i
    if lo ≤ e ∧ e < hi then acc + (code e % 2 ^ fmtWidth f) <<< (fmtWidth f * i) else acc) 0)

/-- Scale codes of beat n for the blocks that begin within [lo, hi) (R19). -/
def packScale (f : BitVec 4) (scale : Nat → Nat) (lo hi n : Nat) : BitVec 32 :=
  if !fmtScaled f then 0#32
  else BitVec.ofNat 32 ((List.range (perBeat f / 32)).foldl (fun acc i =>
    let j := n * (perBeat f / 32) + i
    if lo ≤ 32 * j ∧ 32 * j < hi then acc + (scale j % 256) <<< (8 * i) else acc) 0)

/-- Ranks whose piece of the scattered range holds an element of the beat (R258). -/
def scatterTo (o : Op) (lo hi b0 b1 : Nat) : List Nat :=
  o.members.zipIdx.filterMap fun x =>
    let h := halfElems (hi - lo) o.members.length x.2 false false
    if h.1 < h.2 && decide (lo + h.1 < b1 ∧ b0 < lo + h.2) then some x.1 else none

/-- Receivers of a PRIMARY or DATA beat of a sum. -/
def sumTo (o : Op) (l : Ledger) (n : Nat) : List Nat :=
  if dOp o.d == oREDUCE_SCATTER then
    let sp := egSpan o l
    let b := perBeat (outFmtOf o)
    scatterTo o sp.1 sp.2 (n * b) ((n + 1) * b)
  else receivers o

/-- The plane of an output beat of a sum: its placement chunk's home (R259). -/
def sumPlane (o : Op) (l : Ledger) (n : Nat) : Nat := homePlane l.fmt l.planes (n * perBeat (outFmtOf o))

/-- Blocks as converted, by block number. -/
abbrev Blocks := List (Nat × BlockOut)

def blockAt (bs : Blocks) (j : Nat) : BlockOut := ((bs.find? fun x => x.1 == j).map Prod.snd).getD ⟨0, [], [], 0#64, 0⟩
def blockCode (bs : Blocks) (e : Nat) : Nat := (blockAt bs (e / 32)).elems.getD (e % 32) 0

/-- The beats [n0, n1) of converted blocks. -/
def sumBeats (o : Op) (l : Ledger) (bs : Blocks) (lo hi n0 n1 : Nat) (kind : Nat) : List DnBeat :=
  ((List.range n1).filter fun n => decide (n0 ≤ n)).map fun n =>
    ⟨sumPlane o l n, n, kind, packBeat (outFmtOf o) (blockCode bs) lo hi n, packScale (outFmtOf o) (fun j => (blockAt bs j).scale) lo hi n, sumTo o l n, chunkNo o l n, 0, 0⟩

/-! ### The patch stream (R193, R194) -/

/-- The count header of the piece that an egress has converted. -/
def countHeader (o : Op) (l : Ledger) : List Byte :=
  let e := o.eg
  let n := match o.leg with | some g => g.n | none => 1
  let p := ownPos o
  let first := pieceLo l.count n p
  leBytes 4 first ++ leBytes 4 (pieceHi l.count n p - first) ++ leBytes 4 e.nOutlier ++ leBytes 4 e.nForm2 ++ leBytes 4 e.nForm3 ++ leBytes 4 e.patch.length
    ++ [BitVec.ofInt 8 e.a, BitVec.ofInt 8 e.u, BitVec.ofNat 8 (boolNat e.rotated + 2 * boolNat (e.spec && e.trueAU.isNone)), 0#8]
    ++ leBytes 2 (dLedger o.d) ++ List.replicate 34 0#8

/-- A beat of a patch stream, of a chunk of R34 (R193, R196). -/
def patchBeat (o : Op) (chunk off : Nat) (data : List Byte) : DnBeat :=
  ⟨(planesOf o.planes).headD 0, off, kPATCH, beatOf data, 0#32, if dOp o.d == oREDUCE_SCATTER then o.members else receivers o, chunk, 0, 0⟩

/-- The entry beats of a piece from one on, as far as the entries known fill them; with `whole` those are all, and the last beat is padded (R193, R196). -/
def entryBeats (o : Op) (p start sent : Nat) (entries : List Byte) (whole : Bool) : List DnBeat :=
  let n := if whole then ceilDiv entries.length 64 else entries.length / 64
  ((List.range n).filter fun i => decide (sent ≤ i)).map fun i => patchBeat o (entryUnit p) (start + 1 + i) (sliceB entries (64 * i) 64)

/-- The statistics image of a piece (R289). -/
def statsImage (m : Measures) (n1 n2 n3 : Nat) (header : List Byte) : List Byte :=
  leBytes 80 m.s ++ leBytes 4 m.amax.toNat ++ [BitVec.ofNat 8 (boolNat m.nfInf + 2 * boolNat m.nfNan), 0#8, 0#8, 0#8] ++ leBytes 4 n1 ++ leBytes 4 n2 ++ leBytes 4 n3
    ++ List.replicate 28 0#8 ++ header

def measuresOf (img : List Byte) : Measures :=
  let b := img.getD 84 0#8
  ⟨leNat (sliceB img 0 80), word32At img 80, b.getLsbD 0, b.getLsbD 1⟩

/-! ### Conversion of one group of blocks (R166, R182 to R189) -/

/-- Elements of a group: whole blocks and whole beats. -/
def groupElems (f : BitVec 4) : Nat := max 32 (perBeat f)

/-- One block: its conversion, flags, measures, counts, entries and block word. -/
def convertBlock (l : Ledger) (c : EgCtx) (hi : Nat) (x : Op × State × Blocks) (j : Nat) : Op × State × Blocks :=
  let (o, s, bs) := x
  let es := (List.range (min hi (32 * j + 32) - 32 * j)).map fun i => 32 * j + i
  let ws := es.map (egVal o l)
  let (b, f) := egressBlock c j ws (es.map (biasVal o s))
  let e := o.eg
  let m := if c.int then e.meas else ws.foldl (fun m w => measuresAdd m (measureOf w c.sigma)) e.meas
  let nOut := if b.form = 1 then bitsAt b.word.toNat 28 2 else 0
  let eg := { e with meas := m, flags := e.flags ||| f, rotated := c.rot, patch := e.patch ++ b.patch, nOutlier := e.nOutlier + nOut, nDecided := e.nDecided + boolNat c.decided, nForm1 := e.nForm1 + boolNat (b.form == 1), nForm2 := e.nForm2 + boolNat (b.form == 2), nForm3 := e.nForm3 + boolNat (b.form == 3) }
  let s := raisePlane (homePlane l.fmt l.planes (32 * j)) f s
  let s := if c.decided then (let v := ledgerAt (dLedger o.d) s; setLedger (dLedger o.d) { v with blocks := tset 0#64 j b.word v.blocks } s) else s
  ({ o with eg := eg }, s, bs ++ [(j, b)])

/-- The factors of this egress: the true ones where they are known (R207). -/
def useTrue (o : Op) : Op :=
  match o.eg.trueAU with
  | some (a, u) => { o with eg := { o.eg with a := a, u := u } }
  | none => o

/-- The measures are complete: this egress has converted its last element (R204). -/
def egConverted (o : Op) (l : Ledger) : Bool := decide ((egSpan o l).2 ≤ o.eg.next)

/-- Convert the ready groups; without a gathering leg each group's beats are presented (R259). -/
def egressGroups : Nat → OpId → Nat → State × Blocks → State × Blocks
  | 0, _, _, x => x
  | f + 1, id, t, (s, acc) =>
    match opAt id s with
    | none => (s, acc)
    | some o =>
      let l := ledgerAt (dLedger o.d) s
      let sp := egSpan o l
      let o := if o.eg.next ≤ sp.1 then useTrue o else o
      let G := groupElems (outFmtOf o)
      let at' := max o.eg.next sp.1
      let stop := min sp.2 ((at' / G + 1) * G)
      if sp.2 ≤ at' ∨ egReady o l s < stop then (s, acc)
      else
        let c := egCtx o l
        let js := (List.range (ceilDiv (stop - at') 32)).map fun i => at' / 32 + i
        let (o, s, bs) := js.foldl (convertBlock l c sp.2) (o, s, [])
        let b := perBeat (outFmtOf o)
        let entries := if c.decided && !gathers o then entryBeats o (ownPos o) (egStart o l) o.eg.patchOut o.eg.patch false else []
        let s := setOp { o with eg := { o.eg with next := stop, measAt := t, patchOut := o.eg.patchOut + entries.length }, progress := true } s
        let s := if gathers o then s
          else queueBeats id (t + stageWait s) (sumBeats o l bs sp.1 sp.2 (at' / b) (ceilDiv stop b) (if c.decided then kPRIMARY else kDATA) ++ entries) s
        egressGroups f id t (s, if gathers o then acc ++ bs else [])

/-! ### Images of a piece (R286) -/

/-- Payload bytes of a half. -/
def payloadBytes (f : BitVec 4) (decided : Bool) (lo hi : Nat) : Nat :=
  if decided then 16 * ceilDiv (hi - lo) 32 else ceilDiv ((hi - lo) * fmtWidth f) 8

/-- Element codes [lo, hi) packed into bytes. -/
def packBytes (f : BitVec 4) (bytes : Nat) (code : Nat → Nat) (lo hi : Nat) : List Byte :=
  leBytes bytes ((List.range (hi - lo)).foldl (fun acc i => acc + (code (lo + i) % 2 ^ fmtWidth f) <<< (fmtWidth f * i)) 0)

/-- Image of a half from converted blocks: payload, scale codes, patch entries. -/
def halfImage (f : BitVec 4) (decided : Bool) (bs : Blocks) (lo hi : Nat) : List Byte :=
  let js := (List.range (ceilDiv (hi - lo) 32)).map fun i => lo / 32 + i
  packBytes f (payloadBytes f decided lo hi) (blockCode bs) lo hi
    ++ (if fmtScaled f then js.map fun j => BitVec.ofNat 8 (blockAt bs j).scale else [])
    ++ (if decided then js.flatMap fun j => (blockAt bs j).patch else [])

def imgCode (f : BitVec 4) (img : List Byte) (i : Nat) : Nat :=
  let w := fmtWidth f
  if w = 4 then ((img.getD (i / 2) 0#8).toNat >>> (4 * (i % 2))) % 16 else leNat (sliceB img (i * (w / 8)) (w / 8))

/-! ### Delivery of pieces round a ring (R34, R192, R286) -/

/-- The leg's pieces come with statistics (R289). -/
def legStats (o : Op) (l : Ledger) : Bool := isClosing (dOp o.d) && !intPath l.fmt

/-- The piece and half that hold an output element. -/
def halfOf (o : Op) (l : Ledger) (g : Leg) (e : Nat) : Nat × Bool :=
  let p := if isCopy (dOp o.d) then e / max 1 (gatherN o) else e / 32 / max 1 (pieceB l.count g.n)
  (p, decide ((halfRange o l g p false).2 ≤ e))

def halfImg (g : Leg) (k : Nat) : List Byte := tget [] k g.images

/-- Key under which a half, or a piece of an ALLTOALL, that is still arriving is gathered. -/
def partKey (k : Nat) : Nat := 65536 + k

/-- The images are nothing but elements: their beats go on as they arrive, chunk by chunk. -/
def plainOut (o : Op) (l : Ledger) : Bool := !isSelect (dOp o.d) && !legDecided o l && !fmtScaled (outFmtOf o)

/-- The half's image has arrived whole, or the half is empty. -/
def halfHere (o : Op) (l : Ledger) (g : Leg) (p : Nat) (rev : Bool) : Bool :=
  let r := halfRange o l g p rev
  let img := halfImg g (halfKey p rev)
  decide (r.2 ≤ r.1) || (!img.isEmpty && (!plainOut o l || decide (payloadBytes (outFmtOf o) false r.1 r.2 ≤ img.length)))

/-- An output element has arrived. -/
def elemHere (o : Op) (l : Ledger) (g : Leg) (e : Nat) : Bool :=
  let (p, rev) := halfOf o l g e
  if plainOut o l then decide (payloadBytes (outFmtOf o) false (halfRange o l g p rev).1 (e + 1) ≤ (halfImg g (halfKey p rev)).length) else halfHere o l g p rev

/-- Code of an output element from the images. -/
def ringCode (o : Op) (l : Ledger) (g : Leg) (e : Nat) : Nat :=
  let (p, rev) := halfOf o l g e
  imgCode (outFmtOf o) (halfImg g (halfKey p rev)) (e - (halfRange o l g p rev).1)

/-- Scale code of an output block from the images. -/
def ringScale (o : Op) (l : Ledger) (g : Leg) (j : Nat) : Nat :=
  let (p, rev) := halfOf o l g (32 * j)
  let r := halfRange o l g p rev
  ((halfImg g (halfKey p rev)).getD (payloadBytes (outFmtOf o) (legDecided o l) r.1 r.2 + (j - r.1 / 32)) 0#8).toNat

/-- The chunks of R34 that have beats with elements of a half. -/
def unitsOf (o : Op) (l : Ledger) (g : Leg) (p : Nat) (rev : Bool) : List Nat :=
  let r := halfRange o l g p rev
  let b := perBeat (outFmtOf o)
  if r.2 ≤ r.1 then []
  else if legDecided o l then (List.range g.n).filter fun u => decide (p ≤ u ∧ (unitBeats o l g u).1 < ceilDiv r.2 b ∧ r.1 / b < (unitBeats o l g u).2)
  else (List.range (ceilDiv (ceilDiv r.2 b) 64)).filter fun u => decide (r.1 / b / 64 ≤ u)

/-- Every element of a beat has arrived. -/
def beatHere (o : Op) (l : Ledger) (g : Leg) (n : Nat) : Bool :=
  let b := perBeat (outFmtOf o)
  (List.range (min (outTotal o l g) ((n + 1) * b) - n * b)).all fun i => elemHere o l g (n * b + i)

/-- A beat of the output from the images. -/
def ringBeat (o : Op) (l : Ledger) (g : Leg) (n : Nat) : DnBeat :=
  let f := outFmtOf o
  let b := perBeat f
  let tot := outTotal o l g
  ⟨if isCopy (dOp o.d) then maskPlane o.planes (n * b / perChunk f) else sumPlane o l n, n, if legDecided o l then kPRIMARY else kDATA,
    packBeat f (ringCode o l g) 0 tot n, packScale f (ringScale o l g) 0 tot n, receivers o, chunkNo o l n, 0, 0⟩

/-- The beats of a chunk that can go to the crier now, in ascending offset, each once (R34, R192). -/
def unitReady (o : Op) (l : Ledger) (g : Leg) (u : Nat) : List Nat :=
  let r := unitBeats o l g u
  ((List.range r.2).filter fun n => decide (r.1 + tget 0 u g.beatsOut ≤ n)).takeWhile (beatHere o l g)

/-- The crier takes what a chunk has ready. -/
def unitRun (id : OpId) (t : Nat) (s : State) (u : Nat) : State :=
  withOp id (fun o s =>
    match o.leg with
    | none => s
    | some g =>
      let l := ledgerAt (dLedger o.d) s
      let ns := unitReady o l g u
      let s := setOp { o with leg := some { g with beatsOut := tset 0 u (tget 0 u g.beatsOut + ns.length) g.beatsOut } } s
      queueBeats id t (ns.map (ringBeat o l g)) s) s

/-- Patch entries of a half's image. -/
def halfPatch (o : Op) (l : Ledger) (g : Leg) (p : Nat) (rev : Bool) : List Byte :=
  let r := halfRange o l g p rev
  (halfImg g (halfKey p rev)).drop (17 * ceilDiv (r.2 - r.1) 32)

/-- Every half of a piece has arrived. -/
def halvesHere (o : Op) (l : Ledger) (g : Leg) (p : Nat) : Bool := (legDirs g).all (halfHere o l g p)

def pieceHere (o : Op) (l : Ledger) (g : Leg) (p : Nat) : Bool :=
  halvesHere o l g p && (!legStats o l || !(tget [] p g.stats).isEmpty)

/-- The entries of a piece that are known, from its first on: the forward half's, then the reverse half's. -/
def knownEntries (o : Op) (l : Ledger) (g : Leg) (p : Nat) : List Byte :=
  if !halfHere o l g p false then []
  else halfPatch o l g p false ++ if g.twoWay && halfHere o l g p true then halfPatch o l g p true else []

/-- The crier takes the entry beats of a piece that are complete (R196). -/
def entryRun (id : OpId) (p t : Nat) (s : State) : State :=
  withOp id (fun o s =>
    match o.leg with
    | none => s
    | some g =>
      let l := ledgerAt (dLedger o.d) s
      if !legDecided o l then s
      else
        let sent := tget 0 (entryUnit p) g.beatsOut
        let bs := entryBeats o p (patchStart l.count g.n p) sent (knownEntries o l g p) (halvesHere o l g p)
        queueBeats id t bs (setOp { o with leg := some { g with beatsOut := tset 0 (entryUnit p) (sent + bs.length) g.beatsOut } } s)) s

/-- The output is recalled, or about to be: what comes now is not presented. -/
def egHeld (o : Op) : Bool := o.eg.recallDue || o.eg.reEmit

/-- A complete piece is noted; the header of its patch stream comes from its statistics chunk. With the last piece the output ends. -/
def finishPiece (id : OpId) (p t : Nat) (s : State) : State :=
  withOp id (fun o s =>
    match o.leg with
    | none => s
    | some g =>
      let l := ledgerAt (dLedger o.d) s
      if g.delivered.contains p || !pieceHere o l g p then s
      else
        let g' := { g with delivered := g.delivered ++ [p] }
        let s := setOp { o with leg := some g', eg := { o.eg with ended := decide (g.n ≤ g'.delivered.length) } } s
        if legDecided o l then queueBeats id t [patchBeat o (headerUnit p) (patchStart l.count g.n p) (sliceB (tget [] p g.stats) 128 64)] s
        else s) s

/-- A half's image is in, or what has come of one that goes on as it arrives: the crier takes the beats that it completes. -/
def deliverHalf (id : OpId) (p : Nat) (rev : Bool) (img : List Byte) (t : Nat) (s : State) : State :=
  withOp id (fun o s =>
    match o.leg with
    | none => s
    | some g =>
      let l := ledgerAt (dLedger o.d) s
      let g' := { g with images := tset [] (halfKey p rev) img g.images }
      let s := setOp { o with leg := some g' } s
      finishPiece id p t (entryRun id p t ((unitsOf o l g' p rev).foldl (unitRun id t) s))) s

/-- A piece's statistics are in; with the last ones the measures are complete (R204). -/
def deliverStats (id : OpId) (p : Nat) (img : List Byte) (t : Nat) (s : State) : State :=
  withOp id (fun o s =>
    match o.leg with
    | none => s
    | some g =>
      let s := setOp { o with leg := some { g with stats := tset [] p img g.stats }, eg := { o.eg with measAt := max o.eg.measAt t } } s
      if dOp o.d == oREDUCE_SCATTER then s else finishPiece id p t s) s

/-- Halves of this chip's piece, given to the leg. -/
def ownHalves (id : OpId) (t : Nat) (image : Bool → List Byte) (s : State) : State :=
  withOp id (fun o s =>
    match o.leg with
    | none => s
    | some g => (legDirs g).foldl (fun s rev => if halfHere o (ledgerAt (dLedger o.d) s) g g.pos rev then s else deliverHalf id g.pos rev (image rev) t s) s) s

/-! ### The egress runs -/

/-- The crier takes the rest of a patch stream that is not gathered, and the output ends (R196). -/
def endOutput (id : OpId) (t : Nat) (decided : Bool) (s : State) : State :=
  withOp id (fun o s =>
    let l := ledgerAt (dLedger o.d) s
    let s := setOp { o with eg := { o.eg with ended := true } } s
    if decided then queueBeats id t (entryBeats o (ownPos o) (egStart o l) o.eg.patchOut o.eg.patch true ++ [patchBeat o (headerUnit (ownPos o)) (egStart o l) (countHeader o l)]) s else s) s

/-- The end of the conversion: the end of the patch stream, or the leg's images and statistics. -/
def egressEnd (id : OpId) (t : Nat) (bs : Blocks) (s : State) : State :=
  withOp id (fun o s =>
    let l := ledgerAt (dLedger o.d) s
    let c := egCtx o l
    let sp := egSpan o l
    match o.leg with
    | none => endOutput id (t + stageWait s) c.decided s
    | some g =>
      let st := statsImage o.eg.meas o.eg.nForm1 o.eg.nForm2 o.eg.nForm3 (if c.decided then countHeader o l else List.replicate 64 0#8)
      let s := if c.int then s else deliverStats id g.pos st t s
      if gathers o then
        finishPiece id g.pos t (ownHalves id t (fun rev => let r := halfRange o l g g.pos rev; halfImage c.fmt c.decided bs (max sp.1 r.1) r.2) s)
      else endOutput id (t + stageWait s) c.decided s) s

/-- An empty piece is converted at once; the rotation is the ledger's, not the piece's (R208). -/
def fillEmpty (t : Nat) (o : Op) (l : Ledger) (s : State) : State :=
  let sp := egSpan o l
  if sp.2 ≤ sp.1 ∧ sp.2 ≤ egReady o l s then setOp { useTrue o with eg := { (useTrue o).eg with next := sp.2, measAt := t, rotated := (egCtx (useTrue o) l).rot } } s else s

/-- The egress goes as far as its accumulators allow. -/
def egressRun (id : OpId) (t : Nat) (s : State) : State :=
  withRunning id (fun o s =>
    let l := ledgerAt (dLedger o.d) s
    if !serving s || !isClosing (dOp o.d) || o.claim != .claimed || egHeld o || egConverted o l then s
    else
      let (s, bs) := egressGroups (l.count / 32 + 2) id t (fillEmpty t o l s, [])
      withOp id (fun o s => if egConverted o (ledgerAt (dLedger o.d) s) then egressEnd id t bs s else s) s) s

/-- Phases 2 and 4 of R147 where their time has come. -/
def egressApply (id : OpId) (cyc : Nat) (s : State) : State :=
  let s := withRunning id (fun o s => if isClosing (dOp o.d) && o.claim == .claimed && contribDone o && !o.foldDone then foldStep id s else s) s
  egressRun id (stamp cyc s) s

/-- A sum goes as far as one cycle allows: on each of its planes one beat that waits may go through the exchange; then folding and egress. -/
def sumWork (id : OpId) (cyc : Nat) (s : State) : State :=
  let s := withRunning id (fun o s => (planesOf o.planes).foldl (fun s p =>
    match sumWaits o p with
    | [] => s
    | x :: _ => treeSumApply id x.1 x.2 cyc s) s) s
  egressApply id cyc s

/-- The row of an operation acts on operations of its code only. -/
def ofOp (code : Nat) (id : OpId) (f : State → State) (s : State) : State :=
  withRunning id (fun o s => if dOp o.d == code then f s else s) s

/-! ### The almanac comparison, the recall and the re-emission -/

/-- The measures over the whole ledger: the pieces' statistics combined where there is a leg; none while some are missing (R185, R206). -/
def allMeasures (o : Op) (l : Ledger) : Option Measures :=
  match o.leg with
  | none => if egConverted o l then some o.eg.meas else none
  | some g =>
    let ps := List.range g.n
    if ps.all fun p => !(tget [] p g.stats).isEmpty then some (ps.foldl (fun m p => measuresAdd m (measuresOf (tget [] p g.stats))) Measures.none) else none

/-- The factors that a piece of an assayed egress went out with, from the count header that its statistics carry (R194, R289); a DATA egress's statistics carry none. -/
def pieceFactors (o : Op) (l : Ledger) (g : Leg) (p : Nat) : Option (Int × Int) :=
  let img := tget [] p g.stats
  if legDecided o l && img.length == 192 then some ((img.getD 152 0#8).toInt, (img.getD 153 0#8).toInt) else none

/-- The measures of an egress on die are complete before the current first edge: the last beat with data reaches the down ports, as the crier goes on, within the latency of the later stages from there (R204). -/
def measuresIn (o : Op) (s : State) : Bool :=
  match o.leg with
  | some _ => true
  | none => match opAt o.id (crierRun (s.clock.fclk + stageWait s) s) with
    | some o => o.down.all fun b => b.kind == kPATCH
    | none => true

/-- A gathering leg's first lap has brought a piece that went out with other factors than the true ones: every chip then runs the second lap (R206, R207). -/
def pieceAstray (o : Op) (l : Ledger) (au : Int × Int) : Bool :=
  match o.leg with
  | some g => gathers o && !g.relap && (List.range g.n).any fun p => match pieceFactors o l g p with | some x => x != au | none => false
  | none => false

/-- The comparison of a speculative egress, in the first transit after its measures are complete (R204); the ledger's OUT_TSCALE takes the true exponent (R203). An egress that knew the true factors at its start is not compared, but takes part in the second lap that another chip's piece calls for (R206, R207). DESIGN CHOICE (log 61): LIMIT, CLIP_EN and TSCALE_EN are those of the entry at the comparison; R205 fixes only the predictions at the claim. -/
def almanacCompareApply (id : OpId) (s : State) : State :=
  withRunning id (fun o s =>
    let l := ledgerAt (dLedger o.d) s
    let e := o.eg
    if !isClosing (dOp o.d) || !e.spec || egHeld o || s.clock.fclk ≤ e.measAt || !measuresIn o s then s
    else match allMeasures o l, e.trueAU with
      | none, _ => s
      | some _, some au => if pieceAstray o l au then setOp { o with eg := { e with recallDue := true, reEmit := true }, progress := true } s else s
      | some m, none =>
        let ctrl := almWord (dAlmanac o.d) 1 s
        let a := trueA ctrl (almWord (dAlmanac o.d) 0 s) m
        let u := trueU ctrl (outFmtOf o) a m
        let hit := a == e.a && u == e.u
        let again := !hit || pieceAstray o l (a, u)
        let s := setLedger (dLedger o.d) { l with outTscale := tscaleOf u } (if hit then s else irq pASSAY 2 s)
        setOp { o with eg := { e with compared := some (e.compared.getD hit), trueAU := some (a, u), recallDue := again, reEmit := again }, doneAt := s.clock.fclk, progress := true } s) s

/-- The recall of a leg is applied: the stalls' output is withdrawn, non-sums ask their members again, and the leg restarts (R343, R347). -/
def applyLegRecall (o : Op) (code : BitVec 8) (s : State) : State :=
  let resend := !isClosing (dOp o.d)
  let s := recallNow o.id resend s
  let s := modOp o.id (fun o =>
    let o := clearEgress (if resend then clearContribution o else o)
    { o with attempt := o.attempt + 1, replayed := true, eg := { o.eg with measAt := s.clock.fclk } }) s
  restartLeg o.id code s

/-- A recall that is due: a miss, or a received RECALL of the leg; both in one transit make one recall (R35, R204, R207, R347). -/
def recallApply (id : OpId) (s : State) : State :=
  withRunning id (fun o s =>
    match o.leg.bind fun g => if g.notBefore.toNat ≤ s.clock.transit.toNat then g.recallAt else none with
    | some code => applyLegRecall o code s
    | none =>
      if !o.eg.recallDue then s
      else
        let s := recallNow id false s
        modOp id (fun o => { o with eg := { o.eg with recallDue := false, measAt := s.clock.fclk } }) s) s

/-- The second all-gather lap begins: the first lap's output is dropped; what is still arriving of it is only gathered (R206). -/
def beginRelap (g : Leg) : Leg := { g with relap := true, images := g.images.filter fun x => decide (partKey 0 ≤ x.1), stats := [], beatsOut := [], delivered := [] }

/-- The re-emission with the true factors, from the transit after the recall; it reads the partial pages again (R163, R177, R204). A REDUCE_SCATTER leg keeps its statistics. -/
def reEmissionApply (id : OpId) (cyc : Nat) (s : State) : State :=
  withRunning id (fun o s =>
    if !o.eg.reEmit || o.eg.recallDue || s.clock.fclk ≤ o.eg.measAt then s
    else
      let o := clearFold (clearEgress o)
      let o := useTrue { o with eg := { o.eg with reEmit := false } }
      let o := if gathers o then { o with leg := o.leg.map beginRelap } else o
      egressApply id cyc (setOp o s)) s

/-! ### Early use (R264) -/

/-- Beats of an output chunk, by the operation: of an ALLTOALL those that its RECV ranges bring (R290). -/
def outChunkBeats (o : Op) (chunk : Nat) : Nat :=
  let f := dOutFmt o.d
  let all := fun tot => ceilDiv (min tot ((chunk + 1) * perChunk f) - chunk * perChunk f) (perBeat f)
  match o.leg with
  | none => all (copyTotal o)
  | some g => if dOp o.d == oALLTOALL then (a2aUnit o g chunk).length else all (g.n * gatherN o)

/-- Cycles from a chunk's last beat to its release: five, or its comparison's on a paired block (R264, R346, R353). -/
def releaseWait (s : State) : Nat := if binoPaired s then 40 else 5

/-- A chunk whose operation has sealed before the chunk's comparison ended. -/
def lateRelease (id : OpId) (stall chunk : Nat) (s : State) : State :=
  match s.late.find? fun x => x.op == id && x.stall == stall && x.chunk == chunk && decide (x.from' ≤ s.clock.fclk) with
  | none => s
  | some x => addTally stall x.tally 1#32 { s with late := s.late.filter (· != x) }

/-- A chunk of an early-use operation is released to a member, once. -/
def chunkReleaseApply (id : OpId) (stall chunk : Nat) (s : State) : State :=
  if (opAt id s).isNone then (if alive s then lateRelease id stall chunk s else s)
  else withRunning id (fun o s =>
    if !dEarly o.d || o.eg.released.contains (stall, chunk) || !(receivers o).contains stall then s
    else match o.eg.chunkOut.find? fun x => x.1 == chunk with
      | none => s
      | some x =>
        if x.2.2 < outChunkBeats o chunk ∨ s.clock.fclk < x.2.1 + releaseWait s then s
        else addTally stall (dChunkTally o.d) 1#32 (setOp { o with eg := { o.eg with released := o.eg.released ++ [(stall, chunk)] } } s)) s

/-! ### The commands -/

def execEgress (op : OpId) (cyc : Nat) (s : State) : Answer := .next (inTransit (.egress op cyc) (egressApply op cyc) s)
def execReduce (op : OpId) (cyc : Nat) (s : State) : Answer := .next (inTransit (.reduce op cyc) (ofOp oREDUCE op (sumWork op cyc)) s)
def execAllreduce (op : OpId) (cyc : Nat) (s : State) : Answer := .next (inTransit (.allreduce op cyc) (ofOp oALLREDUCE op (sumWork op cyc)) s)
def execReduceScatter (op : OpId) (cyc : Nat) (s : State) : Answer :=
  .next (inTransit (.reduceScatter op cyc) (ofOp oREDUCE_SCATTER op (sumWork op cyc)) s)
def execLedgerAdd (op : OpId) (cyc : Nat) (s : State) : Answer := .next (inTransit (.ledgerAdd op cyc) (ofOp oLEDGER_ADD op (sumWork op cyc)) s)
def execLedgerClose (op : OpId) (cyc : Nat) (s : State) : Answer :=
  .next (inTransit (.ledgerClose op cyc) (ofOp oLEDGER_CLOSE op (sumWork op cyc)) s)
def execAlmanacCompare (op : OpId) (s : State) : Answer := .next (inTransit (.almanacCompare op) (almanacCompareApply op) s)
def execRecallOp (op : OpId) (cyc : Nat) (s : State) : Answer := .next (inTransit (.recallOp op cyc) (recallApply op) s)
def execReEmission (op : OpId) (cyc : Nat) (s : State) : Answer := .next (inTransit (.reEmission op cyc) (reEmissionApply op cyc) s)
def execChunkRelease (op : OpId) (stall chunk : Nat) (s : State) : Answer :=
  if !hasStall stall s then .fault .noSuchStallPort
  else .next (inTransit (.chunkRelease op stall chunk) (chunkReleaseApply op stall chunk) s)

end Sys2Proof.Machine
end

