-- ==== Sys2Proof/Machine/Laps.lean ====
section
/-! DEFINITION. The steps of a leg that carry this chip's own output: their keys, headers and bytes (R281, R282, R286, R287, R289, R450). -/

namespace Sys2Proof.Machine

/-- A step's key: the steps of a second all-gather lap are kept apart from those of the first (R206). -/
def lapKey (second : Bool) (step : Nat) : Nat := if second then step + 8192 else step

def stepStarted (g : Leg) (rev : Bool) (key : Nat) : Bool := g.started.contains (dirNat rev, key)

def findTx (g : Leg) (rev : Bool) (key : Nat) : Option TxStep := g.tx.find? fun t => t.reverse == rev && t.step == key

/-- Replace a step of the leg. -/
def putTx (t : TxStep) (g : Leg) : Leg := { g with tx := g.tx.map fun x => if x.port == t.port && x.sid == t.sid then t else x }

def gotKey (rev : Bool) (step : Nat) : Nat := dirNat rev * 16384 + step

/-- Elements of a half. -/
def halfLen (o : Op) (l : Ledger) (g : Leg) (p : Nat) (rev : Bool) : Nat := let r := halfRange o l g p rev; r.2 - r.1

/-- A lap that brings this piece in this direction has something to carry: elements, a list, or statistics with the forward half. -/
def lapCarries (o : Op) (l : Ledger) (g : Leg) (p : Nat) (rev : Bool) : Bool :=
  if isSelect (dOp o.d) then !rev
  else if dOp o.d == oREDUCE_SCATTER then !rev && legStats o l
  else decide (0 < halfLen o l g p rev) || (!rev && legStats o l)

def lapKind (o : Op) : Nat := if isSelect (dOp o.d) then kSELECT else kAG
def lapContent (o : Op) (l : Ledger) : Nat := if isSelect (dOp o.d) then 6 else if legDecided o l then 4 else 5

/-- A header of the leg; STEP has 12 bits (R287). -/
def legHdr (g : Leg) (kind : Nat) (rev : Bool) (content piece src step : Nat) : ChunkHdr :=
  { tgroup := g.tgroup, kind := kind, rev := rev, content := content, seq := g.seq, piece := piece, src := src, offset := 0, len := 1, step := step % 4096 }

/-- The STATS chunk of this chip's piece. Its content field is a free value: no code is given for it (R287, log 28). -/
def statsWire (o : Op) (g : Leg) : List Byte :=
  let img := tget [] g.pos g.stats
  chunkWire { legHdr g kSTATS false (Config.statsContent % 8) g.pos g.pos (lapStart (dOp o.d) g.n) with len := img.length } img

/-- The bytes of this chip's first step in its last lap, once they are there (R282). -/
def ownWire (o : Op) (l : Ledger) (g : Leg) (rev : Bool) : Option (List Byte) :=
  let st := if !rev && legStats o l then statsWire o g else []
  let h := legHdr g (lapKind o) rev (lapContent o l) g.pos g.pos (lapStart (dOp o.d) g.n)
  if !rev && legStats o l && (tget [] g.pos g.stats).isEmpty then none
  else if dOp o.d == oREDUCE_SCATTER then some st
  else
    let img := halfImg g (halfKey g.pos rev)
    if img.isEmpty && (isSelect (dOp o.d) || decide (0 < halfLen o l g g.pos rev)) then none else some (st ++ imageWire h img)

/-- Feed a started first step with this chip's data. -/
def feedOwn (id : OpId) (rev : Bool) (s : State) : State :=
  withOp id (fun o s =>
    match o.leg with
    | none => s
    | some g =>
      let l := ledgerAt (dLedger o.d) s
      match findTx g rev (lapKey g.relap (lapStart (dOp o.d) g.n)), ownWire o l g rev with
      | some t, some b =>
        if t.lastQueued then s
        else
          let (t, s) := feedStep t (dataVc (groupAt g.tgroup s) rev s) g.tgroup 1 b true s
          setOp { o with leg := some (putTx t g), progress := true } s
      | _, _ => s) s

def feedDirs (id : OpId) (s : State) : State := feedOwn id true (feedOwn id false s)

end Sys2Proof.Machine
end

