-- ==== Sys2Proof/Machine/Copies.lean ====
section
/-! DEFINITION. Operations that move or select their inputs: BROADCAST and ALLGATHER (R247, R258, R259), the selecting operations (R128 to R134), and an ALLTOALL's images (R290, R291). -/

namespace Sys2Proof.Machine

/-! ### Copies -/

/-- The source of beat n of the local image: stall, chunk, beat. -/
def copySrc (o : Op) (n : Nat) : Nat × Nat × Nat :=
  if dOp o.d == oBROADCAST then (dRoot o.d, n / 64, n % 64)
  else
    let e := n * perBeat (dInFmt o.d)
    let r := e / max 1 (dCount o.d)
    let k := (e - r * dCount o.d) / perBeat (dInFmt o.d)
    (o.members.getD r 0, k / 64, k % 64)

/-- A beat as delivered: element codes, scale codes and flags; scaled blocks are re-expressed against OPERAND (R103, R247). -/
structure CopyBeat where
  codes : List Nat
  scales : List Nat
  flags : Flags
  deriving DecidableEq, Repr, Inhabited

def copyBlock (d : List Word) (b : Beat) (j ne : Nat) : CopyBeat :=
  let f := dInFmt d
  let codes := (List.range ne).map fun i => beatElem f b.data (32 * j + i)
  if ne = 0 then ⟨[], [0], fNone⟩
  else
    let (r, fl) := reexpressBlock f (dSat d) (beatScale b.scale j) (tscaleExp (dInTscale d)) (tscaleExp (dOperand d)) codes
    ⟨r.elems, [r.scale], fl⟩

def copyConvert (o : Op) (n : Nat) (b : Beat) : CopyBeat :=
  let f := dInFmt o.d
  let ne := min (perBeat f) (copyTotal o - n * perBeat f)
  if fmtScaled f then
    let bs := (List.range (perBeat f / 32)).map fun j => copyBlock o.d b j (min 32 (ne - 32 * j))
    ⟨bs.flatMap fun x => x.codes, bs.flatMap fun x => x.scales, flagsUnion (bs.map fun x => x.flags)⟩
  else ⟨(List.range ne).map fun i => beatElem f b.data i, [], fNone⟩

/-- Beat n of the local image, once it has passed the exchange. -/
def copyBeatAt (o : Op) (n : Nat) : Option CopyBeat :=
  let x := copySrc o n
  if beatPassed o x.1 x.2.1 x.2.2 then (beatOfOp o x.1 x.2.1 x.2.2).map (copyConvert o n) else none

/-- The plane of an output chunk (R259). -/
def copyPlane (o : Op) (n : Nat) : Nat := maskPlane o.planes (n / 64)

def copyDn (o : Op) (off : Nat) (c : CopyBeat) : DnBeat :=
  let f := dOutFmt o.d
  ⟨copyPlane o off, off, kDATA, packBeat f (fun i => c.codes.getD i 0) 0 c.codes.length 0, packScale f (fun j => c.scales.getD j 0) 0 c.codes.length 0, receivers o, off / 64, 0, 0⟩

/-- Flags of re-expression, in the plane that carries the beat. -/
def copyFlags (id : OpId) (p : Nat) (f : Flags) (s : State) : State :=
  raisePlane p f (modOp id (fun o => { o with freshFlags := o.freshFlags ||| f }) s)

/-- Beats of an output chunk that can be presented now, in ascending offset (R34). -/
def copyReady (o : Op) (c : Nat) : List Nat :=
  let nb := ceilDiv (copyTotal o) (perBeat (dInFmt o.d))
  let ns := ((List.range 64).map fun b => 64 * c + b).filter fun n => decide (n < nb)
  (ns.takeWhile fun n => tget 0 n o.summed == 1 || (copyBeatAt o n).isSome).filter fun n => tget 0 n o.summed != 1

/-- One output beat on die. -/
def copyPresent (id : OpId) (t : Nat) (s : State) (n : Nat) : State :=
  withOp id (fun o s =>
    match copyBeatAt o n with
    | none => s
    | some c =>
      let s := copyFlags id (copyPlane o n) c.flags (setOp { o with summed := tset 0 n 1 o.summed, progress := true } s)
      queueBeat id t s (copyDn o n c)) s

/-- BROADCAST and ALLGATHER on die. -/
def copyOnDie (id : OpId) (t : Nat) (s : State) : State :=
  withOp id (fun o s =>
    let nb := ceilDiv (copyTotal o) (perBeat (dInFmt o.d))
    let s := (List.range (ceilDiv nb 64)).foldl (fun s c => (copyReady o c).foldl (copyPresent id t) s) s
    modOp id (fun o => if (List.range nb).all fun n => tget 0 n o.summed == 1 then { o with eg := { o.eg with ended := true } } else o) s) s

/-- Every beat of every contributor has come and has passed the exchange. -/
def allBeats (o : Op) : Bool :=
  (contributors o).all fun n => (List.range (upChunks o.d)).all fun c => (List.range (chunkBeats o.d c)).all fun b => (beatOfOp o n c b).isSome && beatPassed o n c b

/-- The beats of the local image that hold its elements [lo, hi), as delivered. -/
def localBeats (o : Op) (lo hi : Nat) : List (Nat × CopyBeat) :=
  let b := perBeat (dInFmt o.d)
  ((List.range (ceilDiv hi b)).filter fun n => decide (lo / b ≤ n)).map fun n => (n, (copyBeatAt o n).getD ⟨[], [], fNone⟩)

/-- The flags of re-expressing the elements [lo, hi) of the local image (R110). DESIGN CHOICE (log 43): for a piece that goes round a ring, in the plane that the mask gives to the chunk's number within the local image. -/
def localFlags (id : OpId) (o : Op) (lo hi : Nat) (s : State) : State :=
  (localBeats o lo hi).foldl (fun s x => copyFlags id (copyPlane o x.1) x.2.flags s) s

/-- Image of the elements [lo, hi) of the local image: elements, then scale codes. -/
def localImage (o : Op) (lo hi : Nat) : List Byte :=
  let f := dInFmt o.d
  let b := perBeat f
  let cs := localBeats o lo hi
  let at' := fun n => ((cs.find? fun x => x.1 == n).map Prod.snd).getD ⟨[], [], fNone⟩
  let k := b / 32
  packBytes f (payloadBytes f false lo hi) (fun e => (at' (e / b)).codes.getD (e % b) 0) lo hi
    ++ (if fmtScaled f then (List.range (ceilDiv (hi - lo) 32)).map fun i => let j := lo / 32 + i; BitVec.ofNat 8 ((at' (j / k)).scales.getD (j % k) 0) else [])

/-- ALLGATHER with a leg: the gathered image becomes this chip's piece. -/
def gatherOwn (id : OpId) (t : Nat) (s : State) : State :=
  withOp id (fun o s =>
    match o.leg with
    | none => s
    | some g =>
      if o.added || !allBeats o then s
      else
        let m := gatherN o
        let s := modOp id (fun o => { o with added := true, addAt := t, progress := true }) s
        let s := localFlags id o 0 m s
        feedDirs id <| ownHalves id t (fun rev => let r := halfRange o (ledgerAt (dLedger o.d) s) g g.pos rev; localImage o (r.1 - g.pos * m) (r.2 - g.pos * m)) s) s

/-- BROADCAST and ALLGATHER go as far as one cycle allows: a beat on each plane passes the exchange, and what has passed goes on. -/
def copyWork (id : OpId) (cyc : Nat) (s : State) : State :=
  withRunning id (fun o s =>
    if !serving s || o.claim != .claimed || o.eg.ended then s
    else
      let s := passBeats id (stamp cyc s) s
      if o.leg.isSome then gatherOwn id (stamp cyc s) s else copyOnDie id (stamp cyc s) s) s

/-! ### Selecting operations -/

def candKind (o : Op) : CandKind := if intPath (dInFmt o.d) then .int (dInSigned o.d) else .float

/-- The working value of an element (R92, R93, R128). -/
def selValue (o : Op) (b : Beat) (i : Nat) : Word × Flags :=
  let f := dInFmt o.d
  let code := beatElem f b.data i
  if intPath f then (BitVec.ofNat 32 code, fNone)
  else let r := leafValue f (dInSigned o.d) .plain (tscaleExp (dInTscale o.d)) (dSat o.d) (beatScale b.scale (i / 32)) code; (pairH r.1, r.2)

/-- The candidate of an element of a member; SAMPLE adds its noise (R128, R134). -/
def candAt (o : Op) (rank : Nat) (b : Beat) (base i : Nat) : Cand × Flags :=
  let (x, f) := selValue o b i
  let idx := globalIndex (dIndexBase o.d) (dCount o.d) rank (base + i)
  if dOp o.d == oSAMPLE then let (y, g) := sampleValue (dSeed o.d) o.pos (dOperand o.d) x idx; (⟨y, idx⟩, f ||| g) else (⟨x, idx⟩, f)

/-- Candidates of a member in a beat. -/
def beatCands (o : Op) (rank stall chunk beat : Nat) : List (Cand × Flags) :=
  match beatOfOp o stall chunk beat with
  | none => []
  | some b => (List.range (beatElems o.d chunk beat)).map fun i => candAt o rank b (beatBase o.d chunk beat) i

/-- Keep the earliest k of a list in key order. -/
def keepK (k : CandKind) (n : Nat) (l : List Cand) (c : Cand) : List Cand := (candInsert k c l).take n

/-- The local result: MAX elementwise, the others over all candidates. -/
def selectLocal (o : Op) : List Cand :=
  let k := candKind o
  let cs := o.members.zipIdx
  let grid := (List.range (upChunks o.d)).flatMap fun c => (List.range (chunkBeats o.d c)).map fun b => (c, b)
  if dOp o.d == oMAX then
    grid.flatMap fun x =>
      let ls := cs.map fun m => (beatCands o m.2 m.1 x.1 x.2).map Prod.fst
      (List.range (beatElems o.d x.1 x.2)).map fun i =>
        match ls.map fun l => l.getD i fillerPair with
        | [] => fillerPair
        | c :: r => bestOf k c r
  else
    grid.foldl (fun acc x => cs.foldl (fun acc m => ((beatCands o m.2 m.1 x.1 x.2).map Prod.fst).foldl (keepK k (selK o)) acc) acc) []

/-- Flags of the conversions, in the plane of each chunk. -/
def selectFlags (o : Op) (s : State) : Flags × State :=
  (List.range (upChunks o.d)).foldl (fun (x : Flags × State) c =>
    let f := flagsUnion (o.members.zipIdx.flatMap fun m => (List.range (chunkBeats o.d c)).flatMap fun b => (beatCands o m.2 m.1 c b).map Prod.snd)
    (x.1 ||| f, raisePlane (maskPlane o.planes c) f x.2)) (fNone, s)

/-- PAIRS beats of a result, with filler pairs up to `n` (R133). -/
def pairsDn (o : Op) (n : Nat) (l : List Cand) : List DnBeat :=
  let p := (planesOf o.planes).headD 0
  (List.range (ceilDiv n 8)).map fun i => ⟨p, i, kPAIRS, pairsBeat ((l.take n).drop (8 * i)), 0#32, receivers o, i / 64, 0, 0⟩

def presentPairs (id : OpId) (t : Nat) (l : List Cand) (s : State) : State :=
  withOp id (fun o s =>
    queueBeats id t (pairsDn o (selN o) l) (setOp { o with eg := { o.eg with ended := true } } s)) s

/-- The merge of every chip's list (R278). -/
def mergeLists (o : Op) (g : Leg) : List Cand :=
  (List.range g.n).foldl (fun acc p => mergeK (candKind o) (selK o) acc (pairsOfImage (halfImg g (halfKey p false)))) []

/-- A chip's list is in; with the last one the result is presented. -/
def deliverList (id : OpId) (p : Nat) (img : List Byte) (t : Nat) (s : State) : State :=
  withOp id (fun o s =>
    match o.leg with
    | none => s
    | some g =>
      let g' := { g with images := tset [] (halfKey p false) img g.images, delivered := g.delivered ++ [p] }
      let s := setOp { o with leg := some g', progress := true } s
      if (List.range g.n).all fun q => !(halfImg g' (halfKey q false)).isEmpty then presentPairs id t (mergeLists o g') s else s) s

/-- The result of a selecting operation, once every candidate has passed. -/
def selectEnd (id : OpId) (t : Nat) (s : State) : State :=
  withOp id (fun o s =>
    if !allBeats o then s
    else
      let (f, s) := selectFlags o s
      let r := selectLocal o
      let s := modOp id (fun o => { o with added := true, addAt := t, freshFlags := o.freshFlags ||| f, progress := true }) s
      match o.leg with
      | none => presentPairs id t r s
      | some g => feedDirs id (deliverList id g.pos (pairsImage (r ++ List.replicate (selN o - r.length) fillerPair)) t s)) s

/-- A selecting operation goes as far as one cycle allows: a beat on each plane passes the exchange; with the last the result is there. -/
def selectWork (id : OpId) (cyc : Nat) (s : State) : State :=
  withRunning id (fun o s =>
    if !serving s || o.claim != .claimed || o.added then s
    else selectEnd id (stamp cyc s) (passBeats id (stamp cyc s) s)) s

/-! ### ALLTOALL (R290, R291) -/

/-- The table breaks R291. -/
def a2aBad (o : Op) (g : Leg) : Bool :=
  let b := perBeat (dInFmt o.d)
  let m := gatherN o
  let js := List.range g.n
  js.any (fun j => (List.range 4).any fun i => a2aEntry g j i % b != 0)
    || js.any (fun j => decide (m < a2aEntry g j 0 + a2aEntry g j 1 ∨ m < a2aEntry g j 2 + a2aEntry g j 3))
    || js.any (fun j => js.any fun k => j != k && decide (0 < a2aEntry g j 3 ∧ 0 < a2aEntry g k 3 ∧ a2aEntry g j 2 < a2aEntry g k 2 + a2aEntry g k 3 ∧ a2aEntry g k 2 < a2aEntry g j 2 + a2aEntry g j 3))
    || a2aEntry g g.pos 1 != a2aEntry g g.pos 3

/-- A piece goes in reverse (R290). -/
def a2aRev (g : Leg) (j : Nat) : Bool := let d := subMod j g.pos g.n; g.twoWay && decide (g.n - d < d)

/-- The size table is complete: it is checked, and the operation claims its ledger (R290, R291, R449). -/
def a2aSizes (id : OpId) (s : State) : State :=
  withRunning id (fun o s =>
    match o.leg with
    | none => s
    | some g =>
      if !o.sizesPending || 4 * g.sizes.length < (tableSpan o.d g.n).2 then s
      else
        let g' := { g with sizes := (g.sizes.drop (dAddr o.d % 32 / 4)).take (4 * g.n) }
        if a2aBad o g' then find_ (.failed id 0x26 (failSource o 0x26 s)) s else setOp { o with sizesPending := false, leg := some g' } s) s

/-- Every beat of the range of the send image has come. -/
def a2aHas (o : Op) (g : Leg) (j : Nat) : Bool :=
  let b := perBeat (dInFmt o.d)
  (List.range (a2aEntry g j 1 / b)).all fun i => (copyBeatAt o (a2aEntry g j 0 / b + i)).isSome

def a2aImage (o : Op) (g : Leg) (j : Nat) : List Byte := localImage o (a2aEntry g j 0) (a2aEntry g j 0 + a2aEntry g j 1)

/-- Bytes of a piece of n elements. -/
def a2aBytes (f : BitVec 4) (n : Nat) : Nat := payloadBytes f false 0 n + if fmtScaled f then n / 32 else 0

/-- What has come of the piece from a position (R290). -/
def a2aImg (g : Leg) (j : Nat) : List Byte := halfImg g (partKey (2 * j))

/-- A beat of the output has come: of unscaled elements as soon as its 64 bytes are there, of scaled ones with the whole piece, whose scale codes come last (R286). -/
def a2aHere (o : Op) (g : Leg) (n : Nat) : Bool :=
  let f := dOutFmt o.d
  match a2aFrom o g n with
  | none => false
  | some j => if fmtScaled f then g.delivered.contains j else decide (64 * (n + 1 - a2aEntry g j 2 / perBeat f) ≤ (a2aImg g j).length)

/-- A beat of the output, from the piece that brings it (R290). -/
def a2aBeat (o : Op) (g : Leg) (n : Nat) : DnBeat :=
  let f := dOutFmt o.d
  let b := perBeat f
  let j := (a2aFrom o g n).getD 0
  let i := n - a2aEntry g j 2 / b
  let pay := payloadBytes f false 0 (a2aEntry g j 3)
  ⟨copyPlane o n, n, kDATA, packBeat f (fun e => imgCode f (a2aImg g j) (i * b + e)) 0 b 0, packScale f (fun k => ((a2aImg g j).getD (pay + i * (b / 32) + k) 0#8).toNat) 0 b 0, receivers o, n / 64, 0, 0⟩

/-- The crier takes what an output chunk has ready, in ascending offset (R34). -/
def a2aRun (id : OpId) (t : Nat) (s : State) (u : Nat) : State :=
  withOp id (fun o s =>
    match o.leg with
    | none => s
    | some g =>
      let ns := ((a2aUnit o g u).drop (tget 0 u g.beatsOut)).takeWhile (a2aHere o g)
      let s := setOp { o with leg := some { g with beatsOut := tset 0 u (tget 0 u g.beatsOut + ns.length) g.beatsOut } } s
      queueBeats id t (ns.map (a2aBeat o g)) s) s

/-- The piece from position j has come so far, or whole: the crier takes the beats that it completes. With the last piece the output ends. -/
def a2aDeliver (id : OpId) (j : Nat) (img : List Byte) (whole : Bool) (t : Nat) (s : State) : State :=
  withOp id (fun o s =>
    match o.leg with
    | none => s
    | some g =>
      let b := perBeat (dOutFmt o.d)
      let g' := { g with images := tset [] (partKey (2 * j)) img g.images, delivered := if whole then g.delivered ++ [j] else g.delivered }
      let done := (List.range g.n).all fun k => a2aEntry g k 3 == 0 || g'.delivered.contains k
      let us := (List.range (ceilDiv ((a2aEntry g j 2 + a2aEntry g j 3) / b) 64)).filter fun u => decide (a2aEntry g j 2 / b / 64 ≤ u)
      us.foldl (a2aRun id t) (setOp { o with leg := some g', eg := { o.eg with ended := o.eg.ended || done }, progress := true } s)) s

/-- Pieces that leave in a direction, in ascending distance (R290). -/
def a2aPieces (g : Leg) (rev : Bool) : List Nat :=
  ((List.range g.n).map fun d => (g.pos + d) % g.n).filter fun j => j != g.pos && a2aRev g j == rev && decide (0 < a2aEntry g j 1)

/-- Feed the step of a direction with the pieces whose data has come, in order. -/
def a2aFeed : Nat → OpId → Bool → State → State
  | 0, _, _, s => s
  | f + 1, id, rev, s =>
    match opAt id s with
    | none => s
    | some o =>
      match o.leg with
      | none => s
      | some g =>
        match findTx g rev 1, (a2aPieces g rev)[((findTx g rev 1).map fun t => t.sentChunks).getD 0]? with
        | some t, some j =>
          if t.lastQueued || !a2aHas o g j then s
          else
            let s := localFlags id o (a2aEntry g j 0) (a2aEntry g j 0 + a2aEntry g j 1) s
            let h := legHdr g kA2A rev 5 j g.pos 1
            let (t, s) := feedStep t (dataVc (groupAt g.tgroup s) rev s) g.tgroup 1 (imageWire h (a2aImage o g j)) (decide (t.sentChunks + 1 = (a2aPieces g rev).length)) s
            a2aFeed f id rev (modOp id (fun o => { o with leg := o.leg.map (putTx t), progress := true }) s)
        | _, _ => s

def a2aFeedDirs (id : OpId) (s : State) : State :=
  withOp id (fun o s => match o.leg with
    | none => s
    | some g => a2aFeed (g.n + 1) id true (a2aFeed (g.n + 1) id false s)) s

/-- On each plane a beat of the send image may pass the exchange (R14). -/
def a2aPass (id : OpId) (cyc : Nat) (s : State) : State :=
  withRunning id (fun o s => if serving s && o.claim == .claimed then passBeats id (stamp cyc s) s else s) s

/-- The piece for the chip's own position goes straight to the crier. -/
def a2aOwn (id : OpId) (cyc : Nat) (s : State) : State :=
  withRunning id (fun o s =>
    match o.leg with
    | none => s
    | some g =>
      if !serving s || o.claim != .claimed || o.eg.ended || g.delivered.contains g.pos || !a2aHas o g g.pos then s
      else a2aDeliver id g.pos (a2aImage o g g.pos) true (stamp cyc s) (localFlags id o (a2aEntry g g.pos 0) (a2aEntry g g.pos 0 + a2aEntry g g.pos 1) s)) s

/-! ### The commands -/

def execBroadcast (op : OpId) (cyc : Nat) (s : State) : Answer := .next (inTransit (.broadcast op cyc) (ofOp oBROADCAST op (copyWork op cyc)) s)
def execAllgather (op : OpId) (cyc : Nat) (s : State) : Answer := .next (inTransit (.allgather op cyc) (ofOp oALLGATHER op (copyWork op cyc)) s)
def execMax (op : OpId) (cyc : Nat) (s : State) : Answer := .next (inTransit (.max op cyc) (ofOp oMAX op (selectWork op cyc)) s)
def execArgmax (op : OpId) (cyc : Nat) (s : State) : Answer := .next (inTransit (.argmax op cyc) (ofOp oARGMAX op (selectWork op cyc)) s)
def execTopk (op : OpId) (cyc : Nat) (s : State) : Answer := .next (inTransit (.topk op cyc) (ofOp oTOPK op (selectWork op cyc)) s)
def execSample (op : OpId) (cyc : Nat) (s : State) : Answer := .next (inTransit (.sample op cyc) (ofOp oSAMPLE op (selectWork op cyc)) s)
def execAlltoall (op : OpId) (cyc : Nat) (s : State) : Answer :=
  .next (inTransit (.alltoall op cyc) (ofOp oALLTOALL op fun s => a2aFeedDirs op (a2aOwn op cyc (a2aPass op cyc (a2aSizes op s)))) s)

end Sys2Proof.Machine
end

