-- ==== Sys2Proof/Machine/Phases.lean ====
section
/-! DEFINITION. Up phases open and close, and how long an operation of a mask group holds its planes (R251, R259, R266). -/

namespace Sys2Proof.Machine

/-! ### The output that is still to come (R251, R259) -/

/-- The plane of an output's beat (R259). -/
def beatPlane (o : Op) (s : State) (n : Nat) : Nat :=
  let c := dOp o.d
  if isSelect c then (planesOf o.planes).headD 0
  else if isClosing c then sumPlane o (ledgerAt (dLedger o.d) s) n
  else maskPlane o.planes (n * perBeat (dOutFmt o.d) / perChunk (dOutFmt o.d))

/-- A patch stream is still to come on the lowest plane of the mask. -/
def patchToCome (o : Op) (s : State) : Bool := !o.eg.ended && isClosing (dOp o.d) && egDecides o.cop.profile (intPath (ledgerAt (dLedger o.d) s).fmt)

/-- The last output beat of a plane has not been presented; a replay, or a comparison that is to come, may present them again. -/
def outLeft (o : Op) (p : Nat) (s : State) : Bool :=
  o.down.any (fun b => b.plane == p)
    || ((outPlanes o s).contains p && (o.replay.isSome || egHeld o || (o.eg.spec && o.eg.trueAU.isNone)
      || (comeBeats o s).any (fun n => beatPlane o s n == p) || (patchToCome o s && (planesOf o.planes).headD 0 == p)))

/-! ### Holds of mask groups (R251) -/

/-- What an operation still holds of its planes (R251). -/
def keepHolds (o : Op) (s : State) : List Nat := o.upHold.filter fun p => o.upOpen.contains p || outLeft o p s

/-- Planes whose last output beat has been presented are held no longer. -/
def holdsEdge (s : State) : State :=
  { s with ops := s.ops.map fun o => if o.upHold.isEmpty then o else { o with upHold := keepHolds o s } }

/-! ### Up phases (R251) -/

/-- Every chunk of the plane has been accepted from every contributor in the requested attempt. -/
def upAccepted (o : Op) (p : Nat) : Bool :=
  (planeChunks o p).isEmpty || (contributors o).all fun n => progDone (progAt o n p)

/-- The up phase closes: a mask group's hold stays until the last output beat on the plane. -/
def closeUp (o : Op) (p : Nat) (s : State) : Op :=
  let o := { o with upOpen := o.upOpen.filter (· != p), upDone := o.upDone ++ [p], progress := true }
  { o with upHold := keepHolds o s }

/-- An up phase opens; it closes at once where the plane carries no chunk of the contribution (R251, R266). -/
def upOpenApply (id : OpId) (p : Nat) (s : State) : State :=
  withRunning id (fun o s =>
    if !serving s || !upMayOpen o p s || !(streamsOn p s o || streamRoom p s) then s
    else
      let o' := { o with upOpen := o.upOpen ++ [p], upHold := if o.maskGroup then o.upHold ++ [p] else o.upHold, progress := true }
      endDiscard o (setOp (if (planeChunks o p).isEmpty then closeUp o' p s else o') s)) s

def upCloseApply (id : OpId) (p : Nat) (s : State) : State :=
  withRunning id (fun o s => if !o.upOpen.contains p || !upAccepted o p then s else setOp (closeUp o p s) s) s

/-! ### The commands -/

def execUpPhaseOpen (op : OpId) (plane : Nat) (s : State) : Answer :=
  .next (inTransit (.upPhaseOpen op plane) (upOpenApply op plane) s)
def execUpPhaseClose (op : OpId) (plane : Nat) (s : State) : Answer :=
  .next (inTransit (.upPhaseClose op plane) (upCloseApply op plane) s)

end Sys2Proof.Machine
end

