-- ==== Sys2Proof/Machine/Ring.lean ====
section
/-! DEFINITION. Ring steps: their starts, the chunks that arrive, cut-through forwarding, the ends of steps, recalls and verdicts (R276, R279 to R290, R304, R305, R347, R450). -/

namespace Sys2Proof.Machine

/-! ### Streams (R286, R293, R298, R317) -/

def streamAt (port tag : Nat) (s : State) : Option Stream := tget none tag (linkAt port s).streams
def setStream (port tag : Nat) (v : Option Stream) (s : State) : State :=
  let l := linkAt port s
  setLink port { l with streams := tset none tag v l.streams } s

/-- Buffer space of n flits becomes free: their credits are owed to the sender. -/
def freeFlits (port vc n : Nat) (s : State) : State :=
  let l := linkAt port s
  setLink port { l with rxOccupied := l.rxOccupied.set vc (l.rxOccupied.getD vc 0 - n), owed := l.owed.set vc (l.owed.getD vc 0 + n) } s

/-- Free what a stream's consumption and forwarding allow: those flits have been used, and are delivered but for what their notes name (R317); a stream that is through is removed. -/
def settleStream (port tag : Nat) (s : State) : State :=
  match streamAt port tag s with
  | none => s
  | some st =>
    let used := 116 * st.flits - st.bytes.length
    let sent := if st.onward then 116 * st.flits - st.fwd.length else used
    let done := st.last && st.bytes.isEmpty && (!st.onward || st.fwd.isEmpty)
    let k := if done then st.flits else min used sent / 116
    let s := freeFlits port st.vc (k - st.freed) s
    let l := linkAt port s
    let gone := (l.undel.filter fun u => u.2.1 == st.vc && u.2.2 == tag).take (k - st.freed)
    let showing := gone.zipIdx.flatMap fun u => (st.notes.filter fun x => x.1 == st.freed + u.2).map fun x => (⟨u.1.1, u.1.2.1, x.2⟩ : Shown)
    let s := setLink port { l with undel := l.undel.filter fun u => !gone.contains u, showing := l.showing ++ showing } s
    setStream port tag (if done then none else some { st with freed := k, notes := st.notes.filter fun x => decide (k ≤ x.1) }) s

/-- The header at the head of some bytes; padding has KIND 0. -/
def headHdr (b : List Byte) : Option ChunkHdr :=
  if b.length < 16 then none else let h := hdrOf b; if h.kind = 0 then none else some h

/-- Nothing but padding is left. -/
def atEnd (last : Bool) (b : List Byte) : Bool := last && (headHdr b).isNone

/-- Bytes of a chunk on the wire. -/
def chunkBytes (h : ChunkHdr) : Nat := 20 + h.len

/-- The chunk's check value is right (R288). -/
def chunkGood (raw : List Byte) : Bool :=
  leNat (raw.drop (raw.length - 4)) == (crc32c (raw.take (raw.length - 4))).toNat

/-- The flits of a stream that hold its bytes [a, a + n). -/
def flitsOver (a n : Nat) : List Nat := (List.range (ceilDiv (a + n) 116)).filter fun i => decide (a / 116 ≤ i)

/-- Take a chunk off a stream; trailing padding goes with the last one. A stream that is not forwarded keeps nothing to forward; `out` is the part of an output that the chunk brings. -/
def eatChunk (port tag n : Nat) (onward : Bool) (out : Option OutPart) (s : State) : State :=
  match streamAt port tag s with
  | none => s
  | some st =>
    let b := st.bytes.drop n
    let b := if atEnd st.last b then [] else b
    let notes := match out with
      | none => []
      | some h => (flitsOver (116 * st.flits - st.bytes.length) n).map fun i => (i, Delivery.shown h)
    settleStream port tag (setStream port tag (some { st with bytes := b, onward := st.onward && onward, fwd := if onward then st.fwd else [], notes := st.notes ++ notes }) s)

/-! ### Routes (R276, R290) -/

/-- Where a chunk that arrives on a port goes: to this position of its ring, onward as a relay of a closing hop, or nowhere. -/
inductive Route where
  | ring
  | relay (out : Nat)
  | none
  deriving DecidableEq, Repr, Inhabited

def routeOf (port tgroup : Nat) (rev : Bool) (s : State) : Route :=
  let g := groupAt tgroup s
  if !gValid g || !gMember g s || gN g ≤ 1 then .none
  else if recvPort g rev s == some port then .ring
  else if relaysClosing g s && portOn (gTop g) rev s == some port then
    match portOn (gTop g) (!rev) s with
    | some q => .relay q
    | none => .none
  else .none

/-- The started operation of a leg. -/
def legOp (tgroup : Nat) (seq : BitVec 16) (s : State) : Option (Op × Leg) :=
  s.ops.findSome? fun o => match o.leg with
    | some g => if g.tgroup == tgroup && g.seq == seq then some (o, g) else none
    | none => none

/-- The leg of this number has been on this chip and has ended (R279, R280). DESIGN CHOICE (log 68): of the 65,536 numbers those up to 32,768 behind LEG_SEQ are past, the others not yet started. -/
def legPast (tgroup : Nat) (seq : BitVec 16) (s : State) : Bool :=
  let d := ((groupAt tgroup s).legSeq - seq).toNat
  decide (0 < d ∧ d ≤ 32768)

def ringSource (port : Nat) : BitVec 16 := source 2 port

def setLeg (id : OpId) (f : Leg → Leg) (s : State) : State := modOp id (fun o => { o with leg := o.leg.map f, progress := true }) s

/-- Flags of a leg's conversions and additions: the ring engine's and the ledger's (R110); a re-emission does not run them again (R206). -/
def ringFlags (id : OpId) (port : Nat) (f : Flags) (s : State) : State :=
  raiseRing port f (modOp id (fun o => { o with legFlags := o.legFlags ||| f }) s)

/-! ### Reduce-scatter data (R119, R281, R283, R286) -/

/-- Bytes of an element on the wire, elements of a chunk, chunks of a half. -/
def rsBytes (l : Ledger) (g : Leg) : Nat := contentBytes (rsContent l.fmt g.wire)
def rsPer (l : Ledger) (g : Leg) : Nat := 4096 / rsBytes l g
def rsChunks (o : Op) (l : Ledger) (g : Leg) (p : Nat) (rev : Bool) : Nat := ceilDiv (halfLen o l g p rev) (rsPer l g)

/-- Elements [lo, hi) of chunk j of a half. -/
def rsRange (o : Op) (l : Ledger) (g : Leg) (p : Nat) (rev : Bool) (j : Nat) : Nat × Nat :=
  let r := halfRange o l g p rev
  (r.1 + j * rsPer l g, min r.2 (r.1 + (j + 1) * rsPer l g))

/-- The partial that a step sends: the local value in step 1, else the region's. -/
def rsValue (o : Op) (l : Ledger) (g : Leg) (step e : Nat) : Word64 := if step = 1 then elemVal o l e else tget 0#64 e g.region

/-- Chunk j of a reduce-scatter step goes to the link (R283). -/
def rsFeed (id : OpId) (rev : Bool) (step : Nat) (s : State) (j : Nat) : State :=
  withOp id (fun o s =>
    match o.leg with
    | none => s
    | some g =>
      match findTx g rev step with
      | none => s
      | some t =>
        if t.sentChunks != j then s
        else
          let l := ledgerAt (dLedger o.d) s
          let p := rsOut g.pos step g.n rev
          let r := rsRange o l g p rev j
          let c := rsContent l.fmt g.wire
          let ws := ((List.range (r.2 - r.1)).map fun i => wireBytes c (rsValue o l g step (r.1 + i)))
          let data := ws.flatMap Prod.fst
          let h := { legHdr g kRS rev c p g.pos step with offset := 4096 * j, len := data.length }
          let s := ringFlags id t.port (flagsUnion (ws.map Prod.snd)) s
          let (t, s) := feedStep t (dataVc (groupAt g.tgroup s) rev s) g.tgroup 1 (chunkWire h data) (decide (j + 1 = rsChunks o l g p rev)) s
          setLeg id (putTx t) s) s

/-- Both halves of this chip's piece have been reduced. -/
def rsReduced (o : Op) (l : Ledger) (g : Leg) : Bool :=
  (legDirs g).all fun rev => decide (rsChunks o l g g.pos rev ≤ tget 0 (gotKey rev (g.n - 1)) g.got)

/-- What a received chunk does. -/
inductive ChunkRes where
  | hold
  | disagree
  | length
  | take (onward : Bool) (s : State)
  deriving Inhabited

/-- A reduce-scatter chunk: it is held until the outgoing step has read its place, then added (R283, R284). -/
def rsChunk (o : Op) (l : Ledger) (g : Leg) (h : ChunkHdr) (data : List Byte) (port : Nat) (s : State) : ChunkRes :=
  let c := rsContent l.fmt g.wire
  let from' := if h.rev then (g.pos + 1) % g.n else subMod g.pos 1 g.n
  let j := tget 0 (gotKey h.rev h.step) g.got
  if !isClosing (dOp o.d) || !decide (1 ≤ h.step ∧ h.step < g.n) || h.content != c || h.src != from' || h.piece != rsIn g.pos h.step g.n h.rev || (h.rev && !g.twoWay) then .disagree
  else
    let r := rsRange o l g h.piece h.rev j
    if h.offset != 4096 * j || decide (rsChunks o l g h.piece h.rev ≤ j) || h.len != (r.2 - r.1) * rsBytes l g then .disagree
    else
      let out := rsOut g.pos h.step g.n h.rev
      let read := decide (rsChunks o l g out h.rev ≤ j) ||
        (stepStarted g h.rev h.step && match findTx g h.rev h.step with | some t => t.lastQueued || decide (j < t.sentChunks) | none => true)
      if !localDone o || !read then .hold
      else
        let b := rsBytes l g
        let sums := (List.range (r.2 - r.1)).map fun i => (r.1 + i, accAdd (intPath l.fmt) (wireVal c (sliceB data (b * i) b)) (elemVal o l (r.1 + i)))
        let g' := { g with region := sums.foldl (fun (t : Table Word64) (x : Nat × Word64 × Flags) => tset 0#64 x.1 x.2.1 t) g.region, got := tset 0 (gotKey h.rev h.step) (j + 1) g.got }
        let g' := { g' with reduced := rsReduced o l g' }
        let s := ringFlags o.id port (flagsUnion (sums.map fun x => x.2.2)) s
        let s := setLeg o.id (fun _ => g') s
        .take false (if h.step + 1 < g.n then rsFeed o.id h.rev (h.step + 1) s j else s)

/-! ### The last lap's data (R206, R283, R286, R289) -/

/-- The step of a lap in which a piece arrives. -/
def lapStep (g : Leg) (p : Nat) (rev : Bool) : Nat := if rev then subMod p g.pos g.n else subMod g.pos p g.n

/-- A second lap can follow: a speculative egress that gathers. -/
def twoLapped (o : Op) : Bool := gathers o && o.eg.spec

/-- How a lap's stream stands: of the lap that runs here, left over from the first lap, or ahead of this chip's own miss (R206). -/
inductive LapSt where
  | now
  | old
  | ahead
  deriving DecidableEq, Repr, Inhabited

def lapSt (o : Op) (g : Leg) (p : Nat) (rev : Bool) : LapSt :=
  if !twoLapped o then .now
  else if g.lapDone.contains (halfKey p rev) then (if g.relap then .now else .ahead)
  else if g.relap || egHeld o then .old else .now

/-- The image of a whole half has a length that fits. -/
def halfFits (o : Op) (l : Ledger) (g : Leg) (p : Nat) (rev : Bool) (img : List Byte) : Bool :=
  if isSelect (dOp o.d) then img.length == 8 * selN o
  else
    let r := halfRange o l g p rev
    let f := outFmtOf o
    let nb := ceilDiv (r.2 - r.1) 32
    if legDecided o l then decide (17 * nb ≤ img.length) else img.length == payloadBytes f false r.1 r.2 + if fmtScaled f then nb else 0

/-- A half is complete here: delivered, or dropped where it belongs to a recalled first lap. -/
def endHalf (id : OpId) (p : Nat) (rev : Bool) (st : LapSt) (t : Nat) (s : State) : State :=
  withOp id (fun o s =>
    match o.leg with
    | none => s
    | some g =>
      let k := halfKey p rev
      let img := halfImg g (partKey k)
      let s := setLeg id (fun g => { g with images := tset [] (partKey k) [] g.images, lapDone := if g.lapDone.contains k then g.lapDone else g.lapDone ++ [k] }) s
      if st == .old || img.isEmpty then s
      else if isSelect (dOp o.d) then deliverList id p img t s
      else deliverHalf id p rev img t s) s

/-- A chunk of the last lap, or of a select list. -/
def lapChunk (o : Op) (l : Ledger) (g : Leg) (h : ChunkHdr) (data : List Byte) (ended : Bool) (t : Nat) (s : State) : ChunkRes :=
  let k := halfKey h.piece h.rev
  let have' := halfImg g (partKey k)
  let onward := decide (lapStep g h.piece h.rev + 1 < g.n)
  if h.kind != lapKind o || dOp o.d == oREDUCE_SCATTER || h.content != lapContent o l || h.piece == g.pos || g.n ≤ h.piece || h.src != h.piece
      || (h.rev && !g.twoWay) || h.step != lapStart (dOp o.d) g.n % 4096 || h.offset != have'.length then .disagree
  else
    let img := have' ++ data
    match lapSt o g h.piece h.rev with
    | .ahead => if o.eg.trueAU.isSome && !egHeld o then .take true s else .hold
    | st =>
      let plain := plainOut o l
      let r := halfRange o l g h.piece h.rev
      if ended && !halfFits o l g h.piece h.rev img || plain && decide (payloadBytes (outFmtOf o) false r.1 r.2 < img.length) then .disagree
      else
        let s := setLeg o.id (fun g => { g with images := tset [] (partKey k) img g.images }) s
        .take onward (if ended then endHalf o.id h.piece h.rev st t s else if plain && st != .old then deliverHalf o.id h.piece h.rev img t s else s)

/-- A STATS chunk (R289, R450). -/
def statsChunk (o : Op) (l : Ledger) (g : Leg) (h : ChunkHdr) (data : List Byte) (ended : Bool) (t : Nat) (s : State) : ChunkRes :=
  let onward := decide (lapStep g h.piece false + 1 < g.n)
  if !legStats o l || h.rev || h.piece == g.pos || g.n ≤ h.piece || h.src != h.piece || h.len != 192 || h.offset != 0 || h.step != lapStart (dOp o.d) g.n % 4096 then .disagree
  else
    match lapSt o g h.piece false with
    | .ahead => if o.eg.trueAU.isSome && !egHeld o then .take true s else .hold
    | st =>
      let s := if st == .old then s else deliverStats o.id h.piece data t s
      .take onward (if ended && gathers o then endHalf o.id h.piece false st t s else s)

/-- A stream of this source and direction brings a piece for this position, and the piece is not complete. -/
def a2aOwed (g : Leg) (h : ChunkHdr) : Bool :=
  let d := subMod g.pos h.src g.n
  h.rev == (g.twoWay && decide (g.n - d < d)) && !(a2aImg g h.src).isEmpty && !g.delivered.contains h.src

/-- An ALLTOALL chunk: for this position it is delivered; for another it is only checked here, and ends a piece for this position that came before it in its stream (R290, R291). -/
def a2aChunk (o : Op) (g : Leg) (h : ChunkHdr) (data : List Byte) (ended : Bool) (t : Nat) (s : State) : ChunkRes :=
  if dOp o.d != oALLTOALL || h.content != 5 || g.n ≤ h.piece || g.n ≤ h.src || h.step != 1 || (h.rev && !g.twoWay) then .disagree
  else if h.piece != g.pos then (if a2aOwed g h then .length else .take true s)
  else
    let have' := a2aImg g h.src
    let img := have' ++ data
    let want := a2aBytes (dOutFmt o.d) (a2aEntry g h.src 3)
    if h.offset != have'.length || g.delivered.contains h.src then .length
    else if want < img.length || (img.length < want && (ended || h.len < 4096)) then .length
    else .take true (a2aDeliver o.id h.src img (img.length == want) t s)

/-! ### A chunk arrives -/

/-- A chunk whose check fails on a relay, or for a leg that this chip does not run: the fault is found for the next transit (R215, R288, R304). -/
def relayBad (port : Nat) (h : ChunkHdr) (s : State) : State :=
  match legOp h.tgroup h.seq s with
  | some (o, _) => find_ (.contained o.id 0x30#8 (ringSource port) (!isClosing (dOp o.d))) s
  | none => find_ (.relayed port h.tgroup h.seq) s

/-- Such a chunk counts in CHUNK_FAIL of the port that it came on (R429). -/
def badChunk (port : Nat) (h : ChunkHdr) (s : State) : State := relayBad port h (count (rCHUNK_FAIL port) 1 s)

/-- Chunks for this position that stand at the head of what is to be forwarded are not forwarded (ALLTOALL). -/
def trimFwd : Nat → Nat → Bool → List Byte → List Byte
  | 0, _, _, b => b
  | f + 1, pos, last, b =>
    match headHdr b with
    | none => if last then [] else b
    | some h => if h.piece = pos ∧ chunkBytes h ≤ b.length then trimFwd f pos last (b.drop (chunkBytes h)) else b

def trimStream (port tag pos : Nat) (s : State) : State :=
  match streamAt port tag s with
  | none => s
  | some st => settleStream port tag (setStream port tag (some { st with fwd := trimFwd (st.fwd.length / 20 + 1) pos st.last st.fwd }) s)

/-- The part of an output that a chunk brings to the stalls (R317): a chunk of a first lap that is only gathered brings none, nor do statistics without a count header. -/
def outPartOf (o : Op) (l : Ledger) (g : Leg) (h : ChunkHdr) : Option OutPart :=
  if h.kind = kRS ∨ dOp o.d = oREDUCE_SCATTER then none
  else if h.kind = kA2A then (if h.piece = g.pos then some ⟨o.id, h.src, false, h.offset, h.offset + h.len⟩ else none)
  else if lapSt o g h.piece h.rev == .old then none
  else if h.kind = kSTATS then (if legDecided o l then some ⟨o.id, h.piece, false, 0, 0⟩ else none)
  else some ⟨o.id, h.piece, h.rev, h.offset, h.offset + h.len⟩

/-- The next chunk of a stream for this ring position; its check comes first, whether or not its leg runs here (R288). A leg that a fault of this transit strikes in the next one takes no more. -/
def ringChunk (port tag : Nat) (st : Stream) (h : ChunkHdr) (raw : List Byte) (t : Nat) (s : State) : State :=
  let drop := eatChunk port tag raw.length false none
  match legOp h.tgroup h.seq s with
  | none => if !chunkGood raw then badChunk port h (drop s) else if legPast h.tgroup h.seq s then drop s else s
  | some (o, g) =>
    if !runs o || o.claim != .claimed || g.recallAt.isSome || struckSoon o.id s then s
    else if g.markers.contains (chanKey port st.vc) then drop s
    else if !chunkGood raw then
      find_ (.contained o.id 0x30#8 (ringSource port) (!isClosing (dOp o.d))) (drop (count (rCHUNK_FAIL port) 1 s))
    else
      let l := ledgerAt (dLedger o.d) s
      let data := (raw.drop 16).take h.len
      let rest := st.bytes.drop raw.length
      let ended := atEnd st.last rest
      let res :=
        if h.kind = kRS then rsChunk o l g h data port s
        else if h.kind = kAG ∨ h.kind = kSELECT then lapChunk o l g h data ended t s
        else if h.kind = kSTATS then statsChunk o l g h data ended t s
        else if h.kind = kA2A then a2aChunk o g h data ended t s
        else .disagree
      match res with
      | .hold => s
      | .disagree => find_ (.fatal o.id 0x27#8 (ringSource port)) (drop s)
      | .length => find_ (.fatal o.id 0x28#8 (ringSource port)) (drop s)
      | .take onward s' =>
        if lapSt o g h.piece h.rev == .ahead && (h.kind == kAG || h.kind == kSTATS) then
          -- another chip has begun a second lap that this chip knows no cause for: it takes part in it (R206)
          modOp o.id (fun o => { o with eg := { o.eg with recallDue := true, reEmit := true } }) s
        else
          let s' := eatChunk port tag raw.length onward (outPartOf o l g h) s'
          if h.kind = kA2A then trimStream port tag g.pos s' else s'

/-- Only padding is left of a stream: it is through. -/
def endStream (port tag : Nat) (s : State) : State :=
  match streamAt port tag s with
  | none => s
  | some st => if atEnd st.last st.bytes then settleStream port tag (setStream port tag (some { st with bytes := [] }) s) else s

def ringChunkApply (port tag cyc : Nat) (s : State) : State :=
  if !alive s then s
  else match streamAt port tag s with
    | none => s
    | some st =>
      match headHdr st.bytes with
      | none => endStream port tag s
      | some h =>
        if st.bytes.length < chunkBytes h then s
        else
          let raw := st.bytes.take (chunkBytes h)
          match routeOf port h.tgroup h.rev s with
          | .ring => ringChunk port tag st h raw (stamp cyc s) s
          | .relay _ =>
            let s := eatChunk port tag raw.length true none s
            if chunkGood raw then s else badChunk port h s
          | .none =>
            -- a leg that has not started here, its definition perhaps not yet VALID, has its chunks held (R280)
            let drop := eatChunk port tag raw.length false none s
            if !chunkGood raw then badChunk port h drop
            else match legOp h.tgroup h.seq s with
            | some (o, _) => find_ (.fatal o.id 0x27#8 (ringSource port)) drop
            | none => if legPast h.tgroup h.seq s then drop else s

/-! ### Steps -/

/-- The gate of a step: its window is open where it is gated; a step that starts without its slot makes the operation credit-only (R228, R231, R233). -/
def gateOpen (o : Op) (step : Nat) (s : State) : Bool :=
  let q := queueAt o.id.queue s
  !stepGated q o.d step s || windowOpen (activeBank s) (dEphSlot o.d) step s

def noteGate (id : OpId) (step : Nat) (s : State) : State :=
  withOp id (fun o s =>
    let q := queueAt o.id.queue s
    let bad := entryInvalid q o.d s && !o.entryBad
    let s := if bad then noticeNext 0x1A (source 4 0) s else s
    setOp { o with creditOnly := o.creditOnly || stepCreditOnly q o.d step s, entryBad := o.entryBad || bad } s) s

/-- A step starts on a port (R285). -/
def openStep (id : OpId) (rev : Bool) (step key port : Nat) (from' : Option (Nat × Nat)) (s : State) : State :=
  withOp id (fun o s =>
    match o.leg with
    | none => s
    | some g =>
      let (n, s) := takeSid port s
      let t : TxStep := ⟨g.tgroup, g.seq, rev, key, port, n, [], 0, false, from', [], 0, false, 0⟩
      noteGate id step (setLeg id (fun g => { g with started := g.started ++ [(dirNat rev, key)], tx := g.tx ++ [t] }) s)) s

/-- The stream that carries a piece of the last lap, with its header. -/
def lapStream (o : Op) (l : Ledger) (g : Leg) (port p : Nat) (rev : Bool) (s : State) : Option (Nat × Stream) :=
  ((linkAt port s).streams.findSome? fun x =>
    match x.2 with
    | none => none
    | some st =>
      match headHdr st.fwd with
      | some h => if st.onward && g.tx.all (fun t => t.from_ != some (port, x.1)) && h.tgroup == g.tgroup && h.seq == g.seq && h.rev == rev && h.piece == p && (h.kind == lapKind o || h.kind == kSTATS) && lapCarries o l g p rev then some (x.1, st) else none
      | none => none)

/-- Whether a step of the leg exists and may start, with the work of its start (R281 to R285). -/
def ringStepApply (id : OpId) (rev : Bool) (step : Nat) (s : State) : State :=
  withRunning id (fun o s =>
    match o.leg with
    | none => s
    | some g =>
      let l := ledgerAt (dLedger o.d) s
      match sendPort (groupAt g.tgroup s) rev s with
      | none => s
      | some port =>
        if !serving s || s.clock.fenced || o.claim != .claimed || g.n ≤ 1 || g.recallAt.isSome || s.clock.transit.toNat < g.notBefore.toNat || (rev && !g.twoWay)
            || step = 0 || lapEnd o.d g.n < step || (linkAt port s).state != 2 || decide (4096 ≤ activeSteps port s) || !gateOpen o step s then s
        else if dOp o.d == oALLTOALL then
          if stepStarted g rev 1 || (a2aPieces g rev).isEmpty then s
          else a2aFeed (g.n + 1) id rev (openStep id rev 1 1 port none s)
        else if isClosing (dOp o.d) && decide (step < g.n) then
          let p := rsOut g.pos step g.n rev
          let n := rsChunks o l g p rev
          let avail := if step = 1 then (if localDone o then n else 0) else tget 0 (gotKey rev (step - 1)) g.got
          if stepStarted g rev step || n = 0 || avail = 0 then s
          else (List.range avail).foldl (rsFeed id rev step) (openStep id rev step step port none s)
        else
          let first := lapStart (dOp o.d) g.n
          let t := step + 1 - first
          let p := agOut g.pos t g.n rev
          if !lapCarries o l g p rev then s
          else if t = 1 then
            let key := lapKey g.relap step
            if stepStarted g rev key || (isClosing (dOp o.d) && ((ownWire o l g rev).isNone || egHeld o)) then s
            else feedOwn id rev (openStep id rev step key port none s)
          else
            match recvPort (groupAt g.tgroup s) rev s with
            | none => s
            | some rp =>
              match lapStream o l g rp p rev s with
              | none => s
              | some (tag, _) =>
                let key := lapKey (twoLapped o && g.lapDone.contains (halfKey p rev) && g.relap) step
                if stepStarted g rev key then s else openStep id rev step key port (some (rp, tag)) s) s

/-- The statistics lap of a REDUCE_SCATTER leg begins (R450). -/
def statsLapApply (id : OpId) (s : State) : State :=
  withRunning id (fun o s => match o.leg with
    | some g => if dOp o.d == oREDUCE_SCATTER then ringStepApply id false g.n s else s
    | none => s) s

/-! ### Cut-through forwarding (R276, R283, R290) -/

/-- A RECALL of a relayed hop waits on the port and came before this stream's first flit: the stream stays behind it. -/
def behindMarker (port tag : Nat) (s : State) : Bool :=
  let l := linkAt port s
  let first := (l.undel.find? fun u => u.2.2 == tag).map fun u => u.1
  l.rxCtl.any fun m => m.vc == 2 && m.payload.headD 0#8 == 0x04#8 && (match first with | some n => decide (m.serial < n) | none => false)

def findRelay (port tag out : Nat) (s : State) : Option TxStep := (linkAt out s).relays.find? fun t => t.from_ == some (port, tag)

def putRelay (out : Nat) (t : TxStep) (s : State) : State :=
  let l := linkAt out s
  setLink out { l with relays := if l.relays.any (fun x => x.sid == t.sid) then l.relays.map (fun x => if x.sid == t.sid then t else x) else l.relays ++ [t] } s

/-- Steps of a relayed closing hop, forwarded verbatim, are marked off from those that carry pieces in transit. -/
def relayMark : Nat := 16384

/-- The relay step that carries a stream onward on VC2, opened where there is room for it. -/
def relayFor (whole : Bool) (port tag out : Nat) (h : ChunkHdr) (s : State) : Option (TxStep × State) :=
  match findRelay port tag out s with
  | some t => some (t, s)
  | none =>
    if 4096 ≤ activeSteps out s then none
    else
      let (n, s) := takeSid out s
      some (⟨h.tgroup, h.seq, h.rev, if whole then h.step + relayMark else h.step, out, n, [], 0, false, some (port, tag), [], 0, false, 0⟩, s)

/-- What is left to forward of a stream, and what its flits that have been forwarded wait for. -/
def setFwd (port tag : Nat) (b : List Byte) (notes : List (Nat × Delivery)) (s : State) : State :=
  match streamAt port tag s with
  | none => s
  | some st => settleStream port tag (setStream port tag (some { st with fwd := b, notes := st.notes ++ notes }) s)

/-- The next byte to forward of a stream, and the next byte of a step. -/
def fwdByte (st : Stream) : Nat := 116 * st.flits - st.fwd.length
def stepByte (t : TxStep) : Nat := 116 * t.flits + t.buf.length

/-- The bytes [a, a + n) of a stream go into a step from its byte p on: a flit has been forwarded when the flit of the step that bears its last byte has been sent (R317). -/
def sentNotes (t : TxStep) (p a n : Nat) : List (Nat × Delivery) :=
  (flitsOver a n).map fun i => (i, .sent t.port t.sid ((p + min (116 * (i + 1)) (a + n) - 1 - a) / 116 + 1))

/-- Room for bytes in a port's forwarding buffer of 512 flits, which holds what is forwarded and not yet sent (R284). -/
def forwardRoom (port : Nat) (s : State) : Nat :=
  let forwards := fun sid => (linkAt port s).relays.any (fun t => t.sid == sid) || (allLegs s).any fun l => l.tx.any fun t => t.port == port && t.sid == sid && t.from_.isSome
  116 * (512 - ((linkAt port s).txq.flatten.filter fun f => f.kind == 1 && forwards f.step).length)

/-- Forward a stream verbatim into a step, as far as the forwarding buffer has room. -/
def forwardAll (port tag : Nat) (st : Stream) (t : TxStep) (vc : Nat) (put : TxStep → State → State) (s : State) : State :=
  let n := forwardRoom t.port s - t.buf.length
  let notes := sentNotes t (stepByte t) (fwdByte st) (min n st.fwd.length)
  let (t, s) := feedStep t vc t.group 0 (st.fwd.take n) (st.last && decide (st.fwd.length ≤ n)) s
  setFwd port tag (st.fwd.drop n) notes (put t s)

/-- The whole chunks at the head of an ALLTOALL stream that can go on, with the length of each and whether it is for another position, and what is left: chunks for this position are passed over, and those for others go as many as have come and have room. -/
def transitHead (pos : Nat) : Nat → Nat → Bool → List Byte → List (Nat × Bool) × List Byte
  | 0, _, _, b => ([], b)
  | f + 1, room, last, b =>
    match headHdr b with
    | none => ([], if last then [] else b)
    | some h =>
      let n := chunkBytes h
      let on := h.piece != pos
      if b.length < n || (on && decide (room < n)) then ([], b)
      else
        let (x, r) := transitHead pos f (if on then room - n else room) last (b.drop n)
        ((n, on) :: x, r)

/-- The bytes of those chunks that go on. -/
def transitBytes : List (Nat × Bool) → List Byte → List Byte
  | [], _ => []
  | (n, on) :: r, b => (if on then b.take n else []) ++ transitBytes r (b.drop n)

/-- What the flits of those chunks wait for. -/
def transitNotes (t : TxStep) : Nat → Nat → List (Nat × Bool) → List (Nat × Delivery)
  | _, _, [] => []
  | p, a, (n, on) :: r => if on then sentNotes t p a n ++ transitNotes t (p + n) (a + n) r else transitNotes t p (a + n) r

/-- An ALLTOALL stream's chunks for other positions go on in VC2. -/
def forwardTransit (port tag out pos : Nat) (st : Stream) (h : ChunkHdr) (s : State) : State :=
  let old := match findRelay port tag out s with | some t => t.buf.length | none => 0
  let (x, rest) := transitHead pos (st.fwd.length / 20 + 1) (forwardRoom out s - old) st.last st.fwd
  let b := transitBytes x st.fwd
  let fin := st.last && rest.isEmpty
  if b.isEmpty && (findRelay port tag out s).isNone then setFwd port tag rest [] s
  else match relayFor false port tag out h s with
    | none => s
    | some (t, s) =>
      let notes := transitNotes t (stepByte t) (fwdByte st) x
      let (t, s) := feedStep t 2 t.group 0 b fin s
      setFwd port tag rest notes (putRelay out t s)

/-- The leg's step that forwards a stream. -/
def legForward (port tag : Nat) (s : State) : Option (Op × TxStep) :=
  s.ops.findSome? fun o => match o.leg with
    | none => none
    | some g => (g.tx.find? fun t => t.from_ == some (port, tag)).map fun t => (o, t)

/-- A relay step of this stream on any port. -/
def anyRelay (port tag : Nat) (s : State) : Option TxStep := s.links.findSome? fun x => x.2.relays.find? fun t => t.from_ == some (port, tag)

/-- A stream that is to go no further: its relay step, if one is open, ends. -/
def forwardDrop (port tag : Nat) (s : State) : State :=
  let s := match anyRelay port tag s with
    | some t => if t.lastQueued then s else let (t, s) := feedStep t 2 t.group 0 [] true s; putRelay t.port t s
    | none => s
  match streamAt port tag s with
  | none => s
  | some st => settleStream port tag (setStream port tag (some { st with onward := false, fwd := [] }) s)

/-- An ALLTOALL stream of a leg that this chip runs: what is for others goes on; a stream of an earlier attempt, or of a leg that has ended here, goes no further. -/
def transitApply (port tag : Nat) (st : Stream) (s : State) : State :=
  match headHdr st.fwd with
  | none => if st.last then forwardDrop port tag s else s
  | some h =>
    match legOp h.tgroup h.seq s, sendPort (groupAt h.tgroup s) h.rev s with
    | some (o, g), some out =>
      if !runs o || g.recallAt.isSome then s
      else if g.markers.contains (chanKey port st.vc) then forwardDrop port tag s
      else forwardTransit port tag out g.pos st h s
    | _, _ => if legPast h.tgroup h.seq s then forwardDrop port tag s else s

def chunkForwardApply (port tag cyc : Nat) (s : State) : State :=
  if !alive s then s
  else match streamAt port tag s with
    | none => s
    | some st =>
      if !st.onward || st.fwd.isEmpty || stamp cyc s < st.firstAt + 12 || behindMarker port tag s then s
      else match legForward port tag s with
        | some (o, t) =>
          if t.lastQueued || !runs o then s
          else forwardAll port tag st t (dataVc (groupAt t.group s) t.reverse s) (fun t => setLeg o.id (putTx t)) s
        | none =>
          match anyRelay port tag s with
          | some t => if relayMark ≤ t.step then (if t.lastQueued then s else forwardAll port tag st t 2 (putRelay t.port) s) else transitApply port tag st s
          | none =>
            match headHdr st.fwd with
            | none => s
            | some h =>
              match routeOf port h.tgroup h.rev s with
              | .relay out =>
                if (linkAt out s).state != 2 then forwardDrop port tag s
                else (match relayFor true port tag out h s with
                 | some (t, s) => forwardAll port tag st t 2 (putRelay out) s
                 | none => s)
              | .ring => if h.kind = kA2A then transitApply port tag st s else s
              | .none => s

/-! ### Ends of steps (R285, R293) -/

/-- The link has acknowledged the step's last flit. -/
def stepOver (t : TxStep) (s : State) : Bool := t.lastQueued && !stepHasFlits t.port t.sid s

def ringStepEndApply (port tag : Nat) (s : State) : State :=
  if !alive s then s
  else
    let isOver := fun t : TxStep => t.port == port && stepTag t.sid (linkAt port s) == some tag && stepOver t s
    let l := linkAt port s
    let s' := if l.relays.any isOver then setLink port { l with relays := l.relays.filter fun t => !isOver t } s else s
    { s' with ops := s'.ops.map fun o => match o.leg with
        | some g => if g.tx.any isOver then { o with leg := some { g with tx := g.tx.filter fun t => !isOver t }, progress := true } else o
        | none => o }

/-! ### Recalls (R347) -/

/-- A chip that has just heard of a recall passes it on. -/
def recallHeard (id : OpId) (g : Leg) (code : BitVec 8) (s : State) : State :=
  if g.recallAt.isSome then s
  else floodRecall g code (setLeg id (fun g => { g with recallAt := some code, notBefore := s.clock.transit + 1 }) s)

/-- Streams of the leg that came on a channel before its marker are dropped. -/
def dropLegStreams (port vc : Nat) (g : Leg) (serial : Nat) (s : State) : State :=
  (linkAt port s).streams.foldl (fun s x =>
    match x.2 with
    | none => s
    | some st =>
      let old := ((linkAt port s).undel.any fun u => u.2.2 == x.1 && decide (u.1 ≤ serial)) || st.flits == st.freed
      match headHdr st.bytes with
      | some h =>
        if st.vc == vc && old && h.tgroup == g.tgroup && h.seq == g.seq then
          forwardDrop port x.1 (setStream port x.1 (some { st with bytes := [], last := true }) s)
        else s
      | none => s) s

/-- A RECALL message (R302, R347). -/
def recallMsgApply (port : Nat) (m : CtlMsg) (s : State) : State :=
  let p := m.payload
  let tg := (p.getD 1 0#8).toNat
  let seq : BitVec 16 := BitVec.ofNat 16 (leNat (sliceB p 2 2))
  let code := p.getD 4 0#8
  let vc := m.vc
  match legOp tg seq s with
  | none => s
  | some (o, g) =>
    if vc = 3 then
      if g.recallEcho.contains port then setLeg o.id (fun g => { g with recallEcho := g.recallEcho.filter (· != port) }) s
      else recallHeard o.id g code (setLeg o.id (fun g => { g with recallFrom := g.recallFrom ++ [port] }) s)
    else
      let key := chanKey port vc
      if g.markers.contains key then
        dropLegStreams port vc g m.serial (setLeg o.id (fun g => { g with markers := g.markers.filter (· != key) }) s)
      else
        recallHeard o.id g code (dropLegStreams port vc g m.serial (setLeg o.id (fun g => { g with marked := g.marked ++ [key] }) s))

/-- The marker of a relayed closing hop goes on, behind every earlier flit of its channel (R276, R347). -/
def relayMarker (port : Nat) (m : CtlMsg) (s : State) : Option Nat :=
  let tg := (m.payload.getD 1 0#8).toNat
  if m.vc != 2 then none
  else match routeOf port tg false s, routeOf port tg true s with
    | .ring, _ => none
    | _, .ring => none
    | .relay q, _ => some q
    | _, .relay q => some q
    | _, _ => none

def recallReceive (port : Nat) (s : State) : State :=
  if !alive s then s
  else
    let l := linkAt port s
    match takeCtl 0x04#8 l.rxCtl with
    | none => s
    | some (m, rest) =>
      match relayMarker port m s with
      | some q =>
        if l.undel.any fun u => u.2.1 == 2 && decide (u.1 ≤ m.serial) then s
        else queueFlit q 2 (ctlFlit m.payload) (setLink port { l with rxCtl := rest } s)
      | none => recallMsgApply port m (setLink port { l with rxCtl := rest } s)

/-! ### Remote ADDs wait for data (R317, R318) -/

/-- The beats [first, last) of an output's main stream that hold the part. -/
def partBeats (o : Op) (l : Ledger) (g : Leg) (h : OutPart) : Nat × Nat :=
  let f := outFmtOf o
  let b := perBeat f
  if dOp o.d == oALLTOALL then
    let base := a2aEntry g h.piece 2 / b
    if fmtScaled f then (base, base + a2aEntry g h.piece 3 / b) else (base + h.lo / 64, base + ceilDiv h.hi 64)
  else
    let r := halfRange o l g h.piece h.reverse
    if plainOut o l then ((r.1 + h.lo * 8 / fmtWidth f) / b, ceilDiv (min r.2 (r.1 + ceilDiv (h.hi * 8) (fmtWidth f))) b) else (r.1 / b, ceilDiv r.2 b)

/-- Bytes that have come of the image that a part belongs to; none where a recall has dropped it. -/
def partCome (o : Op) (g : Leg) (h : OutPart) : Nat :=
  let k := halfKey h.piece h.reverse
  max (halfImg g (partKey k)).length (if dOp o.d == oALLTOALL then 0 else (halfImg g k).length)

/-- No PATCH beat with an offset in [lo, hi) waits. -/
def noPatch (o : Op) (lo hi : Nat) : Bool := !(o.down.any fun x => x.kind == kPATCH && decide (lo ≤ x.offset ∧ x.offset < hi))

/-- The patch entries of a half have been presented. -/
def entriesShown (o : Op) (l : Ledger) (g : Leg) (p : Nat) (rev : Bool) : Bool :=
  let mine := (halfPatch o l g p rev).length
  let first := if rev then (halfPatch o l g p false).length else 0
  let start := patchStart l.count g.n p + 1
  !legDecided o l || mine = 0 || ((!rev || halfHere o l g p false) && decide (ceilDiv (first + mine) 64 ≤ tget 0 (entryUnit p) g.beatsOut)
    && noPatch o (start + first / 64) (start + ceilDiv (first + mine) 64))

/-- A part of an output has been presented, or is gone: the crier has had all of its beats and keeps none. -/
def partShown (h : OutPart) (s : State) : Bool :=
  match opAt h.op s with
  | none => true
  | some o =>
    match o.leg with
    | none => true
    | some g =>
      let l := ledgerAt (dLedger o.d) s
      if h.hi = h.lo then
        let start := patchStart l.count g.n h.piece
        (tget [] h.piece g.stats).isEmpty || (g.delivered.contains h.piece && noPatch o start (start + 1))
      else if partCome o g h < h.hi then true
      else if isSelect (dOp o.d) then o.eg.ended && o.down.isEmpty
      else
        let r := partBeats o l g h
        let here := fun n => decide (r.1 ≤ n ∧ n < r.2)
        !(comeBeats o s).any here && !(o.down.any fun x => x.kind != kPATCH && here x.offset) && entriesShown o l g h.piece h.reverse

/-- The flits of a step that a port has queued and not sent. -/
def flitsLeft (port sid : Nat) (s : State) : Nat := ((linkAt port s).txq.flatten.filter fun f => f.kind == 1 && f.step == sid).length

/-- A flit's data has been delivered (R317); a step that has ended sends no more than what is queued. -/
def deliveredBy (s : State) : Delivery → Bool
  | .shown h => partShown h s
  | .sent port sid upto =>
    match ((linkAt port s).relays ++ (allLegs s).flatMap fun g => g.tx).find? fun t => t.port == port && t.sid == sid with
    | none => flitsLeft port sid s == 0
    | some t => decide (upto + flitsLeft port sid s ≤ t.flits)

/-- A path that a remote ADD waits for has drained. -/
def pathDrained (s : State) : Path → Bool
  | .channel p vc n => let l := linkAt p s; !(l.undel.any fun u => u.2.1 == vc && decide (u.1 ≤ n)) && !(l.showing.any fun x => x.vc == vc && decide (x.serial ≤ n))
  | .port p n => let l := linkAt p s; !(l.undel.any fun u => decide (u.1 ≤ n)) && !(l.showing.any fun x => decide (x.serial ≤ n))
  | .plane p n => !(s.ops.any fun o => o.down.any fun b => b.plane == p && decide (b.serial ≤ n))

/-- As a transit begins: what has been presented or sent is delivered, and the oldest remote ADD of each port is ready where all its paths have drained (R317, R330). -/
def addsEdge (s : State) : State :=
  let s := s.links.foldl (fun s p => if p.2.showing.isEmpty then s else setLink p.1 { p.2 with showing := p.2.showing.filter fun x => !deliveredBy s x.how } s) s
  let s := s.links.foldl (fun s p => match p.2.adds with
    | [] => s
    | a :: rest => setLink p.1 { p.2 with adds := { a with ready := a.waits.all (pathDrained s) } :: rest } s) s
  { s with clock := { s.clock with addsHeld := addsPending s } }

/-! ### The verdict of a leg (R305) -/

/-- Every chunk that this chip was to receive has come. -/
def legReceived (o : Op) (l : Ledger) (g : Leg) : Bool :=
  let ps := List.range g.n
  if dOp o.d == oALLTOALL then ps.all fun j => a2aEntry g j 3 == 0 || g.delivered.contains j
  else if isSelect (dOp o.d) then ps.all fun p => !(halfImg g (halfKey p false)).isEmpty
  else
    (!isClosing (dOp o.d) || (legDirs g).all fun rev => ((List.range (g.n - 1)).map (· + 1)).all fun st => decide (rsChunks o l g (rsIn g.pos st g.n rev) rev ≤ tget 0 (gotKey rev st) g.got))
      && (if dOp o.d == oREDUCE_SCATTER then !legStats o l || ps.all fun p => !(tget [] p g.stats).isEmpty else ps.all (pieceHere o l g))

/-- Every step that this chip was to send has started. -/
def legSent (o : Op) (l : Ledger) (g : Leg) : Bool :=
  let ts := (List.range (g.n - 1)).map (· + 1)
  (legDirs g).all fun rev =>
    if dOp o.d == oALLTOALL then (a2aPieces g rev).isEmpty || stepStarted g rev 1
    else
      (!isClosing (dOp o.d) || ts.all fun st => rsChunks o l g (rsOut g.pos st g.n rev) rev == 0 || stepStarted g rev st)
        && ts.all fun t => !lapCarries o l g (agOut g.pos t g.n rev) rev || stepStarted g rev (lapKey g.relap (lapStart (dOp o.d) g.n + t - 1))

def verdictPassApply (tg : Nat) (seq : BitVec 16) (s : State) : State :=
  match legOp tg seq s with
  | none => s
  | some (o, g) =>
    let l := ledgerAt (dLedger o.d) s
    if !alive s || !runs o || o.claim != .claimed || g.n ≤ 1 || g.recallAt.isSome || egHeld o || (o.eg.spec && o.eg.trueAU.isNone) || !g.tx.isEmpty
        || s.links.any (fun x => x.2.relays.any fun t => t.group == tg && t.seq == seq) || !legReceived o l g || !legSent o l g then s
    else verdictPassNow tg seq g.attempt s

/-! ### The commands -/

def execRingStepStart (op : OpId) (reverse : Bool) (step cyc : Nat) (s : State) : Answer :=
  .next (inTransit (.ringStepStart op reverse step cyc) (ringStepApply op reverse step) s)
def execStatisticsLap (op : OpId) (cyc : Nat) (s : State) : Answer := .next (inTransit (.statisticsLap op cyc) (statsLapApply op) s)
def execRingChunkReceive (port tag cyc : Nat) (s : State) : Answer := onPort port (.ringChunkReceive port tag cyc) (ringChunkApply port tag cyc) s
def execChunkForward (port tag cyc : Nat) (s : State) : Answer := onPort port (.chunkForward port tag cyc) (chunkForwardApply port tag cyc) s
def execRingStepEnd (port tag : Nat) (s : State) : Answer := onPort port (.ringStepEnd port tag) (ringStepEndApply port tag) s
def execRecallMsgReceive (port cyc : Nat) (s : State) : Answer := onPort port (.recallMsgReceive port cyc) (recallReceive port) s
def execVerdictPass (tgroup : Nat) (legSeq : BitVec 16) (s : State) : Answer :=
  .next (inTransit (.verdictPass tgroup legSeq) (verdictPassApply tgroup legSeq) s)

end Sys2Proof.Machine
end

