-- ==== Sys2Proof/Machine/Link.lean ====
section
/-! DEFINITION. The link layer of a ring port: flits and their check, sequencing and replay, credits, the choice of the next flit, training, and a link that goes DOWN (R53 to R56, R73, R74, R292 to R303, R306, R320, R429 to R431, R451). -/

namespace Sys2Proof.Machine

/-! ### The flit (R292, R294) -/

def fkNULL : Nat := 0
def fkDATA : Nat := 1
def fkCONTROL : Nat := 2
def fkHEARTBEAT : Nat := 3

/-- The header's fields. -/
structure FlitHdr where
  kind : Nat
  vc : Nat
  seq : Nat
  ack : Nat
  ackEn : Bool
  nak : Bool
  crVc : Nat
  crCnt : Nat
  tag : Nat
  last : Bool
  deriving DecidableEq, Repr, Inhabited

def flitHdr (h : FlitHdr) : Nat :=
  h.kind + h.vc <<< 4 + h.seq <<< 6 + h.ack <<< 18 + boolNat h.ackEn <<< 30 + boolNat h.nak <<< 31 + h.crVc <<< 32 + h.crCnt <<< 34 + h.tag <<< 42
    + boolNat h.last <<< 54

def flitHdrOf (x : Nat) : FlitHdr :=
  { kind := bitsAt x 0 4, vc := bitsAt x 4 2, seq := bitsAt x 6 12, ack := bitsAt x 18 12, ackEn := x.testBit 30, nak := x.testBit 31, crVc := bitsAt x 32 2
    crCnt := bitsAt x 34 8, tag := bitsAt x 42 12, last := x.testBit 54 }

/-- The 128 bytes of a flit: header, payload, link check. -/
def flitImage (h : FlitHdr) (payload : List Byte) : List Byte :=
  let b := leBytes 8 (flitHdr h) ++ sliceB payload 0 116
  b ++ leBytes 4 (crc32Link b).toNat

/-- A received flit passes its link check (R55, R294). -/
def flitGood (bytes : List Byte) (symErr : Bool) : Bool :=
  !symErr && leNat (sliceB bytes 124 4) == (crc32Link (bytes.take 124)).toNat

/-! ### Small operations on a link -/

def modLink (port : Nat) (f : Link → Link) (s : State) : State := setLink port (f (linkAt port s)) s

/-- What LINK_STATE shows of a link (R430). -/
def linkShown (l : Link) : Nat × Bool × Bool × BitVec 8 := (l.state, l.phyEnable, l.phyLocked, l.cause)

/-- A change of LINK_STATE raises the page's cause 0 (R426). -/
def changeLink (port : Nat) (f : Link → Link) (s : State) : State :=
  let s' := modLink port f s
  if linkShown (linkAt port s) = linkShown (linkAt port s') then s' else irq (pRING port) 0 s'

/-- The link is UP and no cause of going DOWN stands. -/
def linkRuns (port : Nat) (s : State) : Bool := alive s && (linkAt port s).state == 2 && (linkAt port s).dying == 0#8

/-- A cause of going DOWN is noted for class 2 of the next transit (R306). -/
def linkDies (port : Nat) (code : BitVec 8) (s : State) : State :=
  modLink port (fun l => if l.state = 0 ∨ l.dying ≠ 0#8 then l else { l with dying := code }) s

/-- The bytes of a received flit, lowest first. -/
def flitBytesOf (flit : BitVec 1024) : List Byte := (List.range 128).map fun i => flit.extractLsb' (8 * i) 8

/-! ### Acknowledgement, replay and credits (R295, R296, R298) -/

/-- What is left of the replay buffer after an ACK. -/
def afterAck (ack : Nat) (l : List Sent) : List Sent :=
  if l.any (fun x => x.seq == ack) then (l.dropWhile fun x => x.seq != ack).drop 1 else l

/-- An ACK: covered flits leave the replay buffer, and a replay ends when none of its flits is unacknowledged (R338). -/
def ackApply (port ack : Nat) (s : State) : State :=
  let l := linkAt port s
  let rest := afterAck ack l.replay
  let still := l.replaying && rest.any fun x => decide (0 < x.attempts)
  let s := setLink port { l with replay := rest, retx := l.retx.filter (fun q => rest.any fun x => x.seq == q), replaying := still } s
  if l.replaying && !still then closeSourceChain (ringSource port) s else s

/-- Returned credits; a return above what was advertised is a protocol error. -/
def creditApply (port vc cnt : Nat) (s : State) : State :=
  let l := linkAt port s
  let c := l.credit.getD vc 0 + cnt
  if l.creditMax.getD vc 0 < c then linkDies port 0x23#8 s else setLink port { l with credit := l.credit.set vc c } s

/-- A replay attempt of every unacknowledged flit, from the oldest; a ninth takes the link DOWN. -/
def replayAttempt (port : Nat) (s : State) : State :=
  let l := linkAt port s
  if l.replay.isEmpty then s
  else if l.replay.any fun x => decide (8 ≤ x.attempts) then linkDies port 0x22#8 s
  else
    let s := count (rREPLAYS port) 1 s
    let s := if l.replay.any fun x => x.attempts == 0 then find_ (.retry port) s else s
    setLink port { l with replay := l.replay.map (fun x => { x with attempts := x.attempts + 1 }), retx := l.replay.map (fun x => x.seq), replaying := true } s

/-- NAK is owed, once, until the expected flit comes. -/
def nakDue (port : Nat) (s : State) : State :=
  modLink port (fun l => if l.discarding then l else { l with discarding := true, nakOwed := true }) s

/-! ### Reception (R54, R55, R294, R295) -/

/-- The leg of a stream has made progress (R348). -/
def streamProgress (port tag : Nat) (s : State) : State :=
  match streamAt port tag s with
  | none => s
  | some st => match headHdr st.bytes with
    | some h => legProgress h.tgroup h.seq s
    | none => s

/-- The key of the stream that a flit of a tag belongs to: the stream of the tag that has not ended; else a new one, whose key is the tag, or the tag plus a multiple of 4,096 while ended streams of the tag are still in the buffers (R293). -/
def streamKey (tag : Nat) (l : Link) : Nat :=
  match l.streams.find? fun x => x.1 % 4096 == tag && x.2.any (fun v => !v.last) with
  | some x => x.1
  | none => ((List.range (l.streams.length + 1)).map fun i => tag + 4096 * i).find? (fun k => (tget none k l.streams).isNone) |>.getD tag

/-- An accepted DATA flit enters its tag's stream. -/
def dataAccept (port : Nat) (h : FlitHdr) (payload : List Byte) (t : Nat) (s : State) : State :=
  let l := linkAt port s
  let key := streamKey h.tag l
  let st := (tget none key l.streams).getD ⟨h.vc, [], [], true, 0, 0, false, t, []⟩
  let st := { st with bytes := st.bytes ++ payload, fwd := if st.onward then st.fwd ++ payload else st.fwd, flits := st.flits + 1, last := h.last }
  let n := l.rxSerial + 1
  streamProgress port key (setLink port { l with rxSerial := n, undel := l.undel ++ [(n, h.vc, key)], rxOccupied := l.rxOccupied.set h.vc (l.rxOccupied.getD h.vc 0 + 1), streams := tset none key (some st) l.streams } s)

/-- An accepted CONTROL flit; a reserved message is a protocol error (R302). Its buffer space is free at once. This is a remote ADD's sequence point (R317). -/
def ctlAccept (port : Nat) (h : FlitHdr) (payload : List Byte) (s : State) : State :=
  let ty := (payload.headD 0#8).toNat
  if ty = 0 ∨ 4 < ty then linkDies port 0x23#8 s
  else
    let waits := if ty = 1 then addWaits port h.vc payload s else []
    modLink port (fun l => { l with rxCtl := l.rxCtl ++ [⟨h.vc, l.rxSerial, payload, waits⟩], owed := l.owed.set h.vc (l.owed.getD h.vc 0 + 1) }) s

/-- A sequenced flit: accepted in order and with credit, else discarded. -/
def sequenced (port : Nat) (h : FlitHdr) (payload : List Byte) (t : Nat) (s : State) : State :=
  let l := linkAt port s
  if h.seq ≠ (l.rxSeq + 1) % 4096 then nakDue port s
  else if l.advertised.getD h.vc 0 ≤ l.rxOccupied.getD h.vc 0 + l.owed.getD h.vc 0 then linkDies port 0x23#8 s
  else
    let s := setLink port { l with rxSeq := h.seq, discarding := false, ackOwed := true } s
    if h.kind = fkDATA then dataAccept port h payload t s else ctlAccept port h payload s

/-- A received flit: its check, then ACK, credits and sequencing while the link is UP (R292 to R298). -/
def flitApply (port : Nat) (flit : BitVec 1024) (symErr : Bool) (cyc : Nat) (s : State) : State :=
  let l := linkAt port s
  if !alive s || l.state == 0 || l.dying != 0#8 then s
  else
    let b := flitBytesOf flit
    if !flitGood b symErr then
      let s := count (rLINK_CHECK_FAIL port) 1 s
      if l.state = 2 then nakDue port s else s
    else
      let s := setReg64 (rRX_FLITS port) (reg64 (rRX_FLITS port) s + 1) (setLink port { l with lastGood := stamp cyc s } s)
      if l.state ≠ 2 then s
      else
        let h := flitHdrOf (leNat (b.take 8))
        let s := if h.ackEn || h.nak then ackApply port h.ack s else s
        let s := if h.nak then modLink port (fun l => { l with nakSeen := true }) s else s
        let s := creditApply port h.crVc h.crCnt s
        if (linkAt port s).dying ≠ 0#8 then s
        else if h.kind = fkDATA ∨ h.kind = fkCONTROL then sequenced port h (sliceB b 8 116) (stamp cyc s) s
        else s

/-- A received NAK starts a replay attempt (R296). -/
def nakApply (port : Nat) (s : State) : State :=
  if linkRuns port s && (linkAt port s).nakSeen then replayAttempt port (modLink port (fun l => { l with nakSeen := false }) s) else s

/-- 2,048 cycles after the last transmission of the oldest unacknowledged flit a replay attempt starts (R296). -/
def replayTimeoutApply (port cyc : Nat) (s : State) : State :=
  match (linkAt port s).replay with
  | [] => s
  | x :: _ => if linkRuns port s && decide (x.sentAt + 2048 ≤ stamp cyc s) then replayAttempt port s else s

/-! ### The choice of the next flit (R300, R301) -/

/-- A channel is within its cap: fewer flits than that in the last 256 cycles. -/
def withinCap (port vc t : Nat) (s : State) : Bool :=
  decide (((linkAt port s).sentLog.filter fun x => x.2 == vc && decide (t < x.1 + 256)).length < (linkAt port s).cap.getD vc 0)

/-- A new flit of a channel may leave: it has one, a credit, room in the replay buffer, and its cap. -/
def vcReady (port vc t : Nat) (s : State) : Bool :=
  let l := linkAt port s
  !(l.txq.getD vc []).isEmpty && decide (0 < l.credit.getD vc 0) && decide (l.replay.length < 2048) && withinCap port vc t s

/-- The candidates of a channel: the DATA flits ahead of its first CONTROL flit, which nothing passes; one of each step. -/
def rrSteps (q : List TxFlit) : List (Nat × Nat) := ((q.takeWhile fun f => f.kind == fkDATA).map fun f => (f.group, f.step)).eraseDups

/-- The next number above the last one served, cyclically. -/
def nextAfter (last : Nat) (l : List Nat) : Nat :=
  let up := l.filter fun x => decide (last < x)
  ((if up.isEmpty then l else up).min?).getD 0

/-- Keys of the turns kept in `groupRr`: the last DEDICATED step of a channel, the last SHARED group, what a group has left of its round, its last step. All are kept plus one; 0 means none. -/
def rrDedicated (vc : Nat) : Nat := 1024 * vc
def rrGroup (vc : Nat) : Nat := 1024 * vc + 1
def rrLeft (vc g : Nat) : Nat := 1024 * vc + 256 + g
def rrTag (vc g : Nat) : Nat := 1024 * vc + 512 + g

/-- The next of some numbers in round robin; the turn is noted under a key. -/
def rrPick (key : Nat) (l : List Nat) (t : Table Nat) : Nat × Table Nat :=
  let n := (nextAfter (tget 0 key t) (l.map (· + 1))) - 1
  (n, tset 0 key (n + 1) t)

/-- SHARED groups in weighted round robin: a group sends up to WEIGHT flits before the turn passes. -/
def sharedPick (vc : Nat) (groups : List Nat) (weight : Nat → Nat) (t : Table Nat) : Nat × Table Nat :=
  let cur := tget 0 (rrGroup vc) t
  let left := tget 0 (rrLeft vc (cur - 1)) t
  if cur ≠ 0 ∧ groups.contains (cur - 1) = true ∧ 0 < left then (cur - 1, tset 0 (rrLeft vc (cur - 1)) (left - 1) t)
  else
    let (g, t) := rrPick (rrGroup vc) groups t
    (g, tset 0 (rrLeft vc g) (max 1 (weight g) - 1) t)

/-- The step whose flit channel 0 or 1 sends next; none where a CONTROL flit stands at the head. -/
def pickStep (vc : Nat) (q : List TxFlit) (t : Table Nat) (s : State) : Option Nat × Table Nat :=
  let cs := rrSteps q
  if cs.isEmpty then (none, t)
  else
    let ded := cs.filter fun c => !gShared (groupAt c.1 s)
    if !ded.isEmpty then
      let (x, t) := rrPick (rrDedicated vc) (ded.map Prod.snd) t
      (some x, t)
    else
      let (g, t) := sharedPick vc (cs.map Prod.fst).eraseDups (fun g => gWeight (groupAt g s)) t
      let (x, t) := rrPick (rrTag vc g) ((cs.filter fun c => c.1 == g).map Prod.snd) t
      (some x, t)

/-- Take the first flit that satisfies a test out of a queue. -/
def takeFlit (f : TxFlit → Bool) : List TxFlit → Option (TxFlit × List TxFlit)
  | [] => none
  | x :: xs => if f x then some (x, xs) else match takeFlit f xs with
    | none => none
    | some (y, r) => some (y, x :: r)

/-- The next flit of a channel leaves its queue. -/
def takeFrom (port vc : Nat) (s : State) : Option (TxFlit × State) :=
  let l := linkAt port s
  let q := l.txq.getD vc []
  let (sid, rr) := if vc < 2 then pickStep vc q l.groupRr s else (none, l.groupRr)
  match takeFlit (fun f => match sid with | some x => f.kind == fkDATA && f.step == x | none => true) q with
  | none => none
  | some (f, rest) => some (f, setLink port { l with txq := l.txq.set vc rest, groupRr := rr } s)

/-- Channels 0 to 2 in weighted round robin: the first that may send and has something left of its round; a new round where none has. -/
def pickVc (port t : Nat) (s : State) : Option (Nat × List Nat) :=
  let ready := (List.range 3).filter fun v => vcReady port v t s
  let rr := (linkAt port s).rr
  match ready.find? fun v => decide (0 < rr.getD v 0) with
  | some v => some (v, rr.set v (rr.getD v 0 - 1))
  | none =>
    match ready with
    | [] => none
    | v :: _ =>
      let new := (linkAt port s).weight
      some (v, new.set v (new.getD v 0 - 1))

/-! ### Sending -/

/-- The channel whose credits a flit returns: the one that owes most. -/
def oweVc (owed : List Nat) : Nat := (List.range 4).foldl (fun b v => if owed.getD b 0 < owed.getD v 0 then v else b) 0

/-- One frame leaves: it carries the owed acknowledgement, NAK and credits of one channel (R292, R295, R298). -/
def sendFrame (port kind vc seq tag : Nat) (last : Bool) (payload : List Byte) (t : Nat) (s : State) : State :=
  let l := linkAt port s
  let v := oweVc l.owed
  let n := min 255 (l.owed.getD v 0)
  let h : FlitHdr := ⟨kind, vc, seq, l.rxSeq, l.ackOwed || l.nakOwed, l.nakOwed, v, n, tag, last⟩
  let bad := (kind == fkDATA || kind == fkCONTROL) && injects 4 port s
  let img := flitImage h payload
  let s := if bad then fireInjection s else s
  frameOut port t (.flit port (if bad then invert4 124 img else img)) (setLink port { l with ackOwed := false, nakOwed := false, owed := l.owed.set v (l.owed.getD v 0 - n) } s)

/-- The operation of a step that sends a flit makes progress (R348). -/
def txProgress (port sid : Nat) (s : State) : State :=
  { s with ops := s.ops.map fun o => match o.leg with
      | some g => if g.tx.any fun x => x.port == port && x.sid == sid then { o with progress := true } else o
      | none => o }

/-- A sequenced flit leaves, new or again; it counts toward its channel's cap. A DATA flit bears its step's tag. -/
def sendSequenced (port vc seq t : Nat) (f : TxFlit) (s : State) : State :=
  let s := if f.kind = fkDATA then takeTag port f.step s else s
  let s := sendFrame port f.kind vc seq (if f.kind = fkDATA then (stepTag f.step (linkAt port s)).getD 0 else 0) f.last f.payload t s
  let s := modLink port (fun l => { l with sentLog := (l.sentLog.filter fun x => decide (t < x.1 + 256)) ++ [(t, vc)] }) s
  if f.kind = fkDATA then txProgress port f.step s else s

/-- A new flit: it takes a sequence number and a credit, and stays in the replay buffer. -/
def sendNew (port vc t : Nat) (s : State) : State :=
  match takeFrom port vc s with
  | none => s
  | some (f, s) =>
    let l := linkAt port s
    let q := l.txSeq
    sendSequenced port vc q t f (setLink port { l with txSeq := (q + 1) % 4096, credit := l.credit.set vc (l.credit.getD vc 0 - 1), replay := l.replay ++ [⟨q, vc, f, 0, t⟩] } s)

/-- The oldest flit still to be retransmitted. -/
def sendAgain (port t : Nat) (s : State) : State :=
  let l := linkAt port s
  match l.retx with
  | [] => s
  | q :: rest =>
    match l.replay.find? fun x => x.seq == q with
    | none => setLink port { l with retx := rest } s
    | some x =>
      sendSequenced port x.vc q t x.body (setLink port { l with retx := rest, replay := l.replay.map (fun y => if y.seq = q then { y with sentAt := t } else y) } s)

/-- R56: no frame for 512 cycles. -/
def heartbeatDue (port t : Nat) (s : State) : Bool := decide ((linkAt port s).lastTx + 511 ≤ t)

/-- R295: an acknowledgement waits and no flit has left for 64 cycles, or a NAK waits. -/
def nullDue (port t : Nat) (s : State) : Bool :=
  let l := linkAt port s
  l.nakOwed || (l.ackOwed && decide (l.lastTx + 63 ≤ t))

def sendHeartbeat (port t : Nat) (s : State) : State := sendFrame port fkHEARTBEAT 0 0 0 false [] t s
def sendNull (port t : Nat) (s : State) : State := sendFrame port fkNULL 0 0 0 false [] t s

/-- A port that may send in this cycle: one flit a cycle (R300). -/
def txFree (port cyc : Nat) (s : State) : Bool := linkRuns port s && decide ((linkAt port s).lastTx ≤ stamp cyc s)

/-- A retransmission waits and its channel is within its cap (R300). -/
def retxReady (port t : Nat) (s : State) : Bool :=
  let l := linkAt port s
  match l.retx with
  | [] => false
  | q :: _ => match l.replay.find? fun x => x.seq == q with
    | none => true
    | some x => withinCap port x.vc t s

/-- Some flit of the first three choices can leave. -/
def txWork (port t : Nat) (s : State) : Bool := retxReady port t s || (List.range 4).any fun v => vcReady port v t s

/-- One cycle with RING_TX_READY high (R300). -/
def transmitApply (port cyc : Nat) (s : State) : State :=
  if !txFree port cyc s then s
  else
    let t := stamp cyc s
    if retxReady port t s then sendAgain port t s
    else if vcReady port 3 t s then sendNew port 3 t s
    else match pickVc port t s with
      | some (v, rr) => sendNew port v t (modLink port (fun l => { l with rr := rr }) s)
      | none => if heartbeatDue port t s then sendHeartbeat port t s else if nullDue port t s then sendNull port t s else s

def heartbeatApply (port cyc : Nat) (s : State) : State :=
  let t := stamp cyc s
  if txFree port cyc s && !txWork port t s && heartbeatDue port t s then sendHeartbeat port t s else s

def nullApply (port cyc : Nat) (s : State) : State :=
  let t := stamp cyc s
  if txFree port cyc s && !txWork port t s && nullDue port t s then sendNull port t s else s

/-! ### Going DOWN (R73, R74, R306, R320, R451) -/

/-- Every definition whose hops or relays on this chip use the port becomes FENCED. -/
def fenceGroups (port : Nat) (s : State) : State :=
  s.groups.foldl (fun s x =>
    if gValid x.2 && gMember x.2 s && (groupPorts x.2 s).contains (some port) && !x.2.fenced then irq pTOPOLOGY 0 (setGroup x.1 { x.2 with fenced := true } s)
    else s) s

/-- Operations with an active leg on a fenced definition. -/
def fencedOps (s : State) : List OpId :=
  (s.ops.filter fun o => o.fail.isNone && match o.leg with | some g => (groupAt g.tgroup s).fenced | none => false).map fun o => o.id

/-- The loss faults at least one ledger (R451). -/
def faultsLedger (s : State) : Bool :=
  (fencedOps s).any fun id => match opAt id s with | some o => holds o s | none => false

def strikeLegs (code : BitVec 8) (s : State) : State :=
  (fencedOps s).foldl (fun s id => withOp id (fun o s => if holds o s then ledgerFatalNow (dLedger o.d) code s else opFail id code.toNat s) s) s

/-- Steps of other ports that a stream of this port feeds end on the wire; a stream that a relay on this port sends onward goes no further. -/
def dropRelays (port : Nat) (s : State) : State :=
  let s := s.links.foldl (fun s x => x.2.relays.foldl (fun s t =>
    match t.from_ with
    | some (p, _) => if p = port ∧ x.1 ≠ port ∧ t.lastQueued = false then (let (t, s) := feedStep t 2 t.group 0 [] true s; putRelay x.1 t s) else s
    | none => s) s) s
  (linkAt port s).relays.foldl (fun s t => match t.from_ with | some (p, tag) => if p = port then s else forwardDrop p tag s | none => s) s

/-- A remote ADD that is accepted and not yet applied, or whose message still waits (R317, R320). -/
def remoteHeld (l : Link) : Nat := l.adds.length + (l.rxCtl.filter fun m => m.payload.headD 0#8 == 0x01#8).length

def times (n : Nat) (f : State → State) (s : State) : State := (List.range n).foldl (fun s _ => f s) s

def remoteBad (s : State) : State := irq pBELL 1 (count rREMOTE_BAD 1 s)

/-- The remote ADDs of a port that goes DOWN (R320). -/
def dropSignals (port : Nat) (s : State) : State :=
  let n := sigWaiting port s
  let m := remoteHeld (linkAt port s)
  times m remoteBad (times n sigRefused s)

/-- The remote ADDs that were transmitted and will not be acknowledged (R320, R330). -/
def sigsUnacked (l : Link) : List Nat :=
  (l.replay.filter fun x => x.body.kind == fkCONTROL && x.body.payload.headD 0#8 == 0x01#8).map fun x => x.body.group

/-- The link after a change to DOWN: it keeps its serial numbers, the cause and what was lost. -/
def linkCleared (code : BitVec 8) (l : Link) : Link :=
  { Link.down with cause := code, sigLost := l.sigLost ++ sigsUnacked l, phyLocked := l.phyLocked, phyCfg := l.phyCfg, sigSerial := l.sigSerial, nextSid := l.nextSid, rxSerial := l.rxSerial, lastTx := l.lastTx, weight := l.weight, cap := l.cap }

/-- A link goes DOWN: one entry, its definitions fenced, its legs faulted, its signals discarded. -/
def goDown (port : Nat) (code : BitVec 8) (s : State) : State :=
  let s := fenceGroups port s
  let cls := if faultsLedger s then clsLedgerFatal else clsNotice
  let s := closeSourceChain (ringSource port) (logFault ⟨code.toNat, cls, ringSource port, none, none⟩ s)
  let s := calLinkDown port (dropSignals port (dropRelays port (strikeLegs code s)))
  changeLink port (linkCleared code) s

/-- The link of a port is lost (R73). DESIGN CHOICE (log 25): R73 names no state of the link; only one that is UP is lost so, and a lock that falls in TRAINING leaves it in TRAINING. One that goes DOWN for another cause already keeps that cause (R74, R306). -/
def linkLostApply (port : Nat) (lockFell : Bool) (cyc : Nat) (s : State) : State :=
  let l := linkAt port s
  if alive s && l.state == 2 && l.dying == 0#8 && (lockFell || decide (l.lastGood + 4096 ≤ stamp cyc s)) then
    goDown port 0x21#8 (if lockFell then modLink port (fun l => { l with phyLocked := false }) s else s)
  else s

/-- A link goes DOWN for a cause that was noted (R306). -/
def linkDownApply (port : Nat) (code : BitVec 8) (s : State) : State :=
  let l := linkAt port s
  if alive s && l.state != 0 && l.dying != 0#8 && l.dying == code then goDown port code s else s

/-- A soft reset of the RING page (R71, R74): RING_PHY_ENABLE falls and nothing is sent from here on; the link goes DOWN in class 2 of the next transit. -/
def ringSoftReset (port : Nat) (s : State) : State := linkDies port 0x2A#8 (changeLink port (fun l => { l with phyEnable := false }) s)

/-! ### Training (R303, R431) -/

/-- Training starts: RING_PHY_ENABLE rises; the credit division and RING_PHY_CFG are taken from their registers. -/
def trainStart (port : Nat) (s : State) : State :=
  changeLink port (fun l => { linkCleared l.cause l with txq := l.txq.map (fun q => q.filter fun f => f.kind != fkDATA), state := 1, phyEnable := true, phyCfg := reg64 (rPHY_CFG_LO port) s, advertised := (List.range 4).map fun v => regNat (rCREDIT port v) s }) s

/-- RETRAIN: on a port whose link is DOWN and that is not ABSENT. The steward runs the training: while it is OFF or HELD none starts (R303, R370). -/
def retrainApply (port : Nat) (s : State) : State :=
  if stewardRuns s && (linkAt port s).state == 0 && !portAbsent port s then trainStart port s else s

/-- The link is UP: sequence numbers, replay buffer and tags start empty. -/
def linkUp (port t : Nat) (s : State) : State :=
  changeLink port (fun l => { l with state := 2, txSeq := 0, rxSeq := 4095, replay := [], retx := [], lastGood := t }) s

/-- Both sides' TRAIN flits have passed. -/
def trainDone (port t : Nat) (s : State) : State :=
  let l := linkAt port s
  if l.state = 1 && l.dying == 0#8 && l.trainSent && l.trainGot then linkUp port t s else s

/-- What the TRAIN flit of a port carries (R303): FABRIC_VERSION, SELF, the port, its axis and direction, and the credits of each channel. -/
def trainInfo (port : Nat) (s : State) : TrainInfo :=
  ⟨fabricVersion, (List.range (axesN s)).map fun a => selfCoord a s, port, portAxis port s, portNeg port s, (linkAt port s).advertised⟩

/-- The PHY's status, and until the link is UP its lock and, while it is locked, the steward's TRAIN flit; a lock that falls in UP is LINK_LOST's (R73, R303, R429). DESIGN CHOICE (log 25): a lock that falls in TRAINING leaves the link there. -/
def linkTrainingApply (port : Nat) (locked : Bool) (phyStat : Word) (cyc : Nat) (s : State) : State :=
  if !alive s then s
  else if (linkAt port s).state == 2 then setReg (rPHY_STAT port) phyStat s
  else
    let s := changeLink port (fun l => { l with phyLocked := locked }) (setReg (rPHY_STAT port) phyStat s)
    if (linkAt port s).state = 1 && (linkAt port s).dying == 0#8 && locked && stewardRuns s then
      trainDone port (stamp cyc s) (frameOut port (stamp cyc s) (.trainFlit port (trainInfo port s)) (modLink port (fun l => { l with trainSent := true }) s))
    else s

/-- The partner that R271 names, its version, and the opposite direction of the same axis (R303). -/
def trainMatches (port : Nat) (i : TrainInfo) (s : State) : Bool :=
  partnerCoords port s == some i.coords && i.version.toNat / 65536 == 3 && i.axis == portAxis port s && i.dirNeg == !portNeg port s

/-- A received TRAIN flit. -/
def trainFlitApply (port : Nat) (i : TrainInfo) (cyc : Nat) (s : State) : State :=
  let l := linkAt port s
  if !alive s || l.state != 1 || l.dying != 0#8 then s
  else if !trainMatches port i s then noticeNext 0x24 (ringSource port) s
  else trainDone port (stamp cyc s) (setLink port { l with trainGot := true, credit := i.credits, creditMax := i.credits } s)

/-! ### The port's registers (R298, R300, R431) -/

/-- A write of a CREDIT, WEIGHT or CAP register. -/
def ringCreditApply (port off : Nat) (v : Word) (s : State) : State :=
  let a := pageBase (pRING port) + off
  if off < 0x070 then
    let new := fieldOf v 0 12
    let rest := ((List.range 4).filter fun i => 0x060 + 4 * i != off).map fun i => regNat (rCREDIT port i) s
    if 2048 < rest.sum + new then logFault ⟨0x29, clsNotice, ringSource port, none, some (pRING port)⟩ s else setReg a (BitVec.ofNat 32 new) s
  else if off < 0x080 then setReg a (BitVec.ofNat 32 (max 1 (fieldOf v 0 4))) s
  else setReg a (BitVec.ofNat 32 (min 256 (max 1 (fieldOf v 0 9)))) s

/-! ### The commands -/

def execFlitReceive (port : Nat) (flit : BitVec 1024) (symErr : Bool) (cyc : Nat) (s : State) : Answer :=
  onPort port (.flitReceive port flit symErr cyc) (flitApply port flit symErr cyc) s
def execNakReceive (port cyc : Nat) (s : State) : Answer := onPort port (.nakReceive port cyc) (nakApply port) s
def execReplayTimeout (port cyc : Nat) (s : State) : Answer := onPort port (.replayTimeout port cyc) (replayTimeoutApply port cyc) s
def execFlitTransmit (port cyc : Nat) (s : State) : Answer := onPort port (.flitTransmit port cyc) (transmitApply port cyc) s
def execHeartbeatSend (port cyc : Nat) (s : State) : Answer := onPort port (.heartbeatSend port cyc) (heartbeatApply port cyc) s
def execNullSend (port cyc : Nat) (s : State) : Answer := onPort port (.nullSend port cyc) (nullApply port cyc) s
def execLinkLost (port : Nat) (lockFell : Bool) (cyc : Nat) (s : State) : Answer :=
  onPort port (.linkLost port lockFell cyc) (linkLostApply port lockFell cyc) s
def execLinkDown (port : Nat) (code : BitVec 8) (s : State) : Answer := onPort port (.linkDown port code) (linkDownApply port code) s
def execTrainFlitReceive (port : Nat) (info : TrainInfo) (cyc : Nat) (s : State) : Answer :=
  onPort port (.trainFlitReceive port info cyc) (trainFlitApply port info cyc) s
def execLinkTraining (port : Nat) (locked : Bool) (phyStat : Word) (cyc : Nat) (s : State) : Answer :=
  onPort port (.linkTraining port locked phyStat cyc) (linkTrainingApply port locked phyStat cyc) s

end Sys2Proof.Machine
end

