-- ==== Sys2Proof/Machine/Queues.lean ====
section
/-! DEFINITION. Queues and descriptors: doorbells (R241), fetches (R242, R452), decoding (R248), starts with their triggers, windows and bounds (R243, R253, R254, R266), standing orders (R261 to R263), and queue configuration (R237 to R240, R250, R437). -/

namespace Sys2Proof.Machine

/-! ### Configuration fields (R436) -/

def qEnabled (v : QueueSt) : Bool := bitOf v.cfg 0
def qHaltOnErr (v : QueueSt) : Bool := bitOf v.cfg 4
def qPrio (v : QueueSt) : Nat := fieldOf v.cfg 5 2

/-- The queue starts and fetches: RUNNING and not being disabled. -/
def qRuns (v : QueueSt) : Bool := qEnabled v && v.state == 1

/-- 0x5C: a configuration write or a doorbell was refused (R270). -/
def queueRefuse (s : State) : State := notice 0x5C queueSource s

/-! ### Standing orders as doorbells see them (R261) -/

def queueOrders (q : Nat) (s : State) : List Order := s.orders.filter fun o => o.queue == q

/-- A run of an order is in progress: it has neither sealed nor failed (R262). -/
def orderBusy (q slot : Nat) (s : State) : Bool := s.ops.any fun o => o.id.queue == q && o.id.slot == slot && o.fail.isNone

/-- Every order of a queue is unpinned, each after its run in progress. -/
def unpinAll (q : Nat) (s : State) : State :=
  { s with orders := (s.orders.filter fun o => o.queue != q || orderBusy q o.slot s).map fun o => if o.queue == q then { o with unpin := true } else o }

/-- Orders of the queue are pinned, or its slots are still being fetched and checked. -/
def pinBusy (q : Nat) (s : State) : Bool :=
  let v := queueAt q s
  !(queueOrders q s).isEmpty || decide (v.nextStart < v.pinTarget) || !v.fetched.isEmpty

/-- Fetched descriptors of a queue that have not started are discarded, and its fetches given up. -/
def dropFetched (q : Nat) (s : State) : State :=
  let s := memForget (fun p => match p with | .descFetch i _ _ => i == q | _ => false) s
  let v := queueAt q s
  setQueue q { v with fetched := [] } s

/-- A doorbell of a queue with STANDING set (R261). DESIGN CHOICE (log 67): a doorbell of 0 discards slots that are still being fetched or checked without a record. -/
def standingBell (q n : Nat) (s : State) : State :=
  let v := queueAt q s
  if n = 0 then unpinAll q (setQueue q { queueAt q (dropFetched q s) with pinTarget := 0, nextFetch := 0, nextStart := 0, tail := 0 } (dropFetched q s))
  else if queueSize v ≤ n || pinBusy q s then queueRefuse s
  else setQueue q { v with pinTarget := n, nextFetch := 0, nextStart := 0, tail := n } s

/-- A value that passes the forward-move test of R241. -/
def bellMoves (v : QueueSt) (n : Nat) : Bool :=
  let size := queueSize v
  decide ((n + size - v.tail) % size ≤ (v.head + 2 * size - 1 - v.tail) % size)

/-- A doorbell write (R241, R261). -/
def doorbellWrite (q : Nat) (w : Word) (s : State) : State :=
  let v := queueAt q s
  let n := w.toNat
  if !qEnabled v then queueRefuse s
  else if qStanding v then standingBell q n s
  else if queueSize v ≤ n || !bellMoves v n then queueRefuse s
  else setQueue q { v with tail := n } s

/-! ### Fetches (R242, R452) -/

/-- A fetch is due: a covered slot that is not fetched, up to 16 slots ahead of the oldest that has not started. -/
def fetchDue (v : QueueSt) : Bool :=
  qRuns v &&
    if qStanding v then decide (v.nextFetch < v.pinTarget)
    else v.nextFetch != v.tail && decide ((v.nextFetch + queueSize v - v.nextStart) % queueSize v < 16)

/-- Queues in the order in which their fetches issue. -/
def fetchBefore (v : QueueSt) (q : Nat) (w : QueueSt) (r : Nat) : Bool := decide (qPrio v < qPrio w ∨ (qPrio v = qPrio w ∧ q < r))

def fetchAddr (v : QueueSt) : Nat := v.descBase + 64 * v.nextFetch

/-- A more urgent queue has a fetch that the port could take now. -/
def fetchYields (q : Nat) (s : State) : Bool :=
  s.queues.any fun x => fetchDue x.2 && fetchBefore x.2 x.1 (queueAt q s) q && memCan false true (fetchAddr x.2) 64 s

/-- One urgent read of the next slot; a slot that is here, or on its way, is passed over. -/
def fetchApply (q : Nat) (s : State) : State :=
  let v := queueAt q s
  if !alive s || !fetchDue v || fetchYields q s then s
  else
    let s' := setQueue q { v with nextFetch := (v.nextFetch + 1) % queueSize v } s
    if v.fetched.any (fun f => f.slot == v.nextFetch) || memHas (.descFetch q v.nextFetch 1) s then s'
    else (memIssue false true (fetchAddr v) 2 hSTREAM (.descFetch q v.nextFetch 1) [] s').getD s

/-! ### Decoding and pinning (R248, R261) -/

def setDecoded (slot : Nat) (code : Nat) (at' : Nat) (l : List Fetched) : List Fetched :=
  l.map fun f => if f.slot == slot then { f with decoded := some (BitVec.ofNat 8 code), decodedAt := at' } else f

/-- An order that passes its checks is pinned while the store of 512 has room; one that does not fails in the next transit. -/
def pinSlot (q : Nat) (f : Fetched) (code : Nat) (s : State) : State :=
  let v := queueAt q s
  let code := if code = 0 ∧ 512 ≤ s.orders.length then 0x5B else code
  let v := { v with nextStart := f.slot + 1 }
  if code = 0 then
    { setQueue q { v with fetched := v.fetched.filter fun x => x.slot != f.slot } s with orders := s.orders ++ [⟨q, f.slot, f.words, 0, false⟩] }
  else setQueue q { v with fetched := setDecoded f.slot code s.clock.fclk v.fetched } s

def decodeApply (q slot : Nat) (s : State) : State :=
  let v := queueAt q s
  if !alive s then s
  else match v.fetched.find? fun f => f.slot == slot && f.decoded.isNone with
    | none => s
    | some f =>
      let code := staticCheck s v f.words
      if qStanding v then (if slot = v.nextStart then pinSlot q f code s else s)
      else setQueue q { v with fetched := setDecoded slot code s.clock.fclk v.fetched } s

/-! ### Triggers (R254) -/

def trigStalls (d : List Word) (members : List Nat) : List Nat := if dTrigMembers d then members else [dTrigStall d]

def trigHolds (d : List Word) (members : List Nat) (s : State) : Bool :=
  !dTrigEn d || (trigStalls d members).all fun n => reachedBy (tally n (dTrigTally d) s) (dThreshold d)

/-- A TAKE consumes the threshold from every tested tally at once. -/
def trigTake (d : List Word) (members : List Nat) (take : Bool) (s : State) : State :=
  if dTrigEn d && take then (trigStalls d members).foldl (fun s n => addTally n (dTrigTally d) (-(dThreshold d)) s) s else s

/-! ### Bounds at the queue head (R243, R266) -/

/-- Started and not yet sealed or failed. -/
def liveOps (q : Nat) (s : State) : Nat := (s.ops.filter fun o => o.id.queue == q && o.fail.isNone).length

/-- The bounds hold at the queue's head: 16 live descriptors, 64 streaming operations on each plane for one that is to stream, and 64 early-use operations. -/
def boundsAllow (q : Nat) (d : List Word) (s : State) : Bool :=
  let planes := if hasContrib d || hasOutput (dOp d) then planesOf (descPlanes (queueAt q s) d) else []
  decide (liveOps q s < 16) && planes.all (fun p => streamRoom p s)
    && (!dEarly d || decide ((s.ops.filter fun o => o.fail.isNone && dEarly o.d).length < 64))

/-! ### Starts (R253, R262, R279) -/

def Egress.fresh : Egress :=
  { next := 0, a := 0, u := 0, spec := false, meas := Measures.none, nForm1 := 0, nForm2 := 0, nForm3 := 0, nDecided := 0, nOutlier := 0, rotated := false
    patch := [], patchOut := 0, flags := fNone, ended := false, endedAt := 0, chunkOut := [], released := [], measAt := 0, compared := none, trueAU := none, reEmit := false
    recallDue := false, shown := false }

def opMembers (v : QueueSt) (d : List Word) (s : State) : List Nat := if groupOk s.build (descGroup v d) then groupMembers (descGroup v d) s else []

/-- An operation as it starts: it copies its membership (R250). -/
def newOp (q slot run : Nat) (d : List Word) (gated : Bool) (s : State) : Op :=
  let v := queueAt q s
  { id := ⟨q, slot, run⟩, d := d, members := opMembers v d s, maskGroup := (descGroup v d).testBit 15, planes := descPlanes v d, startT := s.clock.transit
    startCls := if gated then 5 else 7, creditOnly := false, entryBad := false, pos := dDicePos d + BitVec.ofNat 32 run
    claim := if namesLedger (dOp d) then .starting else .none, cop := ⟨[0#32, 0#32, 0#32, 0#32], 0, 0, 0#32, false, 0, 0⟩, firstContrib := false, upOpen := []
    upDone := [], upHold := [], prog := [], beats := [], summed := [], passed := [], limbs := [], fresh := [], freshFlags := fNone, shadow := [], staging := []
    regionPages := [], poolPages := [], partWritten := [], folded := [], foldBuf := [], foldDone := false, addAt := s.clock.fclk, doneAt := 0, added := false
    blocks0 := [], sizesPending := false, eg := Egress.fresh, leg := none
    save := if dOp d = oSAVE ∨ dOp d = oRESTORE then some ⟨[], 0, 0, 0, false, false, false⟩ else none, attempt := 0, struck := none, replay := none
    comparing := false, idle := 0, progress := false, recalled := false, replayed := false, hit := 0, legFlags := fNone, down := [], spilled := false, fail := none }

/-- GATED changes; POWER interrupts where its state does (R380, R420). -/
def setGated (b : Bool) (s : State) : State :=
  let s' := { s with clock := { s.clock with gated := b, idleRun := 0 } }
  if powerState s = powerState s' then s' else irq pPOWER 0 s'

/-- The leg of a starting operation takes the definition's next number; a ring of one chip runs as no leg, but for an ALLTOALL's own piece (R278, R279). -/
def attachLeg (id : OpId) (s : State) : State :=
  withOp id (fun o s =>
    if dRingLeg o.d = 0 then s
    else
      let tg := lgGroup o.d
      let g := groupAt tg s
      let n := gN g
      let s := setGroup tg { g with legSeq := g.legSeq + 1 } s
      let a2a := dOp o.d == oALLTOALL
      if n ≤ 1 ∧ a2a = false then s
      else
        let l : Leg := { tgroup := tg, seq := g.legSeq, attempt := 0, n := n, pos := gPos g s, twoWay := lgTwoWay o.d, wire := lgWire o.d, started := [], tx := [], got := [], region := [], stats := [], images := [], beatsOut := [], delivered := [], reduced := false, markers := [], marked := [], recallAt := none, recallFrom := [], recallEcho := [], notBefore := s.clock.transit, relap := false, lapDone := [], sizes := [] }
        let s := setOp { o with leg := some l, sizesPending := a2a } s
        let s := if 1 < n then verdictStart tg g.legSeq 0 s else s
        if a2a then sizesIssue id s else s) s

/-- A descriptor or a run starts: gating, then the checks of its leg, which end it where they fail (R307, R449). -/
def startOp (q slot run : Nat) (d : List Word) (gated : Bool) (s : State) : State :=
  let o := newOp q slot run d gated s
  let code := legStartCheck (queueAt q s) d s
  let s := perf pcStarted 1 (setGated false { s with ops := s.ops ++ [o] })
  let s := noteGate o.id 0 s
  if code = 0 then attachLeg o.id s else opFail o.id code (modOp o.id (fun o => { o with claim := .none }) s)

/-- A descriptor that failed its static checks: it never starts, and fails in this transit (R248). -/
def failOp (q slot : Nat) (d : List Word) (code : Nat) (s : State) : State :=
  let o := { newOp q slot 0 d false s with claim := .none }
  opFail o.id code { s with ops := s.ops ++ [o] }

/-- The next slot to start. -/
def passSlot (q slot : Nat) (s : State) : State :=
  let v := queueAt q s
  setQueue q { v with nextStart := (slot + 1) % queueSize v, fetched := v.fetched.filter fun f => f.slot != slot } s

/-- What a start needs beside its window (R253): the fabric not FENCED, the trigger, the bounds, and for FENCE every earlier descriptor ended. -/
def startReady (q : Nat) (d : List Word) (s : State) : Bool :=
  !s.clock.fenced && trigHolds d (opMembers (queueAt q s) d s) s && boundsAllow q d s && (dOp d != oFENCE || liveOps q s == 0)

/-- The window of a descriptor's start is open, or it is not gated (R231). -/
def startOpen (q : Nat) (d : List Word) (s : State) : Bool :=
  !stepGated (queueAt q s) d 0 s || windowOpen (activeBank s) (dEphSlot d) 0 s

/-- The head descriptor whose time may have come: decoded in an earlier transit; on a queue of standing orders only one that failed its checks. -/
def headDesc (v : QueueSt) (now : Nat) : Option Fetched :=
  v.fetched.find? fun f => (qStanding v || f.slot == v.nextStart) && f.decoded.isSome && decide (f.decodedAt < now)

/-- The head descriptor of a queue starts, or fails where its static checks did. -/
def startApply (only : Nat → Bool) (q : Nat) (s : State) : State :=
  let v := queueAt q s
  if !serving s || !qRuns v then s
  else match headDesc v s.clock.fclk with
    | none => s
    | some f =>
      let d := f.words
      let code := (f.decoded.getD 0#8).toNat
      if !only (dOp d) then s
      else if code ≠ 0 then
        failOp q f.slot d code (if qStanding v then setQueue q { v with fetched := v.fetched.filter fun x => x.slot != f.slot } s else passSlot q f.slot s)
      else if qStanding v || !startReady q d s || !startOpen q d s then s
      else
        let gated := stepGated v d 0 s
        let s := trigTake d (opMembers v d s) (dTrigTake d) s
        startOp q f.slot 0 d gated (passSlot q f.slot s)

/-- A pinned order starts its next run: its trigger acts as a TAKE (R262, R263). -/
def standingRunApply (q slot : Nat) (s : State) : State :=
  let v := queueAt q s
  if !serving s || !qRuns v || !qStanding v then s
  else match s.orders.find? fun o => o.queue == q && o.slot == slot with
    | none => s
    | some o =>
      let d := o.words
      if o.unpin || orderBusy q slot s || !startReady q d s || !startOpen q d s then s
      else
        let gated := stepGated v d 0 s
        let s := trigTake d (opMembers v d s) true s
        let s := { s with orders := s.orders.map fun x => if x.queue == q && x.slot == slot then { x with run := x.run + 1 } else x }
        startOp q slot o.run d gated (setQueue q { v with runs := v.runs + 1 } s)

/-! ### Configuration (R238 to R240, R250, R435 to R437) -/

def qSel (copy : Nat) (s : State) : Nat := fieldOf (reg (rQ_SELECT + copy) s) 0 16

/-- Queues with EARLY_USE set (R239). -/
def earlyCount (s : State) : Nat := (s.queues.filter fun x => bitOf x.2.cfg 3).length

/-- What refuses a CFG write that sets ENABLE (R437). -/
def enableBad (v : QueueSt) (c : Word) (s : State) : Bool :=
  let n := fieldOf c 8 5
  decide (n = 0 ∨ 16 < n) || fieldOf c 16 8 == 0 || decide (2 ^ s.build.planes ≤ fieldOf c 16 8) || !groupOk s.build (fieldOf v.group 0 16)

/-- Enabling (R240, R437). DESIGN CHOICE (log 67): records and operations of an earlier enabling that are still outstanding stay, and the responses to those records count as ever. -/
def queueEnableNow (q : Nat) (c : Word) (s : State) : State :=
  let v := queueAt q s
  setQueue q { QueueSt.idle with cfg := c, group := v.group, descBase := v.descBase, compBase := v.compBase, state := 1, lap := true, records := v.records } s

/-- Disabling: what has not started is discarded, orders are unpinned, and STATE stays until the last started descriptor ends (R240). -/
def queueDisableNow (q : Nat) (s : State) : State :=
  let s := unpinAll q (dropFetched q s)
  let v := queueAt q s
  setQueue q { v with cfg := v.cfg &&& ~~~1#32, disabling := true, pinTarget := 0, nextFetch := v.nextStart } s

/-- The transit after the last of a disabled queue's operations ends: IDLE (R240). DESIGN CHOICE (log 67): a failed descriptor ends with the delivery of its failure. -/
def queuesEdge (s : State) : State :=
  s.queues.foldl (fun s x =>
    if x.2.disabling && !(s.ops.any fun o => o.id.queue == x.1) then setQueue x.1 { queueAt x.1 s with state := 0, disabling := false } s else s) s

/-- A CFG write (R437). -/
def queueCfgWrite (q : Nat) (w : Word) (s : State) : State :=
  let v := queueAt q s
  let c := w &&& 0x00FF1F7F#32
  if qEnabled v then
    (if c ||| 1#32 != v.cfg then queueRefuse s else if bitOf c 0 then s else queueDisableNow q s)
  else if bitOf c 3 && !bitOf v.cfg 3 && decide (64 ≤ earlyCount s) then queueRefuse s
  else if bitOf c 0 then (if enableBad v c s then queueRefuse s else queueEnableNow q c s)
  else setQueue q { v with cfg := c } s

/-- A write of GROUP or of the base registers (R435). -/
def queueRegWrite (q off : Nat) (w : Word) (s : State) : State :=
  let v := queueAt q s
  if off = 0x044 then queueCfgWrite q w s
  else if qEnabled v then queueRefuse s
  else if off = 0x048 then setQueue q { v with group := w &&& 0xFFFF#32 } s
  else if off = 0x04C then setQueue q { v with descBase := v.descBase / 2 ^ 32 * 2 ^ 32 + (w &&& 0xFFFFFFC0#32).toNat } s
  else if off = 0x050 then setQueue q { v with descBase := v.descBase % 2 ^ 32 + (w &&& 0x1FFFFFF#32).toNat * 2 ^ 32 } s
  else if off = 0x054 then setQueue q { v with compBase := v.compBase / 2 ^ 32 * 2 ^ 32 + (w &&& 0xFFFFFFE0#32).toNat } s
  else if off = 0x058 then setQueue q { v with compBase := v.compBase % 2 ^ 32 + (w &&& 0x1FFFFFF#32).toNat * 2 ^ 32 } s
  else s

/-- RESUME: a HALTED queue runs again; the record whose write failed is written first (R240, R269, R437). -/
def queueResumeNow (q : Nat) (s : State) : State :=
  let v := queueAt q s
  if v.state = 2 then issueRecords (setQueue q { v with state := if qEnabled v then 1 else v.state, err := 0#8, badRecords := [] } s) else s

def maskSel (copy : Nat) (s : State) : Nat × Nat :=
  let w := reg (rMASK_SELECT + copy) s
  (fieldOf w 0 6, fieldOf w 8 5)

/-- Bits of word w of a mask of LEAVES bits. -/
def leafBits (w : Nat) (s : State) : Word :=
  if leaves s.build ≤ 32 * w then 0#32
  else if leaves s.build < 32 * w + 32 then BitVec.ofNat 32 (2 ^ (leaves s.build - 32 * w) - 1)
  else all32

/-- A MASK_DATA write (R250, R437). -/
def maskDataApply (copy : Nat) (v : Word) (s : State) : State :=
  let (e, w) := maskSel copy s
  if leaves s.build ≤ 32 * w then s
  else { s with tabs := { s.tabs with masks := tset 0#32 (32 * e + w) (v &&& leafBits w s) s.tabs.masks } }

/-! ### The commands -/

def execDescriptorFetch (queue cyc : Nat) (s : State) : Answer := .next (inTransit (.descriptorFetch queue cyc) (fetchApply queue) s)
def execDescriptorDecode (queue slot : Nat) (s : State) : Answer := .next (inTransit (.descriptorDecode queue slot) (decodeApply queue slot) s)
def execDescriptorStart (queue : Nat) (s : State) : Answer := .next (inTransit (.descriptorStart queue) (startApply (fun _ => true) queue) s)
def execBarrier (queue : Nat) (s : State) : Answer := .next (inTransit (.barrier queue) (startApply (· == oBARRIER) queue) s)
def execFence (queue : Nat) (s : State) : Answer := .next (inTransit (.fence queue) (startApply (· == oFENCE) queue) s)
def execStandingRun (queue slot : Nat) (s : State) : Answer := .next (inTransit (.standingRun queue slot) (standingRunApply queue slot) s)
def execLedgerOpen (op : OpId) (s : State) : Answer := .next (inTransit (.ledgerOpen op) (ofOp oLEDGER_OPEN op (ledgerClaimApply op)) s)

end Sys2Proof.Machine
end

