-- ==== Sys2Proof/Machine/Save.lean ====
section
/-! DEFINITION. SAVE and RESTORE (R178 to R180, R331): the area, its transfer, its checks, and what their completion does. -/

namespace Sys2Proof.Machine

/-! ### The save area (R179) -/

def saveMagic : Nat := 0x53564C47

/-- Ledgers that a SAVE writes: OPEN and FAULTED, ascending. -/
def savedLedgers (s : State) : List (Nat × Ledger) := s.ledgers.filter fun x => x.2.state == 1 || x.2.state == 3

def areaBytes (s : State) : Nat := 64 + ((savedLedgers s).map fun x => entryBytes x.2).sum

/-- The first 60 bytes of a ledger's record. -/
def recordHead (n : Nat) (v : Ledger) : List Byte :=
  leBytes 2 n ++ [BitVec.ofNat 8 v.state, BitVec.ofNat 8 (boolNat (intPath v.fmt) + 2 * boolNat v.sat), v.fmt.setWidth 8, BitVec.ofNat 8 v.planes, v.flags.setWidth 8, 0#8]
    ++ leBytes 4 v.count ++ leBytes 4 v.contribs ++ leBytes 8 v.seed.toNat ++ leBytes 4 v.pos.toNat ++ leBytes 4 v.almanac.toNat ++ leBytes 4 v.outTscale.toNat
    ++ leBytes 4 v.fault.toNat ++ List.replicate 20 0#8

def recordBytes (n : Nat) (v : Ledger) : List Byte := let b := recordHead n v; b ++ leBytes 4 (crc32c b).toNat

/-- Plane and page of a folded page under a SAVE. -/
def savePage (l page : Nat) : Nat := page + l * 2 ^ 24

/-- Partial pages of the saved ledgers: purpose, plane, pool page. -/
def saveReads (o : Op) (s : State) : List (Purpose × Nat × Nat) :=
  (savedLedgers s).flatMap fun x => (foldPages (noPool o) x.2).flatMap fun g =>
    g.2.2.zipIdx.map fun y => (.partialRead o.id x.1 g.1 g.2.1 y.2, g.1, y.1)

def saveHave (o : Op) : Purpose → Bool
  | .partialRead _ l p page i => (foldGot o p (savePage l page) i).isSome
  | _ => false

/-- The folding of an OPEN ledger's spilled and partial-mode pages (R163, R178): plane, element, value, flags. -/
def saveFolds (o : Op) (n : Nat) (v : Ledger) : List (Nat × Nat × Word64 × Flags) :=
  if v.state ≠ 1 then []
  else (foldPages (noPool o) v).flatMap fun g => (pageElems v v.count g.1 g.2.1).map fun e =>
    let start := if (pageSt v g.1 g.2.1).spilled then 0#64 else tget 0#64 e.2 v.acc
    let r := (List.range g.2.2.length).foldl (fun (acc : Word64 × Flags) j =>
      let b := (foldGot o g.1 (savePage n g.2.1) j).getD []
      let r := accAdd (intPath v.fmt) acc.1 (BitVec.ofNat 64 (leNat (sliceB b (8 * e.1) 8)))
      (r.1, acc.2 ||| r.2)) (start, fNone)
    (g.1, e.2, r)

/-- A ledger with those pages folded; the flags of the folding are the ledger's, and those of the planes (R110). -/
def foldedLedger (o : Op) (n : Nat) (v : Ledger) : Ledger :=
  if v.state ≠ 1 then v
  else (saveFolds o n v).foldl (fun (w : Ledger) x => { w with acc := tset 0#64 x.2.1 x.2.2.1 w.acc, flags := w.flags ||| x.2.2.2 }) v

/-- A ledger's entry: record, accumulators, block words, padding. -/
def entryImage (o : Op) (x : Nat × Ledger) : List Byte :=
  let v := foldedLedger o x.1 x.2
  if v.state ≠ 1 then recordBytes x.1 v
  else
    recordBytes x.1 v ++ padTo 64 (((List.range v.count).flatMap fun e => leBytes 8 (tget 0#64 e v.acc).toNat)
      ++ (List.range (ceilDiv v.count 32)).flatMap fun j => leBytes 8 (tget 0#64 j v.blocks).toNat)

/-- The header without its check. -/
def areaHead (ledgers bytes : Nat) (t : Word64) : List Byte :=
  leBytes 4 saveMagic ++ leBytes 4 fabricVersion.toNat ++ leBytes 4 1 ++ leBytes 4 ledgers ++ leBytes 8 bytes ++ leBytes 8 t.toNat ++ List.replicate 28 0#8

/-- The check word covers the whole area with its own bytes taken as 0. -/
def areaCheck (area : List Byte) : Nat := (crc32c (area.take 60 ++ List.replicate 4 0#8 ++ area.drop 64)).toNat

/-! ### SAVE -/

def setSave (id : OpId) (f : SaveSt → SaveSt) (s : State) : State := modOp id (fun o => { o with save := o.save.map f, progress := true }) s

/-- The entries, once every partial page has been read; the header's bytes are still 0. -/
def saveBuild (o : Op) (s : State) : State :=
  let l := savedLedgers s
  let s := (l.flatMap fun x => saveFolds o x.1 x.2).foldl (fun s x => raisePlane x.1 x.2.2.2 s) s
  setSave o.id (fun v => { v with area := List.replicate 64 0#8 ++ l.flatMap (entryImage o), entries := l.length, built := true, next := 64 }) s

/-- Reads of partial pages that are not on their way. -/
def saveFold (o : Op) (s : State) : State :=
  ((saveReads o s).filter fun x => !saveHave o x.1).foldl (fun s x =>
    if memHas x.1 s then s else memTry false false (poolAddr x.2.1 x.2.2 s) 128 hDROP x.1 [] s) s

/-- Bytes of the next request: up to a 4 KiB boundary (R45). -/
def nextSpan (addr left : Nat) : Nat := min left (4096 - addr % 4096)

/-- Writes of the entries, as many as the port takes. -/
def saveWrites : Nat → OpId → State → State
  | 0, _, s => s
  | f + 1, id, s =>
    match opAt id s with
    | none => s
    | some o =>
      match o.save with
      | none => s
      | some v =>
        if v.area.length ≤ v.next then s
        else
          let a := dAddr o.d / 64 * 64 + v.next
          let n := nextSpan a (v.area.length - v.next)
          match memIssue true false a (n / 32) hSTREAM (.saveWrite id) (sliceB v.area v.next n) s with
          | none => s
          | some s' => saveWrites f id (setSave id (fun v => { v with next := v.next + n, issued := v.issued + 1 }) s')

/-- The header goes last (R178); its TRANSIT is that of its writing, which comes before the completion (R179, log 39). -/
def saveHeader (o : Op) (v : SaveSt) (s : State) : State :=
  let area := areaHead v.entries v.area.length s.clock.transit ++ leBytes 4 0 ++ v.area.drop 64
  let head := area.take 60 ++ leBytes 4 (areaCheck area)
  match memIssue true false (dAddr o.d / 64 * 64) 2 hSTREAM (.saveWrite o.id) head s with
  | none => s
  | some s' => setSave o.id (fun v => { v with headerSent := true, issued := v.issued + 1 }) s'

/-- One attempt of a SAVE to go on. -/
def saveStep (id : OpId) (cyc : Nat) (s : State) : State :=
  withRunning id (fun o s =>
    match o.save with
    | none => s
    | some v =>
      if !serving s || v.done then s
      else if !v.built then
        if anyHeld s || saveAhead id s then s
        else if 64 * dCount o.d < areaBytes s then find_ (.failed id 0x54 queueSource) s
        else if (saveReads o s).any fun x => !saveHave o x.1 then saveFold o s
        else saveWrites (areaBytes s / 32 + 1) id (saveBuild o s)
      else if v.next < v.area.length then saveWrites (v.area.length / 32 + 1) id s
      else if v.issued ≠ 0 then s
      else if !v.headerSent then saveHeader o v s
      else modOp id (fun o => { o with save := some { v with done := true }, addAt := stamp cyc s, progress := true }) s) s

/-! ### A repair that waits for the SAVE (R357) -/

/-- A pending REPAIR takes effect: the idle side is reset and tests itself; it is paired from the next transit, unless its test fails (log 38). -/
def repairNow (s : State) : State :=
  if !bitOf (reg rBINO_STATE s) 5 then s
  else find_ .repaired (setReg rBINO_STATE (reg rBINO_STATE s &&& ~~~(bit 5)) s)

/-- The completion of a SAVE: every saved ledger FREE, tallies and bells cleared, a pending repair (R178, R331, R357). -/
def saveDone (s : State) : State :=
  repairNow (clearBells (clearTallies ((savedLedgers s).foldl (fun s x => freeLedger x.1 s) s)))

/-! ### RESTORE (R180) -/

/-- Reads of the area, as many as the port takes. -/
def restoreReads : Nat → OpId → Nat → State → State
  | 0, _, _, s => s
  | f + 1, id, total, s =>
    match opAt id s with
    | none => s
    | some o =>
      match o.save with
      | none => s
      | some v =>
        if total ≤ v.next then s
        else
          let a := dAddr o.d / 64 * 64 + v.next
          let n := nextSpan a (total - v.next)
          match memIssue false false a (n / 32) hDROP (.restoreRead id v.next) [] s with
          | none => s
          | some s' => restoreReads f id total (setSave id (fun v => { v with next := v.next + n, issued := v.issued + 1 }) s')

/-- Size of the area that its header names, within the descriptor's. -/
def restoreSize (o : Op) (v : SaveSt) : Nat := min (64 * dCount o.d) ((leNat (sliceB v.area 16 8) + 63) / 64 * 64)

/-- Accumulators and block words of an entry. -/
def entryValues (area : List Byte) (at' : Nat) (v : Ledger) : Ledger :=
  if v.state ≠ 1 then v
  else
    let acc := (List.range v.count).foldl (fun t e => tset 0#64 e (BitVec.ofNat 64 (leNat (sliceB area (at' + 64 + 8 * e) 8))) t) ([] : Table Word64)
    let b := at' + 64 + 8 * v.count
    let blocks := (List.range (ceilDiv v.count 32)).foldl (fun t j => tset 0#64 j (BitVec.ofNat 64 (leNat (sliceB area (b + 8 * j) 8))) t) ([] : Table Word64)
    { v with acc := acc, blocks := blocks }

def restoreEntries (v : SaveSt) : List (Nat × Nat × Ledger) := areaEntries v.area (min (leNat (sliceB v.area 12 4)) 4096) 64

/-- The record's check fails, or its home planes name a plane that the build lacks. -/
def recordBad (b : Build) (area : List Byte) (x : Nat × Nat × Ledger) : Bool :=
  let r := sliceB area x.1 64
  leNat (sliceB r 60 4) != (crc32c (r.take 60)).toNat || decide (2 ^ b.planes ≤ x.2.2.planes)

/-- The checks of R180, apart from the ledgers' states. -/
def restoreBad (o : Op) (v : SaveSt) (s : State) : Bool :=
  let a := v.area
  leNat (sliceB a 0 4) != saveMagic || leNat (sliceB a 6 2) != 3 || leNat (sliceB a 8 4) != 1
    || decide (64 * dCount o.d < leNat (sliceB a 16 8)) || leNat (sliceB a 60 4) != areaCheck (a.take (leNat (sliceB a 16 8)))
    || (restoreEntries v).any (recordBad s.build a)

/-- The page tag of a restored ledger's page in the pool: no page of a contribution bears it. -/
def restoreTag (l page : Nat) : Nat := 2 ^ 20 * (l + 1) + page

/-- One ledger is opened with its saved attributes (R160); it stays FREE and held until the RESTORE completes. None where the pool has no page for a spilled page. -/
def restoreLedger (area : List Byte) (x : Nat × Nat × Ledger) (y : Op × State) : Option (Op × State) :=
  let (o, s) := y
  let (at', n, v) := x
  if v.state ≠ 1 then some (o, setLedger n { v with state := 0, holder := some o.id, waiting := (ledgerAt n s).waiting } s)
  else
    let l := openPages (entryValues area at' v) (setOp o s)
    let spilled := (allPages l.fmt l.planes l.count).filter fun p => (pageSt l p.1 p.2).spilled
    let here := (planesOf l.planes).map fun p => (p, planePages l.fmt l.planes l.count p - (spilled.filter fun g => g.1 == p).length)
    let o := { o with regionPages := o.regionPages ++ here.filter fun h => h.2 != 0 }
    spilled.foldl (fun z g => z.bind fun z => takePool g.1 [restoreTag n g.2] z) (some (o, s)) |>.map fun z =>
      let l := spilled.foldl (fun (l : Ledger) g =>
        let i := (z.1.poolPages.find? fun q => q.1 == g.1 && q.2.1 == restoreTag n g.2).map fun q => q.2.2
        setPageSt g.1 g.2 ⟨true, true, i.toList⟩ l) l
      (z.1, setOp z.1 (setLedger n { l with state := 0, holder := some o.id, waiting := (ledgerAt n z.2).waiting } z.2))

/-- The 512 accumulators of a restored page. -/
def restoreImage (l : Ledger) (p page : Nat) : List Byte :=
  (List.range 512).flatMap fun i => leBytes 8 (tget 0#64 (elemAt l.fmt l.planes p (512 * page + i)) l.acc).toNat

/-- Writes of the first partial pages of spilled pages that are not on their way. -/
def restoreWrites (id : OpId) (s : State) : State :=
  withRunning id (fun o s =>
    o.poolPages.foldl (fun s x =>
      let n := x.2.1 / 2 ^ 20 - 1
      let page := x.2.1 % 2 ^ 20
      if o.partWritten.contains (x.1, x.2.1) || memHas (partPurpose o x) s then s
      else memTry true false (poolAddr x.1 x.2.2 s) 128 hKEEP (partPurpose o x) (restoreImage (ledgerAt n s) x.1 page) s) s) s

/-- Pages of the ledgers that a RESTORE opens in a plane, and those that the pool has free there. -/
def restorePages (es : List (Nat × Nat × Ledger)) (p : Nat) : Nat := (es.map fun x => if x.2.2.state = 1 then planePages x.2.2.fmt x.2.2.planes x.2.2.count p else 0).sum
def poolRoom (p : Nat) (s : State) : Nat := ((List.range (spillPages p s)).filter fun i => !(planeAt p s).pool.contains i).length

/-- The planes in which its pages spill, and of those the ones whose pool has too few (R160, R164). -/
def restoreSpills (es : List (Nat × Nat × Ledger)) (s : State) : List Nat := (List.range 8).filter fun p => decide (freePages p s < restorePages es p)
def restoreNeeds (es : List (Nat × Nat × Ledger)) (s : State) : List Nat := (restoreSpills es s).filter fun p => decide (freePages p s + poolRoom p s < restorePages es p)

/-- The RESTORE's claim: its ledgers are FREE, and every one is opened; it waits for pool pages, in the order of the requests (R164, R180). -/
def restoreClaim (o : Op) (v : SaveSt) (s : State) : State :=
  let es := restoreEntries v
  if restoreBad o v s || es.any fun x => (ledgerAt x.2.1 s).state != 0 || (ledgerAt x.2.1 s).holder.isSome then find_ (.failed o.id 0x54 queueSource) s
  else if pagesBlocked o.id (restoreSpills es s) s then pageWaitBegin o.id (restoreSpills es s) s
  else match es.foldl (fun z x => z.bind (restoreLedger v.area x)) (some (o, s)) with
    | none => pageWaitBegin o.id (restoreNeeds es s) s
    | some (o', s') =>
      restoreWrites o.id (pageWaitEnd o.id (setOp { o' with save := some { v with built := true }, progress := true } s'))

/-- One attempt of a RESTORE to go on. -/
def restoreStep (id : OpId) (cyc : Nat) (s : State) : State :=
  withRunning id (fun o s =>
    match o.save with
    | none => s
    | some v =>
      if !serving s || v.done || saveAhead id s then s
      else if v.built then
        if o.poolPages.any fun x => !o.partWritten.contains (x.1, x.2.1) then restoreWrites id s
        else modOp id (fun o => { o with save := some { v with done := true }, addAt := stamp cyc s, progress := true }) s
      else
        let total := if v.headerSent then restoreSize o v else 64
        if v.next < total then restoreReads (total / 32 + 1) id total s
        else if v.issued ≠ 0 then s
        else if !v.headerSent then
          let s := setSave id (fun v => { v with headerSent := true }) s
          restoreReads (restoreSize o v / 32 + 1) id (restoreSize o v) s
        else restoreClaim o v s) s

/-- The completion of a RESTORE: each ledger becomes OPEN or FAULTED as saved; a spilled page's values are in memory alone. DESIGN CHOICE (log 52): a record whose check holds and whose STATE is neither 1 nor 3 is restored in that state, without accumulators. -/
def restoreDone (o : Op) (s : State) : State :=
  match o.save with
  | none => s
  | some v =>
    let s := (restoreEntries v).foldl (fun s x =>
      let l := ledgerAt x.2.1 s
      let acc := l.acc.filter fun a => !(pageSt l (homePlane l.fmt l.planes a.1) (pageOf l.fmt l.planes a.1)).spilled
      let l := { l with state := x.2.2.state, holder := none, acc := if x.2.2.state = 1 then acc else l.acc }
      let s := setLedger x.2.1 l s
      if x.2.2.state = 3 then irq pLEDGER 0 s else s) s
    modOp o.id (fun o => { o with poolPages := [] }) s

/-! ### The commands -/

def execSave (op : OpId) (cyc : Nat) (s : State) : Answer := .next (inTransit (.save op cyc) (ofOp oSAVE op (saveStep op cyc)) s)
def execRestore (op : OpId) (cyc : Nat) (s : State) : Answer := .next (inTransit (.restore op cyc) (ofOp oRESTORE op (restoreStep op cyc)) s)

end Sys2Proof.Machine
end

