-- ==== Sys2Proof/Machine/Seal.lean ====
section
/-! DEFINITION. Seals and the delivery of failures (R36, R112, R143, R144, R159, R161, R178, R180, R197, R205, R208, R255 to R257, R263, R264, R268, R269). -/

namespace Sys2Proof.Machine

/-! ### Completion tallies and records -/

/-- The completion tally of an operation rises by 1 (R256); one that the build lacks does not exist. -/
def completionTally (o : Op) (s : State) : State :=
  if !dCompEn o.d || decide (48 ≤ dCompTally o.d) then s
  else ((if dCompMembers o.d then o.members else [dCompStall o.d]).filter fun n => hasStall n s).foldl (fun s n => addTally n (dCompTally o.d) 1#32 s) s

/-- PHASE: the run's parity for a standing order, else the lap of the slot (R263, R268, R269). -/
def recordPhase (o : Op) (s : State) : Bool :=
  let v := queueAt o.id.queue s
  if bitOf v.cfg 2 then o.id.run % 2 == 0 else if o.id.slot < v.head then !v.lap else v.lap

/-- The record's ledger number. DESIGN CHOICE (log 67): R268 gives none for an operation that names no ledger; the field is 0. -/
def recordLedgerNo (o : Op) : Nat := if namesLedger (dOp o.d) then dLedger o.d else 0

/-- A completion record from its eight words (R268). -/
def recordOf (ws : List Nat) : List Byte := ws.flatMap fun w => leBytes 4 (w % 2 ^ 32)

/-- Words common to a seal's and a failure's record: the transit is the seal's or the failure's. -/
def recordWords (o : Op) (transit : Word64) (status : Nat) (w0 w1 norm amax n1 n2 n3 : Nat) (s : State) : List Nat :=
  let t := transit.toNat
  [status + w0 + recordLedgerNo o * 2 ^ 20, w1 + t / 2 ^ 32 % 2 ^ 16 * 2 ^ 16, norm, amax, n1 % 2 ^ 24 + dOp o.d * 2 ^ 24, n2 % 2 ^ 24, t % 2 ^ 32,
    n3 % 2 ^ 24 + boolNat (recordPhase o s) * 2 ^ 31]

/-- The sum statistics of R208 apply. -/
def hasStats (o : Op) (l : Ledger) : Bool := isClosing (dOp o.d) && !intPath l.fmt

/-- ALM (R208): 1 after a hit, 2 after a miss of the first comparison. -/
def almCode (o : Op) : Nat := match o.eg.compared with | none => 0 | some true => 1 | some false => 2

/-- The record of a seal. -/
def sealRecord (o : Op) (s : State) : List Byte :=
  let l := if namesLedger (dOp o.d) then ledgerAt (dLedger o.d) s else Ledger.free
  let st := hasStats o l
  let m := (allMeasures o l).getD Measures.none
  let f := l.flags ||| o.freshFlags ||| o.legFlags ||| o.eg.flags
  let if0 := fun (b : Bool) (n : Nat) => if b then n else 0
  recordOf (recordWords o s.clock.transit 0
    (f.toNat * 2 ^ 8 + if0 st (almCode o * 2 ^ 12 + boolNat o.eg.rotated * 2 ^ 14) + boolNat o.creditOnly * 2 ^ 15 + boolNat o.recalled * 2 ^ 16
      + boolNat o.replayed * 2 ^ 17 + boolNat o.spilled * 2 ^ 18)
    (if0 st ((o.eg.a % 256).toNat + (o.eg.u % 256).toNat * 2 ^ 8)) (if0 st (normOf m).toNat) (if0 st m.amax.toNat)
    (if0 st o.eg.nForm1) (if0 st o.eg.nForm2) (if0 st o.eg.nForm3) s)

/-- The record of a failure: status, operation, ledger, phase, and the transit in which the descriptor failed. -/
def failRecord (o : Op) (code : BitVec 8) (transit : Word64) (s : State) : List Byte := recordOf (recordWords o transit code.toNat 0 0 0 0 0 0 0 s)

/-- The record's write is issued in this transit, or waits for the port (R256, R269). -/
def recordOut (o : Op) (b : List Byte) (s : State) : State :=
  let v := queueAt o.id.queue s
  issueRecords (setQueue o.id.queue { v with records := v.records ++ [(o.id.slot, b)] } s)

/-- An operation has ended; a standing order that waits to be unpinned goes with its run (R261). -/
def endOp (o : Op) (s : State) : State :=
  let s := removeOp o.id s
  { s with orders := s.orders.filter fun x => !(x.unpin && x.queue == o.id.queue && x.slot == o.id.slot) }

/-! ### When an operation seals (R255) -/

/-- Cycles from the last output beat to the seal: five, and with BINOCULAR_CHECK the comparison before them. -/
def outWait (o : Op) (s : State) : Nat := 5 + if dBino o.d && binoPaired s then 40 else 0

/-- Five cycles after its comparison and its leg's verdict (R255): from the next first edge on. -/
def doneReady (o : Op) (s : State) : Bool := o.doneAt = 0 || decide (o.doneAt + 5 ≤ s.clock.fclk)

/-- The leg's verdict has rung and no recall of it waits (R305). -/
def legReady (o : Op) (s : State) : Bool :=
  match o.leg with
  | none => true
  | some g => g.recallAt.isNone && (decide (g.n ≤ 1) || (verdictAt (verdictKey g.tgroup g.seq) s).rung)

/-- The speculative egress has been compared, and no recall or re-emission is due. -/
def specReady (o : Op) : Bool := !egHeld o && (!o.eg.spec || o.eg.trueAU.isSome)

def sealReady (o : Op) (s : State) : Bool :=
  let c := dOp o.d
  (!namesLedger c || o.claim == .claimed) && legReady o s && doneReady o s &&
    if hasOutput c then o.eg.ended && o.down.isEmpty && decide (o.eg.endedAt + outWait o s ≤ s.clock.fclk) && specReady o
    else decide (o.addAt + 5 ≤ s.clock.fclk) &&
      (if c = oSAVE ∨ c = oRESTORE then (match o.save with | some v => v.done | none => false) else if c = oLEDGER_ADD then contribDone o else true)

/-! ### What a seal does to the ledger -/

/-- The pages of a contribution join the ledger: partial mode and the pool pages in contribution order (R161). -/
def addPartials (o : Op) (l : Ledger) : Ledger :=
  o.poolPages.foldl (fun l x =>
    if 2 ^ 20 ≤ x.2.1 then l
    else let st := pageSt l x.1 x.2.1; setPageSt x.1 x.2.1 { st with partialMode := true, pool := st.pool ++ [x.2.2] } l) l

/-- A LEDGER_ADD seals: shadows become pages, partial pages stay in memory, flags and the count of contributions follow (R145, R159, R161). -/
def addSealed (o : Op) (s : State) : State :=
  let n := dLedger o.d
  let l := ledgerAt n s
  let acc := o.fresh.foldl (fun (t : Table Word64) (x : Nat × Option Word64) =>
    match x.2 with
    | none => t
    | some w => if toPartial o l x.1 then t else tset 0#64 x.1 w t) l.acc
  let l := addPartials o { l with acc := acc }
  let s := setLedger n { l with flags := l.flags ||| o.freshFlags, contribs := l.contribs + 1, holder := none } s
  endChain o (modOp o.id (fun o => { o with poolPages := o.poolPages.filter fun x => decide (2 ^ 20 ≤ x.2.1) }) s)

/-- The ledger of a seal (R144). -/
def ledgerSealed (o : Op) (s : State) : State :=
  let c := dOp o.d
  if c = oLEDGER_ADD then addSealed o s
  else if c = oLEDGER_OPEN ∨ !namesLedger c then s
  else releaseBias o.id (freeLedger (dLedger o.d) s)

/-- The chunks that are still to be released: now, or after their comparison (R264, R346). -/
def releaseRest (o : Op) (s : State) : State :=
  if !dEarly o.d then s
  else o.eg.chunkOut.foldl (fun s x => ((receivers o).filter fun n => !o.eg.released.contains (n, x.1)).foldl (fun s n =>
    if x.2.1 + releaseWait s ≤ s.clock.fclk then addTally n (dChunkTally o.d) 1#32 s
    else { s with late := s.late ++ [⟨o.id, dLedger o.d, n, x.1, dChunkTally o.d, x.2.1 + releaseWait s⟩] }) s) s

/-- What the assay learns from a sealed egress (R197, R205). -/
def assaySealed (o : Op) (s : State) : State :=
  let s := match o.eg.compared with
    | none => s
    | some hit => if o.eg.spec then almanacSeal (dAlmanac o.d) o.eg.a o.eg.u hit s else s
  if o.eg.nDecided = 0 then s else ctlUpdate (o.eg.nForm2 + o.eg.nForm3) o.eg.nDecided s

/-- SAVE and RESTORE at their completion. -/
def saveSealed (o : Op) (s : State) : State :=
  if dOp o.d = oSAVE then saveDone s else if dOp o.d = oRESTORE then restoreDone o s else s

/-- The attempt that sealed on the operation's ledger, for a late mismatch of its output (R355). -/
def noteSealed (o : Op) (s : State) : State :=
  if namesLedger (dOp o.d) then { s with log := { s.log with sealedAt := tset 0 (dLedger o.d) o.attempt s.log.sealedAt } } else s

def forgetVerdict (o : Op) (s : State) : State :=
  match o.leg with
  | none => s
  | some g => setVerdict (verdictKey g.tgroup g.seq) Verdict.idle s

/-- A seal in class 4 (R255, R256). -/
def sealApply (id : OpId) (s : State) : State :=
  withRunning id (fun o s =>
    if !sealReady o s then s
    else
      let rec' := sealRecord o s
      let s := dropPages id (saveSealed o (assaySealed o (ledgerSealed o s)))
      let s := forgetVerdict o (completionTally o (releaseRest o s))
      endOp o (recordOut o rec' (perf pcSeals 1 (noteSealed o s)))) s

/-! ### The delivery of a failure (R257) -/

/-- HALT_ON_ERR halts the queue as the failure is delivered; a halted queue keeps its code (R240, R257). -/
def failHalts (o : Op) (code : BitVec 8) (s : State) : State :=
  let v := queueAt o.id.queue s
  if qHaltOnErr v && v.state == 1 then queueHalt o.id.queue code s else s

/-- In class 4 of the transit after the failure. -/
def descriptorFailApply (id : OpId) (s : State) : State :=
  withOp id (fun o s =>
    match o.fail with
    | none => s
    | some (code, t) =>
      if !alive s || s.clock.transit == t then s
      else
        endOp o (failHalts o code (recordOut o (failRecord o code t s) (completionTally o (perf pcFails 1 s))))) s

/-! ### The commands -/

def execSeal (op : OpId) (s : State) : Answer := .next (inTransit (.seal op) (sealApply op) s)
def execDescriptorFail (op : OpId) (s : State) : Answer := .next (inTransit (.descriptorFail op) (descriptorFailApply op) s)

end Sys2Proof.Machine
end

