-- ==== Sys2Proof/Machine/Faults.lean ====
section
/-! DEFINITION. Faults by class (R333, R334, R343 to R345, R348 to R351, R358, R419). Faults that a rule of another chapter detects enter by that rule's own command; FAULT_DETECT is the detection of the codes that the hardware's checkers raise. -/

namespace Sys2Proof.Machine

/-! ### FABRIC_FATAL (R351) -/

/-- A link whose port is in reset: RING_PHY_ENABLE is low and nothing is sent (R71). -/
def linkInReset (l : Link) : Link := linkCleared l.cause l

/-- What is lost with the service, from the first edge after the fault on: operations, ledgers and their pages, tallies, bells, requests, and every port's state. -/
def serviceLost (s : State) : State :=
  let s := s.links.foldl (fun s p => changeLink p.1 linkInReset s) s
  let s := s.lines.foldl (fun s p => setLine p.1 { Line.idle with cfg := p.2.cfg } s) s
  let s := s.stalls.foldl (fun s p => setStall p.1 { p.2 with bellIn := 0#16, bellLow := 0#16, pend := none, dropTags := [] } s) s
  let s := s.planes.foldl (fun s p => setPlane p.1 { p.2 with pool := [], dnNext := 0, recalls := [], lastDn := none, exchNext := 0, nextChild := [] } s) s
  let s := s.queues.foldl (fun s q => setQueue q.1 { q.2 with fetched := [], records := [], badRecords := [] } s) s
  { s with clock := { s.clock with due := [], found := [] }, ops := [], late := [], pageWait := [], ledgers := [], verdicts := [], mem := [], memLate := [], injected := none, tabs := { s.tabs with tallies := [] } }

/-- The first edge after a fabric-fatal fault (R351): the ports take their values in reset. -/
def fatalEdge (s : State) : State := if s.clock.fabFault then serviceLost s else s

/-- The first fatal code and its transit (R418). -/
def noteFatal (code : Nat) (s : State) : State :=
  if reg rFATAL_CODE s != 0#32 then s
  else setReg64 rFATAL_TRANSIT_LO s.clock.transit (setReg rFATAL_CODE (BitVec.ofNat 32 code) s)

/-- The entry, its interrupt (R420), FAB_FAULT and FAB_READY: nothing is served until RST_N. -/
def fabricFatalNow (code : Nat) (src : BitVec 16) (s : State) : State :=
  if !alive s then s
  else
    let s := irq pGLOBAL 0 (noteFatal code (logFault ⟨code, clsFabricFatal, src, none, none⟩ s))
    { s with clock := { s.clock with fabFault := true, fabReady := false, readyNext := false } }

def isFabricCode (code : Nat) : Bool := code == 0xF0 || code == 0xF1 || code == 0xF2

/-! ### Detections (R77, R343, R358) -/

/-- An uncorrectable error by its place (R343): in what an operation wrote it is contained, and every member's contribution is asked again except for a reduced piece; in sealed values it is ledger-fatal. -/
def sramFault (code : BitVec 8) (src : BitVec 16) (place : FaultPlace) (s : State) : State :=
  match place with
  | .opPage id => containedHit id code src true s
  | .opPiece id => containedHit id code src false s
  | .seamBeat p id => containedHitOn id code src (seamPage p src) true s
  | .ledgerPage l =>
    if code == 0x33#8 && (ledgerAt l.toNat s).state != 0 then countEcc 0x33 (ledgerFatalLog l.toNat code src s) else s
  | .fabric => s

/-- The page that a corrected error names beside its source. -/
def correctedPage (src : BitVec 16) (place : FaultPlace) : Option Nat :=
  match place with
  | .seamBeat p _ => seamPage p src
  | .fabric | .opPage _ | .opPiece _ | .ledgerPage _ => none

/-- The idle side, reset by a REPAIR, fails its self-test: the block stays single (R357). -/
def repairFail (src : BitVec 16) (s : State) : State :=
  let servingB := bitOf (reg rBINO_STATE s) 4
  let mine := fun x : Place × Due => x.2 == .repaired
  if s.clock.due.any mine && src == source 8 (if servingB then 0 else 1) then notice 0x85 src { s with clock := { s.clock with due := s.clock.due.filter fun x => !mine x } } else s

def faultDetectApply (code : BitVec 8) (src : BitVec 16) (place : FaultPlace) (s : State) : State :=
  let c := code.toNat
  if !alive s then s
  else if c = 0x32 then countEcc c (logFault ⟨c, clsCorrectable, src, none, correctedPage src place⟩ s)
  else if c = 0x31 ∨ c = 0x33 then sramFault code src place s
  else if c = 0x85 then repairFail src s
  else if isFabricCode c then fabricFatalNow c src (countEcc c s)
  else s

/-! ### The replay of a contained fault (R343, R344) -/

/-- The contributors present again: after 0x31 and 0x33, and after the other causes where the operation does not sum. -/
def resendFor (o : Op) (code : Nat) : Bool := code == 0x31 || code == 0x33 || !isSum (dOp o.d)

/-- Codes of CONTAINED faults that replay (R334). -/
def isContained (code : Nat) : Bool := code == 0x30 || code == 0x31 || code == 0x33 || code == 0x80 || code == 0x83

/-- The fault is detected, where that has not happened, and the operation replays; one whose stored state is being compared waits for the outcome. -/
def containedReplayApply (id : OpId) (code : BitVec 8) (src : BitVec 16) (s : State) : State :=
  withOp id (fun o s =>
    if !alive s || !isContained code.toNat || o.comparing then s
    else
      let s := if o.replay.isSome then s else containedHit id code src (resendFor o code.toNat) s
      replayNow id code s) s

/-! ### LEDGER_FATAL and FABRIC_FATAL as such (R334) -/

/-- Codes that make a ledger FAULTED with an entry of their own. -/
def isLedgerFatal (code : Nat) : Bool :=
  code == 0x27 || code == 0x28 || code == 0x33 || code == 0x34 || code == 0x35 || code == 0x81 || decide (0x60 ≤ code ∧ code ≤ 0x65)

def ledgerFatalApply (l : BitVec 12) (code : BitVec 8) (src : BitVec 16) (s : State) : State :=
  let st := (ledgerAt l.toNat s).state
  if alive s && isLedgerFatal code.toNat && (st == 1 || st == 2) then ledgerFatalLog l.toNat code src (if code = 0x33#8 then countEcc 0x33 s else s) else s

def fabricFatalApply (code : BitVec 8) (src : BitVec 16) (s : State) : State :=
  if isFabricCode code.toNat then fabricFatalNow code.toNat src (if alive s then countEcc code.toNat s else s) else s

/-! ### The watchdog (R348) -/

/-- Operations that have a watchdog: a ledger held, be it one that a RESTORE restores, a leg running, or an up phase open. -/
def watched (o : Op) (s : State) : Bool := o.fail.isNone && (s.ledgers.any (fun x => x.2.holder == some o.id) || o.leg.isSome || !o.upOpen.isEmpty)

/-- A memory request of the operation is outstanding within MEMPORT.TIMEOUT (R51, R348). -/
def memHolds (o : Op) (s : State) : Bool := s.mem.any fun r => purposeOp r.purpose == some o.id && decide (s.clock.now < r.issuedAt + memTimeoutUnits s)

def watchdogLimit (s : State) : Nat := regNat rWATCHDOG s

/-- The count of idle transits has reached the limit. -/
def watchdogDue (o : Op) (s : State) : Bool := watchdogLimit s != 0 && decide (watchdogLimit s ≤ o.idle)

def watchdogApply (id : OpId) (s : State) : State :=
  withOp id (fun o s => if alive s && watched o s && watchdogDue o s && !memHolds o s then opFatal id 0x35#8 (source 0 0) s else s) s

/-! ### Binocular mismatches on an operation's output (R354) -/

/-- A mismatch of a SAVE or RESTORE, which holds no ledger of its own: the fault enters, and the sides compare (R344, R345, R354). -/
def saveMismatch (id : OpId) (src : BitVec 16) (s : State) : State :=
  withOp id (fun o s =>
    let e : LogIn := ⟨0x80, clsContained, src, none, none⟩
    let again := o.struck == some s.clock.transit
    if failedNow o s then afterFailure o e (countMismatch 0x80 s)
    else if o.save.isNone then s
    else if !again && decide (2 ≤ o.attempt) then opFail id 0x34 (logFault ⟨0x34, clsLedgerFatal, src, none, none⟩ (struckNow id 0x34 s))
    else
      let s := (if again then logChained 0x80 e else logFault e) (countMismatch 0x80 s)
      modOp id (fun o => { o with comparing := true, progress := true, struck := some s.clock.transit, attempt := if again then o.attempt else o.attempt + 1 }) s) s

/-- Its replay: the transfer starts again (R178, R343). -/
def saveAgain (id : OpId) (s : State) : State :=
  withOp id (fun o s =>
    perf pcReplays 1 (setOp { o with replayed := true, foldBuf := [], save := some ⟨[], 0, 0, 0, false, false, false⟩ } (memForget (fun p => purposeOp p == some id) s))) s

/-- SOURCE of a mismatch: the side that does not serve is as suspect as the other; the entry names side A (R336). -/
def binoSource : BitVec 16 := source 8 0

/-- The request whose data differed is withheld: it never left (R353, R354). -/
def withholdWrite (id : OpId) (req : BitVec 8) (s : State) : State :=
  match s.mem.find? fun r => r.write && r.id == req.toNat && purposeOp r.purpose == some id with
  | none => s
  | some r =>
    let upTo := s.out.reverse.dropWhile fun x => match x with | .memWrite i _ _ _ => i != r.id | _ => true
    let after := (s.out.reverse.takeWhile fun x => match x with | .memWrite i _ _ _ => i != r.id | _ => true).reverse
    { removeReq r s with out := (upTo.drop 1).reverse ++ after.dropWhile fun x => match x with | .memWData .. => true | _ => false }

/-- The step of the leg whose flit the port sends next, where it has one to send. -/
def differingStep (g : Leg) (port : Nat) (s : State) : Option TxStep :=
  ((linkAt port s).txq.flatten.find? fun f => f.kind == 1 && g.tx.any fun t => t.port == port && t.sid == f.step).bind fun f =>
    g.tx.find? fun t => t.port == port && t.sid == f.step

/-- The flit that differed is not transmitted, nor is what follows it in its step: the step is left unfinished, and the recall ends it on the wire (R347, R353, R354). -/
def withholdFlit (id : OpId) (port : Nat) (s : State) : State :=
  withOp id (fun o s =>
    match o.leg.bind fun g => (differingStep g port s).map fun t => (g, t) with
    | none => s
    | some (g, t) =>
      let l := linkAt port s
      let s := setLink port { l with txq := l.txq.map fun q => q.filter fun f => !(f.kind == 1 && f.step == t.sid) } s
      setOp { o with leg := some (putTx { t with lastQueued := false, buf := [], head := [], left := 0, hit := false } g) } s) s

/-- What a mismatch keeps from leaving the block (R353). -/
def withhold (point : BinoPoint) (s : State) : State :=
  match point with
  | .downChunk _ => s
  | .ringFlit id port => withholdFlit id port s
  | .memWrite id req => withholdWrite id req s

/-- The operation whose output differed. -/
def pointOp (point : BinoPoint) : OpId :=
  match point with
  | .downChunk id | .ringFlit id _ | .memWrite id _ => id

/-- 0x80: the data is withheld, the fault enters, and the comparison of the operation's stored state begins; one that differs while that comparison runs is withheld and enters too (R354). -/
def binoMismatchOn (point : BinoPoint) (s : State) : State :=
  let id := pointOp point
  withOp id (fun o s =>
    if !binoPaired s then s
    else
      let s := withhold point s
      if dOp o.d = oSAVE ∨ dOp o.d = oRESTORE then saveMismatch id binoSource s
      else
        let s := containedHit id 0x80#8 binoSource (!isSum (dOp o.d)) s
        withOp id (fun o s => if o.replay.isSome && o.fail.isNone then setOp { o with comparing := true, progress := true } s else s) s) s

/-! ### Injections (R419) -/

def injectKind (s : State) : Nat := fieldOf (reg rINJECT s) 0 4
def injectInst (s : State) : Nat := fieldOf (reg rINJECT s) 8 3
def injectArmed (s : State) : Bool := bitOf (reg rINJECT s) 31

/-- A running contribution has written a word of a page on the plane. -/
def wrotePage (o : Op) (p : Nat) (s : State) : Bool :=
  let l := ledgerAt (dLedger o.d) s
  o.fail.isNone && o.claim == .claimed && o.fresh.any fun x => homePlane l.fmt l.planes x.1 == p

/-- It, or its leg in a reduced piece, has written a counting-house word on the plane. -/
def wroteWord (o : Op) (p : Nat) (s : State) : Bool :=
  let l := ledgerAt (dLedger o.d) s
  wrotePage o p s || (o.fail.isNone && match o.leg with | some g => g.region.any fun x => homePlane l.fmt l.planes x.1 == p | none => false)

/-- The occasion that KIND describes, on the named operation; kinds 3 and 4 alter the next chunk or flit of the port. -/
def injectOccasion (op : Option OpId) (s : State) : Bool :=
  let n := injectInst s
  let on := fun f : Op → Bool => (op.bind fun id => opAt id s).any f
  match injectKind s with
  | 1 => hasPlane n s && on fun o => wroteWord o n s
  | 2 => hasPlane n s && on fun o => wrotePage o n s
  | 3 => hasPort n s
  | 4 => hasPort n s
  | 5 => hasPlane n s && binoPaired s && on fun o => o.eg.shown && (opPlanes o s).contains n
  | _ => false

/-- The fault that the kind describes; what goes out on a ring port is altered as it is sent, and the injection fires there. -/
def injectFault (op : Option OpId) (s : State) : State :=
  let n := injectInst s
  match injectKind s, op with
  | 1, _ => fireInjection (countEcc 0x32 (logFault ⟨0x32, clsCorrectable, source 1 n, none, none⟩ s))
  | 2, some id => fireInjection (sramFault 0x33#8 (source 1 n) (.opPage id) s)
  | 5, some id => fireInjection (binoMismatchOn (.downChunk id) s)
  | 3, _ => { s with injected := some (reg rINJECT s) }
  | 4, _ => { s with injected := some (reg rINJECT s) }
  | _, _ => s

def injectFireApply (op : Option OpId) (s : State) : State :=
  if !serving s || !injectArmed s || !injectOccasion op s then s else injectFault op s

/-! ### The commands -/

def execFaultDetect (code : BitVec 8) (src : BitVec 16) (place : FaultPlace) (s : State) : Answer :=
  .next (inTransit (.faultDetect code src place) (faultDetectApply code src place) s)
def execContainedReplay (op : OpId) (code : BitVec 8) (src : BitVec 16) (s : State) : Answer :=
  .next (inTransit (.containedReplay op code src) (containedReplayApply op code src) s)
def execLedgerFatal (ledger : BitVec 12) (code : BitVec 8) (src : BitVec 16) (s : State) : Answer :=
  .next (inTransit (.ledgerFatal ledger code src) (ledgerFatalApply ledger code src) s)
def execFabricFatal (code : BitVec 8) (src : BitVec 16) (s : State) : Answer :=
  .next (inTransit (.fabricFatal code src) (fabricFatalApply code src) s)
def execWatchdog (op : OpId) (s : State) : Answer := .next (inTransit (.watchdog op) (watchdogApply op) s)
def execInjectFire (op : Option OpId) (s : State) : Answer := .next (inTransit (.injectFire op) (injectFireApply op) s)

end Sys2Proof.Machine
end

