-- ==== Sys2Proof/Machine/Binocular.lean ====
section
/-! DEFINITION. The binocular pair (R353 to R358, R416): mismatches, the comparison of stored state, side faults, takeover, and re-pairing. -/

namespace Sys2Proof.Machine

/-- A mismatch at a down chunk, a ring flit or a memory write. -/
def binoMismatchApply (point : BinoPoint) (s : State) : State := if alive s then binoMismatchOn point s else s

/-- The comparison of stored state ends: a difference faults the ledger with 0x81, agreement replays the operation. -/
def binoStateApply (id : OpId) (differ : Bool) (s : State) : State :=
  withOp id (fun o s =>
    if !alive s || !o.comparing then s
    else
      let s := setOp { o with comparing := false, progress := true } s
      if differ then opFatal id 0x81#8 binoSource s else if o.save.isSome then saveAgain id s else replayNow id 0x80#8 s) s

/-- 0x84: a mismatch of a sealed result, whose entry names the ledger and the attempt that sealed on it, or of a tally, bell or record output; nothing else changes. -/
def lateMismatchApply (ledger : Option (BitVec 12)) (s : State) : State :=
  if !alive s || !binoPaired s then s
  else count rLATE_MISMATCHES 1 (logFault ⟨0x84, clsLedgerFatal, binoSource, ledger.map fun l => (l.toNat, tget 0 l.toNat s.log.sealedAt), none⟩ s)

/-- 0x82 under AUTO: it enters with its side as the source, and a paired block is served by the other side; a side that does not serve a single block loses nothing more. -/
def sideLost (sideB : Bool) (s : State) : State :=
  let paired := binoPaired s
  let s := logFault ⟨0x82, clsContained, source 8 (if sideB then 1 else 0), none, none⟩ s
  if paired then moveService (!sideB) s else s

/-- A fault that would be fabric-fatal, confined to one side: 0x82, unless it strikes the side that serves a single block (R356). -/
def sideFaultApply (sideB : Bool) (code : BitVec 8) (s : State) : State :=
  let src := source 8 (if sideB then 1 else 0)
  if !alive s || !isFabricCode code.toNat then s
  else
    let s := countEcc code.toNat s
    if !binoPaired s && sideB == servingB s then fabricFatalNow 0xF2 src s
    else
      let s := setReg rSIDE_FAULT_CODE (code.setWidth 32) s
      if bitOf (reg rBINO_POLICY s) 0 then fabricFatalNow 0x82 src s else sideLost sideB s

/-- CMD TAKEOVER (R356): it acts as a side fault of the serving side under AUTO, in class 2 of the next transit, without an entry of its own. -/
def takeoverApply (s : State) : State := if alive s && binoPaired s then find_ (.takeover (servingB s)) s else s

/-- CMD REPAIR (R357): pending until the next SAVE completes; ignored while PAIRED. -/
def repairApply (s : State) : State := if alive s && decide (2 ≤ binoState s) then orReg rBINO_STATE (bit 5) s else s

/-- CMD 3 withdraws a pending REPAIR (R416). -/
def repairWithdrawApply (s : State) : State := if alive s then setReg rBINO_STATE (reg rBINO_STATE s &&& ~~~(bit 5)) s else s

/-! ### The commands -/

/-- A command of a binocular side: the build has two. -/
def onSides (c : Instr) (f : State → State) (s : State) : Answer :=
  if s.build.paired then .next (inTransit c f s) else .fault .noSuchSide

def execBinoMismatch (point : BinoPoint) (s : State) : Answer := onSides (.binoMismatch point) (binoMismatchApply point) s
def execBinoStateCompare (op : OpId) (differ : Bool) (s : State) : Answer :=
  onSides (.binoStateCompare op differ) (binoStateApply op differ) s
def execLateMismatch (ledger : Option (BitVec 12)) (s : State) : Answer := onSides (.lateMismatch ledger) (lateMismatchApply ledger) s
def execSideFault (sideB : Bool) (code : BitVec 8) (s : State) : Answer := onSides (.sideFault sideB code) (sideFaultApply sideB code) s

end Sys2Proof.Machine
end

