-- ==== Sys2Proof/Machine/Steward.lean ====
section
/-! DEFINITION. The steward as the manual gives it: its states, its watchdog (R379, R404), and the guards of its actions (R273, R378, R405, R423). What its firmware decides to do arrives as commands of the agent `steward`. -/

namespace Sys2Proof.Machine

/-! ### Running, reset, held -/

def stewardSource : BitVec 16 := source 5 0

/-- The steward starts at ENTRY from its instruction memory; a new window begins. -/
def stewardStart (s : State) : State :=
  setStewardState 1 { s with steward := { s.steward with starts := s.steward.starts + 1, kickAt := s.clock.now } }

/-- A second in units of 1/16 ns. -/
def unitsSec : Nat := 16000000000

/-- KICK: the window starts again. -/
def kickNow (s : State) : State := { s with steward := { s.steward with kickAt := s.clock.now } }

/-- A missed window: 0x74 and a reset; the third within one second holds the steward, with 0x75 (R379). -/
def stewardWatchdogApply (s : State) : State :=
  if !alive s || !stewardRuns s || decide (s.clock.now < s.steward.kickAt + regNat rWDOG_WINDOW s * unitsUs) then s
  else
    let s := count rWDOG_RESETS 1 (notice 0x74 stewardSource s)
    let times := (s.steward.resetTimes.filter fun t => decide (s.clock.now < t + unitsSec)) ++ [s.clock.now]
    let s := { s with steward := { s.steward with resetTimes := times } }
    if 3 ≤ times.length then irq pSTEWARD 1 (setStewardState 2 (notice 0x75 stewardSource s)) else stewardStart s

/-- CMD RESTART: a held steward whose firmware is authentic runs again (R379, R404). -/
def stewardRestartNow (s : State) : State :=
  if stewardState s = 2 && !bitOf (reg rSTEWARD_STATE s) 4 then stewardStart { s with steward := { s.steward with resetTimes := [] } } else s

/-! ### Guards (R378) -/

/-- The steward's own copies (R393). -/
def isOwnCopy (addr : Nat) : Bool :=
  match regRow addr with
  | some r => r.acc == .sel
  | none => false

/-- The code that blocks a steward's access to a register; 0 where it is free. -/
def guardCode (write : Bool) (addr : Nat) : Nat :=
  let off := addr % 0x1000
  let own := off == 0x008
  if 0x100000 ≤ addr then 0
  else
    let k := pageKind (addr / 0x1000)
    if k == .diag then 0x73
    else if !write || isOwnCopy addr then 0
    else match k with
      | .ring => if own then 0 else if 0x060 ≤ off ∧ off ≤ 0x08C ∧ off ≠ 0x07C then 0x71 else if off = 0x044 ∨ off = 0x050 ∨ off = 0x054 then 0 else 0x72
      | .plane | .topology | .queue | .ledger | .stall | .owner | .config | .power | .binocular | .memport => 0x72
      | .assay => if off = 0x040 ∨ off = 0x044 ∨ off = 0x054 ∨ off = 0x058 ∨ off = 0x05C ∨ off = 0x064 then 0 else 0x72
      | .errlog => if own || off == 0x044 || off == 0x048 then 0x72 else 0
      | .steward => if own || off == 0x04C then 0x72 else 0
      | .global | .meridian | .ephemeris | .bell | .perf => if own then 0x72 else 0
      | .diag | .none => 0

/-- A blocked action: its code, the count, and GUARD_LAST (R404). -/
def guardHit (code addr : Nat) (s : State) : State :=
  setReg rGUARD_LAST (BitVec.ofNat 32 (code + addr % 2 ^ 22 * 2 ^ 8)) (count rGUARD_COUNT 1 (notice code stewardSource s))

/-- The code that blocks a transmission, 0 where it is free: a port that is ABSENT or has no partner in the topology table, or a channel at its cap; training and time frames belong to no channel (R273, R300, R314). -/
def sendGuard (port : Nat) (vc : Option Nat) (s : State) : Nat :=
  if portAbsent port s || (partnerCoords port s).isNone then 0x70
  else match vc with
    | some c => if withinCap port c s.clock.fclk s then 0 else 0x71
    | none => 0

/-- What a steward's write would transmit: a remote ADD on a channel, a training, a time frame. -/
def stewardSends (addr : Nat) (v : Word) (s : State) : Option (Nat × Option Nat) :=
  if addr = 0x0C058 then (if bitOf v 0 then some (fieldOf (reg (rSIG_PORT + stewardCopy) s) 0 3, some (fieldOf (reg (rSIG_VC + stewardCopy) s) 0 2)) else none)
  else if addr = 0x02044 then (if fieldOf v 0 4 = 1 then some (calPort s, none) else none)
  else if pageKind (addr / 0x1000) == .ring && addr % 0x1000 == 0x044 && fieldOf v 0 4 == 1 then some (addr / 0x1000 - 0x18, none)
  else none

/-- The code that blocks a steward's write, and whether it is the write itself or what it would transmit that is blocked. -/
def storeGuard (addr : Nat) (v : Word) (s : State) : Nat × Nat :=
  let code := guardCode true addr
  if code ≠ 0 then (code, addr)
  else match stewardSends addr v s with
    | some (p, c) => (sendGuard p c s, 0)
    | none => (0, addr)

/-- The code that blocks an action, and its register address. -/
def guardOf (a : StewardAction) (s : State) : Nat × Nat :=
  match a with
  | .transmit port vc => (sendGuard port (some vc) s, 0)
  | .write addr v => storeGuard addr.toNat v s
  | .diagRead addr => (guardCode false addr.toNat, addr.toNat)
  | .memRequest addr sectors => (if inWindow addr (32 * sectors) s then 0 else 0x63, 0)
  | .forceCondition => (0x73, 0)

/-- A forbidden action is blocked and has no effect; an allowed one is not this event. -/
def stewardGuardApply (a : StewardAction) (s : State) : State :=
  let (code, addr) := guardOf a s
  if !alive s || !stewardRuns s || code == 0 then s
  else
    let s := match a with | .memRequest m _ => noteErr 0x63 0 m s | _ => s
    guardHit code addr s

/-! ### The commands -/

def execStewardWatchdog (s : State) : Answer := .next (inTransit .stewardWatchdog stewardWatchdogApply s)
def execStewardGuard (action : StewardAction) (s : State) : Answer := .next (inTransit (.stewardGuard action) (stewardGuardApply action) s)

end Sys2Proof.Machine
end

