-- ==== Sys2Proof/Machine/Power.lean ====
section
/-! DEFINITION. Power and throttle (R380 to R385, R409, R410): FENCED, IDLE, THROTTLE, plane power-down, and soft resets. -/

namespace Sys2Proof.Machine

/-! ### Class 1: FENCE_IN, THROTTLE, POWER.FENCE (R380, R384) -/

/-- FENCED as its two causes give it; POWER interrupts where STATE changes (R420). -/
def setFenced (b : Bool) (s : State) : State :=
  let s' := { s with clock := { s.clock with fenced := b } }
  if powerState s = powerState s' then s' else irq pPOWER 0 s'

/-- POWER.FENCE as it acts in class 1. -/
def fenceBit (s : State) : Bool := bitOf (reg rFENCE s) 0

/-- Class 1 of a boundary: POWER.FENCE as the transit before left it acts. -/
def fenceEdge (s : State) : State := setFenced (s.clock.fenceIn || fenceBit s) s

/-- A filtered change of FENCE_IN; the 0x18 detector counts from a rise (R223). -/
def fenceInApply (level : Bool) (s : State) : State :=
  if !alive s then s
  else
    let m := s.mer
    let m := if level && !s.clock.fenceIn then { m with fenceHighSince := s.clock.now } else m
    let s := { s with clock := { s.clock with fenceIn := level }, mer := m }
    setFenced (level || fenceBit s) s

def throttleApply (v : BitVec 2) (s : State) : State :=
  if !alive s || s.clock.throttle == v then s
  else noteThrottle (overThrottle s) (irq pPOWER 2 { s with clock := { s.clock with throttle := v } })

/-! ### IDLE (R380, R381) -/

/-- No started, unsealed operation and no active ring step. -/
def idleNow (s : State) : Bool := s.ops.all (fun o => o.fail.isSome) && (s.links.all fun x => x.2.relays.isEmpty) && (allLegs s).isEmpty

/-- IDLE_DELAY transits have been idle. -/
def idleEnterApply (s : State) : State :=
  if alive s && !s.clock.gated && idleNow s && decide (regNat rIDLE_DELAY s ≤ s.clock.idleRun) then setGated true s else s

/-! ### Plane power-down (R383) -/

/-- A plane's share holds no allocated page, and no started, unsealed operation has it in its mask. -/
def planeEmpty (p : Nat) (s : State) : Bool := usedPages p s == 0 && s.ops.all fun o => o.fail.isSome || !(planesOf o.planes).contains p

def powerRefuse (s : State) : State := notice 0x99 (source 0 0) s

/-- The effective power-down bit of a plane: its register's. -/
def planePd (p : Nat) (s : State) : Bool := bitOf (reg rPLANE_PD s) p

/-- One bit of a PLANE_PD write: power-down where the plane is free, power-up; bits of absent or FAILED planes are ignored. -/
def planePdBit (v : Word) (s : State) (p : Nat) : State :=
  if planePower p s == 2 || planePd p s == bitOf v p then s
  else if bitOf v p then
    if planeEmpty p s then setPlane p { planeAt p s with pdNext := some true } (orReg rPLANE_PD (bit p) s) else powerRefuse s
  else setPlane p { planeAt p s with pdNext := some false } (setReg rPLANE_PD (reg rPLANE_PD s &&& ~~~(bit p)) s)

def planePdWrite (v : Word) (s : State) : State := (List.range s.build.planes).foldl (planePdBit v) s

/-- PLANE_STATE changes (R420). -/
def setPower (p n : Nat) (s : State) : State :=
  let v := planeAt p s
  if v.power = n then s else irq pPOWER 1 (setPlane p { v with power := n } s)

/-- A plane's stall ports take their values in reset (R71). -/
def planePortsReset (p : Nat) (s : State) : State :=
  let b : BitVec 8 := BitVec.ofNat 8 (2 ^ p)
  s.stalls.foldl (fun s x => if x.2.upValid.getLsbD p then setStall x.1 { x.2 with upValid := x.2.upValid &&& ~~~b } s else s) s

/-- Class 1 after an accepted write: the plane goes OFF, or its share's self-test begins. -/
def planePdEdge (s : State) (p : Nat) : State :=
  let v := planeAt p s
  match v.pdNext with
  | none => s
  | some true => planePortsReset p (setPower p 1 (setPlane p { v with pdNext := none, dnNext := 0, recalls := [], lastDn := none, exchNext := 0, nextChild := [] } s))
  | some false => let s := setPlane p { v with pdNext := none } s; if v.power = 1 then setPower p 3 s else s

/-! ### Self-tests (R362, R383) -/

/-- A word of the trim set, as it was read. -/
def trimWord (w : Nat) (s : State) : Word := tget 0#32 w s.tabs.trims

/-- Spare rows of a macro that valid REPAIR entries take, and faulty rows that its self-test found (R362, R418). -/
def repairTrims (m : Nat) (s : State) : Nat :=
  if s.boot.trimsValid then ((List.range 256).filter fun i => let w := trimWord (2 + i) s; bitOf w 31 && fieldOf w 12 12 == m).length else 0
def repairTests (m : Nat) (s : State) : Nat := (s.boot.testRows.filter fun x => x.1 == m).length

/-- Macros whose faulty rows outnumber their spare rows (R362). -/
def failedMacros (s : State) : List Nat :=
  let named := (List.range 256).filterMap fun i => let w := trimWord (2 + i) s; if s.boot.trimsValid && bitOf w 31 then some (fieldOf w 12 12) else none
  ((named ++ s.boot.testRows.map fun x => x.1).eraseDups).filter fun m => decide (Config.spareRows m < repairTrims m s + repairTests m s)

/-- A plane's share has a macro that ran out of spare rows. -/
def shareFails (p : Nat) (s : State) : Bool := (failedMacros s).any fun m => Config.macroPlane m == some p

/-- A plane is failed: 0x93, and it stays powered down until RST_N; its power-down bit is ignored from here on (R362, R383). -/
def failPlane (p : Nat) (s : State) : State :=
  let s := setPower p 2 (notice 0x93 (source 1 p) s)
  setPlane p { planeAt p s with pdNext := none } (setReg rPLANE_PD (reg rPLANE_PD s &&& ~~~(bit p)) s)

/-- The self-test of a powered-up share ends: the faulty rows that it found replace those of the test before (R362, R383). -/
def planeSelftestApply (p : Nat) (rows : List (Nat × Nat)) (s : State) : State :=
  if !alive s || planePower p s != 3 then s
  else
    let inShare := fun x : Nat × Nat => Config.macroPlane x.1 == some p
    let s := { s with boot := { s.boot with testRows := (s.boot.testRows.filter fun x => !inShare x) ++ rows.filter inShare } }
    if shareFails p s then failPlane p s else setPower p 0 s

/-! ### Soft resets (R385, R390) -/

/-- PAGE_CTRL as it is stored: bits [2:1]. -/
def pageCtrlWrite (page : Nat) (v : Word) (s : State) : State :=
  let s := orReg (rPageCtrl page) (v &&& 6#32) s
  if bitOf v 1 && pageKind page == .ring then ringSoftReset (page - 0x18) s else s

/-- A plane's soft reset: its FLAGS clear and its ports go through their reset values; its pipelines are empty, since no operation uses it. -/
def planeSoftReset (p : Nat) (s : State) : State :=
  if planeEmpty p s then planePortsReset p (setPlane p { planeAt p s with dnNext := 0, recalls := [], lastDn := none, exchNext := 0, nextChild := [] } (setReg (rPLANE_FLAGS p) 0#32 s)) else powerRefuse s

/-- A soft reset acts in class 1, or is refused there. -/
def softResetAct (page : Nat) (s : State) : State :=
  match pageKind page with
  | .plane => planeSoftReset (page - 0x10) s
  | .ring => s
  | .steward => if stewardState s = 2 then powerRefuse s else if stewardRuns s then stewardStart s else s
  | _ => powerRefuse s

/-- Pages with a request, and the bit that clears itself. -/
def softResetEdge (s : State) : State :=
  (List.range 0x41).foldl (fun s page =>
    if bitOf (reg (rPageCtrl page) s) 1 then softResetAct page (setReg (rPageCtrl page) (reg (rPageCtrl page) s &&& ~~~2#32) s) else s) s

/-- Class 1 of a boundary. -/
def powerEdge (s : State) : State := softResetEdge ((List.range s.build.planes).foldl planePdEdge (fenceEdge s))

/-! ### The commands -/

def execFenceInChange (level : Sampled Bool) (s : State) : Answer :=
  if filterPasses level.edges s then .next (inTransit (.fenceInChange level) (fenceInApply level.level) s) else .next s
def execThrottleChange (value : Sampled (BitVec 2)) (s : State) : Answer :=
  if filterPasses value.edges s then .next (inTransit (.throttleChange value) (throttleApply value.level) s) else .next s
def execIdleEnter (s : State) : Answer := .next (inTransit .idleEnter idleEnterApply s)
def execPlaneSelftestDone (plane : Nat) (rows : List (Nat × Nat)) (s : State) : Answer :=
  if hasPlane plane s then .next (inTransit (.planeSelftestDone plane rows) (planeSelftestApply plane rows) s) else .fault .noSuchStallPort

end Sys2Proof.Machine
end

