-- ==== Sys2Proof/Machine/Owner.lean ====
section
/-! DEFINITION. Ownership (R373 to R377, R397, R398) and the mailboxes (R399). -/

namespace Sys2Proof.Machine

def mgmtSource (port : Nat) : BitVec 16 := source 9 port

/-- CONFIG.STATUS.PHASE (R359, R406). -/
def phaseOf (s : State) : Nat := fieldOf (reg rCFG_STATUS s) 8 4
def setPhase (n : Nat) (s : State) : State :=
  let s := setReg rCFG_STATUS ((reg rCFG_STATUS s &&& ~~~0xF00#32) ||| BitVec.ofNat 32 (n * 256)) s
  { s with clock := { s.clock with phase := n, phaseAt := s.clock.now } }

/-! ### Claims and the election (R373) -/

def claimAt (port : Nat) (s : State) : Option Claim := tget none port s.owner.claims

/-- A claim is held from the first write sampled while no owner exists. -/
def claimWrite (port master : Nat) (nonce : BitVec 16) (s : State) : State :=
  if s.owner.state = 1 || (claimAt port s).isSome then s
  else { s with owner := { s.owner with claims := tset none port (some ⟨master, nonce, s.clock.transit⟩) s.owner.claims } }

/-- The earliest claim; ties go to the lowest port. -/
def firstClaim : List (Nat × Option Claim) → Option (Nat × Claim)
  | [] => none
  | (_, none) :: t => firstClaim t
  | (p, some c) :: t =>
    match firstClaim t with
    | some (q, d) => if d.transit.toNat < c.transit.toNat then some (q, d) else some (p, c)
    | none => some (p, c)

/-- The offer is made no longer: LIVE reads 0 (R374, R398). -/
def offerEnd (s : State) : State := setReg rOFFER (reg rOFFER s &&& 0x7FFFFFFF#32) s

/-- A new owner: OWNER_ID, STATE, the heartbeat window, the interrupt (R375, R420). -/
def newOwner (port master : Nat) (nonce : BitVec 16) (s : State) : State :=
  irq pOWNER 1 { s with owner := { s.owner with state := 1, port := port, master := master, nonce := nonce, next := none, hbStart := s.clock.now } }

/-- The election: in phase 8, or in vacancy. With it start-up ends, and FAB_READY rises at the next first edge (R359). -/
def ownerElectionApply (s : State) : State :=
  if !alive s || s.owner.state == 1 || !(phaseOf s == 8 || s.owner.state == 2) then s
  else match firstClaim s.owner.claims with
    | none => s
    | some (p, c) =>
      let s := newOwner p c.master c.nonce { s with owner := { s.owner with claims := [] } }
      if phaseOf s = 8 then { s with clock := { s.clock with readyNext := true } } else s

/-! ### Handover (R374) -/

def offerWrite (v : Word) (s : State) : State :=
  setReg rOFFER (v &&& 0x8000FF03#32) { s with owner := { s.owner with offerStart := s.clock.now } }

def offerMatches (port master : Nat) (s : State) : Bool :=
  let o := reg rOFFER s
  bitOf o 31 && fieldOf o 0 2 == port && fieldOf o 8 8 == master

/-- An accept: ownership passes after the accesses of the transit, or 0xA2. -/
def acceptWrite (port master : Nat) (nonce : BitVec 16) (s : State) : State :=
  if s.owner.state == 1 && offerMatches port master s then offerEnd { s with owner := { s.owner with next := some (port, master, nonce) } }
  else notice 0xA2 (mgmtSource port) s

def offerLapseApply (s : State) : State :=
  if alive s && bitOf (reg rOFFER s) 31 && decide (s.owner.offerStart + regNat rOFFER_WINDOW s * unitsMs ≤ s.clock.now) then offerEnd s else s

/-! ### Heartbeat and vacancy (R375, R376) -/

def heartbeatNow (s : State) : State := { s with owner := { s.owner with hbStart := s.clock.now } }

def ownerVacantApply (s : State) : State :=
  let w := regNat rHEARTBEAT_WINDOW s
  if alive s && s.owner.state == 1 && w != 0 && decide (s.owner.hbStart + w * unitsMs ≤ s.clock.now) then
    offerEnd (notice 0xA0 (mgmtSource s.owner.port) { s with owner := { s.owner with state := 2, next := none } })
  else s

/-- After the accesses of a transit: an accepted handover, then the roles of the next transit. -/
def ownerEdge (s : State) : State :=
  let s := match s.owner.next with
    | none => s
    | some (p, m, n) => newOwner p m n s
  { s with owner := { s.owner with role := if s.owner.state = 1 then some (s.owner.port, s.owner.master) else none } }

/-! ### Refused writes (R377) -/

/-- A write of a non-owner that R63 refuses: the count, REJECT_LAST, and 0xA1 for the first since the count was cleared. -/
def rejectWrite (port master addr : Nat) (s : State) : State :=
  let first := reg rREJECTED s == 0#32
  let s := irq pOWNER 2 (count rREJECTED 1 s)
  let s := setReg rREJECT_LAST (BitVec.ofNat 32 (addr % 2 ^ 22 + master % 256 * 2 ^ 22 + port % 4 * 2 ^ 30)) s
  if first then notice 0xA1 (mgmtSource port) s else s

/-! ### Mailboxes (R399) -/

def mailboxAt (port : Nat) (s : State) : List Word := tget [] port s.owner.mailbox
def mailOver (port : Nat) (s : State) : Bool := tget 0 port s.owner.mailOver == 1

def mailWrite (port : Nat) (v : Word) (s : State) : State :=
  let q := mailboxAt port s
  if 16 ≤ q.length then { s with owner := { s.owner with mailOver := tset 0 port 1 s.owner.mailOver } }
  else irq pOWNER 3 { s with owner := { s.owner with mailbox := tset [] port (q ++ [v]) s.owner.mailbox } }

/-- The owner's read removes the oldest word and clears OVERFLOW. -/
def mailRead (port : Nat) (s : State) : State :=
  { s with owner := { s.owner with mailbox := tset [] port ((mailboxAt port s).drop 1) s.owner.mailbox, mailOver := tset 0 port 0 s.owner.mailOver } }

/-! ### The commands -/

def execOwnerElection (s : State) : Answer := .next (inTransit .ownerElection ownerElectionApply s)
def execOfferLapse (s : State) : Answer := .next (inTransit .offerLapse offerLapseApply s)
def execOwnerVacant (s : State) : Answer := .next (inTransit .ownerVacant ownerVacantApply s)

end Sys2Proof.Machine
end

