-- ==== Sys2Proof/Machine/Regs.lean ====
section
/-! DEFINITION. Reads of the register pages (R387 to R444), of the doorbell window (R421, R422) and of the tally window (R311), and what a read changes (R10, R11, R64, R393, R399, R403, R407). -/

namespace Sys2Proof.Machine

/-! ### Words from fields -/

/-- A number at a bit position. -/
def at_ (i n : Nat) : Nat := n * 2 ^ i
def b2n (b : Bool) : Nat := boolNat b
def word (n : Nat) : Word := BitVec.ofNat 32 n
/-- A count in a field that stops at its highest value. -/
def capN (n top : Nat) : Nat := min n top
/-- Bit p of a field for each plane that satisfies a test. -/
def planeBits (s : State) (f : Nat → Bool) : Nat := ((List.range s.build.planes).map fun p => if f p then 2 ^ p else 0).sum

/-! ### The common header (R388 to R391) -/

/-- The page exists in the build (R7, R387). -/
def pageExists (page : Nat) (s : State) : Bool :=
  match pageKind page with
  | .none => false
  | .plane => hasPlane (page - 0x10) s
  | .ring => hasPort (page - 0x18) s
  | _ => true

def pageId (page : Nat) : Nat :=
  match pageKind page with
  | .plane => at_ 24 0x10 + at_ 16 (page - 0x10) + 0x100
  | .ring => at_ 24 0x18 + at_ 16 (page - 0x18) + 0x100
  | _ => at_ 24 page + 0x100

/-- PAGE_CAP: the build parameters in GLOBAL (R395), the pages of a share in PLANE, the buffer size in RING. -/
def pageCap (page : Nat) (s : State) : Nat :=
  let b := s.build
  match pageKind page with
  | .global => b.log2Leaves + at_ 4 b.planes + at_ 8 b.ringPorts + at_ 12 b.chUnits + at_ 17 (b2n b.paired) + at_ 18 b.seams + at_ 20 b.mgmtPorts
  | .plane => sharePages b
  | .ring => 0x800
  | _ => 0

/-- PAGE_STATUS of GLOBAL, MERIDIAN and EPHEMERIS (R395, R401, R402). -/
def pageStatus (page : Nat) (s : State) : Nat :=
  if page = pGLOBAL then b2n s.clock.fabReady + at_ 1 (b2n s.clock.fabFault) + at_ 2 (b2n (servingB s))
  else if page = pMERIDIAN then
    b2n (overThrottle s) + at_ 1 (b2n s.mer.fenceHighFired)
      + ((List.range 4).map fun i => if s.mer.bellHighFired.getD i false || s.mer.bellLowFired.getD i false then at_ (4 + i) 1 else 0).sum
  else if page = pEPHEMERIS then b2n s.mer.swapAt.isSome
  else 0

def readHeader (page off : Nat) (s : State) : Word :=
  if off = 0x000 then word (pageId page)
  else if off = 0x004 then word (pageCap page s)
  else if off = 0x008 then reg (rPageCtrl page) s ||| 1#32
  else if off = 0x00C then word (pageStatus page s)
  else if off = 0x018 then reg (rIrqRaw page) s &&& reg (rIrqEnable page) s
  else reg (pageBase page + off) s

/-! ### Control pages -/

/-- The page of a route index (R396). -/
def routePage (i : Nat) : Nat := if i = 33 then pSTALL else i
def irqActive (base : Nat) (s : State) : Nat := ((List.range (min 32 (34 - base))).map fun i => if irqAsserted (routePage (base + i)) s then 2 ^ i else 0).sum

/-- The IRQ line of a management port: the OR of every enabled route that names it (R67, R396). -/
def irqLine (port line : Nat) (s : State) : Bool :=
  (List.range 34).any fun i =>
    let r := fieldOf (reg (0x060 + i / 4 * 4) s) (8 * (i % 4)) 8
    r.testBit 7 && r / 8 % 4 == port && r % 8 == line && irqAsserted (routePage i) s

def readGlobal (off : Nat) (s : State) : Option Word :=
  if off = 0x040 then some fabricVersion
  else if off = 0x044 then some (word (irqActive 0 s))
  else if off = 0x048 then some (word (irqActive 32 s))
  else none

/-- The selected port of a bank of four registers. -/
def bankPort (off base : Nat) (s : State) : Option Nat := if base ≤ off ∧ off < base + 16 ∧ (off - base) / 4 < s.build.mgmtPorts then some ((off - base) / 4) else none

def readOwner (off : Nat) (s : State) : Option Word :=
  if off = 0x040 then some (if s.owner.state = 0 then 0#32 else word (s.owner.port + at_ 8 s.owner.master + at_ 16 s.owner.nonce.toNat))
  else if off = 0x044 then some (word s.owner.state)
  else match bankPort off 0x060 s, bankPort off 0x070 s, bankPort off 0x090 s, bankPort off 0x0A0 s with
    | some p, _, _, _ => some (match claimAt p s with | some c => word (c.nonce.toNat + at_ 16 c.master + at_ 31 1) | none => 0#32)
    | _, some p, _, _ => some (match claimAt p s with | some c => c.transit.extractLsb' 0 32 | none => 0#32)
    | _, _, some p, _ => some ((mailboxAt p s).headD 0#32)
    | _, _, _, some p => some (word ((mailboxAt p s).length + at_ 8 (b2n (mailOver p s))))
    | _, _, _, _ => none

def readMeridian (off : Nat) (s : State) : Option Word :=
  if off = 0x078 then some (s.mer.time.extractLsb' 0 32)
  else if off = 0x07C then some (s.mer.time.extractLsb' 32 32)
  else if off = 0x080 then some (s.clock.transit.extractLsb' 0 32)
  else if off = 0x084 then some (s.clock.transit.extractLsb' 32 32)
  else none

def readEphemeris (copy off : Nat) (s : State) : Option Word :=
  if 0x048 ≤ off ∧ off ≤ 0x054 then (let (i, b) := entrySel copy s; some (ephWord b i ((off - 0x048) / 4) s)) else none

/-- The head entry's words (R408). -/
def headWords (s : State) : List Word :=
  match s.log.entries with
  | [] => [0#32, 0#32, 0#32, 0#32]
  | e :: _ =>
    [e.transit.extractLsb' 0 32,
      word (e.transit.toNat / 2 ^ 32 + at_ 16 e.code.toNat + at_ 24 e.cls + at_ 27 (b2n e.ledgerValid) + at_ 28 (b2n e.nested) + at_ 29 e.attempt.toNat + at_ 31 1),
      word (e.source.toNat + at_ 16 e.ledger.toNat), word e.first.toNat]

def readErrlog (off : Nat) (s : State) : Option Word :=
  if off = 0x040 then some (word s.log.entries.length)
  else if off = 0x04C then some ((headWords s).getD 0 0#32)
  else if off = 0x050 then some s.log.latch1
  else if off = 0x054 then some s.log.latch2
  else if off = 0x058 then some s.log.latch3
  else none

def readPower (off : Nat) (s : State) : Option Word :=
  if off = 0x040 then some (word (powerState s + at_ 4 (b2n s.clock.fenceIn) + at_ 8 s.clock.throttle.toNat + at_ 16 (b2n s.clock.gated)))
  else if off = 0x044 then some (word ((List.range 8).map fun p => at_ (2 * p) (planePower p s)).sum)
  else none

def readMemport (off : Nat) (s : State) : Option Word :=
  if off = 0x044 then some (word ((memOutstanding false s).length + at_ 16 (memOutstanding true s).length + at_ 24 ((memOutstanding false s).filter fun r => r.urgent).length)) else none

/-! ### QUEUE, LEDGER, ASSAY -/

/-- QUEUE.STATUS and a doorbell slot's second word share their low half (R422, R435). -/
def queueStatus (v : QueueSt) : Nat := v.head + at_ 16 v.state + at_ 18 (b2n v.lap)

def readQueue (copy off : Nat) (s : State) : Option Word :=
  let v := queueAt (qSel copy s) s
  let (e, w) := maskSel copy s
  if off = 0x044 then some v.cfg
  else if off = 0x048 then some v.group
  else if off = 0x04C then some (word v.descBase)
  else if off = 0x050 then some (word (v.descBase / 2 ^ 32))
  else if off = 0x054 then some (word v.compBase)
  else if off = 0x058 then some (word (v.compBase / 2 ^ 32))
  else if off = 0x05C then some (word (queueStatus v + at_ 24 v.err.toNat))
  else if off = 0x060 then some (word v.tail)
  else if off = 0x064 then some v.runs
  else if off = 0x06C then some (word (earlyCount s))
  else if off = 0x070 then some (word s.orders.length)
  else if off = 0x078 then some (if leaves s.build ≤ 32 * w then 0#32 else tget 0#32 (32 * e + w) s.tabs.masks)
  else if off = 0x07C then some (word (maskStalls e s).length)
  else none

def ledgerSel (copy : Nat) (s : State) : Nat := fieldOf (reg (rL_SELECT + copy) s) 0 12
def profileSel (copy : Nat) (s : State) : Nat := fieldOf (reg (rPROFILE_SELECT + copy) s) 0 6

/-- The operation whose pages are a ledger's: its holder, where that took them for this ledger and not for the one that it closes (R171). -/
def pageHolder (n : Nat) (v : Ledger) (s : State) : Option Op := (v.holder.bind fun id => opAt id s).filter fun o => dLedger o.d == n

/-- Pages of a ledger by their place. -/
def pagesResident (n : Nat) (v : Ledger) (s : State) : Nat :=
  ((List.range 8).map fun p => residentPages v p).sum
    + (match pageHolder n v s with | some o => ((List.range 8).map fun p => opPages o p).sum | none => 0)
def pagesSpilled (v : Ledger) : Nat := (v.pages.filter fun x => x.2.spilled).length
def pagesPartial (n : Nat) (v : Ledger) (s : State) : Nat :=
  ((List.range 8).map fun p => partialPages v p).sum
    + (match pageHolder n v s with | some o => (o.poolPages.filter fun x => decide (x.2.1 < 2 ^ 20)).length | none => 0)

/-- The ledger as its record shows it: the flags that its holder has raised are its flags (R110). -/
def shownLedger (n : Nat) (s : State) : Ledger :=
  let v := ledgerAt n s
  match v.holder.bind fun id => opAt id s with
  | some o => if dLedger o.d = n then { v with flags := v.flags ||| o.freshFlags ||| o.eg.flags } else v
  | none => v

/-- The 64 bytes of a record, CHECK 0; all but NUMBER read 0 while the ledger is FREE (R439). -/
def recordShown (n : Nat) (s : State) : List Byte :=
  let v := shownLedger n s
  if v.state = 0 then leBytes 2 n ++ List.replicate 62 0#8 else recordHead n v ++ List.replicate 4 0#8

def readLedger (copy off : Nat) (s : State) : Option Word :=
  let n := ledgerSel copy s
  let v := ledgerAt n s
  if off = 0x044 then some (word (v.state + at_ 2 (b2n v.holder.isSome) + at_ 8 (capN v.waiting.length 255)))
  else if off = 0x048 then some (match v.holder with | some id => word (id.queue + at_ 31 1) | none => 0#32)
  else if off = 0x050 then some (word (pagesResident n v s))
  else if off = 0x054 then some (word (pagesSpilled v))
  else if off = 0x058 then some (word (pagesPartial n v s))
  else if off = 0x05C then some (word (s.ledgers.filter fun x => x.2.state != 0).length)
  else if 0x080 ≤ off ∧ off ≤ 0x0BC then some (word32At (recordShown n s) (off - 0x080))
  else if 0x0C4 ≤ off ∧ off ≤ 0x0D0 then some ((profWords (profileSel copy s) s).getD ((off - 0x0C4) / 4) 0#32)
  else none

def almSel (copy : Nat) (s : State) : Nat := fieldOf (reg (rALM_SELECT + copy) s) 0 10

def readAssay (copy off : Nat) (s : State) : Option Word :=
  if off = 0x064 then some (reg rCTL_STATE s ||| word (at_ 8 s.assayWin.length))
  else if 0x074 ≤ off ∧ off ≤ 0x080 then some (almWord (almSel copy s) ((off - 0x074) / 4) s)
  else none

/-! ### BELL, DIAG, PLANE, RING, TOPOLOGY, STALL -/

def lineFenced (l : Line) (s : State) : Bool := lXchip l.cfg && (groupAt (lGroup l.cfg) s).fenced
def lineXdone (l : Line) (s : State) : Bool := lXchip l.cfg && l.chip && crossDone (groupAt (lGroup l.cfg) s) l.maps

def lineStatus (n : Nat) (s : State) : Nat :=
  let l := lineAt n s
  l.gen.toNat + at_ 16 (b2n l.armed) + at_ 17 (b2n l.ondie) + at_ 18 (b2n l.board) + at_ 19 (b2n l.chip) + at_ 20 (b2n (lineXdone l s))
    + at_ 21 (b2n (lineFenced l s)) + at_ 22 (b2n (lBoard l.cfg && boardPull (lBoardLine l.cfg) s))

def readBell (copy off : Nat) (s : State) : Option Word :=
  let n := lineSel copy s
  let w := fieldOf (reg (rLINE_MEMBER_SEL + copy) s) 0 5
  if off = 0x05C then some (word (64 - sigWaiting (fieldOf (reg (rSIG_PORT + copy) s) 0 3) s))
  else if off = 0x06C then some (lineAt n s).cfg
  else if off = 0x074 then some (if leaves s.build ≤ 32 * w then 0#32 else tget 0#32 (32 * n + w) s.tabs.lineMembers)
  else if off = 0x078 then some (word (lineStatus n s))
  else if off = 0x090 then some (musterCtrl (musterSel copy s) s)
  else if off = 0x094 then some (musterValue (musterSel copy s) s)
  else none

/-- Spare rows of a macro: taken by valid trims, by the self-test, and left (R362, R418). -/
def repairInfo (m : Nat) (s : State) : Nat :=
  let a := min (Config.spareRows m) (repairTrims m s)
  let b := min (Config.spareRows m - a) (repairTests m s)
  capN a 255 + at_ 8 (capN b 255) + at_ 16 (capN (Config.spareRows m - a - b) 255)

def readDiag (copy off : Nat) (s : State) : Option Word :=
  if off = 0x044 then some (word (repairInfo (fieldOf (reg (rREPAIR_SELECT + copy) s) 0 12) s)) else none

def opsOn (p : Nat) (s : State) : List Op := s.ops.filter fun o => o.fail.isNone && (planesOf o.planes).contains p

/-- The queue of the mask-group operation that holds a plane (R251). -/
def maskHolder (p : Nat) (s : State) : Nat :=
  match s.ops.find? fun o => o.maskGroup && holdsPlane o p with
  | some o => o.id.queue + at_ 31 1
  | none => 0

/-- A plane that is OFF or FAILED reads 0 here (R428). -/
def readPlane (p off : Nat) (s : State) : Option Word :=
  if off < 0x050 ∨ 0x064 < off then none
  else if planePower p s = 1 ∨ planePower p s = 2 then some 0#32
  else if off = 0x050 then some (word (usedPages p s))
  else if off = 0x054 then some (word (planeAt p s).pool.length)
  else if off = 0x058 then some (word (capN (opsOn p s).length 0xFFFF))
  else if off = 0x05C then some (word (s.ops.filter (streamsOn p s)).length)
  else if off = 0x060 then some (word (s.ops.filter fun o => o.upOpen.contains p).length)
  else if off = 0x064 then some (word (maskHolder p s))
  else none

def readRing (port off : Nat) (s : State) : Option Word :=
  let l := linkAt port s
  if off = 0x040 then some (word (l.state + at_ 4 (b2n l.phyEnable) + at_ 5 (b2n l.phyLocked) + at_ 6 (b2n (portAbsent port s)) + at_ 8 l.cause.toNat))
  else if off = 0x090 then some (word (activeSteps port s))
  else if off = 0x094 then some (word (tagsUsed port s))
  else none

def readTopology (copy off : Nat) (s : State) : Option Word :=
  let g := groupAt (groupSel copy s) s
  if 0x060 ≤ off ∧ off ≤ 0x07C then some (portMap ((off - 0x060) / 4) s)
  else if off = 0x084 then some g.cfg
  else if off = 0x088 then some g.rangeA
  else if off = 0x08C then some g.rangeB
  else if off = 0x090 then some (word ((if gValid g then capN (gN g) 8191 else 0) + at_ 13 (b2n g.fenced) + at_ 16 g.legSeq.toNat))
  else if off = 0x098 then some (if gValid g && gMember g s then word (gPos g s % 4096 + at_ 31 1) else 0#32)
  else none

def stallSel (copy : Nat) (s : State) : Nat := fieldOf (reg (rSTALL_SELECT + copy) s) 0 10

/-- UP_READY of a stall on a plane, in the transit's first cycle (R31). -/
def upReadyNow (n p : Nat) (s : State) : Bool :=
  upOn p s.clock.fclk s &&
    ((stallAt n s).dropTags.any (fun x => x.2.1.testBit p) || s.ops.any fun o => runs o && o.members.contains n && o.upOpen.contains p && upTakes o n p)

def readStall (copy off : Nat) (s : State) : Option Word :=
  let n := stallSel copy s
  let st := stallAt n s
  if off < 0x044 ∨ 0x060 < off then none
  else if !hasStall n s then some 0#32
  else if off = 0x044 then
    some (word (planeBits s (fun p => upReadyNow n p s) + at_ 8 (planeBits s fun p => st.upValid.getLsbD p) + at_ 16 (planeBits s fun p => st.dropTags.any fun x => x.2.1.testBit p)
      + at_ 24 (planeBits s fun p => s.ops.any fun o => (progAt o n p).asked)))
  else if off = 0x048 then some (match st.pend with | some q => word (1 + at_ 1 (if q.take then 3 else 2) + at_ 4 q.idx) | none => 0#32)
  else if off = 0x04C then some (match st.pend with | some q => q.arg | none => 0#32)
  else if off = 0x050 then some (word (st.bellOut.toNat + at_ 16 st.bellIn.toNat))
  else if off = 0x054 then some st.upBeats
  else if off = 0x058 then some st.dnBeats
  else if off = 0x05C then some st.discarded
  else if off = 0x060 then some st.badIndex
  else none

/-! ### One read -/

/-- Registers that no plain store holds. -/
def readSpecial (copy page off : Nat) (s : State) : Option Word :=
  match pageKind page with
  | .global => readGlobal off s
  | .owner => readOwner off s
  | .meridian => readMeridian off s
  | .ephemeris => readEphemeris copy off s
  | .config => if off = 0x060 then some (trimWord (fieldOf (reg (rTRIM_SELECT + copy) s) 0 10) s) else none
  | .errlog => readErrlog off s
  | .power => readPower off s
  | .memport => readMemport off s
  | .queue => readQueue copy off s
  | .ledger => readLedger copy off s
  | .assay => readAssay copy off s
  | .bell => readBell copy off s
  | .diag => readDiag copy off s
  | .plane => readPlane (page - 0x10) off s
  | .ring => readRing (page - 0x18) off s
  | .topology => readTopology copy off s
  | .stall => readStall copy off s
  | .steward | .binocular | .perf | .none => none

/-- A stored register: its own copy where there are two (R393). -/
def readStored (copy addr : Nat) (s : State) : Word :=
  match regRow addr with
  | none => 0#32
  | some r => if r.acc = .sel then reg (addr + copy) s else reg addr s

/-- A page register as it stands. -/
def readPage (copy addr : Nat) (s : State) : Word :=
  let page := addr / 0x1000
  let off := addr % 0x1000
  if !pageExists page s then 0#32
  else if off < 0x040 then readHeader page off s
  else (readSpecial copy page off s).getD (readStored copy addr s)

/-- A doorbell slot (R422). -/
def readDoorbell (addr : Nat) (s : State) : Word :=
  let v := queueAt (addr / 16 % 65536) s
  let off := addr % 16
  if off = 0 then word v.tail else if off = 4 then word (queueStatus v) else if off = 8 then v.runs else 0#32

/-- The low word of a 64-bit pair (R10). -/
def isLow (page off : Nat) : Bool :=
  match pageKind page with
  | .global => off == 0x044
  | .meridian => off == 0x078 || off == 0x080 || off == 0x088
  | .ephemeris => off == 0x058 || off == 0x068 || off == 0x078
  | .memport => off == 0x048 || (decide (0x080 ≤ off ∧ off < 0x100) && off % 16 == 0)
  | .perf => off == 0x078 || off == 0x080 || off == 0x088 || off == 0x090
  | .diag => off == 0x05C
  | .plane => off == 0x044
  | .ring => off == 0x050 || off == 0x0A0 || off == 0x0A8
  | .queue => off == 0x04C || off == 0x054
  | _ => false

def isHigh (addr : Nat) : Bool := decide (4 ≤ addr) && isLow ((addr - 4) / 0x1000) ((addr - 4) % 0x1000)

/-- What an access of an agent's copy reads: a high word reads as its low word's last read latched it. -/
def readValue (copy addr : Nat) (s : State) : Word :=
  if 0x200000 ≤ addr then (if addr < 0x300000 then windowRead (addr / 1024 % 1024) (addr / 16 % 64) (addr % 16) s else 0#32)
  else if 0x100000 ≤ addr then readDoorbell addr s
  else match tget none addr s.hiLatch with
    | some w => if isHigh addr then w else readPage copy addr s
    | none => readPage copy addr s

/-! ### What a read changes -/

def setLatch (addr : Nat) (v : Option Word) (s : State) : State := { s with hiLatch := tset none addr v s.hiLatch }

/-- The low word's read latches the high word; the high word's read consumes the latch. -/
def readLatch (copy addr : Nat) (s : State) : State :=
  if isLow (addr / 0x1000) (addr % 0x1000) && pageExists (addr / 0x1000) s then setLatch (addr + 4) (some (readPage copy (addr + 4) s)) s
  else if isHigh addr then setLatch addr none s
  else s

/-- Read-to-clear registers that stand outside the plain store (R399, R444). -/
def clearSpecial (copy page off : Nat) (s : State) : State :=
  if page = pOWNER then (match bankPort off 0x090 s with | some p => mailRead p s | none => s)
  else if page = pSTALL ∧ (off = 0x05C ∨ off = 0x060) ∧ hasStall (stallSel copy s) s = true then
    let n := stallSel copy s
    let st := stallAt n s
    setStall n (if off = 0x05C then { st with discarded := 0#32 } else { st with badIndex := 0#32 })  s
  else s

/-- An owner's read of an RC register clears it (R11, R64). -/
def readClear (owner : Bool) (copy addr : Nat) (s : State) : State :=
  if !owner || !pageExists (addr / 0x1000) s then s
  else match regRow addr with
    | some r => if r.acc = .rc then setReg addr 0#32 s else clearSpecial copy (addr / 0x1000) (addr % 0x1000) s
    | none => clearSpecial copy (addr / 0x1000) (addr % 0x1000) s

/-- HEAD_W0 latches the other words of the same entry (R407). -/
def readHead (addr : Nat) (s : State) : State :=
  if addr = 0x0604C then
    let w := headWords s
    { s with log := { s.log with latch1 := w.getD 1 0#32, latch2 := w.getD 2 0#32, latch3 := w.getD 3 0#32 } }
  else s

/-- AUTO_INC after an access to ENTRY_W3 (R403). -/
def readEntry (copy addr : Nat) (s : State) : State := if addr = 0x03054 then entryAutoInc copy 3 s else s

def readEffect (owner : Bool) (copy addr : Nat) (s : State) : State :=
  if 0x100000 ≤ addr then s else readEntry copy addr (readHead addr (readClear owner copy addr (readLatch copy addr s)))

end Sys2Proof.Machine
end

