-- ==== Sys2Proof/Machine/RegWrite.lean ====
section
/-! DEFINITION. What a register write does once its access is admitted (R10, R11, R388 to R444): every page, the doorbell window (R241, R422) and the tally window (R311). -/

namespace Sys2Proof.Machine

/-! ### Plain registers -/

def pageLocked (page : Nat) (s : State) : Bool := bitOf (reg (rPageCtrl page) s) 2

/-- A stored register takes its bits, a value outside the range that its table gives too (R11, log 9). -/
def storeReg (r : RegRow) (addr : Nat) (v : Word) (s : State) : State := setReg addr (v &&& r.mask) s

/-- A register without behaviour of its own, by its access code (R11, R393). -/
def plainWrite (copy addr : Nat) (v : Word) (s : State) : State :=
  match regRow addr with
  | none => s
  | some r =>
    match r.acc with
    | .ro => s
    | .rc => s
    | .rw => storeReg r addr v s
    | .rwl => if pageLocked (addr / 0x1000) s then s else storeReg r addr v s
    | .w1c => clearBits addr (v &&& r.mask) s
    | .sel => setReg (addr + copy) (v &&& r.mask) s

/-! ### The common header (R388, R390, R391) -/

def headerWrite (page off : Nat) (v : Word) (s : State) : State :=
  if off = 0x008 then pageCtrlWrite page v s
  else if off = 0x010 then setReg (rIrqRaw page) (reg (rIrqRaw page) s ||| v) s
  else if off = 0x018 then clearBits (rIrqRaw page) v s
  else if off = 0x014 ∨ off = 0x024 then setReg (pageBase page + off) v s
  else s

/-! ### Trims (R361, R363) -/

/-- A trim word where the set is valid, else its default. -/
def trimOr (w : Nat) (d : Word) (s : State) : Word := if s.boot.trimsValid then trimWord w s else d

/-- The nine ASSAY settings from the trims: the floors first, so that the clamp of R199 is made against them (R360, R363, R441, R443). -/
def assayTrims (s : State) : State :=
  [0x048, 0x04C, 0x040, 0x044, 0x050, 0x054, 0x058, 0x05C, 0x060].foldl (fun s (off : Nat) =>
    assaySetting off (trimOr (275 + (off - 0x040) / 4) (regReset (pageBase pASSAY + off)) s) s) s

/-- RING_PHY_CFG of every port from the trims; it takes effect at each port's next training (R363, R431). -/
def phyTrims (s : State) : State :=
  (List.range s.build.ringPorts).foldl (fun s n =>
    setReg (rPHY_CFG_LO n + 4) (trimOr (260 + 2 * n) 0#32 s) (setReg (rPHY_CFG_LO n) (trimOr (259 + 2 * n) 0#32 s) s)) s

/-- RESTORE_TRIMS: every calibrated register, the controller's window and rot_active (R363). -/
def restoreTrimsNow (s : State) : State :=
  setRotActive false (emptyWindow (assayTrims (phyTrims (inputDelayApply (trimOr 258 0#32 s) s))))

/-! ### Control pages -/

/-- An ephemeris bank header (R230, R403): 0x1B where the bank is active. -/
def bankWrite (off : Nat) (v : Word) (s : State) : State :=
  let b := (off - 0x058) / 16
  if bankClosed b s then noticeNext 0x1B (source 4 0) s
  else plainWrite 0 (pageBase pEPHEMERIS + off) v s

/-- POP: the head entry leaves the log (R335, R407). -/
def errlogPopNow (s : State) : State := { s with log := { s.log with entries := s.log.entries.drop 1 } }

/-- RELEASE: a FAULTED ledger becomes FREE (R144, R438). -/
def ledgerReleaseNow (l : Nat) (s : State) : State := if (ledgerAt l s).state = 3 then freeLedger l s else s

/-- A word of a profile (R440); reserved bits of PROFILE_CTRL are kept 0. -/
def profileWrite (copy w : Nat) (v : Word) (s : State) : State :=
  let v := if w = 0 then v &&& 0x01F3377F#32 else v
  { s with tabs := { s.tabs with profiles := tset 0#32 (4 * profileSel copy s + w) v s.tabs.profiles } }

/-- A word of an almanac entry (R442). -/
def almWrite (copy w : Nat) (v : Word) (s : State) : State := setAlmWord (almSel copy s) w (if w = 1 then v &&& 0xFFFF0003#32 else v) s

def musterValueApply (copy : Nat) (v : Word) (s : State) : State :=
  { s with tabs := { s.tabs with musters := tset 0#32 (2 * musterSel copy s + 1) v s.tabs.musters } }

/-- BINOCULAR.CMD (R416). -/
def binoCmd (v : Word) (s : State) : State :=
  let n := fieldOf v 0 4
  if !s.build.paired then s
  else if n = 1 then takeoverApply s else if n = 2 then repairApply s else if n = 3 then repairWithdrawApply s else s

/-- PERF.CTRL: CLEAR acts in class 8 and clears itself (R417). -/
def perfCtrlWrite (v : Word) (s : State) : State :=
  let s := if bitOf v 0 then (List.range 21).foldl (fun s i => setReg (rPERF i) 0#32 s) s else s
  setReg rPERF_CTRL (v &&& 2#32) s

/-- A mailbox takes a word: in phase 4 with CONFIG_SRC = 1 the named port's goes to the staging buffer (R364, R399). -/
def staging (port : Nat) (s : State) : Bool :=
  phaseOf s == 4 && fieldOf (trimWord 284 s) 0 2 == 1 && s.boot.trimsValid && fieldOf (trimWord 284 s) 2 2 == port

def mailboxTake (port : Nat) (v : Word) (s : State) : State :=
  if staging port s then (if s.boot.staging.length < 65536 then { s with boot := { s.boot with staging := s.boot.staging ++ [v] } } else s)
  else mailWrite port v s

/-- OWNER (R373 to R375, R397 to R399). A claim or an accept is one of a master on the register's own port. -/
def ownerWrite (by_ : Option (Nat × Nat)) (off : Nat) (v : Word) (s : State) : State :=
  let nonce : BitVec 16 := v.extractLsb' 0 16
  if off = 0x048 then heartbeatNow s
  else if off = 0x04C then heartbeatNow (plainWrite 0 (pageBase pOWNER + off) v s)
  else if off = 0x050 then offerWrite v s
  else if off = 0x054 then plainWrite 0 (pageBase pOWNER + off) v s
  else match bankPort off 0x060 s, bankPort off 0x080 s, bankPort off 0x090 s, by_ with
    | some p, _, _, some (q, m) => if p = q then claimWrite p m nonce s else s
    | _, some p, _, some (q, m) => if p = q then acceptWrite p m nonce s else s
    | _, _, some p, some _ => mailboxTake p v s
    | _, _, _, _ => s

def meridianWrite (off : Nat) (v : Word) (s : State) : State :=
  if off = 0x044 then (let n := fieldOf v 0 4; if n = 1 then calWrite s else if n = 2 then resyncWrite s else s)
  else if off = 0x04C then (let k := fieldOf v 0 4; if 1 ≤ k ∧ k ≤ 8 then plainWrite 0 rTRANSIT_SHIFT v s else s)
  else if off = 0x054 then inputDelayApply v s
  else plainWrite 0 (pageBase pMERIDIAN + off) v s

def ephemerisWrite (copy off : Nat) (v : Word) (s : State) : State :=
  if 0x048 ≤ off ∧ off ≤ 0x054 then entryWrite copy ((off - 0x048) / 4) v s
  else if 0x058 ≤ off ∧ off ≤ 0x074 then bankWrite off v s
  else if off = 0x080 then swapArmWrite v s
  else plainWrite copy (pageBase pEPHEMERIS + off) v s

def stewardWrite (off : Nat) (v : Word) (s : State) : State :=
  if off = 0x044 then (if fieldOf v 0 4 = 1 then stewardRestartNow s else s)
  else if off = 0x048 then kickNow s
  else plainWrite 0 (pageBase pSTEWARD + off) v s

def configWrite (copy off : Nat) (v : Word) (s : State) : State :=
  if off = 0x044 then (if bitOf v 0 then restoreTrimsNow s else s) else plainWrite copy (pageBase pCONFIG + off) v s

def errlogWrite (off : Nat) (v : Word) (s : State) : State :=
  if off = 0x044 then (if bitOf v 0 then errlogPopNow s else s) else plainWrite 0 (pageBase pERRLOG + off) v s

def powerWrite (off : Nat) (v : Word) (s : State) : State :=
  if off = 0x04C then planePdWrite v s else plainWrite 0 (pageBase pPOWER + off) v s

/-- MEMPORT.TIMEOUT takes 0 as 1 (R411). -/
def memportWrite (off : Nat) (v : Word) (s : State) : State :=
  plainWrite 0 (pageBase pMEMPORT + off) (if off = 0x040 ∧ fieldOf v 0 16 = 0 then 1#32 else v) s

/-! ### Datapath pages -/

def queueWrite (copy off : Nat) (v : Word) (s : State) : State :=
  if 0x044 ≤ off ∧ off ≤ 0x058 then queueRegWrite (qSel copy s) off v s
  else if off = 0x068 then (if fieldOf v 0 4 = 1 then queueResumeNow (qSel copy s) s else s)
  else if off = 0x078 then maskDataApply copy v s
  else plainWrite copy (pageBase pQUEUE + off) v s

def ledgerWrite (copy off : Nat) (v : Word) (s : State) : State :=
  if off = 0x04C then (if fieldOf v 0 4 = 1 then ledgerReleaseNow (ledgerSel copy s) s else s)
  else if 0x0C4 ≤ off ∧ off ≤ 0x0D0 then profileWrite copy ((off - 0x0C4) / 4) v s
  else plainWrite copy (pageBase pLEDGER + off) v s

def assayWrite (copy off : Nat) (v : Word) (s : State) : State :=
  if 0x040 ≤ off ∧ off ≤ 0x064 then assaySetting off v s
  else if 0x074 ≤ off ∧ off ≤ 0x080 then almWrite copy ((off - 0x074) / 4) v s
  else plainWrite copy (pageBase pASSAY + off) v s

def bellWrite (copy off : Nat) (v : Word) (s : State) : State :=
  if off = 0x058 then (if bitOf v 0 then sigSendApply copy s else s)
  else if off = 0x06C then lineCfgApply copy v s
  else if off = 0x074 then lineMembersApply copy v s
  else if off = 0x090 then musterCtrlApply copy v s
  else if off = 0x094 then musterValueApply copy v s
  else plainWrite copy (pageBase pBELL + off) v s

def binocularWrite (off : Nat) (v : Word) (s : State) : State :=
  if off = 0x044 then binoCmd v s else if s.build.paired then plainWrite 0 (pageBase pBINOCULAR + off) v s else s

def perfWrite (off : Nat) (v : Word) (s : State) : State := if off = 0x040 then perfCtrlWrite v s else s

/-- SPILL registers keep their values while the plane has pool pages allocated (R428). -/
def planeWrite (page off : Nat) (v : Word) (s : State) : State :=
  if 0x044 ≤ off ∧ off ≤ 0x04C ∧ (planeAt (page - 0x10) s).pool ≠ [] then s else plainWrite 0 (pageBase page + off) v s

def ringWrite (page off : Nat) (v : Word) (s : State) : State :=
  if off = 0x044 then (if fieldOf v 0 4 = 1 then retrainApply (page - 0x18) s else s)
  else if (0x060 ≤ off ∧ off ≤ 0x078) ∨ (0x080 ≤ off ∧ off ≤ 0x08C) then ringCreditApply (page - 0x18) off v s
  else plainWrite 0 (pageBase page + off) v s

def topologyWrite (copy off : Nat) (v : Word) (s : State) : State :=
  if (0x040 ≤ off ∧ off ≤ 0x054) ∨ (0x060 ≤ off ∧ off ≤ 0x07C) then topologyRegWrite off v s
  else if off = 0x084 then groupCfgApply copy v s
  else if off = 0x088 then groupRangeApply copy false v s
  else if off = 0x08C then groupRangeApply copy true v s
  else if off = 0x094 then (if fieldOf v 0 4 = 1 then unfenceApply copy s else s)
  else plainWrite copy (pageBase pTOPOLOGY + off) v s

/-! ### One write -/

def pageWrite (by_ : Option (Nat × Nat)) (copy page off : Nat) (v : Word) (s : State) : State :=
  match pageKind page with
  | .owner => ownerWrite by_ off v s
  | .meridian => meridianWrite off v s
  | .ephemeris => ephemerisWrite copy off v s
  | .steward => stewardWrite off v s
  | .config => configWrite copy off v s
  | .errlog => errlogWrite off v s
  | .power => powerWrite off v s
  | .memport => memportWrite off v s
  | .queue => queueWrite copy off v s
  | .ledger => ledgerWrite copy off v s
  | .assay => assayWrite copy off v s
  | .bell => bellWrite copy off v s
  | .binocular => binocularWrite off v s
  | .perf => perfWrite off v s
  | .plane => planeWrite page off v s
  | .ring => ringWrite page off v s
  | .topology => topologyWrite copy off v s
  | .global => plainWrite 0 (pageBase page + off) v s
  | .diag => plainWrite copy (pageBase page + off) v s
  | .stall => plainWrite copy (pageBase page + off) v s
  | .none => s

/-- A register write of the owner (copy 0) or of the steward: pages that the build lacks and unlisted offsets ignore it (R7, R387). -/
def writeReg (by_ : Option (Nat × Nat)) (copy addr : Nat) (v : Word) (s : State) : State :=
  if 0x200000 ≤ addr then (if addr < 0x300000 then windowWrite (addr / 1024 % 1024) (addr / 16 % 64) (addr % 16) v s else s)
  else if 0x100000 ≤ addr then (if addr % 16 = 0 then doorbellWrite (addr / 16 % 65536) v s else s)
  else
    let page := addr / 0x1000
    let off := addr % 0x1000
    if !pageExists page s then s
    else if off < 0x040 then headerWrite page off v s
    else pageWrite by_ copy page off v s

end Sys2Proof.Machine
end

