-- ==== Sys2Proof/Machine/Access.lean ====
section
/-! DEFINITION. Accesses to the register space (R61 to R65, R351, R377, R378, R393): which are admitted, what is answered, and the commands that are accesses to one register. -/

namespace Sys2Proof.Machine

/-! ### Admission -/

/-- The steward acts: it runs, and no fabric-fatal fault has ended its service (R351, R370). -/
def stewardServes (s : State) : Bool := alive s && stewardRuns s

/-- An address that R63 answers with MGMT_ERR. -/
def badAddr (addr : Nat) : Bool := addr % 4 != 0 || decide (0x300000 ≤ addr)

/-- The claim, accept and mailbox registers of a port, which any master on it may write (R63, R397). -/
def ownRegister (port addr : Nat) : Bool := addr == 0x01060 + 4 * port || addr == 0x01080 + 4 * port || addr == 0x01090 + 4 * port

/-- What a FABRIC_FATAL block still takes (R351). -/
def fatalWritable (addr : Nat) : Bool := addr == 0x06044 || addr == rOVERRUN || addr / 0x1000 == pDIAG

/-! ### Writes and reads -/

/-- A management write: refused in the fatal state, refused of a non-owner with its count, refused of a bad address, or done. -/
def mgmtWrite (port master addr : Nat) (v : Word) (s : State) : State :=
  if s.clock.fabFault && !fatalWritable addr then answer port master 0#32 true s
  else if !isOwner (.mgmt port master) s && !ownRegister port addr then answer port master 0#32 true (rejectWrite port master addr s)
  else if badAddr addr then answer port master 0#32 true s
  else answer port master 0#32 false (writeReg (some (port, master)) 0 addr v s)

def mgmtRead (port master addr : Nat) (s : State) : State :=
  if badAddr addr then answer port master 0#32 true s
  else answer port master (readValue 0 addr s) false (readEffect (isOwner (.mgmt port master) s) 0 addr s)

/-- A steward's write: a guard blocks it, or it is done on the steward's copies. -/
def stewardStore (addr : Nat) (v : Word) (s : State) : State :=
  let (code, at') := storeGuard addr v s
  if code ≠ 0 then guardHit code at' s else if badAddr addr then s else writeReg none stewardCopy addr v s

/-- A steward's read: what its own copies give, without clearing (R393). -/
def stewardLoad (addr : Nat) (s : State) : State :=
  let code := guardCode false addr
  if code ≠ 0 then guardHit code addr s
  else if badAddr addr then s
  else present (.stewardRsp (readValue stewardCopy addr s)) (readEffect false stewardCopy addr s)

/-- A write access of an agent. -/
def accessWrite (a : Agent) (addr : Nat) (v : Word) (s : State) : State :=
  match a with
  | .mgmt p m => if mgmtServes s then mgmtWrite p m addr v s else s
  | .steward => if stewardServes s then stewardStore addr v s else s

/-- A read access of an agent. -/
def accessRead (a : Agent) (addr : Nat) (s : State) : State :=
  match a with
  | .mgmt p m => if mgmtServes s then mgmtRead p m addr s else s
  | .steward => if stewardServes s then stewardLoad addr s else s

/-- The build has the agent's management port. -/
def hasAgent (a : Agent) (s : State) : Bool :=
  match a with
  | .mgmt p _ => decide (p < s.build.mgmtPorts)
  | .steward => true

/-- A command that is an access of an agent. -/
def onAgent (a : Agent) (c : Instr) (f : State → State) (s : State) : Answer :=
  if hasAgent a s then .next (inTransit c f s) else .fault .noSuchMgmtPort

/-- An access to the page of a ring port 0 to 7; a port that the build lacks has a page that ignores it (R7). -/
def onRingPage (a : Agent) (port : Nat) (c : Instr) (f : State → State) (s : State) : Answer :=
  if port < 8 then onAgent a c f s else .fault .noSuchRingPort

def onPlanePage (a : Agent) (plane : Nat) (c : Instr) (f : State → State) (s : State) : Answer :=
  if plane < 8 then onAgent a c f s else .fault .noSuchStallPort

/-! ### Addresses of what the commands name -/

def tallyAddr (stall tally off : Nat) : Nat := 0x200000 + stall % 1024 * 1024 + tally % 64 * 16 + off
def doorbellAddr (queue : Nat) : Nat := 0x100000 + 16 * (queue % 65536)
/-- A register of a page by its offset. -/
def pageAddr (page off : Nat) : Nat := pageBase (page % 256) + off % 0x1000

/-! ### Tallies, signals, doorbells -/

def execTallyWindowSet (a : Agent) (stall tally : Nat) (v : Word) (s : State) : Answer :=
  onAgent a (.tallyWindowSet a stall tally v) (accessWrite a (tallyAddr stall tally 0) v) s
def execTallyWindowAdd (a : Agent) (stall tally : Nat) (v : Word) (s : State) : Answer :=
  onAgent a (.tallyWindowAdd a stall tally v) (accessWrite a (tallyAddr stall tally 4) v) s
def execTallyWindowSub (a : Agent) (stall tally : Nat) (v : Word) (s : State) : Answer :=
  onAgent a (.tallyWindowSub a stall tally v) (accessWrite a (tallyAddr stall tally 8) v) s
def execTallyWindowRead (a : Agent) (stall tally : Nat) (s : State) : Answer :=
  onAgent a (.tallyWindowRead a stall tally) (accessRead a (tallyAddr stall tally 0)) s
def execSigSend (a : Agent) (s : State) : Answer := onAgent a (.sigSend a) (accessWrite a 0x0C058 1#32) s
def execDoorbell (a : Agent) (queue : Nat) (v : Word) (s : State) : Answer :=
  onAgent a (.doorbell a queue v) (accessWrite a (doorbellAddr queue) v) s
def execStandingPin (a : Agent) (queue : Nat) (v : Word) (s : State) : Answer :=
  onAgent a (.standingPin a queue v) (accessWrite a (doorbellAddr queue) v) s
def execStandingUnpin (a : Agent) (queue : Nat) (s : State) : Answer :=
  onAgent a (.standingUnpin a queue) (accessWrite a (doorbellAddr queue) 0#32) s

/-! ### Meridian and ephemeris -/

def execMeridianCal (a : Agent) (s : State) : Answer := onAgent a (.meridianCal a) (accessWrite a 0x02044 1#32) s
def execResync (a : Agent) (s : State) : Answer := onAgent a (.resync a) (accessWrite a 0x02044 2#32) s
def execInputDelayWrite (a : Agent) (v : Word) (s : State) : Answer := onAgent a (.inputDelayWrite a v) (accessWrite a rINPUT_DELAY v) s
def execSwapArm (a : Agent) (s : State) : Answer := onAgent a (.swapArm a) (accessWrite a 0x03080 1#32) s
def execSwapDisarm (a : Agent) (s : State) : Answer := onAgent a (.swapDisarm a) (accessWrite a 0x03080 0#32) s
def execEphemerisEntryWrite (a : Agent) (w : Nat) (v : Word) (s : State) : Answer :=
  onAgent a (.ephemerisEntryWrite a w v) (accessWrite a (0x03048 + 4 * (w % 4)) v) s

/-! ### Power, pages, error log -/

def execPowerFenceWrite (a : Agent) (v : Word) (s : State) : Answer := onAgent a (.powerFenceWrite a v) (accessWrite a rFENCE v) s
def execPlanePowerDown (a : Agent) (plane : Nat) (s : State) : Answer :=
  onPlanePage a plane (.planePowerDown a plane) (fun s => accessWrite a rPLANE_PD (reg rPLANE_PD s ||| bit plane) s) s
def execPlanePowerUp (a : Agent) (plane : Nat) (s : State) : Answer :=
  onPlanePage a plane (.planePowerUp a plane) (fun s => accessWrite a rPLANE_PD (reg rPLANE_PD s &&& ~~~(bit plane)) s) s
def execSoftReset (a : Agent) (page : Nat) (s : State) : Answer := onAgent a (.softReset a page) (accessWrite a (pageAddr page 0x008) 2#32) s
def execPageLock (a : Agent) (page : Nat) (s : State) : Answer := onAgent a (.pageLock a page) (accessWrite a (pageAddr page 0x008) 4#32) s
def execRestoreTrims (a : Agent) (s : State) : Answer := onAgent a (.restoreTrims a) (accessWrite a 0x05044 1#32) s
def execErrlogPop (a : Agent) (s : State) : Answer := onAgent a (.errlogPop a) (accessWrite a 0x06044 1#32) s
def execErrlogHeadRead (a : Agent) (s : State) : Answer := onAgent a (.errlogHeadRead a) (accessRead a 0x0604C) s
def execLoReadLatch (a : Agent) (addr : BitVec 22) (s : State) : Answer := onAgent a (.loReadLatch a addr) (accessRead a addr.toNat) s
def execReadToClear (a : Agent) (addr : BitVec 22) (s : State) : Answer := onAgent a (.readToClear a addr) (accessRead a addr.toNat) s

/-! ### Binocular sides -/

def execTakeover (a : Agent) (s : State) : Answer := onAgent a (.takeover a) (accessWrite a 0x0D044 1#32) s
def execRepair (a : Agent) (s : State) : Answer := onAgent a (.repair a) (accessWrite a 0x0D044 2#32) s
def execRepairWithdraw (a : Agent) (s : State) : Answer := onAgent a (.repairWithdraw a) (accessWrite a 0x0D044 3#32) s

/-! ### Ownership and mailboxes -/

def execOwnerClaim (port master : Nat) (nonce : BitVec 16) (s : State) : Answer :=
  onAgent (.mgmt port master) (.ownerClaim port master nonce) (accessWrite (.mgmt port master) (0x01060 + 4 * port) (nonce.setWidth 32)) s
def execOwnerOffer (a : Agent) (v : Word) (s : State) : Answer := onAgent a (.ownerOffer a v) (accessWrite a rOFFER v) s
def execOwnerAccept (port master : Nat) (nonce : BitVec 16) (s : State) : Answer :=
  onAgent (.mgmt port master) (.ownerAccept port master nonce) (accessWrite (.mgmt port master) (0x01080 + 4 * port) (nonce.setWidth 32)) s
def execOwnerHeartbeat (a : Agent) (window : Option Word) (s : State) : Answer :=
  onAgent a (.ownerHeartbeat a window) (match window with | none => accessWrite a 0x01048 1#32 | some w => accessWrite a rHEARTBEAT_WINDOW w) s
def execNonownerWrite (port master : Nat) (addr : BitVec 22) (v : Word) (s : State) : Answer :=
  onAgent (.mgmt port master) (.nonownerWrite port master addr v) (accessWrite (.mgmt port master) addr.toNat v) s
def execMailboxWrite (port master : Nat) (v : Word) (s : State) : Answer :=
  onAgent (.mgmt port master) (.mailboxWrite port master v) (accessWrite (.mgmt port master) (0x01090 + 4 * port) v) s
def execMailboxRead (a : Agent) (port : Nat) (s : State) : Answer :=
  if port < 4 then onAgent a (.mailboxRead a port) (accessRead a (0x01090 + 4 * port)) s else .fault .noSuchMgmtPort

/-! ### Steward -/

def execStewardKick (a : Agent) (s : State) : Answer := onAgent a (.stewardKick a) (accessWrite a 0x04048 1#32) s
def execStewardRestart (a : Agent) (s : State) : Answer := onAgent a (.stewardRestart a) (accessWrite a 0x04044 1#32) s

/-! ### Queues, ledgers, rings, topology -/

/-- CFG of an agent's selected queue with ENABLE as given. -/
def cfgWith (a : Agent) (on : Bool) (v : Option Word) (s : State) : Word :=
  let c := v.getD (queueAt (qSel (match a with | .steward => stewardCopy | _ => 0) s) s).cfg
  if on then c ||| 1#32 else c &&& ~~~1#32

def execQueueEnable (a : Agent) (v : Word) (s : State) : Answer :=
  onAgent a (.queueEnable a v) (fun s => accessWrite a 0x09044 (cfgWith a true (some v) s) s) s
def execQueueDisable (a : Agent) (s : State) : Answer :=
  onAgent a (.queueDisable a) (fun s => accessWrite a 0x09044 (cfgWith a false none s) s) s
def execQueueResume (a : Agent) (s : State) : Answer := onAgent a (.queueResume a) (accessWrite a 0x09068 1#32) s
def execQueueCfgWrite (a : Agent) (off : Nat) (v : Word) (s : State) : Answer :=
  onAgent a (.queueCfgWrite a off v) (accessWrite a (pageAddr pQUEUE off) v) s
def execMaskDataWrite (a : Agent) (v : Word) (s : State) : Answer := onAgent a (.maskDataWrite a v) (accessWrite a 0x09078 v) s
def execLedgerRelease (a : Agent) (s : State) : Answer := onAgent a (.ledgerRelease a) (accessWrite a 0x0A04C 1#32) s
def execRetrain (a : Agent) (port : Nat) (s : State) : Answer :=
  onRingPage a port (.retrain a port) (accessWrite a (pageAddr (pRING port) 0x044) 1#32) s
def execRingCreditWrite (a : Agent) (port off : Nat) (v : Word) (s : State) : Answer :=
  onRingPage a port (.ringCreditWrite a port off v) (accessWrite a (pageAddr (pRING port) off) v) s
def execUnfence (a : Agent) (s : State) : Answer := onAgent a (.unfence a) (accessWrite a 0x20094 1#32) s
def execTopologyWrite (a : Agent) (off : Nat) (v : Word) (s : State) : Answer :=
  onAgent a (.topologyWrite a off v) (accessWrite a (pageAddr pTOPOLOGY off) v) s
def execGroupCfgWrite (a : Agent) (v : Word) (s : State) : Answer := onAgent a (.groupCfgWrite a v) (accessWrite a 0x20084 v) s
def execLineCfgWrite (a : Agent) (v : Word) (s : State) : Answer := onAgent a (.lineCfgWrite a v) (accessWrite a 0x0C06C v) s
def execLineMembersWrite (a : Agent) (v : Word) (s : State) : Answer := onAgent a (.lineMembersWrite a v) (accessWrite a 0x0C074 v) s
def execMusterCtrlWrite (a : Agent) (v : Word) (s : State) : Answer := onAgent a (.musterCtrlWrite a v) (accessWrite a 0x0C090 v) s
def execThresholdWrite (a : Agent) (off : Nat) (v : Word) (s : State) : Answer :=
  onAgent a (.thresholdWrite a off v) (accessWrite a (pageAddr pASSAY off) v) s
def execAssayPolicyWrite (a : Agent) (off : Nat) (v : Word) (s : State) : Answer :=
  onAgent a (.assayPolicyWrite a off v) (accessWrite a (pageAddr pASSAY off) v) s
def execSpillPoolWrite (a : Agent) (plane off : Nat) (v : Word) (s : State) : Answer :=
  onPlanePage a plane (.spillPoolWrite a plane off v) (accessWrite a (pageAddr (pPLANE plane) off) v) s
def execPerfClear (a : Agent) (s : State) : Answer :=
  onAgent a (.perfClear a) (fun s => accessWrite a rPERF_CTRL (reg rPERF_CTRL s ||| 1#32) s) s
def execInjectArm (a : Agent) (v : Word) (s : State) : Answer := onAgent a (.injectArm a v) (accessWrite a rINJECT v) s

/-! ### Any access -/

def execMgmtErrorResponse (port master : Nat) (write : Bool) (addr : BitVec 22) (v : Word) (s : State) : Answer :=
  onAgent (.mgmt port master) (.mgmtErrorResponse port master write addr v)
    (if write then accessWrite (.mgmt port master) addr.toNat v else accessRead (.mgmt port master) addr.toNat) s
def execRegisterWrite (a : Agent) (addr : BitVec 22) (v : Word) (s : State) : Answer :=
  onAgent a (.registerWrite a addr v) (accessWrite a addr.toNat v) s

end Sys2Proof.Machine
end

