-- ==== Sys2Proof/Machine/Crypto.lean ====
section
/-! DEFINITION. SHA-384 and ECDSA over P-384, which R370 names for the firmware's digest and signature. The manual cites both by name; their algorithms are the published standards' (PRESUMED, log 17). -/

namespace Sys2Proof.Machine

/-! ### SHA-384 -/

/-- The greatest x below 2^fuel times the bits so far with x^k at most n. -/
def rootBits (k n : Nat) : Nat → Nat → Nat
  | 0, x => x
  | i + 1, x => rootBits k n i (if (x + 2 ^ i) ^ k ≤ n then x + 2 ^ i else x)

/-- The first 64 bits of the fraction of the k-th root of p. -/
def rootFraction (k p : Nat) : Word64 := BitVec.ofNat 64 (rootBits k (p * 2 ^ (64 * k)) 72 0)

/-- The first 80 primes. -/
def shaPrimes : List Nat := ((List.range 410).filter fun n => decide (2 ≤ n) && (List.range 21).all fun d => decide (d < 2 ∨ n ≤ d) || n % d != 0)

/-- Round constants: cube roots of the first 80 primes. -/
def shaK : List Word64 := shaPrimes.map (rootFraction 3)
/-- Initial hash: square roots of the ninth to the sixteenth prime. -/
def shaInit : List Word64 := ((shaPrimes.drop 8).take 8).map (rootFraction 2)

def beBytes (n v : Nat) : List Byte := (leBytes n v).reverse

def shaPad (m : List Byte) : List Byte :=
  m ++ [0x80#8] ++ List.replicate ((239 - m.length % 128) % 128) 0#8 ++ beBytes 16 (8 * m.length)

def rotr (x : Word64) (n : Nat) : Word64 := x.rotateRight n

/-- The message schedule, newest word first. -/
def shaExtend : Nat → List Word64 → List Word64
  | 0, w => w
  | n + 1, w =>
    let a := w.getD 1 0#64
    let b := w.getD 14 0#64
    let s1 := rotr a 19 ^^^ rotr a 61 ^^^ (a >>> 6)
    let s0 := rotr b 1 ^^^ rotr b 8 ^^^ (b >>> 7)
    shaExtend n ((s1 + w.getD 6 0#64 + s0 + w.getD 15 0#64) :: w)

def shaRound (h : List Word64) (kw : Word64) : List Word64 :=
  match h with
  | [a, b, c, d, e, f, g, x] =>
    let t1 := x + (rotr e 14 ^^^ rotr e 18 ^^^ rotr e 41) + ((e &&& f) ^^^ (~~~e &&& g)) + kw
    let t2 := (rotr a 28 ^^^ rotr a 34 ^^^ rotr a 39) + ((a &&& b) ^^^ (a &&& c) ^^^ (b &&& c))
    [t1 + t2, a, b, c, d + t1, e, f, g]
  | _ => h

def shaBlock (ks : List Word64) (h : List Word64) (block : List Byte) : List Word64 :=
  let w := ((List.range 16).map fun i => BitVec.ofNat 64 (beNat (sliceB block (8 * i) 8))).reverse
  let ws := (shaExtend 64 w).reverse
  let r := ((ks.zip ws).map fun x => x.1 + x.2).foldl shaRound h
  (h.zip r).map fun x => x.1 + x.2

/-- The digest of a message, 48 bytes. -/
def sha384 (m : List Byte) : List Byte :=
  let p := shaPad m
  let h := (List.range (p.length / 128)).foldl (fun h i => shaBlock shaK h (sliceB p (128 * i) 128)) shaInit
  (h.take 6).flatMap fun w => beBytes 8 w.toNat

/-! ### P-384 -/

def curveP : Nat := 2 ^ 384 - 2 ^ 128 - 2 ^ 96 + 2 ^ 32 - 1
def curveN : Nat := 0xFFFFFFFFFFFFFFFFFFFFFFFFFFFFFFFFFFFFFFFFFFFFFFFFC7634D81F4372DDF581A0DB248B0A77AECEC196ACCC52973
def curveB : Nat := 0xB3312FA7E23EE7E4988E056BE3F82D19181D9C6EFE8141120314088F5013875AC656398D8A2ED19D2A85C8EDD3EC2AEF
def curveG : Nat × Nat :=
  (0xAA87CA22BE8B05378EB1C71EF320AD746E1D3B628BA79B9859F741E082542A385502F25DBF55296C3A545E3872760AB7,
   0x3617DE4A96262C6F5D9E98BF9292DC29F8F41DBD289A147CE9DA3113B5F0B8C00A60B1CE1D7E819D7A431D7C90EA0E5F)

/-- b^e mod m over the low `fuel` bits of e. -/
def powMod (m : Nat) : Nat → Nat → Nat → Nat → Nat
  | 0, _, _, acc => acc
  | fuel + 1, b, e, acc => powMod m fuel (b * b % m) (e / 2) (if e % 2 = 1 then acc * b % m else acc)

/-- Inverse modulo a prime. -/
def invMod (m x : Nat) : Nat := powMod m 384 (x % m) (m - 2) 1

/-- Addition on the curve; none is the neutral element. -/
def curveAdd (a b : Option (Nat × Nat)) : Option (Nat × Nat) :=
  match a, b with
  | none, q => q
  | p, none => p
  | some (x1, y1), some (x2, y2) =>
    let p := curveP
    if x1 = x2 ∧ (y1 + y2) % p = 0 then none
    else
      let l := if x1 = x2 then (3 * x1 * x1 + p - 3) * invMod p (2 * y1) % p else (y2 + p - y1) * invMod p (x2 + p - x1) % p
      let x := (l * l + 2 * p - x1 - x2) % p
      some (x, (l * (x1 + p - x) + p - y1) % p)

def curveMul : Nat → Nat → Option (Nat × Nat) → Option (Nat × Nat) → Option (Nat × Nat)
  | 0, _, _, acc => acc
  | fuel + 1, k, p, acc => curveMul fuel (k / 2) (curveAdd p p) (if k % 2 = 1 then curveAdd acc p else acc)

def onCurve (x y : Nat) : Bool := decide (x < curveP ∧ y < curveP) && y * y % curveP == (x * x * x + (curveP - 3) * x + curveB) % curveP

/-- (r, s) is a valid signature of digest e under the key (x, y). -/
def ecdsaValid (x y r s e : Nat) : Bool :=
  onCurve x y && decide (1 ≤ r ∧ r < curveN ∧ 1 ≤ s ∧ s < curveN) &&
    let w := invMod curveN s
    match curveAdd (curveMul 384 (e * w % curveN) (some curveG) none) (curveMul 384 (r * w % curveN) (some (x, y)) none) with
    | none => false
    | some (vx, _) => vx % curveN == r

end Sys2Proof.Machine
end

