-- ==== Sys2Proof/Machine/Startup.lean ====
section
/-! DEFINITION. Reset and start-up (R69, R359 to R372, R394): trims, self-test, the configuration image, the firmware, lock, training, and FAB_READY. -/

namespace Sys2Proof.Machine

/-! ### Reset (R69, R70) -/

/-- RST_N falls: all state is cleared. What a machine of the model has beside the hardware stays: its build, the journal, the commands to come. -/
def resetNow (s : State) : State := { State.resetOf s.build with out := s.out, pending := s.pending }

/-! ### Phase 3: trims and self-test (R360 to R362) -/

def trimMagic : Nat := 0x4D495254

/-- MAGIC, LAYOUT and CHECK are all correct. -/
def trimsGood (w : List Word) : Bool :=
  decide (w.length = 1024) && (w.getD 0 0#32).toNat == trimMagic && w.getD 1 0#32 == 1#32 && crc32c (bytesOfWords (w.take 1023)) == w.getD 1023 0#32

def storeTrims (w : List Word) (s : State) : State :=
  { s with tabs := { s.tabs with trims := (w.take 1024).zipIdx.foldl (fun (t : Table Word) (x : Word × Nat) => tset 0#32 x.2 x.1 t) [] } }

/-- CONFIG.STATUS bits [3:0]. -/
def cfgBit (i : Nat) (s : State) : State := setReg rCFG_STATUS (reg rCFG_STATUS s ||| bit i) s

/-- The trim set is read once, word by word (R66), checked and applied (R360, R361). -/
def trimPhase (w : List Word) (s : State) : State :=
  let ok := trimsGood w
  let s := presentAll ((List.range 1024).map .trimRead) s
  let s := storeTrims w { s with boot := { s.boot with trimsValid := ok } }
  let s := if ok then s else cfgBit 1 (notice 0x92 (source 0 0) s)
  let d := trimOr 258 0#32 s &&& 0xFFFF#32
  assayTrims (phyTrims (setReg rINPUT_DELAY d { s with mer := { s.mer with delayAt := d.toNat } }))

/-- Every SRAM tests itself, and the planes leave TESTING (R409, R420): a plane whose share runs out of spare rows is failed; a control SRAM that does so stops start-up (R362). -/
def selfTest (rows : List (Nat × Nat)) (s : State) : State :=
  let s := irq pPOWER 1 { s with boot := { s.boot with testRows := rows } }
  let s := (List.range s.build.planes).foldl (fun s p => if shareFails p s then failPlane p s else s) s
  if (failedMacros s).any fun m => (Config.macroPlane m).isNone then fabricFatalNow 0xF0 (source 0 0) s else s

/-! ### Phase 4: the image (R364 to R368) -/

def imageWord (img : List Byte) (off : Nat) : Nat := (word32At img off).toNat

/-- The size that the header gives is a legal one. -/
def sizeOk (n : Nat) : Bool := decide (64 ≤ n ∧ n ≤ 262144) && n % 8 == 0

/-- All the bytes that the header announces are here; a header whose size is illegal is complete by itself. -/
def imageComplete (img : List Byte) : Bool :=
  decide (64 ≤ img.length) && (!sizeOk (imageWord img 12) || decide (imageWord img 12 ≤ img.length))

/-- The records: address word and value. -/
def imageRecords (img : List Byte) : List (Nat × Word) :=
  (List.range ((imageWord img 12 - 64) / 8)).map fun i => (imageWord img (64 + 8 * i), word32At img (68 + 8 * i))

/-- A record's address that R366 accepts. -/
def recordAddrOk (a : Nat) : Bool := a % 4 == 0 && decide (a < 0x100000) && a / 0x1000 != pOWNER && a / 0x1000 != pERRLOG

def imageOk (img : List Byte) : Bool :=
  let n := imageWord img 12
  let im := img.take n
  imageWord img 0 == 0x47464E43 && imageWord img 4 / 65536 == 3 && decide (imageWord img 4 % 65536 ≤ 1) && imageWord img 8 == 1 && sizeOk n
    && imageWord img 16 == (n - 64) / 8 && (sliceB img 20 40).all (· == 0#8)
    && (crc32c (im.take 60 ++ List.replicate 4 0#8 ++ im.drop 64)).toNat == imageWord img 60 && (imageRecords img).all fun r => recordAddrOk r.1

/-- What the targets report when they refuse a write: log entries, at once or in class 2 of the next transit, and refusal counters (R217, R367). The 0x19 of a swap that is past is none: the write has taken effect (R233). -/
def refusals (s : State) : Nat × List Word :=
  ((s.clock.found.filter fun x => match x.2 with | .entry e => e.code != 0x19 | _ => false).length, [reg (rErrCount pERRLOG) s, reg rCFG_REFUSED s, reg rSIG_REFUSED s])

/-- A refused record: counted, the first held, 0x97 once. -/
def recordRefused (i : Nat) (s : State) : State :=
  let first := reg rREC_REFUSED s == 0#32
  let s := setReg rREC_REFUSED (satAdd (reg rREC_REFUSED s) 1) s
  if first then notice 0x97 (source 0 0) (setReg rFIRST_REFUSED (BitVec.ofNat 32 i) s) else s

/-- One record: an owner write. -/
def applyRecord (s : State) (r : (Nat × Word) × Nat) : State :=
  let s' := writeReg none 0 r.1.1 r.1.2 s
  if refusals s' = refusals s then setReg rREC_APPLIED (satAdd (reg rREC_APPLIED s') 1) s' else recordRefused r.2 s'

/-- The defaults: every register as it is after reset with the trims on top (R368). -/
def defaultsNow (code : Nat) (s : State) : State := absentIrq s (irq pCONFIG 1 (cfgBit 0 (notice code (source 0 0) s)))

/-- Phase 4 ends, and phase 5 reads the firmware from its start. -/
def afterImage (s : State) : State := setPhase 5 { s with boot := { s.boot with applying := none, firmware := [], readBad := false } }

/-- The image as far as it has come: by mailbox writes, or by reads of memory (R364). -/
def stagedImage (s : State) : List Byte := if configSrc s = 1 then bytesOfWords s.boot.staging else s.boot.image

/-- A complete image is checked before any record of it is applied (R366). -/
def imageCheck (s : State) : State :=
  let img := stagedImage s
  if s.boot.applying.isSome || s.boot.readBad || decide (2 ≤ configSrc s) || !imageComplete img then s
  else if imageOk img then { s with boot := { s.boot with image := img, applying := some 0 } }
  else afterImage (defaultsNow 0x90 s)

/-- Records that one transit applies at most (R367). -/
def recordsPerTransit : Nat := 16

/-- Class 8 of a transit of phase 4: the next records of a valid image, in their order; after the last the image has been applied. -/
def imageStep (s : State) : State :=
  match s.boot.applying with
  | none => s
  | some i =>
    if !alive s then s
    else
      let rs := imageRecords s.boot.image
      let s := ((rs.zipIdx.drop i).take recordsPerTransit).foldl applyRecord s
      if rs.length ≤ i + recordsPerTransit then afterImage (cfgBit 2 s) else { s with boot := { s.boot with applying := some (i + recordsPerTransit) } }

/-! ### Phase 5: the firmware (R369, R370) -/

def fwWord (f : List Byte) (off : Nat) : Nat := imageWord f off

/-- An unrevoked key digest of the ROM is the key's. -/
def keyTrusted (f : List Byte) (s : State) : Bool :=
  (List.range 4).any fun i => Config.romKeyDigest i == beNat (sha384 (sliceB f 64 96)) && !bitOf (bootWord 291 s) i

def firmwareOk (f : List Byte) (s : State) : Bool :=
  let n := fwWord f 8
  fwWord f 0 == 0x57545346 && decide (4 ≤ n ∧ n ≤ 524032) && n % 4 == 0 && decide (fwWord f 12 < n) && decide (256 + n ≤ f.length)
    && decide ((bootWord 289 s).toNat ≤ fwWord f 4) && keyTrusted f s
    && ecdsaValid (beNat (sliceB f 64 48)) (beNat (sliceB f 112 48)) (beNat (sliceB f 160 48)) (beNat (sliceB f 208 48))
        (beNat (sha384 (f.take 160 ++ sliceB f 256 n)))

/-- All the bytes that the firmware's header announces are here, or a read of it has failed. -/
def firmwareHere (s : State) : Bool := s.boot.readBad || decide (firmwareSize s.boot.firmware ≤ s.boot.firmware.length)

/-- The steward starts, or is held until RST_N. -/
def firmwarePhase (s : State) : State :=
  let f := s.boot.firmware
  if firmwareOk f s then
    let s := { s with steward := { s.steward with code := sliceB f 256 (fwWord f 8), entry := fwWord f 12 } }
    cfgBit 3 (stewardStart (setReg rFW_VERSION (BitVec.ofNat 32 (fwWord f 4)) s))
  else irq pSTEWARD 1 (setStewardState 2 (orReg rSTEWARD_STATE (bit 4) (notice 0x94 (source 0 0) s)))

/-! ### Phases 6 and 7 (R371, R372) -/

def mappedPorts (s : State) : List Nat := (List.range s.build.ringPorts).filter fun n => !portAbsent n s

/-- Phase 7 begins: the steward, where it is released, trains every mapped port. -/
def trainPhase (s : State) : State :=
  let s := setPhase 7 s
  (mappedPorts s).foldl (fun s n => retrainApply n s) s

/-- MERIDIAN.SOURCE rules until the first lock (R224, R225). -/
def sourceEdge (s : State) : State :=
  let on := bitOf (reg rSOURCE s) 0
  if merState s = 0 ∧ on = true then setMerState 1 s else if merState s = 1 ∧ on = false then setMerState 0 s else s

/-- Phase 4 begins: where the trims select no source it ends at once, with the defaults (R364). The reserved selection 3 is taken as none (log 12). -/
def imagePhase (s : State) : State :=
  let s := setPhase 4 s
  if configSrc s < 2 then s else afterImage (defaultsNow 0x91 s)

def startupApply (b : BootInput) (s : State) : State :=
  if s.clock.rstN then s
  else
    let s := setPhase 3 (sourceEdge { s with clock := { s.clock with rstN := true, reached := Place.start, held := [], due := [], found := [], sampled := [] } })
    let s := selfTest b.testRows (trimPhase b.trims s)
    if alive s then imagePhase s else { s with clock := { s.clock with phase := 4 } }

/-! ### Phases at a boundary, and their limits -/

/-- FAB_READY rises and the MERIDIAN and CONFIG pages lock (R359, R394). -/
def readyNow (s : State) : State :=
  let s := setPhase 9 { s with clock := { s.clock with fabReady := true, readyNext := false } }
  orReg (rPageCtrl pCONFIG) 4#32 (orReg (rPageCtrl pMERIDIAN) 4#32 s)

/-- A phase whose end has come gives way to the next. -/
def phaseEdge (s : State) : State :=
  if !alive s then s
  else
    let s := sourceEdge s
    if s.clock.readyNext then readyNow s
    else match phaseOf s with
      | 4 => bootIssue (imageCheck s)
      | 5 => if firmwareHere s then setPhase 6 (firmwarePhase s) else bootIssue s
      | 6 => if merState s = 2 ∨ bitOf (reg rSOURCE s) 0 = false then trainPhase s else s
      | 7 => if (mappedPorts s).all fun n => (linkAt n s).state == 2 then setPhase 8 s else s
      | _ => s

/-- The phase that began then has lasted a number of milliseconds. -/
def lasted (ms since : Nat) (s : State) : Bool := decide (since + ms * unitsMs ≤ s.clock.now)

def imageTimeoutApply (s : State) : State :=
  if alive s && phaseOf s == 4 && s.boot.applying.isNone && lasted (bootWord 290 s).toNat s.clock.phaseAt s then afterImage (defaultsNow 0x91 s) else s

def lockTimeoutApply (s : State) : State :=
  if alive s && phaseOf s == 6 && lasted (regNat rLOCK_WAIT s) 0 s then trainPhase (notice 0x95 (source 0 0) s) else s

def trainTimeoutApply (s : State) : State :=
  if alive s && phaseOf s == 7 && lasted (regNat rTRAIN_WAIT s) s.clock.phaseAt s then
    setPhase 8 ((mappedPorts s).foldl (fun s n => if (linkAt n s).state = 2 then s else notice 0x96 (ringSource n) s) s)
  else s

/-! ### The commands -/

def execResetAssert (s : State) : Answer := .next (resetNow s)
def execStartup (boot : BootInput) (s : State) : Answer := .next (inTransit (.startup boot) (startupApply boot) s)
def execImageTimeout (s : State) : Answer := .next (inTransit .imageTimeout imageTimeoutApply s)
def execLockTimeout (s : State) : Answer := .next (inTransit .lockTimeout lockTimeoutApply s)
def execTrainTimeout (s : State) : Answer := .next (inTransit .trainTimeout trainTimeoutApply s)

end Sys2Proof.Machine
end

