-- ==== Sys2Proof/Machine/Transit.lean ====
section
/-! DEFINITION. The boundary between two transits (R209 to R217, R225, R380): time, the transit number, what waits for a first edge, the counters of transits, the watchdogs' counts, and the events that were held (log 3, log 4, log 5). -/

namespace Sys2Proof.Machine

/-! ### The counts of the transit that ends -/

/-- The state with gating off: what would start were it not for windows. -/
def ungated (s : State) : State := setReg rMER_STATE (reg rMER_STATE s &&& ~~~7#32) s

def startedSteps (id : OpId) (s : State) : Nat := match (opAt id s).bind fun o => o.leg with | some g => g.started.length | none => 0

/-- Gated ring steps of an operation that are ready and wait for their windows (R231). -/
def stepsWaiting (o : Op) (s : State) : Nat :=
  let q := queueAt o.id.queue s
  match o.leg with
  | none => 0
  | some g =>
    if !ephBound q || !gatingOn s then 0
    else ((legDirs g).map fun rev => ((List.range (lapEnd o.d g.n + 1)).filter fun j =>
      stepGated q o.d j s && !windowOpen (activeBank s) (dEphSlot o.d) j s && decide (startedSteps o.id s < startedSteps o.id (ringStepApply o.id rev j (ungated s)))).length).sum

/-- Descriptors that a queue could start next: its head, or its standing orders that do not run. -/
def startable (q : Nat) (s : State) : List (List Word) :=
  let v := queueAt q s
  if !serving s || !qRuns v then []
  else if qStanding v then ((queueOrders q s).filter fun o => !o.unpin && !orderBusy q o.slot s).map fun o => o.words
  else match headDesc v s.clock.fclk with
    | some f => if f.decoded = some 0#8 then [f.words] else []
    | none => []

/-- Starts of a queue that are ready and wait for their windows (R231). -/
def startsWaiting (q : Nat) (s : State) : Nat := ((startable q s).filter fun d => startReady q d s && !startOpen q d s).length

/-- A descriptor of a queue waits at its head for a bound (R266). -/
def boundWaits (q : Nat) (s : State) : Bool :=
  (startable q s).any fun d => !s.clock.fenced && startOpen q d s && trigHolds d (opMembers (queueAt q s) d s) s && !boundsAllow q d s

def slotWaits (s : State) : Nat := ((s.queues.map fun x => startsWaiting x.1 s) ++ s.ops.map fun o => stepsWaiting o s).sum

/-- The counters of transits (R164, R231, R234, R266, R417). -/
def countTransit (s : State) : State :=
  let slot := slotWaits s
  let bound := s.queues.any fun x => boundWaits x.1 s
  let s := if slot = 0 then s else count rSLOT_WAIT slot s
  let s := if overThrottle s then count rOVER_THROTTLE 1 s else s
  let s := perf pcLedgerWait s.pageWait.length s
  let s := perf pcInflightWait (boolNat bound) s
  let s := perf pcRun (boolNat (powerState s == 0)) s
  let s := perf pcIdle (boolNat s.clock.gated) s
  let s := perf pcFenced (boolNat s.clock.fenced) s
  perf pcThrottled (boolNat (s.clock.throttle != 0#2)) s

/-! ### The watchdogs' counts (R297, R348) -/

/-- A port that carries one of the operation's steps or relays is replaying. -/
def stepReplays (o : Op) (s : State) : Bool :=
  match o.leg with
  | none => false
  | some g => s.links.any fun x => x.2.replaying && (g.tx.any (fun t => t.port == x.1) || x.2.relays.any (fun t => t.group == g.tgroup)
      || (legRecvs g (dOp o.d == oALLTOALL) s).any fun k => k / 4 == x.1)

/-- A lower mechanism is active for the operation. -/
def suspended (o : Op) (s : State) : Bool :=
  s.clock.fenced || o.comparing || stepReplays o s || decide (0 < stepsWaiting o s) || memHolds o s

/-- A transit of a number of cycles ends: an operation that made progress in it, or had a comparison end, counts from 0 again. -/
def countIdle (cycles : Nat) (s : State) : State :=
  { s with ops := s.ops.map fun o =>
      if o.progress || !watched o s || comparesIn s.clock.fclk (s.clock.fclk + cycles) o s then { o with idle := 0, progress := false } else if suspended o s then o else { o with idle := o.idle + 1 } }

/-- Transits in a row with nothing to do (R380). -/
def countIdleRun (s : State) : State := { s with clock := { s.clock with idleRun := if idleNow s then s.clock.idleRun + 1 else 0 } }

/-! ### Time -/

/-- FCLK cycles and time pass; the next transit begins with its number, its order open, and due in its class 2 what the last one found (R209, R211, R215). -/
def advance (n cycles ticks : Nat) (s : State) : State :=
  let c := s.clock
  { s with clock := { c with fclk := c.fclk + cycles, now := c.now + ticks, transit := BitVec.ofNat 64 n, reached := Place.start, held := [], due := c.found, found := [], sampled := [] }, setNow := [] }

/-- The first edge after a lock from ACQUIRE: LOCK_TRANSIT takes the transit number that it begins (R225). DESIGN CHOICE (log 66): the number that a RESYNC or a relock through SLEWING brings is recorded in no register. -/
def lockRecord (s : State) : State :=
  if s.mer.lockPending then setReg64 rLOCK_TRANSIT_LO s.clock.transit { s with mer := { s.mer with lockPending := false } } else s

/-- Meridian time and the transit number pass to the next transit. -/
def timeEdge (cycles ticks : Nat) (s : State) : State :=
  let n := nextTransit cycles ticks s
  epochEdge (delaySlew (lockRecord (advance n cycles ticks (merBoundary n cycles ticks s))))

/-- WEIGHT and CAP take effect at the first edge after their write (R431). -/
def paceEdge (s : State) : State :=
  (List.range s.build.ringPorts).foldl (fun s n =>
    let l := linkAt n s
    let w := (List.range 3).map fun v => regNat (rWEIGHT n v) s
    let c := (List.range 4).map fun v => regNat (rCAP n v) s
    if l.weight == w && l.cap == c then s else setLink n { l with weight := w, cap := c } s) s

/-- What happens at the first edge itself: roles, class 1, phases, queues, sampled lines, remote ADDs. -/
def firstEdge (s : State) : State :=
  addsEdge (linesEdge (queuesEdge (phaseEdge (powerEdge (ownerEdge (paceEdge (fatalEdge s)))))))

/-! ### Held events -/

/-- The meaning of a held event; one that R216 does not place is never held. -/
def heldAnswer (c : Instr) (s : State) : Answer :=
  match c with
  | .imageTimeout => execImageTimeout s
  | .lockTimeout => execLockTimeout s
  | .trainTimeout => execTrainTimeout s
  | .ownerElection => execOwnerElection s
  | .tallyAdd stall idx arg => execTallyAdd stall idx arg s
  | .tallySub stall idx arg => execTallySub stall idx arg s
  | .tallyWait stall idx arg => execTallyWait stall idx arg s
  | .tallyTake stall idx arg => execTallyTake stall idx arg s
  | .tallyRead stall idx => execTallyRead stall idx s
  | .tallyBadIndex stall tlyOp idx => execTallyBadIndex stall tlyOp idx s
  | .tallyRetest stall => execTallyRetest stall s
  | .tlyCancel stall => execTlyCancel stall s
  | .tallyWindowSet agent stall tally value => execTallyWindowSet agent stall tally value s
  | .tallyWindowAdd agent stall tally value => execTallyWindowAdd agent stall tally value s
  | .tallyWindowSub agent stall tally value => execTallyWindowSub agent stall tally value s
  | .tallyWindowRead agent stall tally => execTallyWindowRead agent stall tally s
  | .bellOutChange stall line level => execBellOutChange stall line level s
  | .bellExtSenseChange line level => execBellExtSenseChange line level s
  | .bellRing line => execBellRing line s
  | .boardHoldExpire line => execBoardHoldExpire line s
  | .bellRearm line => execBellRearm line s
  | .verdictPass tgroup legSeq => execVerdictPass tgroup legSeq s
  | .verdictRing tgroup legSeq => execVerdictRing tgroup legSeq s
  | .sigSend agent => execSigSend agent s
  | .remoteAddApply port => execRemoteAddApply port s
  | .memTimeout write id => execMemTimeout write id s
  | .doorbell agent queue value => execDoorbell agent queue value s
  | .standingPin agent queue value => execStandingPin agent queue value s
  | .standingUnpin agent queue => execStandingUnpin agent queue s
  | .standingRun queue slot => execStandingRun queue slot s
  | .descriptorStart queue => execDescriptorStart queue s
  | .barrier queue => execBarrier queue s
  | .fence queue => execFence queue s
  | .ledgerOpen op => execLedgerOpen op s
  | .ledgerClaim op => execLedgerClaim op s
  | .waitListClaim ledger => execWaitListClaim ledger s
  | .pageGrant op => execPageGrant op s
  | .almanacCompare op => execAlmanacCompare op s
  | .recallOp op cyc => execRecallOp op cyc s
  | .chunkRelease op stall chunk => execChunkRelease op stall chunk s
  | .seal op => execSeal op s
  | .descriptorFail op => execDescriptorFail op s
  | .ringStepStart op reverse step cyc => execRingStepStart op reverse step cyc s
  | .linkLost port lockFell cyc => execLinkLost port lockFell cyc s
  | .linkDown port code => execLinkDown port code s
  | .meridianCal agent => execMeridianCal agent s
  | .resync agent => execResync agent s
  | .merMarkPulse width offset => execMerMarkPulse width offset s
  | .timecodeFrame frame => execTimecodeFrame frame s
  | .meridianLock => execMeridianLock s
  | .markMissing => execMarkMissing s
  | .refLoss => execRefLoss s
  | .meridianLost => execMeridianLost s
  | .reacquire edge => execReacquire edge s
  | .slewComplete => execSlewComplete s
  | .inputDelayWrite agent value => execInputDelayWrite agent value s
  | .fenceInChange level => execFenceInChange level s
  | .throttleChange value => execThrottleChange value s
  | .bellExtHigh line => execBellExtHigh line s
  | .bellExtLow line => execBellExtLow line s
  | .fenceHigh => execFenceHigh s
  | .swapArm agent => execSwapArm agent s
  | .swapDisarm agent => execSwapDisarm agent s
  | .bankSwap => execBankSwap s
  | .ephemerisEntryWrite agent word value => execEphemerisEntryWrite agent word value s
  | .powerFenceWrite agent value => execPowerFenceWrite agent value s
  | .planePowerDown agent plane => execPlanePowerDown agent plane s
  | .planePowerUp agent plane => execPlanePowerUp agent plane s
  | .softReset agent page => execSoftReset agent page s
  | .pageLock agent page => execPageLock agent page s
  | .restoreTrims agent => execRestoreTrims agent s
  | .errlogPop agent => execErrlogPop agent s
  | .errlogHeadRead agent => execErrlogHeadRead agent s
  | .loReadLatch agent addr => execLoReadLatch agent addr s
  | .readToClear agent addr => execReadToClear agent addr s
  | .faultDetect code source place => execFaultDetect code source place s
  | .containedReplay op code source => execContainedReplay op code source s
  | .ledgerFatal ledger code source => execLedgerFatal ledger code source s
  | .fabricFatal code source => execFabricFatal code source s
  | .watchdog op => execWatchdog op s
  | .binoMismatch point => execBinoMismatch point s
  | .binoStateCompare op differ => execBinoStateCompare op differ s
  | .lateMismatch ledger => execLateMismatch ledger s
  | .sideFault sideB code => execSideFault sideB code s
  | .takeover agent => execTakeover agent s
  | .repair agent => execRepair agent s
  | .repairWithdraw agent => execRepairWithdraw agent s
  | .ownerClaim port master nonce => execOwnerClaim port master nonce s
  | .ownerOffer agent value => execOwnerOffer agent value s
  | .ownerAccept port master nonce => execOwnerAccept port master nonce s
  | .ownerHeartbeat agent window => execOwnerHeartbeat agent window s
  | .ownerVacant => execOwnerVacant s
  | .nonownerWrite port master addr value => execNonownerWrite port master addr value s
  | .mailboxWrite port master value => execMailboxWrite port master value s
  | .mailboxRead agent port => execMailboxRead agent port s
  | .stewardKick agent => execStewardKick agent s
  | .stewardWatchdog => execStewardWatchdog s
  | .stewardRestart agent => execStewardRestart agent s
  | .stewardGuard action => execStewardGuard action s
  | .queueEnable agent value => execQueueEnable agent value s
  | .queueDisable agent => execQueueDisable agent s
  | .queueResume agent => execQueueResume agent s
  | .queueCfgWrite agent offset value => execQueueCfgWrite agent offset value s
  | .maskDataWrite agent value => execMaskDataWrite agent value s
  | .ledgerRelease agent => execLedgerRelease agent s
  | .retrain agent port => execRetrain agent port s
  | .ringCreditWrite agent port offset value => execRingCreditWrite agent port offset value s
  | .unfence agent => execUnfence agent s
  | .topologyWrite agent offset value => execTopologyWrite agent offset value s
  | .groupCfgWrite agent value => execGroupCfgWrite agent value s
  | .lineCfgWrite agent value => execLineCfgWrite agent value s
  | .lineMembersWrite agent value => execLineMembersWrite agent value s
  | .musterCtrlWrite agent value => execMusterCtrlWrite agent value s
  | .thresholdWrite agent offset value => execThresholdWrite agent offset value s
  | .assayPolicyWrite agent offset value => execAssayPolicyWrite agent offset value s
  | .spillPoolWrite agent plane offset value => execSpillPoolWrite agent plane offset value s
  | .perfClear agent => execPerfClear agent s
  | .injectArm agent value => execInjectArm agent value s
  | .injectFire op => execInjectFire op s
  | .mgmtErrorResponse port master write addr value => execMgmtErrorResponse port master write addr value s
  | .registerWrite agent addr value => execRegisterWrite agent addr value s
  | .merRefReturn => execMerRefReturn s
  | .statisticsLap op cyc => execStatisticsLap op cyc s
  | .planeSelftestDone plane rows => execPlaneSelftestDone plane rows s
  | .resetAssert | .startup _ | .transitBoundary _ _ | .upBeat .. | .treeSumArrive .. | .bellMsgReceive .. | .verdictMsgReceive ..
  | .remoteAddReceive .. | .memReadData .. | .memWriteResponse .. | .descriptorFetch .. | .descriptorDecode .. | .reduce .. | .broadcast ..
  | .allreduce .. | .reduceScatter .. | .allgather .. | .max .. | .argmax .. | .topk .. | .sample .. | .alltoall .. | .ledgerAdd ..
  | .ledgerClose .. | .save .. | .restore .. | .upPhaseOpen .. | .upPhaseClose .. | .egress .. | .reEmission .. | .completionRecordWrite ..
  | .ringChunkReceive .. | .chunkForward .. | .ringStepEnd .. | .recallMsgReceive .. | .flitReceive .. | .nakReceive ..
  | .replayTimeout .. | .flitTransmit .. | .heartbeatSend .. | .nullSend .. | .trainFlitReceive .. | .timeFrameReceive .. | .idleEnter
  | .offerLapse | .linkTraining .. | .glitchRemoved .. => .next s

/-- A held event takes its turn; one that is a request of a management port is answered there in its place (R61). -/
def applyHeld (s : State) (x : Place × Instr) : State :=
  asRequest x.2 (fun s => match heldAnswer x.2 s with | .next s' => s' | _ => s) s

/-! ### The boundary -/

/-- FENCE_IN and THROTTLE changes come before what class 1 does by itself (R216). -/
def heldFirst (l : List (Place × Instr)) : List (Place × Instr) := l.filter fun x => x.1.cls == 1

/-- The other held events, in the order of the places that they have in the transit that begins. -/
def heldLater (l : List (Place × Instr)) (s : State) : List (Place × Instr) :=
  (l.filter fun x => x.1.cls != 1).foldl (fun l x => holdInsert ((placeOf x.2 s).getD x.1) x.2 l) []

/-- What the last cycles of a transit bring: the criers' beats, the mask groups' holds, the records of a configuration image, the counters of transits. -/
def transitEnds (cycles : Nat) (s : State) : State :=
  let s := imageStep (holdsEdge (crierRun (s.clock.fclk + cycles) s))
  if alive s then countIdleRun (countIdle cycles (countTransit (countsEdge s))) else s

/-- A boundary, where it can fall: the transit ends, time passes, and the first edge of the next brings what waits for it, in the order of R216. -/
def boundaryApply (cycles ticks : Nat) (s : State) : State :=
  if !s.clock.rstN || !boundaryFits cycles ticks s then s
  else
    let h := s.clock.held
    let s := detectorBoundary (timeEdge cycles ticks (transitEnds cycles s))
    let s := firstEdge ((heldFirst h).foldl applyHeld s)
    (heldLater h s).foldl applyHeld s

def execTransitBoundary (cycles ticks : Nat) (s : State) : Answer := .next (inTransit (.transitBoundary cycles ticks) (boundaryApply cycles ticks) s)

end Sys2Proof.Machine
end

