-- ==== Sys2Proof/Machine/Dispatch.lean ====
section
/-! DEFINITION. The dispatcher: one arm for each command, each a direct call of its meaning. -/

namespace Sys2Proof.Machine

def exec (i : Instr) (s : State) : Host.Outcome State Fault Refusal :=
  match i with
  | .resetAssert => Sys2Proof.Machine.execResetAssert s
  | .startup boot => Sys2Proof.Machine.execStartup boot s
  | .imageTimeout => Sys2Proof.Machine.execImageTimeout s
  | .lockTimeout => Sys2Proof.Machine.execLockTimeout s
  | .trainTimeout => Sys2Proof.Machine.execTrainTimeout s
  | .ownerElection => Sys2Proof.Machine.execOwnerElection s
  | .transitBoundary cycles ticks => Sys2Proof.Machine.execTransitBoundary cycles ticks s
  | .upBeat stall plane tag chunk last data scale cyc => Sys2Proof.Machine.execUpBeat stall plane tag chunk last data scale cyc s
  | .treeSumArrive op chunk beat cyc => Sys2Proof.Machine.execTreeSumArrive op chunk beat cyc s
  | .tallyAdd stall idx arg => Sys2Proof.Machine.execTallyAdd stall idx arg s
  | .tallySub stall idx arg => Sys2Proof.Machine.execTallySub stall idx arg s
  | .tallyWait stall idx arg => Sys2Proof.Machine.execTallyWait stall idx arg s
  | .tallyTake stall idx arg => Sys2Proof.Machine.execTallyTake stall idx arg s
  | .tallyRead stall idx => Sys2Proof.Machine.execTallyRead stall idx s
  | .tallyBadIndex stall tlyOp idx => Sys2Proof.Machine.execTallyBadIndex stall tlyOp idx s
  | .tallyRetest stall => Sys2Proof.Machine.execTallyRetest stall s
  | .tlyCancel stall => Sys2Proof.Machine.execTlyCancel stall s
  | .tallyWindowSet agent stall tally value => Sys2Proof.Machine.execTallyWindowSet agent stall tally value s
  | .tallyWindowAdd agent stall tally value => Sys2Proof.Machine.execTallyWindowAdd agent stall tally value s
  | .tallyWindowSub agent stall tally value => Sys2Proof.Machine.execTallyWindowSub agent stall tally value s
  | .tallyWindowRead agent stall tally => Sys2Proof.Machine.execTallyWindowRead agent stall tally s
  | .bellOutChange stall line level => Sys2Proof.Machine.execBellOutChange stall line level s
  | .bellExtSenseChange line level => Sys2Proof.Machine.execBellExtSenseChange line level s
  | .bellRing line => Sys2Proof.Machine.execBellRing line s
  | .boardHoldExpire line => Sys2Proof.Machine.execBoardHoldExpire line s
  | .bellRearm line => Sys2Proof.Machine.execBellRearm line s
  | .bellMsgReceive port cyc => Sys2Proof.Machine.execBellMsgReceive port cyc s
  | .verdictMsgReceive port cyc => Sys2Proof.Machine.execVerdictMsgReceive port cyc s
  | .verdictPass tgroup legSeq => Sys2Proof.Machine.execVerdictPass tgroup legSeq s
  | .verdictRing tgroup legSeq => Sys2Proof.Machine.execVerdictRing tgroup legSeq s
  | .sigSend agent => Sys2Proof.Machine.execSigSend agent s
  | .remoteAddReceive port cyc => Sys2Proof.Machine.execRemoteAddReceive port cyc s
  | .remoteAddApply port => Sys2Proof.Machine.execRemoteAddApply port s
  | .memReadData id data poison err last cyc => Sys2Proof.Machine.execMemReadData id data poison err last cyc s
  | .memWriteResponse id err => Sys2Proof.Machine.execMemWriteResponse id err s
  | .memTimeout write id => Sys2Proof.Machine.execMemTimeout write id s
  | .descriptorFetch queue cyc => Sys2Proof.Machine.execDescriptorFetch queue cyc s
  | .descriptorDecode queue slot => Sys2Proof.Machine.execDescriptorDecode queue slot s
  | .doorbell agent queue value => Sys2Proof.Machine.execDoorbell agent queue value s
  | .standingPin agent queue value => Sys2Proof.Machine.execStandingPin agent queue value s
  | .standingUnpin agent queue => Sys2Proof.Machine.execStandingUnpin agent queue s
  | .standingRun queue slot => Sys2Proof.Machine.execStandingRun queue slot s
  | .descriptorStart queue => Sys2Proof.Machine.execDescriptorStart queue s
  | .reduce op cyc => Sys2Proof.Machine.execReduce op cyc s
  | .broadcast op cyc => Sys2Proof.Machine.execBroadcast op cyc s
  | .allreduce op cyc => Sys2Proof.Machine.execAllreduce op cyc s
  | .reduceScatter op cyc => Sys2Proof.Machine.execReduceScatter op cyc s
  | .allgather op cyc => Sys2Proof.Machine.execAllgather op cyc s
  | .max op cyc => Sys2Proof.Machine.execMax op cyc s
  | .argmax op cyc => Sys2Proof.Machine.execArgmax op cyc s
  | .topk op cyc => Sys2Proof.Machine.execTopk op cyc s
  | .sample op cyc => Sys2Proof.Machine.execSample op cyc s
  | .alltoall op cyc => Sys2Proof.Machine.execAlltoall op cyc s
  | .barrier queue => Sys2Proof.Machine.execBarrier queue s
  | .fence queue => Sys2Proof.Machine.execFence queue s
  | .ledgerOpen op => Sys2Proof.Machine.execLedgerOpen op s
  | .ledgerAdd op cyc => Sys2Proof.Machine.execLedgerAdd op cyc s
  | .ledgerClose op cyc => Sys2Proof.Machine.execLedgerClose op cyc s
  | .save op cyc => Sys2Proof.Machine.execSave op cyc s
  | .restore op cyc => Sys2Proof.Machine.execRestore op cyc s
  | .ledgerClaim op => Sys2Proof.Machine.execLedgerClaim op s
  | .waitListClaim ledger => Sys2Proof.Machine.execWaitListClaim ledger s
  | .pageGrant op => Sys2Proof.Machine.execPageGrant op s
  | .upPhaseOpen op plane => Sys2Proof.Machine.execUpPhaseOpen op plane s
  | .upPhaseClose op plane => Sys2Proof.Machine.execUpPhaseClose op plane s
  | .egress op cyc => Sys2Proof.Machine.execEgress op cyc s
  | .almanacCompare op => Sys2Proof.Machine.execAlmanacCompare op s
  | .recallOp op cyc => Sys2Proof.Machine.execRecallOp op cyc s
  | .reEmission op cyc => Sys2Proof.Machine.execReEmission op cyc s
  | .chunkRelease op stall chunk => Sys2Proof.Machine.execChunkRelease op stall chunk s
  | .seal op => Sys2Proof.Machine.execSeal op s
  | .descriptorFail op => Sys2Proof.Machine.execDescriptorFail op s
  | .completionRecordWrite id err => Sys2Proof.Machine.execCompletionRecordWrite id err s
  | .ringStepStart op reverse step cyc => Sys2Proof.Machine.execRingStepStart op reverse step cyc s
  | .ringChunkReceive port tag cyc => Sys2Proof.Machine.execRingChunkReceive port tag cyc s
  | .chunkForward port tag cyc => Sys2Proof.Machine.execChunkForward port tag cyc s
  | .ringStepEnd port tag => Sys2Proof.Machine.execRingStepEnd port tag s
  | .statisticsLap op cyc => Sys2Proof.Machine.execStatisticsLap op cyc s
  | .recallMsgReceive port cyc => Sys2Proof.Machine.execRecallMsgReceive port cyc s
  | .flitReceive port flit symErr cyc => Sys2Proof.Machine.execFlitReceive port flit symErr cyc s
  | .nakReceive port cyc => Sys2Proof.Machine.execNakReceive port cyc s
  | .replayTimeout port cyc => Sys2Proof.Machine.execReplayTimeout port cyc s
  | .flitTransmit port cyc => Sys2Proof.Machine.execFlitTransmit port cyc s
  | .heartbeatSend port cyc => Sys2Proof.Machine.execHeartbeatSend port cyc s
  | .nullSend port cyc => Sys2Proof.Machine.execNullSend port cyc s
  | .linkLost port lockFell cyc => Sys2Proof.Machine.execLinkLost port lockFell cyc s
  | .linkDown port code => Sys2Proof.Machine.execLinkDown port code s
  | .trainFlitReceive port info cyc => Sys2Proof.Machine.execTrainFlitReceive port info cyc s
  | .timeFrameReceive port reply stamp => Sys2Proof.Machine.execTimeFrameReceive port reply stamp s
  | .meridianCal agent => Sys2Proof.Machine.execMeridianCal agent s
  | .resync agent => Sys2Proof.Machine.execResync agent s
  | .merMarkPulse width offset => Sys2Proof.Machine.execMerMarkPulse width offset s
  | .timecodeFrame frame => Sys2Proof.Machine.execTimecodeFrame frame s
  | .meridianLock => Sys2Proof.Machine.execMeridianLock s
  | .markMissing => Sys2Proof.Machine.execMarkMissing s
  | .refLoss => Sys2Proof.Machine.execRefLoss s
  | .meridianLost => Sys2Proof.Machine.execMeridianLost s
  | .reacquire edge => Sys2Proof.Machine.execReacquire edge s
  | .slewComplete => Sys2Proof.Machine.execSlewComplete s
  | .inputDelayWrite agent value => Sys2Proof.Machine.execInputDelayWrite agent value s
  | .fenceInChange level => Sys2Proof.Machine.execFenceInChange level s
  | .throttleChange value => Sys2Proof.Machine.execThrottleChange value s
  | .bellExtHigh line => Sys2Proof.Machine.execBellExtHigh line s
  | .bellExtLow line => Sys2Proof.Machine.execBellExtLow line s
  | .fenceHigh => Sys2Proof.Machine.execFenceHigh s
  | .swapArm agent => Sys2Proof.Machine.execSwapArm agent s
  | .swapDisarm agent => Sys2Proof.Machine.execSwapDisarm agent s
  | .bankSwap => Sys2Proof.Machine.execBankSwap s
  | .ephemerisEntryWrite agent word value => Sys2Proof.Machine.execEphemerisEntryWrite agent word value s
  | .idleEnter => Sys2Proof.Machine.execIdleEnter s
  | .powerFenceWrite agent value => Sys2Proof.Machine.execPowerFenceWrite agent value s
  | .planePowerDown agent plane => Sys2Proof.Machine.execPlanePowerDown agent plane s
  | .planePowerUp agent plane => Sys2Proof.Machine.execPlanePowerUp agent plane s
  | .planeSelftestDone plane rows => Sys2Proof.Machine.execPlaneSelftestDone plane rows s
  | .softReset agent page => Sys2Proof.Machine.execSoftReset agent page s
  | .pageLock agent page => Sys2Proof.Machine.execPageLock agent page s
  | .restoreTrims agent => Sys2Proof.Machine.execRestoreTrims agent s
  | .errlogPop agent => Sys2Proof.Machine.execErrlogPop agent s
  | .errlogHeadRead agent => Sys2Proof.Machine.execErrlogHeadRead agent s
  | .loReadLatch agent addr => Sys2Proof.Machine.execLoReadLatch agent addr s
  | .readToClear agent addr => Sys2Proof.Machine.execReadToClear agent addr s
  | .faultDetect code source place => Sys2Proof.Machine.execFaultDetect code source place s
  | .containedReplay op code source => Sys2Proof.Machine.execContainedReplay op code source s
  | .ledgerFatal ledger code source => Sys2Proof.Machine.execLedgerFatal ledger code source s
  | .fabricFatal code source => Sys2Proof.Machine.execFabricFatal code source s
  | .watchdog op => Sys2Proof.Machine.execWatchdog op s
  | .binoMismatch point => Sys2Proof.Machine.execBinoMismatch point s
  | .binoStateCompare op differ => Sys2Proof.Machine.execBinoStateCompare op differ s
  | .lateMismatch ledger => Sys2Proof.Machine.execLateMismatch ledger s
  | .sideFault sideB code => Sys2Proof.Machine.execSideFault sideB code s
  | .takeover agent => Sys2Proof.Machine.execTakeover agent s
  | .repair agent => Sys2Proof.Machine.execRepair agent s
  | .repairWithdraw agent => Sys2Proof.Machine.execRepairWithdraw agent s
  | .ownerClaim port master nonce => Sys2Proof.Machine.execOwnerClaim port master nonce s
  | .ownerOffer agent value => Sys2Proof.Machine.execOwnerOffer agent value s
  | .ownerAccept port master nonce => Sys2Proof.Machine.execOwnerAccept port master nonce s
  | .offerLapse => Sys2Proof.Machine.execOfferLapse s
  | .ownerHeartbeat agent window => Sys2Proof.Machine.execOwnerHeartbeat agent window s
  | .ownerVacant => Sys2Proof.Machine.execOwnerVacant s
  | .nonownerWrite port master addr value => Sys2Proof.Machine.execNonownerWrite port master addr value s
  | .mailboxWrite port master value => Sys2Proof.Machine.execMailboxWrite port master value s
  | .mailboxRead agent port => Sys2Proof.Machine.execMailboxRead agent port s
  | .stewardKick agent => Sys2Proof.Machine.execStewardKick agent s
  | .stewardWatchdog => Sys2Proof.Machine.execStewardWatchdog s
  | .stewardRestart agent => Sys2Proof.Machine.execStewardRestart agent s
  | .stewardGuard action => Sys2Proof.Machine.execStewardGuard action s
  | .queueEnable agent value => Sys2Proof.Machine.execQueueEnable agent value s
  | .queueDisable agent => Sys2Proof.Machine.execQueueDisable agent s
  | .queueResume agent => Sys2Proof.Machine.execQueueResume agent s
  | .queueCfgWrite agent offset value => Sys2Proof.Machine.execQueueCfgWrite agent offset value s
  | .maskDataWrite agent value => Sys2Proof.Machine.execMaskDataWrite agent value s
  | .ledgerRelease agent => Sys2Proof.Machine.execLedgerRelease agent s
  | .retrain agent port => Sys2Proof.Machine.execRetrain agent port s
  | .linkTraining port locked phyStat cyc => Sys2Proof.Machine.execLinkTraining port locked phyStat cyc s
  | .ringCreditWrite agent port offset value => Sys2Proof.Machine.execRingCreditWrite agent port offset value s
  | .unfence agent => Sys2Proof.Machine.execUnfence agent s
  | .topologyWrite agent offset value => Sys2Proof.Machine.execTopologyWrite agent offset value s
  | .groupCfgWrite agent value => Sys2Proof.Machine.execGroupCfgWrite agent value s
  | .lineCfgWrite agent value => Sys2Proof.Machine.execLineCfgWrite agent value s
  | .lineMembersWrite agent value => Sys2Proof.Machine.execLineMembersWrite agent value s
  | .musterCtrlWrite agent value => Sys2Proof.Machine.execMusterCtrlWrite agent value s
  | .thresholdWrite agent offset value => Sys2Proof.Machine.execThresholdWrite agent offset value s
  | .assayPolicyWrite agent offset value => Sys2Proof.Machine.execAssayPolicyWrite agent offset value s
  | .spillPoolWrite agent plane offset value => Sys2Proof.Machine.execSpillPoolWrite agent plane offset value s
  | .perfClear agent => Sys2Proof.Machine.execPerfClear agent s
  | .injectArm agent value => Sys2Proof.Machine.execInjectArm agent value s
  | .injectFire op => Sys2Proof.Machine.execInjectFire op s
  | .mgmtErrorResponse port master write addr value => Sys2Proof.Machine.execMgmtErrorResponse port master write addr value s
  | .registerWrite agent addr value => Sys2Proof.Machine.execRegisterWrite agent addr value s
  | .merRefReturn => Sys2Proof.Machine.execMerRefReturn s
  | .glitchRemoved glitch => Sys2Proof.Machine.execGlitchRemoved glitch s

end Sys2Proof.Machine
end

