-- ==== Sys2Proof/Safety.lean ====
section
/-! DEFINITION. The words that claims about the block are written in: which pieces of state a command leaves alone, when an access is admitted, when a command is in its turn, and what every reachable state keeps. -/

namespace Sys2Proof.Machine

/-! ### Frames -/

/-- The pieces of state that a claim can name. `reached` is how far the order of the current transit has come, `held` the events held for the next transit, `due` what is due in this one and `found` what it has found; `clock` is the rest of the pins and clocks. -/
inductive Part where
  | build | reached | held | due | found | clock | regs | hiLatch | setNow
  | trims | ephemeris | masks | profiles | musters | lineMembers | almanac | tallies
  | mer | owner | steward | boot | log | mem | memLate | lines | verdicts | links | groups | queues | orders | ledgers
  | ops | late | pageWait | stalls | planes | assayWin | counts | injected | out | pending
  deriving DecidableEq, Repr

/-- The piece of state is the same in both. -/
def Part.same (p : Part) (s t : State) : Prop :=
  match p with
  | .build => t.build = s.build
  | .reached => t.clock.reached = s.clock.reached
  | .held => t.clock.held = s.clock.held
  | .due => t.clock.due = s.clock.due
  | .found => t.clock.found = s.clock.found
  | .clock => { t.clock with reached := s.clock.reached, held := s.clock.held, due := s.clock.due, found := s.clock.found } = s.clock
  | .regs => t.regs = s.regs
  | .hiLatch => t.hiLatch = s.hiLatch
  | .setNow => t.setNow = s.setNow
  | .trims => t.tabs.trims = s.tabs.trims
  | .ephemeris => t.tabs.ephemeris = s.tabs.ephemeris
  | .masks => t.tabs.masks = s.tabs.masks
  | .profiles => t.tabs.profiles = s.tabs.profiles
  | .musters => t.tabs.musters = s.tabs.musters
  | .lineMembers => t.tabs.lineMembers = s.tabs.lineMembers
  | .almanac => t.tabs.almanac = s.tabs.almanac
  | .tallies => t.tabs.tallies = s.tabs.tallies
  | .mer => t.mer = s.mer
  | .owner => t.owner = s.owner
  | .steward => t.steward = s.steward
  | .boot => t.boot = s.boot
  | .log => t.log = s.log
  | .mem => t.mem = s.mem
  | .memLate => t.memLate = s.memLate
  | .lines => t.lines = s.lines
  | .verdicts => t.verdicts = s.verdicts
  | .links => t.links = s.links
  | .groups => t.groups = s.groups
  | .queues => t.queues = s.queues
  | .orders => t.orders = s.orders
  | .ledgers => t.ledgers = s.ledgers
  | .ops => t.ops = s.ops
  | .late => t.late = s.late
  | .pageWait => t.pageWait = s.pageWait
  | .stalls => t.stalls = s.stalls
  | .planes => t.planes = s.planes
  | .assayWin => t.assayWin = s.assayWin
  | .counts => t.counts = s.counts
  | .injected => t.injected = s.injected
  | .out => t.out = s.out
  | .pending => t.pending = s.pending

/-- Only the named pieces of state may differ. -/
def OnlyChanges (ps : List Part) (s t : State) : Prop := ∀ p : Part, p ∉ ps → p.same s t

/-- Every register but those named reads as before. -/
def RegsKeep (but : List Nat) (s t : State) : Prop := ∀ a, a ∉ but → reg a t = reg a s

/-- Every tally but the named one reads as before. -/
def TalliesKeep (stall i : Nat) (s t : State) : Prop := ∀ n j, j < 64 → (n, j) ≠ (stall, i) → tally n j t = tally n j s

/-! ### Turns and admission -/

/-- The command runs and leaves a state of which the claim holds. -/
def Answers (c : Instr) (s : State) (P : State → Prop) : Prop := ∃ t, exec c s = .next t ∧ P t

/-- A write or read of the block's owner that is admitted: its management port exists and serves, no earlier request of that port waits, it owns the block, no fabric-fatal fault has ended service, and the command's turn has not passed (R61, R63, R216, R351). -/
def OwnerTurn (port master : Nat) (c : Instr) (s : State) : Prop :=
  port < s.build.mgmtPorts ∧ mgmtServes s = true ∧ requestsAt port s = [] ∧ s.clock.fabFault = false ∧ isOwner (.mgmt port master) s = true ∧ applies c s = true

/-- The management port has answered without error, and with this word. -/
def Answered (port master : Nat) (v : Word) (s t : State) : Prop := t.out = s.out ++ [.mgmtRsp port master v false]

/-- The tally port has acknowledged with this value and status (R38). -/
def Acked (stall : Nat) (v : Word) (stat : Nat) (s t : State) : Prop := t.out = s.out ++ [.tlyAck stall v stat]

/-- Every stall but the named one is as before. -/
def StallsKeep (stall : Nat) (s t : State) : Prop := ∀ n, n ≠ stall → stallAt n t = stallAt n s

/-- The error log takes one entry of this code, class and source, with the transit number (R335); it has room for it. -/
def Logged (code cls : Nat) (src : BitVec 16) (s t : State) : Prop :=
  ∃ e, t.log.entries = s.log.entries ++ [e] ∧ e.code = BitVec.ofNat 8 code ∧ e.cls = cls ∧ e.source = src
    ∧ e.transit = s.clock.transit.extractLsb' 0 48

/-- One thing more has been found, which takes effect in class 2 of the next transit (R215, R217). -/
def Found (d : Due) (s t : State) : Prop := t.clock.found = holdInsert (duePlace d) d s.clock.found

/-- The log has room for entries of every class: fewer than 31 of its 32 stand in it (R337). -/
def LogRoom (s : State) : Prop := s.log.entries.length < 31

/-! ### What every step keeps -/

/-- The stored registers in canonical form: addresses rising, none at the value that its register resets to. -/
def regsWf (t : Table Word) : Bool := tableWfBy regReset t

/-- The tables that software writes word by word are in canonical form. -/
def Tabs.wf (t : Tabs) : Bool :=
  tableWf 0#32 t.trims && tableWf 0#32 t.ephemeris && tableWf 0#32 t.masks && tableWf 0#32 t.profiles && tableWf 0#32 t.musters
    && tableWf 0#32 t.lineMembers && tableWf 0#32 t.almanac && tableWf 0#32 t.tallies

/-- The queues in canonical form, and no reserved bit in a CFG (R436). -/
def queuesWf (t : Table QueueSt) : Bool := tableWf QueueSt.idle t && t.all fun p => p.2.cfg &&& 0x00FF1F7F#32 == p.2.cfg

/-- The tables of the state are in canonical form, so that equal contents are equal data. -/
def State.tablesWf (s : State) : Bool :=
  regsWf s.regs && tableWf none s.hiLatch && tableWf 0#32 s.setNow && tableWf 0 s.counts && s.tabs.wf
    && tableWf Line.idle s.lines && tableWf Verdict.idle s.verdicts && tableWf Link.down s.links && tableWf GroupDef.clear s.groups
    && tableWf none s.owner.claims && tableWf [] s.owner.mailbox && tableWf 0 s.owner.mailOver && tableWf [] s.owner.requests
    && tableWf 0 s.log.ledgerChains && tableWf 0 s.log.sourceChains && tableWf 0 s.log.sealedAt
    && queuesWf s.queues && tableWf Ledger.free s.ledgers && tableWf StallSt.quiet s.stalls && tableWf PlaneSt.on s.planes

def Leg.tablesWf (g : Leg) : Bool := tableWf 0 g.got && tableWf 0#64 g.region && tableWf [] g.stats && tableWf [] g.images && tableWf 0 g.beatsOut
def Op.tablesWf (o : Op) : Bool :=
  tableWf TileProg.fresh o.prog && tableWf none o.beats && tableWf 0 o.summed && tableWf 0 o.passed && tableWf none o.limbs && tableWf none o.fresh && tableWf 0#64 o.folded
    && tableWf 0#64 o.blocks0 && (match o.leg with | none => true | some g => g.tablesWf)
def Ledger.tablesWf (l : Ledger) : Bool := tableWf 0#64 l.acc && tableWf 0#64 l.blocks && tableWf PageSt.resident l.pages

/-- Weigh-house levels of a tree: log4 of the leaves, rounded up (R5). -/
def Build.levels (b : Build) : Nat := (b.log2Leaves + 1) / 2

/-- The build parameters lie in the ranges that R5 gives them: a tree of 16 to 1,024 leaves, fewer seams than its exchange levels, one to eight planes, a page's worth of ports at most. -/
def Build.wf (b : Build) : Bool :=
  decide (4 ≤ b.log2Leaves ∧ b.log2Leaves ≤ 10) && [1, 2, 4, 8].contains b.planes && decide (b.ringPorts ≤ 8) && decide (1 ≤ b.chUnits ∧ b.chUnits ≤ 16)
    && decide (b.seams ≤ 3 ∧ b.seams < b.levels) && decide (1 ≤ b.mgmtPorts ∧ b.mgmtPorts ≤ 4)

/-- The build is one that R5 allows, and every table of the state is in canonical form, those within operations, ledgers, links and planes too. -/
def State.allWf (s : State) : Bool :=
  s.build.wf && s.tablesWf && s.ops.all Op.tablesWf && s.ledgers.all (fun x => x.2.tablesWf) && s.links.all (fun x => tableWf none x.2.streams)
    && s.planes.all fun x => tableWf 0 x.2.nextChild

end Sys2Proof.Machine
end

