-- ==== Sys2Proof/WellFormed.lean ====
section
/-! DEFINITION. The operands a command may carry in any build: every number within the range of what it names (R5, R8, R61, R62, R237, R309, R394, R433). -/

namespace Sys2Proof

def lt (a b : Nat) : Bool := decide (a < b)

/-- Four management ports at most, masters of eight bits (R5, R62). -/
def agentWf (a : Agent) : Bool :=
  match a with
  | .mgmt port master => lt port 4 && lt master 256
  | .steward => true

/-- A queue and a slot of its ring, 16 bits each (R237, R244). -/
def opIdWf (o : OpId) : Bool := lt o.queue 65536 && lt o.slot 65536

/-- SRAM rows: a macro and a row of twelve bits each (R360, R362). -/
def rowsWf (rows : List (Nat × Nat)) : Bool := rows.all fun r => lt r.1 4096 && lt r.2 4096

/-- The trim set has 1,024 words (R360). -/
def bootWf (b : BootInput) : Bool := b.trims.length == 1024 && rowsWf b.testRows

def placeWf (p : FaultPlace) : Bool :=
  match p with
  | .fabric | .ledgerPage _ => true
  | .opPage o | .opPiece o => opIdWf o
  | .seamBeat plane o => lt plane 8 && opIdWf o

def pointWf (p : BinoPoint) : Bool :=
  match p with
  | .downChunk o | .memWrite o _ => opIdWf o
  | .ringFlit o port => opIdWf o && lt port 8

/-- A port of the block, an address of the memory space in sectors (R44, R378). -/
def actionWf (a : StewardAction) : Bool :=
  match a with
  | .transmit port vc => lt port 8 && lt vc 4
  | .memRequest addr sectors => addr % 32 == 0 && lt 0 sectors
  | .write _ _ | .diagRead _ | .forceCondition => true

/-- Up to eight coordinates, an axis, a port and the credits of the four channels (R303). -/
def trainWf (t : TrainInfo) : Bool := lt t.port 8 && lt t.axis 8 && lt t.coords.length 9 && t.credits.length == 4

def inputWf (g : GlitchInput) : Bool :=
  match g with
  | .bellExt line => lt line 4
  | .fenceIn | .throttle => true

/-- A register's offset in its page: a word of 4,096 bytes (R61, R387). -/
def offsetWf (o : Nat) : Bool := lt o 0x1000 && o % 4 == 0

/-- Every operand lies in the range of what it names. -/
def Instr.wf (c : Instr) : Bool :=
  match c with
  | .resetAssert => true
  | .startup boot => bootWf boot
  | .imageTimeout => true
  | .lockTimeout => true
  | .trainTimeout => true
  | .ownerElection => true
  | .transitBoundary cycles _ => lt 0 cycles
  | .upBeat stall plane _ _ _ _ _ _ => lt stall 1024 && lt plane 8
  | .treeSumArrive op _ _ _ => opIdWf op
  | .tallyAdd stall _ _ => lt stall 1024
  | .tallySub stall _ _ => lt stall 1024
  | .tallyWait stall _ _ => lt stall 1024
  | .tallyTake stall _ _ => lt stall 1024
  | .tallyRead stall _ => lt stall 1024
  | .tallyBadIndex stall _ _ => lt stall 1024
  | .tallyRetest stall => lt stall 1024
  | .tlyCancel stall => lt stall 1024
  | .tallyWindowSet agent stall tally _ => agentWf agent && lt stall 1024 && lt tally 64
  | .tallyWindowAdd agent stall tally _ => agentWf agent && lt stall 1024 && lt tally 64
  | .tallyWindowSub agent stall tally _ => agentWf agent && lt stall 1024 && lt tally 64
  | .tallyWindowRead agent stall tally => agentWf agent && lt stall 1024 && lt tally 64
  | .bellOutChange stall line _ => lt stall 1024 && lt line 16
  | .bellExtSenseChange line _ => lt line 4
  | .bellRing line => lt line 16
  | .boardHoldExpire line => lt line 16
  | .bellRearm line => lt line 16
  | .bellMsgReceive port _ => lt port 8
  | .verdictMsgReceive port _ => lt port 8
  | .verdictPass tgroup _ => lt tgroup 256
  | .verdictRing tgroup _ => lt tgroup 256
  | .sigSend agent => agentWf agent
  | .remoteAddReceive port _ => lt port 8
  | .remoteAddApply port => lt port 8
  | .memReadData _ _ _ _ _ _ => true
  | .memWriteResponse _ _ => true
  | .memTimeout _ _ => true
  | .descriptorFetch queue _ => lt queue 65536
  | .descriptorDecode queue slot => lt queue 65536 && lt slot 65536
  | .doorbell agent queue _ => agentWf agent && lt queue 65536
  | .standingPin agent queue _ => agentWf agent && lt queue 65536
  | .standingUnpin agent queue => agentWf agent && lt queue 65536
  | .standingRun queue slot => lt queue 65536 && lt slot 65536
  | .descriptorStart queue => lt queue 65536
  | .reduce op _ => opIdWf op
  | .broadcast op _ => opIdWf op
  | .allreduce op _ => opIdWf op
  | .reduceScatter op _ => opIdWf op
  | .allgather op _ => opIdWf op
  | .max op _ => opIdWf op
  | .argmax op _ => opIdWf op
  | .topk op _ => opIdWf op
  | .sample op _ => opIdWf op
  | .alltoall op _ => opIdWf op
  | .barrier queue => lt queue 65536
  | .fence queue => lt queue 65536
  | .ledgerOpen op => opIdWf op
  | .ledgerAdd op _ => opIdWf op
  | .ledgerClose op _ => opIdWf op
  | .save op _ => opIdWf op
  | .restore op _ => opIdWf op
  | .ledgerClaim op => opIdWf op
  | .waitListClaim _ => true
  | .pageGrant op => opIdWf op
  | .upPhaseOpen op plane => opIdWf op && lt plane 8
  | .upPhaseClose op plane => opIdWf op && lt plane 8
  | .egress op _ => opIdWf op
  | .almanacCompare op => opIdWf op
  | .recallOp op _ => opIdWf op
  | .reEmission op _ => opIdWf op
  | .chunkRelease op stall _ => opIdWf op && lt stall 1024
  | .seal op => opIdWf op
  | .descriptorFail op => opIdWf op
  | .completionRecordWrite _ _ => true
  | .ringStepStart op _ _ _ => opIdWf op
  | .ringChunkReceive port _ _ => lt port 8
  | .chunkForward port _ _ => lt port 8
  | .ringStepEnd port _ => lt port 8
  | .statisticsLap op _ => opIdWf op
  | .recallMsgReceive port _ => lt port 8
  | .flitReceive port _ _ _ => lt port 8
  | .nakReceive port _ => lt port 8
  | .replayTimeout port _ => lt port 8
  | .flitTransmit port _ => lt port 8
  | .heartbeatSend port _ => lt port 8
  | .nullSend port _ => lt port 8
  | .linkLost port _ _ => lt port 8
  | .linkDown port _ => lt port 8
  | .trainFlitReceive port info _ => lt port 8 && trainWf info
  | .timeFrameReceive port _ _ => lt port 8
  | .meridianCal agent => agentWf agent
  | .resync agent => agentWf agent
  | .merMarkPulse _ _ => true
  | .timecodeFrame _ => true
  | .meridianLock => true
  | .markMissing => true
  | .refLoss => true
  | .meridianLost => true
  | .reacquire _ => true
  | .slewComplete => true
  | .inputDelayWrite agent _ => agentWf agent
  | .fenceInChange _ => true
  | .throttleChange _ => true
  | .bellExtHigh line => lt line 4
  | .bellExtLow line => lt line 4
  | .fenceHigh => true
  | .swapArm agent => agentWf agent
  | .swapDisarm agent => agentWf agent
  | .bankSwap => true
  | .ephemerisEntryWrite agent word _ => agentWf agent && lt word 4
  | .idleEnter => true
  | .powerFenceWrite agent _ => agentWf agent
  | .planePowerDown agent plane => agentWf agent && lt plane 8
  | .planePowerUp agent plane => agentWf agent && lt plane 8
  | .planeSelftestDone plane rows => lt plane 8 && rowsWf rows
  | .softReset agent page => agentWf agent && lt page 256
  | .pageLock agent page => agentWf agent && lt page 256
  | .restoreTrims agent => agentWf agent
  | .errlogPop agent => agentWf agent
  | .errlogHeadRead agent => agentWf agent
  | .loReadLatch agent _ => agentWf agent
  | .readToClear agent _ => agentWf agent
  | .faultDetect _ _ place => placeWf place
  | .containedReplay op _ _ => opIdWf op
  | .ledgerFatal _ _ _ => true
  | .fabricFatal _ _ => true
  | .watchdog op => opIdWf op
  | .binoMismatch point => pointWf point
  | .binoStateCompare op _ => opIdWf op
  | .lateMismatch _ => true
  | .sideFault _ _ => true
  | .takeover agent => agentWf agent
  | .repair agent => agentWf agent
  | .repairWithdraw agent => agentWf agent
  | .ownerClaim port master _ => lt port 4 && lt master 256
  | .ownerOffer agent _ => agentWf agent
  | .ownerAccept port master _ => lt port 4 && lt master 256
  | .offerLapse => true
  | .ownerHeartbeat agent _ => agentWf agent
  | .ownerVacant => true
  | .nonownerWrite port master _ _ => lt port 4 && lt master 256
  | .mailboxWrite port master _ => lt port 4 && lt master 256
  | .mailboxRead agent port => agentWf agent && lt port 4
  | .stewardKick agent => agentWf agent
  | .stewardWatchdog => true
  | .stewardRestart agent => agentWf agent
  | .stewardGuard action => actionWf action
  | .queueEnable agent _ => agentWf agent
  | .queueDisable agent => agentWf agent
  | .queueResume agent => agentWf agent
  | .queueCfgWrite agent offset _ => agentWf agent && offsetWf offset
  | .maskDataWrite agent _ => agentWf agent
  | .ledgerRelease agent => agentWf agent
  | .retrain agent port => agentWf agent && lt port 8
  | .linkTraining port _ _ _ => lt port 8
  | .ringCreditWrite agent port offset _ => agentWf agent && lt port 8 && offsetWf offset
  | .unfence agent => agentWf agent
  | .topologyWrite agent offset _ => agentWf agent && offsetWf offset
  | .groupCfgWrite agent _ => agentWf agent
  | .lineCfgWrite agent _ => agentWf agent
  | .lineMembersWrite agent _ => agentWf agent
  | .musterCtrlWrite agent _ => agentWf agent
  | .thresholdWrite agent offset _ => agentWf agent && offsetWf offset
  | .assayPolicyWrite agent offset _ => agentWf agent && offsetWf offset
  | .spillPoolWrite agent plane offset _ => agentWf agent && lt plane 8 && offsetWf offset
  | .perfClear agent => agentWf agent
  | .injectArm agent _ => agentWf agent
  | .injectFire op => op.all opIdWf
  | .mgmtErrorResponse port master _ _ _ => lt port 4 && lt master 256
  | .registerWrite agent _ _ => agentWf agent
  | .merRefReturn => true
  | .glitchRemoved g => inputWf g.input
end Sys2Proof
end

