-- ==== Sys2Proof/Certificates/Slice0/Obligations.lean ====
section
/-! DEFINITION. The statements about the block that the provers are asked for, by the chapters of spec/. -/

open Sys2Proof Sys2Proof.Machine

/-! ### The queue of commands, the order of a transit, reset -/

/-- A step runs the command at the front of the queue on the state with the queue's rest; an empty queue idles (the model's own form, log 4). -/
def Obligations.StepRunsFront : Prop :=
  (∀ (c : Instr) (rest : List Instr) (s : State), s.pending = c :: rest → step s = exec c { s with pending := rest })
    ∧ ∀ s : State, s.pending = [] → step s = .next s

/-- A level that the glitch filter keeps off an input (R219). -/
def Filtered (c : Instr) (s : State) : Bool :=
  match c with
  | .fenceInChange v | .bellExtSenseChange _ v => !filterPasses v.edges s
  | .throttleChange v => !filterPasses v.edges s
  | _ => false

/-- A command that R216 places, once the transit has passed its place, waits for the next transit among the held ones in the order of their places; of one input only its last level waits; a request waits at its management port after those before it; nothing else changes, unless its port does not exist (R59, R61, R217; the holding is the model's, log 3); in reset nothing waits (R70). What the filter keeps off changes nothing (R219). -/
def Claims.PassedPlaceHeld : Prop :=
  ∀ (c : Instr) (s : State) (p : Place), placeOf c s = some p → (∃ f, exec c s = .fault f) ∨
    ((Filtered c s = true → exec c s = .next s)
      ∧ (Filtered c s = false → s.clock.rstN = true → placeLe s.clock.reached p = false → (∀ x ∈ s.clock.due, placeLe x.1 p = false) → Answers c s fun t =>
        t.clock.held = holdInsert p c (s.clock.held.filter fun x => (inputOf c).isNone || inputOf x.2 != inputOf c)
          ∧ (requestOf c = none → t.owner = s.owner)
          ∧ (∀ port, requestOf c = some port → mgmtServes s = true → s.owner.answering = none → (requestsAt port s).length < 8 →
              requestsAt port t = requestsAt port s ++ [⟨some c, none⟩] ∧ ∀ q, q ≠ port → requestsAt q t = requestsAt q s)
          ∧ OnlyChanges [.held, .owner] s t))

/-- What a transit has found is due in the next one, and takes effect at its place before the first command that comes after it: here a log entry, before a command that itself does nothing (R215, R216, R217). -/
def Claims.FoundTakesEffect : Prop :=
  ∀ (n : Nat) (e : LogIn) (s : State), s.tablesWf = true → alive s = true → n < 16 → (lineAt n s).rangAt = none → LogRoom s →
    s.clock.due = [(duePlace (.entry e), .entry e)] → placeLe s.clock.reached ⟨3, [n, 2]⟩ = true → Answers (.bellRearm n) s fun t =>
      Logged e.code e.cls e.src s t ∧ t.clock.due = [] ∧ t.clock.reached = ⟨3, [n, 2]⟩ ∧ OnlyChanges [.reached, .due, .log, .regs, .setNow] s t

/-- Commands whose place has passed, and what the transit before has found. -/
def Obligations.PassedPlaceWaits : Prop := Claims.PassedPlaceHeld ∧ Claims.FoundTakesEffect

/-- The fault that names what a command asks for and the build does not have: a stall or plane, a ring port, a bell line, a mailbox's management port, a second side (R5, R8, R16, R26). -/
def lacking (c : Instr) (s : State) : Option Fault :=
  let need (b : Bool) (f : Fault) : Option Fault := if b then none else some f
  match c with
  | .tallyAdd n _ _ | .tallySub n _ _ | .tallyWait n _ _ | .tallyTake n _ _ | .tallyRead n _ | .tallyBadIndex n _ _ | .tallyRetest n | .tlyCancel n
  | .chunkRelease _ n _ => need (hasStall n s) .noSuchStallPort
  | .bellOutChange n line _ => if line < 16 then need (hasStall n s) .noSuchStallPort else some .noSuchBellLine
  | .upBeat n p _ _ _ _ _ _ => need (hasStall n s && hasPlane p s) .noSuchStallPort
  | .planeSelftestDone p _ => need (hasPlane p s) .noSuchStallPort
  | .planePowerDown _ p | .planePowerUp _ p | .spillPoolWrite _ p _ _ => need (decide (p < 8)) .noSuchStallPort
  | .bellRing n | .boardHoldExpire n | .bellRearm n => need (decide (n < 16)) .noSuchBellLine
  | .bellExtSenseChange n _ | .bellExtHigh n | .bellExtLow n => need (decide (n < 4)) .noSuchBellLine
  | .bellMsgReceive p _ | .verdictMsgReceive p _ | .remoteAddReceive p _ | .remoteAddApply p | .ringChunkReceive p _ _ | .chunkForward p _ _ | .ringStepEnd p _
  | .recallMsgReceive p _ | .flitReceive p _ _ _ | .nakReceive p _ | .replayTimeout p _ | .flitTransmit p _ | .heartbeatSend p _ | .nullSend p _ | .linkLost p _ _
  | .linkDown p _ | .trainFlitReceive p _ _ | .timeFrameReceive p _ _ | .linkTraining p _ _ _ => need (hasPort p s) .noSuchRingPort
  | .retrain _ p | .ringCreditWrite _ p _ _ => need (decide (p < 8)) .noSuchRingPort
  | .mailboxRead _ b => need (decide (b < 4)) .noSuchMgmtPort
  | .binoMismatch _ | .binoStateCompare _ _ | .lateMismatch _ | .sideFault _ _ => need s.build.paired .noSuchSide
  | _ => none

/-- The management port of a command's access, where the build lacks it. -/
def lacksAgent (c : Instr) (s : State) : Bool :=
  match agentOf c with
  | some (.mgmt p _) => decide (s.build.mgmtPorts ≤ p)
  | _ => false

/-- Commands of ports that the build lacks stop with the fault that says so, whatever else the state is, and no other command stops with a fault (R5, R26; log 11). -/
def Obligations.AbsentPortsFault : Prop :=
  ∀ (c : Instr) (s : State),
    (∀ f, lacking c s = some f → exec c s = .fault f)
      ∧ (lacking c s = none → lacksAgent c s = true → exec c s = .fault .noSuchMgmtPort)
      ∧ (lacking c s = none → lacksAgent c s = false → ∃ t, exec c s = .next t)

/-! ### Tallies (R38 to R42, R309 to R313) -/

/-- ADD, SUB and READ at the tally port of a stall with no request pending: the new value modulo 2^32, its acknowledgement with DONE, and nothing else. -/
def Claims.TallyAddSubRead : Prop :=
  ∀ (stall : Nat) (idx : BitVec 6) (a : Word) (s : State), s.tablesWf = true → hasStall stall s = true → tallyReady stall s = true → idx.toNat < 48 →
    (applies (.tallyAdd stall idx a) s = true → Answers (.tallyAdd stall idx a) s fun t =>
      tally stall idx.toNat t = tally stall idx.toNat s + a ∧ TalliesKeep stall idx.toNat s t
        ∧ Acked stall (tally stall idx.toNat s + a) 0 s t ∧ OnlyChanges [.reached, .tallies, .out] s t)
      ∧ (applies (.tallySub stall idx a) s = true → Answers (.tallySub stall idx a) s fun t =>
        tally stall idx.toNat t = tally stall idx.toNat s - a ∧ TalliesKeep stall idx.toNat s t
          ∧ Acked stall (tally stall idx.toNat s - a) 0 s t ∧ OnlyChanges [.reached, .tallies, .out] s t)
      ∧ (applies (.tallyRead stall idx) s = true → Answers (.tallyRead stall idx) s fun t =>
        Acked stall (tally stall idx.toNat s) 0 s t ∧ OnlyChanges [.reached, .out] s t)

/-- WAIT and TAKE at the tally port: satisfied where (v - N) mod 2^32 is below 2^31; a TAKE then leaves v - N, a WAIT leaves v; otherwise the request stays pending and nothing is acknowledged. -/
def Claims.TallyWaitTake : Prop :=
  ∀ (stall : Nat) (idx : BitVec 6) (n : Word) (s : State), s.tablesWf = true → hasStall stall s = true → tallyReady stall s = true → idx.toNat < 48 →
    let v := tally stall idx.toNat s
    (applies (.tallyWait stall idx n) s = true → Answers (.tallyWait stall idx n) s fun t =>
      (if (v - n).toNat < 2 ^ 31 then Acked stall v 0 s t ∧ (stallAt stall t).pend = none else t.out = s.out ∧ (stallAt stall t).pend = some ⟨false, idx.toNat, n⟩)
        ∧ StallsKeep stall s t ∧ OnlyChanges [.reached, .stalls, .out] s t)
      ∧ (applies (.tallyTake stall idx n) s = true → Answers (.tallyTake stall idx n) s fun t =>
        (if (v - n).toNat < 2 ^ 31 then Acked stall (v - n) 0 s t ∧ (stallAt stall t).pend = none ∧ tally stall idx.toNat t = v - n
         else t.out = s.out ∧ (stallAt stall t).pend = some ⟨true, idx.toNat, n⟩ ∧ tally stall idx.toNat t = v)
          ∧ TalliesKeep stall idx.toNat s t ∧ StallsKeep stall s t ∧ OnlyChanges [.reached, .stalls, .tallies, .out] s t)

/-- A pending WAIT or TAKE is tested again by the same test, and a cancel withdraws it only where its threshold is not reached: CANCELLED consumes nothing, DONE otherwise. -/
def Claims.TallyRetestCancel : Prop :=
  ∀ (stall : Nat) (p : Pend) (s : State), s.tablesWf = true → hasStall stall s = true → serving s = true → (stallAt stall s).pend = some p → p.idx < 48 →
    let v := tally stall p.idx s
    let met := decide ((v - p.arg).toNat < 2 ^ 31)
    let left := if met && p.take then v - p.arg else v
    (applies (.tallyRetest stall) s = true → Answers (.tallyRetest stall) s fun t =>
      (if met then Acked stall left 0 s t ∧ (stallAt stall t).pend = none else t.out = s.out ∧ (stallAt stall t).pend = some p)
        ∧ tally stall p.idx t = left ∧ TalliesKeep stall p.idx s t ∧ StallsKeep stall s t ∧ OnlyChanges [.reached, .stalls, .tallies, .out] s t)
      ∧ (applies (.tlyCancel stall) s = true → Answers (.tlyCancel stall) s fun t =>
        (if met then Acked stall left 0 s t else Acked stall v 1 s t) ∧ (stallAt stall t).pend = none
          ∧ tally stall p.idx t = left ∧ TalliesKeep stall p.idx s t ∧ StallsKeep stall s t ∧ OnlyChanges [.reached, .stalls, .tallies, .out] s t)

/-- WAIT, TAKE, the retest of a pending one and its cancel. -/
def Obligations.TallyWaits : Prop := Claims.TallyWaitTake ∧ Claims.TallyRetestCancel

/-- An index of 48 or above or a reserved operation completes with BAD_INDEX: nothing is applied, the completion is counted and interrupts. -/
def Claims.TallyBadIndex : Prop :=
  ∀ (stall : Nat) (op : BitVec 3) (idx : BitVec 6) (s : State), s.tablesWf = true → hasStall stall s = true → tallyReady stall s = true → 48 ≤ idx.toNat ∨ 5 ≤ op.toNat →
    applies (.tallyBadIndex stall op idx) s = true → Answers (.tallyBadIndex stall op idx) s fun t =>
      Acked stall 0#32 2 s t ∧ (stallAt stall t).badIndex = satAdd (stallAt stall s).badIndex 1 ∧ (stallAt stall t).pend = none
        ∧ (reg (rIrqRaw pSTALL) t).getLsbD 0 = true ∧ RegsKeep [rIrqRaw pSTALL] s t ∧ StallsKeep stall s t
        ∧ OnlyChanges [.reached, .stalls, .regs, .setNow, .out] s t

/-- ADD, SUB, READ and what a bad index does at the tally port. -/
def Obligations.TallyOperations : Prop := Claims.TallyAddSubRead ∧ Claims.TallyBadIndex

/-- The tally window: SET, ADD and SUB of the owner change one tally, READ answers it, and a slot whose tally is 48 or above, or whose stall is LEAVES or above, ignores writes and reads 0 without an error response. -/
def Obligations.TallyWindow : Prop :=
  ∀ (port master stall i : Nat) (v : Word) (s : State), s.tablesWf = true → stall < 1024 → i < 64 →
    let a : Agent := .mgmt port master
    let ok := hasStall stall s && decide (i < 48)
    (OwnerTurn port master (.tallyWindowSet a stall i v) s → Answers (.tallyWindowSet a stall i v) s fun t =>
      tally stall i t = (if ok then v else tally stall i s) ∧ TalliesKeep stall i s t ∧ Answered port master 0#32 s t ∧ OnlyChanges [.reached, .tallies, .out] s t)
      ∧ (OwnerTurn port master (.tallyWindowAdd a stall i v) s → Answers (.tallyWindowAdd a stall i v) s fun t =>
        tally stall i t = (if ok then tally stall i s + v else tally stall i s) ∧ TalliesKeep stall i s t ∧ Answered port master 0#32 s t
          ∧ OnlyChanges [.reached, .tallies, .out] s t)
      ∧ (OwnerTurn port master (.tallyWindowSub a stall i v) s → Answers (.tallyWindowSub a stall i v) s fun t =>
        tally stall i t = (if ok then tally stall i s - v else tally stall i s) ∧ TalliesKeep stall i s t ∧ Answered port master 0#32 s t
          ∧ OnlyChanges [.reached, .tallies, .out] s t)
      ∧ (OwnerTurn port master (.tallyWindowRead a stall i) s → Answers (.tallyWindowRead a stall i) s fun t =>
        Answered port master (if ok then tally stall i s else 0#32) s t ∧ OnlyChanges [.reached, .out] s t)

/-! ### Bells, musters, remote ADDs (R314 to R330) -/

/-- A line that may ring: its generation rises by one with what was kept for it, its parts open again unarmed, RANG and the page interrupt are set, and no other line changes. -/
def Claims.BellRings : Prop :=
  ∀ (n : Nat) (s : State), s.tablesWf = true → n < 16 → serving s = true → canRing n s = true → applies (.bellRing n) s = true →
    Answers (.bellRing n) s fun t =>
      (lineAt n t).gen = (lineAt n s).gen + 1 ∧ (lineAt n t).armed = false ∧ (lineAt n t).ondie = false ∧ (lineAt n t).board = false
        ∧ (lineAt n t).chip = false ∧ (lineAt n t).cfg = (lineAt n s).cfg ∧ (lineAt n t).rangAt = some s.clock.transit
        ∧ (lineAt n t).maps = mergeKept ((lineAt n s).gen + 1).toNat (lineAt n s).kept [0, 0, 0, 0] ∧ (lXchip (lineAt n s).cfg = false → t.links = s.links)
        ∧ (∀ m, m ≠ n → lineAt m t = lineAt m s) ∧ (reg rRANG t).getLsbD n = true ∧ (reg (rIrqRaw pBELL) t).getLsbD 2 = true
        ∧ RegsKeep [rRANG, rIrqRaw pBELL] s t ∧ OnlyChanges [.reached, .lines, .links, .regs, .setNow, .tallies] s t

/-- An entry of the muster table that applies when a line rings (R328, R329). -/
def MusterHits (line e stall i : Nat) (s : State) : Prop :=
  bitOf (musterCtrl e s) 31 = true ∧ fieldOf (musterCtrl e s) 16 4 = line ∧ fieldOf (musterCtrl e s) 6 10 = stall ∧ fieldOf (musterCtrl e s) 0 6 = i

/-- The musters of a line that rings: the last valid entry that names a tally sets it to its VALUE, and a tally that no valid entry of the line names keeps its value. -/
def Claims.MusterSets : Prop :=
  ∀ (n stall i : Nat) (s : State), s.tablesWf = true → n < 16 → serving s = true → canRing n s = true → applies (.bellRing n) s = true → i < 64 →
    Answers (.bellRing n) s fun t =>
      (∀ e, MusterHits n e stall i s → (∀ e', e < e' → ¬ MusterHits n e' stall i s) → tally stall i t = musterValue e s)
        ∧ ((∀ e, ¬ MusterHits n e stall i s) → tally stall i t = tally stall i s)

/-- A ring and the musters of its line. -/
def Obligations.BellsAndMusters : Prop := Claims.BellRings ∧ Claims.MusterSets

/-- A sampled BELL_OUT: its bit takes the level, and other stalls are as before. What the samples of a transit complete, they complete at the line's place in class 3: there the on-die part of an armed line is complete exactly where it was or where every member samples high. -/
def Claims.BellOutSamples : Prop :=
  (∀ (stall n : Nat) (level : Bool) (s : State), s.tablesWf = true → n < 16 → hasStall stall s = true → serving s = true →
    applies (.bellOutChange stall n level) s = true → Answers (.bellOutChange stall n level) s fun t =>
      (∀ k, k < 16 → (stallAt stall t).bellOut.getLsbD k = if k = n then level else (stallAt stall s).bellOut.getLsbD k)
        ∧ StallsKeep stall s t ∧ OnlyChanges [.reached, .stalls] s t)
    ∧ ∀ (n : Nat) (s : State), s.tablesWf = true → n < 16 → alive s = true → s.clock.due = [(duePlace (.line n), .line n)] → placeLe s.clock.reached ⟨3, [n, 2]⟩ = true →
      (lineAt n s).armed = true → (lineAt n s).recover = none → Answers (.bellRearm n) s fun t =>
        (lineAt n t).ondie = ((lineAt n s).ondie || (lEnable (lineAt n s).cfg && (lineMembers n s).all fun m => (stallAt m s).bellOut.getLsbD n))
          ∧ (∀ m, m ≠ n → lineAt m t = lineAt m s) ∧ t.clock.due = [] ∧ OnlyChanges [.reached, .due, .lines, .links] s t

/-- The board part and the pull of a line: a level of the board line that the filter passes is its sample, one that it does not pass is none; the board part is complete at the line's place once it has sampled low and then high since the line was armed; the pull returns BOARD_HOLD transits after the ring, and the line is armed again when its members' BELL_IN have fallen. -/
def Claims.BoardAndRearm : Prop :=
  ∀ (n : Nat) (s : State), s.tablesWf = true →
    (∀ level edges, n < 4 → alive s = true → (regNat rGLITCH_CYCLES s ≤ edges → applies (.bellExtSenseChange n ⟨level, edges⟩) s = true →
        Answers (.bellExtSenseChange n ⟨level, edges⟩) s fun t =>
          (∀ k, k < 4 → t.clock.bellSense.getLsbD k = if k = n then level else s.clock.bellSense.getLsbD k) ∧ OnlyChanges [.reached, .clock] s t)
        ∧ (edges < regNat rGLITCH_CYCLES s → Answers (.bellExtSenseChange n ⟨level, edges⟩) s fun t => t = s))
      ∧ (n < 16 → alive s = true → s.clock.due = [(duePlace (.line n), .line n)] → placeLe s.clock.reached ⟨3, [n, 2]⟩ = true →
        (lineAt n s).armed = true → (lineAt n s).recover = none → lEnable (lineAt n s).cfg = true → lBoard (lineAt n s).cfg = true → Answers (.bellRearm n) s fun t =>
          (s.clock.bellSense.getLsbD (lBoardLine (lineAt n s).cfg) = false → (lineAt n t).boardLow = true ∧ (lineAt n t).board = (lineAt n s).board)
            ∧ (s.clock.bellSense.getLsbD (lBoardLine (lineAt n s).cfg) = true → (lineAt n s).boardLow = true → (lineAt n t).board = true))
      ∧ (∀ r : Word64, n < 16 → alive s = true → (lineAt n s).rangAt = some r → lBoard (lineAt n s).cfg = true
          → ((lineAt n s).ondie = true → s.clock.transit.toNat < r.toNat + regNat rBOARD_HOLD s + 2) → (lineAt n s).pull = false → r.toNat + regNat rBOARD_HOLD s ≤ s.clock.transit.toNat → applies (.boardHoldExpire n) s = true
          → Answers (.boardHoldExpire n) s fun t => lineAt n t = { lineAt n s with pull := true } ∧ (∀ m, m ≠ n → lineAt m t = lineAt m s)
            ∧ OnlyChanges [.reached, .lines] s t)
      ∧ ∀ r : Word64, n < 16 → alive s = true → (lineAt n s).rangAt = some r → lEnable (lineAt n s).cfg = true → (lineAt n s).armed = false
          → (∀ m ∈ lineMembers n s, (stallAt m s).bellIn.getLsbD n = false) → r.toNat + (if (lineMembers n s).isEmpty then 1 else 2) ≤ s.clock.transit.toNat
          → applies (.bellRearm n) s = true → Answers (.bellRearm n) s fun t =>
            (lineAt n t).armed = true ∧ (lineAt n t).gen = (lineAt n s).gen ∧ (∀ m, m ≠ n → lineAt m t = lineAt m s) ∧ OnlyChanges [.reached, .lines, .links] s t

/-- The on-die part, the board part, the pull and the re-arming of a line. -/
def Obligations.BellParts : Prop := Claims.BellOutSamples ∧ Claims.BoardAndRearm

/-- The oldest received CONTROL message of a type on a port, as it stands at the head of what the port has received of it. -/
def HeadMessage (port : Nat) (ty : Byte) (m : CtlMsg) (s : State) : Prop := ∃ rest, takeCtl ty (linkAt port s).rxCtl = some (m, rest)

/-- A BELL message for the current generation of an enabled line is merged into its phase's map; for the next generation, or of generation 0 for a line that is not enabled, it is kept; any other is counted stale. -/
def Claims.BellMessages : Prop :=
  ∀ (port cyc : Nat) (m : CtlMsg) (s : State), s.tablesWf = true → hasPort port s = true → HeadMessage port 0x02#8 m s → s.clock.due = [] →
    let n := bitsAt (m.payload.getD 1 0#8).toNat 0 4
    let gen := leNat (sliceB m.payload 2 2)
    let j := bitsAt (m.payload.getD 5 0#8).toNat 0 2
    let bits := leNat (sliceB m.payload 8 8)
    let l := lineAt n s
    Answers (.bellMsgReceive port cyc) s fun t =>
      OnlyChanges [.lines, .links, .regs, .setNow] s t ∧ (∀ k, k ≠ n → lineAt k t = lineAt k s)
        ∧ (lEnable l.cfg = true → gen = l.gen.toNat → j < l.maps.length →
            ∀ x, bits.testBit x = true ∨ (l.maps.getD j 0).testBit x = true → ((lineAt n t).maps.getD j 0).testBit x = true)
        ∧ (lEnable l.cfg = false → gen = 0 → (lineAt n t).kept = keepMsg ⟨0, j, bits⟩ l.kept ∧ reg rSTALE_MSG t = reg rSTALE_MSG s)
        ∧ (lEnable l.cfg = true → gen ≠ l.gen.toNat → gen = (l.gen + 1).toNat → (lineAt n t).kept = keepMsg ⟨gen, j, bits⟩ l.kept)
        ∧ ((lEnable l.cfg = false ∧ gen ≠ 0) ∨ (lEnable l.cfg = true ∧ gen ≠ l.gen.toNat ∧ gen ≠ (l.gen + 1).toNat) →
            reg rSTALE_MSG t = satAdd (reg rSTALE_MSG s) 1 ∧ (reg (rIrqRaw pBELL) t).getLsbD 4 = true ∧ t.lines = s.lines)

/-- A verdict: a VERDICT message of a leg's current attempt is merged, of the next attempt or for a leg not yet started kept, of any other attempt discarded; a passed verdict whose last map is full rings once, and the operation of its leg has from there its five cycles to the end (R255). -/
def Claims.VerdictMessagesAndRing : Prop :=
  (∀ (port cyc : Nat) (m : CtlMsg) (s : State), s.tablesWf = true → hasPort port s = true → HeadMessage port 0x03#8 m s → s.clock.due = [] →
    let tg := (m.payload.getD 1 0#8).toNat
    let seq : BitVec 16 := BitVec.ofNat 16 (leNat (sliceB m.payload 2 2))
    let j := bitsAt (m.payload.getD 5 0#8).toNat 0 2
    let att := (m.payload.getD 6 0#8).toNat
    let bits := leNat (sliceB m.payload 8 8)
    let v := verdictAt (verdictKey tg seq) s
    Answers (.verdictMsgReceive port cyc) s fun t =>
      OnlyChanges [.verdicts, .links, .ops] s t
        ∧ (legAttempt tg seq s = some att → j < v.maps.length →
            ∀ x, bits.testBit x = true ∨ (v.maps.getD j 0).testBit x = true → ((verdictAt (verdictKey tg seq) t).maps.getD j 0).testBit x = true)
        ∧ (∀ a, legAttempt tg seq s = some a → att ≠ a → att = (a + 1) % 256 →
            (verdictAt (verdictKey tg seq) t).kept = keepMsg ⟨att, j, bits⟩ v.kept ∧ (verdictAt (verdictKey tg seq) t).maps = v.maps)
        ∧ (∀ a, legAttempt tg seq s = some a → att ≠ a → att ≠ (a + 1) % 256 → t.verdicts = s.verdicts)
        ∧ (legAttempt tg seq s = none → (groupAt tg s).legSeq = seq → (verdictAt (verdictKey tg seq) t).kept = keepMsg ⟨att, j, bits⟩ v.kept))
    ∧ ∀ (tg : Nat) (seq : BitVec 16) (s : State), s.tablesWf = true → alive s = true → (verdictAt (verdictKey tg seq) s).passed = true →
      crossDone (groupAt tg s) (verdictAt (verdictKey tg seq) s).maps = true → applies (.verdictRing tg seq) s = true →
      Answers (.verdictRing tg seq) s fun t => (verdictAt (verdictKey tg seq) t).rung = true
        ∧ (∀ o g, (verdictAt (verdictKey tg seq) s).rung = false → opAt o.id s = some o → legOp tg seq s = some (o, g) → opAt o.id t = some { o with doneAt := s.clock.fclk } ∧ ∀ i, i ≠ o.id → opAt i t = opAt i s)
        ∧ (∀ k, k ≠ verdictKey tg seq → verdictAt k t = verdictAt k s) ∧ OnlyChanges [.reached, .verdicts, .ops] s t

/-- BELL and VERDICT messages, and the ring of a verdict. -/
def Obligations.CrossChipMessages : Prop := Claims.BellMessages ∧ Claims.VerdictMessagesAndRing

/-- SIG_SEND of the owner: refused where the port is absent or its link not UP, the tally is 48 or above, or 64 signals wait; otherwise one CONTROL flit with the message of R316 joins the named channel. -/
def Claims.SigSend : Prop :=
  ∀ (port master : Nat) (s : State), s.tablesWf = true → OwnerTurn port master (.sigSend (.mgmt port master)) s →
    let p := fieldOf (reg rSIG_PORT s) 0 3
    let vc := fieldOf (reg rSIG_VC s) 0 2
    let i := fieldOf (reg rSIG_TALLY s) 0 6
    let l := linkAt p s
    let bad := portAbsent p s || l.state != 2 || decide (48 ≤ i) || decide (64 ≤ sigWaiting p s)
    Answers (.sigSend (.mgmt port master)) s fun t => Answered port master 0#32 s t ∧
      (if bad then reg rSIG_REFUSED t = satAdd (reg rSIG_REFUSED s) 1 ∧ (reg (rIrqRaw pBELL) t).getLsbD 0 = true
          ∧ RegsKeep [rSIG_REFUSED, rIrqRaw pBELL] s t ∧ OnlyChanges [.reached, .regs, .setNow, .out] s t
       else (linkAt p t).txq = l.txq.set vc (l.txq.getD vc [] ++ [⟨2, 0, false, l.sigSerial + 1,
            sigPayload (fieldOf (reg rSIG_STALL s) 0 10) i (reg rSIG_AMOUNT s) (fieldOf (reg rSIG_FENCE s) 0 16)⟩])
          ∧ (∀ k, k ≠ p → linkAt k t = linkAt k s) ∧ OnlyChanges [.reached, .links, .out] s t)

/-- A remote ADD: accepted, it joins the end of its port's held ADDs with what it waits for and changes no tally; at its turn it adds its amount to its tally, or is discarded and counted where it names no tally of the build. -/
def Claims.RemoteAdds : Prop :=
  (∀ (port cyc : Nat) (m : CtlMsg) (s : State), s.tablesWf = true → hasPort port s = true → HeadMessage port 0x01#8 m s → s.clock.due = [] →
    Answers (.remoteAddReceive port cyc) s fun t =>
      (∃ h : HeldAdd, (linkAt port t).adds = (linkAt port s).adds ++ [h] ∧ h.ready = false ∧ h.waits = m.waits ∧ h.add.stall = leNat (sliceB m.payload 2 2)
          ∧ h.add.tally = (m.payload.getD 4 0#8).toNat ∧ h.add.amount = word32At m.payload 8)
        ∧ (∀ k, k ≠ port → linkAt k t = linkAt k s) ∧ OnlyChanges [.links] s t)
    ∧ ∀ (port : Nat) (a : HeldAdd) (rest : List HeldAdd) (s : State), s.tablesWf = true → hasPort port s = true → alive s = true →
      (linkAt port s).adds = a :: rest → a.ready = true → a.add.tally < 64 → applies (.remoteAddApply port) s = true →
      Answers (.remoteAddApply port) s fun t => linkAt port t = { linkAt port s with adds := rest } ∧ (∀ k, k ≠ port → linkAt k t = linkAt k s) ∧
        (if hasStall a.add.stall s = true ∧ a.add.tally < 48 then
          tally a.add.stall a.add.tally t = tally a.add.stall a.add.tally s + a.add.amount ∧ TalliesKeep a.add.stall a.add.tally s t
            ∧ OnlyChanges [.reached, .links, .tallies] s t
         else reg rREMOTE_BAD t = satAdd (reg rREMOTE_BAD s) 1 ∧ (reg (rIrqRaw pBELL) t).getLsbD 1 = true ∧ OnlyChanges [.reached, .links, .regs, .setNow] s t)

/-- Remote ADDs from SIG_SEND to their tally. -/
def Obligations.SignalsAcrossTheRing : Prop := Claims.SigSend ∧ Claims.RemoteAdds

/-! ### Reset and start-up (R69, R332, R359 to R372) -/

/-- RST_N clears everything: what stays is only what the model has beside the hardware (its build, the journal of the ports, the commands to come). -/
def Claims.ResetClears : Prop :=
  ∀ s : State, exec .resetAssert s = .next { State.resetOf s.build with out := s.out, pending := s.pending }

/-- The nine ASSAY settings stand as words 275 to 283 of a trim set give them, the thresholds clamped to their floors, STEP and WINDOW to their ranges, and no POLICY without a format (R199, R200, R360, R443). -/
def AssayTakes (w : Nat → Word) (t : State) : Prop :=
  (∀ k, k < 2 → reg (0x0B048 + 4 * k) t = w (277 + k) &&& 0x3FFF#32 ∧ regNat (0x0B040 + 4 * k) t = min ((w (275 + k)).toNat % 2 ^ 14) ((w (277 + k)).toNat % 2 ^ 14))
    ∧ reg rPOLICY t = (w 279 &&& 0x7F1#32) ||| (if fieldOf (w 279) 4 4 = 0 then 0x10#32 else 0#32) ∧ reg rTARGET t = w 280 &&& 0xFFFF#32 ∧ reg rBAND t = w 281 &&& 0xFFFF#32
    ∧ regNat rSTEP t = min 4096 (max 1 ((w 282).toNat % 2 ^ 13)) ∧ regNat rWINDOW t = min 6 ((w 283).toNat % 8)

/-- The calibrated registers stand at the values of R361. -/
def CalibrationDefaults (t : State) : Prop :=
  reg rINPUT_DELAY t = 0#32 ∧ (∀ n, n < t.build.ringPorts → n < 8 → reg64 (rPHY_CFG_LO n) t = 0#64)
    ∧ ∀ off, off ∈ [0x040, 0x044, 0x048, 0x04C, 0x050, 0x054, 0x058, 0x05C, 0x060] → reg (0x0B000 + off) t = regReset (0x0B000 + off)

/-- What the spec gives at reset, in every build: every tally 0, every ledger FREE, every line disabled and pulled low, no muster VALID, no signal waiting, every link DOWN, every queue IDLE, the log empty, the meridian FREE, no owner, nothing started, every register of the map at its reset value, and a paired build PAIRED. -/
def Claims.ResetValues : Prop :=
  ∀ b : Build, let r := State.resetOf b
    (∀ st i, tally st i r = 0#32) ∧ (∀ l, (ledgerAt l r).state = 0) ∧ (∀ n, lEnable (lineAt n r).cfg = false ∧ (lineAt n r).pull = true) ∧ (∀ n, boardPull n r = true)
      ∧ (∀ e, bitOf (musterCtrl e r) 31 = false) ∧ (∀ p, (linkAt p r).state = 0 ∧ sigWaiting p r = 0) ∧ (∀ q, (queueAt q r).state = 0 ∧ (queueAt q r).head = 0 ∧ (queueAt q r).tail = 0)
      ∧ r.log.entries = [] ∧ merState r = 0 ∧ r.owner.state = 0 ∧ r.ops = [] ∧ r.pending = []
      ∧ (∀ a x, a < stewardCopy → a ≠ rBINO_STATE → regRow a = some x → reg a r = x.reset) ∧ binoState r = (if b.paired then 1 else 0)
      ∧ reg rTRANSIT_SHIFT r = 2#32 ∧ reg rBOARD_HOLD r = 4#32 ∧ reg rHEARTBEAT_WINDOW r = 100#32

/-- What RST_N leaves. -/
def Obligations.ResetStates : Prop := Claims.ResetClears ∧ Claims.ResetValues

/-- Start-up reads the trim set once, word by word. Without a valid one the calibrated registers take the values of R361, configuration falls to the defaults with bits 0 and 1 of CONFIG.STATUS, and phase 5 follows at once; with one, and no faulty row, INPUT_DELAY, PHY_CFG and the nine ASSAY settings take their trims, and phase 4 waits for its image where CONFIG_SRC names a source (that 3 names none is the model's, log 12). The management ports serve. -/
def Claims.StartupWithoutTrims : Prop :=
  ∀ (b : BootInput) (s : State), s.tablesWf = true → s.clock.rstN = false → s.clock.fabFault = false → s.clock.due = [] → b.testRows = [] →
    (trimsGood b.trims = false → Answers (.startup b) s fun t => t.clock.rstN = true ∧ t.boot.trimsValid = false ∧ phaseOf t = 5 ∧ t.clock.phase = 5
      ∧ (reg rCFG_STATUS t).getLsbD 0 = true ∧ (reg rCFG_STATUS t).getLsbD 1 = true ∧ CalibrationDefaults t ∧ mgmtServes t = true ∧ t.out = s.out ++ (List.range 1024).map .trimRead)
      ∧ (trimsGood b.trims = true → (∀ i, i < 256 → bitOf (b.trims.getD (2 + i) 0#32) 31 = false) → Answers (.startup b) s fun t =>
        t.clock.rstN = true ∧ t.boot.trimsValid = true ∧ phaseOf t = (if fieldOf (b.trims.getD 284 0#32) 0 2 < 2 then 4 else 5) ∧ mgmtServes t = true
          ∧ (∀ w, w < 1024 → trimWord w t = b.trims.getD w 0#32) ∧ reg rINPUT_DELAY t = b.trims.getD 258 0#32 &&& 0xFFFF#32
          ∧ (∀ n, n < s.build.ringPorts → n < 8 → reg (rPHY_CFG_LO n) t = b.trims.getD (259 + 2 * n) 0#32 ∧ reg (rPHY_CFG_LO n + 4) t = b.trims.getD (260 + 2 * n) 0#32)
          ∧ AssayTakes (fun i => b.trims.getD i 0#32) t ∧ t.out = s.out ++ (List.range 1024).map .trimRead)

/-- The mapped ports whose link is not UP. -/
def portsDown (s : State) : List Nat := (List.range s.build.ringPorts).filter fun n => !portAbsent n s && (linkAt n s).state != 2

/-- The limits of the phases: without an image phase 4 falls to the defaults and phase 5 follows; without lock phase 6 gives way to training with 0x95, from no one place (log 22), in which a running steward retrains every mapped port that is DOWN; the ports that have not trained end phase 7 with one 0x96 each, and phase 8 follows all the same. -/
def Claims.PhaseTimeouts : Prop :=
  ∀ s : State, s.tablesWf = true → alive s = true →
    (phaseOf s = 4 → s.boot.applying = none → lasted (bootWord 290 s).toNat s.clock.phaseAt s = true → applies .imageTimeout s = true →
      Answers .imageTimeout s fun t => phaseOf t = 5 ∧ t.clock.phaseAt = s.clock.now ∧ (reg rCFG_STATUS t).getLsbD 0 = true ∧ (reg (rIrqRaw pCONFIG) t).getLsbD 1 = true
        ∧ t.boot.firmware = [] ∧ OnlyChanges [.reached, .clock, .boot, .regs, .setNow, .log] s t)
      ∧ (phaseOf s = 6 → lasted (regNat rLOCK_WAIT s) 0 s = true → LogRoom s → applies .lockTimeout s = true →
        Answers .lockTimeout s fun t => phaseOf t = 7 ∧ t.clock.phaseAt = s.clock.now ∧ Logged 0x95 0 0x0000#16 s t ∧ (stewardRuns s = false → t.links = s.links)
          ∧ (stewardRuns s = true → ∀ n, n < s.build.ringPorts → portAbsent n s = false → (linkAt n s).state = 0 → (linkAt n t).state = 1 ∧ (linkAt n t).phyEnable = true))
      ∧ (phaseOf s = 7 → lasted (regNat rTRAIN_WAIT s) s.clock.phaseAt s = true → s.log.entries.length + (portsDown s).length ≤ 31 → applies .trainTimeout s = true →
        Answers .trainTimeout s fun t => phaseOf t = 8 ∧ t.links = s.links
          ∧ (t.log.entries.drop s.log.entries.length).map (fun e => (e.code, e.source)) = (portsDown s).map (fun n => (0x96#8, source 2 n))
          ∧ t.log.entries.take s.log.entries.length = s.log.entries ∧ OnlyChanges [.reached, .clock, .regs, .setNow, .log] s t)

/-- The end of start-up: at the boundary after the election FAB_READY rises, and the MERIDIAN and CONFIG pages are locked. -/
def Claims.StartUpEnds : Prop :=
  ∀ (cycles ticks : Nat) (s : State), s.tablesWf = true → alive s = true → s.clock.readyNext = true → s.clock.held = [] → s.clock.due = [] → s.boot.applying = none →
    boundaryFits cycles ticks s = true → Answers (.transitBoundary cycles ticks) s fun t =>
      t.clock.fabReady = true ∧ t.clock.readyNext = false ∧ phaseOf t = 9 ∧ pageLocked pMERIDIAN t = true ∧ pageLocked pCONFIG t = true

/-- Start-up with and without trims, the limits of its phases, and its end. -/
def Obligations.StartUpPhases : Prop := Claims.StartupWithoutTrims ∧ Claims.PhaseTimeouts ∧ Claims.StartUpEnds

/-! ### Ownership (R62, R63, R373 to R377, R397 to R399) -/

/-- A claim: the first written while no owner exists is held with its master, nonce and transit; a later one, or one while the block is owned, changes no claim. Any master on the port may write it. -/
def Claims.OwnerClaims : Prop :=
  ∀ (port master : Nat) (nonce : BitVec 16) (s : State), s.tablesWf = true → port < 4 → port < s.build.mgmtPorts → mgmtServes s = true → requestsAt port s = [] →
    s.clock.fabFault = false → applies (.ownerClaim port master nonce) s = true →
    Answers (.ownerClaim port master nonce) s fun t =>
      claimAt port t = (if s.owner.state = 1 ∨ (claimAt port s).isSome then claimAt port s else some ⟨master, nonce, s.clock.transit⟩)
        ∧ (∀ q, q ≠ port → claimAt q t = claimAt q s) ∧ t.owner.role = s.owner.role ∧ t.owner.state = s.owner.state
        ∧ Answered port master 0#32 s t ∧ OnlyChanges [.reached, .owner, .out] s t

/-- The election: the held claim with the earliest transit wins, ties go to the lowest port; every claim is cleared; the roles of the transit are untouched until its end. -/
def Claims.ElectionEarliestClaim : Prop :=
  ∀ (p : Nat) (c : Claim) (s : State), s.tablesWf = true → alive s = true → s.owner.state ≠ 1 → phaseOf s = 8 ∨ s.owner.state = 2 →
    claimAt p s = some c → (∀ q d, claimAt q s = some d → c.transit.toNat ≤ d.transit.toNat ∧ (d.transit.toNat = c.transit.toNat → p ≤ q)) →
    applies .ownerElection s = true →
    Answers .ownerElection s fun t =>
      t.owner.state = 1 ∧ t.owner.port = p ∧ t.owner.master = c.master ∧ t.owner.nonce = c.nonce ∧ (∀ q, claimAt q t = none)
        ∧ t.owner.hbStart = s.clock.now ∧ t.owner.role = s.owner.role ∧ (reg (rIrqRaw pOWNER) t).getLsbD 1 = true
        ∧ (phaseOf s = 8 → t.clock.readyNext = true) ∧ RegsKeep [rIrqRaw pOWNER] s t ∧ OnlyChanges [.reached, .owner, .clock, .regs, .setNow] s t

/-- Claims and their election. -/
def Obligations.OwnershipClaims : Prop := Claims.OwnerClaims ∧ Claims.ElectionEarliestClaim

/-- Handover: the owner's offer is held with its window; an accept that matches a live offer ends the offer and passes ownership after the transit's accesses; any other is logged as 0xA2; an offer lapses with its window. -/
def Claims.OwnerHandover : Prop :=
  (∀ (port master : Nat) (v : Word) (s : State), s.tablesWf = true → OwnerTurn port master (.ownerOffer (.mgmt port master) v) s →
    Answers (.ownerOffer (.mgmt port master) v) s fun t => reg rOFFER t = v &&& 0x8000FF03#32 ∧ t.owner.offerStart = s.clock.now
      ∧ Answered port master 0#32 s t ∧ RegsKeep [rOFFER] s t ∧ OnlyChanges [.reached, .regs, .owner, .out] s t)
    ∧ (∀ (port master : Nat) (nonce : BitVec 16) (s : State), s.tablesWf = true → port < 4 → port < s.build.mgmtPorts → mgmtServes s = true → requestsAt port s = [] →
      s.clock.fabFault = false → applies (.ownerAccept port master nonce) s = true → LogRoom s →
      Answers (.ownerAccept port master nonce) s fun t => t.owner.state = s.owner.state ∧ t.owner.role = s.owner.role ∧ Answered port master 0#32 s t ∧
        (if s.owner.state = 1 ∧ offerMatches port master s = true then t.owner.next = some (port, master, nonce) ∧ (reg rOFFER t).getLsbD 31 = false
         else t.owner = s.owner ∧ Logged 0xA2 0 (mgmtSource port) s t))
    ∧ ∀ s : State, s.tablesWf = true → alive s = true → s.clock.due = [] → bitOf (reg rOFFER s) 31 = true → s.owner.offerStart + regNat rOFFER_WINDOW s * unitsMs ≤ s.clock.now →
      Answers .offerLapse s fun t => (reg rOFFER t).getLsbD 31 = false ∧ RegsKeep [rOFFER] s t ∧ OnlyChanges [.regs] s t

/-- The heartbeat: a write begins the window anew, a window write with its new length; a window that passes without one makes ownership vacant, with 0xA0, the interrupt, and no live offer. -/
def Claims.HeartbeatAndVacancy : Prop :=
  (∀ (port master : Nat) (w : Option Word) (s : State), s.tablesWf = true → OwnerTurn port master (.ownerHeartbeat (.mgmt port master) w) s →
    Answers (.ownerHeartbeat (.mgmt port master) w) s fun t => t.owner = { s.owner with hbStart := s.clock.now }
      ∧ reg rHEARTBEAT_WINDOW t = (match w with | none => reg rHEARTBEAT_WINDOW s | some v => v &&& 0xFFFF#32)
      ∧ Answered port master 0#32 s t ∧ RegsKeep [rHEARTBEAT_WINDOW] s t ∧ OnlyChanges [.reached, .owner, .regs, .out] s t)
    ∧ ∀ s : State, s.tablesWf = true → alive s = true → s.owner.state = 1 → regNat rHEARTBEAT_WINDOW s ≠ 0 →
      s.owner.hbStart + regNat rHEARTBEAT_WINDOW s * unitsMs ≤ s.clock.now → LogRoom s → applies .ownerVacant s = true →
      Answers .ownerVacant s fun t => t.owner.state = 2 ∧ t.owner.next = none ∧ t.owner.role = s.owner.role ∧ Logged 0xA0 0 (mgmtSource s.owner.port) s t
        ∧ (reg (rIrqRaw pOWNER) t).getLsbD 0 = true ∧ (reg rOFFER t).getLsbD 31 = false ∧ OnlyChanges [.reached, .owner, .regs, .setNow, .log] s t

/-- Offers, accepts, heartbeats and vacancy. -/
def Obligations.OwnershipPasses : Prop := Claims.OwnerHandover ∧ Claims.HeartbeatAndVacancy

/-- A write by a non-owner outside its own registers: answered with MGMT_ERR, counted and recorded, 0xA1 for the first since the count was cleared, and nothing else of the block changes. -/
def Claims.NonownerRefused : Prop :=
  ∀ (port master : Nat) (addr : BitVec 22) (v : Word) (s : State), s.tablesWf = true → port < s.build.mgmtPorts → mgmtServes s = true → requestsAt port s = [] → s.clock.fabFault = false →
    isOwner (.mgmt port master) s = false → ownRegister port addr.toNat = false → LogRoom s → applies (.nonownerWrite port master addr v) s = true →
    Answers (.nonownerWrite port master addr v) s fun t =>
      reg rREJECTED t = satAdd (reg rREJECTED s) 1
        ∧ reg rREJECT_LAST t = BitVec.ofNat 32 (addr.toNat + master % 256 * 2 ^ 22 + port % 4 * 2 ^ 30)
        ∧ (reg (rIrqRaw pOWNER) t).getLsbD 2 = true
        ∧ (if reg rREJECTED s = 0#32 then Logged 0xA1 0 (mgmtSource port) s t else t.log = s.log)
        ∧ t.out = s.out ++ [.mgmtRsp port master 0#32 true] ∧ OnlyChanges [.reached, .regs, .setNow, .log, .out] s t

/-- Mailboxes: a word joins the FIFO of 16 with the interrupt, or overflows it; the owner's read answers and removes the oldest and clears OVERFLOW; anyone else's leaves it. -/
def Claims.Mailboxes : Prop :=
  (∀ (port master : Nat) (v : Word) (s : State), s.tablesWf = true → port < 4 → port < s.build.mgmtPorts → mgmtServes s = true → requestsAt port s = [] → s.clock.fabFault = false →
    staging port s = false → applies (.mailboxWrite port master v) s = true →
    Answers (.mailboxWrite port master v) s fun t => Answered port master 0#32 s t ∧ (∀ q, q ≠ port → mailboxAt q t = mailboxAt q s) ∧
      (if (mailboxAt port s).length < 16 then mailboxAt port t = mailboxAt port s ++ [v] ∧ mailOver port t = mailOver port s ∧ (reg (rIrqRaw pOWNER) t).getLsbD 3 = true
       else mailboxAt port t = mailboxAt port s ∧ mailOver port t = true) ∧ OnlyChanges [.reached, .owner, .regs, .setNow, .out] s t)
    ∧ ∀ (port master box : Nat) (s : State), s.tablesWf = true → box < 4 → box < s.build.mgmtPorts → port < s.build.mgmtPorts → mgmtServes s = true → requestsAt port s = [] →
      tget none (0x01090 + 4 * box) s.hiLatch = none → applies (.mailboxRead (.mgmt port master) box) s = true →
      Answers (.mailboxRead (.mgmt port master) box) s fun t => Answered port master ((mailboxAt box s).headD 0#32) s t ∧ (∀ q, q ≠ box → mailboxAt q t = mailboxAt q s) ∧
        (if isOwner (.mgmt port master) s then mailboxAt box t = (mailboxAt box s).drop 1 ∧ mailOver box t = false else t.owner = s.owner)
        ∧ OnlyChanges [.reached, .owner, .out] s t

/-! ### The steward (R378, R379, R404) -/

/-- The steward's watchdog: KICK begins its window; a missed window logs 0x74 and restarts it, the third within a second holds it with 0x75; RESTART of a held, authentic steward runs it again. -/
def Claims.StewardWatchdog : Prop :=
  (∀ (port master : Nat) (s : State), s.tablesWf = true → OwnerTurn port master (.stewardKick (.mgmt port master)) s →
    Answers (.stewardKick (.mgmt port master)) s fun t => t.steward = { s.steward with kickAt := s.clock.now } ∧ Answered port master 0#32 s t
      ∧ OnlyChanges [.reached, .steward, .out] s t)
    ∧ (∀ s : State, s.tablesWf = true → alive s = true → stewardRuns s = true → s.steward.kickAt + regNat rWDOG_WINDOW s * unitsUs ≤ s.clock.now →
      s.log.entries.length < 30 → applies .stewardWatchdog s = true →
      let recent := s.steward.resetTimes.filter fun x => decide (s.clock.now < x + 16000000000)
      Answers .stewardWatchdog s fun t => reg rWDOG_RESETS t = satAdd (reg rWDOG_RESETS s) 1 ∧ t.steward.resetTimes = recent ++ [s.clock.now] ∧
        (if 2 ≤ recent.length then stewardState t = 2 ∧ t.steward.starts = s.steward.starts ∧ t.log.entries.length = s.log.entries.length + 2
         else stewardState t = 1 ∧ t.steward.starts = s.steward.starts + 1 ∧ t.steward.kickAt = s.clock.now ∧ Logged 0x74 0 0x5000#16 s t)
        ∧ OnlyChanges [.reached, .steward, .regs, .setNow, .log] s t)
    ∧ ∀ (port master : Nat) (s : State), s.tablesWf = true → OwnerTurn port master (.stewardRestart (.mgmt port master)) s →
      Answers (.stewardRestart (.mgmt port master)) s fun t => Answered port master 0#32 s t ∧
        (if stewardState s = 2 ∧ bitOf (reg rSTEWARD_STATE s) 4 = false then stewardState t = 1 ∧ t.steward.starts = s.steward.starts + 1 ∧ t.steward.kickAt = s.clock.now
         else t.steward = s.steward ∧ t.regs = s.regs)

/-- A forbidden action of the running steward has no effect: its code enters the log, and the count and GUARD_LAST record it. -/
def Claims.StewardGuards : Prop :=
  ∀ (a : StewardAction) (s : State), s.tablesWf = true → alive s = true → stewardRuns s = true → (guardOf a s).1 ≠ 0 → LogRoom s →
    applies (.stewardGuard a) s = true →
    Answers (.stewardGuard a) s fun t => Logged (guardOf a s).1 0 0x5000#16 s t ∧ reg rGUARD_COUNT t = satAdd (reg rGUARD_COUNT s) 1
      ∧ reg rGUARD_LAST t = BitVec.ofNat 32 ((guardOf a s).1 + (guardOf a s).2 % 2 ^ 22 * 2 ^ 8) ∧ OnlyChanges [.reached, .regs, .setNow, .log] s t

/-- The steward's watchdog and guards. -/
def Obligations.StewardBounds : Prop := Claims.StewardWatchdog ∧ Claims.StewardGuards

/-! ### The register space (R10, R11, R61 to R65, R388 to R394) -/

/-- The header registers of an existing page under REGISTER_WRITE: IRQ_ENABLE and SCRATCH take the value, IRQ_SET sets causes, reserved bits of RAW among them (log 33), IRQ_CLEAR clears those written 1 that no event of this transit has set. -/
def Claims.HeaderWrites : Prop :=
  ∀ (port master page : Nat) (addr : BitVec 22) (v : Word) (s : State), s.tablesWf = true → page < 0x41 → pageExists page s = true →
    OwnerTurn port master (.registerWrite (.mgmt port master) addr v) s →
    (addr.toNat = pageBase page + 0x014 ∨ addr.toNat = pageBase page + 0x024 → Answers (.registerWrite (.mgmt port master) addr v) s fun t =>
      reg addr.toNat t = v ∧ RegsKeep [addr.toNat] s t ∧ Answered port master 0#32 s t ∧ OnlyChanges [.reached, .regs, .out] s t)
      ∧ (addr.toNat = pageBase page + 0x010 → Answers (.registerWrite (.mgmt port master) addr v) s fun t =>
        reg (rIrqRaw page) t = reg (rIrqRaw page) s ||| v ∧ RegsKeep [rIrqRaw page] s t ∧ Answered port master 0#32 s t ∧ OnlyChanges [.reached, .regs, .out] s t)
      ∧ (addr.toNat = pageBase page + 0x018 → Answers (.registerWrite (.mgmt port master) addr v) s fun t =>
        (∀ i, i < 32 → (reg (rIrqRaw page) t).getLsbD i =
          ((reg (rIrqRaw page) s).getLsbD i && !(v.getLsbD i && !(tget 0#32 (rIrqRaw page) s.setNow).getLsbD i)))
          ∧ RegsKeep [rIrqRaw page] s t ∧ Answered port master 0#32 s t ∧ OnlyChanges [.reached, .regs, .out] s t)

/-- An access that R63 answers with MGMT_ERR, at a misaligned address or one at or above 0x30_0000: a read of the owner or of anyone, a write of the owner; it changes nothing of the block. -/
def Claims.BadAddressErrors : Prop :=
  ∀ (port master : Nat) (write : Bool) (addr : BitVec 22) (v : Word) (s : State), s.tablesWf = true → badAddr addr.toNat = true →
    port < s.build.mgmtPorts → mgmtServes s = true → requestsAt port s = [] → write = false ∨ OwnerTurn port master (.mgmtErrorResponse port master write addr v) s →
    applies (.mgmtErrorResponse port master write addr v) s = true →
    Answers (.mgmtErrorResponse port master write addr v) s fun t =>
      t.out = s.out ++ [.mgmtRsp port master 0#32 true] ∧ OnlyChanges [.reached, .out] s t

/-- Refused writes, mailboxes and accesses to bad addresses. -/
def Obligations.NonownerAccesses : Prop := Claims.NonownerRefused ∧ Claims.Mailboxes ∧ Claims.BadAddressErrors

/-- A read of the low word of a 64-bit pair answers it and latches the high word of the same moment. -/
def Claims.LowReadLatches : Prop :=
  ∀ (port master : Nat) (addr : BitVec 22) (s : State), s.tablesWf = true → isLow (addr.toNat / 0x1000) (addr.toNat % 0x1000) = true →
    pageExists (addr.toNat / 0x1000) s = true → addr.toNat % 4 = 0 → addr.toNat < 0x100000 → isHigh addr.toNat = false →
    OwnerTurn port master (.loReadLatch (.mgmt port master) addr) s →
    Answers (.loReadLatch (.mgmt port master) addr) s fun t =>
      Answered port master (readPage 0 addr.toNat s) s t ∧ tget none (addr.toNat + 4) t.hiLatch = some (readPage 0 (addr.toNat + 4) s)
        ∧ (∀ a, a ≠ addr.toNat + 4 → tget none a t.hiLatch = tget none a s.hiLatch) ∧ OnlyChanges [.reached, .hiLatch, .out] s t

/-- RC registers: a read answers the value, the owner's clears it, anyone else's leaves it; the stored registers of every page, and the two counters of the selected stall. -/
def Claims.ReadToClear : Prop :=
  ∀ (port master : Nat) (addr : BitVec 22) (s : State), s.tablesWf = true → port < s.build.mgmtPorts → mgmtServes s = true → requestsAt port s = [] →
    applies (.readToClear (.mgmt port master) addr) s = true →
    (∀ r : RegRow, regRow addr.toNat = some r → r.acc = .rc → pageExists (addr.toNat / 0x1000) s = true →
      0x040 ≤ addr.toNat % 0x1000 ∨ addr.toNat % 0x1000 = 0x020 → addr.toNat < 0x100000 → addr.toNat % 4 = 0 →
      readSpecial 0 (addr.toNat / 0x1000) (addr.toNat % 0x1000) s = none → isLow (addr.toNat / 0x1000) (addr.toNat % 0x1000) = false → isHigh addr.toNat = false →
      Answers (.readToClear (.mgmt port master) addr) s fun t => Answered port master (reg addr.toNat s) s t
        ∧ reg addr.toNat t = (if isOwner (.mgmt port master) s then 0#32 else reg addr.toNat s) ∧ RegsKeep [addr.toNat] s t
        ∧ OnlyChanges [.reached, .regs, .out] s t)
      ∧ (addr.toNat = 0x4005C ∨ addr.toNat = 0x40060 → hasStall (stallSel 0 s) s = true →
        let n := stallSel 0 s
        let st := stallAt n s
        Answers (.readToClear (.mgmt port master) addr) s fun t =>
          Answered port master (if addr.toNat = 0x4005C then st.discarded else st.badIndex) s t
            ∧ stallAt n t = (if isOwner (.mgmt port master) s then (if addr.toNat = 0x4005C then { st with discarded := 0#32 } else { st with badIndex := 0#32 }) else st)
            ∧ StallsKeep n s t ∧ OnlyChanges [.reached, .stalls, .out] s t)

/-- Reads that latch and reads that clear. -/
def Obligations.RegisterReads : Prop := Claims.LowReadLatches ∧ Claims.ReadToClear

/-- The error log's port: POP removes the oldest entry; HEAD_W0 answers its first word and latches the other three of the same entry. -/
def Claims.ErrorLogPort : Prop :=
  ∀ (port master : Nat) (s : State), s.tablesWf = true →
    (OwnerTurn port master (.errlogPop (.mgmt port master)) s → Answers (.errlogPop (.mgmt port master)) s fun t =>
      t.log = { s.log with entries := s.log.entries.drop 1 } ∧ Answered port master 0#32 s t ∧ OnlyChanges [.reached, .log, .out] s t)
      ∧ (OwnerTurn port master (.errlogHeadRead (.mgmt port master)) s → Answers (.errlogHeadRead (.mgmt port master)) s fun t =>
        let w := headWords s
        Answered port master (w.getD 0 0#32) s t ∧ t.log = { s.log with latch1 := w.getD 1 0#32, latch2 := w.getD 2 0#32, latch3 := w.getD 3 0#32 }
          ∧ OnlyChanges [.reached, .log, .out] s t)

/-- Page control: SOFT_RESET of a page that is no ring port's waits in the page's control word for class 1 of the next transit; of a ring port's it lowers PHY_ENABLE at once, and a link that is not DOWN is to go DOWN with 0x2A; LOCK is set and stays. -/
def Claims.PageControl : Prop :=
  ∀ (port master page : Nat) (s : State), s.tablesWf = true → page < 0x41 → pageExists page s = true →
    (pageKind page ≠ .ring → OwnerTurn port master (.softReset (.mgmt port master) page) s → Answers (.softReset (.mgmt port master) page) s fun t =>
      bitOf (reg (rPageCtrl page) t) 1 = true ∧ bitOf (reg (rPageCtrl page) t) 2 = bitOf (reg (rPageCtrl page) s) 2 ∧ RegsKeep [rPageCtrl page] s t
        ∧ Answered port master 0#32 s t ∧ OnlyChanges [.reached, .regs, .setNow, .out] s t)
      ∧ (∀ p, p < 8 → hasPort p s = true → page = pRING p → OwnerTurn port master (.softReset (.mgmt port master) page) s → Answers (.softReset (.mgmt port master) page) s fun t =>
        (linkAt p t).phyEnable = false ∧ (linkAt p t).state = (linkAt p s).state
          ∧ ((linkAt p s).state ≠ 0 → (linkAt p s).dying = 0#8 → (linkAt p t).dying = 0x2A#8) ∧ (∀ q, q ≠ p → linkAt q t = linkAt q s) ∧ Answered port master 0#32 s t)
      ∧ (OwnerTurn port master (.pageLock (.mgmt port master) page) s → Answers (.pageLock (.mgmt port master) page) s fun t =>
        pageLocked page t = true ∧ bitOf (reg (rPageCtrl page) t) 1 = bitOf (reg (rPageCtrl page) s) 1 ∧ RegsKeep [rPageCtrl page] s t
          ∧ Answered port master 0#32 s t ∧ OnlyChanges [.reached, .regs, .setNow, .out] s t)

/-- The header registers of every page. -/
def Obligations.PageHeaders : Prop := Claims.HeaderWrites ∧ Claims.PageControl

/-- PERF.CTRL CLEAR sets every counter to 0 and clears itself; an injection is armed by its word; RESTORE_TRIMS takes every calibrated setting, INPUT_DELAY, PHY_CFG and the nine of the ASSAY page, from the trims again, or from the values of R361 where the set is invalid, and empties the controller's window. -/
def Claims.PerfInjectTrims : Prop :=
  ∀ (port master : Nat) (s : State), s.tablesWf = true →
    (OwnerTurn port master (.perfClear (.mgmt port master)) s → Answers (.perfClear (.mgmt port master)) s fun t =>
      (∀ i, i < 21 → reg (rPERF i) t = 0#32) ∧ reg rPERF_CTRL t = reg rPERF_CTRL s &&& 2#32 ∧ Answered port master 0#32 s t
        ∧ (∀ a, a ≠ rPERF_CTRL → (∀ i, i < 21 → a ≠ rPERF i) → reg a t = reg a s) ∧ OnlyChanges [.reached, .regs, .out] s t)
      ∧ (∀ v : Word, OwnerTurn port master (.injectArm (.mgmt port master) v) s → Answers (.injectArm (.mgmt port master) v) s fun t =>
        reg rINJECT t = v &&& 0x8000070F#32 ∧ RegsKeep [rINJECT] s t ∧ Answered port master 0#32 s t ∧ OnlyChanges [.reached, .regs, .out] s t)
      ∧ (OwnerTurn port master (.restoreTrims (.mgmt port master)) s → Answers (.restoreTrims (.mgmt port master)) s fun t =>
        (s.boot.trimsValid = true → reg rINPUT_DELAY t = trimWord 258 s &&& 0xFFFF#32 ∧ AssayTakes (fun i => trimWord i s) t
            ∧ ∀ n, n < s.build.ringPorts → n < 8 → reg (rPHY_CFG_LO n) t = trimWord (259 + 2 * n) s ∧ reg (rPHY_CFG_LO n + 4) t = trimWord (260 + 2 * n) s)
          ∧ (s.boot.trimsValid = false → CalibrationDefaults t) ∧ t.assayWin = [] ∧ bitOf (reg rCTL_STATE t) 0 = false ∧ Answered port master 0#32 s t)

/-- The log's port, PERF.CTRL, INJECT and RESTORE_TRIMS. -/
def Obligations.LogAndControlCommands : Prop := Claims.ErrorLogPort ∧ Claims.PerfInjectTrims

/-! ### Power (R380 to R385, R409, R410) -/

/-- FENCE_IN and THROTTLE in class 1, at a level that has passed the filter: the block is FENCED exactly while FENCE_IN or POWER.FENCE holds; a throttle change is taken with its interrupt. -/
def Claims.FenceAndThrottle : Prop :=
  ∀ s : State, s.tablesWf = true → alive s = true →
    (∀ level edges, regNat rGLITCH_CYCLES s ≤ edges → applies (.fenceInChange ⟨level, edges⟩) s = true → Answers (.fenceInChange ⟨level, edges⟩) s fun t =>
      t.clock.fenceIn = level ∧ t.clock.fenced = (level || bitOf (reg rFENCE s) 0) ∧ RegsKeep [rIrqRaw pPOWER] s t
        ∧ (powerState t ≠ powerState s → (reg (rIrqRaw pPOWER) t).getLsbD 0 = true) ∧ OnlyChanges [.reached, .clock, .mer, .regs, .setNow] s t)
      ∧ ∀ v edges, v ≠ s.clock.throttle → regNat rGLITCH_CYCLES s ≤ edges → applies (.throttleChange ⟨v, edges⟩) s = true → Answers (.throttleChange ⟨v, edges⟩) s fun t =>
        t.clock.throttle = v ∧ (reg (rIrqRaw pPOWER) t).getLsbD 2 = true
          ∧ (overThrottle t = true → overThrottle s = false → (reg (rIrqRaw pMERIDIAN) t).getLsbD 4 = true)
          ∧ RegsKeep [rIrqRaw pPOWER, rIrqRaw pMERIDIAN] s t ∧ OnlyChanges [.reached, .clock, .regs, .setNow] s t

/-- POWER.FENCE takes its bit; the block goes IDLE once IDLE_DELAY transits have been idle, with the interrupt where POWER.STATE changes. -/
def Claims.FenceWriteAndIdle : Prop :=
  (∀ (port master : Nat) (v : Word) (s : State), s.tablesWf = true → OwnerTurn port master (.powerFenceWrite (.mgmt port master) v) s →
    Answers (.powerFenceWrite (.mgmt port master) v) s fun t => reg rFENCE t = v &&& 1#32 ∧ RegsKeep [rFENCE] s t ∧ Answered port master 0#32 s t
      ∧ OnlyChanges [.reached, .regs, .out] s t)
    ∧ ∀ s : State, s.tablesWf = true → alive s = true → s.clock.due = [] → s.clock.gated = false → idleNow s = true → regNat rIDLE_DELAY s ≤ s.clock.idleRun →
      Answers .idleEnter s fun t => t.clock.gated = true ∧ (s.clock.fenced = false → powerState t = 1 ∧ (reg (rIrqRaw pPOWER) t).getLsbD 0 = true)
        ∧ OnlyChanges [.clock, .regs, .setNow] s t

/-- FENCE_IN, POWER.FENCE, THROTTLE and IDLE. -/
def Obligations.FencingAndIdling : Prop := Claims.FenceAndThrottle ∧ Claims.FenceWriteAndIdle

/-- A plane's power: a power-down of a plane that holds nothing is accepted for class 1 of the next transit, one of a plane in use is refused with 0x99, from no one place (log 22); power-up is accepted for class 1 of the next transit too (log 46); the self-test of its share, whose faulty rows take the place of those of the test before, ends in ON, or in FAILED with 0x93 where a macro's outnumber its spare rows. -/
def Obligations.PlanePower : Prop :=
  (∀ (port master p : Nat) (s : State), s.tablesWf = true → p < 8 → hasPlane p s = true → planePower p s ≠ 2 →
    (planePd p s = false → LogRoom s → OwnerTurn port master (.planePowerDown (.mgmt port master) p) s → Answers (.planePowerDown (.mgmt port master) p) s fun t =>
      (if planeEmpty p s then planePd p t = true ∧ planeAt p t = { planeAt p s with pdNext := some true } ∧ t.log = s.log
       else planePd p t = false ∧ t.planes = s.planes ∧ Logged 0x99 0 0x0000#16 s t)
        ∧ (∀ q, q ≠ p → q < 8 → planePd q t = planePd q s ∧ planeAt q t = planeAt q s) ∧ Answered port master 0#32 s t)
      ∧ (planePd p s = true → OwnerTurn port master (.planePowerUp (.mgmt port master) p) s → Answers (.planePowerUp (.mgmt port master) p) s fun t =>
        planePd p t = false ∧ planeAt p t = { planeAt p s with pdNext := some false } ∧ t.log = s.log
          ∧ (∀ q, q ≠ p → q < 8 → planePd q t = planePd q s ∧ planeAt q t = planeAt q s) ∧ Answered port master 0#32 s t))
    ∧ ∀ (p : Nat) (rows : List (Nat × Nat)) (s : State), s.tablesWf = true → p < 8 → hasPlane p s = true → alive s = true → planePower p s = 3 → LogRoom s →
      applies (.planeSelftestDone p rows) s = true →
      let inShare := fun x : Nat × Nat => decide (Config.macroPlane x.1 = some p)
      let found := (s.boot.testRows.filter fun x => !inShare x) ++ rows.filter inShare
      let fails := shareFails p { s with boot := { s.boot with testRows := found } }
      Answers (.planeSelftestDone p rows) s fun t => t.boot = { s.boot with testRows := found } ∧ planePower p t = (if fails then 2 else 0) ∧ (reg (rIrqRaw pPOWER) t).getLsbD 1 = true
        ∧ (∀ q, q ≠ p → planeAt q t = planeAt q s) ∧ (if fails then Logged 0x93 0 (source 1 p) s t else t.log = s.log)
        ∧ OnlyChanges [.reached, .boot, .planes, .regs, .setNow, .log] s t

/-! ### Ephemeris (R230 to R234, R403) -/

/-- Swaps: SWAP_ARM arms at the SWAP_AT of the moment, with 0x19 in class 2 of the next transit where that is no later than this one, or disarms; a due swap makes the other bank active. -/
def Claims.EphemerisSwap : Prop :=
  (∀ (port master : Nat) (s : State), s.tablesWf = true →
    (OwnerTurn port master (.swapArm (.mgmt port master)) s → Answers (.swapArm (.mgmt port master)) s fun t =>
      t.mer = { s.mer with swapAt := some (reg64 rSWAP_AT_LO s) } ∧ Answered port master 0#32 s t
        ∧ (if (reg64 rSWAP_AT_LO s).toNat ≤ s.clock.transit.toNat then Found (.entry ⟨0x19, 0, 0x4000#16, none, none⟩) s t else t.clock.found = s.clock.found)
        ∧ OnlyChanges [.reached, .found, .mer, .out] s t)
      ∧ (OwnerTurn port master (.swapDisarm (.mgmt port master)) s → Answers (.swapDisarm (.mgmt port master)) s fun t =>
        t.mer = { s.mer with swapAt := none } ∧ Answered port master 0#32 s t ∧ OnlyChanges [.reached, .mer, .out] s t))
    ∧ ∀ (a : Word64) (s : State), s.tablesWf = true → alive s = true → s.mer.swapAt = some a → a.toNat ≤ s.clock.transit.toNat →
      applies .bankSwap s = true → Answers .bankSwap s fun t => activeBank t = 1 - activeBank s ∧ t.mer = { s.mer with swapAt := none }
        ∧ (reg (rIrqRaw pEPHEMERIS) t).getLsbD 0 = true
        ∧ RegsKeep [rEPH_ACTIVE, rIrqRaw pEPHEMERIS, rIrqRaw pMERIDIAN] s t ∧ OnlyChanges [.reached, .mer, .regs, .setNow] s t

/-- An entry word: stored in a bank that is not active, reserved bits kept 0, stored in the active one in phase 4 (log 40) and ignored for it afterwards, with 0x1B in class 2 of the next transit; AUTO_INC steps the selection after the last word. -/
def Claims.EphemerisEntryWrite : Prop :=
  ∀ (port master w : Nat) (v : Word) (s : State), s.tablesWf = true → w < 4 → OwnerTurn port master (.ephemerisEntryWrite (.mgmt port master) w v) s →
    let i := (entrySel 0 s).1
    let b := (entrySel 0 s).2
    let kept := if w = 2 then v &&& 0x1FFFF#32 else if w = 3 then 0#32 else v
    Answers (.ephemerisEntryWrite (.mgmt port master) w v) s fun t => Answered port master 0#32 s t
      ∧ (if b = activeBank s ∧ phaseOf s ≠ 4 then t.tabs = s.tabs ∧ Found (.entry ⟨0x1B, 0, 0x4000#16, none, none⟩) s t
         else ephWord b i w t = kept ∧ (∀ b' i' w', b' < 2 → i' < 4096 → w' < 4 → (b', i', w') ≠ (b, i, w) → ephWord b' i' w' t = ephWord b' i' w' s) ∧ t.clock.found = s.clock.found)
      ∧ (entrySel 0 t = if w = 3 ∧ bitOf (reg rENTRY_SELECT s) 31 = true then ((i + 1) % 4096, b) else (i, b))
      ∧ OnlyChanges [.reached, .found, .ephemeris, .regs, .out] s t

/-- Bank swaps and entry writes. -/
def Obligations.EphemerisBanks : Prop := Claims.EphemerisSwap ∧ Claims.EphemerisEntryWrite

/-! ### The meridian (R209 to R229) -/

/-- MER_MARK: one period high is a glitch; two periods are a marker, in LOCKED accepted within the window (a slip, at whose first edge bits [23:0] are 0, takes its periods off the count, epoch bits and all where it comes early (log 15), and is counted) and ignored as early outside it; more than two are a stuck line, which starts a holdover from LOCKED. -/
def Claims.MeridianMarker : Prop :=
  ∀ (offset : Int) (s : State), s.tablesWf = true → alive s = true → merState s = 2 →
    (s.mer.markStuck = none → applies (.merMarkPulse 1 offset) s = true → Answers (.merMarkPulse 1 offset) s fun t =>
      reg rGLITCH_COUNT t = satAdd (reg rGLITCH_COUNT s) 1 ∧ t.mer = s.mer ∧ OnlyChanges [.reached, .regs] s t)
      ∧ (s.mer.markStuck = none → applies (.merMarkPulse 2 offset) s = true → Answers (.merMarkPulse 2 offset) s fun t =>
        merState t = 2 ∧ (if offset.natAbs ≤ fieldOf (reg rMARK_WINDOW s) 0 4 then
          t.mer.acqMark = true ∧ t.mer.time = s.mer.time - BitVec.ofInt 64 offset ∧ t.mer.markEpoch = some (timeEpoch t)
            ∧ reg rMARK_SLIP t = (if offset = 0 then reg rMARK_SLIP s else satAdd (reg rMARK_SLIP s) 1) ∧ RegsKeep [rMARK_SLIP] s t
         else reg rMARK_EARLY t = satAdd (reg rMARK_EARLY s) 1 ∧ t.mer = s.mer) ∧ OnlyChanges [.reached, .mer, .regs] s t)
      ∧ ∀ width, 2 < width → LogRoom s → applies (.merMarkPulse width offset) s = true → Answers (.merMarkPulse width offset) s fun t =>
        merState t = 3 ∧ t.mer.holdPeriods = 0 ∧ t.mer.time = s.mer.time ∧ Logged 0x10 0 merSource s t ∧ OnlyChanges [.reached, .mer, .regs, .setNow, .log] s t

/-- A MER_CODE frame in LOCKED: an invalid one is counted and ends a run of differing ones; one that agrees with meridian time clears the run of mismatches; one that differs logs 0x14, and the second in a row loses the meridian with 0x13. -/
def Claims.MeridianTimecode : Prop :=
  ∀ (frame : Timecode) (s : State), s.tablesWf = true → alive s = true → merState s = 2 → s.log.entries.length < 30 → applies (.timecodeFrame frame) s = true →
    Answers (.timecodeFrame frame) s fun t => t.mer.time = s.mer.time ∧ OnlyChanges [.reached, .mer, .regs, .setNow, .log] s t
      ∧ (match frameEpoch frame.bits with
        | none => reg rCODE_ERR t = satAdd (reg rCODE_ERR s) 1 ∧ merState t = 2 ∧ t.mer.mismatches = 0 ∧ t.log = s.log
        | some e =>
          if e = timeEpoch s then merState t = 2 ∧ t.mer.mismatches = 0 ∧ t.log = s.log
          else if s.mer.mismatches = 0 then merState t = 2 ∧ t.mer.mismatches = 1 ∧ Logged 0x14 0 merSource s t
          else merState t = 4 ∧ t.mer.mismatches = 0 ∧ t.log.entries.length = s.log.entries.length + 2)

/-- Markers and timecode frames. -/
def Obligations.MeridianReference : Prop := Claims.MeridianMarker ∧ Claims.MeridianTimecode

/-- Losing the reference: a window that has closed without its marker (0x11) or a lost MER_REF (0x12) turns LOCKED into HOLDOVER, a holdover of 2^24 periods into LOST (0x13); the edges' return ends the counting on FCLK, an edge taking the number nearest to the count, wherever the edges stand (log 55). -/
def Claims.MeridianHoldoverAndLoss : Prop :=
  ∀ s : State, s.tablesWf = true → alive s = true → LogRoom s →
    (merState s = 2 → fieldOf (reg rMARK_WINDOW s) 0 4 < s.mer.time.toNat % 2 ^ 24 → s.mer.markEpoch ≠ some (timeEpoch s) → applies .markMissing s = true → Answers .markMissing s fun t => merState t = 3 ∧ t.mer.holdPeriods = 0 ∧ t.mer.refLost = false
      ∧ t.mer.time = s.mer.time ∧ Logged 0x11 0 merSource s t ∧ OnlyChanges [.reached, .mer, .regs, .setNow, .log] s t)
      ∧ (merState s = 2 → applies .refLoss s = true → Answers .refLoss s fun t => merState t = 3 ∧ t.mer.holdPeriods = 0 ∧ t.mer.refLost = true
        ∧ t.mer.time = s.mer.time ∧ Logged 0x12 0 merSource s t ∧ OnlyChanges [.reached, .mer, .regs, .setNow, .log] s t)
      ∧ (merState s = 3 → 2 ^ 24 ≤ s.mer.holdPeriods → applies .meridianLost s = true → Answers .meridianLost s fun t => merState t = 4
        ∧ t.mer.time = s.mer.time ∧ Logged 0x13 0 merSource s t ∧ OnlyChanges [.reached, .mer, .regs, .setNow, .log] s t)
      ∧ (merState s = 3 → s.mer.refLost = true → applies .merRefReturn s = true → Answers .merRefReturn s fun t =>
        t.mer = { s.mer with refLost := false, edgeAt := t.mer.edgeAt } ∧ (t.mer.edgeAt - s.mer.edgeAt).natAbs ≤ 32 ∧ OnlyChanges [.reached, .mer] s t)

/-- Reference periods that have passed from an edge at the pins to the current first edge (R212, R225). -/
def periodsSince (edge : Int) (s : State) : Nat := ((s.clock.now - (edge + s.mer.delayAt + 320)) / 64).toNat

/-- Locking: ACQUIRE loads the second epoch's number and period 72 as of its edge; a LOST chip slews where the difference is within SLEW_LIMIT and is refused with 0x15 otherwise; a slew below 1 ns ends LOCKED; RESYNC, in LOST while FENCED with no ledger held (log 36), loads the acquired time, and LOCKED follows in class 2 of the next transit; at any other time it is ignored with 0x15. -/
def Claims.MeridianLocks : Prop :=
  ∀ s : State, s.tablesWf = true → alive s = true →
    (∀ e, merState s = 1 → s.mer.acqReady = true → s.mer.acqPrev = some e → applies .meridianLock s = true → Answers .meridianLock s fun t =>
      merState t = 2 ∧ t.mer.time = BitVec.ofNat 64 (e.toNat * 2 ^ 24 + 72 + periodsSince s.mer.frameEdge s) ∧ t.mer.lockPending = true ∧ t.mer.reload = true ∧ t.clock.transit = s.clock.transit
        ∧ OnlyChanges [.reached, .mer, .regs, .setNow, .log] s t)
      ∧ (∀ e edge, merState s = 4 → s.mer.acqReady = true → s.mer.acqPrev = some e → LogRoom s → edge = s.mer.frameEdge → applies (.reacquire edge) s = true → Answers (.reacquire edge) s fun t =>
        let diff : Int := 64 * (e.toNat * 2 ^ 24 + 72 : Nat) - (64 * (s.mer.time.toNat : Int) + (edge - s.mer.edgeAt))
        t.mer.acquired = some (BitVec.ofNat 64 (e.toNat * 2 ^ 24 + 72), edge) ∧ t.mer.time = s.mer.time ∧
          (if diff.natAbs ≤ 16000 * regNat rSLEW_LIMIT s then merState t = 5 ∧ t.mer.slewDiff = diff
           else merState t = 4 ∧ Logged 0x15 0 merSource s t) ∧ OnlyChanges [.reached, .mer, .regs, .setNow, .log] s t)
      ∧ (merState s = 5 → s.mer.slewDiff.natAbs < 16 → applies .slewComplete s = true → Answers .slewComplete s fun t => merState t = 2 ∧ t.mer.slewDiff = 0
        ∧ t.mer.time = s.mer.time ∧ t.mer.edgeAt = s.mer.edgeAt - s.mer.slewDiff ∧ OnlyChanges [.reached, .mer, .regs, .setNow, .log] s t)
      ∧ (∀ port master, OwnerTurn port master (.resync (.mgmt port master)) s → Answers (.resync (.mgmt port master)) s fun t => Answered port master 0#32 s t
        ∧ merState t = merState s ∧ t.clock.transit = s.clock.transit ∧ OnlyChanges [.reached, .found, .mer, .out] s t ∧
        (match s.mer.acquired with
          | some a => if s.clock.fenced = true ∧ anyHeld s = false ∧ merState s = 4 then
              Found .resynced s t ∧ t.mer.time = BitVec.ofNat 64 (a.1.toNat + periodsSince a.2 s) ∧ t.mer.reload = true ∧ t.mer.acquired = none
            else t.mer = s.mer ∧ Found (.entry ⟨0x15, 0, 0x4000#16, none, none⟩) s t
          | none => t.mer = s.mer ∧ Found (.entry ⟨0x15, 0, 0x4000#16, none, none⟩) s t))
      ∧ ∀ n, n < 16 → (lineAt n s).rangAt = none → s.clock.due = [(duePlace .resynced, .resynced)] → placeLe s.clock.reached ⟨3, [n, 2]⟩ = true → merState s = 4 →
        Answers (.bellRearm n) s fun t => merState t = 2 ∧ t.mer.time = s.mer.time ∧ t.clock.due = [] ∧ OnlyChanges [.reached, .due, .mer, .regs, .setNow, .log] s t

/-- Holdover, loss, locks, slews and RESYNC. -/
def Obligations.MeridianStates : Prop := Claims.MeridianHoldoverAndLoss ∧ Claims.MeridianLocks

/-- Calibration: INPUT_DELAY takes its word and boundaries slew to it; where they stand there already the slew has ended, and a CAL that waits for it starts; CAL in LOCKED over an UP link is BUSY and sends its first time frame with its stamp; a request is answered at once, its stamp standing for both of the answer's (log 36); of 64 measurements the sums are halved and averaged into CAL_OFFSET and CAL_RTT, and the measurement ends DONE. -/
def Claims.MeridianCalibration : Prop :=
  (∀ (port master : Nat) (v : Word) (s : State), s.tablesWf = true → OwnerTurn port master (.inputDelayWrite (.mgmt port master) v) s →
    (s.mer.calWaiting = false ∨ s.mer.delayAt ≠ (v &&& 0xFFFF#32).toNat → Answers (.inputDelayWrite (.mgmt port master) v) s fun t => reg rINPUT_DELAY t = v &&& 0xFFFF#32 ∧ t.mer = s.mer
      ∧ bitOf (reg rMER_STATE t) 11 = decide (s.mer.delayAt ≠ (v &&& 0xFFFF#32).toNat) ∧ merState t = merState s
      ∧ RegsKeep [rINPUT_DELAY, rMER_STATE] s t ∧ Answered port master 0#32 s t ∧ OnlyChanges [.reached, .regs, .out] s t)
    ∧ (s.mer.calWaiting = true → s.mer.delayAt = (v &&& 0xFFFF#32).toNat → merState s = 2 → bitOf (reg rMER_STATE s) 10 = true → (linkAt (calPort s) s).state = 2 → (linkAt (calPort s) s).dying = 0#8 →
      Answers (.inputDelayWrite (.mgmt port master) v) s fun t => bitOf (reg rMER_STATE t) 11 = false ∧ bitOf (reg rMER_STATE t) 10 = true ∧ t.mer.calWaiting = false ∧ t.mer.calT1 = stampNow s
        ∧ t.out = s.out ++ [.timeFrame (calPort s) (stampNow s), .mgmtRsp port master 0#32 false] ∧ OnlyChanges [.reached, .mer, .regs, .links, .out] s t))
    ∧ (∀ (port master : Nat) (s : State), s.tablesWf = true → merState s = 2 → bitOf (reg rMER_STATE s) 10 = false → bitOf (reg rMER_STATE s) 11 = false →
      (linkAt (calPort s) s).state = 2 → (linkAt (calPort s) s).dying = 0#8 → OwnerTurn port master (.meridianCal (.mgmt port master)) s →
      Answers (.meridianCal (.mgmt port master)) s fun t => bitOf (reg rMER_STATE t) 10 = true ∧ merState t = 2 ∧ t.mer.calCount = 0
        ∧ t.mer.calT1 = stampNow s ∧ t.out = s.out ++ [.timeFrame (calPort s) (stampNow s), .mgmtRsp port master 0#32 false] ∧ OnlyChanges [.reached, .mer, .regs, .links, .out] s t)
    ∧ (∀ (port : Nat) (stamp : Int) (s : State), s.tablesWf = true → hasPort port s = true → alive s = true → s.clock.due = [] → (linkAt port s).phyEnable = true → (linkAt port s).dying = 0#8 →
      Answers (.timeFrameReceive port none stamp) s fun t => t.out = s.out ++ [.timeAnswer port stamp stamp] ∧ t.mer = s.mer ∧ OnlyChanges [.regs, .links, .out] s t)
    ∧ ∀ (port : Nat) (r : TimeReply) (stamp : Int) (s : State), s.tablesWf = true → hasPort port s = true → alive s = true → s.clock.due = [] → bitOf (reg rMER_STATE s) 10 = true →
      s.mer.calWaiting = false → port = calPort s → r.locked = true → merState s = 2 → (linkAt port s).state = 2 → (linkAt port s).dying = 0#8 →
      let th := s.mer.calTheta + ((stamp - r.t3) - (r.t2 - s.mer.calT1))
      let rt := s.mer.calRtt + ((r.t2 - s.mer.calT1) + (stamp - r.t3))
      Answers (.timeFrameReceive port (some r) stamp) s fun t => t.mer.calCount = s.mer.calCount + 1 ∧
        (if s.mer.calCount + 1 = 64 then reg rCAL_OFFSET t = BitVec.ofInt 32 (th.tdiv 128) ∧ reg rCAL_RTT t = BitVec.ofInt 32 (rt.tdiv 128)
            ∧ bitOf (reg rMER_STATE t) 10 = false ∧ bitOf (reg rMER_STATE t) 8 = true ∧ (reg (rIrqRaw pMERIDIAN) t).getLsbD 1 = true ∧ t.out = s.out
         else t.mer.calTheta = th ∧ t.mer.calRtt = rt ∧ t.mer.calT1 = stamp ∧ t.out = s.out ++ [.timeFrame port stamp])
        ∧ OnlyChanges [.mer, .regs, .setNow, .links, .out] s t

/-- The detectors of stuck lines fire once each: a board line high for eight transits while this block pulls it (0x16), low for BELL_LOW_LIMIT while it does not (0x17), FENCE_IN high for FENCE_HIGH_LIMIT (0x18); a removed glitch is counted. -/
def Claims.StuckLineDetectors : Prop :=
  ∀ (n : Nat) (s : State), s.tablesWf = true → n < 4 → alive s = true → LogRoom s → s.mer.bellHighFired.length = 4 → s.mer.bellLowFired.length = 4 →
    (8 ≤ s.mer.bellHighRun.getD n 0 → s.mer.bellHighFired.getD n false = false → applies (.bellExtHigh n) s = true → Answers (.bellExtHigh n) s fun t =>
      Logged 0x16 0 0x4000#16 s t ∧ t.mer.bellHighFired.getD n false = true ∧ OnlyChanges [.reached, .mer, .regs, .setNow, .log] s t)
      ∧ (regNat rBELL_LOW_LIMIT s ≠ 0 → boardPull n s = false → s.clock.bellSense.getLsbD n = false → s.mer.bellLowFired.getD n false = false →
        regNat rBELL_LOW_LIMIT s * unitsUs ≤ s.clock.now - s.mer.bellLowSince.getD n 0 → applies (.bellExtLow n) s = true → Answers (.bellExtLow n) s fun t =>
        Logged 0x17 0 0x4000#16 s t ∧ t.mer.bellLowFired.getD n false = true ∧ OnlyChanges [.reached, .mer, .regs, .setNow, .log] s t)
      ∧ (regNat rFENCE_HIGH_LIMIT s ≠ 0 → s.clock.fenceIn = true → s.mer.fenceHighFired = false →
        regNat rFENCE_HIGH_LIMIT s * unitsUs ≤ s.clock.now - s.mer.fenceHighSince → applies .fenceHigh s = true → Answers .fenceHigh s fun t =>
        Logged 0x18 0 0x4000#16 s t ∧ t.mer.fenceHighFired = true ∧ OnlyChanges [.reached, .mer, .regs, .setNow, .log] s t)
      ∧ ∀ g, s.clock.due = [] → (g.edges < regNat rGLITCH_CYCLES s → Answers (.glitchRemoved g) s fun t =>
          reg rGLITCH_COUNT t = satAdd (reg rGLITCH_COUNT s) 1 ∧ RegsKeep [rGLITCH_COUNT] s t ∧ OnlyChanges [.regs] s t)
        ∧ (regNat rGLITCH_CYCLES s ≤ g.edges → Answers (.glitchRemoved g) s fun t => OnlyChanges [] s t)

/-- Calibration, and the detectors of stuck lines. -/
def Obligations.MeridianServices : Prop := Claims.MeridianCalibration ∧ Claims.StuckLineDetectors

/-- A boundary of a transit in which nothing was held: time and FCLK advance by what the transit lasted, the transit number by one where the count has not been loaded anew, meridian time stands at it times 2^k, the order of the new transit is open, and what the last one found is due in it. -/
def Obligations.TransitAdvances : Prop :=
  ∀ (cycles ticks : Nat) (s : State), s.tablesWf = true → alive s = true → phaseOf s = 9 → s.clock.held = [] → s.clock.due = [] → s.boot.applying = none → boundaryFits cycles ticks s = true →
    Answers (.transitBoundary cycles ticks) s fun t => t.clock.fclk = s.clock.fclk + cycles ∧ t.clock.now = s.clock.now + ticks ∧ t.clock.reached = Place.start
      ∧ (∀ x ∈ s.clock.found, x ∈ t.clock.due) ∧ t.clock.held = []
      ∧ (s.mer.reload = false → t.clock.transit = s.clock.transit + 1)
      ∧ (s.mer.reload = true ∨ 2 ≤ merState s → t.mer.time = BitVec.ofNat 64 (t.clock.transit.toNat * 2 ^ shiftK s)) ∧ (s.mer.reload = true → t.mer.reload = false)

/-! ### Doorbells and queue configuration (R237 to R241, R261, R435 to R437) -/

/-- A doorbell of an enabled queue moves TAIL where the forward move of R241 allows it; on a queue of standing orders a value within the ring asks for a pin while nothing is pinned, and 0 unpins every order, each after its run; any other value is refused with 0x5C and changes no queue. -/
def Obligations.Doorbells : Prop :=
  ∀ (port master q : Nat) (v : Word) (s : State), s.tablesWf = true → q < 65536 → LogRoom s →
    let qs := queueAt q s
    let n := v.toNat
    let size := queueSize qs
    (OwnerTurn port master (.doorbell (.mgmt port master) q v) s → qStanding qs = false ∨ qEnabled qs = false →
      Answers (.doorbell (.mgmt port master) q v) s fun t => Answered port master 0#32 s t ∧ OnlyChanges [.reached, .queues, .regs, .setNow, .log, .out] s t ∧
        (if qEnabled qs = true ∧ n < size ∧ (n + size - qs.tail) % size ≤ (qs.head + 2 * size - 1 - qs.tail) % size then
          queueAt q t = { qs with tail := n } ∧ (∀ r, r ≠ q → queueAt r t = queueAt r s) ∧ t.log = s.log
         else t.queues = s.queues ∧ Logged 0x5C 0 0xA000#16 s t))
      ∧ (OwnerTurn port master (.standingPin (.mgmt port master) q v) s → qEnabled qs = true → qStanding qs = true → n ≠ 0 →
        Answers (.standingPin (.mgmt port master) q v) s fun t => Answered port master 0#32 s t ∧ OnlyChanges [.reached, .queues, .regs, .setNow, .log, .out] s t ∧
          (if n < size ∧ (∀ o ∈ s.orders, o.queue ≠ q) ∧ qs.pinTarget ≤ qs.nextStart ∧ qs.fetched = [] then
            queueAt q t = { qs with pinTarget := n, nextFetch := 0, nextStart := 0, tail := n } ∧ (∀ r, r ≠ q → queueAt r t = queueAt r s) ∧ t.log = s.log
           else t.queues = s.queues ∧ Logged 0x5C 0 0xA000#16 s t))
      ∧ (OwnerTurn port master (.standingUnpin (.mgmt port master) q) s → qEnabled qs = true → qStanding qs = true →
        Answers (.standingUnpin (.mgmt port master) q) s fun t => Answered port master 0#32 s t
          ∧ (∀ o ∈ t.orders, o.queue = q → o.unpin = true ∧ orderBusy q o.slot s = true)
          ∧ (∀ o ∈ s.orders, o.queue = q → orderBusy q o.slot s = true → { o with unpin := true } ∈ t.orders)
          ∧ (t.orders.filter fun o => o.queue != q) = s.orders.filter (fun o => o.queue != q)
          ∧ (queueAt q t).pinTarget = 0 ∧ (queueAt q t).fetched = [] ∧ t.log = s.log ∧ (∀ r, r ≠ q → queueAt r t = queueAt r s)
          ∧ OnlyChanges [.reached, .queues, .orders, .mem, .memLate, .out] s t)

/-- The selected queue's configuration: a lawful enabling starts a RUNNING queue with an empty ring; a disabling clears ENABLE, drops what has not started and lets what has go on; RESUME runs a HALTED queue; GROUP and the bases are taken while the queue is disabled; what R437 refuses is logged as 0x5C and changes no queue. -/
def Obligations.QueueConfiguration : Prop :=
  ∀ (port master : Nat) (v : Word) (s : State), s.tablesWf = true → LogRoom s →
    let q := qSel 0 s
    let qs := queueAt q s

    (OwnerTurn port master (.queueEnable (.mgmt port master) v) s → qEnabled qs = false →
      let c := (v ||| 1#32) &&& 0x00FF1F7F#32
      Answers (.queueEnable (.mgmt port master) v) s fun t => Answered port master 0#32 s t ∧ OnlyChanges [.reached, .queues, .regs, .setNow, .log, .out] s t ∧
        (if (bitOf c 3 = true ∧ bitOf qs.cfg 3 = false ∧ 64 ≤ earlyCount s) ∨ fieldOf c 8 5 = 0 ∨ 16 < fieldOf c 8 5 ∨ fieldOf c 16 8 = 0
            ∨ 2 ^ s.build.planes ≤ fieldOf c 16 8 ∨ groupOk s.build (fieldOf qs.group 0 16) = false then
          t.queues = s.queues ∧ Logged 0x5C 0 0xA000#16 s t
         else (queueAt q t).cfg = c ∧ (queueAt q t).state = 1 ∧ (queueAt q t).head = 0 ∧ (queueAt q t).tail = 0 ∧ (queueAt q t).lap = true
          ∧ (queueAt q t).group = qs.group ∧ (queueAt q t).descBase = qs.descBase ∧ (queueAt q t).compBase = qs.compBase
          ∧ (∀ r, r ≠ q → queueAt r t = queueAt r s) ∧ t.log = s.log))
      ∧ (OwnerTurn port master (.queueDisable (.mgmt port master)) s → qEnabled qs = true →
        Answers (.queueDisable (.mgmt port master)) s fun t => Answered port master 0#32 s t ∧ (queueAt q t).cfg = qs.cfg &&& 0xFFFFFFFE#32
          ∧ (queueAt q t).state = qs.state ∧ (queueAt q t).fetched = [] ∧ t.ops = s.ops ∧ (∀ r, r ≠ q → queueAt r t = queueAt r s) ∧ t.log = s.log
          ∧ OnlyChanges [.reached, .queues, .orders, .mem, .memLate, .out] s t)
      ∧ (OwnerTurn port master (.queueResume (.mgmt port master)) s → (∀ x ∈ s.queues, x.2.records = []) →
        Answers (.queueResume (.mgmt port master)) s fun t => Answered port master 0#32 s t ∧ OnlyChanges [.reached, .queues, .out] s t ∧
          (if qs.state = 2 ∧ qEnabled qs = true then (queueAt q t).state = 1 ∧ (queueAt q t).err = 0#8 ∧ (queueAt q t).head = qs.head ∧ (queueAt q t).tail = qs.tail
           else (queueAt q t).state = qs.state) ∧ (∀ r, r ≠ q → queueAt r t = queueAt r s))
      ∧ ∀ off, off = 0x048 ∨ off = 0x04C ∨ off = 0x050 ∨ off = 0x054 ∨ off = 0x058 → OwnerTurn port master (.queueCfgWrite (.mgmt port master) off v) s →
        Answers (.queueCfgWrite (.mgmt port master) off v) s fun t => Answered port master 0#32 s t ∧ OnlyChanges [.reached, .queues, .regs, .setNow, .log, .out] s t ∧
          (if qEnabled qs = true then t.queues = s.queues ∧ Logged 0x5C 0 0xA000#16 s t
           else (∀ r, r ≠ q → queueAt r t = queueAt r s) ∧ t.log = s.log ∧ (queueAt q t).cfg = qs.cfg ∧
            (if off = 0x048 then (queueAt q t).group = v &&& 0xFFFF#32 else
             if off = 0x04C then (queueAt q t).descBase = qs.descBase / 2 ^ 32 * 2 ^ 32 + v.toNat / 64 * 64 else
             if off = 0x050 then (queueAt q t).descBase = qs.descBase % 2 ^ 32 + v.toNat % 2 ^ 25 * 2 ^ 32 else
             if off = 0x058 then (queueAt q t).compBase = qs.compBase % 2 ^ 32 + v.toNat % 2 ^ 25 * 2 ^ 32
             else (queueAt q t).compBase = qs.compBase / 2 ^ 32 * 2 ^ 32 + v.toNat / 32 * 32))

/-! ### Configuration tables (R199, R250, R321, R328, R428, R438, R443) -/

/-- The tables behind the selected masks, lines and musters: a mask word and a member word keep the bits of stalls that exist, members only while the line is disabled, and a muster entry only where it names a tally of the build; RELEASE frees a FAULTED ledger and no other. -/
def Claims.SelectedTables : Prop :=
  ∀ (port master : Nat) (v : Word) (s : State), s.tablesWf = true →
    (OwnerTurn port master (.maskDataWrite (.mgmt port master) v) s →
      let e := (maskSel 0 s).1
      let w := (maskSel 0 s).2
      Answers (.maskDataWrite (.mgmt port master) v) s fun t => Answered port master 0#32 s t ∧ OnlyChanges [.reached, .masks, .out] s t
        ∧ (∀ k, k ≠ 32 * e + w → tget 0#32 k t.tabs.masks = tget 0#32 k s.tabs.masks)
        ∧ (leaves s.build ≤ 32 * w → t.tabs = s.tabs)
        ∧ (∀ i, i < 32 → 32 * w < leaves s.build → (tget 0#32 (32 * e + w) t.tabs.masks).getLsbD i = (v.getLsbD i && decide (32 * w + i < leaves s.build))))
      ∧ (OwnerTurn port master (.lineMembersWrite (.mgmt port master) v) s →
        let n := lineSel 0 s
        let w := fieldOf (reg rLINE_MEMBER_SEL s) 0 5
        Answers (.lineMembersWrite (.mgmt port master) v) s fun t => Answered port master 0#32 s t ∧
          (if lEnable (lineAt n s).cfg then t.tabs = s.tabs ∧ reg rCFG_REFUSED t = satAdd (reg rCFG_REFUSED s) 1 ∧ (reg (rIrqRaw pBELL) t).getLsbD 3 = true
           else (∀ k, k ≠ 32 * n + w → tget 0#32 k t.tabs.lineMembers = tget 0#32 k s.tabs.lineMembers) ∧ t.regs = s.regs
            ∧ ∀ i, i < 32 → 32 * w < leaves s.build → (tget 0#32 (32 * n + w) t.tabs.lineMembers).getLsbD i = (v.getLsbD i && decide (32 * w + i < leaves s.build)))
          ∧ OnlyChanges [.reached, .lineMembers, .regs, .setNow, .out] s t)
      ∧ (OwnerTurn port master (.musterCtrlWrite (.mgmt port master) v) s →
        let e := musterSel 0 s
        Answers (.musterCtrlWrite (.mgmt port master) v) s fun t => Answered port master 0#32 s t ∧
          (if leaves s.build ≤ fieldOf v 6 10 ∨ 48 ≤ fieldOf v 0 6 then t.tabs = s.tabs ∧ reg rCFG_REFUSED t = satAdd (reg rCFG_REFUSED s) 1
           else musterCtrl e t = v &&& 0x800FFFFF#32 ∧ musterValue e t = musterValue e s ∧ t.regs = s.regs
            ∧ (∀ f, f ≠ e → f < 1024 → musterCtrl f t = musterCtrl f s ∧ musterValue f t = musterValue f s))
          ∧ OnlyChanges [.reached, .musters, .regs, .setNow, .out] s t)
      ∧ (OwnerTurn port master (.ledgerRelease (.mgmt port master)) s →
        let l := ledgerSel 0 s
        Answers (.ledgerRelease (.mgmt port master)) s fun t => Answered port master 0#32 s t ∧ (∀ k, k ≠ l → ledgerAt k t = ledgerAt k s) ∧
          (if (ledgerAt l s).state = 3 then ledgerAt l t = { Ledger.free with waiting := (ledgerAt l s).waiting } else ledgerAt l t = ledgerAt l s)
          ∧ OnlyChanges [.reached, .ledgers, .planes, .log, .regs, .setNow, .out] s t)

/-- The assay's settings and a plane's spill registers: a threshold never ends above its floor, whichever of the two is written; STEP is at least 1 and at most 4096; a change of WINDOW empties the controller's window; a spill register keeps its value while the plane has pool pages. -/
def Claims.AssayAndSpillSettings : Prop :=
  ∀ (port master : Nat) (v : Word) (s : State), s.tablesWf = true →
    (∀ k off, k < 2 → off = 0x040 + 4 * k ∨ off = 0x048 + 4 * k → OwnerTurn port master (.thresholdWrite (.mgmt port master) off v) s →
      Answers (.thresholdWrite (.mgmt port master) off v) s fun t => Answered port master 0#32 s t
        ∧ reg (0x0B048 + 4 * k) t = (if off = 0x048 + 4 * k then v &&& 0x3FFF#32 else reg (0x0B048 + 4 * k) s)
        ∧ regNat (0x0B040 + 4 * k) t = min (if off = 0x040 + 4 * k then v.toNat % 2 ^ 14 else regNat (0x0B040 + 4 * k) s) (regNat (0x0B048 + 4 * k) t)
        ∧ RegsKeep [rTH_E2M1, rTH_E4M3, 0x0B048 + 4 * k] s t ∧ OnlyChanges [.reached, .regs, .out] s t)
      ∧ (OwnerTurn port master (.assayPolicyWrite (.mgmt port master) 0x05C v) s → Answers (.assayPolicyWrite (.mgmt port master) 0x05C v) s fun t =>
        regNat rSTEP t = min 4096 (max 1 (v.toNat % 2 ^ 13)) ∧ RegsKeep [rSTEP] s t ∧ Answered port master 0#32 s t ∧ OnlyChanges [.reached, .regs, .out] s t)
      ∧ (OwnerTurn port master (.assayPolicyWrite (.mgmt port master) 0x060 v) s → Answers (.assayPolicyWrite (.mgmt port master) 0x060 v) s fun t =>
        regNat rWINDOW t = min 6 (v.toNat % 8) ∧ (regNat rWINDOW t ≠ regNat rWINDOW s → t.assayWin = []) ∧ (regNat rWINDOW t = regNat rWINDOW s → t.assayWin = s.assayWin)
          ∧ RegsKeep [rWINDOW] s t ∧ Answered port master 0#32 s t ∧ OnlyChanges [.reached, .regs, .assayWin, .out] s t)
      ∧ (OwnerTurn port master (.assayPolicyWrite (.mgmt port master) 0x050 v) s → Answers (.assayPolicyWrite (.mgmt port master) 0x050 v) s fun t =>
        reg rPOLICY t = (v &&& 0x7F1#32) ||| (if fieldOf v 4 4 = 0 then 0x10#32 else 0#32) ∧ t.assayWin = (if bitOf v 10 = bitOf (reg rPOLICY s) 10 then s.assayWin else [])
          ∧ RegsKeep [rPOLICY] s t ∧ Answered port master 0#32 s t ∧ OnlyChanges [.reached, .regs, .assayWin, .out] s t)
      ∧ (∀ off, off = 0x054 ∨ off = 0x058 → OwnerTurn port master (.assayPolicyWrite (.mgmt port master) off v) s →
        Answers (.assayPolicyWrite (.mgmt port master) off v) s fun t => reg (0x0B000 + off) t = v &&& 0xFFFF#32 ∧ RegsKeep [0x0B000 + off] s t
          ∧ Answered port master 0#32 s t ∧ OnlyChanges [.reached, .regs, .out] s t)
      ∧ ∀ p off, p < 8 → hasPlane p s = true → off = 0x044 ∨ off = 0x048 ∨ off = 0x04C → OwnerTurn port master (.spillPoolWrite (.mgmt port master) p off v) s →
        Answers (.spillPoolWrite (.mgmt port master) p off v) s fun t => Answered port master 0#32 s t
          ∧ reg (pageBase (pPLANE p) + off) t = (if (planeAt p s).pool ≠ [] then reg (pageBase (pPLANE p) + off) s
              else v &&& (if off = 0x044 then 0xFFFFF000#32 else if off = 0x048 then 0x1FFFFFF#32 else 0xFFFFFF#32))
          ∧ RegsKeep [pageBase (pPLANE p) + off] s t ∧ OnlyChanges [.reached, .regs, .out] s t

/-- The tables behind selectors, the assay's and the spill registers. -/
def Obligations.TableWrites : Prop := Claims.SelectedTables ∧ Claims.AssayAndSpillSettings

/-! ### Topology, groups, lines, ring credits (R272, R274, R297, R307, R321, R434) -/

/-- The definition breaks R274. -/
def BreaksR274 (g : GroupDef) (s : State) : Prop :=
  (∃ a ∈ gAxes g, gHi g a < gLo g a ∨ axisSize a s ≤ gHi g a ∨ axesN s ≤ a) ∨ 4096 < gN g ∨ (1 < (gAxes g).length ∧ gLen g (gTop g) % 2 = 1)

/-- Topology registers: while a link is not DOWN a write is refused with 0x29 and the register keeps its value; with every link DOWN, SELF takes its coordinates, AXES its count where no VALID definition stands, and a port map entry an ABSENT mark, with the interrupt of a port that is absent from then on only, or is refused for an axis that AXES does not reach. -/
def Claims.TopologyWrites : Prop :=
  ∀ (port master : Nat) (v : Word) (s : State), s.tablesWf = true → LogRoom s →
    (∀ off, off % 4 = 0 → (0x040 ≤ off ∧ off ≤ 0x054) ∨ (0x060 ≤ off ∧ off ≤ 0x07C) → anyLinkUp s = true →
      OwnerTurn port master (.topologyWrite (.mgmt port master) off v) s → Answers (.topologyWrite (.mgmt port master) off v) s fun t =>
        reg (0x20000 + off) t = reg (0x20000 + off) s ∧ Logged 0x29 0 0x0000#16 s t ∧ Answered port master 0#32 s t ∧ OnlyChanges [.reached, .regs, .setNow, .log, .out] s t)
      ∧ (anyLinkUp s = false →
        (OwnerTurn port master (.topologyWrite (.mgmt port master) 0x054 v) s → Answers (.topologyWrite (.mgmt port master) 0x054 v) s fun t =>
          reg rSELF t = v &&& 0x3F3F3F3F#32 ∧ RegsKeep [rSELF] s t ∧ Answered port master 0#32 s t ∧ OnlyChanges [.reached, .regs, .out] s t)
        ∧ (OwnerTurn port master (.topologyWrite (.mgmt port master) 0x040 v) s → 1 ≤ fieldOf v 0 3 → fieldOf v 0 3 ≤ 4 → (∀ x ∈ s.groups, gValid x.2 = false) →
          Answers (.topologyWrite (.mgmt port master) 0x040 v) s fun t =>
            axesN t = fieldOf v 0 3 ∧ RegsKeep [rAXES] s t ∧ Answered port master 0#32 s t ∧ OnlyChanges [.reached, .regs, .out] s t)
        ∧ ∀ n, n < 8 → OwnerTurn port master (.topologyWrite (.mgmt port master) (0x060 + 4 * n) v) s → defaultsUsed s = false →
          Answers (.topologyWrite (.mgmt port master) (0x060 + 4 * n) v) s fun t => Answered port master 0#32 s t ∧
            (bitOf v 3 = true → reg (rPORTMAP n) t = v &&& 0xF#32 ∧ RegsKeep [rPORTMAP n, rIrqRaw (pRING n)] s t
                ∧ (n < s.build.ringPorts → portAbsent n s = false → (reg (rIrqRaw (pRING n)) t).getLsbD 0 = true) ∧ t.log = s.log)
              ∧ (bitOf v 3 = false → axesN s ≤ fieldOf v 0 2 → reg (rPORTMAP n) t = reg (rPORTMAP n) s ∧ Logged 0x29 0 0x0000#16 s t)
              ∧ OnlyChanges [.reached, .regs, .setNow, .log, .out] s t)

/-- GROUP_CFG and UNFENCE of the selected definition: a definition becomes VALID, unfenced and with LEG_SEQ 0, only where it keeps R274 and has a WEIGHT; its other fields change only while it is not VALID; a clearing of VALID is refused while a leg or an enabled line uses it; a fence is lifted only where every port that the definition uses is UP, and where this chip is no member, and so uses none, in any case. Each refusal is 0x29. -/
def Claims.GroupDefinitions : Prop :=
  ∀ (port master : Nat) (v : Word) (s : State), s.tablesWf = true → LogRoom s →
    let i := groupSel 0 s
    let g := groupAt i s
    let w := v &&& 0xF3F1#32
    (OwnerTurn port master (.groupCfgWrite (.mgmt port master) v) s → Answers (.groupCfgWrite (.mgmt port master) v) s fun t =>
      Answered port master 0#32 s t ∧ (∀ k, k ≠ i → groupAt k t = groupAt k s) ∧ OnlyChanges [.reached, .groups, .regs, .setNow, .log, .out] s t
        ∧ (gValid g = true → w = g.cfg → t.groups = s.groups ∧ t.log = s.log)
        ∧ (gValid g = true → w ||| 1#32 ≠ g.cfg ∨ legActive i s = true ∨ lineUses i s = true → w ≠ g.cfg → t.groups = s.groups ∧ Logged 0x29 0 0x0000#16 s t)
        ∧ (gValid g = true → w ≠ g.cfg → w ||| 1#32 = g.cfg → legActive i s = false → lineUses i s = false → groupAt i t = { g with cfg := w } ∧ t.log = s.log)
        ∧ (gValid g = false → bitOf v 0 = false → groupAt i t = { g with cfg := w } ∧ t.log = s.log)
        ∧ (gValid g = false → bitOf v 0 = true → BreaksR274 { g with cfg := w } s ∨ gWeight { g with cfg := w } = 0 →
            groupAt i t = { g with cfg := w &&& 0xFFFFFFFE#32 } ∧ Logged 0x29 0 0x0000#16 s t)
        ∧ (gValid g = false → bitOf v 0 = true → ¬ BreaksR274 { g with cfg := w } s → gWeight { g with cfg := w } ≠ 0 →
            groupAt i t = { g with cfg := w, fenced := false, legSeq := 0#16 } ∧ t.log = s.log))
      ∧ (OwnerTurn port master (.unfence (.mgmt port master)) s → Answers (.unfence (.mgmt port master)) s fun t => Answered port master 0#32 s t ∧
        ((gMember g s = false ∨ (∀ p ∈ groupPorts g s, ∃ n, p = some n ∧ (linkAt n s).state = 2) → groupAt i t = { g with fenced := false, legSeq := 0#16 } ∧ t.log = s.log)
          ∧ (gMember g s = true → (∃ p ∈ groupPorts g s, ∀ n, p = some n → (linkAt n s).state ≠ 2) → t.groups = s.groups ∧ Logged 0x29 0 0x0000#16 s t))
          ∧ (∀ k, k ≠ i → groupAt k t = groupAt k s) ∧ OnlyChanges [.reached, .groups, .regs, .setNow, .log, .out] s t)

/-- Topology registers and group definitions. -/
def Obligations.TopologyAndGroups : Prop := Claims.TopologyWrites ∧ Claims.GroupDefinitions

/-- What R321 refuses when a line's ENABLE is set. -/
def LineRefused (n : Nat) (c : Word) (s : State) : Prop :=
  (lineMembers n s = [] ∧ lBoard c = false ∧ lXchip c = false)
    ∨ (lBoard c = true ∧ ∃ m, m < 16 ∧ m ≠ n ∧ lEnable (lineAt m s).cfg = true ∧ lBoard (lineAt m s).cfg = true ∧ lBoardLine (lineAt m s).cfg = lBoardLine c)
    ∨ (lXchip c = true ∧ (gValid (groupAt (lGroup c) s) = false ∨ gMember (groupAt (lGroup c) s) s = false ∨ groupAbsent (groupAt (lGroup c) s) s = true))

/-- LINE_CFG of the selected line: its other fields change only while ENABLE is 0, else a write that would change them is counted in CFG_REFUSED; setting ENABLE makes the checks of R321; an enabled line is armed; clearing ENABLE discards the line's state, and every BELL_IN of the line that is high is to fall at the next first edge. -/
def Claims.LineConfiguration : Prop :=
  ∀ (port master : Nat) (v : Word) (s : State), s.tablesWf = true → OwnerTurn port master (.lineCfgWrite (.mgmt port master) v) s →
    let n := lineSel 0 s
    let l := lineAt n s
    let w := v &&& 0xFF3F#32
    let refused (t : State) := reg rCFG_REFUSED t = satAdd (reg rCFG_REFUSED s) 1 ∧ (reg (rIrqRaw pBELL) t).getLsbD 3 = true
    Answers (.lineCfgWrite (.mgmt port master) v) s fun t => Answered port master 0#32 s t ∧ (∀ m, m ≠ n → lineAt m t = lineAt m s)
      ∧ RegsKeep [rCFG_REFUSED, rIrqRaw pBELL] s t ∧ OnlyChanges [.reached, .lines, .links, .stalls, .regs, .setNow, .out] s t
      ∧ (lEnable l.cfg = true → (w ||| 1#32 ≠ l.cfg → refused t) ∧ (w ||| 1#32 = l.cfg → t.regs = s.regs)
          ∧ (bitOf v 0 = true → t.lines = s.lines)
          ∧ (bitOf v 0 = false → lineAt n t = { Line.idle with cfg := l.cfg &&& 0xFFFFFFFE#32 } ∧ ∀ m, n < 16 → (stallAt m s).bellIn.getLsbD n = true → (stallAt m t).bellLow.getLsbD n = true))
      ∧ (lEnable l.cfg = false → bitOf v 0 = false → lineAt n t = { l with cfg := w } ∧ t.regs = s.regs)
      ∧ (lEnable l.cfg = false → bitOf v 0 = true → LineRefused n w s → lineAt n t = { l with cfg := w &&& 0xFFFFFFFE#32 } ∧ refused t)
      ∧ (lEnable l.cfg = false → bitOf v 0 = true → ¬ LineRefused n w s →
          (lineAt n t).cfg = w ∧ (lineAt n t).armed = true ∧ (lineAt n t).gen = 0#16 ∧ (lineAt n t).ondie = false ∧ (lineAt n t).maps = mergeKept 0 l.kept [0, 0, 0, 0] ∧ t.regs = s.regs)

/-- Ring credits, weights and caps: a credit that would bring the four above 2,048 is refused with 0x29; a weight of 0 is taken as 1; a cap of 0 as 1, one above 256 as 256. -/
def Claims.RingCredits : Prop :=
  ∀ (port master p i : Nat) (v : Word) (s : State), s.tablesWf = true → LogRoom s → hasPort p s = true → p < 8 →
    (i < 4 → OwnerTurn port master (.ringCreditWrite (.mgmt port master) p (0x060 + 4 * i) v) s →
      let others := (((List.range 4).filter fun j => j != i).map fun j => regNat (rCREDIT p j) s).sum
      Answers (.ringCreditWrite (.mgmt port master) p (0x060 + 4 * i) v) s fun t => Answered port master 0#32 s t ∧
        (if 2048 < others + fieldOf v 0 12 then reg (rCREDIT p i) t = reg (rCREDIT p i) s ∧ Logged 0x29 0 (source 2 p) s t
         else regNat (rCREDIT p i) t = fieldOf v 0 12 ∧ RegsKeep [rCREDIT p i] s t ∧ t.log = s.log) ∧ OnlyChanges [.reached, .regs, .setNow, .log, .out] s t)
      ∧ (i < 3 → OwnerTurn port master (.ringCreditWrite (.mgmt port master) p (0x070 + 4 * i) v) s →
        Answers (.ringCreditWrite (.mgmt port master) p (0x070 + 4 * i) v) s fun t => regNat (pageBase (pRING p) + 0x070 + 4 * i) t = max 1 (fieldOf v 0 4)
          ∧ RegsKeep [pageBase (pRING p) + 0x070 + 4 * i] s t ∧ Answered port master 0#32 s t ∧ OnlyChanges [.reached, .regs, .out] s t)
      ∧ (i < 4 → OwnerTurn port master (.ringCreditWrite (.mgmt port master) p (0x080 + 4 * i) v) s →
        Answers (.ringCreditWrite (.mgmt port master) p (0x080 + 4 * i) v) s fun t => regNat (pageBase (pRING p) + 0x080 + 4 * i) t = min 256 (max 1 (fieldOf v 0 9))
          ∧ RegsKeep [pageBase (pRING p) + 0x080 + 4 * i] s t ∧ Answered port master 0#32 s t ∧ OnlyChanges [.reached, .regs, .out] s t)

/-- LINE_CFG, and ring credits, weights and caps. -/
def Obligations.LinesAndCredits : Prop := Claims.LineConfiguration ∧ Claims.RingCredits

/-! ### Fetches, decoding, starts (R242, R243, R248, R253, R254, R261, R262) -/

/-- A due fetch that no more urgent queue is ahead of issues one urgent read of its slot alone (log 20), with the lowest free identifier (log 19), 64 bytes at DESC_BASE + 64 times the slot; outside every enabled window it is not issued and 0x63 is found (log 49); a fetch's error, once it is due, is logged and halts the queue, and the slot is to be fetched again. -/
def Claims.DescriptorFetches : Prop :=
  ∀ (q cyc i : Nat) (s : State), s.tablesWf = true → alive s = true → s.clock.due = [] → fetchDue (queueAt q s) = true → fetchYields q s = false →
    (∀ f ∈ (queueAt q s).fetched, f.slot ≠ (queueAt q s).nextFetch) → memHas (.descFetch q (queueAt q s).nextFetch 1) s = false →
    memCan false true ((queueAt q s).descBase + 64 * (queueAt q s).nextFetch) 64 s = true → freeId false s = some i →
    let qs := queueAt q s
    let a := qs.descBase + 64 * qs.nextFetch
    Answers (.descriptorFetch q cyc) s fun t => (∀ r, r ≠ q → queueAt r t = queueAt r s) ∧ queueAt q t = { qs with nextFetch := (qs.nextFetch + 1) % queueSize qs } ∧
      (if inWindow a 64 s = true then
        t.out = s.out ++ [.memRead i a 2 0 true]
          ∧ t.mem = s.mem ++ [⟨false, i, a, 2, true, .descFetch q qs.nextFetch 1, s.clock.now, [], false, false⟩] ∧ OnlyChanges [.queues, .mem, .out] s t
       else Found (.memory (.descFetch q qs.nextFetch 1) 0x63 0 a) s t ∧ OnlyChanges [.queues, .found] s t)

/-- An error of a descriptor's fetch takes effect in its place of class 2, here before a command that itself does nothing: it is logged, LAST_ERR keeps it with the identifier, the queue halts with the code, and the slot is to be fetched again (log 49; R52, R215, R217). -/
def Claims.FetchErrors : Prop :=
  ∀ (n q slot k code i a : Nat) (s : State), s.tablesWf = true → n < 16 → (lineAt n s).rangAt = none → LogRoom s → code ∈ [0x60, 0x61, 0x63] →
    s.clock.due = [(duePlace (.memory (.descFetch q slot k) code i a), .memory (.descFetch q slot k) code i a)] → (queueAt q s).state ≠ 2 →
    Answers (.bellRearm n) s fun t => queueAt q t = { queueAt q s with nextFetch := slot, state := 2, err := BitVec.ofNat 8 code } ∧ (∀ r, r ≠ q → queueAt r t = queueAt r s)
      ∧ Logged code 0 0x3000#16 s t ∧ reg rLAST_ERR t = BitVec.ofNat 32 (code + 256 * i) ∧ OnlyChanges [.reached, .due, .queues, .regs, .setNow, .log] s t

/-- Decoding: the first undecoded entry of a slot takes the code of its static checks and the cycle of its decoding; on a queue of standing orders a slot that passes is pinned in slot order as its checks end (log 21) while the store of 512 has room, and fails with 0x5B where it has none. -/
def Claims.DescriptorDecodes : Prop :=
  ∀ (q slot : Nat) (f : Fetched) (s : State), s.tablesWf = true → alive s = true → s.clock.due = [] →
    ((queueAt q s).fetched.find? fun f => f.slot == slot && f.decoded.isNone) = some f →
    let qs := queueAt q s
    let code := staticCheck s qs f.words
    let marked (c : Nat) := qs.fetched.map fun x => if x.slot = slot then { x with decoded := some (BitVec.ofNat 8 c), decodedAt := s.clock.fclk } else x
    Answers (.descriptorDecode q slot) s fun t => (∀ r, r ≠ q → queueAt r t = queueAt r s) ∧ OnlyChanges [.queues, .orders] s t ∧
      (if qStanding qs = false then queueAt q t = { qs with fetched := marked code } ∧ t.orders = s.orders
       else if slot ≠ qs.nextStart then t.queues = s.queues ∧ t.orders = s.orders
       else if code = 0 ∧ s.orders.length < 512 then
        t.orders = s.orders ++ [⟨q, slot, f.words, 0, false⟩] ∧ (queueAt q t).nextStart = slot + 1 ∧ ∀ x ∈ (queueAt q t).fetched, x.slot ≠ slot
       else queueAt q t = { qs with nextStart := slot + 1, fetched := marked (if code = 0 then 0x5B else code) } ∧ t.orders = s.orders)

/-- Fetches, their errors, and decoding. -/
def Obligations.DescriptorsArrive : Prop := Claims.DescriptorFetches ∧ Claims.FetchErrors ∧ Claims.DescriptorDecodes

/-- The tallies that a descriptor's trigger consumes as it starts (R254): the threshold from every tested tally where it acts as a TAKE. -/
def TriggerTaken (d : List Word) (members : List Nat) (take : Bool) (s t : State) : Prop :=
  ∀ n j, j < 64 → tally n j t =
    if dTrigEn d = true ∧ take = true ∧ j = dTrigTally d ∧ n ∈ (if dTrigMembers d = true then members else [dTrigStall d]) then tally n j s - dThreshold d else tally n j s

/-- What joins the operations in progress as a descriptor without ring leg starts. -/
def Started (q slot run : Nat) (d : List Word) (s t : State) : Prop :=
  ∃ o : Op, t.ops = s.ops ++ [o] ∧ o.id = ⟨q, slot, run⟩ ∧ o.d = d ∧ o.members = opMembers (queueAt q s) d s ∧ o.startT = s.clock.transit
    ∧ o.pos = dDicePos d + BitVec.ofNat 32 run ∧ o.fail = none ∧ o.claim = (if namesLedger (dOp d) then .starting else .none)

/-- The head descriptor of a queue starts where R253 lets it, under DESCRIPTOR_START or the row of its operation: it joins the operations, its trigger consumes what it takes, and the queue passes to the next slot; one that failed its static checks fails with their code; FENCE does not start while an earlier descriptor of its queue is live; a ring leg takes the definition's next LEG_SEQ, or fails with 0x25 where the definition is FENCED; nothing starts while the fabric is FENCED. -/
def Claims.DescriptorStarts : Prop :=
  ∀ (q : Nat) (f : Fetched) (c : Instr) (s : State), s.tablesWf = true → serving s = true → qRuns (queueAt q s) = true → headDesc (queueAt q s) s.clock.fclk = some f →
    c = .descriptorStart q ∨ (c = .barrier q ∧ dOp f.words = oBARRIER) ∨ (c = .fence q ∧ dOp f.words = oFENCE) → applies c s = true →
    (∀ o ∈ s.ops, o.id ≠ ⟨q, f.slot, 0⟩) →
    let qs := queueAt q s
    let d := f.words
    (f.decoded = some 0#8 → qStanding qs = false → dRingLeg d = 0 → startReady q d s = true → startOpen q d s = true → Answers c s fun t =>
      Started q f.slot 0 d s t ∧ TriggerTaken d (opMembers qs d s) (dTrigTake d) s t ∧ (queueAt q t).nextStart = (f.slot + 1) % queueSize qs
        ∧ (∀ x ∈ (queueAt q t).fetched, x.slot ≠ f.slot) ∧ (∀ r, r ≠ q → queueAt r t = queueAt r s)
        ∧ OnlyChanges [.reached, .found, .clock, .ops, .queues, .tallies, .regs, .setNow] s t)
      ∧ (∀ k, f.decoded = some k → k ≠ 0#8 → qStanding qs = false → Answers c s fun t =>
        (∃ o : Op, t.ops = s.ops ++ [o] ∧ o.id = ⟨q, f.slot, 0⟩ ∧ o.fail = some (k, s.clock.transit)) ∧ t.tabs = s.tabs
          ∧ (queueAt q t).nextStart = (f.slot + 1) % queueSize qs)
      ∧ (f.decoded = some 0#8 → qStanding qs = false → dRingLeg d ≠ 0 → startReady q d s = true → startOpen q d s = true → Answers c s fun t =>
        let tg := lgGroup d
        let g := groupAt tg s
        ∃ o : Op, t.ops = s.ops ++ [o] ∧ o.id = ⟨q, f.slot, 0⟩ ∧ o.d = d ∧
          (if g.fenced then o.fail = some (0x25#8, s.clock.transit) ∧ t.groups = s.groups
           else legSpecBad qs d s = false → dOp d ≠ oALLTOALL → 1 < gN g →
            (∃ l : Leg, o.leg = some l ∧ l.tgroup = tg ∧ l.seq = g.legSeq ∧ l.n = gN g ∧ l.pos = gPos g s ∧ l.attempt = 0) ∧ (groupAt tg t).legSeq = g.legSeq + 1))
      ∧ (f.decoded = some 0#8 → s.clock.fenced = true ∨ (dOp d = oFENCE ∧ liveOps q s ≠ 0) → Answers c s fun t => OnlyChanges [.reached] s t)

/-- A pinned order starts a run where its trigger holds and its last run has ended: the trigger is a TAKE whatever TRIG_TAKE says, the run's dice position is DICE_POS plus its number, and the next run's number is one more. -/
def Claims.StandingRuns : Prop :=
  ∀ (q slot : Nat) (o : Order) (s : State), s.tablesWf = true → serving s = true → qRuns (queueAt q s) = true → qStanding (queueAt q s) = true →
    (s.orders.find? fun o => o.queue == q && o.slot == slot) = some o → applies (.standingRun q slot) s = true → (∀ x ∈ s.ops, x.id ≠ ⟨q, slot, o.run⟩) →
    let d := o.words
    (o.unpin = false → orderBusy q slot s = false → dRingLeg d = 0 → startReady q d s = true → startOpen q d s = true → Answers (.standingRun q slot) s fun t =>
      Started q slot o.run d s t ∧ TriggerTaken d (opMembers (queueAt q s) d s) true s t ∧ (queueAt q t).runs = (queueAt q s).runs + 1
        ∧ (t.orders.find? fun o => o.queue == q && o.slot == slot) = some { o with run := o.run + 1 }
        ∧ OnlyChanges [.reached, .found, .clock, .ops, .queues, .orders, .tallies, .regs, .setNow] s t)
      ∧ (o.unpin = true ∨ orderBusy q slot s = true → Answers (.standingRun q slot) s fun t => OnlyChanges [.reached] s t)

/-- Starts of descriptors and of standing orders. -/
def Obligations.OperationsStart : Prop := Claims.DescriptorStarts ∧ Claims.StandingRuns

/-! ### The memory port (R45 to R52, R269, R411) -/

/-- Nothing waits for the port: no record but one of this queue and slot, no partial page, no size table. -/
def PortQuiet (q slot : Nat) (s : State) : Prop :=
  (∀ x ∈ s.queues, x.2.records = [] ∨ (x.1 = q ∧ ∃ b, x.2.records = [(slot, b)])) ∧ ∀ o ∈ s.ops, o.poolPages = [] ∧ o.sizesPending = false

/-- Read data: a beat that is not the last adds the sectors of its lanes, in address order; the last beat ends the request, and a descriptor fetch puts its 16 words into the queue's slot; with MEM_R_ERR or a poisoned sector in any of its beats nothing is delivered, and 0x60 or 0x61 is found; what comes after MEMPORT.TIMEOUT is discarded, and with its last beat 0x62 is found (log 53). -/
def Claims.MemoryReads : Prop :=
  ∀ (id : BitVec 8) (data : BitVec 1024) (poison : BitVec 4) (cyc : Nat) (r : MemReq) (s : State), s.tablesWf = true → alive s = true → s.clock.due = [] →
    (s.mem.find? fun r => !r.write && r.id == id.toNat) = some r →
    let lane := (r.addr + r.got.length) / 32 % 4
    let n := min (4 - lane) (r.sectors - r.got.length / 32)
    let got := r.got ++ leBytes (32 * n) (data.toNat / 2 ^ (256 * lane))
    (timedOut r s = true → Answers (.memReadData id data poison false true cyc) s fun t =>
      Found (.memory r.purpose 0x62 id.toNat r.addr) s t ∧ (∀ x ∈ t.mem, x.write = true ∨ x.id ≠ id.toNat) ∧ OnlyChanges [.mem, .found] s t)
    ∧ (timedOut r s = false → (Answers (.memReadData id data poison false false cyc) s fun t =>
      (∃ r' : MemReq, (t.mem.find? fun r => !r.write && r.id == id.toNat) = some r' ∧ r'.got = got ∧ r'.purpose = r.purpose) ∧ OnlyChanges [.mem, .ops] s t)
      ∧ (∀ q slot k, r.purpose = .descFetch q slot k → r.err = false → r.poisoned = false → (∀ j, j < n → poison.getLsbD (lane + j) = false) → (queueAt q s).state ≠ 0 →
          Answers (.memReadData id data poison false true cyc) s fun t =>
            queueAt q t = { queueAt q s with fetched := (queueAt q s).fetched ++ [⟨slot, (List.range 16).map fun i => word32At got (4 * i), none, 0⟩] }
              ∧ (∀ x ∈ t.mem, x.write = true ∨ x.id ≠ id.toNat) ∧ (∀ p, p ≠ q → queueAt p t = queueAt p s) ∧ OnlyChanges [.queues, .mem, .counts] s t)
      ∧ ∀ err, (r.err || err) = true ∨ r.poisoned = true ∨ (∃ j, j < n ∧ poison.getLsbD (lane + j) = true) →
          Answers (.memReadData id data poison err true cyc) s fun t =>
            Found (.memory r.purpose (if r.err || err then 0x60 else 0x61) id.toNat r.addr) s t ∧ (∀ x ∈ t.mem, x.write = true ∨ x.id ≠ id.toNat)
              ∧ OnlyChanges [.mem, .ops, .counts, .found] s t)

/-- Write responses and timeouts, with nothing else waiting for the port: a SAVE's write is counted off; a record's takes HEAD past its slot, over the lap at the ring's end; with MEM_B_ERR HEAD stays, the record is kept (log 49) and 0x64 is found; a record's response that comes after MEMPORT.TIMEOUT is discarded, and 0x65 is found; a read that has waited MEMPORT.TIMEOUT halts its queue with 0x62 and keeps its identifier for the late data (log 53). -/
def Claims.MemoryWrites : Prop :=
  ∀ (id : BitVec 8) (r : MemReq) (s : State), s.tablesWf = true → alive s = true → s.clock.due = [] →
    (∀ oid o v, (s.mem.find? fun r => r.write && r.id == id.toNat) = some r → r.purpose = .saveWrite oid → timedOut r s = false → opAt oid s = some o → o.save = some v →
      PortQuiet 0 0 s → (∀ x ∈ s.queues, x.2.records = []) → Answers (.memWriteResponse id false) s fun t =>
        opAt oid t = some { o with progress := true, save := some { v with issued := v.issued - 1 } } ∧ (∀ x ∈ t.mem, x.write = false ∨ x.id ≠ id.toNat)
          ∧ OnlyChanges [.ops, .mem] s t)
      ∧ (∀ q slot b, (s.mem.find? fun r => r.write && r.id == id.toNat) = some r → r.purpose = .record q slot → (queueAt q s).records = [(slot, b)] →
        PortQuiet q slot s → qStanding (queueAt q s) = false → slot = (queueAt q s).head → (queueAt q s).written = [] →
        (∀ err, timedOut r s = true → Answers (.completionRecordWrite id err) s fun t =>
          Found (.memory (.record q slot) 0x65 id.toNat r.addr) s t ∧ t.mem = s.mem.filter (fun x => !(x.write && x.id == id.toNat)) ∧ OnlyChanges [.mem, .found] s t)
        ∧ (timedOut r s = false → Answers (.completionRecordWrite id false) s fun t =>
          (queueAt q t).head = (slot + 1) % queueSize (queueAt q s) ∧ (queueAt q t).records = []
            ∧ (queueAt q t).lap = (if slot + 1 = queueSize (queueAt q s) then !(queueAt q s).lap else (queueAt q s).lap)
            ∧ (∀ p, p ≠ q → queueAt p t = queueAt p s) ∧ (∀ x ∈ t.mem, x.write = false ∨ x.id ≠ id.toNat) ∧ OnlyChanges [.queues, .mem] s t)
        ∧ (timedOut r s = false → Answers (.completionRecordWrite id true) s fun t =>
          Found (.memory (.record q slot) 0x64 id.toNat r.addr) s t ∧ t.mem = s.mem.filter (fun x => !(x.write && x.id == id.toNat)) ∧ OnlyChanges [.mem, .found] s t))
      ∧ ∀ q slot k, (s.mem.find? fun r => r.write == false && r.id == id.toNat) = some r → r.purpose = .descFetch q slot k → PortQuiet 0 0 s →
        (∀ x ∈ s.queues, x.2.records = []) → LogRoom s → (queueAt q s).state ≠ 2 → applies (.memTimeout false id) s = true → Answers (.memTimeout false id) s fun t =>
          if s.clock.now < r.issuedAt + regNat rTIMEOUT s * unitsUs then OnlyChanges [.reached] s t
          else queueAt q t = { queueAt q s with nextFetch := slot, state := 2, err := 0x62#8 } ∧ Logged 0x62 0 0x3000#16 s t
            ∧ reg rLAST_ERR t = BitVec.ofNat 32 (0x62 + 256 * id.toNat) ∧ r ∈ t.memLate ∧ OnlyChanges [.reached, .queues, .mem, .memLate, .regs, .setNow, .log] s t

/-- Read data, write responses and timeouts. -/
def Obligations.MemoryResponses : Prop := Claims.MemoryReads ∧ Claims.MemoryWrites

/-! ### Contributions and outputs (R27 to R31, R116, R117, R128 to R134, R147, R178 to R180, R251, R252, R257 to R259, R290, R291, R342) -/

/-- A beat on an up port: not accepted, the tile holds it; accepted of a contributor whose requested attempt it continues, it is stored at its chunk and beat and counted, and one of an attempt before is counted and discarded; one that breaks R20 or R30, of a member that does not contribute, or on a wrong plane after the attempt, is accepted and 0x5A is found, from the queue engine (log 22); what else follows the attempt is held (log 44). -/
def Claims.UpPortBeats : Prop :=
  ∀ (stall p : Nat) (tag : BitVec 12) (chunk : BitVec 24) (last : Bool) (data : BitVec 512) (scale : BitVec 32) (cyc : Nat) (s : State), s.allWf = true → s.clock.due = [] →
    hasStall stall s = true → hasPlane p s = true → p < 8 →
    let c : Instr := .upBeat stall p tag chunk last data scale cyc
    let k := chunk.toNat
    let taken (t : State) := (stallAt stall t).upValid.getLsbD p = false ∧ (stallAt stall t).upBeats = (stallAt stall s).upBeats + 1 ∧ StallsKeep stall s t
    let held := Answers c s fun t => (stallAt stall t).upValid.getLsbD p = true ∧ (stallAt stall t).upBeats = (stallAt stall s).upBeats ∧ StallsKeep stall s t ∧ OnlyChanges [.stalls] s t
    (upOn p (s.clock.fclk + cyc) s = false → held)
      ∧ ∀ o : Op, upOn p (s.clock.fclk + cyc) s = true → dropFor stall p tag.toNat s = none → upOpFor stall p tag.toNat s = some o → o.claim = .claimed →
        let v := progAt o stall p
        let fails := Answers c s fun t => taken t ∧ Found (.failed o.id 0x5A queueSource) s t ∧ OnlyChanges [.stalls, .found] s t
        (stall ∉ contributors o → fails)
        ∧ (stall ∈ contributors o → progDone v = true → if astray o stall p k s then fails else held)
        ∧ (stall ∈ contributors o → progDone v = false →
          (beatBad o v p k last = true → fails)
          ∧ (maskPlane o.planes k ≠ p ∨ upChunks o.d ≤ k ∨ k ∈ v.done → fails)
          ∧ (beatBad o v p k last = false → v.attempt = v.want → Answers c s fun t => taken t
            ∧ (∃ o' : Op, opAt o.id t = some o' ∧ beatOfOp o' stall k (beatNo v k) = some ⟨data, scale⟩ ∧ o'.fail = none) ∧ (∀ i, i ≠ o.id → opAt i t = opAt i s) ∧ OnlyChanges [.stalls, .ops] s t)
          ∧ (beatBad o v p k last = false → v.attempt < v.want → Answers c s fun t => taken t ∧ (stallAt stall t).discarded = satAdd (stallAt stall s).discarded 1
            ∧ (∃ o' : Op, opAt o.id t = some o' ∧ o'.beats = o.beats ∧ o'.fail = none) ∧ (∀ i, i ≠ o.id → opAt i t = opAt i s) ∧ OnlyChanges [.stalls, .ops] s t))

/-- A failure that a beat caused takes effect in its place of class 2, here before a command that itself does nothing: the operation has failed in this transit with 0x5A, which is logged, and holds no beats and no up phase (R215, R217, R257). -/
def Claims.FoundFailures : Prop :=
  ∀ (n : Nat) (id : OpId) (o : Op) (s : State), s.allWf = true → n < 16 → (lineAt n s).rangAt = none → LogRoom s → opAt id s = some o → o.fail = none →
    s.clock.due = [(duePlace (.failed id 0x5A queueSource), .failed id 0x5A queueSource)] → Answers (.bellRearm n) s fun t =>
      (∃ o' : Op, opAt id t = some o' ∧ o'.fail = some (0x5A#8, s.clock.transit) ∧ o'.beats = [] ∧ o'.upOpen = []) ∧ Logged 0x5A 0 0xA000#16 s t ∧ (∀ i, i ≠ id → opAt i t = opAt i s)

/-- Beats on the up ports, and a failure that one has caused. -/
def Obligations.UpBeats : Prop := Claims.UpPortBeats ∧ Claims.FoundFailures

/-- Up phases: one opens where no other operation holds the plane against it and none that waits ahead wants it, and its members stop discarding the tag; it does not open while another operation that shares a stall has its own open there, nor where 64 operations stream on the plane; it closes once every contributor has presented its whole attempt on the plane. -/
def Obligations.UpPhases : Prop :=
  ∀ (id : OpId) (p : Nat) (o : Op) (s : State), s.allWf = true → serving s = true → s.clock.due = [] → opAt id s = some o → runs o = true →
    (upMayOpen o p s = true → streamsOn p s o = false → streamRoom p s = false → Answers (.upPhaseOpen id p) s fun t => OnlyChanges [] s t) ∧
    (upMayOpen o p s = true → streamRoom p s = true → Answers (.upPhaseOpen id p) s fun t =>
      (∃ o' : Op, opAt id t = some o' ∧ (if planeChunks o p = [] then p ∉ o'.upOpen ∧ p ∈ o'.upDone else p ∈ o'.upOpen))
        ∧ (∀ n ∈ contributors o, ∀ x ∈ (stallAt n t).dropTags, x.1 ≠ dLedger o.d) ∧ (∀ i, i ≠ id → opAt i t = opAt i s) ∧ OnlyChanges [.ops, .stalls] s t)
      ∧ (∀ x ∈ s.ops, x.id ≠ id → p ∈ x.upOpen → sharesStall o x = true → Answers (.upPhaseOpen id p) s fun t => OnlyChanges [] s t)
      ∧ (p ∈ o.upOpen → (∀ n ∈ contributors o, progDone (progAt o n p) = true) → Answers (.upPhaseClose id p) s fun t =>
        (∃ o' : Op, opAt id t = some o' ∧ p ∉ o'.upOpen ∧ p ∈ o'.upDone) ∧ (∀ i, i ≠ id → opAt i t = opAt i s) ∧ OnlyChanges [.ops] s t)
      ∧ (planeChunks o p ≠ [] → (∃ n ∈ contributors o, progDone (progAt o n p) = false) → Answers (.upPhaseClose id p) s fun t => OnlyChanges [] s t)

/-- What a tree sum leaves in its operation: each element's sum added to its accumulator, the beats consumed. -/
def Summed (o o' : Op) (l : Ledger) (chunk beat : Nat) (s : State) : Prop :=
  tget 0 (chunk * 64 + beat) o'.summed = 1 ∧ (∀ n ∈ o.members, beatOfOp o' n chunk beat = none)
    ∧ (∀ i, i < beatElems o.d chunk beat →
        tget none (beatBase o.d chunk beat + i) o'.fresh = some (accAdd (intPath l.fmt) (tget 0#64 (beatBase o.d chunk beat + i) l.acc) (treeSumOf o l chunk beat i s).1).1)
    ∧ ∀ e, (∀ i, i < beatElems o.d chunk beat → e ≠ beatBase o.d chunk beat + i) → tget none e o'.fresh = tget none e o.fresh

/-- A tree sum: once every contributor's beat has come and its turn at the exchange is there (R14), each of its elements is the sum of the members' leaves in the fixed tree of R116, added to the ledger's accumulator and kept with the operation until the seal; the beats are consumed, the exchange has been served from that cycle on for as long as the beat takes (one cycle; a carry beat of the compensated mode one for each 64 of its elements, R18), and no ledger changes. -/
def Claims.TreeSums : Prop :=
  ∀ (id : OpId) (chunk beat cyc : Nat) (o : Op) (s : State), s.allWf = true → serving s = true → s.clock.due = [] → opAt id s = some o → runs o = true → isSum (dOp o.d) = true →
    o.claim = .claimed → limbsOf o.d = 1 → o.poolPages = [] → beat < 64 → beatWaits o chunk beat = true →
    let p := maskPlane o.planes chunk
    exchTakes id p (s.clock.fclk + cyc) s = true →
    let l := ledgerAt (dLedger o.d) s
    Answers (.treeSumArrive id chunk beat cyc) s fun t => (∃ o' : Op, opAt id t = some o' ∧ Summed o o' l chunk beat s)
        ∧ (planeAt p t).exchNext = s.clock.fclk + cyc + (if sumMode o l = .comp then max 1 ((beatElems o.d chunk beat + 63) / 64) else 1) ∧ (∀ q, q ≠ p → planeAt q t = planeAt q s)
        ∧ (∀ i, i ≠ id → opAt i t = opAt i s) ∧ OnlyChanges [.ops, .planes, .counts, .regs, .setNow] s t

/-- A row of a copy or of a selection, and the beats of it that wait on a plane: a copy's of the member whose turn it is. -/
def PassRow (c : Instr) (id : OpId) (cyc : Nat) (o : Op) (p : Nat) (w : InTree) (waits : List (Nat × Nat)) : Prop :=
  (((c = .broadcast id cyc ∧ dOp o.d = oBROADCAST) ∨ (c = .allgather id cyc ∧ dOp o.d = oALLGATHER)) ∧ o.eg.ended = false ∧ waits = copyWaits o p w.first)
    ∨ (((c = .max id cyc ∧ dOp o.d = oMAX) ∨ (c = .argmax id cyc ∧ dOp o.d = oARGMAX) ∨ (c = .topk id cyc ∧ dOp o.d = oTOPK) ∨ (c = .sample id cyc ∧ dOp o.d = oSAMPLE))
        ∧ o.added = false ∧ waits = selectWaits o p)

/-- Beats of copies and selections take their turns in the tree and at the exchange like those of sums (R14, R15, R445; log 65): on the one plane of an operation, the first beat that waits passes in a cycle in which it is its turn, and the exchange has been served; in another operation's turn none of it passes. -/
def Claims.BeatsPass : Prop :=
  ∀ (id : OpId) (cyc p : Nat) (c : Instr) (o : Op) (w : InTree) (x : Nat × Nat) (xs : List (Nat × Nat)) (s : State), s.allWf = true → serving s = true → s.clock.due = [] → opAt id s = some o → runs o = true →
    o.claim = .claimed → o.leg = none → planesOf o.planes = [p] → PassRow c id cyc o p w (x :: xs) → exchPick p (s.clock.fclk + cyc) s = some w →
    (w.id = id → Answers c s fun t => (∃ o' : Op, opAt id t = some o' ∧ o'.passed = tset 0 (passKey o w.first x.1 x.2) 1 o.passed ∧ beatPassed o' w.first x.1 x.2 = true)
        ∧ (planeAt p t).exchNext = s.clock.fclk + cyc + 1 ∧ (∀ i, i ≠ id → opAt i t = opAt i s))
      ∧ (w.id ≠ id → Answers c s fun t => (∃ o' : Op, opAt id t = some o' ∧ o'.passed = o.passed) ∧ t.planes = s.planes)

/-- Commands one after the other. -/
def RunAll : List Instr → State → Answer
  | [], s => .next s
  | c :: cs, s => match exec c s with | .next t => RunAll cs t | r => r

/-- The row of a sum is one tree sum on each of its planes, of the beat that waits first there, and then its egress: the model's form of these rows (R14, R147; log 42). With one plane and the exchange's turn, the beat's sums are added. -/
def Claims.SumRows : Prop :=
  ∀ (id : OpId) (cyc : Nat) (c : Instr) (o : Op) (s : State), alive s = true → s.clock.due = [] → opAt id s = some o → runs o = true →
    (c = .reduce id cyc ∧ dOp o.d = oREDUCE) ∨ (c = .allreduce id cyc ∧ dOp o.d = oALLREDUCE) ∨ (c = .reduceScatter id cyc ∧ dOp o.d = oREDUCE_SCATTER)
      ∨ (c = .ledgerAdd id cyc ∧ dOp o.d = oLEDGER_ADD) ∨ (c = .ledgerClose id cyc ∧ dOp o.d = oLEDGER_CLOSE) →
    exec c s = RunAll (((planesOf o.planes).filterMap fun p => (sumWaits o p).head?.map fun x => .treeSumArrive id x.1 x.2 cyc) ++ [.egress id cyc]) s
      ∧ (∃ t, exec c s = .next t)
      ∧ ∀ p x xs, s.allWf = true → serving s = true → planesOf o.planes = [p] → sumWaits o p = x :: xs → exchTakes id p (s.clock.fclk + cyc) s = true → limbsOf o.d = 1 → o.poolPages = [] →
        Answers c s fun t => ∃ o' : Op, opAt id t = some o' ∧ Summed o o' (ledgerAt (dLedger o.d) s) x.1 x.2 s

/-- Tree sums, the turns of other beats, and the rows of the sums. -/
def Obligations.SumsAccumulate : Prop := Claims.TreeSums ∧ Claims.BeatsPass ∧ Claims.SumRows

/-- The code of an output element: its block of accumulators and bias values, converted by R166. -/
def OutCode (o : Op) (l : Ledger) (e : Nat) (s : State) : Nat :=
  let j := e / 32
  let es := (List.range (min l.count (32 * j + 32) - 32 * j)).map fun i => 32 * j + i
  (egressBlock (egCtx o l) j (es.map (egVal o l)) (es.map (biasVal o s))).1.elems.getD (e % 32) 0

/-- The crier has taken a beat of the operation, for these stalls, plane, offset and kind. -/
def CrierHas (o : Op) (dest : List Nat) (plane offset kind : Nat) (P : DnBeat → Prop) : Prop :=
  ∃ b ∈ o.down, b.dest = dest ∧ b.plane = plane ∧ b.offset = offset ∧ b.kind = kind ∧ P b

/-- An egress on die whose accumulators are ready, with no partial page to fold, ends: every element of the ledger goes to the crier with the code of its converted block, in the beat that holds it, on the home plane of its placement chunk, for the receivers of its operation. -/
def Claims.EgressToCrier : Prop :=
  ∀ (id : OpId) (cyc : Nat) (o : Op) (s : State), s.allWf = true → serving s = true → s.clock.due = [] → opAt id s = some o → runs o = true → isClosing (dOp o.d) = true → o.claim = .claimed →
    o.leg = none → egHeld o = false → o.eg.next = 0 → o.eg.trueAU = none → heldBias o s = none →
    let l := ledgerAt (dLedger o.d) s
    0 < l.count → foldPages o l = [] → (if streams o s then l.count ≤ egReady o l s else contribDone o = true) →
    let f := outFmtOf o
    let b := perBeat f
    Answers (.egress id cyc) s fun t => t.out = s.out ∧ ∃ o' : Op, opAt id t = some o' ∧ o'.eg.ended = true ∧ o'.eg.next = l.count
        ∧ ∀ e, e < l.count → sumTo o l (e / b) ≠ [] → CrierHas o' (sumTo o l (e / b)) (homePlane l.fmt l.planes e) (e / b) (if (egCtx o l).decided then kPRIMARY else kDATA) fun x =>
            beatElem f x.data (e % b) = OutCode o l e s % 2 ^ fmtWidth f

/-- The crier presents the one beat that waits on a plane before the transit ends, in the first enabled cycle in which the plane is free, at the stalls that it is for, with the operation's ledger as its tag (R32, R33, R259, R384). -/
def Claims.CrierPresents : Prop :=
  ∀ (cycles ticks : Nat) (o : Op) (b : DnBeat) (s : State), s.allWf = true → alive s = true → phaseOf s = 9 → s.clock.held = [] → s.clock.due = [] → s.boot.applying = none →
    boundaryFits cycles ticks s = true → opAt o.id s = some o → o.down = [b] → (∀ x ∈ s.ops, x.id ≠ o.id → x.down = []) → b.plane < s.build.planes → (planeAt b.plane s).recalls = [] →
    let at' := dutyNext b.plane (max (max b.from' (planeAt b.plane s).dnNext) s.clock.fclk) s
    (∀ x ∈ s.ops, x.id = o.id → x = o) → at' < s.clock.fclk + cycles → Answers (.transitBoundary cycles ticks) s fun t =>
      PortOut.dn b.dest b.plane (dLedger o.d) b.offset b.kind b.data b.scale at' ∈ t.out ∧ ∃ o' : Op, opAt o.id t = some o' ∧ o'.down = [] ∧ o'.eg.shown = true

/-- An egress gives its beats to the crier, and the crier presents them. -/
def Obligations.EgressDelivers : Prop := Claims.EgressToCrier ∧ Claims.CrierPresents

/-- BROADCAST and ALLGATHER on die, formats without scales: once every beat has come and has passed the exchange, each element of the root, or of the member of each rank at its COUNT-th place of the output, goes unchanged to the crier, on the plane of R20, and the output ends. -/
def Obligations.CopiesDeliver : Prop :=
  ∀ (id : OpId) (cyc : Nat) (o : Op) (s : State), s.allWf = true → serving s = true → s.clock.due = [] → opAt id s = some o → runs o = true → o.claim = .claimed → o.leg = none →
    o.eg.ended = false → o.summed = [] → allBeats o = true → fmtBad (dInFmt o.d) = false → fmtScaled (dInFmt o.d) = false → dOutFmt o.d = dInFmt o.d → receivers o ≠ [] →
    let f := dInFmt o.d
    let b := perBeat f
    (dOp o.d = oBROADCAST → dRoot o.d ∈ o.members → Answers (.broadcast id cyc) s fun t => ∃ o' : Op, opAt id t = some o' ∧ o'.eg.ended = true ∧
        ∀ e, e < dCount o.d → ∃ x, beatOfOp o (dRoot o.d) (e / b / 64) (e / b % 64) = some x
          ∧ CrierHas o' (o.members.filter fun n => n != dRoot o.d) (maskPlane o.planes (e / b / 64)) (e / b) kDATA fun y => y.scale = 0#32 ∧ beatElem f y.data (e % b) = beatElem f x.data (e % b))
      ∧ (dOp o.d = oALLGATHER → dCount o.d % b = 0 → Answers (.allgather id cyc) s fun t => ∃ o' : Op, opAt id t = some o' ∧ o'.eg.ended = true ∧
          ∀ r i, r < o.members.length → i < dCount o.d → ∃ x, beatOfOp o (o.members.getD r 0) (i / b / 64) (i / b % 64) = some x
            ∧ CrierHas o' o.members (maskPlane o.planes ((r * dCount o.d + i) / b / 64)) ((r * dCount o.d + i) / b) kDATA fun y => y.scale = 0#32 ∧ beatElem f y.data (i % b) = beatElem f x.data (i % b))

/-- The candidate of an element of the member of a rank (R128; with its noise in a SAMPLE, R134). -/
def MemberCand (o : Op) (rank stall e : Nat) : Cand :=
  let b := perBeat (dInFmt o.d)
  (candAt o rank ((beatOfOp o stall (e / b / 64) (e / b % 64)).getD ⟨0#512, 0#32⟩) (e / b * b) (e % b)).1

/-- The selecting rows on die, once every beat has come and has passed the exchange: MAX delivers for each element a candidate than which no member's is earlier; ARGMAX, TOPK and SAMPLE the k earliest of all candidates in the order of R129; as pairs, eight to a beat, on the lowest plane of the mask, for every member; the output ends. -/
def Obligations.SelectionsDeliver : Prop :=
  ∀ (id : OpId) (cyc : Nat) (c : Instr) (o : Op) (s : State), s.allWf = true → serving s = true → s.clock.due = [] → opAt id s = some o → runs o = true → o.claim = .claimed → o.leg = none →
    o.added = false → allBeats o = true → fmtBad (dInFmt o.d) = false → o.members ≠ [] →
    (c = .max id cyc ∧ dOp o.d = oMAX) ∨ (c = .argmax id cyc ∧ dOp o.d = oARGMAX) ∨ (c = .topk id cyc ∧ dOp o.d = oTOPK) ∨ (c = .sample id cyc ∧ dOp o.d = oSAMPLE) →
    let k := candKind o
    let n := if dOp o.d = oMAX then dCount o.d else if dOp o.d = oTOPK then dTopk o.d else 1
    Answers c s fun t => ∃ (o' : Op) (L : List Cand), opAt id t = some o' ∧ o'.eg.ended = true ∧ o'.added = true
        ∧ (∀ i, i < ceilDiv n 8 → CrierHas o' o.members ((planesOf o.planes).headD 0) i kPAIRS fun y => y.data = pairsBeat ((L.take n).drop (8 * i)) ∧ y.scale = 0#32)
          ∧ (dOp o.d = oMAX → L.length = dCount o.d ∧ ∀ e, e < dCount o.d →
              (∃ m ∈ o.members.zipIdx, L[e]? = some (MemberCand o m.2 m.1 e)) ∧ ∀ m ∈ o.members.zipIdx, ∀ x, L[e]? = some x → earlier k (MemberCand o m.2 m.1 e) x = false)
          ∧ (dOp o.d ≠ oMAX → L.length = min n (o.members.length * dCount o.d) ∧ L.Pairwise (fun a b => earlier k b a = false)
              ∧ (∀ x ∈ L, ∃ m ∈ o.members.zipIdx, ∃ e, e < dCount o.d ∧ x = MemberCand o m.2 m.1 e)
              ∧ ∀ m ∈ o.members.zipIdx, ∀ e, e < dCount o.d → MemberCand o m.2 m.1 e ∉ L → ∀ x ∈ L, earlier k (MemberCand o m.2 m.1 e) x = false)

/-- The size table of an ALLTOALL, once it has been read: of one that breaks R291 0x26 is found, with the leg's ring port as its source (log 22), and the operation fails in the next transit; a good one lets it claim its ledger. -/
def Claims.AlltoallTable : Prop :=
  ∀ (id : OpId) (cyc : Nat) (o : Op) (g : Leg) (s : State), s.allWf = true → alive s = true → s.clock.due = [] → opAt id s = some o → runs o = true → dOp o.d = oALLTOALL → o.leg = some g →
    o.sizesPending = true → o.claim = .starting → g.tx = [] → (tableSpan o.d g.n).2 ≤ 4 * g.sizes.length →
    let T := (g.sizes.drop (dAddr o.d % 32 / 4)).take (4 * g.n)
    let E := fun j i => (T.getD (4 * j + i) 0#32).toNat
    let b := perBeat (dInFmt o.d)
    let m := o.members.length * dCount o.d
    let breaks := (∃ j i, j < g.n ∧ i < 4 ∧ E j i % b ≠ 0) ∨ (∃ j, j < g.n ∧ (m < E j 0 + E j 1 ∨ m < E j 2 + E j 3))
      ∨ (∃ j k, j < g.n ∧ k < g.n ∧ j ≠ k ∧ 0 < E j 3 ∧ 0 < E k 3 ∧ E j 2 < E k 2 + E k 3 ∧ E k 2 < E j 2 + E j 3) ∨ E g.pos 1 ≠ E g.pos 3
    (breaks → Answers (.alltoall id cyc) s fun t => Found (.failed id 0x26 (failSource o 0x26 s)) s t ∧ OnlyChanges [.found] s t)
      ∧ (¬ breaks → Answers (.alltoall id cyc) s fun t => (∃ o' : Op, opAt id t = some o' ∧ o'.fail = none ∧ o'.sizesPending = false ∧ ∃ g' : Leg, o'.leg = some g' ∧ g'.sizes = T) ∧ OnlyChanges [.ops] s t)

/-- The payload bytes of a step's flits that wait on a port, in order. -/
def stepPayload (port sid : Nat) (s : State) : List Byte := (((linkAt port s).txq.flatten.filter fun f => f.kind == fkDATA && f.step == sid).map fun f => f.payload).flatten

/-- A claimed ALLTOALL of elements without scales whose table has been checked and whose send image has come and passed the exchange. -/
def A2aReady (id : OpId) (o : Op) (g : Leg) (s : State) : Prop :=
  s.allWf = true ∧ serving s = true ∧ s.clock.due = [] ∧ opAt id s = some o ∧ runs o = true ∧ dOp o.d = oALLTOALL ∧ o.leg = some g ∧ o.sizesPending = false ∧ o.claim = .claimed ∧ g.recallAt = none
    ∧ fmtBad (dInFmt o.d) = false ∧ fmtScaled (dInFmt o.d) = false ∧ dOutFmt o.d = dInFmt o.d ∧ dCount o.d % perBeat (dInFmt o.d) = 0 ∧ a2aBad o g = false ∧ g.pos < g.n ∧ receivers o ≠ []

/-- The exchange of an ALLTOALL (R290): the piece for this chip's own position goes unchanged to the crier, at its RECV range of the output; of each direction whose step has started, every piece with elements goes into the step, in ascending distance, as chunks of its image, and the step has then its last flit; a piece that has come whole, as one chunk, goes unchanged to the crier at its RECV range. The RECV range spoken of lies below those of the other positions, whose beats a chunk of the output gives after it (R34). -/
def Claims.AlltoallExchange : Prop :=
  ∀ (id : OpId) (cyc : Nat) (o : Op) (g : Leg) (s : State), A2aReady id o g s →
    let f := dInFmt o.d
    let b := perBeat f
    let lowest (j : Nat) : Prop := g.beatsOut = [] ∧ 0 < a2aEntry g j 3 ∧ ∀ k, k < g.n → k ≠ j → 0 < a2aEntry g k 3 → a2aEntry g j 2 + a2aEntry g j 3 ≤ a2aEntry g k 2
    let at' (j e : Nat) := a2aEntry g j 2 + e
    (allBeats o = true → g.tx = [] → o.eg.ended = false → g.pos ∉ g.delivered → lowest g.pos → Answers (.alltoall id cyc) s fun t =>
      ∃ o' g', opAt id t = some o' ∧ o'.leg = some g' ∧ g.pos ∈ g'.delivered ∧ ∀ e, e < a2aEntry g g.pos 3 →
        let i := a2aEntry g g.pos 0 + e
        let k := i % dCount o.d
        ∃ x, beatOfOp o (o.members.getD (i / dCount o.d) 0) (k / b / 64) (k / b % 64) = some x
          ∧ CrierHas o' o.members (maskPlane o.planes (at' g.pos e / b / 64)) (at' g.pos e / b) kDATA fun y => y.scale = 0#32 ∧ beatElem f y.data (at' g.pos e % b) = beatElem f x.data (k % b))
      ∧ (∀ (rev : Bool) (x : TxStep), allBeats o = true → g.pos ∈ g.delivered ∨ a2aEntry g g.pos 1 = 0 → findTx g rev 1 = some x → x.lastQueued = false → x.sentChunks = 0 → x.buf = [] → x.head = [] → x.left = 0 →
        (∀ y ∈ g.tx, y.port = x.port → y.sid = x.sid → y = x) → (linkAt x.port s).txq.length = 4 → stepPayload x.port x.sid s = [] → injects 3 x.port s = false → a2aPieces g rev ≠ [] →
        let wire := ((a2aPieces g rev).map fun j => imageWire (legHdr g kA2A rev 5 j g.pos 1) (localImage o (a2aEntry g j 0) (a2aEntry g j 0 + a2aEntry g j 1))).flatten
        Answers (.alltoall id cyc) s fun t => (∃ o' g' x', opAt id t = some o' ∧ o'.leg = some g' ∧ findTx g' rev 1 = some x' ∧ x'.lastQueued = true ∧ x'.sentChunks = (a2aPieces g rev).length)
          ∧ (stepPayload x.port x.sid t).take wire.length = wire ∧ (stepPayload x.port x.sid t).length < wire.length + 116)
      ∧ ∀ (port tag : Nat) (st : Stream) (h : ChunkHdr), hasPort port s = true → port < 8 → streamAt port tag s = some st → headHdr st.bytes = some h → 20 + h.len ≤ st.bytes.length →
        routeOf port h.tgroup h.rev s = .ring → legOp h.tgroup h.seq s = some (o, g) → o.id = id → chanKey port st.vc ∉ g.markers → struckSoon id s = false →
        leNat ((st.bytes.drop (16 + h.len)).take 4) = (crc32c (st.bytes.take (16 + h.len))).toNat → h.kind = kA2A → h.content = 5 → h.piece = g.pos → h.src < g.n → h.step = 1 → (h.rev = true → g.twoWay = true) →
        h.offset = 0 → h.len = a2aBytes f (a2aEntry g h.src 3) → h.src ∉ g.delivered → a2aImg g h.src = [] → lowest h.src → Answers (.ringChunkReceive port tag cyc) s fun t =>
          ∃ o' g', opAt id t = some o' ∧ o'.leg = some g' ∧ h.src ∈ g'.delivered ∧ ∀ e, e < a2aEntry g h.src 3 →
            CrierHas o' o.members (maskPlane o.planes (at' h.src e / b / 64)) (at' h.src e / b) kDATA fun y => y.scale = 0#32 ∧ beatElem f y.data (at' h.src e % b) = imgCode f ((st.bytes.drop 16).take h.len) e

/-- SAVE and RESTORE: of a SAVE whose area is too small 0x54 is found; with its entries in memory it writes its header last, of 64 bytes at the area's start with the check of the whole area and the transit of its writing (log 39); either is done once its last transfer has been answered; of a RESTORE over a ledger that is not FREE 0x54 is found. -/
def Claims.SaveAndRestore : Prop :=
  ∀ (id : OpId) (cyc : Nat) (o : Op) (v : SaveSt) (s : State), s.allWf = true → serving s = true → s.clock.due = [] → opAt id s = some o → runs o = true → o.save = some v → v.done = false →
    (dOp o.d = oSAVE → v.built = false → anyHeld s = false → saveAhead id s = false → 64 * dCount o.d < areaBytes s → Answers (.save id cyc) s fun t => Found (.failed id 0x54 queueSource) s t ∧ OnlyChanges [.found] s t)
      ∧ (∀ i, dOp o.d = oSAVE → v.built = true → v.area.length ≤ v.next → v.issued = 0 → v.headerSent = false → memCan true false (dAddr o.d / 64 * 64) 64 s = true →
        freeId true s = some i → inWindow (dAddr o.d / 64 * 64) 64 s = true → Answers (.save id cyc) s fun t =>
          ∃ (head : List Byte) (x : BitVec 1024), t.out = s.out ++ [.memWrite i (dAddr o.d / 64 * 64) 2 0, .memWData x (if dAddr o.d / 64 % 2 = 0 then 3#4 else 12#4) true]
            ∧ leBytes 64 (x.toNat / 2 ^ (512 * (dAddr o.d / 64 % 2))) = head ∧ head.length = 64 ∧ head.take 60 = areaHead v.entries v.area.length s.clock.transit
            ∧ leNat (head.drop 60) = (crc32c (head.take 60 ++ List.replicate 4 0#8 ++ v.area.drop 64)).toNat ∧ OnlyChanges [.ops, .mem, .counts, .out] s t)
      ∧ (dOp o.d = oSAVE → v.built = true → v.area.length ≤ v.next → v.issued = 0 → v.headerSent = true → Answers (.save id cyc) s fun t =>
        ∃ o' v', opAt id t = some o' ∧ o'.save = some v' ∧ v'.done = true ∧ OnlyChanges [.ops] s t)
      ∧ (dOp o.d = oRESTORE → saveAhead id s = false → v.built = true → (∀ x ∈ o.poolPages, (x.1, x.2.1) ∈ o.partWritten) → Answers (.restore id cyc) s fun t =>
        ∃ o' v', opAt id t = some o' ∧ o'.save = some v' ∧ v'.done = true ∧ OnlyChanges [.ops] s t)
      ∧ (dOp o.d = oRESTORE → saveAhead id s = false → v.built = false → v.headerSent = true → restoreSize o v ≤ v.next → v.issued = 0 →
        (∃ x ∈ restoreEntries v, (ledgerAt x.2.1 s).state ≠ 0) → Answers (.restore id cyc) s fun t => Found (.failed id 0x54 queueSource) s t ∧ OnlyChanges [.found] s t)

/-- The size table of an ALLTOALL and its exchange; SAVE and RESTORE. -/
def Obligations.TablesAndAreas : Prop := Claims.AlltoallTable ∧ Claims.AlltoallExchange ∧ Claims.SaveAndRestore

/-! ### Ledgers: claims, waits, pages (R144 to R154, R160, R164) -/

/-- A contribution to an OPEN ledger that its claim can take at once: no holder, no SAVE ahead, its first contribution, no page to wait for, and the checks of the claim pass. -/
def AddMay (o : Op) (s : State) : Prop :=
  let l := ledgerAt (dLedger o.d) s
  dOp o.d = oLEDGER_ADD ∧ l.state = 1 ∧ l.holder = none ∧ saveAhead o.id s = false ∧ l.contribs = 0 ∧ l.pages = [] ∧ limbsOf o.d = 1
    ∧ 0 < dCount o.d ∧ dCount o.d ≤ l.count ∧ (intPath l.fmt = true ↔ dInFmt o.d = fmtI32) ∧ (intPath l.fmt = true → dLimbs o.d = 1)

/-- The claim of a contribution has taken the ledger, and the operation waits nowhere. -/
def AddClaimed (o : Op) (s t : State) : Prop :=
  (∃ o' : Op, opAt o.id t = some o' ∧ o'.claim = .claimed ∧ o'.firstContrib = true ∧ o'.fail = none)
    ∧ (ledgerAt (dLedger o.d) t).state = 1 ∧ (ledgerAt (dLedger o.d) t).holder = some o.id ∧ (ledgerAt (dLedger o.d) t).acc = (ledgerAt (dLedger o.d) s).acc
    ∧ o.id ∉ (ledgerAt (dLedger o.d) t).waiting ∧ (∀ x ∈ t.pageWait, x.1 ≠ o.id) ∧ (∀ k, k ≠ dLedger o.d → ledgerAt k t = ledgerAt k s)
    ∧ OnlyChanges [.reached, .ops, .ledgers, .pageWait] s t

/-- The first claim of a starting operation: LEDGER_OPEN opens a FREE ledger with its descriptor's attributes and cleared accumulators; a copy or a selection holds it, or waits in its list while 64 operations have output on one of its planes (R266; log 69); a contribution takes an OPEN one, joins the tail of its list while it is held, or fails at once with EXCLUSIVE (0x52); a contribution to a ledger that is FREE or FAULTED fails with 0x50 at once, behind a running SAVE too (log 57), an opening of one that is not FREE with 0x51: with the lowest code of the stage, where other checks of the claim fail too (R449). -/
def Claims.LedgerClaims : Prop :=
  ∀ (id : OpId) (o : Op) (s : State), s.allWf = true → alive s = true → opAt id s = some o → runs o = true → o.claim = .starting → o.sizesPending = false → (∀ k, id ∉ (ledgerAt k s).waiting) →
    let n := dLedger o.d
    let l := ledgerAt n s
    (dOp o.d = oLEDGER_OPEN → l.state = 0 → l.holder = none → l.waiting = [] → saveAhead id s = false → applies (.ledgerOpen id) s = true →
      Answers (.ledgerOpen id) s fun t => (∃ o' : Op, opAt id t = some o' ∧ o'.claim = .claimed) ∧ (∀ k, k ≠ n → ledgerAt k t = ledgerAt k s)
        ∧ (let v := ledgerAt n t; v.state = 1 ∧ v.holder = none ∧ v.fmt = dInFmt o.d ∧ v.planes = o.planes ∧ v.sat = dSat o.d ∧ v.count = dCount o.d ∧ v.contribs = 0
            ∧ v.flags = fNone ∧ v.acc = [] ∧ v.seed = dSeed o.d ∧ v.pos = o.pos) ∧ OnlyChanges [.reached, .ops, .ledgers, .pageWait] s t)
      ∧ (isCopy (dOp o.d) = true ∨ isSelect (dOp o.d) = true → l.state = 0 → l.holder = none → l.waiting = [] → saveAhead id s = false → applies (.ledgerClaim id) s = true →
        Answers (.ledgerClaim id) s fun t => (∀ k, k ≠ n → ledgerAt k t = ledgerAt k s) ∧ OnlyChanges [.reached, .ops, .ledgers, .pageWait] s t ∧
          (if claimRoom o (claimedLedger o s) s = true then (∃ o' : Op, opAt id t = some o' ∧ o'.claim = .claimed) ∧ (ledgerAt n t).state = 2 ∧ (ledgerAt n t).holder = some id
           else (∃ o' : Op, opAt id t = some o' ∧ o'.claim = .waiting) ∧ ledgerAt n t = { l with waiting := [id] }))
      ∧ (AddMay o s → l.waiting = [] → applies (.ledgerClaim id) s = true → Answers (.ledgerClaim id) s (AddClaimed o s))
      ∧ (dOp o.d = oLEDGER_ADD → l.state = 1 → l.holder ≠ none → l.waiting = [] → applies (.ledgerClaim id) s = true → Answers (.ledgerClaim id) s fun t =>
          if dExcl o.d = true then ∃ o' : Op, opAt id t = some o' ∧ o'.fail = some (BitVec.ofNat 8 (lowest (0x52 :: claimChecks o s)), s.clock.transit)
          else (∃ o' : Op, opAt id t = some o' ∧ o'.claim = .waiting) ∧ ledgerAt n t = { l with waiting := [id] } ∧ OnlyChanges [.reached, .ops, .ledgers] s t)
      ∧ (dOp o.d = oLEDGER_ADD → l.state = 0 ∨ l.state = 3 → l.waiting = [] → applies (.ledgerClaim id) s = true → Answers (.ledgerClaim id) s fun t =>
          ∃ o' : Op, opAt id t = some o' ∧ o'.fail = some (BitVec.ofNat 8 (lowest (0x50 :: claimChecks o s)), s.clock.transit))
      ∧ (dOp o.d = oLEDGER_OPEN → l.state = 1 ∨ l.state = 3 → l.waiting = [] → applies (.ledgerOpen id) s = true → Answers (.ledgerOpen id) s fun t =>
          ∃ o' : Op, opAt id t = some o' ∧ o'.fail = some (0x51#8, s.clock.transit))

/-- Waiting operations: the head of a wait list takes the ledger where it can, and an operation that waited for pages claims once it heads its list and they are there. -/
def Claims.WaitingClaims : Prop :=
  ∀ (o : Op) (rest : List OpId) (s : State), s.allWf = true → alive s = true → opAt o.id s = some o → runs o = true → o.claim = .waiting → AddMay o s →
    (ledgerAt (dLedger o.d) s).waiting = o.id :: rest → o.id ∉ rest → (∀ k, k ≠ dLedger o.d → o.id ∉ (ledgerAt k s).waiting) →
    (∀ l : BitVec 12, l.toNat = dLedger o.d → applies (.waitListClaim l) s = true → Answers (.waitListClaim l) s fun t =>
        AddClaimed o s t ∧ (ledgerAt (dLedger o.d) t).waiting = rest)
      ∧ ((∃ needs, (o.id, needs) ∈ s.pageWait) → applies (.pageGrant o.id) s = true → Answers (.pageGrant o.id) s (AddClaimed o s))

/-- First claims and waiting ones. -/
def Obligations.LedgersAreClaimed : Prop := Claims.LedgerClaims ∧ Claims.WaitingClaims

/-! ### Ends of operations (R159, R202 to R207, R255 to R257, R264, R341) -/

/-- The completion tally rises by one, where the descriptor asks for one of a single stall (R256). -/
def CompletionCounted (o : Op) (s t : State) : Prop :=
  dCompMembers o.d = false → ∀ n j, j < 64 → tally n j t =
    if dCompEn o.d = true ∧ dCompTally o.d < 48 ∧ hasStall (dCompStall o.d) s = true ∧ n = dCompStall o.d ∧ j = dCompTally o.d then tally n j s + 1 else tally n j s

/-- A record of this status waits for the operation's slot, or is on its way (R256, R268). -/
def RecordQueued (o : Op) (status : Nat) (s t : State) : Prop :=
  ∃ b : List Byte, (queueAt o.id.queue t).records = (queueAt o.id.queue s).records ++ [(o.id.slot, b)] ∧ b.length = 32 ∧ (b.headD 0#8).toNat = status

/-- A seal, five cycles after the last beat or add, and after the comparison, the verdict's ring or the end of the transfers of a SAVE: the operation ends, its completion tally rises, its record of status 0 goes out; a LEDGER_ADD's sums become the ledger's and the contributions count one more, unheld; a one-shot ledger, or a closed one, is FREE; before its time nothing happens. -/
def Claims.Seals : Prop :=
  ∀ (id : OpId) (o : Op) (s : State), s.allWf = true → alive s = true → opAt id s = some o → runs o = true → o.leg = none → dEarly o.d = false → applies (.seal id) s = true →
    (dOp o.d = oBARRIER ∨ dOp o.d = oFENCE ∨ (dOp o.d = oLEDGER_OPEN ∧ o.claim = .claimed) → o.addAt + 5 ≤ s.clock.fclk → o.doneAt = 0 ∨ o.doneAt + 5 ≤ s.clock.fclk → Answers (.seal id) s fun t =>
        opAt id t = none ∧ CompletionCounted o s t ∧ RecordQueued o 0 s t ∧ t.ledgers = s.ledgers)
      ∧ (dOp o.d = oLEDGER_ADD → o.claim = .claimed → contribDone o = true → o.poolPages = [] → o.addAt + 5 ≤ s.clock.fclk → o.doneAt = 0 ∨ o.doneAt + 5 ≤ s.clock.fclk → Answers (.seal id) s fun t =>
        let l := ledgerAt (dLedger o.d) s
        let v := ledgerAt (dLedger o.d) t
        opAt id t = none ∧ CompletionCounted o s t ∧ RecordQueued o 0 s t ∧ v.state = l.state ∧ v.holder = none ∧ v.contribs = l.contribs + 1 ∧ v.flags = l.flags ||| o.freshFlags
          ∧ (∀ e, tget 0#64 e v.acc = (tget none e o.fresh).getD (tget 0#64 e l.acc)) ∧ (∀ k, k ≠ dLedger o.d → ledgerAt k t = ledgerAt k s))
      ∧ (isClosing (dOp o.d) = true → o.claim = .claimed → o.eg.ended = true → o.down = [] → egHeld o = false → o.eg.spec = false → dBino o.d = false → o.eg.endedAt + 5 ≤ s.clock.fclk → o.doneAt = 0 ∨ o.doneAt + 5 ≤ s.clock.fclk →
        Answers (.seal id) s fun t => opAt id t = none ∧ CompletionCounted o s t ∧ RecordQueued o 0 s t ∧ (ledgerAt (dLedger o.d) t).state = 0)
      ∧ (hasOutput (dOp o.d) = false ∧ s.clock.fclk < o.addAt + 5 ∨ 0 < o.doneAt ∧ s.clock.fclk < o.doneAt + 5 → Answers (.seal id) s fun t => OnlyChanges [.reached] s t)

/-- A failed operation is delivered in a transit after its failure: it ends, its completion tally rises, its record carries the code, and its queue halts where HALT_ON_ERR is set and it runs. -/
def Claims.FailuresDelivered : Prop :=
  ∀ (id : OpId) (o : Op) (code : BitVec 8) (at' : Word64) (s : State), s.allWf = true → alive s = true → opAt id s = some o → o.fail = some (code, at') →
    applies (.descriptorFail id) s = true →
    (s.clock.transit ≠ at' → Answers (.descriptorFail id) s fun t => opAt id t = none ∧ CompletionCounted o s t ∧ RecordQueued o code.toNat s t
        ∧ (qHaltOnErr (queueAt id.queue s) = true → (queueAt id.queue s).state = 1 → (queueAt id.queue t).state = 2) ∧ t.ledgers = s.ledgers)
      ∧ (s.clock.transit = at' → Answers (.descriptorFail id) s fun t => OnlyChanges [.reached] s t)

/-- Seals and delivered failures. -/
def Obligations.OperationsEnd : Prop := Claims.Seals ∧ Claims.FailuresDelivered

/-- Early use on a block of one side: a chunk whose every beat went out is released to a receiver in the first transit from five cycles later, once: CHUNK_TALLY of the stall rises by one. -/
def Claims.ChunksReleased : Prop :=
  ∀ (id : OpId) (stall chunk last n : Nat) (o : Op) (s : State), s.allWf = true → alive s = true → hasStall stall s = true → binoPaired s = false →
    opAt id s = some o → runs o = true → dEarly o.d = true → stall ∈ receivers o → (o.eg.chunkOut.find? fun x => x.1 == chunk) = some (chunk, last, n) →
    applies (.chunkRelease id stall chunk) s = true →
    ((stall, chunk) ∉ o.eg.released → outChunkBeats o chunk ≤ n → last + 5 ≤ s.clock.fclk → Answers (.chunkRelease id stall chunk) s fun t =>
        tally stall (dChunkTally o.d) t = tally stall (dChunkTally o.d) s + 1 ∧ TalliesKeep stall (dChunkTally o.d) s t
          ∧ (∃ o' : Op, opAt id t = some o' ∧ (stall, chunk) ∈ o'.eg.released) ∧ OnlyChanges [.reached, .ops, .tallies] s t)
      ∧ ((stall, chunk) ∈ o.eg.released ∨ n < outChunkBeats o chunk ∨ s.clock.fclk < last + 5 → Answers (.chunkRelease id stall chunk) s fun t => OnlyChanges [.reached] s t)

/-- Speculation on die: in the first transit after the measures of its last beat, the comparison finds the true factors of the measures, under the almanac entry of that moment (log 61), and gives the ledger's OUT_TSCALE the true exponent; a miss is a recall and a re-emission with the interrupt; a recall waits on every plane of the operation for every member, and what the crier has not presented is dropped; the re-emission goes out with the true factors. -/
def Claims.SpeculationResolves : Prop :=
  ∀ (id : OpId) (cyc : Nat) (o : Op) (s : State), s.allWf = true → alive s = true → opAt id s = some o → runs o = true → isClosing (dOp o.d) = true → o.leg = none →
    let l := ledgerAt (dLedger o.d) s
    let a := trueA (almWord (dAlmanac o.d) 1 s) (almWord (dAlmanac o.d) 0 s) o.eg.meas
    let u := trueU (almWord (dAlmanac o.d) 1 s) (outFmtOf o) a o.eg.meas
    (o.eg.spec = true → egHeld o = false → l.count ≤ o.eg.next → o.eg.trueAU = none → o.eg.compared = none → o.eg.measAt < s.clock.fclk → measuresIn o s = true → applies (.almanacCompare id) s = true →
      Answers (.almanacCompare id) s fun t =>
        (∃ o' : Op, opAt id t = some o' ∧ o'.doneAt = s.clock.fclk ∧ o'.eg.trueAU = some (a, u) ∧ o'.eg.compared = some (decide (a = o.eg.a ∧ u = o.eg.u))
          ∧ o'.eg.recallDue = decide (a ≠ o.eg.a ∨ u ≠ o.eg.u) ∧ o'.eg.reEmit = decide (a ≠ o.eg.a ∨ u ≠ o.eg.u))
        ∧ ledgerAt (dLedger o.d) t = { l with outTscale := tscaleOf u } ∧ (a ≠ o.eg.a ∨ u ≠ o.eg.u → (reg (rIrqRaw pASSAY) t).getLsbD 2 = true)
        ∧ OnlyChanges [.reached, .ops, .ledgers, .regs, .setNow] s t)
      ∧ (o.eg.recallDue = true → applies (.recallOp id cyc) s = true → Answers (.recallOp id cyc) s fun t =>
        (∃ o' : Op, opAt id t = some o' ∧ o'.eg.recallDue = false ∧ o'.eg.ended = false ∧ o'.recalled = (o.recalled || o.eg.shown) ∧ o'.down = [] ∧ o'.eg.measAt = s.clock.fclk)
          ∧ (∀ p, (planeAt p t).recalls = (planeAt p s).recalls ++ if p ∈ opPlanes o s then [⟨dLedger o.d, [], o.members⟩] else []) ∧ OnlyChanges [.reached, .ops, .planes, .regs] s t)
      ∧ (∀ x, o.eg.reEmit = true → o.eg.recallDue = false → o.eg.trueAU = some x → o.eg.measAt < s.clock.fclk → applies (.reEmission id cyc) s = true →
        Answers (.reEmission id cyc) s fun t => ∃ o' : Op, opAt id t = some o' ∧ o'.eg.reEmit = false ∧ (o'.eg.a, o'.eg.u) = x)

/-- Released chunks, comparisons, recalls and re-emissions. -/
def Obligations.EarlyAndSpeculativeOutput : Prop := Claims.ChunksReleased ∧ Claims.SpeculationResolves

/-! ### Ring links (R53 to R56, R73, R74, R292 to R306, R429 to R431, R451) -/

/-- Every link but the named one is as before. -/
def LinksKeep (port : Nat) (s t : State) : Prop := ∀ p, p ≠ port → linkAt p t = linkAt p s

/-- A flit received on an UP link. One that fails its check is counted and a NAK is due once, until the expected flit comes. A good one is counted; an ACK takes the flits that it covers out of the replay buffer, a NAK is noted, returned credits are added and are a protocol error above what was advertised; a sequenced flit out of order is discarded, one without credit is a protocol error, and one in order enters its tag's stream, or the received messages. -/
def Obligations.LinkReception : Prop :=
  ∀ (port cyc : Nat) (flit : BitVec 1024) (symErr : Bool) (s : State), s.allWf = true → s.clock.due = [] → hasPort port s = true → port < 8 → linkRuns port s = true →
    let l := linkAt port s
    let b := flitBytesOf flit
    let h := flitHdrOf (leNat (b.take 8))
    let c : Instr := .flitReceive port flit symErr cyc
    let bad := symErr = true ∨ leNat (sliceB b 124 4) ≠ (crc32Link (b.take 124)).toNat
    let seen := { l with lastGood := s.clock.fclk + cyc }
    let room := l.rxOccupied.getD h.vc 0 + l.owed.getD h.vc 0 < l.advertised.getD h.vc 0
    let inOrder := h.seq = (l.rxSeq + 1) % 4096
    (bad → Answers c s fun t => reg (rLINK_CHECK_FAIL port) t = satAdd (reg (rLINK_CHECK_FAIL port) s) 1
        ∧ linkAt port t = (if l.discarding then l else { l with discarding := true, nakOwed := true }) ∧ LinksKeep port s t ∧ OnlyChanges [.links, .regs] s t)
      ∧ (¬ bad → h.kind ≠ fkDATA → h.kind ≠ fkCONTROL → Answers c s fun t => reg64 (rRX_FLITS port) t = reg64 (rRX_FLITS port) s + 1 ∧ LinksKeep port s t
          ∧ (h.ackEn = true → ∀ pre x suf, l.replay = pre ++ x :: suf → x.seq = h.ack → (∀ y ∈ pre, y.seq ≠ h.ack) → (linkAt port t).replay = suf)
          ∧ (h.nak = true → (linkAt port t).nakSeen = true)
          ∧ (l.creditMax.getD h.crVc 0 < l.credit.getD h.crVc 0 + h.crCnt → (linkAt port t).dying = 0x23#8)
          ∧ (l.credit.getD h.crVc 0 + h.crCnt ≤ l.creditMax.getD h.crVc 0 → l.credit.length = 4 → (linkAt port t).credit.getD h.crVc 0 = l.credit.getD h.crVc 0 + h.crCnt)
          ∧ OnlyChanges [.links, .regs, .log] s t)
      ∧ (¬ bad → h.kind = fkDATA ∨ h.kind = fkCONTROL → h.ackEn = false → h.nak = false → h.crCnt = 0 → l.credit.getD h.crVc 0 ≤ l.creditMax.getD h.crVc 0 →
        Answers c s fun t => reg64 (rRX_FLITS port) t = reg64 (rRX_FLITS port) s + 1 ∧ LinksKeep port s t ∧ OnlyChanges [.links, .regs, .ops] s t
          ∧ (¬ inOrder → linkAt port t = (if l.discarding then seen else { seen with discarding := true, nakOwed := true }))
          ∧ (inOrder → ¬ room → linkAt port t = { seen with dying := 0x23#8 })
          ∧ (inOrder → room → (linkAt port t).rxSeq = h.seq ∧ (linkAt port t).ackOwed = true ∧ (linkAt port t).discarding = false)
          ∧ (inOrder → room → h.kind = fkDATA → ∃ key st, key % 4096 = h.tag ∧ tget none key (linkAt port t).streams = some st ∧ st.last = h.last
              ∧ (∀ st0, tget none key l.streams = some st0 → st0.last = false ∧ st.bytes = st0.bytes ++ sliceB b 8 116)
              ∧ (tget none key l.streams = none → st.bytes = sliceB b 8 116))
          ∧ (inOrder → room → h.kind = fkCONTROL → let ty := (b.getD 8 0#8).toNat
              if ty = 0 ∨ 4 < ty then (linkAt port t).dying = 0x23#8
              else (∃ m : CtlMsg, (linkAt port t).rxCtl = l.rxCtl ++ [m] ∧ m.vc = h.vc ∧ m.payload = sliceB b 8 116) ∧ (linkAt port t).dying = 0#8))

/-- A replay attempt, at a received NAK or 2,048 cycles after the oldest unacknowledged flit was last sent: every unacknowledged flit is to go again from the oldest, each one attempt further, and at a flit's first 0x20 is found, which enters as CORRECTABLE in the next transit; a flit that has had eight takes the link DOWN with 0x22. -/
def Claims.LinkReplay : Prop :=
  ∀ (port cyc : Nat) (c : Instr) (x : Sent) (rest : List Sent) (s : State), s.allWf = true → s.clock.due = [] → hasPort port s = true → port < 8 → linkRuns port s = true →
    (linkAt port s).replay = x :: rest →
    let l := linkAt port s
    ((c = .nakReceive port cyc ∧ l.nakSeen = true) ∨ (c = .replayTimeout port cyc ∧ x.sentAt + 2048 ≤ s.clock.fclk + cyc) → Answers c s fun t => LinksKeep port s t ∧
        (if ∃ y ∈ l.replay, 8 ≤ y.attempts then (linkAt port t).dying = 0x22#8 ∧ (linkAt port t).replay = l.replay ∧ OnlyChanges [.links] s t
         else (linkAt port t).replay = l.replay.map (fun y => { y with attempts := y.attempts + 1 }) ∧ (linkAt port t).retx = l.replay.map (fun y => y.seq)
          ∧ (linkAt port t).dying = 0#8 ∧ reg (rREPLAYS port) t = satAdd (reg (rREPLAYS port) s) 1
          ∧ (if ∃ y ∈ l.replay, y.attempts = 0 then Found (.retry port) s t else t.clock.found = s.clock.found) ∧ OnlyChanges [.links, .regs, .found] s t))
      ∧ (c = .replayTimeout port cyc → s.clock.fclk + cyc < x.sentAt + 2048 → Answers c s fun t => OnlyChanges [] s t)
      ∧ (c = .nakReceive port cyc → l.nakSeen = false → Answers c s fun t => OnlyChanges [] s t)

/-- The first replay attempt of a flit enters as 0x20 in its place of class 2, here before a command that itself does nothing (R215, R296). -/
def Claims.RetryEnters : Prop :=
  ∀ (n port : Nat) (s : State), s.allWf = true → n < 16 → port < 8 → (lineAt n s).rangAt = none → LogRoom s → s.clock.due = [(duePlace (.retry port), .retry port)] →
    Answers (.bellRearm n) s fun t => Logged 0x20 1 (source 2 port) s t ∧ OnlyChanges [.reached, .due, .log, .regs, .setNow] s t

/-- The tag that a frame bears: a DATA flit its step's, which the step had or has taken free with this frame; any other 0 (R292, R293). -/
def TagGiven (port : Nat) (f : TxFlit) (tag : Nat) (s t : State) : Prop :=
  if f.kind = fkDATA then stepTag f.step (linkAt port t) = some tag ∧ (∀ g, stepTag f.step (linkAt port s) = some g → g = tag) else tag = 0

/-- The frame that leaves the port: its image in the journal, with the header that R292 gives it. -/
def FrameOut (port kind vc seq tag : Nat) (last : Bool) (payload : List Byte) (s t : State) : Prop :=
  let l := linkAt port s
  ∃ h : FlitHdr, t.out = s.out ++ [.flit port (flitImage h payload)] ∧ h.kind = kind ∧ h.vc = vc ∧ h.seq = seq ∧ h.tag = tag ∧ h.last = last
    ∧ h.ack = l.rxSeq ∧ h.ackEn = (l.ackOwed || l.nakOwed) ∧ h.nak = l.nakOwed ∧ (linkAt port t).ackOwed = false ∧ (linkAt port t).nakOwed = false

/-- A cycle in which the port may send: first a flit to be retransmitted, then VC3, then a channel of the other three that may send, the first of its chosen step; a new flit takes the next sequence number and a credit and stays in the replay buffer. An armed injection whose occasion has come (R419) fires with a flit, whose check value goes out inverted. With none of these, a heartbeat 512 cycles after the last frame; or a NULL for a NAK, or for an acknowledgement owed since 64 cycles without a flit; else nothing. -/
def Claims.LinkTransmission : Prop :=
  ∀ (port cyc : Nat) (s : State), s.allWf = true → s.clock.due = [] → hasPort port s = true → port < 8 → txFree port cyc s = true →
    let l := linkAt port s
    let at' := s.clock.fclk + cyc
    (∀ q rest x, l.retx = q :: rest → (l.replay.find? fun y => y.seq == q) = some x → withinCap port x.vc at' s = true → injects 4 port s = false →
      Answers (.flitTransmit port cyc) s fun t => (∃ tag, FrameOut port x.body.kind x.vc q tag x.body.last x.body.payload s t ∧ TagGiven port x.body tag s t) ∧ (linkAt port t).retx = rest
        ∧ (linkAt port t).txSeq = l.txSeq ∧ (linkAt port t).credit = l.credit ∧ (linkAt port t).txq = l.txq ∧ LinksKeep port s t ∧ OnlyChanges [.links, .regs, .ops, .out] s t)
      ∧ (l.retx = [] → (∃ v, v < 4 ∧ vcReady port v at' s = true) → injects 4 port s = false →
        Answers (.flitTransmit port cyc) s fun t => LinksKeep port s t ∧ OnlyChanges [.links, .regs, .ops, .out] s t ∧
          ∃ v f pre post, v < 4 ∧ vcReady port v at' s = true ∧ (vcReady port 3 at' s = true → v = 3) ∧ l.txq.getD v [] = pre ++ f :: post
            ∧ (∀ x ∈ pre, x.kind = fkDATA ∧ f.kind = fkDATA ∧ x.step ≠ f.step) ∧ (∃ tag, FrameOut port f.kind v l.txSeq tag f.last f.payload s t ∧ TagGiven port f tag s t)
            ∧ (linkAt port t).txq = l.txq.set v (pre ++ post) ∧ (linkAt port t).txSeq = (l.txSeq + 1) % 4096
            ∧ (linkAt port t).credit = l.credit.set v (l.credit.getD v 0 - 1) ∧ (linkAt port t).replay = l.replay ++ [⟨l.txSeq, v, f, 0, at'⟩])
      ∧ (l.retx = [] → (∃ v, v < 4 ∧ vcReady port v at' s = true) → injects 4 port s = true → Answers (.flitTransmit port cyc) s fun t =>
        (∃ h payload, t.out = s.out ++ [.flit port ((flitImage h payload).take 124 ++ ((flitImage h payload).drop 124).map fun b => ~~~ b)] ∧ h.seq = l.txSeq)
          ∧ (linkAt port t).txSeq = (l.txSeq + 1) % 4096 ∧ reg rINJECT_COUNT t = satAdd (reg rINJECT_COUNT s) 1 ∧ bitOf (reg rINJECT t) 31 = false ∧ (reg (rIrqRaw pDIAG) t).getLsbD 0 = true ∧ t.injected = none)
      ∧ (∀ c : Instr, txWork port at' s = false → c = .flitTransmit port cyc ∨ c = .heartbeatSend port cyc → l.lastTx + 511 ≤ at' → Answers c s fun t =>
        FrameOut port 3 0 0 0 false [] s t ∧ (linkAt port t).txSeq = l.txSeq ∧ (linkAt port t).replay = l.replay ∧ LinksKeep port s t ∧ OnlyChanges [.links, .regs, .out] s t)
      ∧ (∀ c : Instr, txWork port at' s = false → c = .flitTransmit port cyc ∨ c = .nullSend port cyc → at' < l.lastTx + 511 →
        l.nakOwed = true ∨ (l.ackOwed = true ∧ l.lastTx + 63 ≤ at') → Answers c s fun t =>
          FrameOut port 0 0 0 0 false [] s t ∧ (linkAt port t).txSeq = l.txSeq ∧ (linkAt port t).replay = l.replay ∧ LinksKeep port s t ∧ OnlyChanges [.links, .regs, .out] s t)
      ∧ (∀ c : Instr, txWork port at' s = false → c = .flitTransmit port cyc ∨ c = .heartbeatSend port cyc ∨ c = .nullSend port cyc → at' < l.lastTx + 511 →
        l.nakOwed = false → l.ackOwed = false → Answers c s fun t => OnlyChanges [] s t)

/-- Replay attempts, their entry, and the choice of the next frame. -/
def Obligations.LinksSend : Prop := Claims.LinkReplay ∧ Claims.RetryEnters ∧ Claims.LinkTransmission

/-- A port is one of the definition's: of its hops, or of the relayed closing hop, where this chip is a member (R306). -/
def GroupUses (g : GroupDef) (port : Nat) (s : State) : Prop := gValid g = true ∧ gMember g s = true ∧ some port ∈ groupPorts g s

/-- A link that is lost, by the fall of its lock or 4,096 cycles without a good flit (0x21), or for a noted cause: it is DOWN with its cause and with nothing of what it held, the cause enters the log once, as a notice where no leg is on a fenced definition, and every definition that uses the port, and no other, becomes FENCED. -/
def Claims.LinkLoss : Prop :=
  ∀ (port : Nat) (code : BitVec 8) (c : Instr) (s : State), s.allWf = true → hasPort port s = true → port < 8 → alive s = true → LogRoom s → (∀ o ∈ s.ops, o.leg = none) → applies c s = true →
    (∃ cyc lockFell, c = .linkLost port lockFell cyc ∧ code = 0x21#8 ∧ (linkAt port s).state = 2 ∧ (linkAt port s).dying = 0#8 ∧ (lockFell = true ∨ (linkAt port s).lastGood + 4096 ≤ s.clock.fclk + cyc))
      ∨ (c = .linkDown port code ∧ code ≠ 0#8 ∧ (linkAt port s).dying = code ∧ (linkAt port s).state ≠ 0) →
    Answers c s fun t =>
      (let l := linkAt port t; l.state = 0 ∧ l.phyEnable = false ∧ l.cause = code ∧ l.dying = 0#8 ∧ l.replay = [] ∧ l.streams = [] ∧ l.adds = [] ∧ l.relays = [] ∧ l.txq = [[], [], [], []])
        ∧ Logged code.toNat 0 (source 2 port) s t ∧ (reg (rIrqRaw (pRING port)) t).getLsbD 0 = true
        ∧ (∀ g, GroupUses (groupAt g s) port s → groupAt g t = { groupAt g s with fenced := true }) ∧ (∀ g, ¬ GroupUses (groupAt g s) port s → groupAt g t = groupAt g s)
        ∧ OnlyChanges [.reached, .groups, .links, .regs, .setNow, .log] s t

/-- Training: RETRAIN of a DOWN port that is not ABSENT starts it, where the steward runs, with the division and PHY configuration of the moment; a locked PHY lets the steward's TRAIN flit go; the PHY's status is taken in every state of the link, in UP alone; the partner's flit, where it is what R271 says, brings its credits, and the link is UP once both have passed, with sequence numbers and replay buffer fresh; of any other TRAIN flit 0x24 is found. -/
def Claims.LinkTraining : Prop :=
  (∀ (port master p : Nat) (s : State), s.tablesWf = true → p < 8 → hasPort p s = true → OwnerTurn port master (.retrain (.mgmt port master) p) s →
    Answers (.retrain (.mgmt port master) p) s fun t => Answered port master 0#32 s t ∧ LinksKeep p s t ∧
      (if stewardRuns s = true ∧ (linkAt p s).state = 0 ∧ portAbsent p s = false then
        (linkAt p t).state = 1 ∧ (linkAt p t).phyEnable = true ∧ (linkAt p t).phyCfg = reg64 (rPHY_CFG_LO p) s ∧ (linkAt p t).trainSent = false ∧ (linkAt p t).trainGot = false
          ∧ (∀ v, v < 4 → (linkAt p t).advertised.getD v 0 = regNat (rCREDIT p v) s) ∧ OnlyChanges [.reached, .links, .regs, .setNow, .out] s t
       else OnlyChanges [.reached, .out] s t))
    ∧ (∀ (port cyc : Nat) (locked : Bool) (stat : Word) (s : State), s.tablesWf = true → s.clock.due = [] → hasPort port s = true → port < 8 → alive s = true → (linkAt port s).state ≠ 2 →
      Answers (.linkTraining port locked stat cyc) s fun t => reg (rPHY_STAT port) t = stat ∧ (linkAt port t).phyLocked = locked ∧ LinksKeep port s t
        ∧ OnlyChanges [.links, .regs, .setNow, .out] s t ∧
        (if (linkAt port s).state = 1 ∧ (linkAt port s).dying = 0#8 ∧ locked = true ∧ stewardRuns s = true then (linkAt port t).trainSent = true
            ∧ (∃ i : TrainInfo, t.out = s.out ++ [.trainFlit port i] ∧ i.version = 0x00030001#32 ∧ i.coords = (List.range (axesN s)).map (fun a => selfCoord a s) ∧ i.port = port
                ∧ i.axis = portAxis port s ∧ i.dirNeg = portNeg port s ∧ i.credits = (linkAt port s).advertised)
            ∧ (if (linkAt port s).trainGot then (linkAt port t).state = 2 ∧ (linkAt port t).txSeq = 0 ∧ (linkAt port t).rxSeq = 4095 ∧ (linkAt port t).replay = [] else (linkAt port t).state = 1)
         else t.out = s.out ∧ (linkAt port t).state = (linkAt port s).state))
    ∧ (∀ (port cyc : Nat) (locked : Bool) (stat : Word) (s : State), s.tablesWf = true → s.clock.due = [] → hasPort port s = true → port < 8 → alive s = true → (linkAt port s).state = 2 →
      Answers (.linkTraining port locked stat cyc) s fun t => reg (rPHY_STAT port) t = stat ∧ RegsKeep [rPHY_STAT port] s t ∧ OnlyChanges [.regs] s t)
    ∧ ∀ (port cyc : Nat) (i : TrainInfo) (s : State), s.tablesWf = true → s.clock.due = [] → hasPort port s = true → port < 8 → alive s = true → (linkAt port s).state = 1 → (linkAt port s).dying = 0#8 →
      Answers (.trainFlitReceive port i cyc) s fun t => LinksKeep port s t ∧
        (if partnerCoords port s = some i.coords ∧ i.version.toNat / 65536 = 3 ∧ i.axis = portAxis port s ∧ i.dirNeg = !portNeg port s then
          (linkAt port t).trainGot = true ∧ (linkAt port t).credit = i.credits ∧ (linkAt port t).creditMax = i.credits ∧ t.log = s.log
            ∧ (linkAt port t).state = (if (linkAt port s).trainSent then 2 else 1) ∧ OnlyChanges [.links, .regs, .setNow] s t
         else Found (.entry ⟨0x24, clsNotice, source 2 port, none, none⟩) s t ∧ OnlyChanges [.found] s t)

/-- The loss of a link and its training. -/
def Obligations.LinksRiseAndFall : Prop := Claims.LinkLoss ∧ Claims.LinkTraining

/-! ### Ring legs (R279 to R285, R288, R304, R305, R347, R450) -/

/-- The leg runs here: its operation runs, holds its claim, and hears of no recall. -/
def LegRuns (o : Op) (g : Leg) : Prop := runs o = true ∧ o.claim = .claimed ∧ o.leg = some g ∧ g.recallAt = none

/-- The port of a step may take it: the fabric serves and is not FENCED, the leg's attempt has begun, the link is UP with fewer than 4,096 steps active, and the step's gate is open. -/
def StepFree (o : Op) (g : Leg) (port step : Nat) (s : State) : Prop :=
  serving s = true ∧ s.clock.fenced = false ∧ 1 < g.n ∧ g.notBefore.toNat ≤ s.clock.transit.toNat ∧ (linkAt port s).state = 2 ∧ activeSteps port s < 4096 ∧ gateOpen o step s = true

/-- The step has started: it is noted with the leg and stands among its steps on the port. -/
def StepOpen (id : OpId) (rev : Bool) (key port : Nat) (t : State) : Prop :=
  ∃ o g x, opAt id t = some o ∧ o.leg = some g ∧ (dirNat rev, key) ∈ g.started ∧ x ∈ g.tx ∧ x.port = port ∧ x.reverse = rev ∧ x.step = key

/-- A reduce-scatter step whose piece has elements starts once its first chunk can go: step 1 with the contribution done, a later step with a chunk of the step before it; the statistics lap of a REDUCE_SCATTER starts with this chip's statistics. An injection whose occasion has come at the port fires with the check value of the first chunk (R419). None starts while the fabric is FENCED, before the attempt's first transit, or while its link is not UP. -/
def Claims.RingSteps : Prop :=
  ∀ (id : OpId) (rev : Bool) (step cyc port : Nat) (o : Op) (g : Leg) (s : State), s.allWf = true → alive s = true → opAt id s = some o → LegRuns o g → sendPort (groupAt g.tgroup s) rev s = some port →
    (rev = true → g.twoWay = true) →
    let l := ledgerAt (dLedger o.d) s
    (applies (.ringStepStart id rev step cyc) s = true → isClosing (dOp o.d) = true → 0 < step → step < g.n → StepFree o g port step s →
      rsChunks o l g (rsOut g.pos step g.n rev) rev ≠ 0 → (if step = 1 then localDone o = true else 0 < tget 0 (gotKey rev (step - 1)) g.got) → (dirNat rev, step) ∉ g.started →
      Answers (.ringStepStart id rev step cyc) s fun t => StepOpen id rev step port t ∧ (injects 3 port s = true → reg rINJECT_COUNT t = satAdd (reg rINJECT_COUNT s) 1 ∧ bitOf (reg rINJECT t) 31 = false ∧ t.injected = none) ∧ OnlyChanges [.reached, .ops, .links, .regs, .setNow, .found, .injected] s t)
      ∧ (applies (.statisticsLap id cyc) s = true → rev = false → dOp o.d = oREDUCE_SCATTER → intPath (dInFmt o.d) = false → StepFree o g port g.n s → legStats o l = true → egHeld o = false → tget [] g.pos g.stats ≠ [] → (0, lapKey g.relap g.n) ∉ g.started →
        Answers (.statisticsLap id cyc) s fun t => StepOpen id false (lapKey g.relap g.n) port t ∧ OnlyChanges [.reached, .ops, .links, .regs, .setNow, .found, .injected] s t)
      ∧ (applies (.ringStepStart id rev step cyc) s = true → s.clock.fenced = true ∨ s.clock.transit.toNat < g.notBefore.toNat ∨ (linkAt port s).state ≠ 2 →
        Answers (.ringStepStart id rev step cyc) s fun t => OnlyChanges [.reached] s t)

/-- What a reduce-scatter chunk must be at this position to be the next of its step (R279, R281, R283). -/
def RsFits (o : Op) (l : Ledger) (g : Leg) (h : ChunkHdr) : Prop :=
  let j := tget 0 (gotKey h.rev h.step) g.got
  isClosing (dOp o.d) = true ∧ 1 ≤ h.step ∧ h.step < g.n ∧ h.content = rsContent l.fmt g.wire ∧ (h.rev = true → g.twoWay = true)
    ∧ h.src = (if h.rev then (g.pos + 1) % g.n else subMod g.pos 1 g.n) ∧ h.piece = rsIn g.pos h.step g.n h.rev ∧ h.offset = 4096 * j
    ∧ j < rsChunks o l g h.piece h.rev ∧ h.len = ((rsRange o l g h.piece h.rev j).2 - (rsRange o l g h.piece h.rev j).1) * rsBytes l g

/-- A whole chunk at the head of a stream, for this chip's position of a running leg. One whose check fails is counted and dropped, and the contained fault 0x30 of the operation is found; of a reduce-scatter chunk that is not the next of its step 0x27 is found, fatal to the ledger; the next one, once its place has been read, adds each of its elements to the local value and counts. -/
def Claims.ChunksArrive : Prop :=
  ∀ (port tag cyc : Nat) (st : Stream) (h : ChunkHdr) (o : Op) (g : Leg) (s : State), s.allWf = true → s.clock.due = [] → hasPort port s = true → port < 8 → alive s = true →
    streamAt port tag s = some st → headHdr st.bytes = some h → 20 + h.len ≤ st.bytes.length → routeOf port h.tgroup h.rev s = .ring → legOp h.tgroup h.seq s = some (o, g) →
    opAt o.id s = some o → LegRuns o g → chanKey port st.vc ∉ g.markers → struckSoon o.id s = false →
    let n := dLedger o.d
    let l := ledgerAt n s
    let raw := st.bytes.take (20 + h.len)
    let good := leNat (raw.drop (16 + h.len)) = (crc32c (raw.take (16 + h.len))).toNat
    (¬ good → Answers (.ringChunkReceive port tag cyc) s fun t =>
        reg (rCHUNK_FAIL port) t = satAdd (reg (rCHUNK_FAIL port) s) 1 ∧ Found (.contained o.id 0x30#8 (source 2 port) (!isClosing (dOp o.d))) s t ∧ OnlyChanges [.links, .regs, .found] s t)
      ∧ (good → h.kind = kRS → ¬ RsFits o l g h → Answers (.ringChunkReceive port tag cyc) s fun t =>
        Found (.fatal o.id 0x27#8 (source 2 port)) s t ∧ OnlyChanges [.links, .found] s t)
      ∧ (good → h.kind = kRS → RsFits o l g h → localDone o = true →
        let j := tget 0 (gotKey h.rev h.step) g.got
        rsChunks o l g (rsOut g.pos h.step g.n h.rev) h.rev ≤ j ∨ (stepStarted g h.rev h.step = true ∧ ∀ x, findTx g h.rev h.step = some x → x.lastQueued = true ∨ j < x.sentChunks) →
        let lo := (rsRange o l g h.piece h.rev j).1
        let b := rsBytes l g
        Answers (.ringChunkReceive port tag cyc) s fun t => ∃ o' g', opAt o.id t = some o' ∧ o'.leg = some g' ∧ tget 0 (gotKey h.rev h.step) g'.got = j + 1
          ∧ (∀ i, i < (rsRange o l g h.piece h.rev j).2 - lo → tget 0#64 (lo + i) g'.region
              = (accAdd (intPath l.fmt) (wireVal (rsContent l.fmt g.wire) (sliceB (raw.drop 16) (b * i) b)) (elemVal o l (lo + i))).1)
          ∧ (∀ e, e < lo ∨ (rsRange o l g h.piece h.rev j).2 ≤ e → tget 0#64 e g'.region = tget 0#64 e g.region)
          ∧ t.ledgers = s.ledgers ∧ t.log = s.log)

/-- A stream that a step of the leg forwards: nothing goes before 12 cycles from its first flit; then all that has come, where the forwarding buffer has room for it, goes into the step, which has its last flit with the stream's. A step whose last flit the link has acknowledged ends. -/
def Claims.ForwardingAndStepEnds : Prop :=
  (∀ (port tag cyc : Nat) (st : Stream) (s : State), s.allWf = true → s.clock.due = [] → hasPort port s = true → alive s = true → streamAt port tag s = some st →
    (s.clock.fclk + cyc < st.firstAt + 12 → Answers (.chunkForward port tag cyc) s fun t => OnlyChanges [] s t)
      ∧ ∀ (o : Op) (x : TxStep), st.onward = true → st.fwd ≠ [] → st.firstAt + 12 ≤ s.clock.fclk + cyc → behindMarker port tag s = false → legForward port tag s = some (o, x) → opAt o.id s = some o →
        x.lastQueued = false → runs o = true → st.fwd.length + x.buf.length ≤ forwardRoom x.port s → Answers (.chunkForward port tag cyc) s fun t =>
          (∀ st', streamAt port tag t = some st' → st'.fwd = []) ∧ (∃ o' g' x', opAt o.id t = some o' ∧ o'.leg = some g' ∧ x' ∈ g'.tx ∧ x'.port = x.port ∧ x'.sid = x.sid ∧ x'.lastQueued = st.last)
            ∧ (∀ i, i ≠ o.id → opAt i t = opAt i s) ∧ OnlyChanges [.ops, .links, .injected, .regs, .setNow] s t)
    ∧ ∀ (port tag : Nat) (o : Op) (g : Leg) (x : TxStep) (s : State), s.allWf = true → s.clock.due = [] → hasPort port s = true → alive s = true → opAt o.id s = some o → o.leg = some g → x ∈ g.tx → x.port = port → stepTag x.sid (linkAt port s) = some tag →
      x.lastQueued = true → (∀ f ∈ flitsOf port s, f.kind = fkDATA → f.step ≠ x.sid) → Answers (.ringStepEnd port tag) s fun t =>
        (∃ o' g', opAt o.id t = some o' ∧ o'.leg = some g' ∧ x ∉ g'.tx ∧ (∀ y ∈ g.tx, y.port ≠ port ∨ stepTag y.sid (linkAt port s) ≠ some tag → y ∈ g'.tx) ∧ g'.started = g.started) ∧ OnlyChanges [.ops, .links] s t

/-- Starts, forwarding and ends of steps. -/
def Obligations.RingStepsRun : Prop := Claims.RingSteps ∧ Claims.ForwardingAndStepEnds

/-- A RECALL message on VC3 that this chip has not heard of is noted with its code and passed on to every neighbour of the definition; an echo that was to come is taken off; in class 4 of the next transit the recall restarts the leg, one attempt further, with nothing started, received or delivered. -/
def Claims.RecallsOfLegs : Prop :=
  (∀ (port cyc : Nat) (m : CtlMsg) (o : Op) (g : Leg) (s : State), s.allWf = true → s.clock.due = [] → hasPort port s = true → alive s = true → HeadMessage port 0x04#8 m s → m.vc = 3 →
    legOp (m.payload.getD 1 0#8).toNat (BitVec.ofNat 16 (leNat (sliceB m.payload 2 2))) s = some (o, g) → opAt o.id s = some o → o.leg = some g → (∀ p, (linkAt p s).txq.length = 4) →
    let code := m.payload.getD 4 0#8
    (port ∈ g.recallEcho → Answers (.recallMsgReceive port cyc) s fun t =>
        (∃ o', opAt o.id t = some o' ∧ o'.leg = some { g with recallEcho := g.recallEcho.filter (· != port) }) ∧ OnlyChanges [.ops, .links] s t)
      ∧ (port ∉ g.recallEcho → g.recallAt = none → Answers (.recallMsgReceive port cyc) s fun t =>
        (∃ o', opAt o.id t = some o' ∧ o'.leg = some { g with recallFrom := g.recallFrom ++ [port], recallAt := some code, notBefore := s.clock.transit + 1 })
          ∧ (∀ p ∈ floodPorts (groupAt g.tgroup s) s, ctlFlit (recallMsg g.tgroup g.seq code) ∈ (linkAt p t).txq.getD 3 []) ∧ OnlyChanges [.ops, .links] s t))
    ∧ ∀ (id : OpId) (cyc : Nat) (code : BitVec 8) (o : Op) (g : Leg) (s : State), s.allWf = true → alive s = true → opAt id s = some o → runs o = true → o.leg = some g → g.recallAt = some code →
      g.notBefore.toNat ≤ s.clock.transit.toNat → applies (.recallOp id cyc) s = true → Answers (.recallOp id cyc) s fun t =>
        (∃ o' g', opAt id t = some o' ∧ o'.attempt = o.attempt + 1 ∧ o'.replayed = true ∧ o'.eg.next = 0 ∧ o'.leg = some g' ∧ g'.attempt = g.attempt + 1 ∧ g'.recallAt = none
            ∧ g'.started = [] ∧ g'.tx = [] ∧ g'.got = [] ∧ g'.images = [] ∧ g'.delivered = [] ∧ g'.notBefore = s.clock.transit + 1)
          ∧ (verdictAt (verdictKey g.tgroup g.seq) t).passed = false ∧ t.ledgers = s.ledgers

/-- A leg's verdict passes here once every chunk that this chip was to receive has come and every step that it was to send has started and ended, with no comparison of it and no relay of the leg outstanding; before that nothing happens. -/
def Claims.VerdictPasses : Prop :=
  ∀ (tg : Nat) (seq : BitVec 16) (o : Op) (g : Leg) (s : State), s.allWf = true → alive s = true → legOp tg seq s = some (o, g) → 1 < g.n → LegRuns o g → applies (.verdictPass tg seq) s = true →
    let l := ledgerAt (dLedger o.d) s
    let through := egHeld o = false ∧ (o.eg.spec = true → o.eg.trueAU ≠ none) ∧ g.tx = [] ∧ (∀ x ∈ s.links, ∀ r ∈ x.2.relays, r.group = tg → r.seq ≠ seq) ∧ legReceived o l g = true ∧ legSent o l g = true
    (through → Answers (.verdictPass tg seq) s fun t => (verdictAt (verdictKey tg seq) t).passed = true ∧ (∀ k, k ≠ verdictKey tg seq → verdictAt k t = verdictAt k s)
        ∧ OnlyChanges [.reached, .verdicts, .links, .ops] s t)
      ∧ (¬ through → Answers (.verdictPass tg seq) s fun t => OnlyChanges [.reached] s t)

/-- Recalls and verdicts of legs. -/
def Obligations.LegsEndOrRestart : Prop := Claims.RecallsOfLegs ∧ Claims.VerdictPasses

/-! ### Faults by class (R333, R334, R343 to R345, R348, R350, R351, R358, R419) -/

/-- The operation has failed in this transit with this code. -/
def FailedNow (id : OpId) (code : BitVec 8) (s t : State) : Prop := ∃ o, opAt id t = some o ∧ o.fail = some (code, s.clock.transit)

/-- The ledger has become FAULTED with this code: it keeps no accumulators and no holder (R350). -/
def FaultedNow (n : Nat) (code : BitVec 8) (t : State) : Prop :=
  (ledgerAt n t).state = 3 ∧ (ledgerAt n t).fault = code ∧ (ledgerAt n t).holder = none ∧ (ledgerAt n t).acc = [] ∧ (ledgerAt n t).blocks = [] ∧ (ledgerAt n t).pages = []

/-- A running operation that holds its ledger, OPEN or CLOSING, and that no fault of this transit has struck. -/
def HoldsNow (id : OpId) (o : Op) (s : State) : Prop :=
  opAt id s = some o ∧ runs o = true ∧ namesLedger (dOp o.d) = true ∧ (ledgerAt (dLedger o.d) s).holder = some id
    ∧ ((ledgerAt (dLedger o.d) s).state = 1 ∨ (ledgerAt (dLedger o.d) s).state = 2) ∧ o.struck ≠ some s.clock.transit

/-- The operation is struck by a contained fault: its attempt count rises, and it is to replay, with its contributions asked again or not; nothing else of it changes but the chain that it belongs to. -/
def Struck (id : OpId) (o : Op) (resend : Bool) (s t : State) : Prop :=
  ∃ o' : Op, opAt id t = some o' ∧ { o' with hit := o.hit } = { o with struck := some s.clock.transit, attempt := o.attempt + 1, replay := some resend }

/-- A fault that a chunk brought strikes its operation in its place of class 2, here before a command that itself does nothing: a contained one is entered and makes the operation replay, a ledger-fatal one makes the ledger FAULTED (R215, R217, R343, R350). -/
def Claims.FoundStrikes : Prop :=
  ∀ (n : Nat) (id : OpId) (o : Op) (src : BitVec 16) (s : State), s.allWf = true → alive s = true → n < 16 → (lineAt n s).rangAt = none → LogRoom s → HoldsNow id o s →
    (∀ resend, s.clock.due = [(duePlace (.contained id 0x30#8 src resend), .contained id 0x30#8 src resend)] → o.attempt < 2 → Answers (.bellRearm n) s fun t =>
      Logged 0x30 2 src s t ∧ Struck id o resend s t ∧ OnlyChanges [.reached, .due, .ops, .regs, .setNow, .log] s t)
    ∧ ∀ code, code = 0x27#8 ∨ code = 0x28#8 → s.clock.due = [(duePlace (.fatal id code src), .fatal id code src)] → Answers (.bellRearm n) s fun t =>
      Logged code.toNat 3 src s t ∧ FaultedNow (dLedger o.d) code t ∧ FailedNow id code s t

/-- Chunks of a leg, and the faults that they have brought. -/
def Obligations.ChunkReception : Prop := Claims.ChunksArrive ∧ Claims.FoundStrikes

/-- Detections: 0x32 is entered as CORRECTABLE and counted, and nothing else changes. 0x31 or 0x33 in what an operation wrote, or in a beat of it at a seam, is counted, 0x31 as an uncorrected error too (log 22), and CONTAINED: the operation is to replay, its contribution asked again except for a piece; at attempt 2 its ledger becomes FAULTED with 0x34 instead. 0x33 in a ledger's sealed values makes it FAULTED. -/
def Claims.FaultDetections : Prop :=
  ∀ (src : BitVec 16) (place : FaultPlace) (s : State), s.allWf = true → alive s = true → LogRoom s →
    (applies (.faultDetect 0x32#8 src place) s = true → Answers (.faultDetect 0x32#8 src place) s fun t =>
      Logged 0x32 1 src s t ∧ reg rECC_CORRECTED t = satAdd (reg rECC_CORRECTED s) 1 ∧ OnlyChanges [.reached, .regs, .setNow, .log] s t)
      ∧ (∀ code id o, code = 0x31#8 ∨ code = 0x33#8 → HoldsNow id o s → place = .opPage id ∨ place = .opPiece id ∨ (∃ p, place = .seamBeat p id) → applies (.faultDetect code src place) s = true →
        Answers (.faultDetect code src place) s fun t => reg rECC_UNCORRECTED t = satAdd (reg rECC_UNCORRECTED s) 1 ∧
          (if o.attempt < 2 then Logged code.toNat 2 src s t ∧ Struck id o (decide (place ≠ .opPiece id)) s t ∧ t.ledgers = s.ledgers
              ∧ OnlyChanges [.reached, .ops, .regs, .setNow, .log] s t
           else Logged 0x34 3 src s t ∧ FaultedNow (dLedger o.d) 0x34#8 t ∧ FailedNow id 0x34#8 s t))
      ∧ ∀ l : BitVec 12, place = .ledgerPage l → (ledgerAt l.toNat s).state = 1 → (ledgerAt l.toNat s).holder = none → applies (.faultDetect 0x33#8 src place) s = true →
        Answers (.faultDetect 0x33#8 src place) s fun t => Logged 0x33 3 src s t ∧ FaultedNow l.toNat 0x33#8 t ∧ (∀ k, k ≠ l.toNat → ledgerAt k t = ledgerAt k s)
          ∧ reg rECC_UNCORRECTED t = satAdd (reg rECC_UNCORRECTED s) 1 ∧ OnlyChanges [.reached, .ledgers, .planes, .regs, .setNow, .log] s t

/-- The replay of a contained fault that is due, in the attempt that the fault began: marked as replayed, the egress to run again, and where the contributors are asked again their beats, sums and new accumulators are gone; no ledger changes and nothing is logged. -/
def Claims.ContainedReplays : Prop :=
  ∀ (id : OpId) (code : BitVec 8) (src : BitVec 16) (o : Op) (resend : Bool) (s : State), s.allWf = true → alive s = true → isContained code.toNat = true → opAt id s = some o → o.comparing = false →
    o.fail = none → o.leg = none → o.replay = some resend → applies (.containedReplay id code src) s = true → Answers (.containedReplay id code src) s fun t =>
      (∃ o', opAt id t = some o' ∧ o'.attempt = o.attempt ∧ o'.replay = none ∧ o'.replayed = true ∧ o'.fail = none ∧ o'.eg.next = 0 ∧ o'.eg.ended = false ∧ o'.down = []
          ∧ (resend = true → o'.beats = [] ∧ o'.summed = [] ∧ o'.fresh = [] ∧ o'.added = false) ∧ (resend = false → o'.beats = o.beats ∧ o'.summed = o.summed ∧ o'.fresh = o.fresh))
        ∧ (∀ i, i ≠ id → opAt i t = opAt i s) ∧ t.ledgers = s.ledgers ∧ t.log = s.log

/-- Detections and replays. -/
def Obligations.ContainedFaults : Prop := Claims.FaultDetections ∧ Claims.ContainedReplays

/-- LEDGER_FATAL: an OPEN or CLOSING ledger becomes FAULTED with the code and one entry that names it, and its holder fails with the code; a ledger in another state is as before. The watchdog does the same with 0x35, from no one place (log 22), to an operation that has been without progress for its limit, and nothing before, nor while a memory request of the operation is outstanding within its TIMEOUT. -/
def Obligations.LedgerFatals : Prop :=
  (∀ (l : BitVec 12) (code : BitVec 8) (src : BitVec 16) (s : State), s.allWf = true → alive s = true → isLedgerFatal code.toNat = true → LogRoom s → applies (.ledgerFatal l code src) s = true →
    ((ledgerAt l.toNat s).state = 1 ∨ (ledgerAt l.toNat s).state = 2 → (ledgerAt l.toNat s).holder = none → Answers (.ledgerFatal l code src) s fun t =>
        Logged code.toNat 3 src s t ∧ FaultedNow l.toNat code t ∧ (∀ k, k ≠ l.toNat → ledgerAt k t = ledgerAt k s) ∧ (reg (rIrqRaw pLEDGER) t).getLsbD 0 = true
          ∧ OnlyChanges [.reached, .ledgers, .planes, .regs, .setNow, .log] s t)
      ∧ (∀ id o, HoldsNow id o s → dLedger o.d = l.toNat → Answers (.ledgerFatal l code src) s fun t => Logged code.toNat 3 src s t ∧ FaultedNow l.toNat code t ∧ FailedNow id code s t)
      ∧ ((ledgerAt l.toNat s).state = 0 ∨ (ledgerAt l.toNat s).state = 3 → Answers (.ledgerFatal l code src) s fun t => OnlyChanges [.reached] s t))
    ∧ ∀ (id : OpId) (o : Op) (s : State), s.allWf = true → alive s = true → HoldsNow id o s → LogRoom s → applies (.watchdog id) s = true →
      (regNat rWATCHDOG s ≠ 0 → regNat rWATCHDOG s ≤ o.idle → memHolds o s = false → Answers (.watchdog id) s fun t => Logged 0x35 3 0x0000#16 s t ∧ FaultedNow (dLedger o.d) 0x35#8 t ∧ FailedNow id 0x35#8 s t)
        ∧ (regNat rWATCHDOG s = 0 ∨ o.idle < regNat rWATCHDOG s ∨ memHolds o s = true → Answers (.watchdog id) s fun t => OnlyChanges [.reached] s t)

/-- FABRIC_FATAL: FAB_FAULT rises and FAB_READY falls, with one entry of class FABRIC_FATAL, and the first code and its transit are kept. From the next first edge every operation, ledger, tally, verdict, request and link state is lost; the configuration of lines, queues and definitions and the ephemeris stay (log 47: what R351 does not name stays). -/
def Obligations.FabricFatals : Prop :=
  (∀ (code : BitVec 8) (src : BitVec 16) (place : FaultPlace) (c : Instr) (s : State), s.allWf = true → alive s = true → code = 0xF0#8 ∨ code = 0xF1#8 ∨ code = 0xF2#8 → LogRoom s →
    c = .fabricFatal code src ∨ c = .faultDetect code src place → applies c s = true → Answers c s fun t =>
      t.clock.fabFault = true ∧ t.clock.fabReady = false ∧ t.clock.rstN = true ∧ Logged code.toNat 4 src s t ∧ (reg (rIrqRaw pGLOBAL) t).getLsbD 0 = true
        ∧ (reg rFATAL_CODE s = 0#32 → reg rFATAL_CODE t = code.setWidth 32 ∧ reg64 rFATAL_TRANSIT_LO t = s.clock.transit) ∧ (reg rFATAL_CODE s ≠ 0#32 → reg rFATAL_CODE t = reg rFATAL_CODE s)
        ∧ OnlyChanges [.reached, .clock, .regs, .setNow, .log] s t)
    ∧ ∀ (cycles ticks : Nat) (s : State), s.allWf = true → s.clock.rstN = true → s.clock.fabFault = true → s.clock.held = [] → s.clock.due = [] → s.boot.applying = none → boundaryFits cycles ticks s = true →
      Answers (.transitBoundary cycles ticks) s fun t => t.clock.fabFault = true ∧ t.clock.fclk = s.clock.fclk + cycles ∧ t.clock.found = []
        ∧ t.ops = [] ∧ t.late = [] ∧ t.ledgers = [] ∧ t.verdicts = [] ∧ t.mem = [] ∧ t.memLate = [] ∧ (∀ n i, tally n i t = 0#32) ∧ (∀ p, (linkAt p t).state = 0 ∧ (linkAt p t).phyEnable = false)
        ∧ (∀ n, (lineAt n t).cfg = (lineAt n s).cfg) ∧ (∀ q, (queueAt q t).cfg = (queueAt q s).cfg ∧ (queueAt q t).fetched = [])
        ∧ t.tabs.ephemeris = s.tabs.ephemeris ∧ t.groups = s.groups

/-- An injection counts, is disarmed and interrupts as it fires (R418 to R420). -/
def InjectionFired (s t : State) : Prop :=
  reg rINJECT_COUNT t = satAdd (reg rINJECT_COUNT s) 1 ∧ reg rINJECT t = reg rINJECT s &&& 0x7FFFFFFF#32 ∧ (reg (rIrqRaw pDIAG) t).getLsbD 0 = true ∧ t.injected = none

/-- An armed injection fires once on the occasion that its kind describes: kind 1 enters a corrected error of a word that an operation has written on the plane, kind 2 an uncorrectable one in a page of it; kinds 3 and 4 take effect with what the ring port sends next, and the injection fires there (log 48); one that is not armed does nothing, nor does one whose operation has written no word there. -/
def Obligations.InjectionsFire : Prop :=
  ∀ (op : Option OpId) (s : State), s.allWf = true → serving s = true → LogRoom s → applies (.injectFire op) s = true →
    let w := reg rINJECT s
    let kind := fieldOf w 0 4
    let n := fieldOf w 8 3
    (bitOf w 31 = false → Answers (.injectFire op) s fun t => OnlyChanges [.reached] s t)
      ∧ (∀ id o, bitOf w 31 = true → kind = 1 → hasPlane n s = true → op = some id → opAt id s = some o →
          (wroteWord o n s = true → Answers (.injectFire op) s fun t => Logged 0x32 1 (source 1 n) s t ∧ InjectionFired s t ∧ reg rECC_CORRECTED t = satAdd (reg rECC_CORRECTED s) 1
            ∧ OnlyChanges [.reached, .regs, .setNow, .injected, .log] s t)
          ∧ (wroteWord o n s = false → Answers (.injectFire op) s fun t => OnlyChanges [.reached] s t))
      ∧ (∀ id o, bitOf w 31 = true → kind = 2 → hasPlane n s = true → op = some id → HoldsNow id o s → wrotePage o n s = true → o.attempt < 2 → Answers (.injectFire op) s fun t =>
          Logged 0x33 2 (source 1 n) s t ∧ InjectionFired s t ∧ Struck id o true s t ∧ t.ledgers = s.ledgers ∧ OnlyChanges [.reached, .ops, .regs, .setNow, .injected, .log] s t)
      ∧ (bitOf w 31 = true → kind = 3 ∨ kind = 4 → hasPort n s = true → Answers (.injectFire op) s fun t => t.injected = some w ∧ OnlyChanges [.reached, .injected] s t)

/-! ### The binocular pair (R353 to R358, R416) -/

/-- On a PAIRED build, a mismatch in a down chunk, a ring flit or a memory write is counted, entered as 0x80, begins the operation's next attempt and holds it while the stored state is compared; the flit of a step that differed, and what follows it there, is not sent, and a write that differed has not left; a difference of the state makes the ledger FAULTED with 0x81, agreement replays the operation; a late mismatch is entered as 0x84 and counted, and changes nothing else. The source names side A (log 22). -/
def Claims.BinocularMismatches : Prop :=
  ∀ s : State, s.allWf = true → alive s = true → s.build.paired = true → LogRoom s →
    (∀ id o point, binoPaired s = true → HoldsNow id o s → o.attempt < 2 → o.save = none → point = .downChunk id ∨ (∃ port, point = .ringFlit id port) ∨ (∃ req, point = .memWrite id req) →
      applies (.binoMismatch point) s = true →
      Answers (.binoMismatch point) s fun t => reg rMISMATCHES t = satAdd (reg rMISMATCHES s) 1 ∧ Logged 0x80 2 0x8000#16 s t ∧ t.ledgers = s.ledgers
        ∧ (∃ o', opAt id t = some o' ∧ o'.comparing = true ∧ o'.replay = some (!isSum (dOp o.d)) ∧ o'.attempt = o.attempt + 1) ∧ OnlyChanges [.reached, .ops, .links, .mem, .out, .regs, .setNow, .log] s t
        ∧ (point = .downChunk id → t.links = s.links ∧ t.mem = s.mem ∧ t.out = s.out)
        ∧ (∀ port, point = .ringFlit id port → t.mem = s.mem ∧ t.out = s.out ∧ (∀ p, p ≠ port → linkAt p t = linkAt p s)
            ∧ ∀ g x, o.leg = some g → differingStep g port s = some x → ∀ q ∈ (linkAt port t).txq, ∀ f ∈ q, f.kind = fkDATA → f.step ≠ x.sid)
        ∧ (∀ req r, point = .memWrite id req → (s.mem.find? fun r => r.write && r.id == req.toNat && purposeOp r.purpose == some id) = some r →
            t.links = s.links ∧ t.mem = s.mem.filter (fun x => !(x.write && x.id == req.toNat)) ∧ ∀ x ∈ t.out, x ∈ s.out))
      ∧ (∀ id o r, opAt id s = some o → o.comparing = true → o.fail = none → o.replay = some r → o.leg = none → o.save = none → namesLedger (dOp o.d) = true → (ledgerAt (dLedger o.d) s).holder = some id →
        (ledgerAt (dLedger o.d) s).state = 1 ∨ (ledgerAt (dLedger o.d) s).state = 2 →
        (applies (.binoStateCompare id true) s = true → Answers (.binoStateCompare id true) s fun t => Logged 0x81 3 0x8000#16 s t ∧ FaultedNow (dLedger o.d) 0x81#8 t ∧ FailedNow id 0x81#8 s t)
        ∧ (applies (.binoStateCompare id false) s = true → Answers (.binoStateCompare id false) s fun t =>
            (∃ o', opAt id t = some o' ∧ o'.comparing = false ∧ o'.replay = none ∧ o'.replayed = true ∧ o'.attempt = o.attempt ∧ o'.fail = none) ∧ t.ledgers = s.ledgers ∧ t.log = s.log))
      ∧ ∀ led : Option (BitVec 12), binoPaired s = true → applies (.lateMismatch led) s = true → Answers (.lateMismatch led) s fun t =>
        reg rLATE_MISMATCHES t = satAdd (reg rLATE_MISMATCHES s) 1 ∧ Logged 0x84 3 0x8000#16 s t ∧ OnlyChanges [.reached, .regs, .setNow, .log] s t

/-- A side's fault enters as 0x82 with that side as its source, and keeps its code: while PAIRED under AUTO, with no operation's output uncompared, the other side serves, SINGLE; of the side that does not serve a SINGLE pair nothing more changes; under POLICY 1 it is fabric-fatal, and of the serving side of a SINGLE pair it is with 0xF2. TAKEOVER of a PAIRED block is found, and moves the service in class 2 of the next transit without an entry (log 38); REPAIR of a SINGLE one is noted as pending, and can be withdrawn. Side A is source 0x8000, side B 0x8001 (log 22). -/
def Claims.BinocularSides : Prop :=
  (∀ (sideB : Bool) (code : BitVec 8) (s : State), s.allWf = true → alive s = true → s.build.paired = true → isFabricCode code.toNat = true → LogRoom s → applies (.sideFault sideB code) s = true →
    let src := source 8 (if sideB then 1 else 0)
    let ecc (t : State) := reg rECC_UNCORRECTED t = if code = 0xF0#8 then satAdd (reg rECC_UNCORRECTED s) 1 else reg rECC_UNCORRECTED s
    (binoPaired s = true → bitOf (reg rBINO_POLICY s) 0 = false → (∀ o ∈ s.ops, o.eg.shown = false) → Answers (.sideFault sideB code) s fun t =>
        binoState t = (if sideB then 2 else 3) ∧ bitOf (reg rBINO_STATE t) 4 = !sideB ∧ reg rSIDE_FAULT_CODE t = code.setWidth 32 ∧ Logged 0x82 2 src s t ∧ ecc t
          ∧ t.clock.fabFault = false ∧ t.ledgers = s.ledgers)
      ∧ (binoPaired s = false → bitOf (reg rBINO_STATE s) 4 ≠ sideB → bitOf (reg rBINO_POLICY s) 0 = false → Answers (.sideFault sideB code) s fun t =>
        reg rBINO_STATE t = reg rBINO_STATE s ∧ reg rSIDE_FAULT_CODE t = code.setWidth 32 ∧ Logged 0x82 2 src s t ∧ ecc t ∧ OnlyChanges [.reached, .regs, .setNow, .log] s t)
      ∧ (binoPaired s = true ∨ bitOf (reg rBINO_STATE s) 4 ≠ sideB → bitOf (reg rBINO_POLICY s) 0 = true → Answers (.sideFault sideB code) s fun t =>
        t.clock.fabFault = true ∧ reg rSIDE_FAULT_CODE t = code.setWidth 32 ∧ Logged 0x82 4 src s t ∧ ecc t)
      ∧ (binoPaired s = false → bitOf (reg rBINO_STATE s) 4 = sideB → Answers (.sideFault sideB code) s fun t => t.clock.fabFault = true ∧ Logged 0xF2 4 src s t ∧ ecc t))
    ∧ (∀ (n : Nat) (b : Bool) (s : State), s.allWf = true → alive s = true → n < 16 → (lineAt n s).rangAt = none → s.clock.due = [(duePlace (.takeover b), .takeover b)] →
      binoPaired s = true → bitOf (reg rBINO_STATE s) 4 = b → (∀ o ∈ s.ops, o.eg.shown = false) → Answers (.bellRearm n) s fun t =>
        binoState t = (if b then 2 else 3) ∧ bitOf (reg rBINO_STATE t) 4 = !b ∧ RegsKeep [rBINO_STATE] s t ∧ t.clock.due = [] ∧ t.ledgers = s.ledgers ∧ t.log = s.log)
    ∧ ∀ (port master : Nat) (s : State), s.allWf = true → alive s = true → s.build.paired = true →
      (OwnerTurn port master (.takeover (.mgmt port master)) s → Answers (.takeover (.mgmt port master)) s fun t => Answered port master 0#32 s t ∧
        (if binoPaired s = true then Found (.takeover (bitOf (reg rBINO_STATE s) 4)) s t ∧ OnlyChanges [.reached, .found, .out] s t else OnlyChanges [.reached, .out] s t))
      ∧ (OwnerTurn port master (.repair (.mgmt port master)) s → Answers (.repair (.mgmt port master)) s fun t => Answered port master 0#32 s t ∧ binoState t = binoState s
        ∧ (2 ≤ binoState s → bitOf (reg rBINO_STATE t) 5 = true) ∧ (binoState s < 2 → reg rBINO_STATE t = reg rBINO_STATE s) ∧ OnlyChanges [.reached, .regs, .setNow, .out] s t)
      ∧ (OwnerTurn port master (.repairWithdraw (.mgmt port master)) s → Answers (.repairWithdraw (.mgmt port master)) s fun t => Answered port master 0#32 s t
        ∧ bitOf (reg rBINO_STATE t) 5 = false ∧ binoState t = binoState s ∧ RegsKeep [rBINO_STATE] s t ∧ OnlyChanges [.reached, .regs, .out] s t)

/-- The idle side that a REPAIR has reset is paired again in the next transit, with the interrupt of its page, unless its self-test has failed by then (R357). -/
def Claims.PairAgain : Prop :=
  ∀ (n : Nat) (s : State), s.allWf = true → alive s = true → s.build.paired = true → n < 16 → (lineAt n s).rangAt = none → 2 ≤ binoState s → s.clock.due = [(duePlace .repaired, .repaired)] →
    (Answers (.bellRearm n) s fun t => binoState t = 1 ∧ (reg (rIrqRaw pBINOCULAR) t).getLsbD 2 = true ∧ OnlyChanges [.reached, .due, .log, .regs, .setNow] s t)
    ∧ (LogRoom s → placeLe s.clock.reached ⟨2, [0x85, (source 8 (if bitOf (reg rBINO_STATE s) 4 then 0 else 1)).toNat]⟩ = true →
        Answers (.faultDetect 0x85#8 (source 8 (if bitOf (reg rBINO_STATE s) 4 then 0 else 1)) .fabric) s fun t =>
          binoState t = binoState s ∧ t.clock.due = [] ∧ Logged 0x85 0 (source 8 (if bitOf (reg rBINO_STATE s) 4 then 0 else 1)) s t)

/-- Mismatches, side faults, takeover and re-pairing. -/
def Obligations.BinocularPair : Prop := Claims.BinocularMismatches ∧ Claims.BinocularSides ∧ Claims.PairAgain

/-! ### What every step keeps -/

/-- The tables of the state are in canonical form from RST_N on, in every build that R5 allows: registers, tallies, lines, links, definitions, queues, ledgers, stalls, planes, and the tables within operations, ledgers and links. -/
def Obligations.ResetTables : Prop := ∀ b : Build, b.wf = true → (State.resetOf b).allWf = true

/-- Every step keeps the canonical form of the state's tables, and no reserved bit enters a queue's CFG. -/
def Obligations.StepKeepsTables : Prop := ∀ s t : State, s.tablesWf = true → step s = .next t → t.tablesWf = true

/-- Every step keeps the canonical form of all tables, those within operations, ledgers and links too. -/
def Obligations.StepKeepsAllTables : Prop := ∀ s t : State, s.allWf = true → step s = .next t → t.allWf = true

/-- Every step keeps the build, and takes exactly the front command off the queue: no command's effect adds, removes or reorders a command (the model's own form, log 4). -/
def Obligations.StepKeepsBuildAndQueue : Prop := ∀ s t : State, step s = .next t → t.build = s.build ∧ t.pending = s.pending.drop 1

/-- The error log never holds more than 32 entries, and the 32nd place only takes a FABRIC_FATAL entry, whatever the steps. -/
def Obligations.LogKeepsItsBounds : Prop :=
  ∀ s t : State, step s = .next t → s.log.entries.length ≤ 32 → (∀ e, s.log.entries[31]? = some e → e.cls = 4) →
    t.log.entries.length ≤ 32 ∧ ∀ e, t.log.entries[31]? = some e → e.cls = 4
end

