-- ==== Sys2Proof/Laws/State.lean ====
section
/-! SUPPORT. What each update of the state leaves alone: one lemma per field and update, true by rfl. -/

namespace Sys2Proof.Machine

variable (s : State)

/-! ### setReg -/

@[simp] theorem setReg_build (a : Nat) (v : Word) : (setReg a v s).build = s.build := rfl
@[simp] theorem setReg_clock (a : Nat) (v : Word) : (setReg a v s).clock = s.clock := rfl
@[simp] theorem setReg_hiLatch (a : Nat) (v : Word) : (setReg a v s).hiLatch = s.hiLatch := rfl
@[simp] theorem setReg_setNow (a : Nat) (v : Word) : (setReg a v s).setNow = s.setNow := rfl
@[simp] theorem setReg_tabs (a : Nat) (v : Word) : (setReg a v s).tabs = s.tabs := rfl
@[simp] theorem setReg_mer (a : Nat) (v : Word) : (setReg a v s).mer = s.mer := rfl
@[simp] theorem setReg_owner (a : Nat) (v : Word) : (setReg a v s).owner = s.owner := rfl
@[simp] theorem setReg_steward (a : Nat) (v : Word) : (setReg a v s).steward = s.steward := rfl
@[simp] theorem setReg_boot (a : Nat) (v : Word) : (setReg a v s).boot = s.boot := rfl
@[simp] theorem setReg_log (a : Nat) (v : Word) : (setReg a v s).log = s.log := rfl
@[simp] theorem setReg_mem (a : Nat) (v : Word) : (setReg a v s).mem = s.mem := rfl
@[simp] theorem setReg_memLate (a : Nat) (v : Word) : (setReg a v s).memLate = s.memLate := rfl
@[simp] theorem setReg_lines (a : Nat) (v : Word) : (setReg a v s).lines = s.lines := rfl
@[simp] theorem setReg_verdicts (a : Nat) (v : Word) : (setReg a v s).verdicts = s.verdicts := rfl
@[simp] theorem setReg_links (a : Nat) (v : Word) : (setReg a v s).links = s.links := rfl
@[simp] theorem setReg_groups (a : Nat) (v : Word) : (setReg a v s).groups = s.groups := rfl
@[simp] theorem setReg_queues (a : Nat) (v : Word) : (setReg a v s).queues = s.queues := rfl
@[simp] theorem setReg_orders (a : Nat) (v : Word) : (setReg a v s).orders = s.orders := rfl
@[simp] theorem setReg_ledgers (a : Nat) (v : Word) : (setReg a v s).ledgers = s.ledgers := rfl
@[simp] theorem setReg_ops (a : Nat) (v : Word) : (setReg a v s).ops = s.ops := rfl
@[simp] theorem setReg_late (a : Nat) (v : Word) : (setReg a v s).late = s.late := rfl
@[simp] theorem setReg_pageWait (a : Nat) (v : Word) : (setReg a v s).pageWait = s.pageWait := rfl
@[simp] theorem setReg_stalls (a : Nat) (v : Word) : (setReg a v s).stalls = s.stalls := rfl
@[simp] theorem setReg_planes (a : Nat) (v : Word) : (setReg a v s).planes = s.planes := rfl
@[simp] theorem setReg_assayWin (a : Nat) (v : Word) : (setReg a v s).assayWin = s.assayWin := rfl
@[simp] theorem setReg_counts (a : Nat) (v : Word) : (setReg a v s).counts = s.counts := rfl
@[simp] theorem setReg_injected (a : Nat) (v : Word) : (setReg a v s).injected = s.injected := rfl
@[simp] theorem setReg_out (a : Nat) (v : Word) : (setReg a v s).out = s.out := rfl
@[simp] theorem setReg_pending (a : Nat) (v : Word) : (setReg a v s).pending = s.pending := rfl

/-! ### setReg64 -/

@[simp] theorem setReg64_build (a : Nat) (v : Word64) : (setReg64 a v s).build = s.build := rfl
@[simp] theorem setReg64_clock (a : Nat) (v : Word64) : (setReg64 a v s).clock = s.clock := rfl
@[simp] theorem setReg64_hiLatch (a : Nat) (v : Word64) : (setReg64 a v s).hiLatch = s.hiLatch := rfl
@[simp] theorem setReg64_setNow (a : Nat) (v : Word64) : (setReg64 a v s).setNow = s.setNow := rfl
@[simp] theorem setReg64_tabs (a : Nat) (v : Word64) : (setReg64 a v s).tabs = s.tabs := rfl
@[simp] theorem setReg64_mer (a : Nat) (v : Word64) : (setReg64 a v s).mer = s.mer := rfl
@[simp] theorem setReg64_owner (a : Nat) (v : Word64) : (setReg64 a v s).owner = s.owner := rfl
@[simp] theorem setReg64_steward (a : Nat) (v : Word64) : (setReg64 a v s).steward = s.steward := rfl
@[simp] theorem setReg64_boot (a : Nat) (v : Word64) : (setReg64 a v s).boot = s.boot := rfl
@[simp] theorem setReg64_log (a : Nat) (v : Word64) : (setReg64 a v s).log = s.log := rfl
@[simp] theorem setReg64_mem (a : Nat) (v : Word64) : (setReg64 a v s).mem = s.mem := rfl
@[simp] theorem setReg64_memLate (a : Nat) (v : Word64) : (setReg64 a v s).memLate = s.memLate := rfl
@[simp] theorem setReg64_lines (a : Nat) (v : Word64) : (setReg64 a v s).lines = s.lines := rfl
@[simp] theorem setReg64_verdicts (a : Nat) (v : Word64) : (setReg64 a v s).verdicts = s.verdicts := rfl
@[simp] theorem setReg64_links (a : Nat) (v : Word64) : (setReg64 a v s).links = s.links := rfl
@[simp] theorem setReg64_groups (a : Nat) (v : Word64) : (setReg64 a v s).groups = s.groups := rfl
@[simp] theorem setReg64_queues (a : Nat) (v : Word64) : (setReg64 a v s).queues = s.queues := rfl
@[simp] theorem setReg64_orders (a : Nat) (v : Word64) : (setReg64 a v s).orders = s.orders := rfl
@[simp] theorem setReg64_ledgers (a : Nat) (v : Word64) : (setReg64 a v s).ledgers = s.ledgers := rfl
@[simp] theorem setReg64_ops (a : Nat) (v : Word64) : (setReg64 a v s).ops = s.ops := rfl
@[simp] theorem setReg64_late (a : Nat) (v : Word64) : (setReg64 a v s).late = s.late := rfl
@[simp] theorem setReg64_pageWait (a : Nat) (v : Word64) : (setReg64 a v s).pageWait = s.pageWait := rfl
@[simp] theorem setReg64_stalls (a : Nat) (v : Word64) : (setReg64 a v s).stalls = s.stalls := rfl
@[simp] theorem setReg64_planes (a : Nat) (v : Word64) : (setReg64 a v s).planes = s.planes := rfl
@[simp] theorem setReg64_assayWin (a : Nat) (v : Word64) : (setReg64 a v s).assayWin = s.assayWin := rfl
@[simp] theorem setReg64_counts (a : Nat) (v : Word64) : (setReg64 a v s).counts = s.counts := rfl
@[simp] theorem setReg64_injected (a : Nat) (v : Word64) : (setReg64 a v s).injected = s.injected := rfl
@[simp] theorem setReg64_out (a : Nat) (v : Word64) : (setReg64 a v s).out = s.out := rfl
@[simp] theorem setReg64_pending (a : Nat) (v : Word64) : (setReg64 a v s).pending = s.pending := rfl

/-! ### orReg -/

@[simp] theorem orReg_build (a : Nat) (v : Word) : (orReg a v s).build = s.build := rfl
@[simp] theorem orReg_clock (a : Nat) (v : Word) : (orReg a v s).clock = s.clock := rfl
@[simp] theorem orReg_hiLatch (a : Nat) (v : Word) : (orReg a v s).hiLatch = s.hiLatch := rfl
@[simp] theorem orReg_tabs (a : Nat) (v : Word) : (orReg a v s).tabs = s.tabs := rfl
@[simp] theorem orReg_mer (a : Nat) (v : Word) : (orReg a v s).mer = s.mer := rfl
@[simp] theorem orReg_owner (a : Nat) (v : Word) : (orReg a v s).owner = s.owner := rfl
@[simp] theorem orReg_steward (a : Nat) (v : Word) : (orReg a v s).steward = s.steward := rfl
@[simp] theorem orReg_boot (a : Nat) (v : Word) : (orReg a v s).boot = s.boot := rfl
@[simp] theorem orReg_log (a : Nat) (v : Word) : (orReg a v s).log = s.log := rfl
@[simp] theorem orReg_mem (a : Nat) (v : Word) : (orReg a v s).mem = s.mem := rfl
@[simp] theorem orReg_memLate (a : Nat) (v : Word) : (orReg a v s).memLate = s.memLate := rfl
@[simp] theorem orReg_lines (a : Nat) (v : Word) : (orReg a v s).lines = s.lines := rfl
@[simp] theorem orReg_verdicts (a : Nat) (v : Word) : (orReg a v s).verdicts = s.verdicts := rfl
@[simp] theorem orReg_links (a : Nat) (v : Word) : (orReg a v s).links = s.links := rfl
@[simp] theorem orReg_groups (a : Nat) (v : Word) : (orReg a v s).groups = s.groups := rfl
@[simp] theorem orReg_queues (a : Nat) (v : Word) : (orReg a v s).queues = s.queues := rfl
@[simp] theorem orReg_orders (a : Nat) (v : Word) : (orReg a v s).orders = s.orders := rfl
@[simp] theorem orReg_ledgers (a : Nat) (v : Word) : (orReg a v s).ledgers = s.ledgers := rfl
@[simp] theorem orReg_ops (a : Nat) (v : Word) : (orReg a v s).ops = s.ops := rfl
@[simp] theorem orReg_late (a : Nat) (v : Word) : (orReg a v s).late = s.late := rfl
@[simp] theorem orReg_pageWait (a : Nat) (v : Word) : (orReg a v s).pageWait = s.pageWait := rfl
@[simp] theorem orReg_stalls (a : Nat) (v : Word) : (orReg a v s).stalls = s.stalls := rfl
@[simp] theorem orReg_planes (a : Nat) (v : Word) : (orReg a v s).planes = s.planes := rfl
@[simp] theorem orReg_assayWin (a : Nat) (v : Word) : (orReg a v s).assayWin = s.assayWin := rfl
@[simp] theorem orReg_counts (a : Nat) (v : Word) : (orReg a v s).counts = s.counts := rfl
@[simp] theorem orReg_injected (a : Nat) (v : Word) : (orReg a v s).injected = s.injected := rfl
@[simp] theorem orReg_out (a : Nat) (v : Word) : (orReg a v s).out = s.out := rfl
@[simp] theorem orReg_pending (a : Nat) (v : Word) : (orReg a v s).pending = s.pending := rfl

/-! ### clearBits -/

@[simp] theorem clearBits_build (a : Nat) (v : Word) : (clearBits a v s).build = s.build := rfl
@[simp] theorem clearBits_clock (a : Nat) (v : Word) : (clearBits a v s).clock = s.clock := rfl
@[simp] theorem clearBits_hiLatch (a : Nat) (v : Word) : (clearBits a v s).hiLatch = s.hiLatch := rfl
@[simp] theorem clearBits_setNow (a : Nat) (v : Word) : (clearBits a v s).setNow = s.setNow := rfl
@[simp] theorem clearBits_tabs (a : Nat) (v : Word) : (clearBits a v s).tabs = s.tabs := rfl
@[simp] theorem clearBits_mer (a : Nat) (v : Word) : (clearBits a v s).mer = s.mer := rfl
@[simp] theorem clearBits_owner (a : Nat) (v : Word) : (clearBits a v s).owner = s.owner := rfl
@[simp] theorem clearBits_steward (a : Nat) (v : Word) : (clearBits a v s).steward = s.steward := rfl
@[simp] theorem clearBits_boot (a : Nat) (v : Word) : (clearBits a v s).boot = s.boot := rfl
@[simp] theorem clearBits_log (a : Nat) (v : Word) : (clearBits a v s).log = s.log := rfl
@[simp] theorem clearBits_mem (a : Nat) (v : Word) : (clearBits a v s).mem = s.mem := rfl
@[simp] theorem clearBits_memLate (a : Nat) (v : Word) : (clearBits a v s).memLate = s.memLate := rfl
@[simp] theorem clearBits_lines (a : Nat) (v : Word) : (clearBits a v s).lines = s.lines := rfl
@[simp] theorem clearBits_verdicts (a : Nat) (v : Word) : (clearBits a v s).verdicts = s.verdicts := rfl
@[simp] theorem clearBits_links (a : Nat) (v : Word) : (clearBits a v s).links = s.links := rfl
@[simp] theorem clearBits_groups (a : Nat) (v : Word) : (clearBits a v s).groups = s.groups := rfl
@[simp] theorem clearBits_queues (a : Nat) (v : Word) : (clearBits a v s).queues = s.queues := rfl
@[simp] theorem clearBits_orders (a : Nat) (v : Word) : (clearBits a v s).orders = s.orders := rfl
@[simp] theorem clearBits_ledgers (a : Nat) (v : Word) : (clearBits a v s).ledgers = s.ledgers := rfl
@[simp] theorem clearBits_ops (a : Nat) (v : Word) : (clearBits a v s).ops = s.ops := rfl
@[simp] theorem clearBits_late (a : Nat) (v : Word) : (clearBits a v s).late = s.late := rfl
@[simp] theorem clearBits_pageWait (a : Nat) (v : Word) : (clearBits a v s).pageWait = s.pageWait := rfl
@[simp] theorem clearBits_stalls (a : Nat) (v : Word) : (clearBits a v s).stalls = s.stalls := rfl
@[simp] theorem clearBits_planes (a : Nat) (v : Word) : (clearBits a v s).planes = s.planes := rfl
@[simp] theorem clearBits_assayWin (a : Nat) (v : Word) : (clearBits a v s).assayWin = s.assayWin := rfl
@[simp] theorem clearBits_counts (a : Nat) (v : Word) : (clearBits a v s).counts = s.counts := rfl
@[simp] theorem clearBits_injected (a : Nat) (v : Word) : (clearBits a v s).injected = s.injected := rfl
@[simp] theorem clearBits_out (a : Nat) (v : Word) : (clearBits a v s).out = s.out := rfl
@[simp] theorem clearBits_pending (a : Nat) (v : Word) : (clearBits a v s).pending = s.pending := rfl

/-! ### count -/

@[simp] theorem count_build (a n : Nat) : (count a n s).build = s.build := rfl
@[simp] theorem count_clock (a n : Nat) : (count a n s).clock = s.clock := rfl
@[simp] theorem count_hiLatch (a n : Nat) : (count a n s).hiLatch = s.hiLatch := rfl
@[simp] theorem count_setNow (a n : Nat) : (count a n s).setNow = s.setNow := rfl
@[simp] theorem count_tabs (a n : Nat) : (count a n s).tabs = s.tabs := rfl
@[simp] theorem count_mer (a n : Nat) : (count a n s).mer = s.mer := rfl
@[simp] theorem count_owner (a n : Nat) : (count a n s).owner = s.owner := rfl
@[simp] theorem count_steward (a n : Nat) : (count a n s).steward = s.steward := rfl
@[simp] theorem count_boot (a n : Nat) : (count a n s).boot = s.boot := rfl
@[simp] theorem count_log (a n : Nat) : (count a n s).log = s.log := rfl
@[simp] theorem count_mem (a n : Nat) : (count a n s).mem = s.mem := rfl
@[simp] theorem count_memLate (a n : Nat) : (count a n s).memLate = s.memLate := rfl
@[simp] theorem count_lines (a n : Nat) : (count a n s).lines = s.lines := rfl
@[simp] theorem count_verdicts (a n : Nat) : (count a n s).verdicts = s.verdicts := rfl
@[simp] theorem count_links (a n : Nat) : (count a n s).links = s.links := rfl
@[simp] theorem count_groups (a n : Nat) : (count a n s).groups = s.groups := rfl
@[simp] theorem count_queues (a n : Nat) : (count a n s).queues = s.queues := rfl
@[simp] theorem count_orders (a n : Nat) : (count a n s).orders = s.orders := rfl
@[simp] theorem count_ledgers (a n : Nat) : (count a n s).ledgers = s.ledgers := rfl
@[simp] theorem count_ops (a n : Nat) : (count a n s).ops = s.ops := rfl
@[simp] theorem count_late (a n : Nat) : (count a n s).late = s.late := rfl
@[simp] theorem count_pageWait (a n : Nat) : (count a n s).pageWait = s.pageWait := rfl
@[simp] theorem count_stalls (a n : Nat) : (count a n s).stalls = s.stalls := rfl
@[simp] theorem count_planes (a n : Nat) : (count a n s).planes = s.planes := rfl
@[simp] theorem count_assayWin (a n : Nat) : (count a n s).assayWin = s.assayWin := rfl
@[simp] theorem count_counts (a n : Nat) : (count a n s).counts = s.counts := rfl
@[simp] theorem count_injected (a n : Nat) : (count a n s).injected = s.injected := rfl
@[simp] theorem count_out (a n : Nat) : (count a n s).out = s.out := rfl
@[simp] theorem count_pending (a n : Nat) : (count a n s).pending = s.pending := rfl

/-! ### irq -/

@[simp] theorem irq_build (page b : Nat) : (irq page b s).build = s.build := rfl
@[simp] theorem irq_clock (page b : Nat) : (irq page b s).clock = s.clock := rfl
@[simp] theorem irq_hiLatch (page b : Nat) : (irq page b s).hiLatch = s.hiLatch := rfl
@[simp] theorem irq_tabs (page b : Nat) : (irq page b s).tabs = s.tabs := rfl
@[simp] theorem irq_mer (page b : Nat) : (irq page b s).mer = s.mer := rfl
@[simp] theorem irq_owner (page b : Nat) : (irq page b s).owner = s.owner := rfl
@[simp] theorem irq_steward (page b : Nat) : (irq page b s).steward = s.steward := rfl
@[simp] theorem irq_boot (page b : Nat) : (irq page b s).boot = s.boot := rfl
@[simp] theorem irq_log (page b : Nat) : (irq page b s).log = s.log := rfl
@[simp] theorem irq_mem (page b : Nat) : (irq page b s).mem = s.mem := rfl
@[simp] theorem irq_memLate (page b : Nat) : (irq page b s).memLate = s.memLate := rfl
@[simp] theorem irq_lines (page b : Nat) : (irq page b s).lines = s.lines := rfl
@[simp] theorem irq_verdicts (page b : Nat) : (irq page b s).verdicts = s.verdicts := rfl
@[simp] theorem irq_links (page b : Nat) : (irq page b s).links = s.links := rfl
@[simp] theorem irq_groups (page b : Nat) : (irq page b s).groups = s.groups := rfl
@[simp] theorem irq_queues (page b : Nat) : (irq page b s).queues = s.queues := rfl
@[simp] theorem irq_orders (page b : Nat) : (irq page b s).orders = s.orders := rfl
@[simp] theorem irq_ledgers (page b : Nat) : (irq page b s).ledgers = s.ledgers := rfl
@[simp] theorem irq_ops (page b : Nat) : (irq page b s).ops = s.ops := rfl
@[simp] theorem irq_late (page b : Nat) : (irq page b s).late = s.late := rfl
@[simp] theorem irq_pageWait (page b : Nat) : (irq page b s).pageWait = s.pageWait := rfl
@[simp] theorem irq_stalls (page b : Nat) : (irq page b s).stalls = s.stalls := rfl
@[simp] theorem irq_planes (page b : Nat) : (irq page b s).planes = s.planes := rfl
@[simp] theorem irq_assayWin (page b : Nat) : (irq page b s).assayWin = s.assayWin := rfl
@[simp] theorem irq_counts (page b : Nat) : (irq page b s).counts = s.counts := rfl
@[simp] theorem irq_injected (page b : Nat) : (irq page b s).injected = s.injected := rfl
@[simp] theorem irq_out (page b : Nat) : (irq page b s).out = s.out := rfl
@[simp] theorem irq_pending (page b : Nat) : (irq page b s).pending = s.pending := rfl

/-! ### present -/

@[simp] theorem present_build (o : PortOut) : (present o s).build = s.build := rfl
@[simp] theorem present_clock (o : PortOut) : (present o s).clock = s.clock := rfl
@[simp] theorem present_regs (o : PortOut) : (present o s).regs = s.regs := rfl
@[simp] theorem present_hiLatch (o : PortOut) : (present o s).hiLatch = s.hiLatch := rfl
@[simp] theorem present_setNow (o : PortOut) : (present o s).setNow = s.setNow := rfl
@[simp] theorem present_tabs (o : PortOut) : (present o s).tabs = s.tabs := rfl
@[simp] theorem present_mer (o : PortOut) : (present o s).mer = s.mer := rfl
@[simp] theorem present_owner (o : PortOut) : (present o s).owner = s.owner := rfl
@[simp] theorem present_steward (o : PortOut) : (present o s).steward = s.steward := rfl
@[simp] theorem present_boot (o : PortOut) : (present o s).boot = s.boot := rfl
@[simp] theorem present_log (o : PortOut) : (present o s).log = s.log := rfl
@[simp] theorem present_mem (o : PortOut) : (present o s).mem = s.mem := rfl
@[simp] theorem present_memLate (o : PortOut) : (present o s).memLate = s.memLate := rfl
@[simp] theorem present_lines (o : PortOut) : (present o s).lines = s.lines := rfl
@[simp] theorem present_verdicts (o : PortOut) : (present o s).verdicts = s.verdicts := rfl
@[simp] theorem present_links (o : PortOut) : (present o s).links = s.links := rfl
@[simp] theorem present_groups (o : PortOut) : (present o s).groups = s.groups := rfl
@[simp] theorem present_queues (o : PortOut) : (present o s).queues = s.queues := rfl
@[simp] theorem present_orders (o : PortOut) : (present o s).orders = s.orders := rfl
@[simp] theorem present_ledgers (o : PortOut) : (present o s).ledgers = s.ledgers := rfl
@[simp] theorem present_ops (o : PortOut) : (present o s).ops = s.ops := rfl
@[simp] theorem present_late (o : PortOut) : (present o s).late = s.late := rfl
@[simp] theorem present_pageWait (o : PortOut) : (present o s).pageWait = s.pageWait := rfl
@[simp] theorem present_stalls (o : PortOut) : (present o s).stalls = s.stalls := rfl
@[simp] theorem present_planes (o : PortOut) : (present o s).planes = s.planes := rfl
@[simp] theorem present_assayWin (o : PortOut) : (present o s).assayWin = s.assayWin := rfl
@[simp] theorem present_counts (o : PortOut) : (present o s).counts = s.counts := rfl
@[simp] theorem present_injected (o : PortOut) : (present o s).injected = s.injected := rfl
@[simp] theorem present_pending (o : PortOut) : (present o s).pending = s.pending := rfl

/-! ### find_ -/

@[simp] theorem find_build (d : Due) : (find_ d s).build = s.build := rfl
@[simp] theorem find_hiLatch (d : Due) : (find_ d s).hiLatch = s.hiLatch := rfl
@[simp] theorem find_setNow (d : Due) : (find_ d s).setNow = s.setNow := rfl
@[simp] theorem find_tabs (d : Due) : (find_ d s).tabs = s.tabs := rfl
@[simp] theorem find_mer (d : Due) : (find_ d s).mer = s.mer := rfl
@[simp] theorem find_owner (d : Due) : (find_ d s).owner = s.owner := rfl
@[simp] theorem find_steward (d : Due) : (find_ d s).steward = s.steward := rfl
@[simp] theorem find_boot (d : Due) : (find_ d s).boot = s.boot := rfl
@[simp] theorem find_log (d : Due) : (find_ d s).log = s.log := rfl
@[simp] theorem find_mem (d : Due) : (find_ d s).mem = s.mem := rfl
@[simp] theorem find_memLate (d : Due) : (find_ d s).memLate = s.memLate := rfl
@[simp] theorem find_lines (d : Due) : (find_ d s).lines = s.lines := rfl
@[simp] theorem find_verdicts (d : Due) : (find_ d s).verdicts = s.verdicts := rfl
@[simp] theorem find_links (d : Due) : (find_ d s).links = s.links := rfl
@[simp] theorem find_groups (d : Due) : (find_ d s).groups = s.groups := rfl
@[simp] theorem find_queues (d : Due) : (find_ d s).queues = s.queues := rfl
@[simp] theorem find_orders (d : Due) : (find_ d s).orders = s.orders := rfl
@[simp] theorem find_ledgers (d : Due) : (find_ d s).ledgers = s.ledgers := rfl
@[simp] theorem find_ops (d : Due) : (find_ d s).ops = s.ops := rfl
@[simp] theorem find_late (d : Due) : (find_ d s).late = s.late := rfl
@[simp] theorem find_pageWait (d : Due) : (find_ d s).pageWait = s.pageWait := rfl
@[simp] theorem find_stalls (d : Due) : (find_ d s).stalls = s.stalls := rfl
@[simp] theorem find_planes (d : Due) : (find_ d s).planes = s.planes := rfl
@[simp] theorem find_assayWin (d : Due) : (find_ d s).assayWin = s.assayWin := rfl
@[simp] theorem find_counts (d : Due) : (find_ d s).counts = s.counts := rfl
@[simp] theorem find_injected (d : Due) : (find_ d s).injected = s.injected := rfl
@[simp] theorem find_out (d : Due) : (find_ d s).out = s.out := rfl
@[simp] theorem find_pending (d : Due) : (find_ d s).pending = s.pending := rfl

/-! ### noticeNext -/

@[simp] theorem noticeNext_build (code : Nat) (src : BitVec 16) : (noticeNext code src s).build = s.build := rfl
@[simp] theorem noticeNext_hiLatch (code : Nat) (src : BitVec 16) : (noticeNext code src s).hiLatch = s.hiLatch := rfl
@[simp] theorem noticeNext_setNow (code : Nat) (src : BitVec 16) : (noticeNext code src s).setNow = s.setNow := rfl
@[simp] theorem noticeNext_tabs (code : Nat) (src : BitVec 16) : (noticeNext code src s).tabs = s.tabs := rfl
@[simp] theorem noticeNext_mer (code : Nat) (src : BitVec 16) : (noticeNext code src s).mer = s.mer := rfl
@[simp] theorem noticeNext_owner (code : Nat) (src : BitVec 16) : (noticeNext code src s).owner = s.owner := rfl
@[simp] theorem noticeNext_steward (code : Nat) (src : BitVec 16) : (noticeNext code src s).steward = s.steward := rfl
@[simp] theorem noticeNext_boot (code : Nat) (src : BitVec 16) : (noticeNext code src s).boot = s.boot := rfl
@[simp] theorem noticeNext_log (code : Nat) (src : BitVec 16) : (noticeNext code src s).log = s.log := rfl
@[simp] theorem noticeNext_mem (code : Nat) (src : BitVec 16) : (noticeNext code src s).mem = s.mem := rfl
@[simp] theorem noticeNext_memLate (code : Nat) (src : BitVec 16) : (noticeNext code src s).memLate = s.memLate := rfl
@[simp] theorem noticeNext_lines (code : Nat) (src : BitVec 16) : (noticeNext code src s).lines = s.lines := rfl
@[simp] theorem noticeNext_verdicts (code : Nat) (src : BitVec 16) : (noticeNext code src s).verdicts = s.verdicts := rfl
@[simp] theorem noticeNext_links (code : Nat) (src : BitVec 16) : (noticeNext code src s).links = s.links := rfl
@[simp] theorem noticeNext_groups (code : Nat) (src : BitVec 16) : (noticeNext code src s).groups = s.groups := rfl
@[simp] theorem noticeNext_queues (code : Nat) (src : BitVec 16) : (noticeNext code src s).queues = s.queues := rfl
@[simp] theorem noticeNext_orders (code : Nat) (src : BitVec 16) : (noticeNext code src s).orders = s.orders := rfl
@[simp] theorem noticeNext_ledgers (code : Nat) (src : BitVec 16) : (noticeNext code src s).ledgers = s.ledgers := rfl
@[simp] theorem noticeNext_ops (code : Nat) (src : BitVec 16) : (noticeNext code src s).ops = s.ops := rfl
@[simp] theorem noticeNext_late (code : Nat) (src : BitVec 16) : (noticeNext code src s).late = s.late := rfl
@[simp] theorem noticeNext_pageWait (code : Nat) (src : BitVec 16) : (noticeNext code src s).pageWait = s.pageWait := rfl
@[simp] theorem noticeNext_stalls (code : Nat) (src : BitVec 16) : (noticeNext code src s).stalls = s.stalls := rfl
@[simp] theorem noticeNext_planes (code : Nat) (src : BitVec 16) : (noticeNext code src s).planes = s.planes := rfl
@[simp] theorem noticeNext_assayWin (code : Nat) (src : BitVec 16) : (noticeNext code src s).assayWin = s.assayWin := rfl
@[simp] theorem noticeNext_counts (code : Nat) (src : BitVec 16) : (noticeNext code src s).counts = s.counts := rfl
@[simp] theorem noticeNext_injected (code : Nat) (src : BitVec 16) : (noticeNext code src s).injected = s.injected := rfl
@[simp] theorem noticeNext_out (code : Nat) (src : BitVec 16) : (noticeNext code src s).out = s.out := rfl
@[simp] theorem noticeNext_pending (code : Nat) (src : BitVec 16) : (noticeNext code src s).pending = s.pending := rfl

/-! ### setLedger -/

@[simp] theorem setLedger_build (l : Nat) (v : Ledger) : (setLedger l v s).build = s.build := rfl
@[simp] theorem setLedger_clock (l : Nat) (v : Ledger) : (setLedger l v s).clock = s.clock := rfl
@[simp] theorem setLedger_regs (l : Nat) (v : Ledger) : (setLedger l v s).regs = s.regs := rfl
@[simp] theorem setLedger_hiLatch (l : Nat) (v : Ledger) : (setLedger l v s).hiLatch = s.hiLatch := rfl
@[simp] theorem setLedger_setNow (l : Nat) (v : Ledger) : (setLedger l v s).setNow = s.setNow := rfl
@[simp] theorem setLedger_tabs (l : Nat) (v : Ledger) : (setLedger l v s).tabs = s.tabs := rfl
@[simp] theorem setLedger_mer (l : Nat) (v : Ledger) : (setLedger l v s).mer = s.mer := rfl
@[simp] theorem setLedger_owner (l : Nat) (v : Ledger) : (setLedger l v s).owner = s.owner := rfl
@[simp] theorem setLedger_steward (l : Nat) (v : Ledger) : (setLedger l v s).steward = s.steward := rfl
@[simp] theorem setLedger_boot (l : Nat) (v : Ledger) : (setLedger l v s).boot = s.boot := rfl
@[simp] theorem setLedger_log (l : Nat) (v : Ledger) : (setLedger l v s).log = s.log := rfl
@[simp] theorem setLedger_mem (l : Nat) (v : Ledger) : (setLedger l v s).mem = s.mem := rfl
@[simp] theorem setLedger_memLate (l : Nat) (v : Ledger) : (setLedger l v s).memLate = s.memLate := rfl
@[simp] theorem setLedger_lines (l : Nat) (v : Ledger) : (setLedger l v s).lines = s.lines := rfl
@[simp] theorem setLedger_verdicts (l : Nat) (v : Ledger) : (setLedger l v s).verdicts = s.verdicts := rfl
@[simp] theorem setLedger_links (l : Nat) (v : Ledger) : (setLedger l v s).links = s.links := rfl
@[simp] theorem setLedger_groups (l : Nat) (v : Ledger) : (setLedger l v s).groups = s.groups := rfl
@[simp] theorem setLedger_queues (l : Nat) (v : Ledger) : (setLedger l v s).queues = s.queues := rfl
@[simp] theorem setLedger_orders (l : Nat) (v : Ledger) : (setLedger l v s).orders = s.orders := rfl
@[simp] theorem setLedger_ops (l : Nat) (v : Ledger) : (setLedger l v s).ops = s.ops := rfl
@[simp] theorem setLedger_late (l : Nat) (v : Ledger) : (setLedger l v s).late = s.late := rfl
@[simp] theorem setLedger_pageWait (l : Nat) (v : Ledger) : (setLedger l v s).pageWait = s.pageWait := rfl
@[simp] theorem setLedger_stalls (l : Nat) (v : Ledger) : (setLedger l v s).stalls = s.stalls := rfl
@[simp] theorem setLedger_planes (l : Nat) (v : Ledger) : (setLedger l v s).planes = s.planes := rfl
@[simp] theorem setLedger_assayWin (l : Nat) (v : Ledger) : (setLedger l v s).assayWin = s.assayWin := rfl
@[simp] theorem setLedger_counts (l : Nat) (v : Ledger) : (setLedger l v s).counts = s.counts := rfl
@[simp] theorem setLedger_injected (l : Nat) (v : Ledger) : (setLedger l v s).injected = s.injected := rfl
@[simp] theorem setLedger_out (l : Nat) (v : Ledger) : (setLedger l v s).out = s.out := rfl
@[simp] theorem setLedger_pending (l : Nat) (v : Ledger) : (setLedger l v s).pending = s.pending := rfl

/-! ### setQueue -/

@[simp] theorem setQueue_build (q : Nat) (v : QueueSt) : (setQueue q v s).build = s.build := rfl
@[simp] theorem setQueue_clock (q : Nat) (v : QueueSt) : (setQueue q v s).clock = s.clock := rfl
@[simp] theorem setQueue_regs (q : Nat) (v : QueueSt) : (setQueue q v s).regs = s.regs := rfl
@[simp] theorem setQueue_hiLatch (q : Nat) (v : QueueSt) : (setQueue q v s).hiLatch = s.hiLatch := rfl
@[simp] theorem setQueue_setNow (q : Nat) (v : QueueSt) : (setQueue q v s).setNow = s.setNow := rfl
@[simp] theorem setQueue_tabs (q : Nat) (v : QueueSt) : (setQueue q v s).tabs = s.tabs := rfl
@[simp] theorem setQueue_mer (q : Nat) (v : QueueSt) : (setQueue q v s).mer = s.mer := rfl
@[simp] theorem setQueue_owner (q : Nat) (v : QueueSt) : (setQueue q v s).owner = s.owner := rfl
@[simp] theorem setQueue_steward (q : Nat) (v : QueueSt) : (setQueue q v s).steward = s.steward := rfl
@[simp] theorem setQueue_boot (q : Nat) (v : QueueSt) : (setQueue q v s).boot = s.boot := rfl
@[simp] theorem setQueue_log (q : Nat) (v : QueueSt) : (setQueue q v s).log = s.log := rfl
@[simp] theorem setQueue_mem (q : Nat) (v : QueueSt) : (setQueue q v s).mem = s.mem := rfl
@[simp] theorem setQueue_memLate (q : Nat) (v : QueueSt) : (setQueue q v s).memLate = s.memLate := rfl
@[simp] theorem setQueue_lines (q : Nat) (v : QueueSt) : (setQueue q v s).lines = s.lines := rfl
@[simp] theorem setQueue_verdicts (q : Nat) (v : QueueSt) : (setQueue q v s).verdicts = s.verdicts := rfl
@[simp] theorem setQueue_links (q : Nat) (v : QueueSt) : (setQueue q v s).links = s.links := rfl
@[simp] theorem setQueue_groups (q : Nat) (v : QueueSt) : (setQueue q v s).groups = s.groups := rfl
@[simp] theorem setQueue_orders (q : Nat) (v : QueueSt) : (setQueue q v s).orders = s.orders := rfl
@[simp] theorem setQueue_ledgers (q : Nat) (v : QueueSt) : (setQueue q v s).ledgers = s.ledgers := rfl
@[simp] theorem setQueue_ops (q : Nat) (v : QueueSt) : (setQueue q v s).ops = s.ops := rfl
@[simp] theorem setQueue_late (q : Nat) (v : QueueSt) : (setQueue q v s).late = s.late := rfl
@[simp] theorem setQueue_pageWait (q : Nat) (v : QueueSt) : (setQueue q v s).pageWait = s.pageWait := rfl
@[simp] theorem setQueue_stalls (q : Nat) (v : QueueSt) : (setQueue q v s).stalls = s.stalls := rfl
@[simp] theorem setQueue_planes (q : Nat) (v : QueueSt) : (setQueue q v s).planes = s.planes := rfl
@[simp] theorem setQueue_assayWin (q : Nat) (v : QueueSt) : (setQueue q v s).assayWin = s.assayWin := rfl
@[simp] theorem setQueue_counts (q : Nat) (v : QueueSt) : (setQueue q v s).counts = s.counts := rfl
@[simp] theorem setQueue_injected (q : Nat) (v : QueueSt) : (setQueue q v s).injected = s.injected := rfl
@[simp] theorem setQueue_out (q : Nat) (v : QueueSt) : (setQueue q v s).out = s.out := rfl
@[simp] theorem setQueue_pending (q : Nat) (v : QueueSt) : (setQueue q v s).pending = s.pending := rfl

/-! ### setLink -/

@[simp] theorem setLink_build (n : Nat) (v : Link) : (setLink n v s).build = s.build := rfl
@[simp] theorem setLink_clock (n : Nat) (v : Link) : (setLink n v s).clock = s.clock := rfl
@[simp] theorem setLink_regs (n : Nat) (v : Link) : (setLink n v s).regs = s.regs := rfl
@[simp] theorem setLink_hiLatch (n : Nat) (v : Link) : (setLink n v s).hiLatch = s.hiLatch := rfl
@[simp] theorem setLink_setNow (n : Nat) (v : Link) : (setLink n v s).setNow = s.setNow := rfl
@[simp] theorem setLink_tabs (n : Nat) (v : Link) : (setLink n v s).tabs = s.tabs := rfl
@[simp] theorem setLink_mer (n : Nat) (v : Link) : (setLink n v s).mer = s.mer := rfl
@[simp] theorem setLink_owner (n : Nat) (v : Link) : (setLink n v s).owner = s.owner := rfl
@[simp] theorem setLink_steward (n : Nat) (v : Link) : (setLink n v s).steward = s.steward := rfl
@[simp] theorem setLink_boot (n : Nat) (v : Link) : (setLink n v s).boot = s.boot := rfl
@[simp] theorem setLink_log (n : Nat) (v : Link) : (setLink n v s).log = s.log := rfl
@[simp] theorem setLink_mem (n : Nat) (v : Link) : (setLink n v s).mem = s.mem := rfl
@[simp] theorem setLink_memLate (n : Nat) (v : Link) : (setLink n v s).memLate = s.memLate := rfl
@[simp] theorem setLink_lines (n : Nat) (v : Link) : (setLink n v s).lines = s.lines := rfl
@[simp] theorem setLink_verdicts (n : Nat) (v : Link) : (setLink n v s).verdicts = s.verdicts := rfl
@[simp] theorem setLink_groups (n : Nat) (v : Link) : (setLink n v s).groups = s.groups := rfl
@[simp] theorem setLink_queues (n : Nat) (v : Link) : (setLink n v s).queues = s.queues := rfl
@[simp] theorem setLink_orders (n : Nat) (v : Link) : (setLink n v s).orders = s.orders := rfl
@[simp] theorem setLink_ledgers (n : Nat) (v : Link) : (setLink n v s).ledgers = s.ledgers := rfl
@[simp] theorem setLink_ops (n : Nat) (v : Link) : (setLink n v s).ops = s.ops := rfl
@[simp] theorem setLink_late (n : Nat) (v : Link) : (setLink n v s).late = s.late := rfl
@[simp] theorem setLink_pageWait (n : Nat) (v : Link) : (setLink n v s).pageWait = s.pageWait := rfl
@[simp] theorem setLink_stalls (n : Nat) (v : Link) : (setLink n v s).stalls = s.stalls := rfl
@[simp] theorem setLink_planes (n : Nat) (v : Link) : (setLink n v s).planes = s.planes := rfl
@[simp] theorem setLink_assayWin (n : Nat) (v : Link) : (setLink n v s).assayWin = s.assayWin := rfl
@[simp] theorem setLink_counts (n : Nat) (v : Link) : (setLink n v s).counts = s.counts := rfl
@[simp] theorem setLink_injected (n : Nat) (v : Link) : (setLink n v s).injected = s.injected := rfl
@[simp] theorem setLink_out (n : Nat) (v : Link) : (setLink n v s).out = s.out := rfl
@[simp] theorem setLink_pending (n : Nat) (v : Link) : (setLink n v s).pending = s.pending := rfl

/-! ### setGroup -/

@[simp] theorem setGroup_build (g : Nat) (v : GroupDef) : (setGroup g v s).build = s.build := rfl
@[simp] theorem setGroup_clock (g : Nat) (v : GroupDef) : (setGroup g v s).clock = s.clock := rfl
@[simp] theorem setGroup_regs (g : Nat) (v : GroupDef) : (setGroup g v s).regs = s.regs := rfl
@[simp] theorem setGroup_hiLatch (g : Nat) (v : GroupDef) : (setGroup g v s).hiLatch = s.hiLatch := rfl
@[simp] theorem setGroup_setNow (g : Nat) (v : GroupDef) : (setGroup g v s).setNow = s.setNow := rfl
@[simp] theorem setGroup_tabs (g : Nat) (v : GroupDef) : (setGroup g v s).tabs = s.tabs := rfl
@[simp] theorem setGroup_mer (g : Nat) (v : GroupDef) : (setGroup g v s).mer = s.mer := rfl
@[simp] theorem setGroup_owner (g : Nat) (v : GroupDef) : (setGroup g v s).owner = s.owner := rfl
@[simp] theorem setGroup_steward (g : Nat) (v : GroupDef) : (setGroup g v s).steward = s.steward := rfl
@[simp] theorem setGroup_boot (g : Nat) (v : GroupDef) : (setGroup g v s).boot = s.boot := rfl
@[simp] theorem setGroup_log (g : Nat) (v : GroupDef) : (setGroup g v s).log = s.log := rfl
@[simp] theorem setGroup_mem (g : Nat) (v : GroupDef) : (setGroup g v s).mem = s.mem := rfl
@[simp] theorem setGroup_memLate (g : Nat) (v : GroupDef) : (setGroup g v s).memLate = s.memLate := rfl
@[simp] theorem setGroup_lines (g : Nat) (v : GroupDef) : (setGroup g v s).lines = s.lines := rfl
@[simp] theorem setGroup_verdicts (g : Nat) (v : GroupDef) : (setGroup g v s).verdicts = s.verdicts := rfl
@[simp] theorem setGroup_links (g : Nat) (v : GroupDef) : (setGroup g v s).links = s.links := rfl
@[simp] theorem setGroup_queues (g : Nat) (v : GroupDef) : (setGroup g v s).queues = s.queues := rfl
@[simp] theorem setGroup_orders (g : Nat) (v : GroupDef) : (setGroup g v s).orders = s.orders := rfl
@[simp] theorem setGroup_ledgers (g : Nat) (v : GroupDef) : (setGroup g v s).ledgers = s.ledgers := rfl
@[simp] theorem setGroup_ops (g : Nat) (v : GroupDef) : (setGroup g v s).ops = s.ops := rfl
@[simp] theorem setGroup_late (g : Nat) (v : GroupDef) : (setGroup g v s).late = s.late := rfl
@[simp] theorem setGroup_pageWait (g : Nat) (v : GroupDef) : (setGroup g v s).pageWait = s.pageWait := rfl
@[simp] theorem setGroup_stalls (g : Nat) (v : GroupDef) : (setGroup g v s).stalls = s.stalls := rfl
@[simp] theorem setGroup_planes (g : Nat) (v : GroupDef) : (setGroup g v s).planes = s.planes := rfl
@[simp] theorem setGroup_assayWin (g : Nat) (v : GroupDef) : (setGroup g v s).assayWin = s.assayWin := rfl
@[simp] theorem setGroup_counts (g : Nat) (v : GroupDef) : (setGroup g v s).counts = s.counts := rfl
@[simp] theorem setGroup_injected (g : Nat) (v : GroupDef) : (setGroup g v s).injected = s.injected := rfl
@[simp] theorem setGroup_out (g : Nat) (v : GroupDef) : (setGroup g v s).out = s.out := rfl
@[simp] theorem setGroup_pending (g : Nat) (v : GroupDef) : (setGroup g v s).pending = s.pending := rfl

/-! ### setStall -/

@[simp] theorem setStall_build (n : Nat) (v : StallSt) : (setStall n v s).build = s.build := rfl
@[simp] theorem setStall_clock (n : Nat) (v : StallSt) : (setStall n v s).clock = s.clock := rfl
@[simp] theorem setStall_regs (n : Nat) (v : StallSt) : (setStall n v s).regs = s.regs := rfl
@[simp] theorem setStall_hiLatch (n : Nat) (v : StallSt) : (setStall n v s).hiLatch = s.hiLatch := rfl
@[simp] theorem setStall_setNow (n : Nat) (v : StallSt) : (setStall n v s).setNow = s.setNow := rfl
@[simp] theorem setStall_tabs (n : Nat) (v : StallSt) : (setStall n v s).tabs = s.tabs := rfl
@[simp] theorem setStall_mer (n : Nat) (v : StallSt) : (setStall n v s).mer = s.mer := rfl
@[simp] theorem setStall_owner (n : Nat) (v : StallSt) : (setStall n v s).owner = s.owner := rfl
@[simp] theorem setStall_steward (n : Nat) (v : StallSt) : (setStall n v s).steward = s.steward := rfl
@[simp] theorem setStall_boot (n : Nat) (v : StallSt) : (setStall n v s).boot = s.boot := rfl
@[simp] theorem setStall_log (n : Nat) (v : StallSt) : (setStall n v s).log = s.log := rfl
@[simp] theorem setStall_mem (n : Nat) (v : StallSt) : (setStall n v s).mem = s.mem := rfl
@[simp] theorem setStall_memLate (n : Nat) (v : StallSt) : (setStall n v s).memLate = s.memLate := rfl
@[simp] theorem setStall_lines (n : Nat) (v : StallSt) : (setStall n v s).lines = s.lines := rfl
@[simp] theorem setStall_verdicts (n : Nat) (v : StallSt) : (setStall n v s).verdicts = s.verdicts := rfl
@[simp] theorem setStall_links (n : Nat) (v : StallSt) : (setStall n v s).links = s.links := rfl
@[simp] theorem setStall_groups (n : Nat) (v : StallSt) : (setStall n v s).groups = s.groups := rfl
@[simp] theorem setStall_queues (n : Nat) (v : StallSt) : (setStall n v s).queues = s.queues := rfl
@[simp] theorem setStall_orders (n : Nat) (v : StallSt) : (setStall n v s).orders = s.orders := rfl
@[simp] theorem setStall_ledgers (n : Nat) (v : StallSt) : (setStall n v s).ledgers = s.ledgers := rfl
@[simp] theorem setStall_ops (n : Nat) (v : StallSt) : (setStall n v s).ops = s.ops := rfl
@[simp] theorem setStall_late (n : Nat) (v : StallSt) : (setStall n v s).late = s.late := rfl
@[simp] theorem setStall_pageWait (n : Nat) (v : StallSt) : (setStall n v s).pageWait = s.pageWait := rfl
@[simp] theorem setStall_planes (n : Nat) (v : StallSt) : (setStall n v s).planes = s.planes := rfl
@[simp] theorem setStall_assayWin (n : Nat) (v : StallSt) : (setStall n v s).assayWin = s.assayWin := rfl
@[simp] theorem setStall_counts (n : Nat) (v : StallSt) : (setStall n v s).counts = s.counts := rfl
@[simp] theorem setStall_injected (n : Nat) (v : StallSt) : (setStall n v s).injected = s.injected := rfl
@[simp] theorem setStall_out (n : Nat) (v : StallSt) : (setStall n v s).out = s.out := rfl
@[simp] theorem setStall_pending (n : Nat) (v : StallSt) : (setStall n v s).pending = s.pending := rfl

/-! ### setPlane -/

@[simp] theorem setPlane_build (p : Nat) (v : PlaneSt) : (setPlane p v s).build = s.build := rfl
@[simp] theorem setPlane_clock (p : Nat) (v : PlaneSt) : (setPlane p v s).clock = s.clock := rfl
@[simp] theorem setPlane_regs (p : Nat) (v : PlaneSt) : (setPlane p v s).regs = s.regs := rfl
@[simp] theorem setPlane_hiLatch (p : Nat) (v : PlaneSt) : (setPlane p v s).hiLatch = s.hiLatch := rfl
@[simp] theorem setPlane_setNow (p : Nat) (v : PlaneSt) : (setPlane p v s).setNow = s.setNow := rfl
@[simp] theorem setPlane_tabs (p : Nat) (v : PlaneSt) : (setPlane p v s).tabs = s.tabs := rfl
@[simp] theorem setPlane_mer (p : Nat) (v : PlaneSt) : (setPlane p v s).mer = s.mer := rfl
@[simp] theorem setPlane_owner (p : Nat) (v : PlaneSt) : (setPlane p v s).owner = s.owner := rfl
@[simp] theorem setPlane_steward (p : Nat) (v : PlaneSt) : (setPlane p v s).steward = s.steward := rfl
@[simp] theorem setPlane_boot (p : Nat) (v : PlaneSt) : (setPlane p v s).boot = s.boot := rfl
@[simp] theorem setPlane_log (p : Nat) (v : PlaneSt) : (setPlane p v s).log = s.log := rfl
@[simp] theorem setPlane_mem (p : Nat) (v : PlaneSt) : (setPlane p v s).mem = s.mem := rfl
@[simp] theorem setPlane_memLate (p : Nat) (v : PlaneSt) : (setPlane p v s).memLate = s.memLate := rfl
@[simp] theorem setPlane_lines (p : Nat) (v : PlaneSt) : (setPlane p v s).lines = s.lines := rfl
@[simp] theorem setPlane_verdicts (p : Nat) (v : PlaneSt) : (setPlane p v s).verdicts = s.verdicts := rfl
@[simp] theorem setPlane_links (p : Nat) (v : PlaneSt) : (setPlane p v s).links = s.links := rfl
@[simp] theorem setPlane_groups (p : Nat) (v : PlaneSt) : (setPlane p v s).groups = s.groups := rfl
@[simp] theorem setPlane_queues (p : Nat) (v : PlaneSt) : (setPlane p v s).queues = s.queues := rfl
@[simp] theorem setPlane_orders (p : Nat) (v : PlaneSt) : (setPlane p v s).orders = s.orders := rfl
@[simp] theorem setPlane_ledgers (p : Nat) (v : PlaneSt) : (setPlane p v s).ledgers = s.ledgers := rfl
@[simp] theorem setPlane_ops (p : Nat) (v : PlaneSt) : (setPlane p v s).ops = s.ops := rfl
@[simp] theorem setPlane_late (p : Nat) (v : PlaneSt) : (setPlane p v s).late = s.late := rfl
@[simp] theorem setPlane_pageWait (p : Nat) (v : PlaneSt) : (setPlane p v s).pageWait = s.pageWait := rfl
@[simp] theorem setPlane_stalls (p : Nat) (v : PlaneSt) : (setPlane p v s).stalls = s.stalls := rfl
@[simp] theorem setPlane_assayWin (p : Nat) (v : PlaneSt) : (setPlane p v s).assayWin = s.assayWin := rfl
@[simp] theorem setPlane_counts (p : Nat) (v : PlaneSt) : (setPlane p v s).counts = s.counts := rfl
@[simp] theorem setPlane_injected (p : Nat) (v : PlaneSt) : (setPlane p v s).injected = s.injected := rfl
@[simp] theorem setPlane_out (p : Nat) (v : PlaneSt) : (setPlane p v s).out = s.out := rfl
@[simp] theorem setPlane_pending (p : Nat) (v : PlaneSt) : (setPlane p v s).pending = s.pending := rfl

/-! ### setLine -/

@[simp] theorem setLine_build (n : Nat) (v : Line) : (setLine n v s).build = s.build := rfl
@[simp] theorem setLine_clock (n : Nat) (v : Line) : (setLine n v s).clock = s.clock := rfl
@[simp] theorem setLine_regs (n : Nat) (v : Line) : (setLine n v s).regs = s.regs := rfl
@[simp] theorem setLine_hiLatch (n : Nat) (v : Line) : (setLine n v s).hiLatch = s.hiLatch := rfl
@[simp] theorem setLine_setNow (n : Nat) (v : Line) : (setLine n v s).setNow = s.setNow := rfl
@[simp] theorem setLine_tabs (n : Nat) (v : Line) : (setLine n v s).tabs = s.tabs := rfl
@[simp] theorem setLine_mer (n : Nat) (v : Line) : (setLine n v s).mer = s.mer := rfl
@[simp] theorem setLine_owner (n : Nat) (v : Line) : (setLine n v s).owner = s.owner := rfl
@[simp] theorem setLine_steward (n : Nat) (v : Line) : (setLine n v s).steward = s.steward := rfl
@[simp] theorem setLine_boot (n : Nat) (v : Line) : (setLine n v s).boot = s.boot := rfl
@[simp] theorem setLine_log (n : Nat) (v : Line) : (setLine n v s).log = s.log := rfl
@[simp] theorem setLine_mem (n : Nat) (v : Line) : (setLine n v s).mem = s.mem := rfl
@[simp] theorem setLine_memLate (n : Nat) (v : Line) : (setLine n v s).memLate = s.memLate := rfl
@[simp] theorem setLine_verdicts (n : Nat) (v : Line) : (setLine n v s).verdicts = s.verdicts := rfl
@[simp] theorem setLine_links (n : Nat) (v : Line) : (setLine n v s).links = s.links := rfl
@[simp] theorem setLine_groups (n : Nat) (v : Line) : (setLine n v s).groups = s.groups := rfl
@[simp] theorem setLine_queues (n : Nat) (v : Line) : (setLine n v s).queues = s.queues := rfl
@[simp] theorem setLine_orders (n : Nat) (v : Line) : (setLine n v s).orders = s.orders := rfl
@[simp] theorem setLine_ledgers (n : Nat) (v : Line) : (setLine n v s).ledgers = s.ledgers := rfl
@[simp] theorem setLine_ops (n : Nat) (v : Line) : (setLine n v s).ops = s.ops := rfl
@[simp] theorem setLine_late (n : Nat) (v : Line) : (setLine n v s).late = s.late := rfl
@[simp] theorem setLine_pageWait (n : Nat) (v : Line) : (setLine n v s).pageWait = s.pageWait := rfl
@[simp] theorem setLine_stalls (n : Nat) (v : Line) : (setLine n v s).stalls = s.stalls := rfl
@[simp] theorem setLine_planes (n : Nat) (v : Line) : (setLine n v s).planes = s.planes := rfl
@[simp] theorem setLine_assayWin (n : Nat) (v : Line) : (setLine n v s).assayWin = s.assayWin := rfl
@[simp] theorem setLine_counts (n : Nat) (v : Line) : (setLine n v s).counts = s.counts := rfl
@[simp] theorem setLine_injected (n : Nat) (v : Line) : (setLine n v s).injected = s.injected := rfl
@[simp] theorem setLine_out (n : Nat) (v : Line) : (setLine n v s).out = s.out := rfl
@[simp] theorem setLine_pending (n : Nat) (v : Line) : (setLine n v s).pending = s.pending := rfl

/-! ### setVerdict -/

@[simp] theorem setVerdict_build (k : Nat) (v : Verdict) : (setVerdict k v s).build = s.build := rfl
@[simp] theorem setVerdict_clock (k : Nat) (v : Verdict) : (setVerdict k v s).clock = s.clock := rfl
@[simp] theorem setVerdict_regs (k : Nat) (v : Verdict) : (setVerdict k v s).regs = s.regs := rfl
@[simp] theorem setVerdict_hiLatch (k : Nat) (v : Verdict) : (setVerdict k v s).hiLatch = s.hiLatch := rfl
@[simp] theorem setVerdict_setNow (k : Nat) (v : Verdict) : (setVerdict k v s).setNow = s.setNow := rfl
@[simp] theorem setVerdict_tabs (k : Nat) (v : Verdict) : (setVerdict k v s).tabs = s.tabs := rfl
@[simp] theorem setVerdict_mer (k : Nat) (v : Verdict) : (setVerdict k v s).mer = s.mer := rfl
@[simp] theorem setVerdict_owner (k : Nat) (v : Verdict) : (setVerdict k v s).owner = s.owner := rfl
@[simp] theorem setVerdict_steward (k : Nat) (v : Verdict) : (setVerdict k v s).steward = s.steward := rfl
@[simp] theorem setVerdict_boot (k : Nat) (v : Verdict) : (setVerdict k v s).boot = s.boot := rfl
@[simp] theorem setVerdict_log (k : Nat) (v : Verdict) : (setVerdict k v s).log = s.log := rfl
@[simp] theorem setVerdict_mem (k : Nat) (v : Verdict) : (setVerdict k v s).mem = s.mem := rfl
@[simp] theorem setVerdict_memLate (k : Nat) (v : Verdict) : (setVerdict k v s).memLate = s.memLate := rfl
@[simp] theorem setVerdict_lines (k : Nat) (v : Verdict) : (setVerdict k v s).lines = s.lines := rfl
@[simp] theorem setVerdict_links (k : Nat) (v : Verdict) : (setVerdict k v s).links = s.links := rfl
@[simp] theorem setVerdict_groups (k : Nat) (v : Verdict) : (setVerdict k v s).groups = s.groups := rfl
@[simp] theorem setVerdict_queues (k : Nat) (v : Verdict) : (setVerdict k v s).queues = s.queues := rfl
@[simp] theorem setVerdict_orders (k : Nat) (v : Verdict) : (setVerdict k v s).orders = s.orders := rfl
@[simp] theorem setVerdict_ledgers (k : Nat) (v : Verdict) : (setVerdict k v s).ledgers = s.ledgers := rfl
@[simp] theorem setVerdict_ops (k : Nat) (v : Verdict) : (setVerdict k v s).ops = s.ops := rfl
@[simp] theorem setVerdict_late (k : Nat) (v : Verdict) : (setVerdict k v s).late = s.late := rfl
@[simp] theorem setVerdict_pageWait (k : Nat) (v : Verdict) : (setVerdict k v s).pageWait = s.pageWait := rfl
@[simp] theorem setVerdict_stalls (k : Nat) (v : Verdict) : (setVerdict k v s).stalls = s.stalls := rfl
@[simp] theorem setVerdict_planes (k : Nat) (v : Verdict) : (setVerdict k v s).planes = s.planes := rfl
@[simp] theorem setVerdict_assayWin (k : Nat) (v : Verdict) : (setVerdict k v s).assayWin = s.assayWin := rfl
@[simp] theorem setVerdict_counts (k : Nat) (v : Verdict) : (setVerdict k v s).counts = s.counts := rfl
@[simp] theorem setVerdict_injected (k : Nat) (v : Verdict) : (setVerdict k v s).injected = s.injected := rfl
@[simp] theorem setVerdict_out (k : Nat) (v : Verdict) : (setVerdict k v s).out = s.out := rfl
@[simp] theorem setVerdict_pending (k : Nat) (v : Verdict) : (setVerdict k v s).pending = s.pending := rfl

/-! ### setTally -/

@[simp] theorem setTally_build (n i : Nat) (v : Word) : (setTally n i v s).build = s.build := rfl
@[simp] theorem setTally_clock (n i : Nat) (v : Word) : (setTally n i v s).clock = s.clock := rfl
@[simp] theorem setTally_regs (n i : Nat) (v : Word) : (setTally n i v s).regs = s.regs := rfl
@[simp] theorem setTally_hiLatch (n i : Nat) (v : Word) : (setTally n i v s).hiLatch = s.hiLatch := rfl
@[simp] theorem setTally_setNow (n i : Nat) (v : Word) : (setTally n i v s).setNow = s.setNow := rfl
@[simp] theorem setTally_mer (n i : Nat) (v : Word) : (setTally n i v s).mer = s.mer := rfl
@[simp] theorem setTally_owner (n i : Nat) (v : Word) : (setTally n i v s).owner = s.owner := rfl
@[simp] theorem setTally_steward (n i : Nat) (v : Word) : (setTally n i v s).steward = s.steward := rfl
@[simp] theorem setTally_boot (n i : Nat) (v : Word) : (setTally n i v s).boot = s.boot := rfl
@[simp] theorem setTally_log (n i : Nat) (v : Word) : (setTally n i v s).log = s.log := rfl
@[simp] theorem setTally_mem (n i : Nat) (v : Word) : (setTally n i v s).mem = s.mem := rfl
@[simp] theorem setTally_memLate (n i : Nat) (v : Word) : (setTally n i v s).memLate = s.memLate := rfl
@[simp] theorem setTally_lines (n i : Nat) (v : Word) : (setTally n i v s).lines = s.lines := rfl
@[simp] theorem setTally_verdicts (n i : Nat) (v : Word) : (setTally n i v s).verdicts = s.verdicts := rfl
@[simp] theorem setTally_links (n i : Nat) (v : Word) : (setTally n i v s).links = s.links := rfl
@[simp] theorem setTally_groups (n i : Nat) (v : Word) : (setTally n i v s).groups = s.groups := rfl
@[simp] theorem setTally_queues (n i : Nat) (v : Word) : (setTally n i v s).queues = s.queues := rfl
@[simp] theorem setTally_orders (n i : Nat) (v : Word) : (setTally n i v s).orders = s.orders := rfl
@[simp] theorem setTally_ledgers (n i : Nat) (v : Word) : (setTally n i v s).ledgers = s.ledgers := rfl
@[simp] theorem setTally_ops (n i : Nat) (v : Word) : (setTally n i v s).ops = s.ops := rfl
@[simp] theorem setTally_late (n i : Nat) (v : Word) : (setTally n i v s).late = s.late := rfl
@[simp] theorem setTally_pageWait (n i : Nat) (v : Word) : (setTally n i v s).pageWait = s.pageWait := rfl
@[simp] theorem setTally_stalls (n i : Nat) (v : Word) : (setTally n i v s).stalls = s.stalls := rfl
@[simp] theorem setTally_planes (n i : Nat) (v : Word) : (setTally n i v s).planes = s.planes := rfl
@[simp] theorem setTally_assayWin (n i : Nat) (v : Word) : (setTally n i v s).assayWin = s.assayWin := rfl
@[simp] theorem setTally_counts (n i : Nat) (v : Word) : (setTally n i v s).counts = s.counts := rfl
@[simp] theorem setTally_injected (n i : Nat) (v : Word) : (setTally n i v s).injected = s.injected := rfl
@[simp] theorem setTally_out (n i : Nat) (v : Word) : (setTally n i v s).out = s.out := rfl
@[simp] theorem setTally_pending (n i : Nat) (v : Word) : (setTally n i v s).pending = s.pending := rfl

/-! ### addTally -/

@[simp] theorem addTally_build (n i : Nat) (v : Word) : (addTally n i v s).build = s.build := rfl
@[simp] theorem addTally_clock (n i : Nat) (v : Word) : (addTally n i v s).clock = s.clock := rfl
@[simp] theorem addTally_regs (n i : Nat) (v : Word) : (addTally n i v s).regs = s.regs := rfl
@[simp] theorem addTally_hiLatch (n i : Nat) (v : Word) : (addTally n i v s).hiLatch = s.hiLatch := rfl
@[simp] theorem addTally_setNow (n i : Nat) (v : Word) : (addTally n i v s).setNow = s.setNow := rfl
@[simp] theorem addTally_mer (n i : Nat) (v : Word) : (addTally n i v s).mer = s.mer := rfl
@[simp] theorem addTally_owner (n i : Nat) (v : Word) : (addTally n i v s).owner = s.owner := rfl
@[simp] theorem addTally_steward (n i : Nat) (v : Word) : (addTally n i v s).steward = s.steward := rfl
@[simp] theorem addTally_boot (n i : Nat) (v : Word) : (addTally n i v s).boot = s.boot := rfl
@[simp] theorem addTally_log (n i : Nat) (v : Word) : (addTally n i v s).log = s.log := rfl
@[simp] theorem addTally_mem (n i : Nat) (v : Word) : (addTally n i v s).mem = s.mem := rfl
@[simp] theorem addTally_memLate (n i : Nat) (v : Word) : (addTally n i v s).memLate = s.memLate := rfl
@[simp] theorem addTally_lines (n i : Nat) (v : Word) : (addTally n i v s).lines = s.lines := rfl
@[simp] theorem addTally_verdicts (n i : Nat) (v : Word) : (addTally n i v s).verdicts = s.verdicts := rfl
@[simp] theorem addTally_links (n i : Nat) (v : Word) : (addTally n i v s).links = s.links := rfl
@[simp] theorem addTally_groups (n i : Nat) (v : Word) : (addTally n i v s).groups = s.groups := rfl
@[simp] theorem addTally_queues (n i : Nat) (v : Word) : (addTally n i v s).queues = s.queues := rfl
@[simp] theorem addTally_orders (n i : Nat) (v : Word) : (addTally n i v s).orders = s.orders := rfl
@[simp] theorem addTally_ledgers (n i : Nat) (v : Word) : (addTally n i v s).ledgers = s.ledgers := rfl
@[simp] theorem addTally_ops (n i : Nat) (v : Word) : (addTally n i v s).ops = s.ops := rfl
@[simp] theorem addTally_late (n i : Nat) (v : Word) : (addTally n i v s).late = s.late := rfl
@[simp] theorem addTally_pageWait (n i : Nat) (v : Word) : (addTally n i v s).pageWait = s.pageWait := rfl
@[simp] theorem addTally_stalls (n i : Nat) (v : Word) : (addTally n i v s).stalls = s.stalls := rfl
@[simp] theorem addTally_planes (n i : Nat) (v : Word) : (addTally n i v s).planes = s.planes := rfl
@[simp] theorem addTally_assayWin (n i : Nat) (v : Word) : (addTally n i v s).assayWin = s.assayWin := rfl
@[simp] theorem addTally_counts (n i : Nat) (v : Word) : (addTally n i v s).counts = s.counts := rfl
@[simp] theorem addTally_injected (n i : Nat) (v : Word) : (addTally n i v s).injected = s.injected := rfl
@[simp] theorem addTally_out (n i : Nat) (v : Word) : (addTally n i v s).out = s.out := rfl
@[simp] theorem addTally_pending (n i : Nat) (v : Word) : (addTally n i v s).pending = s.pending := rfl

/-! ### setOp -/

@[simp] theorem setOp_build (o : Op) : (setOp o s).build = s.build := rfl
@[simp] theorem setOp_clock (o : Op) : (setOp o s).clock = s.clock := rfl
@[simp] theorem setOp_regs (o : Op) : (setOp o s).regs = s.regs := rfl
@[simp] theorem setOp_hiLatch (o : Op) : (setOp o s).hiLatch = s.hiLatch := rfl
@[simp] theorem setOp_setNow (o : Op) : (setOp o s).setNow = s.setNow := rfl
@[simp] theorem setOp_tabs (o : Op) : (setOp o s).tabs = s.tabs := rfl
@[simp] theorem setOp_mer (o : Op) : (setOp o s).mer = s.mer := rfl
@[simp] theorem setOp_owner (o : Op) : (setOp o s).owner = s.owner := rfl
@[simp] theorem setOp_steward (o : Op) : (setOp o s).steward = s.steward := rfl
@[simp] theorem setOp_boot (o : Op) : (setOp o s).boot = s.boot := rfl
@[simp] theorem setOp_log (o : Op) : (setOp o s).log = s.log := rfl
@[simp] theorem setOp_mem (o : Op) : (setOp o s).mem = s.mem := rfl
@[simp] theorem setOp_memLate (o : Op) : (setOp o s).memLate = s.memLate := rfl
@[simp] theorem setOp_lines (o : Op) : (setOp o s).lines = s.lines := rfl
@[simp] theorem setOp_verdicts (o : Op) : (setOp o s).verdicts = s.verdicts := rfl
@[simp] theorem setOp_links (o : Op) : (setOp o s).links = s.links := rfl
@[simp] theorem setOp_groups (o : Op) : (setOp o s).groups = s.groups := rfl
@[simp] theorem setOp_queues (o : Op) : (setOp o s).queues = s.queues := rfl
@[simp] theorem setOp_orders (o : Op) : (setOp o s).orders = s.orders := rfl
@[simp] theorem setOp_ledgers (o : Op) : (setOp o s).ledgers = s.ledgers := rfl
@[simp] theorem setOp_late (o : Op) : (setOp o s).late = s.late := rfl
@[simp] theorem setOp_pageWait (o : Op) : (setOp o s).pageWait = s.pageWait := rfl
@[simp] theorem setOp_stalls (o : Op) : (setOp o s).stalls = s.stalls := rfl
@[simp] theorem setOp_planes (o : Op) : (setOp o s).planes = s.planes := rfl
@[simp] theorem setOp_assayWin (o : Op) : (setOp o s).assayWin = s.assayWin := rfl
@[simp] theorem setOp_counts (o : Op) : (setOp o s).counts = s.counts := rfl
@[simp] theorem setOp_injected (o : Op) : (setOp o s).injected = s.injected := rfl
@[simp] theorem setOp_out (o : Op) : (setOp o s).out = s.out := rfl
@[simp] theorem setOp_pending (o : Op) : (setOp o s).pending = s.pending := rfl

/-! ### removeOp -/

@[simp] theorem removeOp_build (id : OpId) : (removeOp id s).build = s.build := rfl
@[simp] theorem removeOp_clock (id : OpId) : (removeOp id s).clock = s.clock := rfl
@[simp] theorem removeOp_regs (id : OpId) : (removeOp id s).regs = s.regs := rfl
@[simp] theorem removeOp_hiLatch (id : OpId) : (removeOp id s).hiLatch = s.hiLatch := rfl
@[simp] theorem removeOp_setNow (id : OpId) : (removeOp id s).setNow = s.setNow := rfl
@[simp] theorem removeOp_tabs (id : OpId) : (removeOp id s).tabs = s.tabs := rfl
@[simp] theorem removeOp_mer (id : OpId) : (removeOp id s).mer = s.mer := rfl
@[simp] theorem removeOp_owner (id : OpId) : (removeOp id s).owner = s.owner := rfl
@[simp] theorem removeOp_steward (id : OpId) : (removeOp id s).steward = s.steward := rfl
@[simp] theorem removeOp_boot (id : OpId) : (removeOp id s).boot = s.boot := rfl
@[simp] theorem removeOp_log (id : OpId) : (removeOp id s).log = s.log := rfl
@[simp] theorem removeOp_mem (id : OpId) : (removeOp id s).mem = s.mem := rfl
@[simp] theorem removeOp_memLate (id : OpId) : (removeOp id s).memLate = s.memLate := rfl
@[simp] theorem removeOp_lines (id : OpId) : (removeOp id s).lines = s.lines := rfl
@[simp] theorem removeOp_verdicts (id : OpId) : (removeOp id s).verdicts = s.verdicts := rfl
@[simp] theorem removeOp_links (id : OpId) : (removeOp id s).links = s.links := rfl
@[simp] theorem removeOp_groups (id : OpId) : (removeOp id s).groups = s.groups := rfl
@[simp] theorem removeOp_queues (id : OpId) : (removeOp id s).queues = s.queues := rfl
@[simp] theorem removeOp_orders (id : OpId) : (removeOp id s).orders = s.orders := rfl
@[simp] theorem removeOp_ledgers (id : OpId) : (removeOp id s).ledgers = s.ledgers := rfl
@[simp] theorem removeOp_late (id : OpId) : (removeOp id s).late = s.late := rfl
@[simp] theorem removeOp_pageWait (id : OpId) : (removeOp id s).pageWait = s.pageWait := rfl
@[simp] theorem removeOp_stalls (id : OpId) : (removeOp id s).stalls = s.stalls := rfl
@[simp] theorem removeOp_planes (id : OpId) : (removeOp id s).planes = s.planes := rfl
@[simp] theorem removeOp_assayWin (id : OpId) : (removeOp id s).assayWin = s.assayWin := rfl
@[simp] theorem removeOp_counts (id : OpId) : (removeOp id s).counts = s.counts := rfl
@[simp] theorem removeOp_injected (id : OpId) : (removeOp id s).injected = s.injected := rfl
@[simp] theorem removeOp_out (id : OpId) : (removeOp id s).out = s.out := rfl
@[simp] theorem removeOp_pending (id : OpId) : (removeOp id s).pending = s.pending := rfl

/-! ### setLatch -/

@[simp] theorem setLatch_build (addr : Nat) (v : Option Word) : (setLatch addr v s).build = s.build := rfl
@[simp] theorem setLatch_clock (addr : Nat) (v : Option Word) : (setLatch addr v s).clock = s.clock := rfl
@[simp] theorem setLatch_regs (addr : Nat) (v : Option Word) : (setLatch addr v s).regs = s.regs := rfl
@[simp] theorem setLatch_setNow (addr : Nat) (v : Option Word) : (setLatch addr v s).setNow = s.setNow := rfl
@[simp] theorem setLatch_tabs (addr : Nat) (v : Option Word) : (setLatch addr v s).tabs = s.tabs := rfl
@[simp] theorem setLatch_mer (addr : Nat) (v : Option Word) : (setLatch addr v s).mer = s.mer := rfl
@[simp] theorem setLatch_owner (addr : Nat) (v : Option Word) : (setLatch addr v s).owner = s.owner := rfl
@[simp] theorem setLatch_steward (addr : Nat) (v : Option Word) : (setLatch addr v s).steward = s.steward := rfl
@[simp] theorem setLatch_boot (addr : Nat) (v : Option Word) : (setLatch addr v s).boot = s.boot := rfl
@[simp] theorem setLatch_log (addr : Nat) (v : Option Word) : (setLatch addr v s).log = s.log := rfl
@[simp] theorem setLatch_mem (addr : Nat) (v : Option Word) : (setLatch addr v s).mem = s.mem := rfl
@[simp] theorem setLatch_memLate (addr : Nat) (v : Option Word) : (setLatch addr v s).memLate = s.memLate := rfl
@[simp] theorem setLatch_lines (addr : Nat) (v : Option Word) : (setLatch addr v s).lines = s.lines := rfl
@[simp] theorem setLatch_verdicts (addr : Nat) (v : Option Word) : (setLatch addr v s).verdicts = s.verdicts := rfl
@[simp] theorem setLatch_links (addr : Nat) (v : Option Word) : (setLatch addr v s).links = s.links := rfl
@[simp] theorem setLatch_groups (addr : Nat) (v : Option Word) : (setLatch addr v s).groups = s.groups := rfl
@[simp] theorem setLatch_queues (addr : Nat) (v : Option Word) : (setLatch addr v s).queues = s.queues := rfl
@[simp] theorem setLatch_orders (addr : Nat) (v : Option Word) : (setLatch addr v s).orders = s.orders := rfl
@[simp] theorem setLatch_ledgers (addr : Nat) (v : Option Word) : (setLatch addr v s).ledgers = s.ledgers := rfl
@[simp] theorem setLatch_ops (addr : Nat) (v : Option Word) : (setLatch addr v s).ops = s.ops := rfl
@[simp] theorem setLatch_late (addr : Nat) (v : Option Word) : (setLatch addr v s).late = s.late := rfl
@[simp] theorem setLatch_pageWait (addr : Nat) (v : Option Word) : (setLatch addr v s).pageWait = s.pageWait := rfl
@[simp] theorem setLatch_stalls (addr : Nat) (v : Option Word) : (setLatch addr v s).stalls = s.stalls := rfl
@[simp] theorem setLatch_planes (addr : Nat) (v : Option Word) : (setLatch addr v s).planes = s.planes := rfl
@[simp] theorem setLatch_assayWin (addr : Nat) (v : Option Word) : (setLatch addr v s).assayWin = s.assayWin := rfl
@[simp] theorem setLatch_counts (addr : Nat) (v : Option Word) : (setLatch addr v s).counts = s.counts := rfl
@[simp] theorem setLatch_injected (addr : Nat) (v : Option Word) : (setLatch addr v s).injected = s.injected := rfl
@[simp] theorem setLatch_out (addr : Nat) (v : Option Word) : (setLatch addr v s).out = s.out := rfl
@[simp] theorem setLatch_pending (addr : Nat) (v : Option Word) : (setLatch addr v s).pending = s.pending := rfl

/-! ### closeLedgerChain -/

@[simp] theorem closeLedgerChain_build (l : Nat) : (closeLedgerChain l s).build = s.build := rfl
@[simp] theorem closeLedgerChain_clock (l : Nat) : (closeLedgerChain l s).clock = s.clock := rfl
@[simp] theorem closeLedgerChain_regs (l : Nat) : (closeLedgerChain l s).regs = s.regs := rfl
@[simp] theorem closeLedgerChain_hiLatch (l : Nat) : (closeLedgerChain l s).hiLatch = s.hiLatch := rfl
@[simp] theorem closeLedgerChain_setNow (l : Nat) : (closeLedgerChain l s).setNow = s.setNow := rfl
@[simp] theorem closeLedgerChain_tabs (l : Nat) : (closeLedgerChain l s).tabs = s.tabs := rfl
@[simp] theorem closeLedgerChain_mer (l : Nat) : (closeLedgerChain l s).mer = s.mer := rfl
@[simp] theorem closeLedgerChain_owner (l : Nat) : (closeLedgerChain l s).owner = s.owner := rfl
@[simp] theorem closeLedgerChain_steward (l : Nat) : (closeLedgerChain l s).steward = s.steward := rfl
@[simp] theorem closeLedgerChain_boot (l : Nat) : (closeLedgerChain l s).boot = s.boot := rfl
@[simp] theorem closeLedgerChain_mem (l : Nat) : (closeLedgerChain l s).mem = s.mem := rfl
@[simp] theorem closeLedgerChain_memLate (l : Nat) : (closeLedgerChain l s).memLate = s.memLate := rfl
@[simp] theorem closeLedgerChain_lines (l : Nat) : (closeLedgerChain l s).lines = s.lines := rfl
@[simp] theorem closeLedgerChain_verdicts (l : Nat) : (closeLedgerChain l s).verdicts = s.verdicts := rfl
@[simp] theorem closeLedgerChain_links (l : Nat) : (closeLedgerChain l s).links = s.links := rfl
@[simp] theorem closeLedgerChain_groups (l : Nat) : (closeLedgerChain l s).groups = s.groups := rfl
@[simp] theorem closeLedgerChain_queues (l : Nat) : (closeLedgerChain l s).queues = s.queues := rfl
@[simp] theorem closeLedgerChain_orders (l : Nat) : (closeLedgerChain l s).orders = s.orders := rfl
@[simp] theorem closeLedgerChain_ledgers (l : Nat) : (closeLedgerChain l s).ledgers = s.ledgers := rfl
@[simp] theorem closeLedgerChain_ops (l : Nat) : (closeLedgerChain l s).ops = s.ops := rfl
@[simp] theorem closeLedgerChain_late (l : Nat) : (closeLedgerChain l s).late = s.late := rfl
@[simp] theorem closeLedgerChain_pageWait (l : Nat) : (closeLedgerChain l s).pageWait = s.pageWait := rfl
@[simp] theorem closeLedgerChain_stalls (l : Nat) : (closeLedgerChain l s).stalls = s.stalls := rfl
@[simp] theorem closeLedgerChain_planes (l : Nat) : (closeLedgerChain l s).planes = s.planes := rfl
@[simp] theorem closeLedgerChain_assayWin (l : Nat) : (closeLedgerChain l s).assayWin = s.assayWin := rfl
@[simp] theorem closeLedgerChain_counts (l : Nat) : (closeLedgerChain l s).counts = s.counts := rfl
@[simp] theorem closeLedgerChain_injected (l : Nat) : (closeLedgerChain l s).injected = s.injected := rfl
@[simp] theorem closeLedgerChain_out (l : Nat) : (closeLedgerChain l s).out = s.out := rfl
@[simp] theorem closeLedgerChain_pending (l : Nat) : (closeLedgerChain l s).pending = s.pending := rfl

/-! ### closeSourceChain -/

@[simp] theorem closeSourceChain_build (src : BitVec 16) : (closeSourceChain src s).build = s.build := rfl
@[simp] theorem closeSourceChain_clock (src : BitVec 16) : (closeSourceChain src s).clock = s.clock := rfl
@[simp] theorem closeSourceChain_regs (src : BitVec 16) : (closeSourceChain src s).regs = s.regs := rfl
@[simp] theorem closeSourceChain_hiLatch (src : BitVec 16) : (closeSourceChain src s).hiLatch = s.hiLatch := rfl
@[simp] theorem closeSourceChain_setNow (src : BitVec 16) : (closeSourceChain src s).setNow = s.setNow := rfl
@[simp] theorem closeSourceChain_tabs (src : BitVec 16) : (closeSourceChain src s).tabs = s.tabs := rfl
@[simp] theorem closeSourceChain_mer (src : BitVec 16) : (closeSourceChain src s).mer = s.mer := rfl
@[simp] theorem closeSourceChain_owner (src : BitVec 16) : (closeSourceChain src s).owner = s.owner := rfl
@[simp] theorem closeSourceChain_steward (src : BitVec 16) : (closeSourceChain src s).steward = s.steward := rfl
@[simp] theorem closeSourceChain_boot (src : BitVec 16) : (closeSourceChain src s).boot = s.boot := rfl
@[simp] theorem closeSourceChain_mem (src : BitVec 16) : (closeSourceChain src s).mem = s.mem := rfl
@[simp] theorem closeSourceChain_memLate (src : BitVec 16) : (closeSourceChain src s).memLate = s.memLate := rfl
@[simp] theorem closeSourceChain_lines (src : BitVec 16) : (closeSourceChain src s).lines = s.lines := rfl
@[simp] theorem closeSourceChain_verdicts (src : BitVec 16) : (closeSourceChain src s).verdicts = s.verdicts := rfl
@[simp] theorem closeSourceChain_links (src : BitVec 16) : (closeSourceChain src s).links = s.links := rfl
@[simp] theorem closeSourceChain_groups (src : BitVec 16) : (closeSourceChain src s).groups = s.groups := rfl
@[simp] theorem closeSourceChain_queues (src : BitVec 16) : (closeSourceChain src s).queues = s.queues := rfl
@[simp] theorem closeSourceChain_orders (src : BitVec 16) : (closeSourceChain src s).orders = s.orders := rfl
@[simp] theorem closeSourceChain_ledgers (src : BitVec 16) : (closeSourceChain src s).ledgers = s.ledgers := rfl
@[simp] theorem closeSourceChain_ops (src : BitVec 16) : (closeSourceChain src s).ops = s.ops := rfl
@[simp] theorem closeSourceChain_late (src : BitVec 16) : (closeSourceChain src s).late = s.late := rfl
@[simp] theorem closeSourceChain_pageWait (src : BitVec 16) : (closeSourceChain src s).pageWait = s.pageWait := rfl
@[simp] theorem closeSourceChain_stalls (src : BitVec 16) : (closeSourceChain src s).stalls = s.stalls := rfl
@[simp] theorem closeSourceChain_planes (src : BitVec 16) : (closeSourceChain src s).planes = s.planes := rfl
@[simp] theorem closeSourceChain_assayWin (src : BitVec 16) : (closeSourceChain src s).assayWin = s.assayWin := rfl
@[simp] theorem closeSourceChain_counts (src : BitVec 16) : (closeSourceChain src s).counts = s.counts := rfl
@[simp] theorem closeSourceChain_injected (src : BitVec 16) : (closeSourceChain src s).injected = s.injected := rfl
@[simp] theorem closeSourceChain_out (src : BitVec 16) : (closeSourceChain src s).out = s.out := rfl
@[simp] theorem closeSourceChain_pending (src : BitVec 16) : (closeSourceChain src s).pending = s.pending := rfl

end Sys2Proof.Machine
end

