-- ==== Sys2Proof/Laws/Tables.lean ====
section
/-! SUPPORT. Sparse tables: what a write leaves to be read, and the canonical form that every write keeps. -/

namespace Sys2Proof.Machine

variable {α : Type} {D : Nat → α} {d : α}

@[simp] theorem tget_nil (k : Nat) : tget d k ([] : Table α) = d := rfl

theorem tget_of_keysAbove {j k : Nat} (t : Table α) (h : keysAbove k t = true) (hj : j ≤ k) : tget d j t = d := by
  induction t with
  | nil => rfl
  | cons p t ih =>
    obtain ⟨k', v⟩ := p
    simp only [keysAbove, List.all_cons, Bool.and_eq_true, decide_eq_true_eq] at h ih
    rw [tget, if_neg (by omega), ih h.2]

theorem keysAbove_cons {j k : Nat} {v : α} {t : Table α} : keysAbove j ((k, v) :: t) = true ↔ j < k ∧ keysAbove j t = true := by
  simp [keysAbove]

theorem keysAbove_le {j k : Nat} (t : Table α) (h : keysAbove k t = true) (hj : j ≤ k) : keysAbove j t = true := by
  simp only [keysAbove, List.all_eq_true, decide_eq_true_eq] at h ⊢
  exact fun p hp => by have := h p hp; omega

variable [DecidableEq α]

theorem tableWfBy_cons {k : Nat} {v : α} {t : Table α} :
    tableWfBy D ((k, v) :: t) = true ↔ keysAbove k t = true ∧ v ≠ D k ∧ tableWfBy D t = true := by
  simp [tableWfBy, and_assoc]

/-- What a write leaves at its own key, in any table in canonical form. -/
theorem tget_tset_by (k : Nat) (v : α) (t : Table α) (h : tableWfBy D t = true) : tget (D k) k (tset (D k) k v t) = v := by
  induction t with
  | nil => by_cases hv : v = D k <;> simp [tset, tget, hv]
  | cons p t ih =>
    obtain ⟨k', v'⟩ := p
    rw [tableWfBy_cons] at h
    unfold tset
    split
    · split
      · rename_i h2; rw [tget, if_neg (by omega), tget_of_keysAbove t h.1 (by omega), h2]
      · simp [tget]
    · split
      · rename_i h3
        split
        · rename_i h4; subst h3; rw [tget_of_keysAbove t h.1 (Nat.le_refl _), h4]
        · simp [tget]
      · rename_i h3; rw [tget, if_neg h3, ih h.2.2]

theorem tget_tset_self (k : Nat) (v : α) (t : Table α) (h : tableWf d t = true) : tget d k (tset d k v t) = v :=
  tget_tset_by (D := fun _ => d) k v t h

/-- A write leaves every other key alone, in any table at all; `e` is what the other key reads as unlisted. -/
theorem tget_tset_ne {e : α} {j k : Nat} (hj : j ≠ k) (v : α) (t : Table α) : tget e j (tset d k v t) = tget e j t := by
  induction t with
  | nil => by_cases hv : v = d <;> simp [tset, tget, hv, hj]
  | cons p t ih =>
    obtain ⟨k', v'⟩ := p
    unfold tset
    split
    · split
      · rfl
      · simp [tget, hj]
    · split
      · rename_i h3
        subst h3
        split <;> simp [tget, hj]
      · by_cases e' : j = k' <;> simp [tget, e', ih]

theorem keysAbove_tset {j k : Nat} (v : α) (t : Table α) (h : keysAbove j t = true) (hj : j < k) : keysAbove j (tset d k v t) = true := by
  induction t with
  | nil => by_cases hv : v = d <;> simp [tset, keysAbove, hv, hj]
  | cons p t ih =>
    obtain ⟨k', v'⟩ := p
    rw [keysAbove_cons] at h
    unfold tset
    split
    · split <;> simp only [keysAbove_cons] <;> simp [h, hj]
    · split
      · split
        · exact h.2
        · exact keysAbove_cons.2 ⟨hj, h.2⟩
      · exact keysAbove_cons.2 ⟨h.1, ih h.2⟩

/-- Every write keeps the canonical form. -/
theorem tset_wfBy (k : Nat) (v : α) (t : Table α) (h : tableWfBy D t = true) : tableWfBy D (tset (D k) k v t) = true := by
  induction t with
  | nil => by_cases hv : v = D k <;> simp [tset, tableWfBy, hv, keysAbove]
  | cons p t ih =>
    obtain ⟨k', v'⟩ := p
    have hh := h
    rw [tableWfBy_cons] at h
    unfold tset
    split
    · rename_i h1
      split
      · exact hh
      · rename_i h2
        exact tableWfBy_cons.2 ⟨keysAbove_cons.2 ⟨h1, keysAbove_le t h.1 (Nat.le_of_lt h1)⟩, h2, hh⟩
    · split
      · rename_i h3
        subst h3
        split
        · exact h.2.2
        · rename_i h4; exact tableWfBy_cons.2 ⟨h.1, h4, h.2.2⟩
      · rename_i h1 h3
        exact tableWfBy_cons.2 ⟨keysAbove_tset v t h.1 (by omega), h.2.1, ih h.2.2⟩

theorem tset_wf (k : Nat) (v : α) (t : Table α) (h : tableWf d t = true) : tableWf d (tset d k v t) = true :=
  tset_wfBy (D := fun _ => d) k v t h

/-- Writing what a canonical table already holds changes nothing. -/
theorem tset_tget (k : Nat) (t : Table α) (h : tableWfBy D t = true) : tset (D k) k (tget (D k) k t) t = t := by
  induction t with
  | nil => simp [tset]
  | cons p t ih =>
    obtain ⟨k', v'⟩ := p
    rw [tableWfBy_cons] at h
    unfold tset
    split
    · rename_i h1
      rw [if_pos (by rw [tget, if_neg (by omega), tget_of_keysAbove t h.1 (by omega)])]
    · split
      · rename_i h3; subst h3; simp [tget, h.2.1]
      · rename_i h3; simp [tget, h3, ih h.2.2]

/-! ### What each unit reads after a write of it -/

section
variable {s : State}

theorem reg_setReg_self {a : Nat} {v : Word} (h : tableWfBy regReset s.regs = true) : reg a (setReg a v s) = v :=
  tget_tset_by a v s.regs h

theorem reg_setReg_ne {a b : Nat} {v : Word} (h : b ≠ a) : reg b (setReg a v s) = reg b s := tget_tset_ne h v s.regs

theorem lineAt_setLine_self {n : Nat} {v : Line} (h : tableWf Line.idle s.lines = true) : lineAt n (setLine n v s) = v :=
  tget_tset_self n v s.lines h
theorem lineAt_setLine_ne {m n : Nat} {v : Line} (h : m ≠ n) : lineAt m (setLine n v s) = lineAt m s := tget_tset_ne h v s.lines

theorem stallAt_setStall_self {n : Nat} {v : StallSt} (h : tableWf StallSt.quiet s.stalls = true) : stallAt n (setStall n v s) = v :=
  tget_tset_self n v s.stalls h
theorem stallAt_setStall_ne {m n : Nat} {v : StallSt} (h : m ≠ n) : stallAt m (setStall n v s) = stallAt m s := tget_tset_ne h v s.stalls

theorem linkAt_setLink_self {n : Nat} {v : Link} (h : tableWf Link.down s.links = true) : linkAt n (setLink n v s) = v :=
  tget_tset_self n v s.links h
theorem linkAt_setLink_ne {m n : Nat} {v : Link} (h : m ≠ n) : linkAt m (setLink n v s) = linkAt m s := tget_tset_ne h v s.links

theorem groupAt_setGroup_self {n : Nat} {v : GroupDef} (h : tableWf GroupDef.clear s.groups = true) : groupAt n (setGroup n v s) = v :=
  tget_tset_self n v s.groups h
theorem groupAt_setGroup_ne {m n : Nat} {v : GroupDef} (h : m ≠ n) : groupAt m (setGroup n v s) = groupAt m s := tget_tset_ne h v s.groups

theorem queueAt_setQueue_self {n : Nat} {v : QueueSt} (h : tableWf QueueSt.idle s.queues = true) : queueAt n (setQueue n v s) = v :=
  tget_tset_self n v s.queues h
theorem queueAt_setQueue_ne {m n : Nat} {v : QueueSt} (h : m ≠ n) : queueAt m (setQueue n v s) = queueAt m s := tget_tset_ne h v s.queues

theorem ledgerAt_setLedger_self {n : Nat} {v : Ledger} (h : tableWf Ledger.free s.ledgers = true) : ledgerAt n (setLedger n v s) = v :=
  tget_tset_self n v s.ledgers h
theorem ledgerAt_setLedger_ne {m n : Nat} {v : Ledger} (h : m ≠ n) : ledgerAt m (setLedger n v s) = ledgerAt m s := tget_tset_ne h v s.ledgers

theorem planeAt_setPlane_self {n : Nat} {v : PlaneSt} (h : tableWf PlaneSt.on s.planes = true) : planeAt n (setPlane n v s) = v :=
  tget_tset_self n v s.planes h
theorem planeAt_setPlane_ne {m n : Nat} {v : PlaneSt} (h : m ≠ n) : planeAt m (setPlane n v s) = planeAt m s := tget_tset_ne h v s.planes

theorem verdictAt_setVerdict_self {n : Nat} {v : Verdict} (h : tableWf Verdict.idle s.verdicts = true) : verdictAt n (setVerdict n v s) = v :=
  tget_tset_self n v s.verdicts h
theorem verdictAt_setVerdict_ne {m n : Nat} {v : Verdict} (h : m ≠ n) : verdictAt m (setVerdict n v s) = verdictAt m s := tget_tset_ne h v s.verdicts

theorem tally_setTally_self {n i : Nat} {v : Word} (h : tableWf 0#32 s.tabs.tallies = true) : tally n i (setTally n i v s) = v :=
  tget_tset_self _ v s.tabs.tallies h

/-- Tallies of different places keep apart: a stall has fewer than 64. -/
theorem tally_setTally_ne {m n i j : Nat} {v : Word} (hi : i < 64) (hj : j < 64) (h : (m, j) ≠ (n, i)) : tally m j (setTally n i v s) = tally m j s := by
  refine tget_tset_ne ?_ v s.tabs.tallies
  unfold tallyKey
  intro e
  exact h (by rw [Prod.mk.injEq]; omega)

end

/-! ### Operations by name -/

theorem findOp_id {id : OpId} {l : List Op} {o : Op} (h : findOp id l = some o) : o.id = id := by
  induction l with
  | nil => simp [findOp] at h
  | cons p l ih =>
    unfold findOp at h
    split at h
    · rename_i e; cases h; exact e
    · exact ih h

theorem findOp_replace_self {o p : Op} {l : List Op} (h : findOp o.id l = some p) : findOp o.id (replaceOp o l) = some o := by
  induction l with
  | nil => simp [findOp] at h
  | cons q l ih =>
    unfold findOp at h
    unfold replaceOp
    by_cases e : q.id = o.id
    · simp [e, findOp]
    · rw [if_neg e] at h
      rw [if_neg e, findOp, if_neg e, ih h]

theorem findOp_replace_ne {o : Op} {id : OpId} {l : List Op} (h : id ≠ o.id) : findOp id (replaceOp o l) = findOp id l := by
  induction l with
  | nil => rfl
  | cons q l ih =>
    unfold replaceOp
    by_cases e : q.id = o.id
    · rw [if_pos e, findOp, if_neg (Ne.symm h), findOp, if_neg (by rw [e]; exact Ne.symm h)]
    · rw [if_neg e, findOp, findOp, ih]

theorem opAt_setOp_self {o p : Op} {s : State} (h : opAt o.id s = some p) : opAt o.id (setOp o s) = some o := findOp_replace_self h
theorem opAt_setOp_ne {o : Op} {id : OpId} {s : State} (h : id ≠ o.id) : opAt id (setOp o s) = opAt id s := findOp_replace_ne h
theorem opAt_id {id : OpId} {o : Op} {s : State} (h : opAt id s = some o) : o.id = id := findOp_id h

end Sys2Proof.Machine
end

