-- ==== Sys2Proof/Tests/Slice0.lean ====
section
/-! SUPPORT. The model's own tests: what WellFormed refuses, worked values of the spec, and for each statement with hypotheses a state and operands that meet them. -/

namespace Sys2Proof.Tests

-- One theorem after the other: each evaluates a state, and many at once would need a thread each.
set_option Elab.async false

open Sys2Proof Sys2Proof.Machine

/-! ### WellFormed: an ill-formed term for each check -/

def owner : Agent := .mgmt 0 1
def id0 : OpId := ⟨0, 0, 0⟩

theorem test_wf_agent : (Instr.resync (.mgmt 4 0)).wf = false ∧ (Instr.resync (.mgmt 0 256)).wf = false ∧ (Instr.resync (.mgmt 3 255)).wf = true := by decide
theorem test_wf_opId : (Instr.seal ⟨65536, 0, 0⟩).wf = false ∧ (Instr.seal ⟨0, 65536, 0⟩).wf = false ∧ (Instr.seal ⟨65535, 65535, 9⟩).wf = true := by decide
theorem test_wf_boot : (Instr.startup ⟨List.replicate 1023 0#32, []⟩).wf = false ∧ (Instr.startup ⟨List.replicate 1024 0#32, [(4096, 0)]⟩).wf = false
    ∧ (Instr.startup ⟨List.replicate 1024 0#32, [(4095, 4095)]⟩).wf = true := by decide +kernel
theorem test_wf_rows : (Instr.planeSelftestDone 0 [(0, 4096)]).wf = false ∧ (Instr.planeSelftestDone 0 [(4096, 0)]).wf = false ∧ (Instr.planeSelftestDone 7 [(4095, 4095)]).wf = true := by decide
theorem test_wf_place : (Instr.faultDetect 0x31#8 0#16 (.opPage ⟨65536, 0, 0⟩)).wf = false ∧ (Instr.faultDetect 0x31#8 0#16 (.opPiece ⟨65536, 0, 0⟩)).wf = false
    ∧ (Instr.faultDetect 0x31#8 0#16 (.ledgerPage 4095#12)).wf = true := by decide
theorem test_wf_point : (Instr.binoMismatch (.downChunk ⟨65536, 0, 0⟩)).wf = false ∧ (Instr.binoMismatch (.ringFlit ⟨65536, 0, 0⟩ 0)).wf = false ∧ (Instr.binoMismatch (.ringFlit id0 8)).wf = false
    ∧ (Instr.binoMismatch (.memWrite ⟨65536, 0, 0⟩ 0#8)).wf = false := by decide
theorem test_wf_action : (Instr.stewardGuard (.transmit 8 0)).wf = false ∧ (Instr.stewardGuard (.transmit 7 4)).wf = false ∧ (Instr.stewardGuard (.memRequest 31 1)).wf = false
    ∧ (Instr.stewardGuard (.memRequest 32 0)).wf = false ∧ (Instr.stewardGuard (.memRequest 32 1)).wf = true := by decide
theorem test_wf_train : (Instr.trainFlitReceive 0 ⟨0#32, [], 8, 0, false, [0, 0, 0, 0]⟩ 0).wf = false ∧ (Instr.trainFlitReceive 0 ⟨0#32, [], 0, 8, false, [0, 0, 0, 0]⟩ 0).wf = false
    ∧ (Instr.trainFlitReceive 0 ⟨0#32, [0, 0, 0, 0, 0, 0, 0, 0, 0], 0, 0, false, [0, 0, 0, 0]⟩ 0).wf = false ∧ (Instr.trainFlitReceive 0 ⟨0#32, [], 0, 0, false, [0, 0, 0]⟩ 0).wf = false
    ∧ (Instr.trainFlitReceive 8 ⟨0#32, [], 0, 0, false, [0, 0, 0, 0]⟩ 0).wf = false ∧ (Instr.trainFlitReceive 7 ⟨0#32, [], 7, 7, false, [0, 0, 0, 0]⟩ 0).wf = true := by decide
theorem test_wf_input : (Instr.glitchRemoved ⟨.bellExt 4, 3⟩).wf = false ∧ (Instr.glitchRemoved ⟨.bellExt 3, 3⟩).wf = true := by decide
theorem test_wf_offset : (Instr.queueCfgWrite owner 0x1000 0#32).wf = false ∧ (Instr.queueCfgWrite owner 0x042 0#32).wf = false ∧ (Instr.queueCfgWrite owner 0xFFC 0#32).wf = true := by decide
theorem test_wf_boundary : (Instr.transitBoundary 0 5).wf = false ∧ (Instr.transitBoundary 1 0).wf = true := by decide

/-- Commands with one number outside its range: stalls, planes, lines, tallies, ports. -/
def illNumbers : List Instr :=
  [.upBeat 1024 0 0#12 0#24 false 0#512 0#32 0, .upBeat 0 8 0#12 0#24 false 0#512 0#32 0, .tallyAdd 1024 0#6 0#32, .tallySub 1024 0#6 0#32, .tallyWait 1024 0#6 0#32,
    .tallyTake 1024 0#6 0#32, .tallyRead 1024 0#6, .tallyBadIndex 1024 0#3 48#6, .tallyRetest 1024, .tlyCancel 1024, .tallyWindowSet owner 1024 0 0#32, .tallyWindowSet owner 0 64 0#32,
    .tallyWindowAdd owner 1024 0 0#32, .tallyWindowAdd owner 0 64 0#32, .tallyWindowSub owner 1024 0 0#32, .tallyWindowSub owner 0 64 0#32, .tallyWindowRead owner 1024 0,
    .tallyWindowRead owner 0 64, .bellOutChange 1024 0 true, .bellOutChange 0 16 true, .bellExtSenseChange 4 ⟨true, 12⟩, .bellRing 16, .boardHoldExpire 16, .bellRearm 16, .bellMsgReceive 8 0,
    .verdictMsgReceive 8 0, .verdictPass 256 0#16, .verdictRing 256 0#16, .remoteAddReceive 8 0, .remoteAddApply 8, .descriptorFetch 65536 0, .descriptorDecode 65536 0, .descriptorDecode 0 65536,
    .doorbell owner 65536 0#32, .standingPin owner 65536 0#32, .standingUnpin owner 65536, .standingRun 65536 0, .standingRun 0 65536, .descriptorStart 65536, .barrier 65536, .fence 65536,
    .upPhaseOpen id0 8, .upPhaseClose id0 8, .chunkRelease id0 1024 0, .ringChunkReceive 8 0 0, .chunkForward 8 0 0, .ringStepEnd 8 0, .recallMsgReceive 8 0, .flitReceive 8 0#1024 false 0,
    .nakReceive 8 0, .replayTimeout 8 0, .flitTransmit 8 0, .heartbeatSend 8 0, .nullSend 8 0, .linkLost 8 true 0, .linkDown 8 0#8, .timeFrameReceive 8 none 0, .linkTraining 8 true 0#32 0,
    .retrain owner 8, .bellExtHigh 4, .bellExtLow 4, .ephemerisEntryWrite owner 4 0#32, .planePowerDown owner 8, .planePowerUp owner 8, .planeSelftestDone 8 [], .softReset owner 256,
    .pageLock owner 256, .ownerClaim 4 0 0#16, .ownerClaim 0 256 0#16, .ownerAccept 4 0 0#16, .ownerAccept 0 256 0#16, .nonownerWrite 4 0 0#22 0#32, .nonownerWrite 0 256 0#22 0#32,
    .mailboxWrite 4 0 0#32, .mailboxWrite 0 256 0#32, .mailboxRead owner 4, .mgmtErrorResponse 4 0 true 0#22 0#32, .mgmtErrorResponse 0 256 true 0#22 0#32, .ringCreditWrite owner 8 0x060 0#32,
    .ringCreditWrite owner 0 0x061 0#32, .topologyWrite owner 0x041 0#32, .thresholdWrite owner 0x041 0#32, .assayPolicyWrite owner 0x051 0#32, .spillPoolWrite owner 8 0x044 0#32,
    .spillPoolWrite owner 0 0x045 0#32]

theorem test_wf_numbers : (illNumbers.all fun c => !c.wf) = true := by decide

/-- Commands of an agent that no build has. -/
def illAgents (a : Agent) : List Instr :=
  [.tallyWindowSet a 0 0 0#32, .tallyWindowAdd a 0 0 0#32, .tallyWindowSub a 0 0 0#32, .tallyWindowRead a 0 0, .sigSend a, .doorbell a 0 0#32, .standingPin a 0 0#32, .standingUnpin a 0,
    .meridianCal a, .resync a, .inputDelayWrite a 0#32, .swapArm a, .swapDisarm a, .ephemerisEntryWrite a 0 0#32, .powerFenceWrite a 0#32, .planePowerDown a 0, .planePowerUp a 0, .softReset a 0,
    .pageLock a 0, .restoreTrims a, .errlogPop a, .errlogHeadRead a, .loReadLatch a 0#22, .readToClear a 0#22, .takeover a, .repair a, .repairWithdraw a, .ownerOffer a 0#32, .ownerHeartbeat a none,
    .mailboxRead a 0, .stewardKick a, .stewardRestart a, .queueEnable a 0#32, .queueDisable a, .queueResume a, .queueCfgWrite a 0x048 0#32, .maskDataWrite a 0#32, .ledgerRelease a, .retrain a 0,
    .ringCreditWrite a 0 0x060 0#32, .unfence a, .topologyWrite a 0x040 0#32, .groupCfgWrite a 0#32, .lineCfgWrite a 0#32, .lineMembersWrite a 0#32, .musterCtrlWrite a 0#32,
    .thresholdWrite a 0x040 0#32, .assayPolicyWrite a 0x050 0#32, .spillPoolWrite a 0 0x044 0#32, .perfClear a, .injectArm a 0#32, .registerWrite a 0#22 0#32]

theorem test_wf_agents : ((illAgents (.mgmt 4 0)).all fun c => !c.wf) = true ∧ ((illAgents owner).all fun c => c.wf) = true := by decide

/-- Commands on an operation whose queue number no queue has. -/
def illOps (o : OpId) : List Instr :=
  [.treeSumArrive o 0 0 0, .reduce o 0, .broadcast o 0, .allreduce o 0, .reduceScatter o 0, .allgather o 0, .max o 0, .argmax o 0, .topk o 0, .sample o 0, .alltoall o 0, .ledgerOpen o, .ledgerAdd o 0,
    .ledgerClose o 0, .save o 0, .restore o 0, .ledgerClaim o, .pageGrant o, .upPhaseOpen o 0, .upPhaseClose o 0, .egress o 0, .almanacCompare o, .recallOp o 0, .reEmission o 0, .chunkRelease o 0 0, .seal o,
    .descriptorFail o, .ringStepStart o false 1 0, .statisticsLap o 0, .containedReplay o 0x31#8 0#16, .watchdog o, .binoStateCompare o true, .injectFire (some o)]

theorem test_wf_ops : ((illOps ⟨65536, 0, 0⟩).all fun c => !c.wf) = true ∧ ((illOps id0).all fun c => c.wf) = true := by decide

/-! ### Worked values of the spec -/

def digits : List Byte := [0x31#8, 0x32#8, 0x33#8, 0x34#8, 0x35#8, 0x36#8, 0x37#8, 0x38#8, 0x39#8]

/-- R288: the check value of CRC-32C over "123456789". -/
theorem test_crc32c : crc32c digits = 0xE3069283#32 := by decide +kernel
/-- R294: the check value of the link check over "123456789". -/
theorem test_crc32Link : crc32Link digits = 0xCBF43926#32 := by decide +kernel
/-- No row of the table gives bits: no word spells a command (log 13). -/
theorem test_no_word : decodeTableWord 0 0 = none ∧ decodeTableWord 32 0xFFFFFFFF = none := by decide
/-- R5's reference configuration stands in reset with nothing listed. -/
theorem test_reset : State.reset.regs = [] ∧ State.reset.clock.rstN = false ∧ State.reset.build.log2Leaves = 8 := by decide

/-- R92's table: E2M1 0x7 with scale 0x85 and t = -3; E4M3 0x7E with scale 0xFE; E8M7 0x0001; E5M10 0x0001; signed I8 0x9C with t = 2. -/
theorem test_input_conversions :
    (pairH (leafValue fmtE2M1 false .plain (-3) false 0x85 0x7).1, pairH (leafValue fmtE4M3 false .plain 0 false 0xFE 0x7E).1,
      pairH (leafValue fmtE4M3 false .plain 0 true 0xFE 0x7E).1) = (0x42400000#32, 0x7F800000#32, 0x7F7FFFFF#32)
    ∧ (pairH (leafValue fmtE8M7 false .plain 0 false 0 1).1, pairH (leafValue fmtE5M10 false .plain 0 false 0 1).1, pairH (leafValue fmtI8 true .plain 2 false 0 0x9C).1)
      = (0#32, 0x33800000#32, 0xC3C80000#32) := by decide +kernel

/-- The chapter of the formats: byte 0xB2 with scale 0x7C carries +0.125 and -0.1875. -/
theorem test_e2m1_byte : (pairH (leafValue fmtE2M1 false .plain 0 false 0x7C (beatElem fmtE2M1 0xB2#512 0)).1,
    pairH (leafValue fmtE2M1 false .plain 0 false 0x7C (beatElem fmtE2M1 0xB2#512 1)).1) = (0x3E000000#32, 0xBE400000#32) := by decide +kernel

/-! ### Small states: a block of the reference configuration in service, owned by master 1 on port 0 -/

def boot (phase : Nat) : State :=
  setReg rCFG_STATUS (BitVec.ofNat 32 (256 * phase)) { State.reset with clock := { State.reset.clock with rstN := true, phase := phase, fabReady := decide (phase = 9), now := 100000000000, transit := 50#64, fclk := 9000 } }
def ownedBy (s : State) : State := { s with owner := { s.owner with role := some (0, 1), state := 1, port := 0, master := 1 } }
def up : State := ownedBy (boot 9)
def withLog (n : Nat) (s : State) : State := { s with log := { s.log with entries := List.replicate n default } }
def late (s : State) : State := { s with clock := { s.clock with reached := ⟨8, [2]⟩ } }

/-! ### Witnesses: the queue, order, absent ports -/

theorem witness_StepRunsFront : { up with pending := [.ownerElection, .offerLapse] }.pending = [.ownerElection, .offerLapse] ∧ up.pending = [] := ⟨rfl, rfl⟩
theorem witness_PassedPlaceHeld : placeOf (.tallyAdd 0 0#6 1#32) (late up) = some ⟨7, [1, 0, 0]⟩ ∧ Filtered (.tallyAdd 0 0#6 1#32) (late up) = false
    ∧ placeLe (late up).clock.reached ⟨7, [1, 0, 0]⟩ = false ∧ (late up).clock.due = [] ∧ Filtered (.fenceInChange ⟨true, 11⟩) (late up) = true ∧ (placeOf (.fenceInChange ⟨true, 11⟩) (late up)).isSome = true
    ∧ Filtered (.fenceInChange ⟨true, 12⟩) (late up) = false := by decide
/-- A write of the owner whose place has passed: its port has nothing outstanding. -/
theorem witness_PassedPlaceHeld_request : ((placeOf (.powerFenceWrite owner 1#32) (late up)).map fun p => placeLe (late up).clock.reached p) = some false
    ∧ Filtered (.powerFenceWrite owner 1#32) (late up) = false ∧ requestOf (.powerFenceWrite owner 1#32) = some 0 ∧ mgmtServes (late up) = true ∧ (late up).owner.answering = none
    ∧ (requestsAt 0 (late up)).length < 8 ∧ (late up).clock.due = [] := by decide
def entry0 : LogIn := ⟨0x31, clsContained, 0x1000#16, none, none⟩
def found (d : Due) (s : State) : State := { s with clock := { s.clock with due := [(duePlace d, d)] } }
theorem witness_FoundTakesEffect : (found (.entry entry0) up).tablesWf = true ∧ alive (found (.entry entry0) up) = true ∧ (lineAt 15 (found (.entry entry0) up)).rangAt = none ∧ LogRoom (found (.entry entry0) up)
    ∧ (found (.entry entry0) up).clock.due = [(duePlace (.entry entry0), .entry entry0)] ∧ placeLe (found (.entry entry0) up).clock.reached ⟨3, [15, 2]⟩ = true := by unfold LogRoom; decide
theorem witness_AbsentPortsFault : hasStall 256 up = false ∧ (hasStall 0 up && hasPlane 4 up) = false ∧ hasPort 8 up = false ∧ 16 ≤ 16 ∧ up.build.paired = false ∧ up.build.mgmtPorts ≤ 4
    ∧ lacking (.tallyBadIndex 256 0#3 48#6) up = some .noSuchStallPort ∧ lacking (.bellOutChange 255 16 true) up = some .noSuchBellLine ∧ lacking (.flitTransmit 8 0) up = some .noSuchRingPort
    ∧ lacking (.lateMismatch none) up = some .noSuchSide ∧ lacking (.takeover (.mgmt 4 0)) up = none ∧ lacksAgent (.takeover (.mgmt 4 0)) up = true ∧ lacksAgent (.takeover owner) up = false := by decide

/-! ### Witnesses: tallies -/

def tal (v : Word) : State := setTally 255 47 v up
def pendS (take : Bool) (v n : Word) : State := setStall 255 { StallSt.quiet with pend := some ⟨take, 47, n⟩ } (tal v)

theorem witness_TallyAddSubRead : (tal 0xFFFFFFFF#32).tablesWf = true ∧ hasStall 255 (tal 0xFFFFFFFF#32) = true ∧ tallyReady 255 (tal 0xFFFFFFFF#32) = true ∧ (47#6).toNat < 48
    ∧ applies (.tallyAdd 255 47#6 1#32) (tal 0xFFFFFFFF#32) = true ∧ applies (.tallySub 255 47#6 1#32) (tal 0xFFFFFFFF#32) = true
    ∧ applies (.tallyRead 255 47#6) (tal 0xFFFFFFFF#32) = true := by decide
/-- Just satisfied and just not satisfied, for WAIT and for TAKE (R310's example). -/
theorem witness_TallyWaitTake : (tal 0x10#32).tablesWf = true ∧ hasStall 255 (tal 0x10#32) = true ∧ tallyReady 255 (tal 0x10#32) = true ∧ (47#6).toNat < 48
    ∧ applies (.tallyWait 255 47#6 0x80000011#32) (tal 0x10#32) = true ∧ applies (.tallyTake 255 47#6 0x80000010#32) (tal 0x10#32) = true
    ∧ (tally 255 47 (tal 0x10#32) - 0x80000011#32).toNat < 2 ^ 31 ∧ ¬ (tally 255 47 (tal 0x10#32) - 0x80000010#32).toNat < 2 ^ 31 := by decide
theorem witness_TallyRetestCancel : (pendS true 0x10#32 0x80000010#32).tablesWf = true ∧ hasStall 255 (pendS true 0x10#32 0x80000010#32) = true ∧ serving (pendS true 0x10#32 0x80000010#32) = true
    ∧ (stallAt 255 (pendS true 0x10#32 0x80000010#32)).pend = some ⟨true, 47, 0x80000010#32⟩ ∧ 47 < 48 ∧ applies (.tallyRetest 255) (pendS true 0x10#32 0x80000010#32) = true
    ∧ applies (.tlyCancel 255) (pendS true 0x10#32 0x80000010#32) = true ∧ (stallAt 255 (pendS false 0x10#32 8#32)).pend = some ⟨false, 47, 8#32⟩ := by decide
theorem witness_TallyBadIndex : up.tablesWf = true ∧ hasStall 0 up = true ∧ tallyReady 0 up = true ∧ 48 ≤ (48#6).toNat ∧ 5 ≤ (5#3).toNat ∧ applies (.tallyBadIndex 0 0#3 48#6) up = true
    ∧ applies (.tallyBadIndex 0 5#3 0#6) up = true := by decide
theorem witness_TallyWindow : up.tablesWf = true ∧ 1023 < 1024 ∧ 63 < 64 ∧ OwnerTurn 0 1 (.tallyWindowSet owner 1023 63 5#32) up ∧ OwnerTurn 0 1 (.tallyWindowAdd owner 255 47 5#32) up
    ∧ OwnerTurn 0 1 (.tallyWindowSub owner 255 48 5#32) up ∧ OwnerTurn 0 1 (.tallyWindowRead owner 256 0) up := by unfold OwnerTurn; decide

/-! ### Witnesses: bells, verdicts, signals -/

def line (l : Line) (s : State) : State := setLine 15 l s
/-- Line 15, enabled, armed, every part complete. -/
def ringable : Line := { Line.idle with cfg := 0x1#32, gen := 0xFFFF#16, armed := true, ondie := true, board := true, chip := true, pull := false }
def bell : State := line ringable up
/-- A muster of line 15 for tally 47 of stall 255, entry 1023. -/
def mustered : State := { bell with tabs := { bell.tabs with musters := [(2046, 0x800F3FEF#32), (2047, 7#32)] } }

theorem witness_BellRings : bell.tablesWf = true ∧ 15 < 16 ∧ serving bell = true ∧ canRing 15 bell = true ∧ applies (.bellRing 15) bell = true := by decide
theorem witness_MusterSets : mustered.tablesWf = true ∧ serving mustered = true ∧ canRing 15 mustered = true ∧ applies (.bellRing 15) mustered = true
    ∧ MusterHits 15 1023 255 47 mustered ∧ musterValue 1023 mustered = 7#32 ∧ (∃ t, exec (.bellRing 15) mustered = .next t) := by
  unfold MusterHits; exact ⟨by decide, by decide, by decide, by decide, by decide, by decide, _, rfl⟩
theorem witness_BellOutSamples : bell.tablesWf = true ∧ 15 < 16 ∧ hasStall 255 bell = true ∧ serving bell = true ∧ applies (.bellOutChange 255 15 true) bell = true := by decide

/-- Line 15 on board line 3, with its on-die part complete; rung in transit 40. -/
def boardLine : State := line { Line.idle with cfg := 0xF#32, armed := true, boardLow := true, ondie := true, pull := false } up
def pulled : State := line { Line.idle with cfg := 0xF#32, ondie := true, rangAt := some 46#64, pull := false } up
def rung : State := line { Line.idle with cfg := 1#32, rangAt := some 49#64, pull := false } up
/-- The same board line as it is tested, its level high or low. -/
def senses (v : BitVec 4) : State := found (.line 15) { boardLine with clock := { boardLine.clock with bellSense := v } }

theorem witness_BellOutSamples_turn : (senses 8#4).tablesWf = true ∧ alive (senses 8#4) = true ∧ (senses 8#4).clock.due = [(duePlace (.line 15), .line 15)]
    ∧ placeLe (senses 8#4).clock.reached ⟨3, [15, 2]⟩ = true ∧ (lineAt 15 (senses 8#4)).armed = true ∧ (lineAt 15 (senses 8#4)).recover = none := by decide
theorem witness_BoardAndRearm_sense : boardLine.tablesWf = true ∧ 3 < 4 ∧ alive boardLine = true ∧ regNat rGLITCH_CYCLES boardLine ≤ 12 ∧ applies (.bellExtSenseChange 3 ⟨true, 12⟩) boardLine = true
    ∧ 11 < regNat rGLITCH_CYCLES boardLine := by decide
theorem witness_BoardAndRearm_turn : (senses 0#4).clock.bellSense.getLsbD (lBoardLine (lineAt 15 (senses 0#4)).cfg) = false ∧ (senses 8#4).clock.bellSense.getLsbD (lBoardLine (lineAt 15 (senses 8#4)).cfg) = true
    ∧ lEnable (lineAt 15 (senses 8#4)).cfg = true ∧ lBoard (lineAt 15 (senses 8#4)).cfg = true ∧ (lineAt 15 (senses 8#4)).armed = true ∧ (lineAt 15 (senses 8#4)).recover = none
    ∧ (lineAt 15 (senses 8#4)).boardLow = true ∧ (lineAt 15 (senses 8#4)).ondie = true ∧ (lineAt 15 (senses 8#4)).pull = false := by decide
theorem witness_BoardAndRearm_hold : pulled.tablesWf = true ∧ alive pulled = true ∧ (lineAt 15 pulled).rangAt = some 46#64 ∧ lBoard (lineAt 15 pulled).cfg = true ∧ ((lineAt 15 pulled).ondie = true → pulled.clock.transit.toNat < (46#64).toNat + regNat rBOARD_HOLD pulled + 2)
    ∧ (lineAt 15 pulled).pull = false ∧ (46#64).toNat + regNat rBOARD_HOLD pulled ≤ pulled.clock.transit.toNat ∧ applies (.boardHoldExpire 15) pulled = true := by decide
theorem witness_BoardAndRearm_rearm : rung.tablesWf = true ∧ alive rung = true ∧ (lineAt 15 rung).rangAt = some 49#64 ∧ lEnable (lineAt 15 rung).cfg = true ∧ (lineAt 15 rung).armed = false
    ∧ (∀ m ∈ lineMembers 15 rung, (stallAt m rung).bellIn.getLsbD 15 = false) ∧ (49#64).toNat + (if (lineMembers 15 rung).isEmpty then 1 else 2) ≤ rung.clock.transit.toNat
    ∧ applies (.bellRearm 15) rung = true := by decide

/-- A link that is UP with credit on every channel. -/
def linkUp0 : Link := { Link.down with state := 2, phyEnable := true, phyLocked := true, credit := [8, 8, 8, 8], creditMax := [8, 8, 8, 8], advertised := [8, 8, 8, 8], lastGood := 9000, lastTx := 8990 }
def link (l : Link) (s : State) : State := setLink 0 l s
def msg (b : List Byte) : CtlMsg := ⟨3, 1, b, []⟩
def ctl (b : List Byte) (s : State) : State := link { linkUp0 with rxCtl := [msg b] } s
/-- A BELL message of line 15: its generation in bytes 2 and 3, its phase in byte 5, its map from byte 8. -/
def bellMsg0 (gen phase : Nat) : List Byte := [0x02#8, 0x0F#8, BitVec.ofNat 8 gen, BitVec.ofNat 8 (gen / 256), 0#8, BitVec.ofNat 8 phase, 0#8, 0#8, 3#8, 0#8, 0#8, 0#8, 0#8, 0#8, 0#8, 0#8]
def enabled15 (gen : Nat) (s : State) : State := line { Line.idle with cfg := 1#32, gen := BitVec.ofNat 16 gen } s

theorem witness_BellMessages_current : (ctl (bellMsg0 65535 3) (enabled15 65535 up)).tablesWf = true ∧ hasPort 0 (ctl (bellMsg0 65535 3) (enabled15 65535 up)) = true
    ∧ HeadMessage 0 0x02#8 (msg (bellMsg0 65535 3)) (ctl (bellMsg0 65535 3) (enabled15 65535 up)) ∧ bitsAt (0x0F#8).toNat 0 4 = 15
    ∧ lEnable (lineAt 15 (ctl (bellMsg0 65535 3) (enabled15 65535 up))).cfg = true ∧ leNat (sliceB (bellMsg0 65535 3) 2 2) = 65535 := ⟨by decide, by decide, ⟨[], by decide⟩, by decide, by decide, by decide⟩
theorem witness_BellMessages_next : HeadMessage 0 0x02#8 (msg (bellMsg0 0 0)) (ctl (bellMsg0 0 0) (enabled15 65535 up)) ∧ leNat (sliceB (bellMsg0 0 0) 2 2) = (65535#16 + 1).toNat := ⟨⟨[], by decide⟩, by decide⟩
theorem witness_BellMessages_stale : HeadMessage 0 0x02#8 (msg (bellMsg0 3 0)) (ctl (bellMsg0 3 0) (enabled15 1 up)) ∧ leNat (sliceB (bellMsg0 3 0) 2 2) ≠ (1#16 + 1).toNat := ⟨⟨[], by decide⟩, by decide⟩
theorem witness_BellMessages_disabled : HeadMessage 0 0x02#8 (msg (bellMsg0 0 0)) (ctl (bellMsg0 0 0) up) ∧ lEnable (lineAt 15 (ctl (bellMsg0 0 0) up)).cfg = false := ⟨⟨[], by decide⟩, by decide⟩

/-- A VERDICT message of definition 255 and LEG_SEQ 7. -/
def verdictMsg0 (att : Nat) : List Byte := [0x03#8, 0xFF#8, 7#8, 0#8, 0#8, 1#8, BitVec.ofNat 8 att, 0#8, 1#8, 0#8, 0#8, 0#8, 0#8, 0#8, 0#8, 0#8]
/-- An operation of queue 3 with a leg on definition 255, LEG_SEQ 7, attempt 255 of the wire. -/
def leg0 : Leg := { (default : Leg) with tgroup := 255, seq := 7#16, attempt := 255, n := 4, pos := 1 }
def legged (s : State) : State := { s with ops := [{ (default : Op) with id := ⟨3, 0, 0⟩, leg := some leg0, claim := .claimed }] }
def passed : State := setVerdict (verdictKey 255 7#16) { Verdict.idle with passed := true } up

theorem witness_VerdictMessagesAndRing : (ctl (verdictMsg0 255) (legged up)).tablesWf = true ∧ hasPort 0 (ctl (verdictMsg0 255) (legged up)) = true
    ∧ HeadMessage 0 0x03#8 (msg (verdictMsg0 255)) (ctl (verdictMsg0 255) (legged up)) ∧ legAttempt 255 7#16 (ctl (verdictMsg0 255) (legged up)) = some 255
    ∧ (verdictMsg0 255).getD 6 0#8 = 255#8 ∧ (((verdictMsg0 0).getD 6 0#8).toNat = (255 + 1) % 256) := ⟨by decide, by decide, ⟨[], by decide⟩, by decide, by decide, by decide⟩
theorem witness_VerdictMessagesAndRing_early : HeadMessage 0 0x03#8 (msg (verdictMsg0 0)) (ctl (verdictMsg0 0) (setGroup 255 { GroupDef.clear with legSeq := 7#16 } up))
    ∧ legAttempt 255 7#16 (ctl (verdictMsg0 0) (setGroup 255 { GroupDef.clear with legSeq := 7#16 } up)) = none
    ∧ (groupAt 255 (ctl (verdictMsg0 0) (setGroup 255 { GroupDef.clear with legSeq := 7#16 } up))).legSeq = 7#16 := ⟨⟨[], by decide⟩, by decide, by decide⟩
/-- The same beside the leg's operation. -/
def passedLeg : State := setVerdict (verdictKey 255 7#16) { Verdict.idle with passed := true } (legged up)
theorem witness_VerdictMessagesAndRing_leg : passedLeg.tablesWf = true ∧ (verdictAt (verdictKey 255 7#16) passedLeg).rung = false ∧ opAt ⟨3, 0, 0⟩ passedLeg = passedLeg.ops.head? ∧ (legOp 255 7#16 passedLeg).map (·.2) = some leg0 ∧ applies (.verdictRing 255 7#16) passedLeg = true := by decide
theorem witness_VerdictMessagesAndRing_ring : passed.tablesWf = true ∧ alive passed = true ∧ (verdictAt (verdictKey 255 7#16) passed).passed = true
    ∧ crossDone (groupAt 255 passed) (verdictAt (verdictKey 255 7#16) passed).maps = true ∧ applies (.verdictRing 255 7#16) passed = true := by decide

/-- The defaults are not in use; port 0 goes along axis 0 and port 1 against it, on a ring of four; this chip has coordinate 1. -/
def topo (s : State) : State := setReg rSELF 1#32 (setReg (rAXIS 0) 0x104#32 (setReg (rPORTMAP 0) 0#32 (setReg (rPORTMAP 1) 4#32 s)))
def sigUp : State := link linkUp0 (topo up)

theorem witness_SigSend : sigUp.tablesWf = true ∧ OwnerTurn 0 1 (.sigSend owner) sigUp ∧ portAbsent 0 sigUp = false ∧ (linkAt 0 sigUp).state = 2
    ∧ OwnerTurn 0 1 (.sigSend owner) (setReg rSIG_TALLY 48#32 sigUp) := by unfold OwnerTurn; decide

/-- An ADD message for tally 47 of stall 255. -/
def addMsg : List Byte := [0x01#8, 0#8, 255#8, 0#8, 47#8, 0#8, 0#8, 0#8, 9#8, 0#8, 0#8, 0#8]
def held (tally : Nat) : HeldAdd := ⟨⟨0, 255, tally, 9#32, 0#16⟩, [], true⟩
def adds (t : Nat) : State := link { linkUp0 with adds := [held t] } up

theorem witness_RemoteAdds_receive : (ctl addMsg up).tablesWf = true ∧ hasPort 0 (ctl addMsg up) = true ∧ HeadMessage 0 0x01#8 (msg addMsg) (ctl addMsg up) := ⟨by decide, by decide, ⟨[], by decide⟩⟩
theorem witness_RemoteAdds_apply : (adds 47).tablesWf = true ∧ hasPort 0 (adds 47) = true ∧ alive (adds 47) = true ∧ (linkAt 0 (adds 47)).adds = held 47 :: [] ∧ (held 47).ready = true ∧ (held 47).add.tally < 64
    ∧ applies (.remoteAddApply 0) (adds 47) = true ∧ hasStall 255 (adds 47) = true ∧ (linkAt 0 (adds 48)).adds = held 48 :: [] ∧ ¬ (48 < 48) := by decide

/-! ### Witnesses: reset, start-up, ownership, the steward -/

def noTrims : BootInput := ⟨[], []⟩
/-- A trim set without repairs whose CONFIG_SRC is 0 (memory) or 2 (none), with its check word. -/
def trimBody (src : Word) : List Word := BitVec.ofNat 32 trimMagic :: 1#32 :: (List.replicate 282 0#32 ++ src :: List.replicate 738 0#32)
def goodTrims (src : Word) : BootInput := ⟨trimBody src ++ [crc32c (bytesOfWords (trimBody src))], []⟩
def trimmed (phase : Nat) : State := { boot phase with boot := { (boot phase).boot with trimsValid := true } }
def phase7 : State := boot 7

theorem witness_StartupWithoutTrims : State.reset.tablesWf = true ∧ State.reset.clock.rstN = false ∧ State.reset.clock.fabFault = false ∧ State.reset.clock.due = []
    ∧ trimsGood noTrims.trims = false ∧ noTrims.testRows = [] := by decide
theorem trimsGood_of_check (b : List Word) (hl : b.length = 1023) (h0 : (b.getD 0 0#32).toNat = trimMagic) (h1 : b.getD 1 0#32 = 1#32) :
    trimsGood (b ++ [crc32c (bytesOfWords b)]) = true := by
  have e0 : (b ++ [crc32c (bytesOfWords b)]).getD 0 0#32 = b.getD 0 0#32 := by simp [List.getD, hl]
  have e1 : (b ++ [crc32c (bytesOfWords b)]).getD 1 0#32 = b.getD 1 0#32 := by simp [List.getD, hl]
  have ec : (b ++ [crc32c (bytesOfWords b)]).getD 1023 0#32 = crc32c (bytesOfWords b) := by simp [List.getD, hl]
  have et : (b ++ [crc32c (bytesOfWords b)]).take 1023 = b := by rw [← hl, List.take_left]
  simp only [trimsGood, e0, e1, ec, et, h0, h1]
  simp [hl]
theorem witness_StartupWithoutTrims_valid : trimsGood (goodTrims 0#32).trims = true ∧ (goodTrims 0#32).testRows = [] :=
  ⟨trimsGood_of_check _ (by decide +kernel) (by decide) (by decide), rfl⟩
theorem witness_StartupWithoutTrims_norepairs : (∀ i, i < 256 → bitOf ((goodTrims 0#32).trims.getD (2 + i) 0#32) 31 = false) ∧ fieldOf ((goodTrims 0#32).trims.getD 284 0#32) 0 2 < 2 := by decide +kernel
theorem witness_StartupWithoutTrims_nosource : trimsGood (goodTrims 2#32).trims = true ∧ ¬ fieldOf ((goodTrims 2#32).trims.getD 284 0#32) 0 2 < 2 :=
  ⟨trimsGood_of_check _ (by decide +kernel) (by decide) (by decide), by decide +kernel⟩
theorem witness_PhaseTimeouts_image : (trimmed 4).tablesWf = true ∧ alive (trimmed 4) = true ∧ phaseOf (trimmed 4) = 4 ∧ (trimmed 4).boot.applying = none
    ∧ lasted (bootWord 290 (trimmed 4)).toNat (trimmed 4).clock.phaseAt (trimmed 4) = true ∧ applies .imageTimeout (trimmed 4) = true := by decide
theorem witness_PhaseTimeouts_lock : (boot 6).tablesWf = true ∧ alive (boot 6) = true ∧ phaseOf (boot 6) = 6 ∧ lasted (regNat rLOCK_WAIT (boot 6)) 0 (boot 6) = true ∧ LogRoom (boot 6)
    ∧ stewardRuns (boot 6) = false ∧ applies .lockTimeout (boot 6) = true := by unfold LogRoom; decide
/-- With the steward running, ports of the default topology that are DOWN. -/
def phase6 : State := setReg rSTEWARD_STATE 1#32 (boot 6)
theorem witness_PhaseTimeouts_lockRetrains : phase6.tablesWf = true ∧ alive phase6 = true ∧ phaseOf phase6 = 6 ∧ lasted (regNat rLOCK_WAIT phase6) 0 phase6 = true ∧ LogRoom phase6
    ∧ stewardRuns phase6 = true ∧ applies .lockTimeout phase6 = true := by unfold LogRoom; decide
theorem witness_PhaseTimeouts_train : phase7.tablesWf = true ∧ alive phase7 = true ∧ phaseOf phase7 = 7 ∧ lasted (regNat rTRAIN_WAIT phase7) phase7.clock.phaseAt phase7 = true
    ∧ phase7.log.entries.length + (portsDown phase7).length ≤ 31 ∧ applies .trainTimeout phase7 = true := by decide
def elected : State := { boot 8 with clock := { (boot 8).clock with readyNext := true } }
theorem witness_StartUpEnds : elected.tablesWf = true ∧ alive elected = true ∧ elected.clock.readyNext = true ∧ elected.clock.held = [] ∧ elected.clock.due = [] ∧ elected.boot.applying = none
    ∧ boundaryFits (regNat rFREE_CYCLES elected) 64 elected = true := by decide +kernel

theorem witness_OwnerClaims : (boot 8).tablesWf = true ∧ 3 < 4 ∧ 3 < (boot 8).build.mgmtPorts ∧ mgmtServes (boot 8) = true ∧ requestsAt 3 (boot 8) = [] ∧ (boot 8).clock.fabFault = false
    ∧ applies (.ownerClaim 3 255 7#16) (boot 8) = true := by decide

def claim5 : Claim := ⟨9, 7#16, 20#64⟩
def claimed : State := { boot 8 with owner := { (boot 8).owner with claims := [(1, some claim5), (3, some claim5)] } }

theorem witness_ElectionEarliestClaim : claimed.tablesWf = true ∧ alive claimed = true ∧ claimed.owner.state ≠ 1 ∧ (phaseOf claimed = 8 ∨ claimed.owner.state = 2) ∧ claimAt 1 claimed = some claim5
    ∧ (∀ q d, claimAt q claimed = some d → claim5.transit.toNat ≤ d.transit.toNat ∧ (d.transit.toNat = claim5.transit.toNat → 1 ≤ q)) ∧ applies .ownerElection claimed = true := by
  refine ⟨by decide, by decide, by decide, by decide, by decide, ?_, by decide⟩
  intro q d h
  have hq : q = 1 ∧ d = claim5 ∨ q = 3 ∧ d = claim5 := by
    by_cases h1 : q = 1
    · subst h1; exact .inl ⟨rfl, (Option.some.inj h).symm⟩
    · by_cases h3 : q = 3
      · subst h3; exact .inr ⟨rfl, (Option.some.inj h).symm⟩
      · simp [claimAt, claimed, tget, h1, h3] at h
  rcases hq with ⟨rfl, rfl⟩ | ⟨rfl, rfl⟩ <;> decide

def offered : State := { setReg rOFFER 0x80000902#32 up with owner := { up.owner with offerStart := 0 } }

theorem witness_OwnerHandover : up.tablesWf = true ∧ OwnerTurn 0 1 (.ownerOffer owner 0x80000902#32) up ∧ offered.tablesWf = true ∧ 2 < offered.build.mgmtPorts ∧ mgmtServes offered = true ∧ requestsAt 2 offered = [] ∧ offered.clock.due = []
    ∧ offered.clock.fabFault = false ∧ applies (.ownerAccept 2 9 7#16) offered = true ∧ LogRoom offered ∧ offerMatches 2 9 offered = true ∧ offerMatches 3 9 offered = false
    ∧ alive offered = true ∧ bitOf (reg rOFFER offered) 31 = true ∧ offered.owner.offerStart + regNat rOFFER_WINDOW offered * unitsMs ≤ offered.clock.now := by unfold OwnerTurn LogRoom; decide
theorem witness_HeartbeatAndVacancy : OwnerTurn 0 1 (.ownerHeartbeat owner none) up ∧ OwnerTurn 0 1 (.ownerHeartbeat owner (some 7#32)) up ∧ up.tablesWf = true ∧ alive up = true
    ∧ up.owner.state = 1 ∧ regNat rHEARTBEAT_WINDOW up ≠ 0 ∧ up.owner.hbStart + regNat rHEARTBEAT_WINDOW up * unitsMs ≤ up.clock.now ∧ LogRoom up ∧ applies .ownerVacant up = true := by
  unfold OwnerTurn LogRoom; decide
theorem witness_NonownerRefused : up.tablesWf = true ∧ requestsAt 3 up = [] ∧ 3 < up.build.mgmtPorts ∧ mgmtServes up = true ∧ up.clock.fabFault = false ∧ isOwner (.mgmt 3 255) up = false ∧ ownRegister 3 0x3FFFFC = false ∧ LogRoom up
    ∧ applies (.nonownerWrite 3 255 0x3FFFFC#22 1#32) up = true ∧ reg rREJECTED up = 0#32 ∧ reg rREJECTED (setReg rREJECTED 5#32 up) ≠ 0#32 := by unfold LogRoom; decide

def mailed : State := { up with owner := { up.owner with mailbox := [(3, List.replicate 16 1#32)] } }

theorem witness_Mailboxes : mailed.tablesWf = true ∧ 3 < mailed.build.mgmtPorts ∧ mgmtServes mailed = true ∧ mailed.clock.fabFault = false ∧ staging 3 mailed = false ∧ requestsAt 3 mailed = [] ∧ requestsAt 0 mailed = [] ∧ requestsAt 1 mailed = []
    ∧ applies (.mailboxWrite 3 9 7#32) mailed = true ∧ ¬ (mailboxAt 3 mailed).length < 16 ∧ (mailboxAt 0 mailed).length < 16 ∧ tget none (0x01090 + 4 * 3) mailed.hiLatch = none
    ∧ applies (.mailboxRead owner 3) mailed = true ∧ isOwner owner mailed = true ∧ applies (.mailboxRead (.mgmt 1 5) 3) mailed = true ∧ isOwner (.mgmt 1 5) mailed = false := by decide

def stewardUp : State := setReg rSTEWARD_STATE 1#32 up
def stewardHeld : State := setReg rSTEWARD_STATE 2#32 up
/-- Two missed windows within the last second stand on record. -/
def missedTwice : State := { stewardUp with steward := { stewardUp.steward with resetTimes := [99999999998, 99999999999] } }

theorem witness_StewardWatchdog : OwnerTurn 0 1 (.stewardKick owner) stewardUp ∧ missedTwice.tablesWf = true ∧ alive missedTwice = true ∧ stewardRuns missedTwice = true
    ∧ missedTwice.steward.kickAt + regNat rWDOG_WINDOW missedTwice * unitsUs ≤ missedTwice.clock.now ∧ missedTwice.log.entries.length < 30 ∧ applies .stewardWatchdog missedTwice = true
    ∧ (missedTwice.steward.resetTimes.filter fun x => decide (missedTwice.clock.now < x + 16000000000)).length = 2 ∧ OwnerTurn 0 1 (.stewardRestart owner) stewardHeld
    ∧ stewardState stewardHeld = 2 ∧ bitOf (reg rSTEWARD_STATE stewardHeld) 4 = false := by unfold OwnerTurn; decide
theorem witness_StewardGuards : stewardUp.tablesWf = true ∧ alive stewardUp = true ∧ stewardRuns stewardUp = true ∧ (guardOf .forceCondition stewardUp).1 ≠ 0
    ∧ (guardOf (.memRequest 4096 1) stewardUp).1 ≠ 0 ∧ LogRoom stewardUp ∧ applies (.stewardGuard .forceCondition) stewardUp = true := by unfold LogRoom; decide

/-! ### Witnesses: the register space -/

theorem witness_HeaderWrites : up.tablesWf = true ∧ 0x40 < 0x41 ∧ pageExists 0x40 up = true ∧ OwnerTurn 0 1 (.registerWrite owner 0x40024#22 5#32) up ∧ (0x40024#22).toNat = pageBase 0x40 + 0x024
    ∧ OwnerTurn 0 1 (.registerWrite owner 0x40014#22 5#32) up ∧ (0x40014#22).toNat = pageBase 0x40 + 0x014 ∧ OwnerTurn 0 1 (.registerWrite owner 0x40010#22 5#32) up
    ∧ (0x40010#22).toNat = pageBase 0x40 + 0x010 ∧ OwnerTurn 0 1 (.registerWrite owner 0x40018#22 5#32) up ∧ (0x40018#22).toNat = pageBase 0x40 + 0x018 := by unfold OwnerTurn; decide
theorem witness_BadAddressErrors : up.tablesWf = true ∧ badAddr (0x300000#22).toNat = true ∧ badAddr (0x2FFFFE#22).toNat = true ∧ OwnerTurn 0 1 (.mgmtErrorResponse 0 1 true 0x300000#22 1#32) up
    ∧ 3 < up.build.mgmtPorts ∧ mgmtServes up = true ∧ requestsAt 3 up = [] ∧ applies (.mgmtErrorResponse 3 255 false 0x2FFFFE#22 0#32) up = true ∧ isOwner (.mgmt 3 255) up = false := by
  unfold OwnerTurn; decide
theorem witness_LowReadLatches : up.tablesWf = true ∧ isLow ((0x02078#22).toNat / 0x1000) ((0x02078#22).toNat % 0x1000) = true ∧ pageExists ((0x02078#22).toNat / 0x1000) up = true ∧ (0x02078#22).toNat % 4 = 0
    ∧ (0x02078#22).toNat < 0x100000 ∧ isHigh (0x02078#22).toNat = false ∧ OwnerTurn 0 1 (.loReadLatch owner 0x02078#22) up := by unfold OwnerTurn; decide
/-- OWNER.REJECTED by its owner and by another master; DISCARDED and BAD_INDEX of stall 0. -/
theorem witness_ReadToClear : up.tablesWf = true ∧ requestsAt 0 up = [] ∧ requestsAt 1 up = [] ∧ 0 < up.build.mgmtPorts ∧ mgmtServes up = true ∧ applies (.readToClear owner 0x01058#22) up = true ∧ applies (.readToClear (.mgmt 1 5) 0x4005C#22) up = true
    ∧ (regRow (0x01058#22).toNat).map (·.acc) = some .rc ∧ pageExists ((0x01058#22).toNat / 0x1000) up = true ∧ 0x040 ≤ (0x01058#22).toNat % 0x1000 ∧ (0x01058#22).toNat % 4 = 0
    ∧ readSpecial 0 ((0x01058#22).toNat / 0x1000) ((0x01058#22).toNat % 0x1000) up = none ∧ isLow ((0x01058#22).toNat / 0x1000) ((0x01058#22).toNat % 0x1000) = false
    ∧ isHigh (0x01058#22).toNat = false ∧ (0x4005C#22).toNat = 0x4005C ∧ (0x40060#22).toNat = 0x40060 ∧ hasStall (stallSel 0 up) up = true := by decide
theorem witness_ErrorLogPort : (withLog 32 up).tablesWf = true ∧ OwnerTurn 0 1 (.errlogPop owner) (withLog 32 up) ∧ OwnerTurn 0 1 (.errlogHeadRead owner) (withLog 32 up) := by unfold OwnerTurn; decide
theorem witness_PageControl : up.tablesWf = true ∧ 0x40 < 0x41 ∧ pageExists 0x40 up = true ∧ pageKind 0x40 ≠ .ring ∧ OwnerTurn 0 1 (.softReset owner 0x40) up ∧ OwnerTurn 0 1 (.pageLock owner 0x1F) up
    ∧ pageExists 0x1F up = true ∧ hasPort 7 up = true ∧ pageExists (pRING 7) up = true ∧ OwnerTurn 0 1 (.softReset owner (pRING 7)) (setLink 7 linkUp0 up) ∧ (setLink 7 linkUp0 up).tablesWf = true
    ∧ (linkAt 7 (setLink 7 linkUp0 up)).state ≠ 0 ∧ (linkAt 7 (setLink 7 linkUp0 up)).dying = 0#8 := by unfold OwnerTurn; decide
theorem witness_PerfInjectTrims : up.tablesWf = true ∧ OwnerTurn 0 1 (.perfClear owner) up ∧ OwnerTurn 0 1 (.injectArm owner 0x80000701#32) up
    ∧ OwnerTurn 0 1 (.restoreTrims owner) { up with boot := { up.boot with trimsValid := true } } ∧ OwnerTurn 0 1 (.restoreTrims owner) up ∧ up.boot.trimsValid = false := by unfold OwnerTurn; decide

/-! ### Witnesses: power and the ephemeris -/

theorem witness_FenceAndThrottle : up.tablesWf = true ∧ alive up = true ∧ regNat rGLITCH_CYCLES up ≤ 12 ∧ applies (.fenceInChange ⟨true, 12⟩) up = true ∧ 3#2 ≠ up.clock.throttle
    ∧ applies (.throttleChange ⟨3#2, 12⟩) up = true := by decide
def idling : State := { up with clock := { up.clock with idleRun := 65535 } }
theorem witness_FenceWriteAndIdle : OwnerTurn 0 1 (.powerFenceWrite owner 1#32) up ∧ idling.tablesWf = true ∧ alive idling = true ∧ idling.clock.due = [] ∧ idling.clock.gated = false ∧ idleNow idling = true
    ∧ regNat rIDLE_DELAY idling ≤ idling.clock.idleRun ∧ idling.clock.fenced = false := by unfold OwnerTurn; decide
/-- Plane 3 holds a partial page; plane 3 under self-test. -/
def fullPlane : State := { up with ops := [{ (default : Op) with id := id0, planes := 8 }] }
def testing : State := setPlane 3 { PlaneSt.on with power := 3 } up
theorem witness_PlanePower : up.tablesWf = true ∧ 3 < 8 ∧ hasPlane 3 up = true ∧ planePower 3 up ≠ 2 ∧ planePd 3 up = false ∧ LogRoom up ∧ OwnerTurn 0 1 (.planePowerDown owner 3) up ∧ planeEmpty 3 up = true
    ∧ planeEmpty 3 fullPlane = false ∧ planePd 3 (setReg rPLANE_PD 8#32 up) = true ∧ OwnerTurn 0 1 (.planePowerUp owner 3) (setReg rPLANE_PD 8#32 up) ∧ testing.tablesWf = true
    ∧ alive testing = true ∧ planePower 3 testing = 3 ∧ LogRoom testing ∧ applies (.planeSelftestDone 3 [(0, 4095)]) testing = true := by unfold OwnerTurn LogRoom; decide

def armed (a : Word64) : State := { up with mer := { up.mer with swapAt := some a } }
theorem witness_EphemerisSwap : OwnerTurn 0 1 (.swapArm owner) up ∧ OwnerTurn 0 1 (.swapDisarm owner) (armed 50#64) ∧ (armed 50#64).tablesWf = true ∧ alive (armed 50#64) = true
    ∧ (armed 50#64).mer.swapAt = some 50#64 ∧ (50#64).toNat ≤ (armed 50#64).clock.transit.toNat ∧ (49#64).toNat < (armed 49#64).clock.transit.toNat ∧ LogRoom (armed 50#64)
    ∧ applies .bankSwap (armed 50#64) = true := by unfold OwnerTurn LogRoom; decide
/-- Entry 4095 of the bank that is not active, with AUTO_INC; and of the active one. -/
theorem witness_EphemerisEntryWrite : (setReg rENTRY_SELECT 0x80001FFF#32 up).tablesWf = true ∧ 3 < 4 ∧ LogRoom (setReg rENTRY_SELECT 0x80001FFF#32 up)
    ∧ OwnerTurn 0 1 (.ephemerisEntryWrite owner 3 9#32) (setReg rENTRY_SELECT 0x80001FFF#32 up) ∧ entrySel 0 (setReg rENTRY_SELECT 0x80001FFF#32 up) = (4095, 1)
    ∧ activeBank up = 0 ∧ OwnerTurn 0 1 (.ephemerisEntryWrite owner 2 0xFFFFFFFF#32) up := by unfold OwnerTurn LogRoom; decide

/-! ### Witnesses: the meridian -/

def merAt (n : Nat) : State := setReg rMER_STATE (BitVec.ofNat 32 n) { up with mer := { up.mer with time := 0x5000010#64 } }
/-- A frame of an epoch number: 0xA7, the number, its check. -/
def frame (e : BitVec 40) : BitVec 56 := 0xA7#8 ++ e ++ crc8 ((List.range 5).map fun i => e.extractLsb' (8 * (4 - i)) 8)

theorem witness_MeridianMarker : (merAt 2).tablesWf = true ∧ alive (merAt 2) = true ∧ merState (merAt 2) = 2 ∧ (merAt 2).mer.markStuck = none ∧ applies (.merMarkPulse 1 0) (merAt 2) = true
    ∧ applies (.merMarkPulse 2 2) (merAt 2) = true ∧ (2 : Int).natAbs ≤ fieldOf (reg rMARK_WINDOW (merAt 2)) 0 4 ∧ ¬ (3 : Int).natAbs ≤ fieldOf (reg rMARK_WINDOW (merAt 2)) 0 4 ∧ 2 < 3
    ∧ LogRoom (merAt 2) ∧ applies (.merMarkPulse 3 0) (merAt 2) = true := by unfold LogRoom; decide
theorem witness_MeridianTimecode : (merAt 2).tablesWf = true ∧ alive (merAt 2) = true ∧ merState (merAt 2) = 2 ∧ (merAt 2).log.entries.length < 30 ∧ applies (.timecodeFrame ⟨frame 5#40, 5⟩) (merAt 2) = true
    ∧ frameEpoch (frame 5#40) = some (timeEpoch (merAt 2)) ∧ frameEpoch (frame 6#40) = some 6#40 ∧ frameEpoch 0#56 = none ∧ (merAt 2).mer.mismatches = 0 := by decide +kernel
def holdover : State := { merAt 3 with mer := { (merAt 3).mer with holdPeriods := 16777216, refLost := true } }
theorem witness_MeridianHoldoverAndLoss : (merAt 2).tablesWf = true ∧ alive (merAt 2) = true ∧ LogRoom (merAt 2) ∧ merState (merAt 2) = 2
    ∧ fieldOf (reg rMARK_WINDOW (merAt 2)) 0 4 < (merAt 2).mer.time.toNat % 2 ^ 24 ∧ (merAt 2).mer.markEpoch ≠ some (timeEpoch (merAt 2)) ∧ applies .markMissing (merAt 2) = true
    ∧ applies .refLoss (merAt 2) = true ∧ holdover.tablesWf = true ∧ merState holdover = 3 ∧ 2 ^ 24 ≤ holdover.mer.holdPeriods ∧ applies .meridianLost holdover = true
    ∧ holdover.mer.refLost = true ∧ applies .merRefReturn holdover = true ∧ LogRoom holdover := by unfold LogRoom; decide
def acquiring : State := { merAt 1 with mer := { (merAt 1).mer with acqReady := true, acqPrev := some 6#40, frameEdge := 5 } }
def lost (fenced : Bool) (a : Option (Word64 × Int)) : State :=
  { merAt 4 with mer := { (merAt 4).mer with acqReady := true, acqPrev := some 6#40, acquired := a }, clock := { (merAt 4).clock with fenced := fenced } }
def slewing : State := { merAt 5 with mer := { (merAt 5).mer with slewDiff := 15 } }
theorem witness_MeridianLocks : acquiring.tablesWf = true ∧ alive acquiring = true ∧ merState acquiring = 1 ∧ acquiring.mer.acqReady = true ∧ acquiring.mer.acqPrev = some 6#40
    ∧ applies .meridianLock acquiring = true ∧ (lost true none).tablesWf = true ∧ merState (lost true none) = 4 ∧ (lost true none).mer.acqReady = true ∧ LogRoom (lost true none)
    ∧ (lost true none).mer.acqPrev = some 6#40 ∧ applies (.reacquire (lost true none).mer.frameEdge) (lost true none) = true ∧ slewing.tablesWf = true ∧ merState slewing = 5 ∧ slewing.mer.slewDiff.natAbs < 16
    ∧ applies .slewComplete slewing = true ∧ OwnerTurn 0 1 (.resync owner) (lost true (some (0x6000000#64, 7))) ∧ anyHeld (lost true (some (0x6000000#64, 7))) = false
    ∧ (lost true (some (0x6000000#64, 7))).clock.fenced = true ∧ OwnerTurn 0 1 (.resync owner) (lost false none) := by
  unfold OwnerTurn LogRoom; decide
theorem witness_MeridianLocks_resynced : (found .resynced (lost true none)).tablesWf = true ∧ alive (found .resynced (lost true none)) = true ∧ (lineAt 0 (found .resynced (lost true none))).rangAt = none
    ∧ placeLe (found .resynced (lost true none)).clock.reached ⟨3, [0, 2]⟩ = true ∧ merState (found .resynced (lost true none)) = 4 := by decide

def calUp (n : Nat) (busy : Bool) : State :=
  link linkUp0 (setReg rMER_STATE (if busy then 0x402#32 else 2#32) { topo up with mer := { up.mer with calCount := n } })
/-- A CAL that waits for the end of a slew of INPUT_DELAY, at 0. -/
def calWaits : State := { calUp 0 true with mer := { (calUp 0 true).mer with calWaiting := true, delayAt := 0 } }
def reply : TimeReply := ⟨200, 210, true⟩
theorem witness_MeridianCalibration : OwnerTurn 0 1 (.inputDelayWrite owner 0xFFFF#32) up ∧ (calUp 0 false).tablesWf = true ∧ merState (calUp 0 false) = 2
    ∧ bitOf (reg rMER_STATE (calUp 0 false)) 10 = false ∧ bitOf (reg rMER_STATE (calUp 0 false)) 11 = false ∧ (linkAt (calPort (calUp 0 false)) (calUp 0 false)).state = 2
    ∧ (linkAt (calPort (calUp 0 false)) (calUp 0 false)).dying = 0#8
    ∧ OwnerTurn 0 1 (.meridianCal owner) (calUp 0 false) ∧ (linkAt 0 (calUp 0 false)).phyEnable = true ∧ (calUp 63 true).tablesWf = true ∧ hasPort 0 (calUp 63 true) = true ∧ alive (calUp 63 true) = true
    ∧ (calUp 63 true).clock.due = [] ∧ bitOf (reg rMER_STATE (calUp 63 true)) 10 = true ∧ (calUp 63 true).mer.calWaiting = false ∧ 0 = calPort (calUp 63 true) ∧ reply.locked = true
    ∧ merState (calUp 63 true) = 2 ∧ (linkAt 0 (calUp 63 true)).state = 2 ∧ (linkAt 0 (calUp 63 true)).dying = 0#8 ∧ (calUp 63 true).mer.calCount + 1 = 64 ∧ OwnerTurn 0 1 (.inputDelayWrite owner 0#32) calWaits ∧ calWaits.tablesWf = true
    ∧ calWaits.mer.calWaiting = true ∧ calWaits.mer.delayAt = 0 ∧ merState calWaits = 2 ∧ bitOf (reg rMER_STATE calWaits) 10 = true ∧ (linkAt (calPort calWaits) calWaits).state = 2 := by unfold OwnerTurn; decide

def highRun : State := { up with mer := { up.mer with bellHighRun := [0, 0, 0, 8] } }
def lowLong : State := line { Line.idle with cfg := 0xF#32, pull := false } (setReg rBELL_LOW_LIMIT 1#32 up)
def fenceLong : State := { setReg rFENCE_HIGH_LIMIT 1#32 up with clock := { up.clock with fenceIn := true } }
theorem witness_StuckLineDetectors : highRun.tablesWf = true ∧ 3 < 4 ∧ alive highRun = true ∧ LogRoom highRun ∧ highRun.mer.bellHighFired.length = 4 ∧ highRun.mer.bellLowFired.length = 4
    ∧ 8 ≤ highRun.mer.bellHighRun.getD 3 0 ∧ highRun.mer.bellHighFired.getD 3 false = false ∧ applies (.bellExtHigh 3) highRun = true
    ∧ lowLong.tablesWf = true ∧ regNat rBELL_LOW_LIMIT lowLong ≠ 0 ∧ boardPull 3 lowLong = false ∧ lowLong.clock.bellSense.getLsbD 3 = false ∧ lowLong.mer.bellLowFired.getD 3 false = false
    ∧ regNat rBELL_LOW_LIMIT lowLong * unitsUs ≤ lowLong.clock.now - lowLong.mer.bellLowSince.getD 3 0 ∧ applies (.bellExtLow 3) lowLong = true
    ∧ fenceLong.tablesWf = true ∧ regNat rFENCE_HIGH_LIMIT fenceLong ≠ 0 ∧ fenceLong.clock.fenceIn = true ∧ fenceLong.mer.fenceHighFired = false
    ∧ regNat rFENCE_HIGH_LIMIT fenceLong * unitsUs ≤ fenceLong.clock.now - fenceLong.mer.fenceHighSince ∧ applies .fenceHigh fenceLong = true := by unfold LogRoom; decide
/-- Removed, and passed on, by the filter of its length. -/
theorem witness_StuckLineDetectors_glitch : up.clock.due = [] ∧ 11 < regNat rGLITCH_CYCLES up ∧ regNat rGLITCH_CYCLES up ≤ 12 := by decide
def merFree : State := setReg rMER_STATE 0#32 { up with mer := { up.mer with time := 0x5000010#64 } }
theorem witness_TransitAdvances : merFree.tablesWf = true ∧ alive merFree = true ∧ phaseOf merFree = 9 ∧ merFree.clock.held = [] ∧ merFree.clock.due = [] ∧ merFree.boot.applying = none
    ∧ boundaryFits (regNat rFREE_CYCLES merFree) 64 merFree = true ∧ merFree.mer.reload = false := by decide
/-- In LOCKED at the first edge of transit 50: the next boundary is four periods away. -/
def merTimed (reload : Bool) : State := setReg rMER_STATE 2#32 { up with mer := { up.mer with time := 200#64, edgeAt := 99999999680 - up.mer.delayAt, reload := reload } }
theorem witness_TransitAdvances_timed : (merTimed false).tablesWf = true ∧ alive (merTimed false) = true ∧ phaseOf (merTimed false) = 9 ∧ (merTimed false).clock.held = [] ∧ (merTimed false).clock.due = []
    ∧ (merTimed false).boot.applying = none ∧ boundaryFits 8 256 (merTimed false) = true ∧ 2 ≤ merState (merTimed false) ∧ boundaryFits 8 256 (merTimed true) = true ∧ (merTimed true).mer.reload = true := by decide

/-! ### Witnesses: queues and tables -/

/-- A running queue of a ring of sixteen slots on all four planes. -/
def qst (cfg : Word) : QueueSt := { QueueSt.idle with cfg := cfg, state := 1, lap := true, descBase := 0x10000, compBase := 0x20000 }
def q0 : QueueSt := qst 0x000F0411#32
def queued (q : Nat) (v : QueueSt) (s : State) : State := setQueue q v s
def ring15 : State := queued 65535 { q0 with head := 15, tail := 3 } up
def standing : State := queued 65535 (qst 0x000F0405#32) up
def orders2 : State := { standing with orders := [⟨65535, 0, [], 0, false⟩, ⟨65535, 1, [], 0, false⟩], ops := [{ (default : Op) with id := ⟨65535, 0, 0⟩ }] }

/-- The farthest lawful move of TAIL, one past it, and a value outside the ring. -/
theorem witness_Doorbells : ring15.tablesWf = true ∧ 65535 < 65536 ∧ LogRoom ring15 ∧ OwnerTurn 0 1 (.doorbell owner 65535 14#32) ring15 ∧ qStanding (queueAt 65535 ring15) = false
    ∧ qEnabled (queueAt 65535 ring15) = true ∧ (14 + 16 - 3) % queueSize (queueAt 65535 ring15) ≤ (15 + 2 * 16 - 1 - 3) % 16 ∧ ¬ (15 + 16 - 3) % 16 ≤ (15 + 2 * 16 - 1 - 3) % 16
    ∧ ¬ (16#32).toNat < queueSize (queueAt 65535 ring15) := by unfold OwnerTurn LogRoom; decide
theorem witness_Doorbells_standing : standing.tablesWf = true ∧ LogRoom standing ∧ OwnerTurn 0 1 (.standingPin owner 65535 15#32) standing ∧ qEnabled (queueAt 65535 standing) = true
    ∧ qStanding (queueAt 65535 standing) = true ∧ (15#32).toNat < queueSize (queueAt 65535 standing) ∧ (∀ o ∈ standing.orders, o.queue ≠ 65535) ∧ orders2.tablesWf = true
    ∧ OwnerTurn 0 1 (.standingUnpin owner 65535) orders2 ∧ orderBusy 65535 0 orders2 = true ∧ orderBusy 65535 1 orders2 = false := by unfold OwnerTurn LogRoom; decide

def selQ (s : State) : State := setReg rQ_SELECT 65535#32 s
def offQ (cfg : Word) : State := selQ (queued 65535 { QueueSt.idle with cfg := cfg } up)
def onQ : State := selQ (queued 65535 { q0 with state := 2, err := 0x60#8 } up)

theorem witness_QueueConfiguration : (offQ 0#32).tablesWf = true ∧ LogRoom (offQ 0#32) ∧ qSel 0 (offQ 0#32) = 65535 ∧ OwnerTurn 0 1 (.queueEnable owner 0x000F1011#32) (offQ 0#32)
    ∧ qEnabled (queueAt 65535 (offQ 0#32)) = false ∧ fieldOf ((0x000F1011#32 ||| 1#32) &&& 0x00FF1F7F#32) 8 5 = 16 ∧ fieldOf ((0x00000411#32 ||| 1#32) &&& 0x00FF1F7F#32) 16 8 = 0
    ∧ onQ.tablesWf = true ∧ qSel 0 onQ = 65535 ∧ OwnerTurn 0 1 (.queueDisable owner) onQ ∧ qEnabled (queueAt 65535 onQ) = true ∧ OwnerTurn 0 1 (.queueResume owner) onQ
    ∧ (queueAt 65535 onQ).state = 2 ∧ (∀ x ∈ onQ.queues, x.2.records = []) ∧ OwnerTurn 0 1 (.queueCfgWrite owner 0x058 0xFFFFFFFF#32) (offQ 0#32)
    ∧ OwnerTurn 0 1 (.queueCfgWrite owner 0x048 0#32) onQ := by unfold OwnerTurn LogRoom; decide

def faulted : State := setReg rL_SELECT 4095#32 (setLedger 4095 { Ledger.free with state := 3, fault := 0x30#8 } up)
theorem witness_SelectedTables : OwnerTurn 0 1 (.maskDataWrite owner 0xFFFFFFFF#32) (setReg rMASK_SELECT 0x73F#32 up) ∧ maskSel 0 (setReg rMASK_SELECT 0x73F#32 up) = (63, 7)
    ∧ 32 * 7 < leaves (setReg rMASK_SELECT 0x73F#32 up).build ∧ maskSel 0 (setReg rMASK_SELECT 0x83F#32 up) = (63, 8) ∧ leaves up.build ≤ 32 * 8 ∧ up.tablesWf = true
    ∧ OwnerTurn 0 1 (.lineMembersWrite owner 1#32) up ∧ lEnable (lineAt (lineSel 0 up) up).cfg = false ∧ OwnerTurn 0 1 (.lineMembersWrite owner 1#32) (setReg rLINE_SELECT 15#32 bell)
    ∧ lEnable (lineAt (lineSel 0 (setReg rLINE_SELECT 15#32 bell)) (setReg rLINE_SELECT 15#32 bell)).cfg = true ∧ OwnerTurn 0 1 (.musterCtrlWrite owner 0x800F3FEF#32) up
    ∧ ¬ (leaves up.build ≤ fieldOf 0x800F3FEF#32 6 10 ∨ 48 ≤ fieldOf 0x800F3FEF#32 0 6) ∧ 48 ≤ fieldOf 0x800F3FF0#32 0 6 ∧ faulted.tablesWf = true
    ∧ OwnerTurn 0 1 (.ledgerRelease owner) faulted ∧ (ledgerAt (ledgerSel 0 faulted) faulted).state = 3 ∧ (ledgerAt (ledgerSel 0 up) up).state ≠ 3 := by unfold OwnerTurn; decide
def pooled : State := setPlane 3 { PlaneSt.on with pool := [0] } up
theorem witness_AssayAndSpillSettings : up.tablesWf = true ∧ OwnerTurn 0 1 (.thresholdWrite owner 0x044 0x3FFF#32) up ∧ OwnerTurn 0 1 (.thresholdWrite owner 0x04C 0#32) up
    ∧ OwnerTurn 0 1 (.assayPolicyWrite owner 0x05C 0#32) up ∧ OwnerTurn 0 1 (.assayPolicyWrite owner 0x060 7#32) up ∧ OwnerTurn 0 1 (.assayPolicyWrite owner 0x050 0x40F#32) up
    ∧ OwnerTurn 0 1 (.assayPolicyWrite owner 0x058 0xFFFFFFFF#32) up ∧ hasPlane 3 up = true ∧ OwnerTurn 0 1 (.spillPoolWrite owner 3 0x04C 0xFFFFFFFF#32) up ∧ pooled.tablesWf = true
    ∧ OwnerTurn 0 1 (.spillPoolWrite owner 3 0x044 0x1000#32) pooled ∧ (planeAt 3 pooled).pool ≠ [] := by unfold OwnerTurn; decide

/-! ### Witnesses: topology, definitions, lines, credits -/

theorem witness_TopologyWrites : sigUp.tablesWf = true ∧ LogRoom sigUp ∧ anyLinkUp sigUp = true ∧ OwnerTurn 0 1 (.topologyWrite owner 0x07C 0#32) sigUp ∧ anyLinkUp (topo up) = false ∧ (topo up).tablesWf = true
    ∧ OwnerTurn 0 1 (.topologyWrite owner 0x054 3#32) (topo up) ∧ OwnerTurn 0 1 (.topologyWrite owner 0x040 4#32) (topo up) ∧ fieldOf 4#32 0 3 ≤ 4 ∧ (∀ x ∈ (topo up).groups, gValid x.2 = false)
    ∧ OwnerTurn 0 1 (.topologyWrite owner (0x060 + 4 * 7) 8#32) (topo up) ∧ defaultsUsed (topo up) = false ∧ bitOf 8#32 3 = true ∧ bitOf 3#32 3 = false ∧ axesN (topo up) ≤ fieldOf 3#32 0 2 := by
  unfold OwnerTurn LogRoom; decide

/-- Definition 255 over axis 0, positions 0 to 3, DEDICATED on channel 0, weight 1. -/
def def255 (cfg : Word) : GroupDef := ⟨cfg, 0x300#32, 0#32, false, 9#16⟩
def grouped (cfg : Word) (s : State) : State := setReg rGROUP_SELECT 255#32 (setGroup 255 (def255 cfg) s)
/-- A range that ends past its axis. -/
def badRange (s : State) : State := setReg rGROUP_SELECT 255#32 (setGroup 255 ⟨0#32, 0x400#32, 0#32, false, 0#16⟩ s)

theorem witness_GroupDefinitions : (grouped 0#32 (topo up)).tablesWf = true ∧ LogRoom (grouped 0#32 (topo up)) ∧ groupSel 0 (grouped 0#32 (topo up)) = 255
    ∧ OwnerTurn 0 1 (.groupCfgWrite owner 0x1011#32) (grouped 0#32 (topo up)) ∧ gValid (def255 0#32) = false ∧ bitOf 0x1011#32 0 = true ∧ gWeight (def255 (0x1011#32 &&& 0xF3F1#32)) ≠ 0
    ∧ gWeight (def255 (0x0011#32 &&& 0xF3F1#32)) = 0 ∧ gValid (def255 0x1011#32) = true ∧ OwnerTurn 0 1 (.groupCfgWrite owner 0x1010#32) (grouped 0x1011#32 (topo up))
    ∧ legActive 255 (grouped 0x1011#32 (topo up)) = false ∧ lineUses 255 (grouped 0x1011#32 (topo up)) = false ∧ legActive 255 (legged (grouped 0x1011#32 (topo up))) = true
    ∧ OwnerTurn 0 1 (.unfence owner) (grouped 0x1011#32 sigUp) ∧ groupPorts (def255 0x1011#32) (grouped 0x1011#32 sigUp) = [some 0, some 1, some 1, some 0]
    ∧ (linkAt 1 (grouped 0x1011#32 sigUp)).state ≠ 2 ∧ (linkAt 1 (setLink 1 linkUp0 (grouped 0x1011#32 sigUp))).state = 2 := by unfold OwnerTurn LogRoom; decide
/-- The same write keeps R274 on one range and breaks it on the other. -/
theorem witness_BreaksR274 : ¬ BreaksR274 { def255 0#32 with cfg := 0x1011#32 } (topo up) ∧ BreaksR274 { (groupAt 255 (badRange (topo up))) with cfg := 0x1011#32 } (badRange (topo up)) := by
  unfold BreaksR274; decide

theorem witness_LineConfiguration : OwnerTurn 0 1 (.lineCfgWrite owner 0#32) (setReg rLINE_SELECT 15#32 bell) ∧ (setReg rLINE_SELECT 15#32 bell).tablesWf = true ∧ lineSel 0 (setReg rLINE_SELECT 15#32 bell) = 15
    ∧ lEnable (lineAt 15 bell).cfg = true ∧ bitOf 0#32 0 = false ∧ (3#32 &&& 0xFF3F#32) ||| 1#32 ≠ (lineAt 15 bell).cfg ∧ (0#32 &&& 0xFF3F#32) ||| 1#32 = (lineAt 15 bell).cfg
    ∧ lEnable (lineAt 0 up).cfg = false ∧ OwnerTurn 0 1 (.lineCfgWrite owner 3#32) up ∧ lineSel 0 up = 0 ∧ up.tablesWf = true := by unfold OwnerTurn; decide
theorem witness_LineRefused : LineRefused 0 1#32 up ∧ ¬ LineRefused 0 3#32 up := by
  refine ⟨.inl (by decide), ?_⟩
  rintro (⟨_, h, _⟩ | ⟨_, m, hm, _, he, _⟩ | ⟨h, _⟩)
  · exact absurd h (by decide)
  · simp [lineAt, up, ownedBy, boot, setReg, State.reset, State.resetOf, tget, lEnable, Line.idle, bitOf] at he
  · exact absurd h (by decide)

theorem witness_RingCredits : up.tablesWf = true ∧ LogRoom up ∧ hasPort 7 up = true ∧ 7 < 8 ∧ 3 < 4 ∧ OwnerTurn 0 1 (.ringCreditWrite owner 7 (0x060 + 4 * 3) 0x800#32) up
    ∧ OwnerTurn 0 1 (.ringCreditWrite owner 7 (0x070 + 4 * 2) 0#32) up ∧ OwnerTurn 0 1 (.ringCreditWrite owner 7 (0x080 + 4 * 3) 257#32) up
    ∧ 2048 < (((List.range 4).filter fun j => j != 3).map fun j => regNat (rCREDIT 7 j) up).sum + fieldOf 0x800#32 0 12
    ∧ ¬ 2048 < (((List.range 4).filter fun j => j != 3).map fun j => regNat (rCREDIT 7 j) up).sum + fieldOf 0#32 0 12 := by unfold OwnerTurn LogRoom; decide

/-! ### Witnesses: descriptors -/

def words (l : List Nat) : List Word := (List.range 16).map fun i => BitVec.ofNat 32 (l.getD i 0)
/-- Operation, flags, input and output format (signed), ledger, group of four stalls from 0, all planes, COUNT, OPERAND, profile word 7 on. -/
def desc (op flags inF outF ledger count : Nat) (rest : List Nat) : List Word :=
  words ([op + 256 * flags + 65536 * inF + 0x100000 + 0x200000 * outF, ledger + 0x10000 * 0x1000, 0xF, count] ++ rest)
def barrier : List Word := desc oBARRIER 0 0 0 0 0 []
def fetched (d : List Word) (code : Option (BitVec 8)) : Fetched := ⟨0, d, code, 8000⟩
def withHead (d : List Word) (code : Option (BitVec 8)) (v : QueueSt) (s : State) : State := queued 7 { v with fetched := [fetched d code], nextFetch := 1, tail := 1 } s
/-- Window 0 of the memory port covers everything up to 4 GiB. -/
def windowed (s : State) : State := setReg (rWIN 0 2) 0xFFFFF#32 (setReg (rWIN 0 3) 1#32 s)

def fetching : State := queued 7 { q0 with tail := 15 } up
theorem witness_DescriptorFetches : fetching.tablesWf = true ∧ alive fetching = true ∧ fetching.clock.due = [] ∧ fetchDue (queueAt 7 fetching) = true ∧ fetchYields 7 fetching = false ∧ LogRoom fetching
    ∧ (∀ f ∈ (queueAt 7 fetching).fetched, f.slot ≠ (queueAt 7 fetching).nextFetch) ∧ memHas (.descFetch 7 (queueAt 7 fetching).nextFetch 1) fetching = false
    ∧ memCan false true ((queueAt 7 fetching).descBase + 64 * (queueAt 7 fetching).nextFetch) 64 fetching = true ∧ freeId false fetching = some 0 ∧ inWindow 0x10000 64 fetching = false
    ∧ inWindow 0x10000 64 (windowed up) = true := by unfold LogRoom; decide +kernel
def fetchMissed : State := found (.memory (.descFetch 7 15 1) 0x63 0 0x103C0) fetching
theorem witness_FetchErrors : fetchMissed.tablesWf = true ∧ (lineAt 0 fetchMissed).rangAt = none ∧ LogRoom fetchMissed ∧ 0x63 ∈ [0x60, 0x61, 0x63] ∧ (queueAt 7 fetchMissed).state ≠ 2
    ∧ fetchMissed.clock.due = [(duePlace (.memory (.descFetch 7 15 1) 0x63 0 0x103C0), .memory (.descFetch 7 15 1) 0x63 0 0x103C0)] := ⟨by decide, by decide, by unfold LogRoom; decide, by decide, by decide, rfl⟩
theorem witness_DescriptorDecodes : (withHead barrier none q0 up).tablesWf = true ∧ alive (withHead barrier none q0 up) = true ∧ (withHead barrier none q0 up).clock.due = []
    ∧ ((queueAt 7 (withHead barrier none q0 up)).fetched.find? fun f => f.slot == 0 && f.decoded.isNone) = some (fetched barrier none) ∧ qStanding (queueAt 7 (withHead barrier none q0 up)) = false
    ∧ qStanding (queueAt 7 (withHead barrier none (qst 0x000F0405#32) up)) = true := by decide
def pass : Option (BitVec 8) := some 0#8
theorem witness_DescriptorStarts : (withHead barrier pass q0 up).tablesWf = true ∧ serving (withHead barrier pass q0 up) = true ∧ qRuns (queueAt 7 (withHead barrier pass q0 up)) = true
    ∧ headDesc (queueAt 7 (withHead barrier pass q0 up)) (withHead barrier pass q0 up).clock.fclk = some (fetched barrier pass) ∧ dOp barrier = oBARRIER ∧ applies (.barrier 7) (withHead barrier pass q0 up) = true
    ∧ applies (.descriptorStart 7) (withHead barrier pass q0 up) = true ∧ (∀ o ∈ (withHead barrier pass q0 up).ops, o.id ≠ ⟨7, 0, 0⟩) ∧ dRingLeg barrier = 0
    ∧ startReady 7 barrier (withHead barrier pass q0 up) = true ∧ startOpen 7 barrier (withHead barrier pass q0 up) = true := by decide
theorem witness_DescriptorStarts_failed : headDesc (queueAt 7 (withHead barrier (some 0x40#8) q0 up)) (withHead barrier (some 0x40#8) q0 up).clock.fclk = some (fetched barrier (some 0x40#8)) ∧ 0x40#8 ≠ 0#8
    ∧ qStanding (queueAt 7 (withHead barrier (some 0x40#8) q0 up)) = false ∧ applies (.descriptorStart 7) (withHead barrier (some 0x40#8) q0 up) = true := by decide
/-- An ALLREDUCE with a leg on definition 255: one lap, chunks as on the die. -/
def reduceLeg : List Word := desc oALLREDUCE 0 7 7 5 4 [0, 0, 0, 0, 0, 0, 0x10000 * 0x04FF]
def ready255 : State := withHead reduceLeg pass q0 (grouped 0x1011#32 (setLink 1 linkUp0 sigUp))
theorem witness_DescriptorStarts_leg : ready255.tablesWf = true ∧ serving ready255 = true ∧ headDesc (queueAt 7 ready255) ready255.clock.fclk = some (fetched reduceLeg pass) ∧ dRingLeg reduceLeg ≠ 0
    ∧ startReady 7 reduceLeg ready255 = true ∧ startOpen 7 reduceLeg ready255 = true ∧ lgGroup reduceLeg = 255 ∧ (groupAt 255 ready255).fenced = false
    ∧ legSpecBad (queueAt 7 ready255) reduceLeg ready255 = false ∧ dOp reduceLeg ≠ oALLTOALL ∧ 1 < gN (groupAt 255 ready255) ∧ applies (.descriptorStart 7) ready255 = true := by decide
def fenceD : List Word := desc oFENCE 0 0 0 0 0 []
def fenceWaits : State := { withHead fenceD pass q0 up with ops := [{ (default : Op) with id := ⟨7, 9, 0⟩ }] }
theorem witness_DescriptorStarts_fence : fenceWaits.tablesWf = true ∧ dOp fenceD = oFENCE ∧ liveOps 7 fenceWaits ≠ 0 ∧ headDesc (queueAt 7 fenceWaits) fenceWaits.clock.fclk = some (fetched fenceD pass)
    ∧ applies (.fence 7) fenceWaits = true ∧ (∀ o ∈ fenceWaits.ops, o.id ≠ ⟨7, 0, 0⟩) := by decide
def order0 : Order := ⟨7, 15, barrier, 3, false⟩
def pinned (o : Order) : State := { queued 7 (qst 0x000F0405#32) up with orders := [o] }
theorem witness_StandingRuns : (pinned order0).tablesWf = true ∧ serving (pinned order0) = true ∧ qRuns (queueAt 7 (pinned order0)) = true ∧ qStanding (queueAt 7 (pinned order0)) = true
    ∧ ((pinned order0).orders.find? fun o => o.queue == 7 && o.slot == 15) = some order0 ∧ applies (.standingRun 7 15) (pinned order0) = true ∧ (∀ x ∈ (pinned order0).ops, x.id ≠ ⟨7, 15, 3⟩)
    ∧ orderBusy 7 15 (pinned order0) = false ∧ dRingLeg barrier = 0 ∧ startReady 7 barrier (pinned order0) = true ∧ startOpen 7 barrier (pinned order0) = true
    ∧ ({ order0 with unpin := true } : Order).unpin = true := by decide

/-! ### Witnesses: the memory port -/

def idA : OpId := ⟨7, 0, 0⟩
def withOps (l : List Op) (s : State) : State := { s with ops := l }
def reading (got : Nat) (p : Purpose) : MemReq := ⟨false, 255, 0x10000, 2, false, p, 100000000000, List.replicate got 0#8, false, false⟩
def writing (p : Purpose) : MemReq := ⟨true, 255, 0x20000, 1, false, p, 100000000000, [], false, false⟩
def mem1 (r : MemReq) (s : State) : State := { s with mem := [r] }
/-- The same, long after. -/
def aged (s : State) : State := { s with clock := { s.clock with now := 200000000000 } }
/-- A fetch of slot 15 of the last queue, at its second sector; the beat's lane 1 may be poisoned. -/
def fetch15 : State := mem1 (reading 32 (.descFetch 65535 15 1)) (queued 65535 { q0 with nextFetch := 0 } up)

theorem witness_MemoryReads : fetch15.tablesWf = true ∧ alive fetch15 = true ∧ fetch15.clock.due = [] ∧ (fetch15.mem.find? fun r => !r.write && r.id == (255#8).toNat) = some (reading 32 (.descFetch 65535 15 1))
    ∧ (reading 32 (.descFetch 65535 15 1)).err = false ∧ (reading 32 (.descFetch 65535 15 1)).poisoned = false ∧ min (4 - 1) (2 - 1) = 1 ∧ (0#4).getLsbD (1 + 0) = false
    ∧ (2#4).getLsbD (1 + 0) = true ∧ (queueAt 65535 fetch15).state ≠ 0 ∧ LogRoom fetch15 ∧ timedOut (reading 32 (.descFetch 65535 15 1)) fetch15 = false ∧ timedOut (reading 32 (.descFetch 65535 15 1)) (aged fetch15) = true ∧ (aged fetch15).tablesWf = true := by unfold LogRoom; decide +kernel

def saveD : List Word := desc oSAVE 0 0 0 0 2 [0, 0, 0, 0, 0, 0, 0, 0, 0, 0, 0x40000]
def saveOp (v : SaveSt) : Op := { (default : Op) with id := idA, d := saveD, save := some v }
def saveWait : SaveSt := { (default : SaveSt) with built := true, issued := 1 }
def saving : State := mem1 (writing (.saveWrite idA)) (withOps [saveOp saveWait] up)
/-- The record of the ring's last slot is on its way. -/
def recorded : State := mem1 (writing (.record 65535 15)) (queued 65535 { q0 with head := 15, tail := 0, records := [(15, [1#8])] } up)
/-- The same fetch as above, long after, with the time limit at 64 us. -/
def timeUp : State := setReg rTIMEOUT 64#32 (aged fetch15)

theorem portQuiet_of (q slot : Nat) (s : State) (h : ∀ x ∈ s.queues, x.2.records = []) (g : ∀ o ∈ s.ops, o.poolPages = [] ∧ o.sizesPending = false) : PortQuiet q slot s := ⟨fun x hx => .inl (h x hx), g⟩
theorem witness_MemoryWrites : saving.tablesWf = true ∧ alive saving = true ∧ saving.clock.due = [] ∧ recorded.clock.due = [] ∧ alive recorded = true ∧ (saving.mem.find? fun r => r.write && r.id == (255#8).toNat) = some (writing (.saveWrite idA))
    ∧ opAt idA saving = some (saveOp saveWait) ∧ PortQuiet 0 0 saving ∧ (∀ x ∈ saving.queues, x.2.records = []) ∧ recorded.tablesWf = true
    ∧ (recorded.mem.find? fun r => r.write && r.id == (255#8).toNat) = some (writing (.record 65535 15)) ∧ (queueAt 65535 recorded).records = [(15, [1#8])]
    ∧ qStanding (queueAt 65535 recorded) = false ∧ 15 = (queueAt 65535 recorded).head ∧ (queueAt 65535 recorded).written = [] ∧ LogRoom recorded
    ∧ 15 + 1 = queueSize (queueAt 65535 recorded) ∧ timedOut (writing (.record 65535 15)) recorded = false ∧ timedOut (writing (.record 65535 15)) (aged recorded) = true := by unfold LogRoom; refine ⟨by decide, by decide, by decide, by decide, by decide, by decide, by decide, portQuiet_of _ _ _ (by decide) (by decide), by decide, by decide, by decide, by decide, by decide, by decide, by decide, by decide, by decide, by decide +kernel, by decide +kernel⟩
theorem witness_PortQuiet_record : PortQuiet 65535 15 recorded := ⟨fun x hx => .inr (by simp [recorded, mem1, queued, setQueue, up, ownedBy, boot, setReg, State.reset, State.resetOf, tset, QueueSt.idle, q0, qst] at hx; subst hx; exact ⟨rfl, _, rfl⟩), by decide⟩
theorem witness_MemoryWrites_timeout : timeUp.tablesWf = true ∧ alive timeUp = true ∧ (timeUp.mem.find? fun r => r.write == false && r.id == (255#8).toNat) = some (reading 32 (.descFetch 65535 15 1))
    ∧ PortQuiet 0 0 timeUp ∧ (∀ x ∈ timeUp.queues, x.2.records = []) ∧ LogRoom timeUp ∧ (queueAt 65535 timeUp).state ≠ 2 ∧ timeUp.clock.due = [] ∧ applies (.memTimeout false 255#8) timeUp = true
    ∧ ¬ timeUp.clock.now < (reading 32 (.descFetch 65535 15 1)).issuedAt + regNat rTIMEOUT timeUp * unitsUs
    ∧ (setReg rTIMEOUT 0xFFFFFFFF#32 timeUp).clock.now < 100000000000 + regNat rTIMEOUT (setReg rTIMEOUT 0xFFFFFFFF#32 timeUp) * unitsUs := by
  unfold LogRoom; exact ⟨by decide +kernel, by decide, by decide +kernel, portQuiet_of _ _ _ (by decide) (by decide), by decide, by decide, by decide, by decide, by decide +kernel, by decide +kernel, by decide +kernel⟩

/-! ### Witnesses: contributions and outputs -/

/-- Descriptor of an operation of the queue 7, group 0 to 3, all planes, one limb. -/
def descL (op flags fmt ledger count : Nat) (rest : List Nat) : List Word := words ([op + 256 * flags + 65536 * fmt + 0x100000 + 0x200000 * fmt + 0x2000000 + 0x4000000, ledger + 0x10000 * 0x1000, 0xF, count] ++ rest)
def opOf (d : List Word) : Op := { (default : Op) with id := idA, d := d, members := [0, 1, 2, 3], planes := 0xF, claim := .claimed }
def sumD (op count : Nat) : List Word := descL op 0 7 5 count [0x3F800000]
/-- Ledger 5: CLOSING, held, E8M23, on all planes. -/
def ledger5 (count : Nat) : Ledger := { Ledger.free with state := 2, holder := some idA, fmt := fmtE8M23, planes := 0xF, count := count, outTscale := 0x3F800000#32 }
def run5 (o : Op) (count : Nat) : State := setLedger 5 (ledger5 count) (withOps [o] up)

def sumO : Op := { opOf (sumD oALLREDUCE 16) with upOpen := [0] }
def sumS : State := run5 sumO 16
/-- The same with stall 3 one attempt behind, with its attempt done, and with a root that is not stall 3. -/
def sumAgain : Op := setProg sumO 3 0 ⟨1, 0, false, none, 0, []⟩
def sumLate : Op := setProg sumO 3 0 ⟨0, 1, true, none, 0, []⟩
theorem witness_UpPortBeats : sumS.allWf = true ∧ sumS.clock.due = [] ∧ hasStall 3 sumS = true ∧ hasPlane 0 sumS = true ∧ upOn 0 (sumS.clock.fclk + 0) sumS = true ∧ dropFor 3 0 (5#12).toNat sumS = none
    ∧ upOpFor 3 0 (5#12).toNat sumS = some sumO ∧ sumO.claim = .claimed ∧ 3 ∈ contributors sumO ∧ progDone (progAt sumO 3 0) = false
    ∧ beatBad sumO (progAt sumO 3 0) 0 (0#24).toNat true = false ∧ (progAt sumO 3 0).attempt = (progAt sumO 3 0).want ∧ maskPlane sumO.planes (1#24).toNat ≠ 0
    ∧ beatBad sumO (progAt sumO 3 0) 0 (0#24).toNat false = true ∧ upChunks sumO.d ≤ 1 ∧ upOn 0 9000 { sumS with clock := { sumS.clock with fenced := true } } = false := by decide +kernel
theorem witness_UpPortBeats_done : upOpFor 3 0 5 (run5 sumAgain 16) = some sumAgain ∧ (run5 sumAgain 16).allWf = true ∧ progDone (progAt sumAgain 3 0) = true ∧ astray sumAgain 3 0 1 (run5 sumAgain 16) = true
    ∧ astray sumAgain 3 0 0 (run5 sumAgain 16) = false ∧ upOpFor 3 0 5 (run5 sumLate 16) = some sumLate ∧ (progAt sumLate 3 0).attempt < (progAt sumLate 3 0).want ∧ progDone (progAt sumLate 3 0) = false
    ∧ beatBad sumLate (progAt sumLate 3 0) 0 0 true = false := by decide +kernel
def failS : State := found (.failed idA 0x5A queueSource) sumS
theorem witness_FoundFailures : failS.allWf = true ∧ (lineAt 0 failS).rangAt = none ∧ LogRoom failS ∧ opAt idA failS = some sumO ∧ sumO.fail = none
    ∧ failS.clock.due = [(duePlace (.failed idA 0x5A queueSource), .failed idA 0x5A queueSource)] :=
  ⟨by decide +kernel, by decide, by unfold LogRoom; decide, by decide +kernel, rfl, rfl⟩

def idle5 : State := run5 { opOf (sumD oALLREDUCE 16) with upOpen := [] } 16
def rival : Op := { opOf (sumD oALLREDUCE 16) with id := ⟨6, 0, 0⟩, upOpen := [0] }
def bcast : Op := { opOf (descL oBROADCAST 0 7 5 16 [0, 0, 0x10000]) with upOpen := [0] }
/-- Stall 1, the root, has presented its attempt on plane 0. -/
def bcastDone : Op := setProg bcast 1 0 ⟨1, 0, false, none, 0, []⟩
theorem witness_UpPhases : idle5.allWf = true ∧ serving idle5 = true ∧ idle5.clock.due = [] ∧ streamRoom 0 idle5 = true ∧ streamRoom 3 idle5 = true ∧ opAt idA idle5 = some (opOf (sumD oALLREDUCE 16)) ∧ runs (opOf (sumD oALLREDUCE 16)) = true
    ∧ upMayOpen (opOf (sumD oALLREDUCE 16)) 0 idle5 = true ∧ planeChunks (opOf (sumD oALLREDUCE 16)) 0 = [0] ∧ planeChunks (opOf (sumD oALLREDUCE 16)) 3 = []
    ∧ upMayOpen (opOf (sumD oALLREDUCE 16)) 3 idle5 = true ∧ rival ∈ (withOps [rival, opOf (sumD oALLREDUCE 16)] idle5).ops ∧ rival.id ≠ idA ∧ 0 ∈ rival.upOpen ∧ sharesStall (opOf (sumD oALLREDUCE 16)) rival = true
    ∧ (run5 bcastDone 16).allWf = true ∧ 0 ∈ bcastDone.upOpen ∧ (∀ n ∈ contributors bcastDone, progDone (progAt bcastDone n 0) = true) ∧ planeChunks bcast 0 ≠ []
    ∧ (∃ n ∈ contributors bcast, progDone (progAt bcast n 0) = false) := by decide +kernel

/-- Sixty-four other operations stream on plane 0. -/
def crowd : List Op := (List.range 64).map fun i => { opOf (descL oALLREDUCE 0 7 (100 + i) 16 [0x3F800000]) with id := ⟨6, i, 0⟩, members := [i + 8], upOpen := [0] }
/-- A LEDGER_ADD, which streams only from its up phase on. -/
def addUp : Op := opOf (sumD oLEDGER_ADD 16)
def crowded : State := withOps (addUp :: crowd) idle5
theorem witness_UpPhases_full : crowded.allWf = true ∧ serving crowded = true ∧ crowded.clock.due = [] ∧ opAt idA crowded = some addUp ∧ runs addUp = true ∧ upMayOpen addUp 0 crowded = true
    ∧ streamsOn 0 crowded addUp = false ∧ streamRoom 0 crowded = false := by decide +kernel

/-- Every member's beat of a contribution of one beat has come; the beats hold one element of 1.0 each. -/
def one : Beat := ⟨0x3F800000#512, 0#32⟩
def beatsOf (ms : List Nat) : Table (Option Beat) := ms.map fun m => (beatKey m 0 0, some one)
def sumIn : Op := { opOf (sumD oALLREDUCE 1) with beats := beatsOf [0, 1, 2, 3] }
def sumInS : State := run5 sumIn 1
theorem witness_TreeSums : sumInS.allWf = true ∧ serving sumInS = true ∧ sumInS.clock.due = [] ∧ opAt idA sumInS = some sumIn ∧ runs sumIn = true ∧ isSum (dOp sumIn.d) = true ∧ sumIn.claim = .claimed
    ∧ limbsOf sumIn.d = 1 ∧ sumIn.poolPages = [] ∧ beatWaits sumIn 0 0 = true
    ∧ exchTakes idA (maskPlane sumIn.planes 0) (sumInS.clock.fclk + 0) sumInS = true := by decide +kernel
/-- The same on one plane. -/
def sumIn1 : Op := { sumIn with planes := 1 }
theorem witness_SumRows_one : (run5 sumIn1 1).allWf = true ∧ serving (run5 sumIn1 1) = true ∧ opAt idA (run5 sumIn1 1) = some sumIn1 ∧ runs sumIn1 = true ∧ planesOf sumIn1.planes = [0] ∧ sumWaits sumIn1 0 = [(0, 0)]
    ∧ exchTakes idA 0 ((run5 sumIn1 1).clock.fclk + 0) (run5 sumIn1 1) = true ∧ limbsOf sumIn1.d = 1 ∧ sumIn1.poolPages = [] ∧ (run5 sumIn1 1).clock.due = [] := by decide +kernel
theorem witness_SumRows : alive sumInS = true ∧ sumInS.clock.due = [] ∧ opAt idA sumInS = some sumIn ∧ runs sumIn = true ∧ dOp sumIn.d = oALLREDUCE ∧ dOp (sumD oREDUCE 1) = oREDUCE
    ∧ dOp (sumD oREDUCE_SCATTER 1) = oREDUCE_SCATTER ∧ dOp (sumD oLEDGER_ADD 1) = oLEDGER_ADD ∧ dOp (sumD oLEDGER_CLOSE 1) = oLEDGER_CLOSE := by decide +kernel
/-- Four leaves of 1.0 add up to 4.0 (R116, R117). -/
theorem test_allreduce : (match exec (.allreduce idA 0) sumInS with | .next t => (opAt idA t).map fun o => (o.added, tget none 0 o.fresh) | _ => none) = some (true, some 0x4080000000000000#64) := by decide +kernel

/-- A one-shot sum streams behind its input; with SPECULATE or in a close it waits for its whole contribution. -/
def egO : Op := { opOf (sumD oALLREDUCE 1) with cop := { (default : Copies) with profile := [0x17#32, 0#32, 0#32, 0#32] }, fresh := [(0, some 0x4080000000000000#64)], added := true }
def egClose : Op := { egO with d := sumD oLEDGER_CLOSE 1 }
theorem witness_EgressToCrier : (run5 egO 1).allWf = true ∧ (run5 egO 1).clock.due = [] ∧ serving (run5 egO 1) = true ∧ opAt idA (run5 egO 1) = some egO ∧ runs egO = true ∧ isClosing (dOp egO.d) = true ∧ egO.claim = .claimed
    ∧ egO.leg = none ∧ egHeld egO = false ∧ egO.eg.next = 0 ∧ egO.eg.trueAU = none ∧ heldBias egO (run5 egO 1) = none ∧ 0 < (ledgerAt 5 (run5 egO 1)).count ∧ foldPages egO (ledger5 1) = []
    ∧ streams egO (run5 egO 1) = true ∧ (ledgerAt 5 (run5 egO 1)).count ≤ egReady egO (ledger5 1) (run5 egO 1) ∧ sumTo egO (ledger5 1) 0 ≠ []
    ∧ streams egClose (run5 egClose 1) = false ∧ contribDone egClose = true ∧ dLedger egO.d = 5 := by decide +kernel

/-- One beat of plane 3 waits for the crier at the first edge of a free transit. -/
def beat3 : DnBeat := ⟨3, 0, kDATA, 1#512, 0#32, [0, 1], 0, 9000, 0⟩
def downOp : Op := { egO with down := [beat3] }
def downS : State := setReg rMER_STATE 0#32 (run5 downOp 1)
theorem witness_CrierPresents : downS.allWf = true ∧ alive downS = true ∧ phaseOf downS = 9 ∧ downS.clock.held = [] ∧ downS.clock.due = [] ∧ downS.boot.applying = none
    ∧ boundaryFits (regNat rFREE_CYCLES downS) 64 downS = true ∧ opAt downOp.id downS = some downOp ∧ downOp.down = [beat3] ∧ (∀ x ∈ downS.ops, x.id ≠ downOp.id → x.down = []) ∧ beat3.plane < downS.build.planes
    ∧ (planeAt beat3.plane downS).recalls = [] ∧ (∀ x ∈ downS.ops, x.id = downOp.id → x = downOp)
    ∧ dutyNext beat3.plane (max (max beat3.from' (planeAt beat3.plane downS).dnNext) downS.clock.fclk) downS < downS.clock.fclk + regNat rFREE_CYCLES downS := by decide +kernel

/-- The one beat of each of these contributors, as passed by the exchange. -/
def passOf (ns : List Nat) : List (Nat × Nat) := ns.map fun n => (beatKey n 0 0, 1)
def bcastIn : Op := { opOf (descL oBROADCAST 0 7 5 16 [0, 0, 0x10000]) with beats := beatsOf [1], passed := passOf [1] }
def gatherIn : Op := { opOf (descL oALLGATHER 0 7 5 16 []) with beats := beatsOf [0, 1, 2, 3], passed := passOf [0, 1, 2, 3] }
theorem witness_CopiesDeliver : (run5 bcastIn 16).allWf = true ∧ (run5 bcastIn 16).clock.due = [] ∧ serving (run5 bcastIn 16) = true ∧ opAt idA (run5 bcastIn 16) = some bcastIn ∧ runs bcastIn = true ∧ bcastIn.claim = .claimed ∧ bcastIn.leg = none
    ∧ bcastIn.eg.ended = false ∧ bcastIn.summed = [] ∧ allBeats bcastIn = true ∧ fmtBad (dInFmt bcastIn.d) = false ∧ fmtScaled (dInFmt bcastIn.d) = false ∧ dOutFmt bcastIn.d = dInFmt bcastIn.d
    ∧ receivers bcastIn ≠ [] ∧ dOp bcastIn.d = oBROADCAST ∧ dRoot bcastIn.d ∈ bcastIn.members ∧ (run5 gatherIn 16).allWf = true ∧ allBeats gatherIn = true ∧ dOp gatherIn.d = oALLGATHER
    ∧ dCount gatherIn.d % perBeat (dInFmt gatherIn.d) = 0 ∧ 3 < gatherIn.members.length ∧ receivers gatherIn ≠ [] := by decide +kernel

def selIn (op topk : Nat) : Op := { opOf (words [op + 65536 * 7 + 0x4000000, 5 + 0x10000 * 0x1000, 0xF + 0x4000000 * topk, 1]) with beats := beatsOf [0, 1, 2, 3], passed := [(0, 1)] }
theorem witness_SelectionsDeliver : (run5 (selIn oTOPK 32) 1).allWf = true ∧ (run5 (selIn oTOPK 32) 1).clock.due = [] ∧ serving (run5 (selIn oTOPK 32) 1) = true ∧ opAt idA (run5 (selIn oTOPK 32) 1) = some (selIn oTOPK 32) ∧ runs (selIn oTOPK 32) = true
    ∧ (selIn oTOPK 32).claim = .claimed ∧ (selIn oTOPK 32).leg = none ∧ (selIn oTOPK 32).added = false ∧ allBeats (selIn oTOPK 32) = true ∧ fmtBad (dInFmt (selIn oTOPK 32).d) = false
    ∧ (selIn oTOPK 32).members ≠ [] ∧ dOp (selIn oTOPK 32).d = oTOPK ∧ dTopk (selIn oTOPK 32).d = 32 ∧ allBeats (selIn oMAX 0) = true ∧ allBeats (selIn oARGMAX 0) = true ∧ allBeats (selIn oSAMPLE 0) = true := by decide +kernel

/-- On one plane, a beat that has come waits for its turn; and another operation's whose turn it is. -/
def waitOne (o : Op) : Op := { o with planes := 1, passed := [] }
def rival1 : Op := { sumIn1 with id := ⟨6, 0, 0⟩, d := descL oALLREDUCE 0 7 6 1 [0x3F800000] }
def rivalS : State := setLedger 6 { ledger5 1 with holder := some ⟨6, 0, 0⟩ } (withOps [rival1, waitOne (selIn oTOPK 32)] (run5 (waitOne (selIn oTOPK 32)) 1))
theorem witness_BeatsPass : (run5 (waitOne bcastIn) 16).allWf = true ∧ runs (waitOne bcastIn) = true ∧ exchPick 0 ((run5 (waitOne bcastIn) 16).clock.fclk + 0) (run5 (waitOne bcastIn) 16) = some ⟨idA, 0, 1⟩
    ∧ copyWaits (waitOne bcastIn) 0 1 = [(0, 0)] ∧ (waitOne bcastIn).eg.ended = false ∧ exchPick 0 ((run5 (waitOne gatherIn) 16).clock.fclk + 0) (run5 (waitOne gatherIn) 16) = some ⟨idA, 0, 0⟩
    ∧ copyWaits (waitOne gatherIn) 0 0 = [(0, 0)] ∧ selectWaits (waitOne (selIn oTOPK 32)) 0 = [(0, 0)] ∧ (waitOne (selIn oTOPK 32)).added = false
    ∧ exchPick 0 ((run5 (waitOne (selIn oTOPK 32)) 1).clock.fclk + 0) (run5 (waitOne (selIn oTOPK 32)) 1) = some ⟨idA, 2, 0⟩ ∧ planesOf (waitOne bcastIn).planes = [0]
    ∧ rivalS.allWf = true ∧ opAt idA rivalS = some (waitOne (selIn oTOPK 32)) ∧ exchPick 0 (rivalS.clock.fclk + 0) rivalS = some ⟨⟨6, 0, 0⟩, 2, 0⟩ := by decide +kernel

/-- An ALLTOALL of two chips whose table of eight words has come, good and with an entry that is no whole beat. -/
def a2aOp (ws : List Word) : Op := { opOf (descL oALLTOALL 0 7 5 16 [0, 0, 0, 0, 0, 0, 0x10000 * 0x04FF]) with claim := .starting, sizesPending := true, leg := some { (default : Leg) with n := 2, pos := 1, sizes := ws } }
def goodTable : List Word := [0#32, 16#32, 0#32, 16#32, 16#32, 48#32, 16#32, 48#32]
def a2aS (ws : List Word) : State := withOps [a2aOp ws] up
theorem witness_AlltoallTable : (a2aS goodTable).allWf = true ∧ (a2aS goodTable).clock.due = [] ∧ (a2aOp goodTable).sizesPending = true ∧ alive (a2aS goodTable) = true ∧ opAt idA (a2aS goodTable) = some (a2aOp goodTable) ∧ runs (a2aOp goodTable) = true
    ∧ dOp (a2aOp goodTable).d = oALLTOALL ∧ (a2aOp goodTable).leg = some { (default : Leg) with n := 2, pos := 1, sizes := goodTable } ∧ (a2aOp goodTable).claim = .starting
    ∧ (tableSpan (a2aOp goodTable).d 2).2 ≤ 4 * goodTable.length ∧ ((goodTable.drop (dAddr (a2aOp goodTable).d % 32 / 4)).take 8).getD 3 0#32 = 16#32
    ∧ (17#32).toNat % perBeat (dInFmt (a2aOp goodTable).d) ≠ 0 := by decide +kernel

/-- An area of one block is too small for an OPEN ledger; with the entries written the header is due, and then the end. -/
def small : State := setLedger 4095 { Ledger.free with state := 1, fmt := fmtE8M23, planes := 1, count := 8 } (withOps [saveOp default] up)
def headerDue : SaveSt := { (default : SaveSt) with built := true, area := List.replicate 64 0#8, next := 64 }
def winUp (o : Op) : State := withOps [o] (windowed up)
def restOp (v : SaveSt) : Op := { saveOp v with d := words [oRESTORE + 0x4000000, 0, 0, 2, 0, 0, 0, 0, 0, 0, 0, 0, 0, 0, 0x40000] }
/-- An area as read, whose one entry is ledger 4095. -/
def restArea : List Byte := List.replicate 12 0#8 ++ leBytes 4 1 ++ leBytes 8 128 ++ List.replicate 40 0#8 ++ leBytes 2 4095 ++ [3#8] ++ List.replicate 61 0#8
def restDue : SaveSt := { (default : SaveSt) with area := restArea, next := 128, headerSent := true }
def busyL : State := setLedger 4095 { Ledger.free with state := 3 } (withOps [restOp restDue] up)
theorem witness_SaveAndRestore : small.allWf = true ∧ small.clock.due = [] ∧ serving small = true ∧ opAt idA small = some (saveOp default) ∧ runs (saveOp default) = true ∧ (default : SaveSt).done = false ∧ dOp saveD = oSAVE
    ∧ (default : SaveSt).built = false ∧ anyHeld small = false ∧ saveAhead idA small = false ∧ 64 * dCount saveD < areaBytes small
    ∧ (winUp (saveOp headerDue)).allWf = true ∧ headerDue.area.length ≤ headerDue.next ∧ headerDue.headerSent = false ∧ memCan true false (dAddr saveD / 64 * 64) 64 (winUp (saveOp headerDue)) = true
    ∧ freeId true (winUp (saveOp headerDue)) = some 0 ∧ inWindow (dAddr saveD / 64 * 64) 64 (winUp (saveOp headerDue)) = true ∧ headerDue.issued = 0 ∧ ({ headerDue with headerSent := true } : SaveSt).issued = 0 := by decide +kernel
theorem witness_SaveAndRestore_restore : dOp (restOp restDue).d = oRESTORE ∧ saveAhead idA busyL = false ∧ restDue.built = false ∧ restDue.headerSent = true ∧ restoreSize (restOp restDue) restDue ≤ restDue.next
    ∧ restDue.issued = 0 ∧ (∃ x ∈ restoreEntries restDue, (ledgerAt x.2.1 busyL).state ≠ 0) ∧ busyL.allWf = true ∧ serving busyL = true ∧ ({ restDue with built := true } : SaveSt).built = true
    ∧ (∀ x ∈ (restOp restDue).poolPages, (x.1, x.2.1) ∈ (restOp restDue).partWritten) := by decide +kernel

/-! ### Witnesses: ledgers -/

def openD (count : Nat) : List Word := descL oLEDGER_OPEN 0 7 5 count []
def starting (d : List Word) : Op := { opOf d with claim := .starting }
def free5 (d : List Word) : State := withOps [starting d] up
def open5 : Ledger := { Ledger.free with state := 1, fmt := fmtE8M23, planes := 0xF, count := 16, outTscale := 0x3F800000#32 }
/-- Ledger 5 as given, and an operation that contributes to it, with EXCLUSIVE or not. -/
def adding (excl : Nat) (v : Ledger) : State := setLedger 5 v (withOps [starting (descL oLEDGER_ADD excl 7 5 16 [])] up)
theorem ledger_all (P : Nat → Ledger → Prop) (s : State) (hf : ∀ k, P k Ledger.free) (h : ∀ x ∈ s.ledgers, P x.1 x.2) : ∀ k, P k (ledgerAt k s) := by
  intro k
  have key : ∀ t : Table Ledger, (∀ x ∈ t, P x.1 x.2) → P k (tget Ledger.free k t) := by
    intro t ht
    induction t with
    | nil => exact hf k
    | cons x t ih =>
      obtain ⟨j, v⟩ := x
      rw [tget]
      split
      · next e => exact e ▸ ht (j, v) (by simp)
      · exact ih fun y hy => ht y (by simp [hy])
  exact key s.ledgers h
theorem witness_LedgerClaims_nowhere : (∀ k, idA ∉ (ledgerAt k (free5 (openD 16))).waiting) ∧ (∀ k, idA ∉ (ledgerAt k (free5 (descL oTOPK 0 7 5 16 []))).waiting) ∧ (∀ k, idA ∉ (ledgerAt k (adding 0 open5)).waiting) :=
  ⟨ledger_all (fun _ v => idA ∉ v.waiting) _ (fun _ => by decide) (by decide), ledger_all (fun _ v => idA ∉ v.waiting) _ (fun _ => by decide) (by decide),
    ledger_all (fun _ v => idA ∉ v.waiting) _ (fun _ => by decide) (by decide +kernel)⟩
theorem witness_LedgerClaims : (free5 (openD 16)).allWf = true ∧ alive (free5 (openD 16)) = true ∧ opAt idA (free5 (openD 16)) = some (starting (openD 16)) ∧ runs (starting (openD 16)) = true
    ∧ (starting (openD 16)).claim = .starting ∧ (starting (openD 16)).sizesPending = false ∧ dOp (openD 16) = oLEDGER_OPEN ∧ (ledgerAt 5 (free5 (openD 16))).state = 0
    ∧ (ledgerAt 5 (free5 (openD 16))).holder = none ∧ (ledgerAt 5 (free5 (openD 16))).waiting = [] ∧ saveAhead idA (free5 (openD 16)) = false ∧ applies (.ledgerOpen idA) (free5 (openD 16)) = true
    ∧ isCopy (dOp (descL oBROADCAST 0 7 5 16 [])) = true ∧ isSelect (dOp (descL oTOPK 0 7 5 16 [])) = true ∧ applies (.ledgerClaim idA) (free5 (descL oTOPK 0 7 5 16 [])) = true
    ∧ (setLedger 5 open5 (free5 (openD 16))).allWf = true ∧ (ledgerAt 5 (setLedger 5 open5 (free5 (openD 16)))).state = 1 := by decide +kernel
/-- A TOPK with output, while 64 others stream on its planes. -/
def noRoom : State := { free5 (descL oTOPK 0 7 5 16 []) with ops := starting (descL oTOPK 0 7 5 16 []) :: crowd }
theorem witness_LedgerClaims_room : claimRoom (starting (descL oTOPK 0 7 5 16 [])) (claimedLedger (starting (descL oTOPK 0 7 5 16 [])) (free5 (descL oTOPK 0 7 5 16 []))) (free5 (descL oTOPK 0 7 5 16 [])) = true
    ∧ noRoom.allWf = true ∧ opAt idA noRoom = some (starting (descL oTOPK 0 7 5 16 [])) ∧ claimRoom (starting (descL oTOPK 0 7 5 16 [])) (claimedLedger (starting (descL oTOPK 0 7 5 16 [])) noRoom) noRoom = false
    ∧ applies (.ledgerClaim idA) noRoom = true := by decide +kernel
theorem witness_LedgerClaims_add : AddMay (starting (descL oLEDGER_ADD 0 7 5 16 [])) (adding 0 open5) ∧ (adding 0 open5).allWf = true ∧ (ledgerAt 5 (adding 0 open5)).waiting = []
    ∧ applies (.ledgerClaim idA) (adding 0 open5) = true ∧ (ledgerAt 5 (adding 8 { open5 with holder := some id0 })).holder ≠ none ∧ dExcl (descL oLEDGER_ADD 8 7 5 16 []) = true
    ∧ dExcl (descL oLEDGER_ADD 0 7 5 16 []) = false ∧ (ledgerAt 5 (adding 0 { Ledger.free with state := 3 })).state = 3 ∧ (ledgerAt 5 (adding 0 Ledger.free)).state = 0 := by
  unfold AddMay; decide +kernel

/-- The last of two waiters claims in its turn; the first stood ahead of it. -/
def waiter : Op := { opOf (descL oLEDGER_ADD 0 7 5 16 []) with claim := .waiting }
def waiting5 : State := { setLedger 5 { open5 with waiting := [idA, id0] } (withOps [waiter] up) with pageWait := [(idA, [0, 3])] }
theorem witness_WaitingClaims : waiting5.allWf = true ∧ alive waiting5 = true ∧ opAt waiter.id waiting5 = some waiter ∧ runs waiter = true ∧ waiter.claim = .waiting ∧ AddMay waiter waiting5
    ∧ (ledgerAt (dLedger waiter.d) waiting5).waiting = waiter.id :: [id0] ∧ waiter.id ∉ [id0] ∧ (5#12).toNat = dLedger waiter.d ∧ applies (.waitListClaim 5#12) waiting5 = true
    ∧ waiting5.clock.due = [] ∧ (waiter.id, [0, 3]) ∈ waiting5.pageWait ∧ applies (.pageGrant waiter.id) waiting5 = true := by unfold AddMay; decide +kernel

theorem witness_WaitingClaims_elsewhere : ∀ k, k ≠ dLedger waiter.d → waiter.id ∉ (ledgerAt k waiting5).waiting :=
  ledger_all (fun k v => k ≠ dLedger waiter.d → waiter.id ∉ v.waiting) _ (fun _ _ => by decide) (by decide +kernel)

/-! ### Witnesses: seals, failures, early use, speculation -/

def barO (at' : Nat) : Op := { (default : Op) with id := idA, d := barrier, addAt := at' }
/-- Its one element has been added and is to be sealed. -/
def addO : Op := { opOf (sumD oLEDGER_ADD 1) with fresh := [(0, some 0x4080000000000000#64)], added := true, addAt := 8995 }
def outO : Op := { egO with eg := { (default : Egress) with ended := true, next := 1, endedAt := 8995 } }
theorem witness_Seals : (withOps [barO 8995] up).allWf = true ∧ alive (withOps [barO 8995] up) = true ∧ opAt idA (withOps [barO 8995] up) = some (barO 8995) ∧ runs (barO 8995) = true ∧ (barO 8995).leg = none
    ∧ dEarly barrier = false ∧ applies (.seal idA) (withOps [barO 8995] up) = true ∧ (barO 8995).addAt + 5 ≤ (withOps [barO 8995] up).clock.fclk ∧ up.clock.fclk < (barO 8996).addAt + 5
    ∧ hasOutput (dOp barrier) = false ∧ dOp fenceD = oFENCE ∧ (setLedger 5 { open5 with holder := some idA } (withOps [addO] up)).allWf = true ∧ dOp addO.d = oLEDGER_ADD ∧ addO.claim = .claimed
    ∧ contribDone addO = true ∧ addO.poolPages = [] ∧ addO.addAt + 5 ≤ up.clock.fclk ∧ (run5 outO 1).allWf = true ∧ isClosing (dOp outO.d) = true ∧ outO.eg.ended = true ∧ outO.down = [] ∧ egHeld outO = false
    ∧ outO.eg.spec = false ∧ dBino outO.d = false ∧ outO.eg.endedAt + 5 ≤ (run5 outO 1).clock.fclk ∧ dEarly outO.d = false ∧ outO.doneAt = 0 ∧ { outO with doneAt := 8995 }.doneAt + 5 ≤ up.clock.fclk ∧ up.clock.fclk < { outO with doneAt := 8996 }.doneAt + 5 := by decide +kernel

def failed (at' : Word64) : Op := { opOf (sumD oREDUCE 16) with fail := some (0x52#8, at') }
def lostS (at' : Word64) : State := queued 7 { q0 with cfg := 0x000F0413#32 } (withOps [failed at'] up)
theorem witness_FailuresDelivered : (lostS 49#64).allWf = true ∧ alive (lostS 49#64) = true ∧ opAt idA (lostS 49#64) = some (failed 49#64) ∧ (failed 49#64).fail = some (0x52#8, 49#64)
    ∧ applies (.descriptorFail idA) (lostS 49#64) = true ∧ (lostS 49#64).clock.transit ≠ 49#64 ∧ (lostS 50#64).clock.transit = 50#64 ∧ qHaltOnErr (queueAt 7 (lostS 49#64)) = true
    ∧ (queueAt 7 (lostS 49#64)).state = 1 := by decide +kernel

def early (n : Nat) (rel : List (Nat × Nat)) : Op := { opOf (descL oBROADCAST 4 7 5 16 [0, 0, 0x10000]) with eg := { (default : Egress) with chunkOut := [(0, 8995, n)], released := rel } }
theorem witness_ChunksReleased : (withOps [early 1 []] up).allWf = true ∧ alive (withOps [early 1 []] up) = true ∧ hasStall 3 (withOps [early 1 []] up) = true ∧ binoPaired (withOps [early 1 []] up) = false
    ∧ opAt idA (withOps [early 1 []] up) = some (early 1 []) ∧ runs (early 1 []) = true ∧ dEarly (early 1 []).d = true ∧ 3 ∈ receivers (early 1 [])
    ∧ ((early 1 []).eg.chunkOut.find? fun x => x.1 == 0) = some (0, 8995, 1) ∧ applies (.chunkRelease idA 3 0) (withOps [early 1 []] up) = true ∧ (3, 0) ∉ (early 1 []).eg.released
    ∧ outChunkBeats (early 1 []) 0 ≤ 1 ∧ 8995 + 5 ≤ (withOps [early 1 []] up).clock.fclk ∧ (3, 0) ∈ (early 1 [(3, 0)]).eg.released ∧ 0 < outChunkBeats (early 0 []) 0 := by decide +kernel

/-- The measures of one element 1.0, converted with the factors given. -/
def specO (a u : Int) : Op := { egO with eg := { (default : Egress) with next := 1, spec := true, a := a, u := u, meas := measuresAdd Measures.none (measureOf (mkPair 0x3F800000#32 0#32) 0x3F800000#32), measAt := 8999, shown := true } }
def specS (a u : Int) : State := run5 (specO a u) 1
def specA : Int := trueA (almWord 0 1 up) (almWord 0 0 up) (specO 0 0).eg.meas
def specU : Int := trueU (almWord 0 1 up) (outFmtOf egO) specA (specO 0 0).eg.meas
def missed : Op := { specO 5 0 with eg := { (specO 5 0).eg with recallDue := true, reEmit := true, trueAU := some (0, 0) } }
def again : Op := { missed with eg := { missed.eg with recallDue := false } }
theorem witness_SpeculationResolves : (specS 5 0).allWf = true ∧ alive (specS 5 0) = true ∧ opAt idA (specS 5 0) = some (specO 5 0) ∧ runs (specO 5 0) = true ∧ isClosing (dOp (specO 5 0).d) = true
    ∧ (specO 5 0).leg = none ∧ (specO 5 0).eg.spec = true ∧ egHeld (specO 5 0) = false ∧ (ledgerAt 5 (specS 5 0)).count ≤ (specO 5 0).eg.next ∧ (specO 5 0).eg.trueAU = none ∧ (specO 5 0).eg.compared = none
    ∧ (specO 5 0).eg.measAt < (specS 5 0).clock.fclk ∧ measuresIn (specO 5 0) (specS 5 0) = true ∧ applies (.almanacCompare idA) (specS 5 0) = true ∧ specA ≠ (specO 5 0).eg.a ∧ (specO specA specU).eg.a = specA ∧ (specO specA specU).eg.u = specU := by decide +kernel
theorem witness_SpeculationResolves_recall : (run5 missed 1).allWf = true ∧ missed.eg.recallDue = true ∧ missed.members ≠ [] ∧ applies (.recallOp idA 0) (run5 missed 1) = true ∧ (run5 again 1).allWf = true
    ∧ again.eg.reEmit = true ∧ again.eg.recallDue = false ∧ again.eg.trueAU = some (0, 0) ∧ again.eg.measAt < (run5 again 1).clock.fclk ∧ applies (.reEmission idA 0) (run5 again 1) = true := by decide +kernel

/-! ### Witnesses: links -/

def toFlit (b : List Byte) : BitVec 1024 := BitVec.ofNat 1024 (leNat b)
def hdr0 (kind seq ack tag : Nat) : FlitHdr := ⟨kind, 0, seq, ack, false, false, 0, 0, tag, true⟩
def dataFlit (h : FlitHdr) (b : List Byte) : BitVec 1024 := toFlit (flitImage h b)
/-- What a flit of the link says, and whether its check is right. -/
def flitGives (f : BitVec 1024) : Bool × FlitHdr := (leNat (sliceB (flitBytesOf f) 124 4) == (crc32Link ((flitBytesOf f).take 124)).toNat, flitHdrOf (leNat ((flitBytesOf f).take 8)))
/-- The fold of a check with its value kept in normal form, byte by byte. -/
def force (w : Word) (f : Word → Word) : Word := match w.toNat with
  | 0 => f 0#32
  | n + 1 => f (BitVec.ofNat 32 (n + 1))
def crcFold (poly : Word) : List Byte → Word → Word
  | [], c => c
  | b :: l, c => force (crc32Byte poly c b) (crcFold poly l)
theorem force_eq (w : Word) (f : Word → Word) : force w f = f w := by
  unfold force; split <;> rename_i h
  · rw [show w = 0#32 from BitVec.eq_of_toNat_eq h]
  · rw [show BitVec.ofNat 32 _ = w from BitVec.eq_of_toNat_eq (by simp only [← Nat.succ_eq_add_one, ← h, BitVec.toNat_ofNat]; omega)]
theorem foldl_crc (poly : Word) (l : List Byte) (c : Word) : l.foldl (crc32Byte poly) c = crcFold poly l c := by
  induction l generalizing c with
  | nil => rfl
  | cons b l ih => rw [List.foldl_cons, ih, crcFold, force_eq]
def sent (q n : Nat) : Sent := ⟨q, 0, ⟨1, 5, true, 255, [1#8]⟩, n, 6952⟩
def linkUp1 : Link := { linkUp0 with replay := [sent 4095 0, sent 0 0] }
def lup : State := link linkUp1 up

/-- The first flit after training has number 0; 4095 is out of order. A check value of 0 is wrong for it. -/
theorem witness_LinkReception : lup.allWf = true ∧ lup.clock.due = [] ∧ hasPort 0 lup = true ∧ linkRuns 0 lup = true ∧ flitGives (dataFlit (hdr0 1 0 0 4095) [9#8]) = (true, hdr0 1 0 0 4095)
    ∧ 0 = ((linkAt 0 lup).rxSeq + 1) % 4096 ∧ (linkAt 0 lup).rxOccupied.getD 0 0 + (linkAt 0 lup).owed.getD 0 0 < (linkAt 0 lup).advertised.getD 0 0
    ∧ (linkAt 0 lup).credit.getD 0 0 ≤ (linkAt 0 lup).creditMax.getD 0 0 ∧ flitGives (dataFlit (hdr0 2 4095 0 0) [5#8]) = (true, hdr0 2 4095 0 0)
    ∧ (flitGives (toFlit ((flitImage (hdr0 1 0 0 4095) [9#8]).take 124 ++ [0#8, 0#8, 0#8, 0#8]))).1 = false := by 
  simp only [flitGives, dataFlit, flitImage, crc32Link, crc32Of, foldl_crc]; decide +kernel
/-- A heartbeat that acknowledges 4095, the first of the replay buffer, with NAK; and one whose credits exceed what was advertised. -/
theorem witness_LinkReception_other : flitGives (dataFlit { hdr0 3 0 4095 0 with ackEn := true, nak := true } []) = (true, { hdr0 3 0 4095 0 with ackEn := true, nak := true }) ∧ 3 ≠ fkDATA ∧ 3 ≠ fkCONTROL
    ∧ (linkAt 0 lup).replay = [] ++ sent 4095 0 :: [sent 0 0] ∧ (linkAt 0 lup).creditMax.getD 3 0 < (linkAt 0 lup).credit.getD 3 0 + 255 ∧ (linkAt 0 lup).credit.length = 4
    ∧ (linkAt 0 lup).credit.getD 0 0 + 0 ≤ (linkAt 0 lup).creditMax.getD 0 0 ∧ ¬ 8 < { linkUp1 with rxOccupied := [8, 0, 0, 0] }.advertised.getD 0 0 := by 
  simp only [flitGives, dataFlit, flitImage, crc32Link, crc32Of, foldl_crc]; decide +kernel
def retried : State := found (.retry 0) lup
theorem witness_RetryEnters : retried.allWf = true ∧ (lineAt 0 retried).rangAt = none ∧ LogRoom retried ∧ retried.clock.due = [(duePlace (.retry 0), .retry 0)] := by unfold LogRoom; decide +kernel
theorem witness_LinkReplay : lup.allWf = true ∧ lup.clock.due = [] ∧ linkRuns 0 lup = true ∧ (linkAt 0 lup).replay = sent 4095 0 :: [sent 0 0] ∧ LogRoom lup ∧ (sent 4095 0).sentAt + 2048 ≤ lup.clock.fclk + 0
    ∧ (linkAt 0 (link { linkUp1 with nakSeen := true } up)).nakSeen = true ∧ (linkAt 0 lup).nakSeen = false ∧ 8 ≤ (sent 4095 8).attempts ∧ ¬ 8 ≤ (sent 4095 7).attempts
    ∧ lup.clock.fclk + 0 < { sent 4095 0 with sentAt := 6953 }.sentAt + 2048 := by unfold LogRoom; decide +kernel
def waits (l : Link) : State := link l up
/-- An injection of these bits is armed, and its occasion has come. -/
def injecting (w : Word) (s : State) : State := setReg rINJECT w { s with injected := some w }
/-- Two tags wait on channel 0, and the same with a message ahead on channel 3. -/
def twoTags : Link := { linkUp0 with txSeq := 4095, txq := [[⟨1, 5, true, 255, [1#8]⟩, ⟨1, 4, false, 254, [2#8]⟩], [], [], []] }
def withMsg : Link := { twoTags with txq := twoTags.txq.set 3 [⟨2, 0, false, 0, [4#8]⟩] }
theorem witness_LinkTransmission : (waits twoTags).allWf = true ∧ hasPort 0 (waits twoTags) = true ∧ txFree 0 0 (waits twoTags) = true ∧ (linkAt 0 (waits twoTags)).retx = [] ∧ vcReady 0 0 9000 (waits twoTags) = true
    ∧ (waits twoTags).clock.due = [] ∧ injects 4 0 (waits twoTags) = false ∧ injects 4 0 (injecting 0x80000004#32 (waits twoTags)) = true ∧ vcReady 0 0 9000 (injecting 0x80000004#32 (waits twoTags)) = true ∧ txFree 0 0 (injecting 0x80000004#32 (waits twoTags)) = true ∧ (injecting 0x80000004#32 (waits twoTags)).allWf = true ∧ vcReady 0 3 9000 (waits withMsg) = true
    ∧ (linkAt 0 (waits { linkUp1 with retx := [4095, 0] })).retx = 4095 :: [0] ∧ ((linkAt 0 (waits { linkUp1 with retx := [4095, 0] })).replay.find? fun y => y.seq == 4095) = some (sent 4095 0)
    ∧ withinCap 0 (sent 4095 0).vc 9000 (waits { linkUp1 with retx := [4095, 0] }) = true ∧ (waits { linkUp1 with retx := [4095, 0] }).allWf = true ∧ txFree 0 0 (waits { linkUp1 with retx := [4095, 0] }) = true ∧ txWork 0 9000 (waits { linkUp0 with lastTx := 8489 }) = false
    ∧ (linkAt 0 (waits { linkUp0 with lastTx := 8489 })).lastTx + 511 ≤ 9000 := by decide +kernel
/-- Three cases without a flit to send: an acknowledgement owed for 64 cycles, a NAK owed, and nothing. -/
theorem witness_LinkTransmission_null : txWork 0 9000 (waits { linkUp0 with lastTx := 8937, ackOwed := true }) = false ∧ txFree 0 0 (waits { linkUp0 with nakOwed := true }) = true ∧ txWork 0 9000 (waits linkUp0) = false
    ∧ ¬ linkUp0.lastTx + 511 ≤ 9000 := by decide +kernel

def usesPort0 : State := grouped 0x1011#32 sigUp
theorem witness_LinkLoss : usesPort0.allWf = true ∧ hasPort 0 usesPort0 = true ∧ alive usesPort0 = true ∧ LogRoom usesPort0 ∧ (∀ o ∈ usesPort0.ops, o.leg = none) ∧ applies (.linkLost 0 true 0) usesPort0 = true
    ∧ (linkAt 0 usesPort0).state = 2 ∧ applies (.linkDown 0 0x23#8) (link { linkUp0 with dying := 0x23#8 } (topo up)) = true ∧ (linkAt 0 (link { linkUp0 with dying := 0x23#8 } (topo up))).dying = 0x23#8
    ∧ (linkAt 0 (link { linkUp0 with lastGood := 4904 } up)).lastGood + 4096 ≤ up.clock.fclk + 0 := by unfold LogRoom; decide +kernel
theorem witness_GroupUses : GroupUses (groupAt 255 usesPort0) 0 usesPort0 ∧ ¬ GroupUses (groupAt 254 usesPort0) 0 usesPort0 := by unfold GroupUses; decide +kernel

/-- The steward runs. -/
def stewarded (s : State) : State := setReg rSTEWARD_STATE 1#32 s
def training : Link := { Link.down with state := 1, phyEnable := true, phyLocked := true }
theorem witness_LinkTraining : up.tablesWf = true ∧ hasPort 7 up = true ∧ OwnerTurn 0 1 (.retrain owner 7) up ∧ stewardRuns (topo (stewarded up)) = true ∧ stewardRuns up = false ∧ (linkAt 0 (waits linkUp0)).state = 2 ∧ (waits linkUp0).tablesWf = true ∧ alive (waits linkUp0) = true ∧ (waits linkUp0).clock.due = [] ∧ (linkAt 7 up).state = 0 ∧ OwnerTurn 0 1 (.retrain owner 0) (topo (stewarded up)) ∧ portAbsent 0 (topo (stewarded up)) = false
    ∧ (link training (topo (stewarded up))).tablesWf = true ∧ alive (link training (topo (stewarded up))) = true ∧ (linkAt 0 (link training (topo (stewarded up)))).state = 1 ∧ (linkAt 0 (link training (topo (stewarded up)))).trainGot = false ∧ (linkAt 0 (link training (topo (stewarded up)))).dying = 0#8 ∧ (link training (topo (stewarded up))).clock.due = []
    ∧ (linkAt 0 (link { training with trainSent := true, trainGot := true } (topo (stewarded up)))).trainGot = true ∧ LogRoom (link training (topo (stewarded up)))
    ∧ partnerCoords 0 (link training (topo (stewarded up))) = some [2] ∧ (0x00030001#32).toNat / 65536 = 3 ∧ portAxis 0 (link training (topo (stewarded up))) = 0 ∧ portNeg 0 (link training (topo (stewarded up))) = false := by
  unfold OwnerTurn LogRoom; decide +kernel

/-! ### Witnesses: ring legs, on definition 255: position 1 of a ring of four, port 0 forward and port 1 in reverse -/

def leg1 : Leg := { (default : Leg) with tgroup := 255, seq := 7#16, n := 4, pos := 1 }
/-- An ALLREDUCE of 128 elements whose contribution is done: one block of 32 to a piece. -/
def ringO (g : Leg) : Op := { opOf (sumD oALLREDUCE 128) with leg := some g, added := true, foldDone := true }
def onRing (o : Op) (count : Nat) : State := setLedger 5 (ledger5 count) (withOps [o] (grouped 0x1011#32 (setLink 1 linkUp0 sigUp)))
def scatterO : Op := { ringO { leg1 with stats := [(1, List.replicate 192 1#8)] } with d := sumD oREDUCE_SCATTER 128 }
theorem witness_RingSteps : (onRing (ringO leg1) 128).allWf = true ∧ alive (onRing (ringO leg1) 128) = true ∧ opAt idA (onRing (ringO leg1) 128) = some (ringO leg1) ∧ LegRuns (ringO leg1) leg1
    ∧ sendPort (groupAt leg1.tgroup (onRing (ringO leg1) 128)) false (onRing (ringO leg1) 128) = some 0 ∧ applies (.ringStepStart idA false 1 0) (onRing (ringO leg1) 128) = true
    ∧ isClosing (dOp (ringO leg1).d) = true ∧ StepFree (ringO leg1) leg1 0 1 (onRing (ringO leg1) 128) ∧ rsChunks (ringO leg1) (ledger5 128) leg1 (rsOut leg1.pos 1 4 false) false ≠ 0
    ∧ localDone (ringO leg1) = true ∧ (dirNat false, 1) ∉ leg1.started ∧ 0 < tget 0 (gotKey false (3 - 1)) { leg1 with got := [(gotKey false 2, 1)] }.got ∧ injects 3 0 (injecting 0x80000003#32 (onRing (ringO leg1) 128)) = true
    ∧ (injecting 0x80000003#32 (onRing (ringO leg1) 128)).allWf = true := by
  unfold LegRuns StepFree; decide +kernel
theorem witness_RingSteps_statistics : (onRing scatterO 128).allWf = true ∧ dOp scatterO.d = oREDUCE_SCATTER ∧ StepFree scatterO { leg1 with stats := [(1, List.replicate 192 1#8)] } 0 4 (onRing scatterO 128)
    ∧ legStats scatterO (ledger5 128) = true ∧ egHeld scatterO = false ∧ tget [] 1 [(1, List.replicate 192 1#8)] ≠ [] ∧ (0, lapKey leg1.relap 4) ∉ leg1.started
    ∧ intPath (dInFmt scatterO.d) = false ∧ alive (onRing scatterO 128) = true ∧ opAt idA (onRing scatterO 128) = some scatterO ∧ applies (.statisticsLap idA 0) (onRing scatterO 128) = true
    ∧ LegRuns scatterO { leg1 with stats := [(1, List.replicate 192 1#8)] } ∧ sendPort (groupAt 255 (onRing scatterO 128)) false (onRing scatterO 128) = some 0
    ∧ (linkAt 1 (grouped 0x1011#32 sigUp)).state ≠ 2 ∧ up.clock.transit.toNat < { leg1 with notBefore := 51#64 }.notBefore.toNat := by unfold StepFree LegRuns; decide +kernel

/-- The chunk of step 1 of the chip before: piece 3, 32 sums of 4 B. Step 1 of this chip has ended. -/
def hdrRs (seq : BitVec 16) : ChunkHdr := ⟨255, 1, false, 0, seq, 3, 0, 0, 128, 1⟩
def leg2 : Leg := { leg1 with started := [(0, 1)] }
def chunk1 (h : ChunkHdr) : List Byte := chunkWire h (List.replicate 128 0x3F#8)
def stream1 (b : List Byte) : Stream := ⟨0, b, [], true, 2, 0, true, 8980, []⟩
def receiving (b : List Byte) : State := setLink 1 { linkUp0 with streams := [(5, some (stream1 b))], rxOccupied := [2, 0, 0, 0], undel := [(1, 0, 5), (2, 0, 5)], rxSerial := 2 } (onRing (ringO leg2) 128)
theorem chunk1_eq : chunkWire (hdrRs 7#16) (List.replicate 128 0x3F#8) = hdrBytes (hdrRs 7#16) ++ List.replicate 128 0x3F#8 ++ [0x91#8, 0x36#8, 0xCA#8, 0x57#8] := by
  simp only [chunkWire, crc32c, crc32Of, foldl_crc]; decide +kernel
theorem witness_ChunksArrive : (receiving (chunk1 (hdrRs 7#16))).clock.due = [] ∧ struckSoon (ringO leg2).id (receiving (chunk1 (hdrRs 7#16))) = false ∧ (receiving (chunk1 (hdrRs 7#16))).allWf = true ∧ hasPort 1 (receiving (chunk1 (hdrRs 7#16))) = true ∧ alive (receiving (chunk1 (hdrRs 7#16))) = true
    ∧ streamAt 1 5 (receiving (chunk1 (hdrRs 7#16))) = some (stream1 (chunk1 (hdrRs 7#16))) ∧ headHdr (chunk1 (hdrRs 7#16)) = some (hdrRs 7#16) ∧ 20 + (hdrRs 7#16).len ≤ (chunk1 (hdrRs 7#16)).length
    ∧ routeOf 1 255 false (receiving (chunk1 (hdrRs 7#16))) = .ring ∧ legOp 255 7#16 (receiving (chunk1 (hdrRs 7#16))) = some (ringO leg2, leg2)
    ∧ opAt (ringO leg2).id (receiving (chunk1 (hdrRs 7#16))) = some (ringO leg2) ∧ LegRuns (ringO leg2) leg2 ∧ chanKey 1 (stream1 []).vc ∉ leg2.markers
    ∧ (ledgerAt 5 (receiving (chunk1 (hdrRs 7#16)))).holder = some (ringO leg2).id ∧ namesLedger (dOp (ringO leg2).d) = true ∧ (ledgerAt 5 (receiving (chunk1 (hdrRs 7#16)))).state = 2
    ∧ LogRoom (receiving (chunk1 (hdrRs 7#16))) := by
  unfold LegRuns LogRoom chunk1; rw [chunk1_eq]; decide +kernel
/-- The good chunk, one with a wrong check value, and a header of another piece. -/
theorem witness_ChunksArrive_checks : leNat ((chunk1 (hdrRs 7#16)).drop (16 + 128)) = (crc32c ((chunk1 (hdrRs 7#16)).take (16 + 128))).toNat ∧ (hdrRs 7#16).kind = kRS ∧ RsFits (ringO leg2) (ledger5 128) leg2 (hdrRs 7#16) ∧ ¬ RsFits (ringO leg2) (ledger5 128) leg2 { hdrRs 7#16 with piece := 2 }
    ∧ localDone (ringO leg2) = true ∧ stepStarted leg2 false 1 = true ∧ findTx leg2 false 1 = none
    ∧ leNat ([0x91#8, 0x36#8, 0xCA#8, 0x17#8] : List Byte) ≠ (crc32c ((chunk1 (hdrRs 7#16)).take (16 + 128))).toNat := by
  unfold RsFits chunk1; rw [chunk1_eq]; simp only [crc32c, crc32Of, foldl_crc]; decide +kernel

/-- The faults that such a chunk can bring, as they take effect. -/
def strikes (d : Due) : State := found d (onRing (ringO leg2) 128)
theorem witness_FoundStrikes : (strikes (.contained idA 0x30#8 (source 2 1) false)).allWf = true ∧ alive (strikes (.contained idA 0x30#8 (source 2 1) false)) = true
    ∧ (lineAt 0 (strikes (.contained idA 0x30#8 (source 2 1) false))).rangAt = none ∧ LogRoom (strikes (.contained idA 0x30#8 (source 2 1) false))
    ∧ HoldsNow idA (ringO leg2) (strikes (.contained idA 0x30#8 (source 2 1) false)) ∧ (ringO leg2).attempt < 2 ∧ HoldsNow idA (ringO leg2) (strikes (.fatal idA 0x27#8 (source 2 1)))
    ∧ (strikes (.fatal idA 0x27#8 (source 2 1))).clock.due = [(duePlace (.fatal idA 0x27#8 (source 2 1)), .fatal idA 0x27#8 (source 2 1))] := by
  unfold HoldsNow LogRoom; exact ⟨by decide +kernel, by decide, by decide, by decide, by decide +kernel, by decide, by decide +kernel, rfl⟩

/-- A step on port 0 that forwards the stream of tag 5 on port 1. -/
def fwdStep (last : Bool) : TxStep := ⟨255, 7#16, false, 5, 0, 9, [], 0, last, some (1, 5), [], 0, false, 0⟩
def forwarding (first : Nat) : State := setLink 1 { linkUp0 with streams := [(5, some { stream1 [1#8] with fwd := [1#8], firstAt := first })] } (onRing (ringO { leg1 with tx := [fwdStep false] }) 128)
/-- Its tag is 4095. -/
def ended (last : Bool) : State := setLink 0 { linkUp0 with tags := [(9, 4095)], nextSid := 10 } (onRing (ringO { leg1 with tx := [fwdStep last] }) 128)
theorem witness_ForwardingAndStepEnds : (forwarding 8988).allWf = true ∧ hasPort 1 (forwarding 8988) = true ∧ alive (forwarding 8988) = true ∧ streamAt 1 5 (forwarding 8988) = some { stream1 [1#8] with fwd := [1#8], firstAt := 8988 }
    ∧ (forwarding 8988).clock.due = [] ∧ 8988 + 12 ≤ (forwarding 8988).clock.fclk + 0 ∧ (forwarding 8989).clock.fclk + 0 < 8989 + 12 ∧ behindMarker 1 5 (forwarding 8988) = false
    ∧ legForward 1 5 (forwarding 8988) = some (ringO { leg1 with tx := [fwdStep false] }, fwdStep false) ∧ opAt idA (forwarding 8988) = some (ringO { leg1 with tx := [fwdStep false] })
    ∧ (fwdStep false).lastQueued = false ∧ runs (ringO { leg1 with tx := [fwdStep false] }) = true ∧ [1#8].length + (fwdStep false).buf.length ≤ forwardRoom 0 (forwarding 8988)
    ∧ (ended true).allWf = true ∧ (ended true).clock.due = [] ∧ opAt idA (ended true) = some (ringO { leg1 with tx := [fwdStep true] }) ∧ (fwdStep true).lastQueued = true
    ∧ stepTag (fwdStep true).sid (linkAt 0 (ended true)) = some 4095 ∧ (∀ f ∈ flitsOf 0 (ended true), f.kind = fkDATA → f.step ≠ (fwdStep true).sid) := by decide +kernel

/-- A RECALL of the leg on channel 3, not heard before; its echo; and one that is due. -/
def recallIn (g : Leg) : State := setLink 0 { linkUp0 with rxCtl := [⟨3, 1, recallMsg 255 7#16 0x30#8, []⟩] } (onRing (ringO g) 128)
def due : Leg := { leg1 with recallAt := some 0x30#8, notBefore := 50#64 }
theorem txq_four (s : State) (h : ∀ x ∈ s.links, x.2.txq.length = 4) : ∀ p, (linkAt p s).txq.length = 4 := by
  intro p
  have key : ∀ t : Table Link, (∀ x ∈ t, x.2.txq.length = 4) → (tget Link.down p t).txq.length = 4 := by
    intro t ht
    induction t with
    | nil => rfl
    | cons x t ih =>
      obtain ⟨k, v⟩ := x
      rw [tget]
      split
      · exact ht (k, v) (by simp)
      · exact ih fun y hy => ht y (by simp [hy])
  exact key s.links h
theorem witness_RecallsOfLegs : (recallIn leg1).allWf = true ∧ hasPort 0 (recallIn leg1) = true ∧ alive (recallIn leg1) = true ∧ (recallIn leg1).clock.due = [] ∧ HeadMessage 0 0x04#8 ⟨3, 1, recallMsg 255 7#16 0x30#8, []⟩ (recallIn leg1)
    ∧ legOp 255 7#16 (recallIn leg1) = some (ringO leg1, leg1) ∧ opAt idA (recallIn leg1) = some (ringO leg1) ∧ (∀ p, (linkAt p (recallIn leg1)).txq.length = 4) ∧ 0 ∉ leg1.recallEcho ∧ leg1.recallAt = none
    ∧ 0 ∈ { leg1 with recallEcho := [0, 1] }.recallEcho ∧ (onRing (ringO due) 128).allWf = true ∧ opAt idA (onRing (ringO due) 128) = some (ringO due) ∧ runs (ringO due) = true ∧ due.recallAt = some 0x30#8
    ∧ due.notBefore.toNat ≤ (onRing (ringO due) 128).clock.transit.toNat ∧ applies (.recallOp idA 0) (onRing (ringO due) 128) = true :=
  ⟨by decide +kernel, by decide, by decide, by decide, ⟨[], by decide⟩, by decide +kernel, by decide +kernel, txq_four _ (by decide +kernel), by decide, by decide, by decide, by decide +kernel, by decide +kernel, by decide +kernel, by decide, by decide, by decide +kernel⟩

/-- An ALLTOALL whose pieces are all empty has nothing to wait for; an ALLREDUCE that has just started has. -/
def emptyA2a : Leg := { leg1 with sizes := List.replicate 16 0#32 }
def a2aO : Op := { opOf (descL oALLTOALL 0 7 5 16 []) with leg := some emptyA2a }
theorem witness_VerdictPasses : (onRing a2aO 16).allWf = true ∧ alive (onRing a2aO 16) = true ∧ legOp 255 7#16 (onRing a2aO 16) = some (a2aO, emptyA2a) ∧ 1 < emptyA2a.n ∧ LegRuns a2aO emptyA2a
    ∧ applies (.verdictPass 255 7#16) (onRing a2aO 16) = true ∧ egHeld a2aO = false ∧ a2aO.eg.spec = false ∧ emptyA2a.tx = [] ∧ (∀ x ∈ (onRing a2aO 16).links, ∀ r ∈ x.2.relays, r.group = 255 → r.seq ≠ 7#16)
    ∧ legReceived a2aO (ledger5 16) emptyA2a = true ∧ legSent a2aO (ledger5 16) emptyA2a = true ∧ legReceived (ringO leg1) (ledger5 128) leg1 = false := by unfold LegRuns; decide +kernel

/-- An ALLTOALL on this ring: the send image has come, and the table gives each position its range, of which position 1 receives lowest; then its one step has started; then the piece of position 0, whose range is the lowest, has come in one chunk. -/
def a2aTable (l : List Nat) : List Word := l.map (BitVec.ofNat 32)
def a2aOut (g : Leg) : Op := { opOf (descL oALLTOALL 0 7 5 16 []) with leg := some g, beats := beatsOf [0, 1, 2, 3], passed := passOf [0, 1, 2, 3] }
def a2aOn (g : Leg) : State := onRing (a2aOut g) 16
def ownLow : Leg := { leg1 with sizes := a2aTable [48, 16, 16, 16, 0, 16, 0, 16, 16, 32, 32, 16, 16, 16, 48, 16] }
def a2aTx : TxStep := ⟨255, 7#16, false, 1, 0, 9, [], 0, false, none, [], 0, false, 0⟩
def sendingLeg : Leg := { ownLow with delivered := [1], started := [(0, 1)], tx := [a2aTx] }
def takingLeg : Leg := { leg1 with sizes := a2aTable [16, 16, 0, 32, 0, 16, 48, 16, 16, 32, 0, 0, 16, 16, 32, 16], delivered := [1], started := [(0, 1)] }
def hdrA2a : ChunkHdr := { hdrRs 7#16 with kind := kA2A, content := 5, piece := 1, src := 0, len := 128 }
def pieceIn : List Byte := hdrBytes hdrA2a ++ List.replicate 128 0x3F#8 ++ [232#8, 132#8, 75#8, 30#8]
def takingS : State := setLink 1 { linkUp0 with streams := [(5, some (stream1 pieceIn))], rxOccupied := [2, 0, 0, 0], undel := [(1, 0, 5), (2, 0, 5)], rxSerial := 2 } (a2aOn takingLeg)
theorem witness_AlltoallExchange : A2aReady idA (a2aOut ownLow) ownLow (a2aOn ownLow) ∧ allBeats (a2aOut ownLow) = true ∧ ownLow.tx = [] ∧ ownLow.beatsOut = [] ∧ (a2aOut ownLow).eg.ended = false
    ∧ ownLow.pos ∉ ownLow.delivered ∧ 0 < a2aEntry ownLow 1 3 ∧ (∀ k, k < 4 → k ≠ 1 → 0 < a2aEntry ownLow k 3 → a2aEntry ownLow 1 2 + a2aEntry ownLow 1 3 ≤ a2aEntry ownLow k 2) := by
  unfold A2aReady; decide +kernel
theorem witness_AlltoallExchange_sending : A2aReady idA (a2aOut sendingLeg) sendingLeg (a2aOn sendingLeg) ∧ findTx sendingLeg false 1 = some a2aTx ∧ (linkAt 0 (a2aOn sendingLeg)).txq.length = 4
    ∧ (linkAt 0 (a2aOn sendingLeg)).txq.flatten = [] ∧ injects 3 0 (a2aOn sendingLeg) = false ∧ a2aPieces sendingLeg false = [2, 3, 0] := by unfold A2aReady; decide +kernel
theorem witness_AlltoallExchange_taking : A2aReady idA (a2aOut takingLeg) takingLeg takingS ∧ streamAt 1 5 takingS = some (stream1 pieceIn) ∧ headHdr pieceIn = some hdrA2a ∧ 20 + hdrA2a.len ≤ pieceIn.length
    ∧ routeOf 1 255 false takingS = .ring ∧ legOp 255 7#16 takingS = some (a2aOut takingLeg, takingLeg) ∧ chanKey 1 0 ∉ takingLeg.markers ∧ struckSoon idA takingS = false
    ∧ leNat ((pieceIn.drop (16 + 128)).take 4) = (crc32c (pieceIn.take (16 + 128))).toNat ∧ hdrA2a.len = a2aBytes (dInFmt (a2aOut takingLeg).d) (a2aEntry takingLeg 0 3) ∧ a2aImg takingLeg 0 = []
    ∧ hdrA2a.piece = takingLeg.pos ∧ 0 ∉ takingLeg.delivered := by
  unfold A2aReady; simp only [crc32c, crc32Of, foldl_crc]; decide +kernel
theorem witness_AlltoallExchange_lowest : takingLeg.beatsOut = [] ∧ (∀ k, k < 4 → k ≠ 0 → 0 < a2aEntry takingLeg k 3 → a2aEntry takingLeg 0 2 + a2aEntry takingLeg 0 3 ≤ a2aEntry takingLeg k 2) := by decide

/-! ### Witnesses: faults -/

def summing (n : Nat) : Op := { opOf (sumD oALLREDUCE 16) with attempt := n }
theorem witness_FaultDetections : (run5 (summing 1) 16).allWf = true ∧ alive (run5 (summing 1) 16) = true ∧ LogRoom (run5 (summing 1) 16) ∧ HoldsNow idA (summing 1) (run5 (summing 1) 16)
    ∧ applies (.faultDetect 0x31#8 1#16 (.opPage idA)) (run5 (summing 1) 16) = true ∧ applies (.faultDetect 0x32#8 1#16 .fabric) (run5 (summing 1) 16) = true ∧ (summing 1).attempt < 2 ∧ ¬ (summing 2).attempt < 2
    ∧ applies (.faultDetect 0x33#8 0x7003#16 (.seamBeat 3 idA)) (run5 (summing 1) 16) = true
    ∧ (ledgerAt (5#12).toNat (setLedger 5 open5 up)).state = 1 ∧ (ledgerAt (5#12).toNat (setLedger 5 open5 up)).holder = none ∧ applies (.faultDetect 0x33#8 1#16 (.ledgerPage 5#12)) (setLedger 5 open5 up) = true := by
  unfold LogRoom HoldsNow; decide +kernel
def replaying (resend : Bool) : Op := { summing 1 with replay := some resend, struck := some 49#64, beats := beatsOf [0, 1] }
theorem witness_ContainedReplays : (run5 (replaying true) 16).allWf = true ∧ alive (run5 (replaying true) 16) = true ∧ isContained (0x31#8).toNat = true ∧ opAt idA (run5 (replaying true) 16) = some (replaying true)
    ∧ (replaying true).comparing = false ∧ (replaying true).fail = none ∧ (replaying true).leg = none ∧ (replaying true).replay = some true ∧ (replaying false).replay = some false
    ∧ applies (.containedReplay idA 0x31#8 1#16) (run5 (replaying true) 16) = true := by decide +kernel
def stuck (n : Nat) : Op := { summing 0 with idle := n }
def watched (n : Nat) : State := setReg rWATCHDOG 100#32 (run5 (stuck n) 16)
theorem witness_LedgerFatals : (setLedger 5 open5 up).allWf = true ∧ alive (setLedger 5 open5 up) = true ∧ isLedgerFatal (0x35#8).toNat = true ∧ LogRoom (setLedger 5 open5 up)
    ∧ applies (.ledgerFatal 5#12 0x35#8 0#16) (setLedger 5 open5 up) = true ∧ HoldsNow idA (stuck 100) (watched 100) ∧ dLedger (stuck 100).d = (5#12).toNat ∧ (ledgerAt (6#12).toNat (setLedger 5 open5 up)).state = 0
    ∧ (watched 100).allWf = true ∧ LogRoom (watched 100) ∧ applies (.watchdog idA) (watched 100) = true ∧ regNat rWATCHDOG (watched 100) ≠ 0 ∧ regNat rWATCHDOG (watched 100) ≤ (stuck 100).idle
    ∧ (stuck 99).idle < regNat rWATCHDOG (watched 99)
    ∧ memHolds (stuck 100) (watched 100) = false ∧ memHolds (stuck 100) (mem1 (writing (.saveWrite idA)) (watched 100)) = true := by unfold LogRoom HoldsNow; decide +kernel
theorem witness_FabricFatals : (run5 (summing 0) 16).allWf = true ∧ alive (run5 (summing 0) 16) = true ∧ LogRoom (run5 (summing 0) 16) ∧ applies (.fabricFatal 0xF0#8 1#16) (run5 (summing 0) 16) = true
    ∧ applies (.faultDetect 0xF1#8 1#16 .fabric) (run5 (summing 0) 16) = true ∧ reg rFATAL_CODE (run5 (summing 0) 16) = 0#32 ∧ reg rFATAL_CODE (setReg rFATAL_CODE 0xF2#32 up) ≠ 0#32 := by unfold LogRoom; decide +kernel
/-- A fabric-fatal fault has been entered in this transit. -/
def fatalS : State := { run5 (summing 0) 16 with clock := { (run5 (summing 0) 16).clock with fabFault := true, fabReady := false } }
theorem witness_FabricFatals_edge : fatalS.allWf = true ∧ fatalS.clock.rstN = true ∧ fatalS.clock.held = [] ∧ fatalS.clock.due = [] ∧ fatalS.boot.applying = none ∧ boundaryFits (regNat rFREE_CYCLES fatalS) 64 fatalS = true := by decide +kernel
def inject (w : Word) : State := setReg rINJECT w up
/-- Kinds 1 and 2 on plane 0, where the operation has written a word or not. -/
def wrote (w : Word) : State := setReg rINJECT w (run5 { summing 0 with fresh := [(0, some 0x4080000000000000#64)] } 16)
theorem witness_InjectionsFire_words : (wrote 0x80000001#32).allWf = true ∧ serving (wrote 0x80000001#32) = true ∧ applies (.injectFire (some idA)) (wrote 0x80000001#32) = true
    ∧ wroteWord { summing 0 with fresh := [(0, some 0x4080000000000000#64)] } 0 (wrote 0x80000001#32) = true ∧ wroteWord (summing 0) 0 (setReg rINJECT 0x80000001#32 (run5 (summing 0) 16)) = false
    ∧ HoldsNow idA { summing 0 with fresh := [(0, some 0x4080000000000000#64)] } (wrote 0x80000002#32) ∧ wrotePage { summing 0 with fresh := [(0, some 0x4080000000000000#64)] } 0 (wrote 0x80000002#32) = true
    ∧ LogRoom (wrote 0x80000002#32) := by unfold HoldsNow LogRoom; decide +kernel
theorem witness_InjectionsFire : (inject 0x80000301#32).allWf = true ∧ serving (inject 0x80000301#32) = true ∧ LogRoom (inject 0x80000301#32) ∧ applies (.injectFire none) (inject 0x80000301#32) = true
    ∧ bitOf (reg rINJECT (inject 0x80000301#32)) 31 = true ∧ fieldOf 0x80000301#32 0 4 = 1 ∧ hasPlane (fieldOf 0x80000301#32 8 3) (inject 0x80000301#32) = true ∧ bitOf (reg rINJECT (inject 1#32)) 31 = false
    ∧ fieldOf 0x80000703#32 0 4 = 3 ∧ fieldOf 0x80000704#32 0 4 = 4 ∧ hasPort (fieldOf 0x80000704#32 8 3) (inject 0x80000704#32) = true := by unfold LogRoom; decide +kernel

/-! ### Witnesses: the binocular pair -/

/-- A paired block: BINO_STATE as given, in service. -/
def sides (w : Word) (s : State) : State := setReg rBINO_STATE w { s with build := { s.build with paired := true } }
def split : Op := { summing 0 with comparing := true, replay := some false }
theorem witness_BinocularMismatches : (sides 1#32 (run5 (summing 1) 16)).allWf = true ∧ alive (sides 1#32 (run5 (summing 1) 16)) = true ∧ (sides 1#32 (run5 (summing 1) 16)).build.paired = true
    ∧ LogRoom (sides 1#32 (run5 (summing 1) 16)) ∧ binoPaired (sides 1#32 (run5 (summing 1) 16)) = true ∧ HoldsNow idA (summing 1) (sides 1#32 (run5 (summing 1) 16)) ∧ (summing 1).save = none
    ∧ applies (.binoMismatch (.ringFlit idA 0)) (sides 1#32 (run5 (summing 1) 16)) = true ∧ (sides 1#32 (run5 split 16)).allWf = true ∧ opAt idA (sides 1#32 (run5 split 16)) = some split ∧ split.comparing = true
    ∧ split.fail = none ∧ split.replay = some false ∧ split.leg = none ∧ namesLedger (dOp split.d) = true ∧ (ledgerAt 5 (sides 1#32 (run5 split 16))).holder = some idA
    ∧ (ledgerAt 5 (sides 1#32 (run5 split 16))).state = 2 ∧ applies (.binoStateCompare idA true) (sides 1#32 (run5 split 16)) = true ∧ applies (.binoStateCompare idA false) (sides 1#32 (run5 split 16)) = true
    ∧ applies (.lateMismatch (some 5#12)) (sides 1#32 up) = true := by unfold LogRoom HoldsNow; decide +kernel
/-- The same with a leg, whose step on port 0 differs. -/
def differs : Op := ringO { leg1 with tx := [fwdStep false] }
def differS : State := sides 1#32 (setLink 0 { linkUp0 with txq := [[⟨1, 9, false, 255, [1#8]⟩], [], [], []] } (onRing differs 128))
theorem witness_BinocularMismatches_leg : differS.allWf = true ∧ alive differS = true ∧ LogRoom differS ∧ binoPaired differS = true ∧ HoldsNow idA differs differS ∧ differs.attempt < 2 ∧ differs.save = none
    ∧ applies (.binoMismatch (.ringFlit idA 0)) differS = true ∧ differs.leg = some { leg1 with tx := [fwdStep false] } ∧ differingStep { leg1 with tx := [fwdStep false] } 0 differS = some (fwdStep false) := by
  unfold LogRoom HoldsNow; decide +kernel
/-- A write of the operation that differed. -/
def writeDiffers : State := { mem1 (writing (.saveWrite idA)) (sides 1#32 (run5 (summing 1) 16)) with out := [.memWrite 255 0x20000 1 0, .memWData 0#1024 1#4 true] }
theorem witness_BinocularMismatches_write : writeDiffers.allWf = true ∧ alive writeDiffers = true ∧ LogRoom writeDiffers ∧ HoldsNow idA (summing 1) writeDiffers ∧ applies (.binoMismatch (.memWrite idA 255#8)) writeDiffers = true
    ∧ (writeDiffers.mem.find? fun r => r.write && r.id == (255#8).toNat && purposeOp r.purpose == some idA) = some (writing (.saveWrite idA)) := by unfold LogRoom HoldsNow; decide +kernel
def takesOver : State := found (.takeover false) (sides 1#32 up)
theorem witness_BinocularSides_takeover : takesOver.allWf = true ∧ alive takesOver = true ∧ (lineAt 0 takesOver).rangAt = none ∧ takesOver.clock.due = [(duePlace (.takeover false), .takeover false)] ∧ binoPaired takesOver = true
    ∧ bitOf (reg rBINO_STATE takesOver) 4 = false ∧ (∀ o ∈ takesOver.ops, o.eg.shown = false) := by decide
def repairs : State := found .repaired (sides 2#32 up)
theorem witness_PairAgain : repairs.allWf = true ∧ alive repairs = true ∧ repairs.build.paired = true ∧ (lineAt 0 repairs).rangAt = none ∧ 2 ≤ binoState repairs ∧ repairs.clock.due = [(duePlace .repaired, .repaired)]
    ∧ LogRoom repairs ∧ placeLe repairs.clock.reached ⟨2, [0x85, (source 8 (if bitOf (reg rBINO_STATE repairs) 4 then 0 else 1)).toNat]⟩ = true := by unfold LogRoom; decide +kernel
theorem witness_BinocularSides : (sides 1#32 up).allWf = true ∧ alive (sides 1#32 up) = true ∧ isFabricCode (0xF0#8).toNat = true ∧ LogRoom (sides 1#32 up) ∧ applies (.sideFault true 0xF0#8) (sides 1#32 up) = true
    ∧ binoPaired (sides 1#32 up) = true ∧ bitOf (reg rBINO_POLICY (sides 1#32 up)) 0 = false ∧ (∀ o ∈ (sides 1#32 up).ops, o.eg.shown = false) ∧ bitOf (reg rBINO_POLICY (setReg rBINO_POLICY 1#32 (sides 1#32 up))) 0 = true
    ∧ binoPaired (sides 2#32 up) = false ∧ bitOf (reg rBINO_STATE (sides 2#32 up)) 4 ≠ true ∧ bitOf (reg rBINO_STATE (sides 0x13#32 up)) 4 = true ∧ binoPaired (sides 0x13#32 up) = false
    ∧ OwnerTurn 0 1 (.takeover owner) (sides 1#32 up) ∧ OwnerTurn 0 1 (.repair owner) (sides 0x13#32 up) ∧ OwnerTurn 0 1 (.repairWithdraw owner) (sides 0x33#32 up) ∧ 2 ≤ binoState (sides 0x13#32 up)
    ∧ binoState (sides 1#32 up) < 2 := by unfold OwnerTurn LogRoom; decide +kernel

/-! ### Witnesses: what every step keeps -/

def front (c : Instr) (s : State) : State := { s with pending := [c] }
def fullLog : State := { up with log := { up.log with entries := List.replicate 31 default ++ [{ (default : LogEntry) with cls := 4 }] } }
theorem witness_StepKeepsTables : (front (.bellRing 15) mustered).tablesWf = true ∧ (front (.bellRing 15) mustered).allWf = true ∧ (∃ t, step (front (.bellRing 15) mustered) = .next t) ∧ Build.reference.wf = true
    ∧ ({ Build.reference with paired := true, log2Leaves := 10, planes := 8, ringPorts := 0, seams := 3, mgmtPorts := 1 } : Build).wf = true ∧ ({ Build.reference with log2Leaves := 4, seams := 2 } : Build).wf = false := ⟨by decide, by decide, ⟨_, rfl⟩, by decide, by decide, by decide⟩
theorem witness_LogKeepsItsBounds : (∃ t, step (front (.fabricFatal 0xF0#8 0#16) fullLog) = .next t) ∧ fullLog.log.entries.length ≤ 32 ∧ (∀ e, fullLog.log.entries[31]? = some e → e.cls = 4)
    ∧ fullLog.log.entries[31]? = some { (default : LogEntry) with cls := 4 } :=
  ⟨⟨_, rfl⟩, by decide, fun e h => by rw [show fullLog.log.entries[31]? = some { (default : LogEntry) with cls := 4 } from by decide] at h; cases h; rfl, by decide⟩
end Sys2Proof.Tests
end

section
/-! PROOF. Frames: which pieces of state an update may change, and how the frames of successive updates add up; and a command that applies now is its meaning run at its place. -/

namespace Sys2Proof.Machine

section
variable {s t u : State} {ps qs : List Part}

/-! ### Frames add up -/

theorem Part.same_trans {p : Part} (h : p.same s t) (h' : p.same t u) : p.same s u := by
  cases p with
  | clock =>
    have hu : { u.clock with reached := s.clock.reached, held := s.clock.held, due := s.clock.due, found := s.clock.found }
        = { t.clock with reached := s.clock.reached, held := s.clock.held, due := s.clock.due, found := s.clock.found } := by
      rw [← show _ = t.clock from h']
    exact hu.trans h
  | _ => exact Eq.trans h' h

theorem OnlyChanges.refl (s : State) : OnlyChanges ps s s := fun p _ => by cases p <;> rfl

theorem OnlyChanges.trans (h : OnlyChanges ps s t) (h' : OnlyChanges ps t u) : OnlyChanges ps s u :=
  fun p hp => Part.same_trans (h p hp) (h' p hp)

theorem OnlyChanges.mono (h : OnlyChanges ps s t) (hq : ps ⊆ qs) : OnlyChanges qs s t :=
  fun p hp => h p fun hm => hp (hq hm)

/-- One update more, of pieces that the frame already names. -/
theorem OnlyChanges.then (h : OnlyChanges qs s t) (h' : OnlyChanges ps t u) (hq : ps ⊆ qs) : OnlyChanges qs s u :=
  h.trans (h'.mono hq)

/-! ### The frame of each update -/

theorem setStall_onlyChanges (n : Nat) (v : StallSt) (s : State) : OnlyChanges [.stalls] s (setStall n v s) := by
  intro p hp
  cases p <;> simp [Part.same] at hp ⊢

theorem present_onlyChanges (o : PortOut) (s : State) : OnlyChanges [.out] s (present o s) := by
  intro p hp
  cases p <;> simp [Part.same] at hp ⊢

theorem setTally_onlyChanges (n i : Nat) (v : Word) (s : State) : OnlyChanges [.tallies] s (setTally n i v s) := by
  intro p hp
  cases p <;> simp [Part.same, setTally] at hp ⊢

theorem setReg_onlyChanges (a : Nat) (v : Word) (s : State) : OnlyChanges [.regs] s (setReg a v s) := by
  intro p hp
  cases p <;> simp [Part.same] at hp ⊢

theorem count_onlyChanges (a n : Nat) (s : State) : OnlyChanges [.regs] s (count a n s) := setReg_onlyChanges _ _ s

theorem setReg64_onlyChanges (a : Nat) (v : Word64) (s : State) : OnlyChanges [.regs] s (setReg64 a v s) :=
  OnlyChanges.trans (setReg_onlyChanges _ _ s) (setReg_onlyChanges _ _ _)

theorem setLatch_onlyChanges (a : Nat) (v : Option Word) (s : State) : OnlyChanges [.hiLatch] s (setLatch a v s) := by
  intro p hp
  cases p <;> simp [Part.same] at hp ⊢

theorem setLink_onlyChanges (n : Nat) (v : Link) (s : State) : OnlyChanges [.links] s (setLink n v s) := by
  intro p hp
  cases p <;> simp [Part.same] at hp ⊢

theorem closeSourceChain_onlyChanges (src : BitVec 16) (s : State) : OnlyChanges [.log] s (closeSourceChain src s) := by
  intro p hp
  cases p <;> simp [Part.same] at hp ⊢

theorem takeTurn_onlyChanges {c : Instr} (hc : inputOf c = none) (p : Place) (s : State) : OnlyChanges [.reached] s (takeTurn c p s) := by
  intro q hq
  cases q <;> simp [Part.same, takeTurn, hc] at hq ⊢

theorem atPlace_onlyChanges {c : Instr} (hc : inputOf c = none) (s : State) : OnlyChanges [.reached] s (atPlace c s) := by
  unfold atPlace
  split
  · exact .refl s
  · exact takeTurn_onlyChanges hc _ s

theorem atPlace_tablesWf (c : Instr) (s : State) : (atPlace c s).tablesWf = s.tablesWf := by
  unfold atPlace
  split <;> rfl

/-! ### What a frame keeps -/

theorem OnlyChanges.reg_eq {ps : List Part} (h : OnlyChanges ps s t) (hp : .regs ∉ ps) (a : Nat) : reg a t = reg a s := by
  unfold reg
  rw [show t.regs = s.regs from h .regs hp]

theorem OnlyChanges.reg64_eq {ps : List Part} (h : OnlyChanges ps s t) (hp : .regs ∉ ps) (a : Nat) : reg64 a t = reg64 a s := by
  simp only [reg64, h.reg_eq hp]

theorem OnlyChanges.tally_eq {ps : List Part} (h : OnlyChanges ps s t) (hp : .tallies ∉ ps) (n i : Nat) : tally n i t = tally n i s := by
  unfold tally
  rw [show t.tabs.tallies = s.tabs.tallies from h .tallies hp]

theorem OnlyChanges.stallAt_eq {ps : List Part} (h : OnlyChanges ps s t) (hp : .stalls ∉ ps) (n : Nat) : stallAt n t = stallAt n s := by
  unfold stallAt
  rw [show t.stalls = s.stalls from h .stalls hp]

theorem OnlyChanges.serving_eq {ps : List Part} (h : OnlyChanges ps s t) (hp : .clock ∉ ps) : serving t = serving s := by
  unfold serving alive
  rw [← show _ = s.clock from h .clock hp]

/-! ### Tables of a state in canonical form -/

theorem regs_wf (h : s.tablesWf = true) : tableWfBy regReset s.regs = true := by
  simp only [State.tablesWf, Bool.and_eq_true, regsWf] at h
  tauto

theorem hiLatch_wf (h : s.tablesWf = true) : tableWf none s.hiLatch = true := by
  simp only [State.tablesWf, Bool.and_eq_true] at h
  tauto

theorem tally_wf (h : s.tablesWf = true) : tableWf 0#32 s.tabs.tallies = true := by
  simp only [State.tablesWf, Tabs.wf, Bool.and_eq_true] at h
  tauto

theorem stalls_wf (h : s.tablesWf = true) : tableWf StallSt.quiet s.stalls = true := by
  simp only [State.tablesWf, Bool.and_eq_true] at h
  tauto

theorem allWf_tablesWf (h : s.allWf = true) : s.tablesWf = true := by
  simp only [State.allWf, Bool.and_eq_true] at h
  tauto

theorem links_wf (h : s.allWf = true) : tableWf Link.down s.links = true := by
  simp only [State.allWf, State.tablesWf, Bool.and_eq_true] at h
  tauto

end

/-! ### A command that applies now (R216) -/

section
variable {c : Instr} {f : State → State} {s : State} {P : State → Prop}

theorem settle_none (h : s.clock.due = []) : settle none s = s := by
  have hs : { s with clock := { s.clock with due := [] } } = s := by rw [← h]
  unfold settle
  simp only [h, List.filter_nil, List.foldl_nil, hs]

theorem settle_some {p : Place} (h : ∀ x ∈ s.clock.due, placeLe x.1 p = false) : settle (some p) s = s := by
  have h0 : s.clock.due.filter (fun x => placeLe x.1 p) = [] := List.filter_eq_nil_iff.2 fun x hx => by simp [h x hx]
  have h1 : s.clock.due.filter (fun x => !placeLe x.1 p) = s.clock.due := List.filter_eq_self.2 fun x hx => by simp [h x hx]
  unfold settle
  simp only [h0, h1, List.foldl_nil]

/-- Nothing is due before a command that applies now, and its place has not passed. -/
theorem inTransit_of_applies (h : applies c s = true) : inTransit c f s = f (atPlace c s) := by
  unfold applies at h
  unfold inTransit atPlace
  split at h
  · exact congrArg f (settle_none (List.isEmpty_iff.1 h))
  · obtain ⟨hn, hd⟩ := Bool.and_eq_true_iff.1 h
    simp only [settle_some (fun x hx => by simpa using List.all_eq_true.1 hd x hx), hn, if_true]

theorem answers_onStall {stall : Nat} (he : exec c s = onStall stall c f s) (hs : hasStall stall s = true) (ha : applies c s = true)
    (hP : P (f (atPlace c s))) : Answers c s P :=
  ⟨_, by rw [he, onStall, if_pos hs, inTransit_of_applies ha], hP⟩

theorem answers_onPort {port : Nat} (he : exec c s = onPort port c f s) (hp : hasPort port s = true)
    (ha : applies c s = true) (hP : P (f (atPlace c s))) : Answers c s P :=
  ⟨_, by rw [he, onPort, if_pos hp, inTransit_of_applies ha], hP⟩

end

end Sys2Proof.Machine
end

section
/-! PROOF. The test of a pending WAIT or TAKE (R40 to R42, R310, R446). -/

namespace Sys2Proof.Machine

/-! ### What the tally port reads and writes -/

section
variable {s t : State}

theorem OnlyChanges.tallyReady_eq {ps : List Part} (h : OnlyChanges ps s t) (hc : .clock ∉ ps) (hp : .stalls ∉ ps) (n : Nat) :
    tallyReady n t = tallyReady n s := by
  unfold tallyReady
  rw [h.serving_eq hc, h.stallAt_eq hp]

end

/-! ### The test (R310) -/

section
variable {s a t : State} {stall : Nat} {p : Pend}

/-- A test of the pending request in `s`, at its place, has left `t`: where the threshold is met it is acknowledged with what the tally then holds, else it stays pending. -/
def Tested (stall : Nat) (p : Pend) (s t : State) : Prop :=
  let v := tally stall p.idx s
  let left := if reachedBy v p.arg && p.take then v - p.arg else v
  (if reachedBy v p.arg then Acked stall left 0 s t ∧ (stallAt stall t).pend = none else t.out = s.out ∧ (stallAt stall t).pend = some p)
    ∧ tally stall p.idx t = left ∧ TalliesKeep stall p.idx s t ∧ StallsKeep stall s t ∧ OnlyChanges [.reached, .stalls, .tallies, .out] s t

theorem stallAt_setPend_self {q : Option Pend} (h : tableWf StallSt.quiet s.stalls = true) :
    stallAt stall (setPend stall q s) = { stallAt stall s with pend := q } := stallAt_setStall_self h

theorem setPend_stallsKeep (stall : Nat) (q : Option Pend) (s : State) : StallsKeep stall s (setPend stall q s) :=
  fun _ hn => stallAt_setStall_ne hn

theorem setPend_onlyChanges (stall : Nat) (q : Option Pend) (s : State) : OnlyChanges [.stalls] s (setPend stall q s) :=
  setStall_onlyChanges _ _ s

theorem tallyTest_unmet (h : reachedBy (tally stall p.idx s) p.arg = false) : tallyTest stall p s = setPend stall (some p) s := by
  simp [tallyTest, h]

theorem tallyTest_wait (h : reachedBy (tally stall p.idx s) p.arg = true) (hp : p.take = false) :
    tallyTest stall p s = present (.tlyAck stall (tally stall p.idx s) stDone) (setPend stall none s) := by
  simp [tallyTest, h, hp]

theorem tallyTest_take (h : reachedBy (tally stall p.idx s) p.arg = true) (hp : p.take = true) :
    tallyTest stall p s
      = present (.tlyAck stall (tally stall p.idx s - p.arg) stDone) (setTally stall p.idx (tally stall p.idx s - p.arg) (setPend stall none s)) := by
  simp [tallyTest, h, hp]

theorem tallyTest_tested (hw : s.tablesWf = true) (hi : p.idx < 48) : Tested stall p s (tallyTest stall p s) := by
  have hst := stalls_wf hw
  have hpend := setPend_onlyChanges stall
  cases hm : reachedBy (tally stall p.idx s) p.arg with
  | false =>
    rw [tallyTest_unmet hm]
    simp only [Tested, hm]
    exact ⟨⟨rfl, by rw [stallAt_setPend_self hst]⟩, rfl, fun _ _ _ _ => rfl, setPend_stallsKeep _ _ s, (hpend _ s).mono (by decide)⟩
  | true =>
    cases hp : p.take with
    | false =>
      rw [tallyTest_wait hm hp]
      simp only [Tested, hm, hp]
      exact ⟨⟨rfl, congrArg StallSt.pend (stallAt_setPend_self hst)⟩, rfl, fun _ _ _ _ => rfl, setPend_stallsKeep _ _ s,
        ((hpend _ s).mono (by decide)).then (present_onlyChanges _ _) (by decide)⟩
    | true =>
      rw [tallyTest_take hm hp]
      simp only [Tested, hm, hp]
      refine ⟨⟨rfl, congrArg StallSt.pend (stallAt_setPend_self hst)⟩, tally_setTally_self (s := setPend stall none s) (show tableWf 0#32 s.tabs.tallies = true from tally_wf hw),
        fun n j hj hne => tally_setTally_ne (by omega) hj hne, setPend_stallsKeep _ _ s, ?_⟩
      exact (((hpend _ s).mono (by decide)).then (setTally_onlyChanges _ _ _ _) (by decide)).then (present_onlyChanges _ _) (by decide)

/-- A WAIT consumes nothing: its test writes no tally. -/
theorem tallyTest_wait_onlyChanges (hp : p.take = false) : OnlyChanges [.stalls, .out] s (tallyTest stall p s) := by
  cases hm : reachedBy (tally stall p.idx s) p.arg with
  | false =>
    rw [tallyTest_unmet hm]
    exact (setPend_onlyChanges _ _ s).mono (by decide)
  | true =>
    rw [tallyTest_wait hm hp]
    exact ((setPend_onlyChanges _ _ s).mono (by decide)).then (present_onlyChanges _ _) (by decide)

/-- A cancel in `s` has withdrawn the pending request, which consumes nothing (R41). -/
def Withdrawn (stall : Nat) (p : Pend) (s t : State) : Prop :=
  Acked stall (tally stall p.idx s) stCancelled s t ∧ (stallAt stall t).pend = none ∧ (∀ n i, tally n i t = tally n i s) ∧ StallsKeep stall s t
    ∧ OnlyChanges [.reached, .stalls, .out] s t

theorem setPend_none_withdrawn (hw : s.tablesWf = true) :
    Withdrawn stall p s (present (.tlyAck stall (tally stall p.idx s) stCancelled) (setPend stall none s)) :=
  ⟨rfl, congrArg StallSt.pend (stallAt_setPend_self (stalls_wf hw)), fun _ _ => rfl, setPend_stallsKeep _ _ s,
    ((setPend_onlyChanges _ _ s).mono (by decide)).then (present_onlyChanges _ _) (by decide)⟩

theorem tallyRetestApply_pending (hsv : serving s = true) (hp : (stallAt stall s).pend = some p) : tallyRetestApply stall s = tallyTest stall p s := by
  simp [tallyRetestApply, hsv, hp]

theorem tlyCancelApply_pending (hsv : serving s = true) (hp : (stallAt stall s).pend = some p) :
    tlyCancelApply stall s = if reachedBy (tally stall p.idx s) p.arg then tallyTest stall p s
      else present (.tlyAck stall (tally stall p.idx s) stCancelled) (setPend stall none s) := by
  simp [tlyCancelApply, hsv, hp]

/-- The place of the command that makes the test does not matter to what it finds. -/
theorem Tested.of_atPlace (h : OnlyChanges [.reached] s a) (ht : Tested stall p a t) : Tested stall p s t := by
  have hv : ∀ n i, tally n i a = tally n i s := h.tally_eq (by decide)
  have hs : ∀ n, stallAt n a = stallAt n s := h.stallAt_eq (by decide)
  have ho : a.out = s.out := h .out (by decide)
  simp only [Tested, Acked, TalliesKeep, StallsKeep, hv, hs, ho] at ht ⊢
  obtain ⟨hack, hleft, htal, hst, hc⟩ := ht
  exact ⟨hack, hleft, htal, hst, (h.mono (by decide)).then hc (by decide)⟩

theorem Withdrawn.of_atPlace (h : OnlyChanges [.reached] s a) (ht : Withdrawn stall p a t) : Withdrawn stall p s t := by
  have hv : ∀ n i, tally n i a = tally n i s := h.tally_eq (by decide)
  have hs : ∀ n, stallAt n a = stallAt n s := h.stallAt_eq (by decide)
  have ho : a.out = s.out := h .out (by decide)
  simp only [Withdrawn, Acked, StallsKeep, hv, hs, ho] at ht ⊢
  obtain ⟨hack, hpend, htal, hst, hc⟩ := ht
  exact ⟨hack, hpend, htal, hst, (h.mono (by decide)).then hc (by decide)⟩

end

/-! ### The commands -/

section
variable {s : State} {stall : Nat} {idx : BitVec 6} {n : Word}

theorem tallyReq_ready {f : State → State} (hr : tallyReady stall s = true) (hi : idx.toNat < 48) : tallyReq stall idx f s = f s := by
  simp [tallyReq, hr, Nat.not_le.2 hi]

/-- A request that takes its turn is tested there (R40). -/
theorem answers_tallyTest {c : Instr} {f : State → State} {p : Pend} (he : exec c s = onStall stall c f s) (hc : inputOf c = none)
    (hw : s.tablesWf = true) (hs : hasStall stall s = true) (ha : applies c s = true) (hi : p.idx < 48)
    (hf : f (atPlace c s) = tallyTest stall p (atPlace c s)) : Answers c s fun t => Tested stall p s t ∧ (p.take = false → OnlyChanges [.reached, .stalls, .out] s t) := by
  have hp := atPlace_onlyChanges hc s
  refine answers_onStall he hs ha ?_
  rw [hf]
  exact ⟨.of_atPlace hp (tallyTest_tested (by rwa [atPlace_tablesWf]) hi), fun ht => (hp.mono (by decide)).then (tallyTest_wait_onlyChanges ht) (by decide)⟩

end

theorem tallyWaitTake : Claims.TallyWaitTake := by
  intro stall idx n s hw hs hr hi
  have hready {c : Instr} (hc : inputOf c = none) : tallyReady stall (atPlace c s) = true := by
    rw [(atPlace_onlyChanges hc s).tallyReady_eq (by decide) (by decide), hr]
  constructor
  · intro ha
    obtain ⟨t, he, ht, hf⟩ := answers_tallyTest (p := ⟨false, idx.toNat, n⟩) rfl rfl hw hs ha hi (tallyReq_ready (hready rfl) hi)
    simp only [Tested, reachedBy, Bool.and_false, decide_eq_true_eq] at ht
    obtain ⟨hack, -, -, hst, -⟩ := ht
    exact ⟨t, he, hack, hst, hf rfl⟩
  · intro ha
    obtain ⟨t, he, ht, -⟩ := answers_tallyTest (p := ⟨true, idx.toNat, n⟩) rfl rfl hw hs ha hi (tallyReq_ready (hready rfl) hi)
    simp only [Tested, reachedBy, Bool.and_true, decide_eq_true_eq] at ht
    obtain ⟨hack, hleft, htal, hst, hc⟩ := ht
    refine ⟨t, he, ?_, htal, hst, hc⟩
    by_cases hm : (tally stall idx.toNat s - n).toNat < 2 ^ 31 <;> simp only [hm, if_true, if_false] at hack hleft ⊢ <;>
      exact ⟨hack.1, hack.2, hleft⟩

theorem tallyRetestCancel : Claims.TallyRetestCancel := by
  intro stall p s hw hs hsv hpend hi
  have hat {c : Instr} (hc : inputOf c = none) : serving (atPlace c s) = true ∧ (stallAt stall (atPlace c s)).pend = some p
      ∧ tally stall p.idx (atPlace c s) = tally stall p.idx s := by
    have h := atPlace_onlyChanges hc s
    rw [h.serving_eq (by decide), h.stallAt_eq (by decide), h.tally_eq (by decide)]
    exact ⟨hsv, hpend, rfl⟩
  constructor
  · intro ha
    obtain ⟨hsv', hpend', -⟩ := hat (c := .tallyRetest stall) rfl
    obtain ⟨t, he, ht, -⟩ := answers_tallyTest (p := p) rfl rfl hw hs ha hi (tallyRetestApply_pending hsv' hpend')
    exact ⟨t, he, ht⟩
  · intro ha
    obtain ⟨hsv', hpend', htal'⟩ := hat (c := .tlyCancel stall) rfl
    have hf := tlyCancelApply_pending hsv' hpend'
    rw [htal'] at hf
    cases hm : reachedBy (tally stall p.idx s) p.arg with
    | true =>
      rw [hm, if_pos rfl] at hf
      obtain ⟨t, he, ht, -⟩ := answers_tallyTest (p := p) rfl rfl hw hs ha hi hf
      simp only [Tested, hm] at ht
      obtain ⟨⟨hack, hnone⟩, hleft, htal, hst, hc⟩ := ht
      unfold reachedBy at hm
      simp only [hm]
      exact ⟨t, he, hack, hnone, hleft, htal, hst, hc⟩
    | false =>
      rw [hm, ← htal'] at hf
      have ht : Withdrawn stall p s (tlyCancelApply stall (atPlace (.tlyCancel stall) s)) := by
        rw [hf]
        exact .of_atPlace (atPlace_onlyChanges rfl s) (setPend_none_withdrawn (by rwa [atPlace_tablesWf]))
      obtain ⟨hack, hnone, htal, hst, hc⟩ := ht
      unfold reachedBy at hm
      simp only [hm]
      exact answers_onStall rfl hs ha ⟨hack, hnone, htal _ _, fun _ _ _ _ => htal _ _, hst, hc.mono (by decide)⟩

/-- Settles O4: WAIT, TAKE and the retest all run the one test, and so does a cancel of a request whose threshold is met; a cancel of any other only withdraws it. -/
theorem tallyWaits : Obligations.TallyWaits := ⟨tallyWaitTake, tallyRetestCancel⟩

end Sys2Proof.Machine
end

section
/-! PROOF. Reads of the register pages: their turn, what they answer, and what they latch or clear (R10, R11, R61, R64). -/

namespace Sys2Proof.Machine

/-! ### A read in its turn -/

section
variable {s : State} {port master : Nat}

/-- The state at a place of its transit. -/
def withReached (q : Place) (s : State) : State := { s with clock := { s.clock with reached := q } }

theorem withReached_onlyChanges (q : Place) (s : State) : OnlyChanges [.reached] s (withReached q s) := by
  intro p hp
  cases p <;> simp [Part.same, withReached] at hp ⊢

theorem atPlace_eq_withReached {c : Instr} (hc : inputOf c = none) (s : State) : ∃ q, atPlace c s = withReached q s := by
  unfold atPlace
  split
  · exact ⟨s.clock.reached, rfl⟩
  · next p _ => exact ⟨p, by simp [takeTurn, hc, withReached]⟩

theorem pageExists_withReached (page : Nat) (q : Place) (s : State) : pageExists page (withReached q s) = pageExists page s := rfl
/-- No page register shows how far the transit has come. -/
theorem readPage_withReached (copy addr : Nat) (q : Place) (s : State) : readPage copy addr (withReached q s) = readPage copy addr s := rfl

theorem answer_of_no_requests (h : requestsAt port s = []) (v : Word) (err : Bool) : answer port master v err s = present (.mgmtRsp port master v err) s := by
  simp [answer, h]

theorem readLatch_requests (copy addr : Nat) (s : State) : (readLatch copy addr s).owner.requests = s.owner.requests := by
  unfold readLatch
  split_ifs <;> rfl

theorem clearSpecial_requests (copy page off : Nat) (s : State) : (clearSpecial copy page off s).owner.requests = s.owner.requests := by
  unfold clearSpecial
  split_ifs
  · split <;> rfl
  all_goals rfl

theorem readClear_requests (owner : Bool) (copy addr : Nat) (s : State) : (readClear owner copy addr s).owner.requests = s.owner.requests := by
  unfold readClear
  split_ifs
  · rfl
  · split
    · split_ifs
      · rfl
      · exact clearSpecial_requests ..
    · exact clearSpecial_requests ..

theorem readHead_requests (addr : Nat) (s : State) : (readHead addr s).owner.requests = s.owner.requests := by
  unfold readHead
  split_ifs <;> rfl

theorem readEntry_requests (copy addr : Nat) (s : State) : (readEntry copy addr s).owner.requests = s.owner.requests := by
  unfold readEntry entryAutoInc
  dsimp only
  split_ifs <;> rfl

/-- A read withdraws no request of a port. -/
theorem readEffect_requests (owner : Bool) (copy addr : Nat) (s : State) : (readEffect owner copy addr s).owner.requests = s.owner.requests := by
  unfold readEffect
  split_ifs
  · rfl
  · rw [readEntry_requests, readHead_requests, readClear_requests, readLatch_requests]

/-- A read of a good address over an idle management port answers the value as it stands, and then has its effect. -/
theorem answers_accessRead {c : Instr} {addr : Nat} {P : State → Prop}
    (he : exec c s = onAgent (.mgmt port master) c (accessRead (.mgmt port master) addr) s) (hc : inputOf c = none)
    (hport : port < s.build.mgmtPorts) (hserve : mgmtServes s = true) (hreq : requestsAt port s = []) (ha : applies c s = true) (hbad : badAddr addr = false)
    (hP : ∀ q, P (present (.mgmtRsp port master (readValue 0 addr (withReached q s)) false)
      (readEffect (isOwner (.mgmt port master) s) 0 addr (withReached q s)))) : Answers c s P := by
  obtain ⟨q, hq⟩ := atPlace_eq_withReached hc s
  have hreq' : requestsAt port (readEffect (isOwner (.mgmt port master) s) 0 addr (withReached q s)) = [] := by
    unfold requestsAt
    rw [readEffect_requests]
    exact hreq
  have hread : accessRead (.mgmt port master) addr (withReached q s)
      = present (.mgmtRsp port master (readValue 0 addr (withReached q s)) false) (readEffect (isOwner (.mgmt port master) s) 0 addr (withReached q s)) := by
    have hs' : mgmtServes (withReached q s) = true := hserve
    have ho : isOwner (.mgmt port master) (withReached q s) = isOwner (.mgmt port master) s := rfl
    simp only [accessRead, hs', if_true, mgmtRead, hbad, ho, Bool.false_eq_true, if_false, answer_of_no_requests hreq']
  refine ⟨_, ?_, hP q⟩
  rw [he, onAgent, if_pos (by simpa [hasAgent] using hport), inTransit_of_applies ha, hq, hread]

end

/-! ### The register map -/

theorem findRow_some {off : Nat} {rows : List RegRow} {r : RegRow} (h : findRow off rows = some r) : r ∈ rows ∧ r.off = off := by
  induction rows with
  | nil => simp [findRow] at h
  | cons r' rows ih =>
    unfold findRow at h
    split at h
    · next hr => cases h; exact ⟨List.mem_cons_self, hr⟩
    · obtain ⟨hm, ho⟩ := ih h
      exact ⟨List.mem_cons_of_mem _ hm, ho⟩

/-- No register that a read clears is the low word of a pair, on any kind of page. -/
theorem isLow_rc_row {page : Nat} {r : RegRow} (hm : r ∈ headerRows ++ kindRows (pageKind page)) (hr : r.acc = .rc) : isLow page r.off = false := by
  unfold isLow
  generalize pageKind page = k at hm
  revert r
  suffices h : ∀ r ∈ headerRows ++ kindRows k, r.acc = .rc → _ from fun {r} hr hm => h r hm hr
  cases k <;> decide

theorem isLow_of_rc {addr : Nat} {r : RegRow} (h : regRow addr = some r) (hr : r.acc = .rc) : isLow (addr / 0x1000) (addr % 0x1000) = false := by
  unfold regRow at h
  dsimp only at h
  split_ifs at h
  · obtain ⟨hm, ho⟩ := findRow_some h
    rw [← ho]
    exact isLow_rc_row (List.mem_append_left _ hm) hr
  · obtain ⟨hm, ho⟩ := findRow_some h
    rw [← ho]
    exact isLow_rc_row (List.mem_append_right _ hm) hr

/-- Pages whose read-to-clear registers stand outside the plain store have no pair. -/
theorem clearSpecial_of_isLow {copy page off : Nat} {s : State} (h : isLow page off = true) : clearSpecial copy page off s = s := by
  have ho : page ≠ pOWNER := by rintro rfl; exact absurd h Bool.false_ne_true
  have hs : page ≠ pSTALL := by rintro rfl; exact absurd h Bool.false_ne_true
  simp [clearSpecial, ho, hs]

/-! ### Low words (R10) -/

section
variable {copy addr : Nat} {s : State} {owner : Bool}

theorem readClear_of_isLow (h : isLow (addr / 0x1000) (addr % 0x1000) = true) : readClear owner copy addr s = s := by
  unfold readClear
  split_ifs
  · rfl
  · split
    · next r hr =>
      rw [if_neg fun hrc => by simp [isLow_of_rc hr hrc] at h]
      exact clearSpecial_of_isLow h
    · exact clearSpecial_of_isLow h

theorem readHead_of_ne (h : addr ≠ 0x0604C) : readHead addr s = s := if_neg h
theorem readEntry_of_ne (h : addr ≠ 0x03054) : readEntry copy addr s = s := if_neg h

/-- A word that is no high word is read as it stands, whatever has been latched. -/
theorem readValue_page (h : addr < 0x100000) (hh : isHigh addr = false) : readValue copy addr s = readPage copy addr s := by
  have h1 : ¬ 0x200000 ≤ addr := by omega
  have h2 : ¬ 0x100000 ≤ addr := by omega
  unfold readValue
  rw [if_neg h1, if_neg h2]
  split <;> simp [hh]

theorem readEffect_of_isLow (h : addr < 0x100000) (hl : isLow (addr / 0x1000) (addr % 0x1000) = true) (hp : pageExists (addr / 0x1000) s = true) :
    readEffect owner copy addr s = setLatch (addr + 4) (some (readPage copy (addr + 4) s)) s := by
  have hhead : addr ≠ 0x0604C := by rintro rfl; exact absurd hl (by decide)
  have hentry : addr ≠ 0x03054 := by rintro rfl; exact absurd hl (by decide)
  rw [readEffect, if_neg (by omega), readEntry_of_ne hentry, readHead_of_ne hhead, readClear_of_isLow hl, readLatch, hl, hp]
  rfl

theorem badAddr_of_aligned (h4 : addr % 4 = 0) (h : addr < 0x100000) : badAddr addr = false := by
  have : ¬ 0x300000 ≤ addr := by omega
  simp [badAddr, h4, this]

end

theorem lowReadLatches : Claims.LowReadLatches := by
  rintro port master addr s hw hl hp h4 hlt hh ⟨hport, hserve, hreq, -, -, ha⟩
  refine answers_accessRead rfl rfl hport hserve hreq ha (badAddr_of_aligned h4 hlt) fun q => ?_
  rw [readValue_page hlt hh, readEffect_of_isLow hlt hl (pageExists_withReached .. ▸ hp), readPage_withReached, readPage_withReached]
  refine ⟨rfl, tget_tset_self _ _ _ (hiLatch_wf hw), fun a hne => tget_tset_ne hne _ _, ?_⟩
  exact (((withReached_onlyChanges q s).mono (by decide)).then (setLatch_onlyChanges _ _ _) (by decide)).then (present_onlyChanges _ _) (by decide)

/-! ### Read-to-clear registers (R11, R64) -/

section
variable {copy addr : Nat} {s : State} {owner : Bool}

theorem readLatch_of_plain (hl : isLow (addr / 0x1000) (addr % 0x1000) = false) (hh : isHigh addr = false) : readLatch copy addr s = s := by
  simp [readLatch, hl, hh]

/-- What is left of a read's effect on a page register of no pair, outside the log's head and the ephemeris's entry. -/
theorem readEffect_of_plain (h : addr < 0x100000) (hl : isLow (addr / 0x1000) (addr % 0x1000) = false) (hh : isHigh addr = false)
    (hhead : addr ≠ 0x0604C) (hentry : addr ≠ 0x03054) : readEffect owner copy addr s = readClear owner copy addr s := by
  rw [readEffect, if_neg (by omega), readEntry_of_ne hentry, readHead_of_ne hhead, readLatch_of_plain hl hh]

theorem readClear_rc {r : RegRow} (hr : regRow addr = some r) (hrc : r.acc = .rc) (hp : pageExists (addr / 0x1000) s = true) :
    readClear owner copy addr s = if owner then setReg addr 0#32 s else s := by
  cases owner <;> simp [readClear, hr, hrc, hp]

/-- A read-to-clear register reads as it is stored: the header's one, and those of the pages. -/
theorem readPage_rc {r : RegRow} (hr : regRow addr = some r) (hrc : r.acc = .rc) (hp : pageExists (addr / 0x1000) s = true)
    (ho : 0x040 ≤ addr % 0x1000 ∨ addr % 0x1000 = 0x020) (hn : readSpecial copy (addr / 0x1000) (addr % 0x1000) s = none) :
    readPage copy addr s = reg addr s := by
  rcases ho with ho | ho
  · simp [readPage, hp, Nat.not_lt.2 ho, hn, readStored, hr, hrc]
  · have ha : pageBase (addr / 0x1000) + 0x020 = addr := by unfold pageBase; omega
    simp [readPage, hp, ho, readHeader, ha]

end

theorem readToClear_rc (port master : Nat) (addr : BitVec 22) (s : State) (hw : s.tablesWf = true) (hport : port < s.build.mgmtPorts)
    (hserve : mgmtServes s = true) (hreq : requestsAt port s = []) (ha : applies (.readToClear (.mgmt port master) addr) s = true)
    {r : RegRow} (hr : regRow addr.toNat = some r) (hrc : r.acc = .rc) (hp : pageExists (addr.toNat / 0x1000) s = true)
    (ho : 0x040 ≤ addr.toNat % 0x1000 ∨ addr.toNat % 0x1000 = 0x020) (hlt : addr.toNat < 0x100000) (h4 : addr.toNat % 4 = 0)
    (hn : readSpecial 0 (addr.toNat / 0x1000) (addr.toNat % 0x1000) s = none) (hh : isHigh addr.toNat = false) :
    Answers (.readToClear (.mgmt port master) addr) s fun t => Answered port master (reg addr.toNat s) s t
      ∧ reg addr.toNat t = (if isOwner (.mgmt port master) s then 0#32 else reg addr.toNat s) ∧ RegsKeep [addr.toNat] s t
      ∧ OnlyChanges [.reached, .regs, .out] s t := by
  have hhead : addr.toNat ≠ 0x0604C := by intro h; simp [h, show regRow 0x0604C = none from by decide] at hr
  have hentry : addr.toNat ≠ 0x03054 := by intro h; simp [h, show regRow 0x03054 = none from by decide] at hr
  refine answers_accessRead rfl rfl hport hserve hreq ha (badAddr_of_aligned h4 hlt) fun q => ?_
  rw [readValue_page hlt hh, readPage_withReached, readPage_rc hr hrc hp ho hn, readEffect_of_plain hlt (isLow_of_rc hr hrc) hh hhead hentry,
    readClear_rc hr hrc (pageExists_withReached .. ▸ hp)]
  have hq := (withReached_onlyChanges q s).mono (qs := [.reached, .regs, .out]) (by decide)
  split_ifs
  · exact ⟨rfl, reg_setReg_self (s := withReached q s) (regs_wf hw), fun a hne => reg_setReg_ne (by simpa using hne),
      (hq.then (setReg_onlyChanges _ _ _) (by decide)).then (present_onlyChanges _ _) (by decide)⟩
  · exact ⟨rfl, rfl, fun _ _ => rfl, hq.then (present_onlyChanges _ _) (by decide)⟩

/-! ### The counters of the selected stall (R444) -/

section
variable {addr : Nat} {s : State} {owner : Bool}

theorem readPage_stallCounter (ha : addr = 0x4005C ∨ addr = 0x40060) (hs : hasStall (stallSel 0 s) s = true) :
    readPage 0 addr s = if addr = 0x4005C then (stallAt (stallSel 0 s) s).discarded else (stallAt (stallSel 0 s) s).badIndex := by
  rcases ha with rfl | rfl <;> simp [readPage, pageExists, pageKind, readSpecial, readStall, hs]

theorem readClear_stallCounter (ha : addr = 0x4005C ∨ addr = 0x40060) (hs : hasStall (stallSel 0 s) s = true) :
    readClear owner 0 addr s = if owner then setStall (stallSel 0 s)
      (if addr = 0x4005C then { stallAt (stallSel 0 s) s with discarded := 0#32 } else { stallAt (stallSel 0 s) s with badIndex := 0#32 }) s else s := by
  have hr : regRow addr = none := by rcases ha with rfl | rfl <;> decide
  have hc : clearSpecial 0 (addr / 0x1000) (addr % 0x1000) s = setStall (stallSel 0 s)
      (if addr = 0x4005C then { stallAt (stallSel 0 s) s with discarded := 0#32 } else { stallAt (stallSel 0 s) s with badIndex := 0#32 }) s := by
    rcases ha with rfl | rfl <;> simp [clearSpecial, pOWNER, pSTALL, hs]
  have hp : pageExists (addr / 0x1000) s = true := by rcases ha with rfl | rfl <;> rfl
  cases owner <;> simp [readClear, hr, hp, hc]

end

theorem readToClear_stallCounter (port master : Nat) (addr : BitVec 22) (s : State) (hw : s.tablesWf = true) (hport : port < s.build.mgmtPorts)
    (hserve : mgmtServes s = true) (hreq : requestsAt port s = []) (ha : applies (.readToClear (.mgmt port master) addr) s = true)
    (haddr : addr.toNat = 0x4005C ∨ addr.toNat = 0x40060) (hs : hasStall (stallSel 0 s) s = true) :
    let n := stallSel 0 s
    let st := stallAt n s
    Answers (.readToClear (.mgmt port master) addr) s fun t =>
      Answered port master (if addr.toNat = 0x4005C then st.discarded else st.badIndex) s t
        ∧ stallAt n t = (if isOwner (.mgmt port master) s then (if addr.toNat = 0x4005C then { st with discarded := 0#32 } else { st with badIndex := 0#32 }) else st)
        ∧ StallsKeep n s t ∧ OnlyChanges [.reached, .stalls, .out] s t := by
  have hlt : addr.toNat < 0x100000 := by omega
  have h4 : addr.toNat % 4 = 0 := by omega
  have hl : isLow (addr.toNat / 0x1000) (addr.toNat % 0x1000) = false := by rcases haddr with h | h <;> rw [h] <;> rfl
  have hh : isHigh addr.toNat = false := by rcases haddr with h | h <;> rw [h] <;> rfl
  refine answers_accessRead rfl rfl hport hserve hreq ha (badAddr_of_aligned h4 hlt) fun q => ?_
  have hs' : hasStall (stallSel 0 (withReached q s)) (withReached q s) = true := hs
  rw [readValue_page hlt hh, readPage_stallCounter haddr hs', readEffect_of_plain hlt hl hh (by omega) (by omega), readClear_stallCounter haddr hs']
  have hq := (withReached_onlyChanges q s).mono (qs := [.reached, .stalls, .out]) (by decide)
  by_cases ho : isOwner (.mgmt port master) s = true
  · simp only [ho, if_true]
    exact ⟨rfl, stallAt_setStall_self (s := withReached q s) (stalls_wf hw), fun _ hne => stallAt_setStall_ne hne,
      (hq.then (setStall_onlyChanges _ _ _) (by decide)).then (present_onlyChanges _ _) (by decide)⟩
  · simp only [ho]
    exact ⟨rfl, rfl, fun _ _ => rfl, hq.then (present_onlyChanges _ _) (by decide)⟩

theorem readToClear : Claims.ReadToClear := by
  intro port master addr s hw hport hserve hreq ha
  exact ⟨fun r hr hrc hp ho hlt h4 hn _ hh => readToClear_rc port master addr s hw hport hserve hreq ha hr hrc hp ho hlt h4 hn hh,
    fun haddr hs => readToClear_stallCounter port master addr s hw hport hserve hreq ha haddr hs⟩

/-- Settles O17: a read answers before it has its effect, which for a low word is the latch alone, and for a read-to-clear register the owner's clearing alone. -/
theorem registerReads : Obligations.RegisterReads := ⟨lowReadLatches, readToClear⟩

end Sys2Proof.Machine
end

section
/-! PROOF. The reception of a flit (R54, R55, R292 to R298): what each part of it does to its link, and that it leaves every other link alone. -/

namespace Sys2Proof.Machine

/-! ### Tables -/

section
variable {α : Type} {d : α} {k : Nat} {t : Table α}

/-- A listed key of a canonical table reads as it is listed. -/
theorem tget_of_mem [DecidableEq α] {x : Nat × α} (hw : tableWf d t = true) (hx : x ∈ t) : tget d x.1 t = x.2 := by
  unfold tableWf at hw
  induction t with
  | nil => simp at hx
  | cons p t ih =>
    obtain ⟨k, v⟩ := p
    obtain ⟨habove, -, ht⟩ := tableWfBy_cons.1 hw
    rcases List.mem_cons.1 hx with rfl | hx
    · simp [tget]
    · have hk : k < x.1 := by simpa using List.all_eq_true.1 habove x hx
      rw [tget, if_neg (by omega), ih ht hx]

/-- A key reads as unlisted or stands in the table. -/
theorem tget_eq_or_mem : tget d k t = d ∨ (k, tget d k t) ∈ t := by
  induction t with
  | nil => exact .inl rfl
  | cons p t ih =>
    obtain ⟨k', v⟩ := p
    unfold tget
    split
    · next h => subst h; exact .inr List.mem_cons_self
    · exact ih.imp_right (List.mem_cons_of_mem _)

/-- Of as many keys as a table has entries and one more, one is free. -/
theorem exists_free_key {t : Table (Option α)} (f : Nat → Nat) (hf : f.Injective) : ∃ i < t.length + 1, tget none (f i) t = none := by
  by_contra! h
  have hsub : (List.range (t.length + 1)).map f ⊆ t.map Prod.fst := by
    intro k hk
    obtain ⟨i, hi, rfl⟩ := List.mem_map.1 hk
    exact List.mem_map.2 ⟨_, (tget_eq_or_mem.resolve_left (h i (List.mem_range.1 hi))), rfl⟩
  have hlen := ((List.nodup_range.map hf).subperm hsub).length_le
  simp at hlen

end

/-! ### What an operation leaves of one link -/

section
variable {port : Nat} {s t u : State} {l l' : Link}

/-- An operation in `s` on one port's link has left `t`: the link stands as given, and every other as before. -/
structure OnLink (port : Nat) (s : State) (l : Link) (t : State) : Prop where
  wf : tableWf Link.down t.links = true
  link : linkAt port t = l
  keep : LinksKeep port s t

theorem OnLink.refl (hw : tableWf Link.down s.links = true) : OnLink port s (linkAt port s) s := ⟨hw, rfl, fun _ _ => rfl⟩

theorem OnLink.trans (h : OnLink port s l t) (h' : OnLink port t l' u) : OnLink port s l' u :=
  ⟨h'.wf, h'.link, fun p hp => (h'.keep p hp).trans (h.keep p hp)⟩

/-- What touches no link comes before or after as it likes. -/
theorem OnLink.of_links_eq (h : OnLink port s l t) (hu : u.links = t.links) : OnLink port s l u :=
  ⟨by rw [hu]; exact h.wf, by unfold linkAt; rw [hu]; exact h.link, fun p hp => by rw [← h.keep p hp]; unfold linkAt; rw [hu]⟩

theorem setLink_onLink (hw : tableWf Link.down s.links = true) : OnLink port s l (setLink port l s) :=
  ⟨tset_wf _ _ _ hw, linkAt_setLink_self hw, fun _ hp => linkAt_setLink_ne hp⟩

theorem modLink_onLink {f : Link → Link} (hw : tableWf Link.down s.links = true) (hf : f (linkAt port s) = l) : OnLink port s l (modLink port f s) :=
  hf ▸ setLink_onLink hw

theorem modLink_onlyChanges (port : Nat) (f : Link → Link) (s : State) : OnlyChanges [.links] s (modLink port f s) := setLink_onlyChanges _ _ s

theorem linkDies_onLink {code : BitVec 8} (hw : tableWf Link.down s.links = true) (hs : (linkAt port s).state = 2) (hd : (linkAt port s).dying = 0#8) :
    OnLink port s { linkAt port s with dying := code } (linkDies port code s) :=
  modLink_onLink hw (if_neg (by simp [hs, hd]))

theorem linkDies_onlyChanges (port : Nat) (code : BitVec 8) (s : State) : OnlyChanges [.links] s (linkDies port code s) := modLink_onlyChanges _ _ s

theorem nakDue_onLink (hw : tableWf Link.down s.links = true) :
    OnLink port s (if (linkAt port s).discarding then linkAt port s else { linkAt port s with discarding := true, nakOwed := true }) (nakDue port s) :=
  modLink_onLink hw rfl

theorem nakDue_onlyChanges (port : Nat) (s : State) : OnlyChanges [.links] s (nakDue port s) := modLink_onlyChanges _ _ s

/-! ### ACK, NAK and returned credits (R295, R296, R298) -/

/-- The link after an ACK. -/
def ackedLink (ack : Nat) (l : Link) : Link :=
  let rest := afterAck ack l.replay
  { l with replay := rest, retx := l.retx.filter (fun q => rest.any fun x => x.seq == q), replaying := l.replaying && rest.any fun x => decide (0 < x.attempts) }

theorem ackApply_onLink {ack : Nat} (hw : tableWf Link.down s.links = true) : OnLink port s (ackedLink ack (linkAt port s)) (ackApply port ack s) := by
  have h : OnLink port s (ackedLink ack (linkAt port s)) (setLink port (ackedLink ack (linkAt port s)) s) := setLink_onLink hw
  unfold ackApply
  dsimp only
  split_ifs
  · exact h.of_links_eq rfl
  · exact h

theorem ackApply_onlyChanges (port ack : Nat) (s : State) : OnlyChanges [.links, .log] s (ackApply port ack s) := by
  have h := fun l => (setLink_onlyChanges port l s).mono (qs := [.links, .log]) (by decide)
  unfold ackApply
  dsimp only
  split_ifs
  · exact (h _).then (closeSourceChain_onlyChanges _ _) (by decide)
  · exact h _

/-- The flits that an ACK covers leave the replay buffer. -/
theorem afterAck_append {ack : Nat} {pre suf : List Sent} {x : Sent} (hx : x.seq = ack) (hpre : ∀ y ∈ pre, y.seq ≠ ack) :
    afterAck ack (pre ++ x :: suf) = suf := by
  have hany : (pre ++ x :: suf).any (fun y => y.seq == ack) = true := by simp [hx]
  have hdrop : (pre ++ x :: suf).dropWhile (fun y => y.seq != ack) = x :: suf := by
    rw [List.dropWhile_append_of_pos (by simpa using hpre)]
    simp [hx]
  rw [afterAck, if_pos hany, hdrop, List.drop_one, List.tail_cons]

/-- What a header says of the sender's reception: an ACK, a NAK. -/
def acknowledged (port : Nat) (h : FlitHdr) (s : State) : State :=
  let s := if h.ackEn || h.nak then ackApply port h.ack s else s
  if h.nak then modLink port (fun l => { l with nakSeen := true }) s else s

def acknowledgedLink (h : FlitHdr) (l : Link) : Link :=
  let l := if h.ackEn || h.nak then ackedLink h.ack l else l
  if h.nak then { l with nakSeen := true } else l

theorem acknowledged_onLink {h : FlitHdr} (hw : tableWf Link.down s.links = true) : OnLink port s (acknowledgedLink h (linkAt port s)) (acknowledged port h s) := by
  have h1 : OnLink port s (if h.ackEn || h.nak then ackedLink h.ack (linkAt port s) else linkAt port s) (if h.ackEn || h.nak then ackApply port h.ack s else s) := by
    split
    · exact ackApply_onLink hw
    · exact .refl hw
  unfold acknowledged acknowledgedLink
  dsimp only
  split
  · rw [← h1.link]
    exact h1.trans (modLink_onLink h1.wf rfl)
  · exact h1

theorem acknowledged_onlyChanges (port : Nat) (h : FlitHdr) (s : State) : OnlyChanges [.links, .log] s (acknowledged port h s) := by
  have h1 : OnlyChanges [.links, .log] s (if h.ackEn || h.nak then ackApply port h.ack s else s) := by
    split
    · exact ackApply_onlyChanges port h.ack s
    · exact .refl s
  unfold acknowledged
  dsimp only
  split
  · exact h1.then (modLink_onlyChanges _ _ _) (by decide)
  · exact h1

section
variable (h : FlitHdr) (l : Link)
@[simp] theorem acknowledgedLink_state : (acknowledgedLink h l).state = l.state := by unfold acknowledgedLink ackedLink; dsimp only; split_ifs <;> rfl
@[simp] theorem acknowledgedLink_dying : (acknowledgedLink h l).dying = l.dying := by unfold acknowledgedLink ackedLink; dsimp only; split_ifs <;> rfl
@[simp] theorem acknowledgedLink_credit : (acknowledgedLink h l).credit = l.credit := by unfold acknowledgedLink ackedLink; dsimp only; split_ifs <;> rfl
@[simp] theorem acknowledgedLink_creditMax : (acknowledgedLink h l).creditMax = l.creditMax := by unfold acknowledgedLink ackedLink; dsimp only; split_ifs <;> rfl
end

theorem acknowledgedLink_replay {h : FlitHdr} (ha : h.ackEn = true) : (acknowledgedLink h l).replay = afterAck h.ack l.replay := by
  unfold acknowledgedLink
  cases hn : h.nak <;> simp [ha, ackedLink]

theorem acknowledgedLink_nakSeen {h : FlitHdr} (hn : h.nak = true) : (acknowledgedLink h l).nakSeen = true := by simp [acknowledgedLink, hn]

theorem acknowledged_of_none {h : FlitHdr} (ha : h.ackEn = false) (hn : h.nak = false) : acknowledged port h s = s := by simp [acknowledged, ha, hn]

/-- The link after a return of credits: above what was advertised it is to go DOWN (R298). -/
def creditedLink (vc cnt : Nat) (l : Link) : Link :=
  if l.creditMax.getD vc 0 < l.credit.getD vc 0 + cnt then { l with dying := 0x23#8 } else { l with credit := l.credit.set vc (l.credit.getD vc 0 + cnt) }

@[simp] theorem creditedLink_replay (vc cnt : Nat) (l : Link) : (creditedLink vc cnt l).replay = l.replay := by unfold creditedLink; split <;> rfl
@[simp] theorem creditedLink_nakSeen (vc cnt : Nat) (l : Link) : (creditedLink vc cnt l).nakSeen = l.nakSeen := by unfold creditedLink; split <;> rfl

theorem creditedLink_above {vc cnt : Nat} (h : l.creditMax.getD vc 0 < l.credit.getD vc 0 + cnt) : (creditedLink vc cnt l).dying = 0x23#8 := by
  rw [creditedLink, if_pos h]

theorem creditedLink_within {vc cnt : Nat} (h : l.credit.getD vc 0 + cnt ≤ l.creditMax.getD vc 0) :
    creditedLink vc cnt l = { l with credit := l.credit.set vc (l.credit.getD vc 0 + cnt) } := if_neg (Nat.not_lt.2 h)

theorem set_getD_self (l : List Nat) (i d : Nat) : l.set i (l.getD i d) = l := by
  by_cases h : i < l.length
  · rw [List.getD_eq_getElem _ _ h, List.set_getElem_self]
  · exact List.set_eq_of_length_le (Nat.not_lt.1 h)

/-- A flit that returns no credit changes none. -/
theorem creditedLink_none {vc : Nat} (h : l.credit.getD vc 0 ≤ l.creditMax.getD vc 0) : creditedLink vc 0 l = l := by
  rw [creditedLink_within (by simpa using h), Nat.add_zero, set_getD_self]

theorem creditApply_onLink {vc cnt : Nat} (hw : tableWf Link.down s.links = true) (hs : (linkAt port s).state = 2) (hd : (linkAt port s).dying = 0#8) :
    OnLink port s (creditedLink vc cnt (linkAt port s)) (creditApply port vc cnt s) := by
  unfold creditApply creditedLink
  dsimp only
  split
  · exact linkDies_onLink hw hs hd
  · exact setLink_onLink hw

theorem creditApply_onlyChanges (port vc cnt : Nat) (s : State) : OnlyChanges [.links] s (creditApply port vc cnt s) := by
  unfold creditApply
  dsimp only
  split
  · exact linkDies_onlyChanges _ _ s
  · exact setLink_onlyChanges _ _ s

/-! ### The check and the count of good flits (R294) -/

theorem reg64_setReg64_self {a : Nat} {v : Word64} (hw : tableWfBy regReset s.regs = true) : reg64 a (setReg64 a v s) = v := by
  have hhi : reg (a + 4) (setReg64 a v s) = v.extractLsb' 32 32 := reg_setReg_self (tset_wfBy _ _ _ hw)
  have hlo : reg a (setReg64 a v s) = v.extractLsb' 0 32 := (reg_setReg_ne (by omega)).trans (reg_setReg_self hw)
  rw [reg64, hhi, hlo]
  exact BitVec.extractLsb'_append_extractLsb'

/-- The link once a good flit has come over it in a cycle. -/
def seenLink (c : Nat) (l : Link) : Link := { l with lastGood := c }

/-- The state once a good flit has been counted. -/
def countedFlit (port cyc : Nat) (s : State) : State :=
  setReg64 (rRX_FLITS port) (reg64 (rRX_FLITS port) s + 1) (setLink port (seenLink (stamp cyc s) (linkAt port s)) s)

theorem countedFlit_onLink {cyc : Nat} (hw : tableWf Link.down s.links = true) :
    OnLink port s (seenLink (stamp cyc s) (linkAt port s)) (countedFlit port cyc s) :=
  (setLink_onLink hw).of_links_eq rfl

theorem countedFlit_onlyChanges (port cyc : Nat) (s : State) : OnlyChanges [.links, .regs] s (countedFlit port cyc s) :=
  ((setLink_onlyChanges _ _ s).mono (by decide)).then (setReg64_onlyChanges _ _ _) (by decide)

theorem countedFlit_reg64 {cyc : Nat} (hw : tableWfBy regReset s.regs = true) : reg64 (rRX_FLITS port) (countedFlit port cyc s) = reg64 (rRX_FLITS port) s + 1 :=
  reg64_setReg64_self (s := setLink port _ s) hw

/-! ### A flit on a link that is UP -/

theorem linkRuns_iff : linkRuns port s = true ↔ alive s = true ∧ (linkAt port s).state = 2 ∧ (linkAt port s).dying = 0#8 := by
  simp [linkRuns, and_assoc]

theorem flitApply_bad {flit : BitVec 1024} {symErr : Bool} {cyc : Nat} (hr : linkRuns port s = true) (hb : flitGood (flitBytesOf flit) symErr = false) :
    flitApply port flit symErr cyc s = nakDue port (count (rLINK_CHECK_FAIL port) 1 s) := by
  obtain ⟨ha, hs, hd⟩ := linkRuns_iff.1 hr
  simp [flitApply, ha, hs, hd, hb]

/-- What a good flit's ACK, NAK and credits leave. -/
def creditedFlit (port cyc : Nat) (h : FlitHdr) (s : State) : State := creditApply port h.crVc h.crCnt (acknowledged port h (countedFlit port cyc s))

theorem creditedFlit_onLink {cyc : Nat} {h : FlitHdr} (hw : tableWf Link.down s.links = true) (hr : linkRuns port s = true) :
    OnLink port s (creditedLink h.crVc h.crCnt (acknowledgedLink h (seenLink (stamp cyc s) (linkAt port s)))) (creditedFlit port cyc h s) := by
  obtain ⟨-, hs, hd⟩ := linkRuns_iff.1 hr
  have h1 := countedFlit_onLink (port := port) (cyc := cyc) hw
  have h2 := h1.trans (acknowledged_onLink (h := h) h1.wf)
  rw [h1.link] at h2
  have h3 := h2.trans (creditApply_onLink (vc := h.crVc) (cnt := h.crCnt) h2.wf (by simp [h2.link, seenLink, hs]) (by simp [h2.link, seenLink, hd]))
  rwa [h2.link] at h3

theorem creditedFlit_onlyChanges (port cyc : Nat) (h : FlitHdr) (s : State) : OnlyChanges [.links, .regs, .log] s (creditedFlit port cyc h s) :=
  (((countedFlit_onlyChanges port cyc s).mono (by decide)).then (acknowledged_onlyChanges port h _) (by decide)).then (creditApply_onlyChanges _ _ _ _) (by decide)

theorem creditedFlit_reg64 {cyc : Nat} {h : FlitHdr} (hw : tableWfBy regReset s.regs = true) :
    reg64 (rRX_FLITS port) (creditedFlit port cyc h s) = reg64 (rRX_FLITS port) s + 1 := by
  have hc : OnlyChanges [.links, .log] (countedFlit port cyc s) (creditedFlit port cyc h s) :=
    (acknowledged_onlyChanges port h _).then (creditApply_onlyChanges _ _ _ _) (by decide)
  rw [hc.reg64_eq (by decide), countedFlit_reg64 hw]

theorem flitApply_good {flit : BitVec 1024} {symErr : Bool} {cyc : Nat} (hr : linkRuns port s = true) (hb : flitGood (flitBytesOf flit) symErr = true) :
    flitApply port flit symErr cyc s =
      let h := flitHdrOf (leNat ((flitBytesOf flit).take 8))
      let t := creditedFlit port cyc h s
      if (linkAt port t).dying ≠ 0#8 then t
      else if h.kind = fkDATA ∨ h.kind = fkCONTROL then sequenced port h (sliceB (flitBytesOf flit) 8 116) (stamp cyc t) t
      else t := by
  obtain ⟨ha, hs, hd⟩ := linkRuns_iff.1 hr
  unfold flitApply
  dsimp only
  rw [if_neg (by simp [ha, hs, hd]), if_neg (by simp [hb]), if_neg (by simp [hs])]
  rfl

/-! ### Sequenced flits (R295, R298) -/

section
variable {h : FlitHdr} {payload : List Byte} {c : Nat}

/-- The link once a flit has been accepted in order. -/
def acceptedLink (h : FlitHdr) (l : Link) : Link := { l with rxSeq := h.seq, discarding := false, ackOwed := true }

/-- The receiver has buffer space for a flit of this channel. -/
def hasRoom (l : Link) (vc : Nat) : Prop := l.rxOccupied.getD vc 0 + l.owed.getD vc 0 < l.advertised.getD vc 0

theorem sequenced_outOfOrder (ho : h.seq ≠ ((linkAt port s).rxSeq + 1) % 4096) : sequenced port h payload c s = nakDue port s := if_pos ho

theorem sequenced_noRoom (ho : h.seq = ((linkAt port s).rxSeq + 1) % 4096) (hroom : ¬ hasRoom (linkAt port s) h.vc) :
    sequenced port h payload c s = linkDies port 0x23#8 s := by
  unfold sequenced
  dsimp only
  rw [if_neg (not_not.2 ho), if_pos (Nat.not_lt.1 hroom)]

theorem sequenced_accepted (ho : h.seq = ((linkAt port s).rxSeq + 1) % 4096) (hroom : hasRoom (linkAt port s) h.vc) :
    sequenced port h payload c s = if h.kind = fkDATA then dataAccept port h payload c (setLink port (acceptedLink h (linkAt port s)) s)
      else ctlAccept port h payload (setLink port (acceptedLink h (linkAt port s)) s) := by
  unfold sequenced
  dsimp only
  rw [if_neg (not_not.2 ho), if_neg (Nat.not_le.2 hroom)]
  rfl

/-! ### DATA (R293) -/

/-- The stream that a DATA flit continues or opens, with the flit. -/
def dataStream (h : FlitHdr) (payload : List Byte) (c : Nat) (l : Link) : Stream :=
  let st := (tget none (streamKey h.tag l) l.streams).getD ⟨h.vc, [], [], true, 0, 0, false, c, []⟩
  { st with bytes := st.bytes ++ payload, fwd := if st.onward then st.fwd ++ payload else st.fwd, flits := st.flits + 1, last := h.last }

/-- The link once a DATA flit has entered its tag's stream. -/
def dataLink (h : FlitHdr) (payload : List Byte) (c : Nat) (l : Link) : Link :=
  { l with rxSerial := l.rxSerial + 1, undel := l.undel ++ [(l.rxSerial + 1, h.vc, streamKey h.tag l)], rxOccupied := l.rxOccupied.set h.vc (l.rxOccupied.getD h.vc 0 + 1)
           streams := tset none (streamKey h.tag l) (some (dataStream h payload c l)) l.streams }

theorem streamProgress_links (port key : Nat) (s : State) : (streamProgress port key s).links = s.links := by
  unfold streamProgress
  split
  · rfl
  · split <;> rfl

theorem legProgress_onlyChanges (tg : Nat) (seq : BitVec 16) (s : State) : OnlyChanges [.ops] s (legProgress tg seq s) := by
  intro p hp
  cases p <;> simp [Part.same, legProgress] at hp ⊢

theorem streamProgress_onlyChanges (port key : Nat) (s : State) : OnlyChanges [.ops] s (streamProgress port key s) := by
  unfold streamProgress
  split
  · exact .refl s
  · split
    · exact legProgress_onlyChanges _ _ s
    · exact .refl s

theorem dataAccept_onLink (hw : tableWf Link.down s.links = true) : OnLink port s (dataLink h payload c (linkAt port s)) (dataAccept port h payload c s) :=
  (setLink_onLink hw).of_links_eq (streamProgress_links _ _ _)

theorem dataAccept_onlyChanges (port : Nat) (h : FlitHdr) (payload : List Byte) (c : Nat) (s : State) : OnlyChanges [.links, .ops] s (dataAccept port h payload c s) :=
  ((setLink_onlyChanges _ _ s).mono (by decide)).then (streamProgress_onlyChanges _ _ _) (by decide)

/-- The key of a flit's stream is its tag's, and the stream there, if there is one, has not ended. -/
theorem streamKey_spec {tag : Nat} (hw : tableWf none l.streams = true) (ht : tag < 4096) :
    streamKey tag l % 4096 = tag ∧ ∀ st, tget none (streamKey tag l) l.streams = some st → st.last = false := by
  unfold streamKey
  split
  · next x hx =>
    have hp := List.find?_some hx
    simp only [Bool.and_eq_true, beq_iff_eq] at hp
    refine ⟨hp.1, fun st hst => ?_⟩
    rw [tget_of_mem hw (List.mem_of_find?_eq_some hx)] at hst
    simpa [hst] using hp.2
  · obtain ⟨i, hi, hfree⟩ := exists_free_key (t := l.streams) (fun i => tag + 4096 * i) fun a b hab => by simpa using hab
    obtain ⟨k, hk⟩ : ∃ k, ((List.range (l.streams.length + 1)).map fun i => tag + 4096 * i).find? (fun k => (tget none k l.streams).isNone) = some k :=
      Option.isSome_iff_exists.1 (List.find?_isSome.2 ⟨_, List.mem_map.2 ⟨i, List.mem_range.2 hi, rfl⟩, by simp [hfree]⟩)
    obtain ⟨j, -, hj⟩ := List.mem_map.1 (List.mem_of_find?_eq_some hk)
    have hnone := List.find?_some hk
    rw [hk, Option.getD_some]
    refine ⟨by omega, fun st hst => ?_⟩
    simp [hst] at hnone

/-! ### CONTROL (R302) -/

theorem ctlAccept_reserved (hty : (payload.headD 0#8).toNat = 0 ∨ 4 < (payload.headD 0#8).toNat) : ctlAccept port h payload s = linkDies port 0x23#8 s := if_pos hty

/-- The link once a message has been received; `waits` is what a remote ADD waits for. -/
def ctlLink (h : FlitHdr) (payload : List Byte) (waits : List Path) (l : Link) : Link :=
  { l with rxCtl := l.rxCtl ++ [⟨h.vc, l.rxSerial, payload, waits⟩], owed := l.owed.set h.vc (l.owed.getD h.vc 0 + 1) }

theorem ctlAccept_onLink (hw : tableWf Link.down s.links = true) (hty : ¬ ((payload.headD 0#8).toNat = 0 ∨ 4 < (payload.headD 0#8).toNat)) :
    ∃ waits, OnLink port s (ctlLink h payload waits (linkAt port s)) (ctlAccept port h payload s) := by
  unfold ctlAccept
  dsimp only
  rw [if_neg hty]
  exact ⟨_, modLink_onLink hw rfl⟩

theorem ctlAccept_onlyChanges (port : Nat) (h : FlitHdr) (payload : List Byte) (s : State) : OnlyChanges [.links] s (ctlAccept port h payload s) := by
  unfold ctlAccept
  dsimp only
  split
  · exact linkDies_onlyChanges _ _ s
  · exact modLink_onlyChanges _ _ s

/-! ### A sequenced flit, whatever becomes of it -/

/-- An accepted flit moves the sequence on, and is owed an ACK. -/
theorem sequenced_accepted_onLink (hw : tableWf Link.down s.links = true) (hs : (linkAt port s).state = 2) (hd : (linkAt port s).dying = 0#8)
    (ho : h.seq = ((linkAt port s).rxSeq + 1) % 4096) (hroom : hasRoom (linkAt port s) h.vc) :
    ∃ l', OnLink port s l' (sequenced port h payload c s) ∧ l'.rxSeq = h.seq ∧ l'.ackOwed = true ∧ l'.discarding = false := by
  have hacc : OnLink port s (acceptedLink h (linkAt port s)) (setLink port (acceptedLink h (linkAt port s)) s) := setLink_onLink hw
  rw [sequenced_accepted ho hroom]
  split
  · have hdata := dataAccept_onLink (h := h) (payload := payload) (c := c) (port := port) hacc.wf
    rw [hacc.link] at hdata
    exact ⟨_, hacc.trans hdata, rfl, rfl, rfl⟩
  · by_cases hty : (payload.headD 0#8).toNat = 0 ∨ 4 < (payload.headD 0#8).toNat
    · have hdies := linkDies_onLink (port := port) (code := 0x23#8) hacc.wf (by rw [hacc.link]; exact hs) (by rw [hacc.link]; exact hd)
      rw [hacc.link] at hdies
      rw [ctlAccept_reserved hty]
      exact ⟨_, hacc.trans hdies, rfl, rfl, rfl⟩
    · obtain ⟨waits, hctl⟩ := ctlAccept_onLink (h := h) (port := port) hacc.wf hty
      rw [hacc.link] at hctl
      exact ⟨_, hacc.trans hctl, rfl, rfl, rfl⟩

theorem sequenced_keep (hw : tableWf Link.down s.links = true) (hs : (linkAt port s).state = 2) (hd : (linkAt port s).dying = 0#8) :
    LinksKeep port s (sequenced port h payload c s) := by
  by_cases ho : h.seq = ((linkAt port s).rxSeq + 1) % 4096
  · by_cases hroom : hasRoom (linkAt port s) h.vc
    · obtain ⟨_, hon, -⟩ := sequenced_accepted_onLink (payload := payload) (c := c) hw hs hd ho hroom
      exact hon.keep
    · rw [sequenced_noRoom ho hroom]
      exact (linkDies_onLink hw hs hd).keep
  · rw [sequenced_outOfOrder ho]
    exact (nakDue_onLink hw).keep

theorem sequenced_onlyChanges (port : Nat) (h : FlitHdr) (payload : List Byte) (c : Nat) (s : State) :
    OnlyChanges [.links, .ops] s (sequenced port h payload c s) := by
  have hacc := fun l => (setLink_onlyChanges port l s).mono (qs := [.links, .ops]) (by decide)
  unfold sequenced
  dsimp only
  split_ifs
  · exact (nakDue_onlyChanges _ s).mono (by decide)
  · exact (linkDies_onlyChanges _ _ s).mono (by decide)
  · exact (hacc _).then (dataAccept_onlyChanges _ _ _ _ _) (by decide)
  · exact (hacc _).then (ctlAccept_onlyChanges _ _ _ _) (by decide)

end

end

/-! ### A flit's streams, check, bytes and header (R292, R294) -/

section
variable {s : State} {port : Nat}

theorem streams_wf (h : s.allWf = true) (port : Nat) : tableWf none (linkAt port s).streams = true := by
  have hl : s.links.all (fun x => tableWf none x.2.streams) = true := by
    simp only [State.allWf, Bool.and_eq_true] at h
    tauto
  rcases tget_eq_or_mem (d := Link.down) (k := port) (t := s.links) with hd | hm
  · unfold linkAt
    rw [hd]
    rfl
  · exact List.all_eq_true.1 hl _ hm

theorem flitGood_eq_true_iff {b : List Byte} {symErr : Bool} :
    flitGood b symErr = true ↔ ¬ (symErr = true ∨ leNat (sliceB b 124 4) ≠ (crc32Link (b.take 124)).toNat) := by
  simp [flitGood]

theorem sliceB_headD {b : List Byte} {i n : Nat} (hi : i < b.length) (hn : 0 < n) : (sliceB b i n).headD 0#8 = b.getD i 0#8 := by
  obtain ⟨m, rfl⟩ := Nat.exists_eq_succ_of_ne_zero hn.ne'
  rw [sliceB, List.drop_eq_getElem_cons hi, List.getD_eq_getElem _ _ hi]
  rfl

theorem flitBytesOf_length (flit : BitVec 1024) : (flitBytesOf flit).length = 128 := by simp [flitBytesOf]

theorem flitHdrOf_crVc_lt (x : Nat) : (flitHdrOf x).crVc < 4 := Nat.mod_lt _ (by decide)
theorem flitHdrOf_tag_lt (x : Nat) : (flitHdrOf x).tag < 4096 := Nat.mod_lt _ (by decide)

end

/-! ### The statement -/

/-- A flit that fails its check (R55). -/
theorem badFlit_received {port cyc : Nat} {flit : BitVec 1024} {symErr : Bool} {s : State} (hw : s.allWf = true) (hr : linkRuns port s = true)
    (hb : flitGood (flitBytesOf flit) symErr = false) :
    let t := flitApply port flit symErr cyc s
    let l := linkAt port s
    reg (rLINK_CHECK_FAIL port) t = satAdd (reg (rLINK_CHECK_FAIL port) s) 1
      ∧ linkAt port t = (if l.discarding then l else { l with discarding := true, nakOwed := true }) ∧ LinksKeep port s t ∧ OnlyChanges [.links, .regs] s t := by
  rw [flitApply_bad hr hb]
  have hn := nakDue_onLink (port := port) (s := count (rLINK_CHECK_FAIL port) 1 s) (links_wf (s := s) hw)
  exact ⟨reg_setReg_self (regs_wf (allWf_tablesWf hw)), hn.link, hn.keep,
    ((count_onlyChanges _ _ s).mono (by decide)).then (nakDue_onlyChanges _ _) (by decide)⟩

/-- A good flit that is not sequenced: its ACK, NAK and credits are all that it does. -/
theorem unsequencedFlit_received {port cyc : Nat} {flit : BitVec 1024} {symErr : Bool} {s : State} (hr : linkRuns port s = true)
    (hb : flitGood (flitBytesOf flit) symErr = true) (h : FlitHdr) (hh : h = flitHdrOf (leNat ((flitBytesOf flit).take 8)))
    (hd : h.kind ≠ fkDATA) (hc : h.kind ≠ fkCONTROL) : flitApply port flit symErr cyc s = creditedFlit port cyc h s := by
  subst hh
  rw [flitApply_good hr hb]
  simp only [hd, hc, or_self, if_false, ite_self]

/-- A good flit that is sequenced and says nothing else. -/
theorem sequencedFlit_received {port cyc : Nat} {flit : BitVec 1024} {symErr : Bool} {s : State} (hw : s.allWf = true) (hr : linkRuns port s = true)
    (hb : flitGood (flitBytesOf flit) symErr = true) (h : FlitHdr) (hh : h = flitHdrOf (leNat ((flitBytesOf flit).take 8)))
    (hk : h.kind = fkDATA ∨ h.kind = fkCONTROL) (ha : h.ackEn = false) (hn : h.nak = false) (hcr : h.crCnt = 0)
    (hmax : (linkAt port s).credit.getD h.crVc 0 ≤ (linkAt port s).creditMax.getD h.crVc 0) :
    ∃ a, OnLink port s (seenLink (stamp cyc s) (linkAt port s)) a ∧ OnlyChanges [.links, .regs] s a
      ∧ reg64 (rRX_FLITS port) a = reg64 (rRX_FLITS port) s + 1
      ∧ flitApply port flit symErr cyc s = sequenced port h (sliceB (flitBytesOf flit) 8 116) (stamp cyc a) a := by
  have hon := creditedFlit_onLink (cyc := cyc) (h := h) (links_wf hw) hr
  have hack : acknowledgedLink h (seenLink (stamp cyc s) (linkAt port s)) = (seenLink (stamp cyc s) (linkAt port s)) := by
    simp [acknowledgedLink, ha, hn]
  rw [hack, hcr, creditedLink_none (l := seenLink (stamp cyc s) (linkAt port s)) hmax] at hon
  have hframe : OnlyChanges [.links, .regs] s (creditedFlit port cyc h s) := by
    unfold creditedFlit
    rw [acknowledged_of_none ha hn]
    exact (countedFlit_onlyChanges port cyc s).then (creditApply_onlyChanges _ _ _ _) (by decide)
  refine ⟨creditedFlit port cyc h s, hon, hframe, creditedFlit_reg64 (regs_wf (allWf_tablesWf hw)), ?_⟩
  have hdy : (linkAt port (creditedFlit port cyc h s)).dying = 0#8 := by
    rw [hon.link]
    exact (linkRuns_iff.1 hr).2.2
  subst hh
  rw [flitApply_good hr hb]
  simp only [hdy, ne_eq, not_true_eq_false, if_false, hk, if_true]

/-- What a good flit of no sequence leaves of its link: its ACK, NAK and credits, each as R295, R296 and R298 have it. -/
theorem creditedFlit_effects {port cyc : Nat} {s : State} {x : Nat} {h : FlitHdr} (hw : s.allWf = true) (hr : linkRuns port s = true) (hh : h = flitHdrOf x) :
    let l := linkAt port s
    let t := creditedFlit port cyc h s
    (h.ackEn = true → ∀ pre x suf, l.replay = pre ++ x :: suf → x.seq = h.ack → (∀ y ∈ pre, y.seq ≠ h.ack) → (linkAt port t).replay = suf)
      ∧ (h.nak = true → (linkAt port t).nakSeen = true)
      ∧ (l.creditMax.getD h.crVc 0 < l.credit.getD h.crVc 0 + h.crCnt → (linkAt port t).dying = 0x23#8)
      ∧ (l.credit.getD h.crVc 0 + h.crCnt ≤ l.creditMax.getD h.crVc 0 → l.credit.length = 4 → (linkAt port t).credit.getD h.crVc 0 = l.credit.getD h.crVc 0 + h.crCnt) := by
  intro l t
  rw [(creditedFlit_onLink (cyc := cyc) (h := h) (links_wf hw) hr).link]
  refine ⟨fun ha pre y suf hrep hy hpre => ?_, fun hn => ?_, fun habove => ?_, fun hwithin hlen => ?_⟩
  · have hrep' : (seenLink (stamp cyc s) (linkAt port s)).replay = pre ++ y :: suf := hrep
    rw [creditedLink_replay, acknowledgedLink_replay ha, hrep', afterAck_append hy hpre]
  · rw [creditedLink_nakSeen, acknowledgedLink_nakSeen hn]
  · exact creditedLink_above (by simpa [seenLink] using habove)
  · have hvc : h.crVc < l.credit.length := by rw [hlen, hh]; exact flitHdrOf_crVc_lt x
    rw [creditedLink_within (by simpa [seenLink] using hwithin)]
    simp only [acknowledgedLink_credit, seenLink]
    rw [List.getD_eq_getElem _ _ (by simpa using hvc), List.getElem_set_self]

/-- A DATA flit in order and with room stands at the end of its tag's stream (R293). -/
theorem sequenced_data {port c : Nat} {h : FlitHdr} {payload : List Byte} {s : State} (hw : tableWf Link.down s.links = true)
    (hst : tableWf none (linkAt port s).streams = true) (htag : h.tag < 4096)
    (ho : h.seq = ((linkAt port s).rxSeq + 1) % 4096) (hroom : hasRoom (linkAt port s) h.vc) (hk : h.kind = fkDATA) :
    ∃ key st, key % 4096 = h.tag ∧ tget none key (linkAt port (sequenced port h payload c s)).streams = some st ∧ st.last = h.last
      ∧ (∀ st0, tget none key (linkAt port s).streams = some st0 → st0.last = false ∧ st.bytes = st0.bytes ++ payload)
      ∧ (tget none key (linkAt port s).streams = none → st.bytes = payload) := by
  have hacc : OnLink port s (acceptedLink h (linkAt port s)) (setLink port (acceptedLink h (linkAt port s)) s) := setLink_onLink hw
  have hdata := dataAccept_onLink (h := h) (payload := payload) (c := c) (port := port) hacc.wf
  rw [hacc.link] at hdata
  rw [sequenced_accepted ho hroom, if_pos hk, hdata.link]
  obtain ⟨hkey, hopen⟩ := streamKey_spec (l := acceptedLink h (linkAt port s)) hst htag
  refine ⟨streamKey h.tag (acceptedLink h (linkAt port s)), dataStream h payload c (acceptedLink h (linkAt port s)), hkey, tget_tset_self _ _ _ hst, rfl,
    fun st0 h0 => ⟨hopen st0 h0, ?_⟩, fun h0 => ?_⟩
  · have h1 : tget none (streamKey h.tag (acceptedLink h (linkAt port s))) (acceptedLink h (linkAt port s)).streams = some st0 := h0
    simp [dataStream, h1]
  · have h1 : tget none (streamKey h.tag (acceptedLink h (linkAt port s))) (acceptedLink h (linkAt port s)).streams = none := h0
    simp [dataStream, h1]

/-- A CONTROL flit in order and with room: a reserved message is a protocol error, any other waits among the received ones (R302). -/
theorem sequenced_control {port c : Nat} {h : FlitHdr} {payload : List Byte} {s : State} (hw : tableWf Link.down s.links = true)
    (hs : (linkAt port s).state = 2) (hd : (linkAt port s).dying = 0#8)
    (ho : h.seq = ((linkAt port s).rxSeq + 1) % 4096) (hroom : hasRoom (linkAt port s) h.vc) (hk : h.kind = fkCONTROL) :
    let t := sequenced port h payload c s
    if (payload.headD 0#8).toNat = 0 ∨ 4 < (payload.headD 0#8).toNat then (linkAt port t).dying = 0x23#8
    else (∃ m : CtlMsg, (linkAt port t).rxCtl = (linkAt port s).rxCtl ++ [m] ∧ m.vc = h.vc ∧ m.payload = payload) ∧ (linkAt port t).dying = 0#8 := by
  have hacc : OnLink port s (acceptedLink h (linkAt port s)) (setLink port (acceptedLink h (linkAt port s)) s) := setLink_onLink hw
  have hk' : h.kind ≠ fkDATA := by rw [hk]; decide
  dsimp only
  rw [sequenced_accepted ho hroom, if_neg hk']
  split
  · next hty =>
    rw [ctlAccept_reserved hty, (linkDies_onLink hacc.wf (by rw [hacc.link]; exact hs) (by rw [hacc.link]; exact hd)).link]
  · next hty =>
    obtain ⟨waits, hctl⟩ := ctlAccept_onLink (h := h) (port := port) hacc.wf hty
    rw [hacc.link] at hctl
    rw [hctl.link]
    exact ⟨⟨_, rfl, rfl, rfl⟩, hd⟩

/-- What becomes of a sequenced flit, by its order, the room for it and its kind. -/
theorem sequenced_effects {port c : Nat} {h : FlitHdr} {payload : List Byte} {s a : State} {l : Link} (hon : OnLink port s l a) (hs : l.state = 2) (hd : l.dying = 0#8)
    (hst : tableWf none l.streams = true) (htag : h.tag < 4096) :
    let t := sequenced port h payload c a
    let inOrder := h.seq = (l.rxSeq + 1) % 4096
    LinksKeep port s t
      ∧ (¬ inOrder → linkAt port t = (if l.discarding then l else { l with discarding := true, nakOwed := true }))
      ∧ (inOrder → ¬ hasRoom l h.vc → linkAt port t = { l with dying := 0x23#8 })
      ∧ (inOrder → hasRoom l h.vc → (linkAt port t).rxSeq = h.seq ∧ (linkAt port t).ackOwed = true ∧ (linkAt port t).discarding = false)
      ∧ (inOrder → hasRoom l h.vc → h.kind = fkDATA → ∃ key st, key % 4096 = h.tag ∧ tget none key (linkAt port t).streams = some st ∧ st.last = h.last
          ∧ (∀ st0, tget none key l.streams = some st0 → st0.last = false ∧ st.bytes = st0.bytes ++ payload)
          ∧ (tget none key l.streams = none → st.bytes = payload))
      ∧ (inOrder → hasRoom l h.vc → h.kind = fkCONTROL → if (payload.headD 0#8).toNat = 0 ∨ 4 < (payload.headD 0#8).toNat then (linkAt port t).dying = 0x23#8
          else (∃ m : CtlMsg, (linkAt port t).rxCtl = l.rxCtl ++ [m] ∧ m.vc = h.vc ∧ m.payload = payload) ∧ (linkAt port t).dying = 0#8) := by
  obtain ⟨hw, rfl, hkeep⟩ := hon
  refine ⟨fun p hp => (sequenced_keep hw hs hd p hp).trans (hkeep p hp), fun ho => ?_, fun ho hroom => ?_, fun ho hroom => ?_,
    sequenced_data hw hst htag, sequenced_control hw hs hd⟩
  · rw [sequenced_outOfOrder ho, (nakDue_onLink hw).link]
  · rw [sequenced_noRoom ho hroom, (linkDies_onLink hw hs hd).link]
  · obtain ⟨l', hl', hrx, how, hdis⟩ := sequenced_accepted_onLink (payload := payload) (c := c) hw hs hd ho hroom
    rw [hl'.link]
    exact ⟨hrx, how, hdis⟩

/-- Settles O45: the flit's ACK, NAK and credits come first, each an operation on the one link, and then its sequence decides, case by case. -/
theorem linkReception : Obligations.LinkReception := by
  intro port cyc flit symErr s hw hdue hport _ hr l b h c bad seen room inOrder
  have ha : applies c s = true := by simp [c, applies, placeOf, hdue]
  have hplace : atPlace c s = s := rfl
  obtain ⟨-, hs, hd⟩ := linkRuns_iff.1 hr
  refine ⟨fun hb => answers_onPort rfl hport ha ?_, fun hb hkd hkc => answers_onPort rfl hport ha ?_, fun hb hk hack hnak hcr hmax => answers_onPort rfl hport ha ?_⟩
  · exact badFlit_received hw hr (Bool.eq_false_iff.2 fun hg => flitGood_eq_true_iff.1 hg hb)
  · rw [hplace, unsequencedFlit_received hr (flitGood_eq_true_iff.2 hb) h rfl hkd hkc]
    obtain ⟨hreplay, hnak, habove, hwithin⟩ := creditedFlit_effects (cyc := cyc) hw hr (show h = _ from rfl)
    exact ⟨creditedFlit_reg64 (regs_wf (allWf_tablesWf hw)), (creditedFlit_onLink (links_wf hw) hr).keep, hreplay, hnak, habove, hwithin,
      creditedFlit_onlyChanges port cyc h s⟩
  · obtain ⟨a, hon, hframe, hreg, hf⟩ := sequencedFlit_received (cyc := cyc) hw hr (flitGood_eq_true_iff.2 hb) h rfl hk hack hnak hcr hmax
    have hseq := sequenced_onlyChanges port h (sliceB b 8 116) (stamp cyc a) a
    obtain ⟨hkeep, hout, hfull, hacc, hdata, hctl⟩ :=
      sequenced_effects (c := stamp cyc a) (payload := sliceB b 8 116) (h := h) hon hs hd (streams_wf hw port) (flitHdrOf_tag_lt _)
    rw [sliceB_headD (by rw [flitBytesOf_length]; decide) (by decide)] at hctl
    rw [hplace, hf]
    exact ⟨by rw [hseq.reg64_eq (by decide), hreg], hkeep, (hframe.mono (by decide)).then hseq (by decide), hout, hfull, hacc, hdata, hctl⟩

end Sys2Proof.Machine
end

section
/-! PROOF. What RST_N leaves (R332, R353, R395 to R444). -/

namespace Sys2Proof.Machine

/-! ### Registers at reset -/

theorem regReset_of_regRow {a : Nat} {x : RegRow} (ha : a < stewardCopy) (hx : regRow a = some x) : regReset a = x.reset := by
  unfold regReset
  rw [Nat.mod_eq_of_lt ha, hx]

/-- BINOCULAR.STATE is the one register that the build decides; every other is unlisted at reset. -/
theorem reg_resetOf {a : Nat} (b : Build) (ha : a ≠ rBINO_STATE) : reg a (State.resetOf b) = regReset a := by
  unfold reg State.resetOf
  split
  · exact if_neg ha
  · exact tget_nil a

theorem binoState_resetOf (b : Build) : binoState (State.resetOf b) = if b.paired then 1 else 0 := by
  unfold binoState reg State.resetOf
  split <;> rfl

theorem merState_resetOf (b : Build) : merState (State.resetOf b) = 0 := by
  unfold merState
  rw [reg_resetOf b (by decide)]
  decide

/-! ### Units at reset: each table is empty, so every object reads as its value after reset -/

@[simp] theorem tally_resetOf (b : Build) (stall i : Nat) : tally stall i (State.resetOf b) = 0#32 := rfl
@[simp] theorem ledgerAt_resetOf (b : Build) (l : Nat) : ledgerAt l (State.resetOf b) = Ledger.free := rfl
@[simp] theorem lineAt_resetOf (b : Build) (n : Nat) : lineAt n (State.resetOf b) = Line.idle := rfl
@[simp] theorem musterCtrl_resetOf (b : Build) (e : Nat) : musterCtrl e (State.resetOf b) = 0#32 := rfl
@[simp] theorem linkAt_resetOf (b : Build) (port : Nat) : linkAt port (State.resetOf b) = Link.down := rfl
@[simp] theorem queueAt_resetOf (b : Build) (q : Nat) : queueAt q (State.resetOf b) = QueueSt.idle := rfl

theorem sigWaiting_resetOf (b : Build) (port : Nat) : sigWaiting port (State.resetOf b) = 0 := by
  unfold sigWaiting
  rw [linkAt_resetOf]
  rfl

/-- A board line that no enabled line has as its board part is pulled low (R321). -/
theorem boardPull_of_disabled {s : State} (n : Nat) (h : ∀ m, lEnable (lineAt m s).cfg = false) : boardPull n s = true := by
  have hnone : (List.range 16).find? (fun m => bitOf (lineAt m s).cfg 0 && bitOf (lineAt m s).cfg 1 && fieldOf (lineAt m s).cfg 2 2 == n) = none := by
    refine List.find?_eq_none.2 fun m _ => ?_
    rw [show bitOf (lineAt m s).cfg 0 = false from h m]
    simp
  unfold boardPull
  rw [hnone]

/-! ### The statement -/

/-- RST_N has no place in the order of a transit and raises no fault: in every state it answers `resetNow`. -/
theorem resetClears : Claims.ResetClears := fun _ => rfl

theorem resetValues : Claims.ResetValues := by
  intro b r
  have hlines : ∀ n, lEnable (lineAt n r).cfg = false ∧ (lineAt n r).pull = true := fun n => by rw [lineAt_resetOf]; decide
  have hboard : ∀ n, boardPull n r = true := fun n => boardPull_of_disabled n fun m => (hlines m).1
  have hlinks : ∀ p, (linkAt p r).state = 0 ∧ sigWaiting p r = 0 := fun p => ⟨by rw [linkAt_resetOf]; rfl, sigWaiting_resetOf b p⟩
  have hqueues : ∀ q, (queueAt q r).state = 0 ∧ (queueAt q r).head = 0 ∧ (queueAt q r).tail = 0 := fun q => by rw [queueAt_resetOf]; decide
  have hreg : ∀ {a : Nat} {v : Word}, a ≠ rBINO_STATE → regReset a = v → reg a r = v := fun ha hv => (reg_resetOf b ha).trans hv
  exact ⟨tally_resetOf b, fun l => by rw [ledgerAt_resetOf]; rfl, hlines, hboard, fun e => by rw [musterCtrl_resetOf]; decide, hlinks, hqueues,
    rfl, merState_resetOf b, rfl, rfl, rfl, fun _ _ ha hne hx => hreg hne (regReset_of_regRow ha hx), binoState_resetOf b,
    hreg (by decide) (by decide), hreg (by decide) (by decide), hreg (by decide) (by decide)⟩

/-- Settles O11: reset empties every table, so that each unit reads as unlisted, and each register at its row of the map but the one that the build decides. -/
theorem resetStates : Obligations.ResetStates := ⟨resetClears, resetValues⟩

end Sys2Proof.Machine
end

section
/-! PROOF. The front of the queue, the faults of ports that the build lacks, and the tables of the state held in reset (R5, R26; log 4, log 11). -/

namespace Sys2Proof.Machine

/-! ### The queue of commands (log 4) -/

theorem step_cons {c : Instr} {rest : List Instr} {s : State} (h : s.pending = c :: rest) : step s = exec c { s with pending := rest } := by
  unfold step
  rw [h]

theorem step_nil {s : State} (h : s.pending = []) : step s = .next s := by
  unfold step
  rw [h]

/-- Settles O1: `step` is a case split on the queue. -/
theorem stepRunsFront : Obligations.StepRunsFront := ⟨fun _ _ _ => step_cons, fun _ => step_nil⟩

/-! ### Ports that the build may lack (log 11) -/

/-- An answer that stops with the named fault where there is one, with the missing management port's where `noAgent` says so, and else with no fault. -/
structure Guarded (need : Option Fault) (noAgent : Bool) (x : Answer) : Prop where
  stops : ∀ f, need = some f → x = .fault f
  stopsAgent : need = none → noAgent = true → x = .fault .noSuchMgmtPort
  runs : need = none → noAgent = false → ∃ t, x = .next t

section
variable {c : Instr} {f : State → State} {s : State} {n : Nat} {x : Answer}

theorem Guarded.next (t : State) : Guarded none false (.next t) := ⟨nofun, nofun, fun _ _ => ⟨t, rfl⟩⟩

theorem Guarded.stop (e : Fault) {noAgent : Bool} : Guarded (some e) noAgent (.fault e) := ⟨fun f hf => by cases hf; rfl, nofun, nofun⟩

/-- A check of the port before an answer that itself lacks nothing more than its agent. -/
theorem Guarded.check {p : Prop} [Decidable p] {e : Fault} {noAgent : Bool} (h : Guarded none noAgent x) :
    Guarded (if decide p then none else some e) noAgent (if p then x else .fault e) := by
  by_cases hp : p
  · simpa [hp] using h
  · simp only [hp, decide_false, if_false]
    exact .stop e

theorem Guarded.checkBool {b : Bool} {e : Fault} {noAgent : Bool} (h : Guarded none noAgent x) :
    Guarded (if b then none else some e) noAgent (if b then x else .fault e) := by
  simpa using Guarded.check (p := b = true) (e := e) h

theorem Guarded.checkNot {b b' : Bool} {e : Fault} {noAgent : Bool} (hb : b' = !b) (h : Guarded none noAgent x) :
    Guarded (if b then none else some e) noAgent (if b' then .fault e else x) := by
  subst hb
  cases b
  · exact .stop e
  · exact h

theorem onStall_guarded : Guarded (if hasStall n s then none else some .noSuchStallPort) false (onStall n c f s) := .checkBool (.next _)
theorem onPort_guarded : Guarded (if hasPort n s then none else some .noSuchRingPort) false (onPort n c f s) := .checkBool (.next _)
theorem onLine_guarded : Guarded (if decide (n < 16) then none else some .noSuchBellLine) false (onLine n c f s) := .check (.next _)
theorem onBoard_guarded : Guarded (if decide (n < 4) then none else some .noSuchBellLine) false (onBoard n c f s) := .check (.next _)
theorem onSides_guarded : Guarded (if s.build.paired then none else some .noSuchSide) false (onSides c f s) := .checkBool (.next _)

theorem onAgent_guarded {a : Agent} (hc : agentOf c = some a) : Guarded none (lacksAgent c s) (onAgent a c f s) := by
  unfold lacksAgent
  rw [hc]
  cases a with
  | steward => exact .next _
  | mgmt p m =>
    simp only [onAgent, hasAgent]
    by_cases h : p < s.build.mgmtPorts
    · simpa [h, Nat.not_le.2 h] using Guarded.next _
    · simp only [h, decide_false, Bool.false_eq_true, if_false, Nat.not_lt.1 h, decide_true]
      exact ⟨nofun, fun _ _ => rfl, nofun⟩

theorem onRingPage_guarded {a : Agent} (hc : agentOf c = some a) :
    Guarded (if decide (n < 8) then none else some .noSuchRingPort) (lacksAgent c s) (onRingPage a n c f s) := .check (onAgent_guarded hc)
theorem onPlanePage_guarded {a : Agent} (hc : agentOf c = some a) :
    Guarded (if decide (n < 8) then none else some .noSuchStallPort) (lacksAgent c s) (onPlanePage a n c f s) := .check (onAgent_guarded hc)

end

/-- What each command answers: its wrapper checks the port that it names, and runs it. -/
theorem exec_guarded (c : Instr) (s : State) : Guarded (lacking c s) (lacksAgent c s) (exec c s) :=
  match c with
  | .tallyAdd .. | .tallySub .. | .tallyWait .. | .tallyTake .. | .tallyRead .. | .tallyBadIndex .. | .tallyRetest .. | .tlyCancel .. => onStall_guarded
  | .bellOutChange n line v => by
    show Guarded (if line < 16 then _ else _) false (if line < 16 then _ else _)
    by_cases h : line < 16
    · rw [if_pos h, if_pos h]
      exact onStall_guarded
    · rw [if_neg h, if_neg h]
      exact .stop _
  | .upBeat .. => .checkNot (b := _ && _) (by rw [Bool.not_and]) (.next _)
  | .chunkRelease .. => .checkNot rfl (.next _)
  | .planeSelftestDone .. | .remoteAddApply .. => .checkBool (.next _)
  | .bellRing .. | .boardHoldExpire .. | .bellRearm .. => onLine_guarded
  | .bellExtHigh .. | .bellExtLow .. => onBoard_guarded
  | .bellExtSenseChange n l => by
    show Guarded _ false (if filterPasses l.edges s then _ else _)
    cases filterPasses l.edges s
    · exact .check (.next _)
    · exact onBoard_guarded
  | .bellMsgReceive .. | .verdictMsgReceive .. | .remoteAddReceive .. | .ringChunkReceive .. | .chunkForward .. | .ringStepEnd ..
  | .recallMsgReceive .. | .flitReceive .. | .nakReceive .. | .replayTimeout .. | .flitTransmit .. | .heartbeatSend .. | .nullSend .. | .linkLost ..
  | .linkDown .. | .trainFlitReceive .. | .timeFrameReceive .. | .linkTraining .. => onPort_guarded
  | .binoMismatch .. | .binoStateCompare .. | .lateMismatch .. | .sideFault .. => onSides_guarded
  | .retrain .. | .ringCreditWrite .. => onRingPage_guarded rfl
  | .planePowerDown .. | .planePowerUp .. | .spillPoolWrite .. => onPlanePage_guarded rfl
  | .mailboxRead .. => .check (onAgent_guarded rfl)
  | .doorbell .. | .standingPin .. | .standingUnpin .. | .tallyWindowSet .. | .tallyWindowAdd .. | .tallyWindowSub .. | .tallyWindowRead ..
  | .sigSend .. | .meridianCal .. | .resync .. | .inputDelayWrite .. | .swapArm .. | .swapDisarm .. | .ephemerisEntryWrite .. | .powerFenceWrite ..
  | .softReset .. | .pageLock .. | .restoreTrims .. | .errlogPop .. | .errlogHeadRead .. | .loReadLatch .. | .readToClear .. | .takeover ..
  | .repair .. | .repairWithdraw .. | .ownerOffer .. | .ownerHeartbeat .. | .stewardKick .. | .stewardRestart .. | .queueEnable ..
  | .queueDisable .. | .queueResume .. | .queueCfgWrite .. | .maskDataWrite .. | .ledgerRelease .. | .unfence .. | .topologyWrite ..
  | .groupCfgWrite .. | .lineCfgWrite .. | .lineMembersWrite .. | .musterCtrlWrite .. | .thresholdWrite .. | .assayPolicyWrite ..
  | .perfClear .. | .injectArm .. | .registerWrite .. | .ownerClaim .. | .ownerAccept .. | .nonownerWrite .. | .mailboxWrite ..
  | .mgmtErrorResponse .. => onAgent_guarded rfl
  | .fenceInChange v => by
    simp only [lacking, exec, execFenceInChange]
    split <;> exact .next _
  | .throttleChange v => by
    simp only [lacking, exec, execThrottleChange]
    split <;> exact .next _
  | .resetAssert | .startup _ | .imageTimeout | .lockTimeout | .trainTimeout | .ownerElection | .transitBoundary .. | .treeSumArrive ..
  | .verdictPass .. | .verdictRing .. | .memReadData .. | .memWriteResponse .. | .memTimeout .. | .descriptorFetch .. | .descriptorDecode ..
  | .standingRun .. | .descriptorStart .. | .reduce .. | .broadcast .. | .allreduce .. | .reduceScatter .. | .allgather .. | .max .. | .argmax ..
  | .topk .. | .sample .. | .alltoall .. | .barrier .. | .fence .. | .ledgerOpen .. | .ledgerAdd .. | .ledgerClose .. | .save .. | .restore ..
  | .ledgerClaim .. | .waitListClaim .. | .pageGrant .. | .upPhaseOpen .. | .upPhaseClose .. | .egress .. | .almanacCompare .. | .recallOp ..
  | .reEmission .. | .seal .. | .descriptorFail .. | .completionRecordWrite .. | .ringStepStart .. | .statisticsLap .. | .merMarkPulse ..
  | .timecodeFrame .. | .meridianLock | .markMissing | .refLoss | .meridianLost | .reacquire .. | .slewComplete | .fenceHigh | .bankSwap
  | .idleEnter | .faultDetect .. | .containedReplay .. | .ledgerFatal .. | .fabricFatal .. | .watchdog .. | .offerLapse | .ownerVacant
  | .stewardWatchdog | .stewardGuard .. | .injectFire .. | .merRefReturn | .glitchRemoved .. => .next _

/-- Settles O3: each command's wrapper raises the fault of what it names, the agent's port after that, and nothing else. -/
theorem absentPortsFault : Obligations.AbsentPortsFault := fun c s => ⟨(exec_guarded c s).stops, (exec_guarded c s).stopsAgent, (exec_guarded c s).runs⟩

/-! ### The state held in reset -/

theorem resetOf_tablesWf (b : Build) : (State.resetOf b).tablesWf = true := by
  cases hp : b.paired <;> simp only [State.tablesWf, State.resetOf, hp] <;> decide

/-- Settles O56: in reset every table is empty but the registers of a paired build, which hold the pair's state alone. -/
theorem resetTables : Obligations.ResetTables := by
  intro b hb
  have hr : (State.resetOf b).allWf = (b.wf && (State.resetOf b).tablesWf && true && true && true && true) := rfl
  rw [hr, hb, resetOf_tablesWf]
  rfl

end Sys2Proof.Machine
end

section
/-! PROOF. What every step keeps: the build, the queue of commands, and the canonical form of every table. `Keeps r s` says that `s` has kept what `r` had; each operation on the state, and each on a unit of it, has one lemma that says that it keeps it. -/

namespace Sys2Proof.Machine

/-- The tables within operations, ledgers, links and planes are in canonical form. -/
def State.innerWf (s : State) : Bool :=
  s.ops.all Op.tablesWf && s.ledgers.all (fun x => x.2.tablesWf) && s.links.all (fun x => tableWf none x.2.streams) && s.planes.all fun x => tableWf 0 x.2.nextChild

theorem allWf_eq (s : State) : s.allWf = (s.build.wf && (s.tablesWf && s.innerWf)) := by
  simp only [State.allWf, State.innerWf, Bool.and_assoc]

/-! ### The units -/

/-- The tables of a leg are in canonical form where those of `r` are; so for the units below. -/
structure LegOk (r : State) (g : Leg) : Prop where
  got : r.innerWf = true → tableWf 0 g.got = true
  region : r.innerWf = true → tableWf 0#64 g.region = true
  stats : r.innerWf = true → tableWf [] g.stats = true
  images : r.innerWf = true → tableWf [] g.images = true
  beatsOut : r.innerWf = true → tableWf 0 g.beatsOut = true

structure OpOk (r : State) (o : Op) : Prop where
  prog : r.innerWf = true → tableWf TileProg.fresh o.prog = true
  beats : r.innerWf = true → tableWf none o.beats = true
  summed : r.innerWf = true → tableWf 0 o.summed = true
  passed : r.innerWf = true → tableWf 0 o.passed = true
  limbs : r.innerWf = true → tableWf none o.limbs = true
  fresh : r.innerWf = true → tableWf none o.fresh = true
  folded : r.innerWf = true → tableWf 0#64 o.folded = true
  blocks0 : r.innerWf = true → tableWf 0#64 o.blocks0 = true
  leg : ∀ g, o.leg = some g → LegOk r g

structure LedgerOk (r : State) (l : Ledger) : Prop where
  acc : r.innerWf = true → tableWf 0#64 l.acc = true
  blocks : r.innerWf = true → tableWf 0#64 l.blocks = true
  pages : r.innerWf = true → tableWf PageSt.resident l.pages = true

structure LinkOk (r : State) (k : Link) : Prop where
  streams : r.innerWf = true → tableWf none k.streams = true

structure PlaneOk (r : State) (p : PlaneSt) : Prop where
  nextChild : r.innerWf = true → tableWf 0 p.nextChild = true

/-- No reserved bit in CFG (R436). -/
structure QueueOk (r : State) (q : QueueSt) : Prop where
  cfg : r.tablesWf = true → q.cfg &&& 0x00FF1F7F#32 = q.cfg

structure TabsOk (r : State) (t : Tabs) : Prop where
  trims : r.tablesWf = true → tableWf 0#32 t.trims = true
  ephemeris : r.tablesWf = true → tableWf 0#32 t.ephemeris = true
  masks : r.tablesWf = true → tableWf 0#32 t.masks = true
  profiles : r.tablesWf = true → tableWf 0#32 t.profiles = true
  musters : r.tablesWf = true → tableWf 0#32 t.musters = true
  lineMembers : r.tablesWf = true → tableWf 0#32 t.lineMembers = true
  almanac : r.tablesWf = true → tableWf 0#32 t.almanac = true
  tallies : r.tablesWf = true → tableWf 0#32 t.tallies = true

structure OwnerOk (r : State) (w : Owner) : Prop where
  claims : r.tablesWf = true → tableWf none w.claims = true
  mailbox : r.tablesWf = true → tableWf [] w.mailbox = true
  mailOver : r.tablesWf = true → tableWf 0 w.mailOver = true
  requests : r.tablesWf = true → tableWf [] w.requests = true

structure LogOk (r : State) (l : ErrLog) : Prop where
  ledgerChains : r.tablesWf = true → tableWf 0 l.ledgerChains = true
  sourceChains : r.tablesWf = true → tableWf 0 l.sourceChains = true
  sealedAt : r.tablesWf = true → tableWf 0 l.sealedAt = true

/-- `s` has the build and the queue of commands of `r`, and every table that is in canonical form in `r` is so in `s`. -/
structure Keeps (r s : State) : Prop where
  build : s.build = r.build
  pending : s.pending = r.pending
  regs : r.tablesWf = true → tableWfBy regReset s.regs = true
  hiLatch : r.tablesWf = true → tableWf none s.hiLatch = true
  setNow : r.tablesWf = true → tableWf 0#32 s.setNow = true
  counts : r.tablesWf = true → tableWf 0 s.counts = true
  tabs : TabsOk r s.tabs
  lines : r.tablesWf = true → tableWf Line.idle s.lines = true
  verdicts : r.tablesWf = true → tableWf Verdict.idle s.verdicts = true
  links : r.tablesWf = true → tableWf Link.down s.links = true
  groups : r.tablesWf = true → tableWf GroupDef.clear s.groups = true
  owner : OwnerOk r s.owner
  log : LogOk r s.log
  queues : r.tablesWf = true → tableWf QueueSt.idle s.queues = true
  ledgers : r.tablesWf = true → tableWf Ledger.free s.ledgers = true
  stalls : r.tablesWf = true → tableWf StallSt.quiet s.stalls = true
  planes : r.tablesWf = true → tableWf PlaneSt.on s.planes = true
  ops : ∀ o ∈ s.ops, OpOk r o
  linksIn : ∀ x ∈ s.links, LinkOk r x.2
  queuesIn : ∀ x ∈ s.queues, QueueOk r x.2
  ledgersIn : ∀ x ∈ s.ledgers, LedgerOk r x.2
  planesIn : ∀ x ∈ s.planes, PlaneOk r x.2

section
variable {r s t : State}

theorem legOk_of {g : Leg} (h : r.innerWf = true → g.tablesWf = true) : LegOk r g := by
  have h' := fun hi => (by simpa only [Leg.tablesWf, Bool.and_eq_true, and_assoc] using h hi : _ ∧ _ ∧ _ ∧ _ ∧ _)
  exact ⟨fun hi => (h' hi).1, fun hi => (h' hi).2.1, fun hi => (h' hi).2.2.1, fun hi => (h' hi).2.2.2.1, fun hi => (h' hi).2.2.2.2⟩

theorem LegOk.tablesWf {g : Leg} (h : LegOk r g) (hi : r.innerWf = true) : g.tablesWf = true := by
  simp only [Leg.tablesWf, h.got hi, h.region hi, h.stats hi, h.images hi, h.beatsOut hi, Bool.and_self]

theorem opOk_of {o : Op} (h : r.innerWf = true → o.tablesWf = true) : OpOk r o := by
  have h' := fun hi => (by simpa only [Op.tablesWf, Bool.and_eq_true, and_assoc] using h hi : _ ∧ _ ∧ _ ∧ _ ∧ _ ∧ _ ∧ _ ∧ _ ∧ _)
  constructor
  case leg => exact fun g hg => legOk_of fun hi => by obtain ⟨-, -, -, -, -, -, -, -, h⟩ := h' hi; simpa only [hg] using h
  all_goals exact fun hi => by obtain ⟨hprog, hbeats, hsummed, hpassed, hlimbs, hfresh, hfolded, hblocks, -⟩ := h' hi; assumption

theorem OpOk.tablesWf {o : Op} (h : OpOk r o) (hi : r.innerWf = true) : o.tablesWf = true := by
  have hg : (match o.leg with | none => true | some g => g.tablesWf) = true := by
    split
    · rfl
    · exact (h.leg _ ‹_›).tablesWf hi
  simp only [Op.tablesWf, h.prog hi, h.beats hi, h.summed hi, h.passed hi, h.limbs hi, h.fresh hi, h.folded hi, h.blocks0 hi, Bool.true_and]
  exact hg

theorem ledgerOk_of {l : Ledger} (h : r.innerWf = true → l.tablesWf = true) : LedgerOk r l := by
  have h' := fun hi => (by simpa only [Ledger.tablesWf, Bool.and_eq_true, and_assoc] using h hi : _ ∧ _ ∧ _)
  exact ⟨fun hi => (h' hi).1, fun hi => (h' hi).2.1, fun hi => (h' hi).2.2⟩

theorem LedgerOk.tablesWf {l : Ledger} (h : LedgerOk r l) (hi : r.innerWf = true) : l.tablesWf = true := by
  simp only [Ledger.tablesWf, h.acc hi, h.blocks hi, h.pages hi, Bool.and_self]

/-! ### The state that a step starts from, and what it has kept at its end -/

theorem Keeps.refl (s : State) : Keeps s s := by
  have hi := fun h : s.innerWf = true => (by simpa only [State.innerWf, Bool.and_eq_true, List.all_eq_true, and_assoc] using h : _ ∧ _ ∧ _ ∧ _)
  have ht := fun h : s.tablesWf = true => (by simpa only [State.tablesWf, regsWf, Tabs.wf, queuesWf, Bool.and_eq_true, List.all_eq_true, and_assoc] using h)
  constructor
  case build | pending => rfl
  case tabs => constructor <;> intro h <;> simp only [ht h]
  case owner => constructor <;> intro h <;> simp only [ht h]
  case log => constructor <;> intro h <;> simp only [ht h]
  case ops => exact fun o ho => opOk_of fun h => (hi h).1 o ho
  case ledgersIn => exact fun x hx => ledgerOk_of fun h => (hi h).2.1 x hx
  case linksIn => exact fun x hx => ⟨fun h => (hi h).2.2.1 x hx⟩
  case planesIn => exact fun x hx => ⟨fun h => (hi h).2.2.2 x hx⟩
  case queuesIn => exact fun x hx => ⟨fun h => by
    obtain ⟨-, -, -, -, -, -, -, -, -, -, -, -, -, -, -, -, -, -, -, -, -, -, -, -, hq, -⟩ := ht h
    simpa using hq x hx⟩
  all_goals
    intro h
    simp only [ht h]

theorem Keeps.tablesWf (h : Keeps s t) (hs : s.tablesWf = true) : t.tablesWf = true := by
  have hq : queuesWf t.queues = true := by
    simp only [queuesWf, h.queues hs, Bool.true_and, List.all_eq_true]
    exact fun x hx => by simpa using (h.queuesIn x hx).cfg hs
  simp only [State.tablesWf, regsWf, Tabs.wf, hq, h.regs hs, h.hiLatch hs, h.setNow hs, h.counts hs, h.tabs.trims hs, h.tabs.ephemeris hs, h.tabs.masks hs,
    h.tabs.profiles hs, h.tabs.musters hs, h.tabs.lineMembers hs, h.tabs.almanac hs, h.tabs.tallies hs, h.lines hs, h.verdicts hs, h.links hs, h.groups hs,
    h.owner.claims hs, h.owner.mailbox hs, h.owner.mailOver hs, h.owner.requests hs, h.log.ledgerChains hs, h.log.sourceChains hs, h.log.sealedAt hs,
    h.ledgers hs, h.stalls hs, h.planes hs, Bool.and_self]

theorem Keeps.innerWf (h : Keeps s t) (hs : s.innerWf = true) : t.innerWf = true := by
  simp only [State.innerWf, Bool.and_eq_true, List.all_eq_true, and_assoc]
  exact ⟨fun o ho => (h.ops o ho).tablesWf hs, fun x hx => (h.ledgersIn x hx).tablesWf hs, fun x hx => (h.linksIn x hx).streams hs, fun x hx => (h.planesIn x hx).nextChild hs⟩

theorem Keeps.allWf (h : Keeps s t) (hs : s.allWf = true) : t.allWf = true := by
  rw [allWf_eq] at hs ⊢
  obtain ⟨hb, ht, hi⟩ := by simpa only [Bool.and_eq_true] using hs
  rw [h.build, hb, h.tablesWf ht, h.innerWf hi]
  rfl

end

/-! ### Entries of tables -/

section
variable {α : Type} [DecidableEq α] {d : α}

omit [DecidableEq α] in
/-- What a table's keys read as, the entries' predicate holding of what an unlisted key reads as. -/
theorem tget_mem {P : α → Prop} (k : Nat) {t : Table α} (ht : ∀ x ∈ t, P x.2) (hd : P d) : P (tget d k t) := by
  induction t with
  | nil => exact hd
  | cons x t ih =>
    obtain ⟨k', v⟩ := x
    unfold tget
    split
    · exact ht _ List.mem_cons_self
    · exact ih fun y hy => ht y (List.mem_cons_of_mem _ hy)

/-- The entries after a write: the old ones and the one that was written. -/
theorem mem_tset {k : Nat} {v : α} {t : Table α} {x : Nat × α} (h : x ∈ tset d k v t) : x ∈ t ∨ x = (k, v) := by
  induction t with
  | nil =>
    unfold tset at h
    split at h
    · cases h
    · exact .inr (List.mem_singleton.1 h)
  | cons y t ih =>
    obtain ⟨k', v'⟩ := y
    unfold tset at h
    split at h
    · split at h
      · exact .inl h
      · rcases List.mem_cons.1 h with h | h
        · exact .inr h
        · exact .inl h
    · split at h
      · split at h
        · exact .inl (List.mem_cons_of_mem _ h)
        · rcases List.mem_cons.1 h with h | h
          · exact .inr h
          · exact .inl (List.mem_cons_of_mem _ h)
      · rcases List.mem_cons.1 h with h | h
        · exact .inl (h ▸ List.mem_cons_self)
        · exact (ih h).imp (List.mem_cons_of_mem _) id

theorem tset_mem {P : α → Prop} {k : Nat} {v : α} {t : Table α} (ht : ∀ x ∈ t, P x.2) (hv : P v) : ∀ x ∈ tset d k v t, P x.2 := by
  intro x hx
  rcases mem_tset hx with h | h
  · exact ht x h
  · exact h ▸ hv

end

/-! ### One update of the state -/

section
variable {r s : State}

theorem setReg_keeps {a : Nat} {v : Word} (h : Keeps r s) : Keeps r (setReg a v s) := { h with regs := fun w => tset_wfBy _ _ _ (h.regs w) }

theorem setLedger_keeps {l : Nat} {v : Ledger} (hv : LedgerOk r v) (h : Keeps r s) : Keeps r (setLedger l v s) :=
  { h with ledgers := fun w => tset_wf _ _ _ (h.ledgers w), ledgersIn := tset_mem h.ledgersIn hv }
theorem setQueue_keeps {q : Nat} {v : QueueSt} (hv : QueueOk r v) (h : Keeps r s) : Keeps r (setQueue q v s) :=
  { h with queues := fun w => tset_wf _ _ _ (h.queues w), queuesIn := tset_mem h.queuesIn hv }
theorem setLink_keeps {n : Nat} {v : Link} (hv : LinkOk r v) (h : Keeps r s) : Keeps r (setLink n v s) :=
  { h with links := fun w => tset_wf _ _ _ (h.links w), linksIn := tset_mem h.linksIn hv }
theorem setPlane_keeps {p : Nat} {v : PlaneSt} (hv : PlaneOk r v) (h : Keeps r s) : Keeps r (setPlane p v s) :=
  { h with planes := fun w => tset_wf _ _ _ (h.planes w), planesIn := tset_mem h.planesIn hv }

theorem replaceOp_mem {o x : Op} {l : List Op} (h : x ∈ replaceOp o l) : x = o ∨ x ∈ l := by
  induction l with
  | nil => cases h
  | cons p ps ih =>
    unfold replaceOp at h
    split at h
    · exact (List.mem_cons.1 h).imp id (List.mem_cons_of_mem _)
    · rcases List.mem_cons.1 h with h | h
      · exact .inr (h ▸ List.mem_cons_self)
      · exact (ih h).imp id (List.mem_cons_of_mem _)

theorem setOp_keeps {o : Op} (ho : OpOk r o) (h : Keeps r s) : Keeps r (setOp o s) :=
  { h with ops := fun x hx => (replaceOp_mem hx).elim (fun e => e ▸ ho) (h.ops x) }
theorem removeOp_keeps {id : OpId} (h : Keeps r s) : Keeps r (removeOp id s) := { h with ops := fun o ho => h.ops o (List.mem_of_mem_filter ho) }

/-! ### What the units of a state read as -/

theorem ledgerFree_ok : LedgerOk r Ledger.free := ⟨fun _ => rfl, fun _ => rfl, fun _ => rfl⟩
theorem linkDown_ok : LinkOk r Link.down := ⟨fun _ => rfl⟩
theorem planeOn_ok : PlaneOk r PlaneSt.on := ⟨fun _ => rfl⟩
theorem queueIdle_ok : QueueOk r QueueSt.idle := ⟨fun _ => rfl⟩

theorem Keeps.ledgerAt {l : Nat} (h : Keeps r s) : LedgerOk r (ledgerAt l s) := tget_mem l h.ledgersIn ledgerFree_ok
theorem Keeps.linkAt {n : Nat} (h : Keeps r s) : LinkOk r (linkAt n s) := tget_mem n h.linksIn linkDown_ok
theorem Keeps.planeAt {p : Nat} (h : Keeps r s) : PlaneOk r (planeAt p s) := tget_mem p h.planesIn planeOn_ok
theorem Keeps.queueAt {q : Nat} (h : Keeps r s) : QueueOk r (queueAt q s) := tget_mem q h.queuesIn queueIdle_ok

theorem findOp_mem {id : OpId} {o : Op} {l : List Op} (h : findOp id l = some o) : o ∈ l := by
  induction l with
  | nil => cases h
  | cons p l ih =>
    unfold findOp at h
    split at h
    · cases h
      exact List.mem_cons_self
    · exact List.mem_cons_of_mem _ (ih h)

theorem Keeps.opAt {id : OpId} {o : Op} (h : Keeps r s) (ho : opAt id s = some o) : OpOk r o := h.ops o (findOp_mem ho)
theorem Keeps.findOps {p : Op → Bool} {o : Op} (h : Keeps r s) (ho : s.ops.find? p = some o) : OpOk r o := h.ops o (List.mem_of_find?_eq_some ho)

/-! ### Branches and loops -/

theorem Keeps.ite {c : Prop} [Decidable c] {a b : State} (ha : Keeps r a) (hb : Keeps r b) : Keeps r (if c then a else b) := by
  split
  · exact ha
  · exact hb

/-- A further effect where a condition holds. -/
theorem Keeps.when {c : Prop} [Decidable c] {a : State} (h : Keeps r s) (ha : Keeps r s → Keeps r a) : Keeps r (if c then a else s) := .ite (ha h) h
theorem Keeps.unless {c : Prop} [Decidable c] {a : State} (h : Keeps r s) (ha : Keeps r s → Keeps r a) : Keeps r (if c then s else a) := .ite h (ha h)

theorem Keeps.foldl {α : Type} {f : State → α → State} {l : List α} (h : Keeps r s) (hf : ∀ s x, Keeps r s → Keeps r (f s x)) : Keeps r (l.foldl f s) := by
  induction l generalizing s with
  | nil => exact h
  | cons x l ih => exact ih (hf s x h)

theorem Keeps.next {t : State} (h : Keeps r s) (k : Keeps r s → Keeps r t) : Keeps r t := k h

theorem Keeps.foldl_mem {α : Type} {f : State → α → State} {l : List α} (h : Keeps r s) (hf : ∀ s, ∀ x ∈ l, Keeps r s → Keeps r (f s x)) : Keeps r (l.foldl f s) := by
  induction l generalizing s with
  | nil => exact h
  | cons x l ih => exact ih (hf s x List.mem_cons_self h) fun s y hy => hf s y (List.mem_cons_of_mem _ hy)

theorem foldl_inv {α β : Type} {P : β → Prop} {f : β → α → β} {l : List α} {b : β} (h : P b) (hf : ∀ b x, P b → P (f b x)) : P (l.foldl f b) := by
  induction l generalizing b with
  | nil => exact h
  | cons x l ih => exact ih (hf b x h)

theorem ite_ok {β : Type} {P : β → Prop} {c : Prop} [Decidable c] {a b : β} (ha : P a) (hb : P b) : P (if c then a else b) := by
  split
  · exact ha
  · exact hb

theorem ite_wf {β : Type} [DecidableEq β] {d : β} {c : Prop} [Decidable c] {a b : Table β} (ha : tableWf d a = true) (hb : tableWf d b = true) :
    tableWf d (if c then a else b) = true := by
  split
  · exact ha
  · exact hb

theorem filter_wf {β : Type} [DecidableEq β] {d : β} (p : Nat × β → Bool) {t : Table β} (h : tableWf d t = true) : tableWf d (t.filter p) = true := by
  induction t with
  | nil => rfl
  | cons x t ih =>
    obtain ⟨hk, hv, ht⟩ := tableWfBy_cons.1 h
    by_cases hp : p x = true
    · rw [List.filter_cons_of_pos hp]
      refine tableWfBy_cons.2 ⟨?_, hv, ih ht⟩
      simp only [keysAbove, List.all_eq_true] at hk ⊢
      exact fun y hy => hk y (List.mem_of_mem_filter hy)
    · rw [List.filter_cons_of_neg hp]
      exact ih ht

theorem map_mem {α : Type} {P : α → Prop} {f : α → α} {l : List α} (h : ∀ x ∈ l, P x) (hf : ∀ x, P x → P (f x)) : ∀ x ∈ l.map f, P x :=
  fun _ hx => let ⟨y, hy, e⟩ := List.mem_map.1 hx; e ▸ hf y (h y hy)

theorem leg_some {g : Leg} (h : LegOk r g) : ∀ g', some g = some g' → LegOk r g' := fun _ e => Option.some.inj e ▸ h

theorem leg_map {x : Option Leg} {f : Leg → Leg} (h : ∀ g, x = some g → LegOk r g) (hf : ∀ g, LegOk r g → LegOk r (f g)) :
    ∀ g, x.map f = some g → LegOk r g :=
  fun _ e => let ⟨g, hg, e⟩ := Option.map_eq_some_iff.1 e; e ▸ hf g (h g hg)

theorem modOp_keeps {id : OpId} {f : Op → Op} (hf : ∀ o, OpOk r o → OpOk r (f o)) (h : Keeps r s) : Keeps r (modOp id f s) := by
  unfold modOp
  split
  · exact h
  · next o ho => exact setOp_keeps (hf o (h.opAt ho)) h

theorem withOp_keeps {id : OpId} {f : Op → State → State} (hf : ∀ o s, OpOk r o → Keeps r s → Keeps r (f o s)) (h : Keeps r s) : Keeps r (withOp id f s) := by
  unfold withOp
  split
  · exact h
  · next o ho => exact hf o s (h.opAt ho) h

end

end Sys2Proof.Machine
end

section
/-! PROOF. Each function of the model keeps the build, the queue of commands and the canonical form of every table (`Keeps`), in the order of the model. -/

namespace Sys2Proof.Machine

/-! ### What the functions of `Machine/Ops` keep -/

section
variable {r s : State}

theorem count_keeps {a : ℕ} {n : ℕ} (hs : Keeps r s) : Keeps r (count a n s) := setReg_keeps hs
theorem orReg_keeps {a : ℕ} {v : Word} (hs : Keeps r s) : Keeps r (orReg a v s) :=
  .next (setReg_keeps hs) fun h1 => { h1 with setNow := fun w => tset_wf _ _ _ (hs.setNow w) }
theorem clearBits_keeps {a : ℕ} {v : Word} (hs : Keeps r s) : Keeps r (clearBits a v s) := setReg_keeps hs
theorem setReg64_keeps {a : ℕ} {v : Word64} (hs : Keeps r s) : Keeps r (setReg64 a v s) := setReg_keeps (setReg_keeps hs)
theorem irq_keeps {page : ℕ} {b : ℕ} (hs : Keeps r s) : Keeps r (irq page b s) := orReg_keeps hs
theorem perf_keeps {i : ℕ} {n : ℕ} (hs : Keeps r s) : Keeps r (perf i n s) := .ite hs (.when (count_keeps hs) fun h1 => irq_keeps h1)
theorem perf64_keeps {i : ℕ} {n : ℕ} (hs : Keeps r s) : Keeps r (perf64 i n s) := .ite hs (setReg64_keeps hs)
theorem perfLater_keeps {i : ℕ} {n : ℕ} (hs : Keeps r s) : Keeps r (perfLater i n s) := { hs with counts := fun w => tset_wf _ _ _ (hs.counts w) }
theorem countsEdge_keeps (hs : Keeps r s) : Keeps r (countsEdge s) :=
  Keeps.foldl ({ hs with counts := fun _ => rfl }) fun _ _ hs1 => .ite (perf_keeps hs1) (perf64_keeps hs1)
theorem fireInjection_keeps (hs : Keeps r s) : Keeps r (fireInjection s) := .next (irq_keeps (count_keeps (setReg_keeps hs))) fun h1 => { h1 with }
theorem present_keeps {o : PortOut} (hs : Keeps r s) : Keeps r (present o s) := { hs with }
theorem setGroup_keeps {g : ℕ} {v : GroupDef} (hs : Keeps r s) : Keeps r (setGroup g v s) :=
  { hs with groups := fun w => tset_wf _ _ _ (hs.groups w) }
theorem setStall_keeps {n : ℕ} {v : StallSt} (hs : Keeps r s) : Keeps r (setStall n v s) := { hs with stalls := fun w => tset_wf _ _ _ (hs.stalls w) }
theorem setLine_keeps {n : ℕ} {v : Line} (hs : Keeps r s) : Keeps r (setLine n v s) := { hs with lines := fun w => tset_wf _ _ _ (hs.lines w) }
theorem setVerdict_keeps {k : ℕ} {v : Verdict} (hs : Keeps r s) : Keeps r (setVerdict k v s) :=
  { hs with verdicts := fun w => tset_wf _ _ _ (hs.verdicts w) }
theorem setTally_keeps {stall : ℕ} {t : ℕ} {v : Word} (hs : Keeps r s) : Keeps r (setTally stall t v s) :=
  { hs with tabs := { hs.tabs with tallies := fun w => tset_wf _ _ _ (hs.tabs.tallies w) } }
theorem addTally_keeps {stall : ℕ} {t : ℕ} {a : Word} (hs : Keeps r s) : Keeps r (addTally stall t a s) := setTally_keeps hs
theorem setBinoState_keeps {n : ℕ} (hs : Keeps r s) : Keeps r (setBinoState n s) := setReg_keeps hs
theorem setStewardState_keeps {n : ℕ} (hs : Keeps r s) : Keeps r (setStewardState n s) := setReg_keeps hs
theorem codeIrq_keeps {code : ℕ} {page : ℕ} (hs : Keeps r s) : Keeps r (codeIrq code page s) :=
  .ite (.ite (irq_keeps hs) (irq_keeps hs)) (.ite (irq_keeps hs) (.unless (irq_keeps hs) fun h1 => .ite (.ite h1 (.ite (irq_keeps hs) (.ite (irq_keeps
      hs) (.ite (irq_keeps hs) hs)))) (.unless h1 fun h2 => .ite (.ite h2 (irq_keeps hs)) (.ite (.ite h2 (.ite (irq_keeps hs) hs)) (.ite (.ite h2
      (irq_keeps hs)) (.ite (.ite (irq_keeps hs) (.ite (irq_keeps hs) hs)) (.ite (.ite (irq_keeps hs) (.ite h2 (.ite (irq_keeps hs) hs))) (.ite (.ite
      (irq_keeps hs) hs) (.ite (.ite (irq_keeps hs) hs) (.ite (.ite (irq_keeps hs) (.ite hs (irq_keeps hs))) hs))))))))))
theorem openChain_keeps {e : LogIn} (hs : Keeps r s) : Keeps r (openChain e s) := by
  unfold openChain
  dsimp only
  refine .ite hs ?_
  split
  · exact .ite ({ hs with log := { hs.log with ledgerChains := fun w => tset_wf _ _ _ (hs.log.ledgerChains w) } }) hs
  · exact .ite ({ hs with log := { hs.log with sourceChains := fun w => tset_wf _ _ _ (hs.log.sourceChains w) } }) hs
theorem closeLedgerChain_keeps {l : ℕ} (hs : Keeps r s) : Keeps r (closeLedgerChain l s) :=
  { hs with log := { hs.log with ledgerChains := fun w => tset_wf _ _ _ (hs.log.ledgerChains w) } }
theorem closeSourceChain_keeps {src : BitVec 16} (hs : Keeps r s) : Keeps r (closeSourceChain src s) :=
  { hs with log := { hs.log with sourceChains := fun w => tset_wf _ _ _ (hs.log.sourceChains w) } }
theorem entryAttributed_keeps {e : LogIn} (hs : Keeps r s) : Keeps r (attribute_ e s) := count_keeps (setReg_keeps (count_keeps (setReg_keeps hs)))
theorem logPush_keeps {e : LogEntry} (hs : Keeps r s) : Keeps r (logPush e s) :=
  .ite (.when (.when (.when (.when ({ hs with log := { hs.log with } }) fun h4 => irq_keeps h4) fun h3 => irq_keeps h3) fun h2 => irq_keeps h2) fun h1
      => irq_keeps h1) (.when (.ite (irq_keeps (count_keeps hs)) hs) fun h5 => irq_keeps h5)
theorem logFault_keeps {e : LogIn} (hs : Keeps r s) : Keeps r (logFault e s) := codeIrq_keeps (entryAttributed_keeps (logPush_keeps (openChain_keeps hs)))
theorem notice_keeps {code : ℕ} {src : BitVec 16} (hs : Keeps r s) : Keeps r (notice code src s) := logFault_keeps hs
theorem noticeLedger_keeps {code : ℕ} {src : BitVec 16} {l : ℕ} {attempt : ℕ} (hs : Keeps r s) : Keeps r (noticeLedger code src l attempt s) :=
  logFault_keeps hs
theorem raisePlane_keeps {p : ℕ} {f : Flags} (hs : Keeps r s) : Keeps r (raisePlane p f s) := .ite hs (.when (orReg_keeps hs) fun h1 => irq_keeps h1)
theorem raiseRing_keeps {n : ℕ} {f : Flags} (hs : Keeps r s) : Keeps r (raiseRing n f s) := .ite hs (orReg_keeps hs)
theorem raiseLedger_keeps {l : ℕ} {f : Flags} (hs : Keeps r s) : Keeps r (raiseLedger l f s) :=
  .ite hs (setLedger_keeps ({ acc := hs.ledgerAt.acc, blocks := hs.ledgerAt.blocks, pages := hs.ledgerAt.pages }) hs)
theorem findDue_keeps {d : Due} (hs : Keeps r s) : Keeps r (find_ d s) := { hs with }
theorem noticeNext_keeps {code : ℕ} {src : BitVec 16} (hs : Keeps r s) : Keeps r (noticeNext code src s) := findDue_keeps hs
end

/-! ### What the functions of `Machine/Ephemeris` keep -/

section
variable {r s : State}

theorem noteThrottle_keeps {was : Bool} (hs : Keeps r s) : Keeps r (noteThrottle was s) := .ite (irq_keeps hs) hs
theorem bankSwapApply_keeps (hs : Keeps r s) : Keeps r (bankSwapApply s) := by
  unfold bankSwapApply
  dsimp only
  split
  · exact hs
  · exact .ite hs (noteThrottle_keeps (irq_keeps (setReg_keeps ({ hs with }))))
theorem swapArmWrite_keeps {v : Word} (hs : Keeps r s) : Keeps r (swapArmWrite v s) :=
  .ite (.when ({ hs with }) fun h1 => noticeNext_keeps h1) ({ hs with })
theorem entryAutoInc_keeps {copy : ℕ} {w : ℕ} (hs : Keeps r s) : Keeps r (entryAutoInc copy w s) := .ite (setReg_keeps hs) hs
theorem entryWrite_keeps {copy : ℕ} {w : ℕ} {v : Word} (hs : Keeps r s) : Keeps r (entryWrite copy w v s) :=
  entryAutoInc_keeps (.ite (noticeNext_keeps hs) ({ hs with tabs := { hs.tabs with ephemeris := fun w => tset_wf _ _ _ (hs.tabs.ephemeris w) } }))
end

/-! ### What the functions of `Machine/Assay` keep -/

section
variable {r s : State}

theorem setAlmWord_keeps {e : ℕ} {w : ℕ} {v : Word} (hs : Keeps r s) : Keeps r (setAlmWord e w v s) :=
  { hs with tabs := { hs.tabs with almanac := fun w => tset_wf _ _ _ (hs.tabs.almanac w) } }
theorem almanacSeal_keeps {e : ℕ} {a : ℤ} {u : ℤ} {hit : Bool} (hs : Keeps r s) : Keeps r (almanacSeal e a u hit s) :=
  .ite (setAlmWord_keeps (setAlmWord_keeps hs)) (setAlmWord_keeps (setAlmWord_keeps hs))
theorem setRotActive_keeps {b : Bool} (hs : Keeps r s) : Keeps r (setRotActive b s) := .ite hs (irq_keeps (setReg_keeps hs))
theorem raiseTh_keeps {th : ℕ} {floor : ℕ} (hs : Keeps r s) : Keeps r (raiseTh th floor s) := .when (setReg_keeps hs) fun h1 => irq_keeps h1
theorem lowerTh_keeps {th : ℕ} (hs : Keeps r s) : Keeps r (lowerTh th s) := setReg_keeps hs
theorem ctlUpdate_keeps {fb : ℕ} {nb : ℕ} (hs : Keeps r s) : Keeps r (ctlUpdate fb nb s) :=
  .ite hs (.unless ({ hs with }) fun h1 => .ite (.ite (raiseTh_keeps (raiseTh_keeps (setReg_keeps h1))) (.when (setReg_keeps h1) fun h2 =>
      setRotActive_keeps h2)) (.when (setReg_keeps h1) fun h3 => .ite (setRotActive_keeps h3) (lowerTh_keeps (lowerTh_keeps h3))))
theorem emptyWindow_keeps (hs : Keeps r s) : Keeps r (emptyWindow s) := { hs with }
theorem clampTh_keeps (hs : Keeps r s) : Keeps r (clampTh s) := .when (.ite (setReg_keeps hs) hs) fun h1 => setReg_keeps h1
theorem assaySetting_keeps {off : ℕ} {v : Word} (hs : Keeps r s) : Keeps r (assaySetting off v s) :=
  .ite (clampTh_keeps (setReg_keeps hs)) (.ite (clampTh_keeps (setReg_keeps hs)) (.ite (clampTh_keeps (setReg_keeps hs)) (.ite (clampTh_keeps
      (setReg_keeps hs)) (.ite (.when (setReg_keeps hs) fun h1 => emptyWindow_keeps h1) (.ite (setReg_keeps hs) (.ite (setReg_keeps hs) (.ite
      (setReg_keeps hs) (.ite (.unless (setReg_keeps hs) fun h2 => emptyWindow_keeps h2) (.ite (setRotActive_keeps hs) hs)))))))))
end

/-! ### What the functions of `Machine/Meridian` keep -/

section
variable {r s : State}

theorem setMer_keeps {m : Meridian} (hs : Keeps r s) : Keeps r (setMer m s) := { hs with }
theorem calBit_keeps {i : ℕ} {on : Bool} (hs : Keeps r s) : Keeps r (calBit i on s) := setReg_keeps hs
theorem calEnd_keeps {outcome : ℕ} (hs : Keeps r s) : Keeps r (calEnd outcome s) := irq_keeps (calBit_keeps (calBit_keeps hs))
theorem lockedBegins_keeps (hs : Keeps r s) : Keeps r (lockedBegins s) := closeSourceChain_keeps ({ hs with })
theorem setMerState_keeps {n : ℕ} (hs : Keeps r s) : Keeps r (setMerState n s) :=
  .ite hs (.when (irq_keeps (setReg_keeps (.ite (calEnd_keeps hs) hs))) fun h1 => lockedBegins_keeps h1)
theorem loadTime_keeps {t : ℕ} {edge : ℤ} (hs : Keeps r s) : Keeps r (loadTime t edge s) := { hs with }
theorem markerAt_keeps {offset : ℤ} (hs : Keeps r s) : Keeps r (markerAt offset s) := { hs with }
theorem markerTest_keeps {offset : Int} (hs : Keeps r s) : Keeps r (markerTest offset s) := by
  refine .ite { hs with } (.ite hs (.ite ?_ (count_keeps hs)))
  have h1 : Keeps r { s with mer := { s.mer with acqMark := true, mismatches := if s.mer.acqMark then 0 else s.mer.mismatches } } := { hs with }
  have h2 := Keeps.when (c := offset ≠ 0) h1 fun h => count_keeps (a := rMARK_SLIP) (n := 1) (markerAt_keeps (offset := offset) h)
  exact { h2 with }
theorem merMarkApply_keeps {width : ℕ} {offset : ℤ} (hs : Keeps r s) : Keeps r (merMarkApply width offset s) :=
  .ite hs (.ite (.when (logFault_keeps ({ hs with })) fun h1 => setMerState_keeps ({ h1 with })) (.ite (count_keeps ({ hs with })) (.unless
      ({ hs with }) fun h2 => markerTest_keeps h2)))
theorem frameAcquire_keeps {e : BitVec 40} {edge : ℤ} (hs : Keeps r s) : Keeps r (frameAcquire e edge s) := .ite ({ hs with }) ({ hs with })
theorem countLost_keeps (hs : Keeps r s) : Keeps r (countLost s) := setMerState_keeps ({ hs with })
theorem timecodeApply_keeps {frame : Timecode} (hs : Keeps r s) : Keeps r (timecodeApply frame s) := by
  unfold timecodeApply
  dsimp only
  refine .ite hs ?_
  split
  · exact .next (count_keeps hs) fun h2 => { h2 with }
  · exact .ite (frameAcquire_keeps hs) (.ite (.ite ({ hs with }) (.ite (countLost_keeps (notice_keeps (notice_keeps ({ hs with })))) (notice_keeps
        ({ hs with })))) (.ite (.ite (setMerState_keeps ({ hs with })) ({ hs with })) hs))
theorem lockApply_keeps (hs : Keeps r s) : Keeps r (lockApply s) := by
  unfold lockApply
  dsimp only
  refine .ite ?_ hs
  split
  · exact hs
  · exact setMerState_keeps (loadTime_keeps ({ hs with }))
theorem markMissingApply_keeps (hs : Keeps r s) : Keeps r (markMissingApply s) :=
  .ite (setMerState_keeps (.next (notice_keeps hs) fun h1 => { h1 with })) hs
theorem refLossApply_keeps (hs : Keeps r s) : Keeps r (refLossApply s) :=
  .ite hs (.ite (setMerState_keeps (.next (notice_keeps hs) fun h1 => { h1 with })) (.ite (notice_keeps ({ hs with })) hs))
theorem refReturnApply_keeps (hs : Keeps r s) : Keeps r (refReturnApply s) := .ite ({ hs with }) hs
theorem lostApply_keeps (hs : Keeps r s) : Keeps r (lostApply s) := .ite (countLost_keeps (notice_keeps hs)) hs
theorem reacquireApply_keeps {edge : ℤ} (hs : Keeps r s) : Keeps r (reacquireApply edge s) := by
  unfold reacquireApply
  dsimp only
  refine .ite ?_ hs
  split
  · exact hs
  · exact .ite (setMerState_keeps (.next ({ hs with }) fun h3 => { h3 with })) (notice_keeps ({ hs with }))
theorem slewCompleteApply_keeps (hs : Keeps r s) : Keeps r (slewCompleteApply s) := .ite (setMerState_keeps ({ hs with })) hs
theorem resyncWrite_keeps (hs : Keeps r s) : Keeps r (resyncWrite s) := by
  unfold resyncWrite
  dsimp only
  split
  · exact .ite (findDue_keeps (loadTime_keeps ({ hs with }))) (noticeNext_keeps hs)
  · exact noticeNext_keeps hs
theorem frameOut_keeps {port : ℕ} {at' : ℕ} {o : PortOut} (hs : Keeps r s) : Keeps r (frameOut port at' o s) :=
  present_keeps (setReg64_keeps (setLink_keeps ({ streams := hs.linkAt.streams }) hs))
theorem calStart_keeps (hs : Keeps r s) : Keeps r (calStart s) := .ite (frameOut_keeps ({ hs with })) (calEnd_keeps ({ hs with }))
theorem calWrite_keeps (hs : Keeps r s) : Keeps r (calWrite s) := by
  have h : Keeps r (calBit 10 true (calBit 8 false (calBit 9 false s))) := calBit_keeps (calBit_keeps (calBit_keeps hs))
  unfold calWrite
  exact .ite hs (.ite { h with } (calStart_keeps h))
theorem timeFrameApply_keeps {port : ℕ} {reply : Option TimeReply} {stamp : ℤ} (hs : Keeps r s) : Keeps r (timeFrameApply port reply stamp s) := by
  unfold timeFrameApply
  dsimp only
  refine .ite hs ?_
  split
  · exact .ite (frameOut_keeps hs) hs
  · exact .ite hs (.ite (calEnd_keeps hs) (.ite (calEnd_keeps (setReg_keeps (setReg_keeps ({ hs with })))) (frameOut_keeps ({ hs with }))))
theorem calLinkDown_keeps {port : ℕ} (hs : Keeps r s) : Keeps r (calLinkDown port s) := .ite (calEnd_keeps hs) hs
theorem delaySlewEnds_keeps (hs : Keeps r s) : Keeps r (delaySlewEnds s) := .when (calBit_keeps hs) fun h1 => calStart_keeps h1
theorem inputDelayApply_keeps {v : Word} (hs : Keeps r s) : Keeps r (inputDelayApply v s) :=
  .ite (delaySlewEnds_keeps (setReg_keeps hs)) (calBit_keeps (setReg_keeps hs))
theorem delaySlew_keeps (hs : Keeps r s) : Keeps r (delaySlew s) := .ite hs (.when ({ hs with }) fun h1 => delaySlewEnds_keeps h1)
theorem merBoundary_keeps {n : ℕ} {cycles : ℕ} {ticks : ℕ} (hs : Keeps r s) : Keeps r (merBoundary n cycles ticks s) := .ite hs ({ hs with })
theorem epochEdge_keeps (hs : Keeps r s) : Keeps r (epochEdge s) := by
  unfold epochEdge
  refine .ite hs ?_
  cases s.mer.epochFclk with
  | none => exact { hs with }
  | some f =>
    have h : Keeps r (setReg rFCLK_PER_EPOCH (BitVec.ofNat 32 (s.clock.fclk - f)) s) := setReg_keeps hs
    exact { h with }
theorem detectorBoundary_keeps (hs : Keeps r s) : Keeps r (detectorBoundary s) := Keeps.foldl (.ite hs ({ hs with })) fun _ _ hs1 => { hs1 with }
theorem bellExtHighApply_keeps {n : ℕ} (hs : Keeps r s) : Keeps r (bellExtHighApply n s) := .ite (notice_keeps ({ hs with })) hs
theorem bellExtLowApply_keeps {n : ℕ} (hs : Keeps r s) : Keeps r (bellExtLowApply n s) := .ite (notice_keeps ({ hs with })) hs
theorem fenceHighApply_keeps (hs : Keeps r s) : Keeps r (fenceHighApply s) := .ite (notice_keeps ({ hs with })) hs
theorem glitchApply_keeps (hs : Keeps r s) : Keeps r (glitchApply s) := .ite (count_keeps hs) hs
end

/-! ### What the functions of `Machine/Topology` keep -/

section
variable {r s : State}

theorem cfgRefuse_keeps (hs : Keeps r s) : Keeps r (cfgRefuse s) := notice_keeps hs
theorem absentIrq_keeps {before : Machine.State} (hs' : Keeps r s) : Keeps r (absentIrq before s) :=
  Keeps.foldl hs' fun _ _ hs1 => .ite hs1 (irq_keeps hs1)
theorem topologyRegWrite_keeps {off : ℕ} {v : Word} (hs : Keeps r s) : Keeps r (topologyRegWrite off v s) :=
  .unless (cfgRefuse_keeps hs) fun h1 => .ite (.unless h1 fun h2 => .unless (absentIrq_keeps (setReg_keeps hs)) fun h3 => .ite h2 h3) (.ite
      (setReg_keeps hs) (.ite h1 (setReg_keeps hs)))
theorem groupCfgApply_keeps {copy : ℕ} {v : Word} (hs : Keeps r s) : Keeps r (groupCfgApply copy v s) :=
  .ite (.ite hs (.unless (cfgRefuse_keeps hs) fun h1 => .ite h1 (setGroup_keeps hs))) (.unless (setGroup_keeps hs) fun h2 => .ite (cfgRefuse_keeps h2)
      (setGroup_keeps h2))
theorem groupRangeApply_keeps {copy : ℕ} {second : Bool} {v : Word} (hs : Keeps r s) : Keeps r (groupRangeApply copy second v s) :=
  .ite (cfgRefuse_keeps hs) (setGroup_keeps hs)
theorem unfenceApply_keeps {copy : ℕ} (hs : Keeps r s) : Keeps r (unfenceApply copy s) := .ite (setGroup_keeps hs) (cfgRefuse_keeps hs)
end

/-! ### What the functions of `Machine/Tallies` keep -/

section
variable {r s : State}

theorem setPend_keeps {stall : ℕ} {p : Option Pend} (hs : Keeps r s) : Keeps r (setPend stall p s) := setStall_keeps hs
theorem badIndexAck_keeps {stall : ℕ} (hs : Keeps r s) : Keeps r (badIndexAck stall s) := irq_keeps (setStall_keeps (present_keeps hs))
theorem tallyReq_keeps {stall : Nat} {idx : BitVec 6} {f : State → State} (hf : ∀ s, Keeps r s → Keeps r (f s)) (hs : Keeps r s) : Keeps r (tallyReq
    stall idx f s) :=
  .ite hs (.ite (badIndexAck_keeps hs) (hf s hs))
theorem tallyAddApply_keeps {stall : ℕ} {idx : BitVec 6} {a : Word} (hs : Keeps r s) : Keeps r (tallyAddApply stall idx a s) :=
  tallyReq_keeps (fun _ hs1 => present_keeps (addTally_keeps hs1)) hs
theorem tallySubApply_keeps {stall : ℕ} {idx : BitVec 6} {a : Word} (hs : Keeps r s) : Keeps r (tallySubApply stall idx a s) :=
  tallyReq_keeps (fun _ hs1 => present_keeps (addTally_keeps hs1)) hs
theorem tallyReadApply_keeps {stall : ℕ} {idx : BitVec 6} (hs : Keeps r s) : Keeps r (tallyReadApply stall idx s) :=
  tallyReq_keeps (fun _ hs1 => present_keeps hs1) hs
theorem tallyTest_keeps {stall : ℕ} {p : Pend} (hs : Keeps r s) : Keeps r (tallyTest stall p s) :=
  .ite (.ite (present_keeps (setTally_keeps (setPend_keeps hs))) (present_keeps (setPend_keeps hs))) (setPend_keeps hs)
theorem tallyWaitApply_keeps {stall : ℕ} {idx : BitVec 6} {n : Word} (hs : Keeps r s) : Keeps r (tallyWaitApply stall idx n s) :=
  tallyReq_keeps (fun _ hs1 => tallyTest_keeps hs1) hs
theorem tallyTakeApply_keeps {stall : ℕ} {idx : BitVec 6} {n : Word} (hs : Keeps r s) : Keeps r (tallyTakeApply stall idx n s) :=
  tallyReq_keeps (fun _ hs1 => tallyTest_keeps hs1) hs
theorem tallyBadApply_keeps {stall : ℕ} {op : BitVec 3} {idx : BitVec 6} (hs : Keeps r s) : Keeps r (tallyBadApply stall op idx s) :=
  .ite (badIndexAck_keeps hs) hs
theorem tallyRetestApply_keeps {stall : ℕ} (hs : Keeps r s) : Keeps r (tallyRetestApply stall s) := by
  unfold tallyRetestApply
  refine .ite hs ?_
  split
  · exact hs
  · exact tallyTest_keeps hs
theorem tlyCancelApply_keeps {stall : ℕ} (hs : Keeps r s) : Keeps r (tlyCancelApply stall s) := by
  unfold tlyCancelApply
  refine .ite hs ?_
  split
  · exact hs
  · exact .ite (tallyTest_keeps hs) (present_keeps (setPend_keeps hs))
theorem clearTallies_keeps (hs : Keeps r s) : Keeps r (clearTallies s) :=
  .next (Keeps.foldl hs fun _ _ hs1 => .ite (present_keeps (setPend_keeps hs1)) hs1) fun h3 =>
      { h3 with tabs := { h3.tabs with tallies := fun _ => rfl } }
theorem windowWrite_keeps {stall : ℕ} {t : ℕ} {off : ℕ} {v : Word} (hs : Keeps r s) : Keeps r (windowWrite stall t off v s) :=
  .ite hs (.ite (setTally_keeps hs) (.ite (addTally_keeps hs) (.ite (addTally_keeps hs) hs)))
theorem remoteAddApplyAt_keeps {port : ℕ} (hs : Keeps r s) : Keeps r (remoteAddApplyAt port s) := by
  unfold remoteAddApplyAt
  dsimp only
  refine .ite hs ?_
  split
  · exact hs
  · exact .ite hs (.ite (addTally_keeps (setLink_keeps ({ streams := hs.linkAt.streams }) hs)) (irq_keeps (count_keeps (setLink_keeps
        ({ streams := hs.linkAt.streams }) hs))))
theorem muster_keeps {line : ℕ} (hs : Keeps r s) : Keeps r (muster line s) := Keeps.foldl hs fun _ _ hs1 => .ite (setTally_keeps hs1) hs1
end

/-! ### What the functions of `Machine/Bells` keep -/

section
variable {r s : State}

theorem queueFlit_keeps {port : ℕ} {vc : ℕ} {f : TxFlit} (hs : Keeps r s) : Keeps r (queueFlit port vc f s) :=
  setLink_keeps ({ streams := hs.linkAt.streams }) hs
theorem queueKeyed_keeps {port : ℕ} {payload : List Byte} (hs : Keeps r s) : Keeps r (queueKeyed port payload s) :=
  setLink_keeps ({ streams := hs.linkAt.streams }) hs
theorem sendGained_keeps {g : GroupDef} {old : List ℕ} {new : List ℕ} {msg : ℕ → ℕ → List Byte} (hs : Keeps r s) : Keeps r (sendGained g old new msg
    s) :=
  Keeps.foldl hs fun _ _ hs1 => .ite hs1 (Keeps.foldl hs1 fun _ _ hs3 => queueKeyed_keeps hs3)
theorem lineChip_keeps {n : ℕ} (hs : Keeps r s) : Keeps r (lineChip n s) := .ite (.ite (sendGained_keeps (setLine_keeps hs)) (setLine_keeps hs)) hs
theorem lineOndie_keeps {n : ℕ} (hs : Keeps r s) : Keeps r (lineOndie n s) := .ite (lineChip_keeps (setLine_keeps hs)) hs
theorem lineRelease_keeps {n : ℕ} (hs : Keeps r s) : Keeps r (lineRelease n s) := .ite (setLine_keeps hs) hs
theorem lineBoard_keeps {n : ℕ} (hs : Keeps r s) : Keeps r (lineBoard n s) :=
  .ite (.ite (setLine_keeps hs) (.ite (lineChip_keeps (setLine_keeps hs)) hs)) hs
theorem lineEdge_keeps {n : ℕ} (hs : Keeps r s) : Keeps r (lineEdge n s) := lineChip_keeps (lineBoard_keeps (lineRelease_keeps (lineOndie_keeps hs)))
theorem lineRecover_keeps {n : ℕ} (hs : Keeps r s) : Keeps r (lineRecover n s) := by
  unfold lineRecover
  dsimp only
  split
  · exact hs
  · exact setLine_keeps hs
  · exact setLine_keeps hs
theorem lineTurn_keeps {n : ℕ} (hs : Keeps r s) : Keeps r (lineTurn n s) := lineEdge_keeps (lineRecover_keeps hs)
theorem bellOutApply_keeps {stall : ℕ} {n : ℕ} {level : Bool} (hs : Keeps r s) : Keeps r (bellOutApply stall n level s) := .ite hs (setStall_keeps hs)
theorem bellSenseApply_keeps {b : ℕ} {level : Bool} (hs : Keeps r s) : Keeps r (bellSenseApply b level s) := .ite hs ({ hs with })
theorem sendKept_keeps {n : ℕ} (hs : Keeps r s) : Keeps r (sendKept n s) := .ite (sendGained_keeps hs) hs
theorem bellRingApply_keeps {n : ℕ} (hs : Keeps r s) : Keeps r (bellRingApply n s) :=
  .ite (muster_keeps (irq_keeps (orReg_keeps (sendKept_keeps (setLine_keeps hs))))) hs
theorem boardHoldApply_keeps {n : ℕ} (hs : Keeps r s) : Keeps r (boardHoldApply n s) := by
  unfold boardHoldApply
  dsimp only
  split
  · exact hs
  · exact .ite (setLine_keeps hs) hs
theorem bellRearmApply_keeps {n : ℕ} (hs : Keeps r s) : Keeps r (bellRearmApply n s) := by
  unfold bellRearmApply
  dsimp only
  split
  · exact hs
  · exact .ite (lineEdge_keeps (setLine_keeps hs)) hs
theorem bellInEdge_keeps (hs : Keeps r s) : Keeps r (bellInEdge s) :=
  Keeps.foldl (Keeps.foldl hs fun _ _ hs3 => .ite hs3 (setStall_keeps hs3)) fun _ _ hs1 => Keeps.foldl hs1 fun _ _ hs5 => setStall_keeps hs5
theorem linesEdge_keeps (hs : Keeps r s) : Keeps r (linesEdge s) := Keeps.foldl (bellInEdge_keeps hs) fun _ _ hs1 => { hs1 with }
theorem cfgRefused_keeps (hs : Keeps r s) : Keeps r (cfgRefused s) := irq_keeps (count_keeps hs)
theorem lineDisable_keeps {n : ℕ} (hs : Keeps r s) : Keeps r (lineDisable n s) :=
  Keeps.foldl (setLine_keeps hs) fun _ _ hs1 => .ite (setStall_keeps hs1) hs1
theorem lineCfgApply_keeps {copy : ℕ} {v : Word} (hs : Keeps r s) : Keeps r (lineCfgApply copy v s) :=
  .ite (.unless (.ite (cfgRefused_keeps hs) hs) fun h1 => lineDisable_keeps h1) (.unless (setLine_keeps hs) fun h2 => .ite (cfgRefused_keeps h2)
      (sendKept_keeps (setLine_keeps h2)))
theorem lineMembersApply_keeps {copy : ℕ} {v : Word} (hs : Keeps r s) : Keeps r (lineMembersApply copy v s) :=
  .ite (cfgRefused_keeps hs) (.ite hs ({ hs with tabs := { hs.tabs with lineMembers := fun w => tset_wf _ _ _ (hs.tabs.lineMembers w) } }))
theorem musterCtrlApply_keeps {copy : ℕ} {v : Word} (hs : Keeps r s) : Keeps r (musterCtrlApply copy v s) :=
  .ite (cfgRefused_keeps hs) ({ hs with tabs := { hs.tabs with musters := fun w => tset_wf _ _ _ (hs.tabs.musters w) } })
theorem onCtl_keeps {port : Nat} {ty : Byte} {f : CtlMsg → State → State} (hf : ∀ m s, Keeps r s → Keeps r (f m s)) (hs : Keeps r s) : Keeps r (onCtl port ty f s) := by
  unfold onCtl
  dsimp only
  split
  · exact hs
  · exact hf _ _ (setLink_keeps ⟨hs.linkAt.streams⟩ hs)
theorem stale_keeps (hs : Keeps r s) : Keeps r (stale s) := irq_keeps (count_keeps hs)
theorem bellMsgApply_keeps {p : List Byte} (hs : Keeps r s) : Keeps r (bellMsgApply p s) :=
  .ite (.ite (setLine_keeps hs) (stale_keeps hs)) (.ite (.when (setLine_keeps hs) fun h1 => sendGained_keeps h1) (.ite (setLine_keeps hs) (stale_keeps
      hs)))
theorem legProgress_keeps {tgroup : ℕ} {seq : BitVec 16} (hs : Keeps r s) : Keeps r (legProgress tgroup seq s) := by
  unfold legProgress
  refine { hs with ops := map_mem hs.ops fun _ ho1 => ?_ }
  split
  · exact ite_ok ({ ho1 with }) ho1
  · exact ho1
theorem verdictMsgApply_keeps {p : List Byte} (hs : Keeps r s) : Keeps r (verdictMsgApply p s) := by
  unfold verdictMsgApply
  dsimp only
  split
  · exact .ite hs (setVerdict_keeps hs)
  · exact .ite (.unless (sendGained_keeps (setVerdict_keeps hs)) fun h3 => legProgress_keeps h3) (.ite (setVerdict_keeps hs) hs)
theorem legDoneNow_keeps {tgroup : ℕ} {seq : BitVec 16} (hs : Keeps r s) : Keeps r (legDoneNow tgroup seq s) := by
  unfold legDoneNow
  refine { hs with ops := map_mem hs.ops fun _ ho1 => ?_ }
  split
  · exact ite_ok ({ ho1 with }) ho1
  · exact ho1
theorem verdictRingApply_keeps {tg : ℕ} {seq : BitVec 16} (hs : Keeps r s) : Keeps r (verdictRingApply tg seq s) :=
  .ite (legDoneNow_keeps (setVerdict_keeps hs)) hs
theorem verdictPassNow_keeps {tg : ℕ} {seq : BitVec 16} {attempt : ℕ} (hs : Keeps r s) : Keeps r (verdictPassNow tg seq attempt s) :=
  .ite hs (legProgress_keeps (sendGained_keeps (setVerdict_keeps hs)))
theorem verdictStart_keeps {tg : ℕ} {seq : BitVec 16} {attempt : ℕ} (hs : Keeps r s) : Keeps r (verdictStart tg seq attempt s) :=
  sendGained_keeps (setVerdict_keeps hs)
theorem sigRefused_keeps (hs : Keeps r s) : Keeps r (sigRefused s) := irq_keeps (count_keeps hs)
theorem sigSendApply_keeps {copy : ℕ} (hs : Keeps r s) : Keeps r (sigSendApply copy s) :=
  .ite (sigRefused_keeps hs) (queueFlit_keeps (setLink_keeps ({ streams := hs.linkAt.streams }) hs))
theorem remoteAddAccept_keeps {port : ℕ} {m : CtlMsg} (hs : Keeps r s) : Keeps r (remoteAddAccept port m s) :=
  setLink_keeps ({ streams := hs.linkAt.streams }) hs
/-- A link without the remote ADDs and verdicts that a clearing of all bells drops. -/
def clearedLink (k : Link) : Link :=
  { k with adds := [], rxCtl := k.rxCtl.filter (fun m => m.payload.headD 0#8 != 0x01#8)
           txq := k.txq.map fun q => q.filter fun f : TxFlit => !(f.kind == 2 && (f.payload.headD 0#8 == 0x01#8 || f.payload.headD 0#8 == 0x03#8)) }

/-- Each unit of a table is written anew, as a function of the state and of what it was. -/
theorem Keeps.lineSweep {f : State → Nat × Line → Line} (hs : Keeps r s) : Keeps r (s.lines.foldl (fun s p => setLine p.1 (f s p) s) s) :=
  hs.foldl fun _ _ h => setLine_keeps h
theorem Keeps.stallSweep {f : Nat × StallSt → StallSt} (hs : Keeps r s) : Keeps r (s.stalls.foldl (fun s p => setStall p.1 (f p) s) s) :=
  hs.foldl fun _ _ h => setStall_keeps h
theorem Keeps.linkSweep {f : Nat × Link → Link} (hf : ∀ p, (f p).streams = p.2.streams) (hs : Keeps r s) : Keeps r (s.links.foldl (fun s p => setLink
    p.1 (f p) s) s) :=
  hs.foldl_mem fun _ p hp h => setLink_keeps ⟨hf p ▸ (hs.linksIn p hp).streams⟩ h
theorem Keeps.queueSweep {f : Nat × QueueSt → QueueSt} (hf : ∀ p, (f p).cfg = p.2.cfg) (hs : Keeps r s) : Keeps r (s.queues.foldl (fun s p => setQueue
    p.1 (f p) s) s) :=
  hs.foldl_mem fun _ p hp h => setQueue_keeps ⟨hf p ▸ (hs.queuesIn p hp).cfg⟩ h
theorem Keeps.planeSweep {f : Nat × PlaneSt → PlaneSt} (hf : ∀ p, (f p).nextChild = []) (hs : Keeps r s) : Keeps r (s.planes.foldl (fun s p =>
    setPlane p.1 (f p) s) s) :=
  hs.foldl fun _ p h => setPlane_keeps ⟨fun _ => by rw [hf p]; rfl⟩ h
theorem clearBells_keeps (hs : Keeps r s) : Keeps r (clearBells s) := by
  have h := ((hs.lineSweep (f := fun s p =>
      { Line.idle with cfg := p.2.cfg, recover := if lEnable p.2.cfg then some (lineMembers p.1 s) else none })).stallSweep
    (f := fun p => { p.2 with bellLow := p.2.bellIn })).linkSweep (f := fun p => clearedLink p.2) fun _ => rfl
  exact { h with verdicts := fun _ => rfl }
end

/-! ### What the functions of `Machine/Crier` keep -/

section
variable {r s : State}

theorem countDn_keeps {stalls : List ℕ} (hs : Keeps r s) : Keeps r (countDn stalls s) := Keeps.foldl hs fun _ _ hs1 => setStall_keeps hs1
theorem queueBeat_keeps {id : OpId} {t : ℕ} {b : DnBeat} (hs : Keeps r s) : Keeps r (queueBeat id t s b) :=
  .ite hs (withOp_keeps (fun _ _ ho1 hs2 => setOp_keeps ({ ho1 with }) (setPlane_keeps ({ nextChild := hs2.planeAt.nextChild }) hs2)) hs)
theorem queueBeats_keeps {id : OpId} {t : ℕ} {bs : List DnBeat} (hs : Keeps r s) : Keeps r (queueBeats id t bs s) :=
  Keeps.foldl hs fun _ _ hs1 => queueBeat_keeps hs1
theorem presentBeat_keeps {id : OpId} {t : ℕ} {b : DnBeat} (hs : Keeps r s) : Keeps r (presentBeat id t b s) :=
  withOp_keeps (fun _ _ ho1 hs2 => setOp_keeps ({ ho1 with }) (perfLater_keeps (countDn_keeps (present_keeps hs2)))) hs
theorem planeCycle_keeps {p : ℕ} {t : ℕ} (hs : Keeps r s) : Keeps r (planeCycle p t s) := by
  unfold planeCycle
  dsimp only
  split
  · exact .unless (.unless (setPlane_keeps ({ nextChild := hs.planeAt.nextChild }) hs) fun h3 => present_keeps h3) fun h2 => irq_keeps (present_keeps
        h2)
  · split
    · exact hs
    · exact presentBeat_keeps (setPlane_keeps ({ nextChild := hs.planeAt.nextChild }) hs)
theorem planeRun_keeps {f p stop : Nat} (hs : Keeps r s) : Keeps r (planeRun f p stop s) := by
  induction f generalizing s with
  | zero => exact hs
  | succ f ih =>
    unfold planeRun
    split
    · exact hs
    · exact .ite hs (ih (planeCycle_keeps hs))
theorem crierRun_keeps {stop : ℕ} (hs : Keeps r s) : Keeps r (crierRun stop s) := Keeps.foldl hs fun _ _ hs1 => planeRun_keeps hs1
theorem setProg_ok {o : Op} {stall : ℕ} {p : ℕ} {v : TileProg} (ho : OpOk r o) : OpOk r (setProg o stall p v) :=
  { ho with prog := fun w => tset_wf _ _ _ (ho.prog w) }
theorem recallCycle_keeps {p : ℕ} {tag : ℕ} {resend : List ℕ} {recallOnly : List ℕ} (hs : Keeps r s) : Keeps r (recallCycle p tag resend recallOnly s)
    :=
  setPlane_keeps ({ nextChild := hs.planeAt.nextChild }) hs
theorem recallNow_keeps {id : OpId} {resend : Bool} (hs : Keeps r s) : Keeps r (recallNow id resend s) :=
  withOp_keeps (fun _ _ ho1 hs2 => setOp_keeps ({ ite_ok (foldl_inv ho1 fun _ _ ho3 => foldl_inv ho3 fun _ _ ho5 => setProg_ok ho5) ho1 with })
      (perf_keeps (Keeps.foldl hs2 fun _ _ hs7 => recallCycle_keeps hs7))) hs
theorem discardBeats_keeps {o : Op} (hs : Keeps r s) : Keeps r (discardBeats o s) :=
  .ite hs (Keeps.foldl hs fun _ _ hs1 => irq_keeps (setStall_keeps hs1))
theorem endDiscard_keeps {o : Op} (hs : Keeps r s) : Keeps r (endDiscard o s) := Keeps.foldl hs fun _ _ hs1 => .ite (setStall_keeps hs1) hs1
end

/-! ### What the functions of `Machine/Pages` keep -/

section
variable {r s : State}

theorem setPageSt_ok {p : ℕ} {page : ℕ} {v : PageSt} {l : Ledger} (hl : LedgerOk r l) : LedgerOk r (setPageSt p page v l) :=
  { acc := hl.acc, blocks := hl.blocks, pages := fun w => tset_wf _ _ _ (hl.pages w) }
theorem poolTake_keeps {p : ℕ} {i : ℕ} (hs : Keeps r s) : Keeps r (poolTake p i s) := setPlane_keeps ({ nextChild := hs.planeAt.nextChild }) hs
theorem poolGive_keeps {p : ℕ} {i : ℕ} (hs : Keeps r s) : Keeps r (poolGive p i s) := setPlane_keeps ({ nextChild := hs.planeAt.nextChild }) hs
theorem freeLedgerPool_keeps {l : Ledger} (hs : Keeps r s) : Keeps r (freeLedgerPool l s) :=
  Keeps.foldl hs fun _ _ hs1 => Keeps.foldl hs1 fun _ _ hs3 => poolGive_keeps hs3
theorem freeOpPool_keeps {o : Op} (hs : Keeps r s) : Keeps r (freeOpPool o s) := Keeps.foldl hs fun _ _ hs1 => poolGive_keeps hs1
theorem openPages_ok {l : Ledger} (hl : LedgerOk r l) : LedgerOk r (openPages l s) :=
  foldl_inv ({ acc := hl.acc, blocks := hl.blocks, pages := fun _ => rfl }) fun _ _ hl1 => foldl_inv hl1 fun _ _ hl3 => setPageSt_ok hl3
theorem pageWaitBegin_keeps {id : OpId} {needs : List ℕ} (hs : Keeps r s) : Keeps r (pageWaitBegin id needs s) :=
  .ite hs (Keeps.foldl ({ hs with }) fun _ _ hs1 => irq_keeps hs1)
theorem pageWaitEnd_keeps {id : OpId} (hs : Keeps r s) : Keeps r (pageWaitEnd id s) := { hs with }
theorem dropPages_keeps {id : OpId} (hs : Keeps r s) : Keeps r (dropPages id s) :=
  withOp_keeps (fun _ _ ho1 hs2 => setOp_keeps ({ ho1 with }) (freeOpPool_keeps hs2)) hs
end

/-! ### What the functions of `Machine/Leg` keep -/

section
variable {r s : State}

theorem takeTag_keeps {port : ℕ} {sid : ℕ} (hs : Keeps r s) : Keeps r (takeTag port sid s) :=
  .ite hs (setLink_keeps ({ streams := hs.linkAt.streams }) hs)
theorem floodRecall_keeps {l : Leg} {code : BitVec 8} (hs : Keeps r s) : Keeps r (floodRecall l code s) :=
  Keeps.foldl hs fun _ _ hs1 => queueFlit_keeps hs1
theorem abandonSteps_keeps {l : Leg} (hs : Keeps r s) : Keeps r (abandonSteps l s) := Keeps.foldl hs fun _ _ hs1 => .ite hs1 (queueFlit_keeps hs1)
theorem restartLeg_keeps {id : OpId} {code : BitVec 8} (hs : Keeps r s) : Keeps r (restartLeg id code s) := by
  unfold restartLeg
  dsimp only
  refine withOp_keeps (fun _ _ ho1 hs2 => ?_) hs
  split
  · exact hs2
  next _ e4 => exact verdictStart_keeps (setOp_keeps
      ({ ho1 with leg := leg_some ({ (ho1.leg _ e4) with got := fun _ => rfl, region := fun _ => rfl, stats := fun _ => rfl, images := fun _ => rfl, beatsOut := fun _ => rfl }) })
      (Keeps.foldl (abandonSteps_keeps hs2) fun _ _ hs5 => queueFlit_keeps hs5))
theorem stopLeg_keeps {id : OpId} (hs : Keeps r s) : Keeps r (stopLeg id s) := by
  unfold stopLeg
  refine withOp_keeps (fun _ _ ho1 hs2 => ?_) hs
  split
  · exact hs2
  · exact setVerdict_keeps (setOp_keeps ({ ho1 with leg := nofun }) (abandonSteps_keeps hs2))
end

/-! ### What the functions of `Machine/Fail` keep -/

section
variable {r s : State}

theorem withRunning_keeps {id : OpId} {f : Op → State → State} (hf : ∀ o s, OpOk r o → Keeps r s → Keeps r (f o s)) (hs : Keeps r s) : Keeps r
    (withRunning id f s) :=
  withOp_keeps (fun o s ho h => .ite (hf o s ho h) h) hs
theorem freeLedger_keeps {l : ℕ} (hs : Keeps r s) : Keeps r (freeLedger l s) :=
  closeLedgerChain_keeps (setLedger_keeps ({ acc := ledgerFree_ok.acc, blocks := ledgerFree_ok.blocks, pages := ledgerFree_ok.pages })
      (freeLedgerPool_keeps hs))
theorem releaseBias_keeps {id : OpId} (hs : Keeps r s) : Keeps r (releaseBias id s) :=
  Keeps.foldl hs fun _ _ hs1 => .ite (setLedger_keeps (ite_ok
      ({ acc := ledgerFree_ok.acc, blocks := ledgerFree_ok.blocks, pages := ledgerFree_ok.pages })
      ({ acc := hs1.ledgerAt.acc, blocks := hs1.ledgerAt.blocks, pages := hs1.ledgerAt.pages })) hs1) hs1
theorem endHoldFailed_keeps {o : Op} (ho : OpOk r o) (hs : Keeps r s) : Keeps r (endHoldFailed o s) :=
  .ite (releaseBias_keeps hs) (releaseBias_keeps (.ite (setLedger_keeps
      ({ acc := hs.ledgerAt.acc, blocks := hs.ledgerAt.blocks, pages := hs.ledgerAt.pages }) hs) (.ite (setLedger_keeps
      ({ acc := hs.ledgerAt.acc, blocks := fun w => ho.blocks0 w, pages := hs.ledgerAt.pages }) hs) (freeLedger_keeps hs))))
theorem leaveLists_keeps {id : OpId} (hs : Keeps r s) : Keeps r (leaveLists id s) :=
  pageWaitEnd_keeps (Keeps.foldl hs fun _ _ hs1 => .ite (setLedger_keeps
      ({ acc := hs1.ledgerAt.acc, blocks := hs1.ledgerAt.blocks, pages := hs1.ledgerAt.pages }) hs1) hs1)
theorem logFail_keeps {o : Op} {code : ℕ} (hs : Keeps r s) : Keeps r (logFail o code s) := .ite hs (.ite (noticeLedger_keeps hs) (notice_keeps hs))
theorem endChain_keeps {o : Op} (hs : Keeps r s) : Keeps r (endChain o s) := .ite (closeLedgerChain_keeps hs) hs
theorem opFail_keeps {id : OpId} {code : ℕ} (hs : Keeps r s) : Keeps r (opFail id code s) :=
  withOp_keeps (fun _ _ ho1 hs2 => .ite hs2 (modOp_keeps (fun _ ho3 =>
      { ho3 with beats := fun _ => rfl, summed := fun _ => rfl, passed := fun _ => rfl, limbs := fun _ => rfl, fresh := fun _ => rfl, folded := fun _ => rfl })
      (endChain_keeps (discardBeats_keeps (dropPages_keeps (endHoldFailed_keeps ho1 (leaveLists_keeps (stopLeg_keeps (logFail_keeps hs2))))))))) hs
theorem struckNow_keeps {id : OpId} {code : ℕ} (hs : Keeps r s) : Keeps r (struckNow id code s) :=
  modOp_keeps (fun _ ho1 => ite_ok ho1 ({ ho1 with })) hs
theorem makeFaulted_keeps {l : ℕ} {code : BitVec 8} (hs : Keeps r s) : Keeps r (makeFaulted l code s) :=
  .ite (irq_keeps (setLedger_keeps ({ acc := fun _ => rfl, blocks := fun _ => rfl, pages := fun _ => rfl }) (freeLedgerPool_keeps hs))) hs
theorem ledgerFatalNow_keeps {l : ℕ} {code : BitVec 8} (hs : Keeps r s) : Keeps r (ledgerFatalNow l code s) := by
  unfold ledgerFatalNow
  dsimp only
  split
  · exact makeFaulted_keeps hs
  · exact opFail_keeps (makeFaulted_keeps (withOp_keeps (fun _ _ _ hs4 => .ite (recallNow_keeps hs4) hs4) hs))
theorem ledgerFatalLog_keeps {l : ℕ} {code : BitVec 8} {src : BitVec 16} (hs : Keeps r s) : Keeps r (ledgerFatalLog l code src s) := by
  unfold ledgerFatalLog
  dsimp only
  refine ledgerFatalNow_keeps ?_
  refine logFault_keeps ?_
  split
  · exact struckNow_keeps hs
  · exact hs
theorem logChained_keeps {first : ℕ} {e : LogIn} (hs : Keeps r s) : Keeps r (logChained first e s) := by
  unfold logChained
  dsimp only
  refine .ite (logFault_keeps hs) ?_
  split
  · exact closeLedgerChain_keeps (logFault_keeps ({ hs with log := { hs.log with ledgerChains := fun w => tset_wf _ _ _ (hs.log.ledgerChains w) } }))
  · exact closeSourceChain_keeps (logFault_keeps ({ hs with log := { hs.log with sourceChains := fun w => tset_wf _ _ _ (hs.log.sourceChains w) } }))
theorem afterFailure_keeps {o : Op} {e : LogIn} (hs : Keeps r s) : Keeps r (afterFailure o e s) := logChained_keeps hs
theorem opFatalOn_keeps {id : OpId} {code : BitVec 8} {src : BitVec 16} {led : Option ℕ} (hs : Keeps r s) : Keeps r (opFatalOn id code src led s) := by
  unfold opFatalOn
  dsimp only
  refine withOp_keeps (fun _ _ _ hs2 => ?_) hs
  refine .ite (afterFailure_keeps hs2) ?_
  split
  · exact closeLedgerChain_keeps (opFail_keeps (modOp_keeps (fun _ ho4 => { ho4 with }) (logFault_keeps hs2)))
  · exact opFail_keeps (modOp_keeps (fun _ ho6 => { ho6 with }) (logFault_keeps hs2))
theorem opFatal_keeps {id : OpId} {code : BitVec 8} {src : BitVec 16} (hs : Keeps r s) : Keeps r (opFatal id code src s) :=
  withOp_keeps (fun _ _ _ hs2 => .ite (ledgerFatalLog_keeps hs2) (opFatalOn_keeps hs2)) hs
theorem countEcc_keeps {code : ℕ} (hs : Keeps r s) : Keeps r (countEcc code s) := .ite (count_keeps hs) (.ite (count_keeps hs) hs)
theorem countMismatch_keeps {code : ℕ} (hs : Keeps r s) : Keeps r (countMismatch code s) := .ite (count_keeps hs) hs
theorem containedHitOn_keeps {id : OpId} {code : BitVec 8} {src : BitVec 16} {page : Option ℕ} {resend : Bool} (hs : Keeps r s) : Keeps r
    (containedHitOn id code src page resend s) :=
  withOp_keeps (fun _ _ _ hs2 => .ite hs2 (.ite (.ite (afterFailure_keeps (countEcc_keeps (countMismatch_keeps hs2))) hs2) (.ite hs2 (.ite
      (ledgerFatalNow_keeps (logFault_keeps (struckNow_keeps (countEcc_keeps hs2)))) (.unless (logFault_keeps (countMismatch_keeps (struckNow_keeps
      (countEcc_keeps hs2)))) fun h3 => modOp_keeps (fun _ ho4 => { ho4 with }) h3))))) hs
theorem containedHit_keeps {id : OpId} {code : BitVec 8} {src : BitVec 16} {resend : Bool} (hs : Keeps r s) : Keeps r (containedHit id code src resend
    s) :=
  withOp_keeps (fun _ _ _ hs2 => containedHitOn_keeps hs2) hs
theorem clearContribution_ok {o : Op} (ho : OpOk r o) : OpOk r (clearContribution o) :=
  { ho with beats := fun _ => rfl, summed := fun _ => rfl, passed := fun _ => rfl, limbs := fun _ => rfl, fresh := fun _ => rfl, folded := fun _ => rfl }
theorem clearFold_ok {o : Op} (ho : OpOk r o) : OpOk r (clearFold o) := { ho with folded := fun _ => rfl }
theorem clearEgress_ok {o : Op} (ho : OpOk r o) : OpOk r (clearEgress o) := { ite_ok (clearFold_ok ho) ho with }
theorem replayNow_keeps {id : OpId} {code : BitVec 8} (hs : Keeps r s) : Keeps r (replayNow id code s) := by
  unfold replayNow
  dsimp only
  refine withOp_keeps (fun _ _ _ hs2 => ?_) hs
  split
  · exact hs2
  · refine .ite hs2 ?_
    refine withOp_keeps (fun _ _ _ hs6 => ?_) (perf_keeps (modOp_keeps (fun _ ho9 => { clearEgress_ok (ite_ok (clearContribution_ok ho9) ho9) with })
        (recallNow_keeps hs2)))
    split
    · exact hs6
    · exact .ite (restartLeg_keeps (floodRecall_keeps hs6)) hs6
end

/-! ### What the functions of `Machine/MemPort` keep -/

section
variable {r s : State}

theorem queueHalt_keeps {q : ℕ} {code : BitVec 8} (hs : Keeps r s) : Keeps r (queueHalt q code s) :=
  .ite hs (irq_keeps (setQueue_keeps ({ cfg := hs.queueAt.cfg }) hs))
theorem advanceHead_ok {f : Nat} {v : QueueSt} (hq : QueueOk r v) : QueueOk r (advanceHead f v) := by
  induction f generalizing v with
  | zero => exact hq
  | succ f ih =>
    unfold advanceHead
    exact ite_ok (ih { hq with }) hq
theorem noteErr_keeps {code : ℕ} {id : ℕ} {addr : ℕ} (hs : Keeps r s) : Keeps r (noteErr code id addr s) :=
  setReg_keeps (setReg_keeps (setReg_keeps hs))
theorem recordError_keeps {slot : Nat} {code : Nat} {v : QueueSt} (hs : Keeps r s) :
    Keeps r (match (firstRecord slot v.records).bind recordLedger with | some l => noticeLedger code memSource l 0 s | none => notice code memSource s) := by
  split
  · exact noticeLedger_keeps hs
  · exact notice_keeps hs
theorem memConsequence_keeps {p : Purpose} {code : Nat} (hs : Keeps r s) : Keeps r (memConsequence p code s) := by
  have hn : Keeps r (notice code memSource s) := notice_keeps hs
  cases p with
  | descFetch q slot n => exact queueHalt_keeps (setQueue_keeps ⟨hs.queueAt.cfg⟩ hn)
  | record q slot =>
    have hr := recordError_keeps (slot := slot) (code := code) (v := queueAt q s) hs
    exact queueHalt_keeps (setQueue_keeps ⟨hr.queueAt.cfg⟩ hr)
  | partialWrite id pl page i => exact withOp_keeps (fun _ _ _ h => .ite (opFatalOn_keeps h) (opFatal_keeps h)) hs
  | partialRead id l pl page i =>
    exact withOp_keeps (fun _ _ _ h => .ite (afterFailure_keeps h) (closeLedgerChain_keeps (opFail_keeps (struckNow_keeps (ledgerFatalLog_keeps h)))))
        hs
  | saveWrite id => exact opFail_keeps hn
  | restoreRead id off => exact withOp_keeps (fun _ _ _ h => opFatalOn_keeps h) hs
  | sizeTable id off => exact opFail_keeps hn
  | image off => exact { hn with }
  | firmware off => exact { hn with }
theorem presentAll_keeps {l : List PortOut} (hs : Keeps r s) : Keeps r (presentAll l s) := { hs with }
theorem memIssue_keeps {write urgent : Bool} {addr sectors hint : Nat} {p : Purpose} {data : List Byte} {s' : State} (hs : Keeps r s)
    (e : memIssue write urgent addr sectors hint p data s = some s') : Keeps r s' := by
  unfold memIssue at e
  split at e
  · cases e
  split at e
  · cases e
  split at e <;> cases e
  · exact findDue_keeps hs
  · exact .ite (perfLater_keeps (presentAll_keeps (present_keeps { hs with }))) (present_keeps { hs with })

theorem memIssue_getD_keeps {write urgent : Bool} {addr sectors hint : Nat} {p : Purpose} {data : List Byte} (hs : Keeps r s) :
    Keeps r ((memIssue write urgent addr sectors hint p data s).getD s) := by
  cases e : memIssue write urgent addr sectors hint p data s with
  | none => exact hs
  | some s' => exact memIssue_keeps hs e
theorem memTry_keeps {write urgent : Bool} {addr sectors hint : Nat} {p : Purpose} {data : List Byte} (hs : Keeps r s) :
    Keeps r (memTry write urgent addr sectors hint p data s) := memIssue_getD_keeps hs
theorem issueRecords_keeps (hs : Keeps r s) : Keeps r (issueRecords s) :=
  Keeps.foldl hs fun _ _ hs1 => Keeps.foldl hs1 fun _ _ hs3 => .ite hs3 (memTry_keeps hs3)
theorem issuePartials_keeps {id : OpId} (hs : Keeps r s) : Keeps r (issuePartials id s) :=
  withRunning_keeps (fun _ _ _ hs2 => Keeps.foldl hs2 fun _ _ hs3 => .ite hs3 (memTry_keeps hs3)) hs
theorem sizesIssue_keeps {id : OpId} (hs : Keeps r s) : Keeps r (sizesIssue id s) := by
  unfold sizesIssue
  dsimp only
  refine withOp_keeps (fun _ _ _ hs2 => ?_) hs
  split
  · exact hs2
  · exact .ite hs2 (memTry_keeps hs2)
theorem bootRead_keeps {base : ℕ} {have' : ℕ} {total : ℕ} {p : Purpose} (hs : Keeps r s) : Keeps r (bootRead base have' total p s) :=
  .ite hs (memTry_keeps hs)
theorem bootIssue_keeps (hs : Keeps r s) : Keeps r (bootIssue s) := .ite (bootRead_keeps hs) (.ite (bootRead_keeps hs) hs)
theorem memRetry_keeps (hs : Keeps r s) : Keeps r (memRetry s) :=
  Keeps.foldl (issueRecords_keeps hs) fun _ _ hs1 => sizesIssue_keeps (issuePartials_keeps hs1)
theorem opProgress_keeps {id : OpId} (hs : Keeps r s) : Keeps r (opProgress id s) := modOp_keeps (fun _ ho1 => { ho1 with }) hs
theorem memDeliver_keeps {p : Purpose} {b : List Byte} (hs : Keeps r s) : Keeps r (memDeliver p b s) := by
  unfold memDeliver
  dsimp only
  split
  · exact .ite hs (setQueue_keeps ({ cfg := hs.queueAt.cfg }) hs)
  · exact perfLater_keeps (modOp_keeps (fun _ ho3 => { ho3 with }) hs)
  · refine modOp_keeps (fun _ ho5 => ?_) hs
    split
    · exact { ho5 with }
    · exact ho5
  · refine sizesIssue_keeps ?_
    refine modOp_keeps (fun _ ho9 => ?_) hs
    split
    next _ e10 => exact { ho9 with leg := leg_some ({ (ho9.leg _ e10) with }) }
    · exact ho9
  · exact bootIssue_keeps ({ hs with })
  · exact bootIssue_keeps ({ hs with })
  · exact hs
theorem removeReq_keeps {req : MemReq} (hs : Keeps r s) : Keeps r (removeReq req s) := { hs with }
theorem lateAnswer_keeps {req : MemReq} (hs : Keeps r s) : Keeps r (lateAnswer req s) := findDue_keeps (removeReq_keeps hs)
theorem memReadApply_keeps {id : BitVec 8} {data : BitVec 1024} {poison : BitVec 4} {err last : Bool} (hs : Keeps r s) : Keeps r (memReadApply id data poison err last s) := by
  unfold memReadApply
  dsimp only
  refine .ite hs ?_
  split
  · exact .ite { hs with } hs
  · next req _ =>
    refine .ite (.ite (lateAnswer_keeps hs) hs) ?_
    have h : Keeps r (match purposeOp req.purpose with | some o => opProgress o s | none => s) := by
      split
      · exact opProgress_keeps hs
      · exact hs
    have hl := perfLater_keeps (i := pcRdSectors) (n := req.sectors) (removeReq_keeps (req := req) h)
    exact .ite { h with } (.ite (findDue_keeps hl) (.ite (findDue_keeps hl) (memDeliver_keeps hl)))
theorem writeDone_keeps {p : Purpose} (hs : Keeps r s) : Keeps r (writeDone p s) := by
  cases p with
  | record q slot =>
    have hq : QueueOk r { queueAt q s with records := dropRecord slot (queueAt q s).records } := ⟨hs.queueAt.cfg⟩
    exact setQueue_keeps (ite_ok hq (advanceHead_ok ⟨hq.cfg⟩)) hs
  | partialWrite id pl page _ => exact perfLater_keeps (modOp_keeps (fun _ ho => { ho with }) hs)
  | saveWrite id =>
    refine modOp_keeps (fun o ho => ?_) hs
    split
    · exact { ho with }
    · exact ho
  | _ => exact hs
theorem writeResponse_keeps {records : Bool} {id : BitVec 8} {err : Bool} (hs : Keeps r s) : Keeps r (writeResponse records id err s) := by
  unfold writeResponse
  dsimp only
  refine .ite hs ?_
  split
  · exact { hs with }
  · refine .ite hs ?_
    refine .ite (memRetry_keeps (lateAnswer_keeps hs)) ?_
    refine memRetry_keeps ?_
    refine .ite ?_ ?_
    · refine findDue_keeps ?_
      refine removeReq_keeps ?_
      split
      · exact opProgress_keeps hs
      · exact hs
    · refine writeDone_keeps ?_
      refine removeReq_keeps ?_
      split
      · exact opProgress_keeps hs
      · exact hs
theorem memTimeoutApply_keeps {write : Bool} {id : BitVec 8} (hs : Keeps r s) : Keeps r (memTimeoutApply write id s) := by
  unfold memTimeoutApply
  dsimp only
  refine .ite hs ?_
  split
  · exact hs
  · next req _ =>
    have h : Keeps r (removeReq req s) := removeReq_keeps hs
    exact .ite hs (memRetry_keeps (memConsequence_keeps (noteErr_keeps { h with })))
theorem memForget_keeps {f : Purpose → Bool} (hs : Keeps r s) : Keeps r (memForget f s) := { hs with }
end

/-! ### What the functions of `Machine/Turn` keep -/

section
variable {r s : State}

theorem relayedBad_keeps {port : ℕ} {tgroup : ℕ} {seq : BitVec 16} (hs : Keeps r s) : Keeps r (relayedBad port tgroup seq s) :=
  Keeps.foldl (logFault_keeps hs) fun _ _ hs1 => queueFlit_keeps hs1
theorem retryEntry_keeps {port : ℕ} (hs : Keeps r s) : Keeps r (retryEntry port s) := .unless (logFault_keeps hs) fun h1 => closeSourceChain_keeps h1
theorem pairAgain_keeps (hs : Keeps r s) : Keeps r (pairAgain s) :=
  .ite (irq_keeps (closeSourceChain_keeps (closeSourceChain_keeps (setBinoState_keeps hs)))) hs
theorem moveService_keeps {toB : Bool} (hs : Keeps r s) : Keeps r (moveService toB s) :=
  Keeps.foldl (setReg_keeps hs) fun _ _ hs1 => withOp_keeps (fun _ _ ho3 hs4 => .when (setOp_keeps ({ ho3 with }) hs4) fun h5 => containedHit_keeps
      h5) hs1
theorem takeService_keeps {sideB : Bool} (hs : Keeps r s) : Keeps r (takeService sideB s) := .ite (moveService_keeps hs) hs
theorem dueApply_keeps {d : Due} (hs : Keeps r s) : Keeps r (dueApply d s) := by
  unfold dueApply
  split
  · exact logFault_keeps hs
  · exact retryEntry_keeps hs
  · exact containedHit_keeps hs
  · exact relayedBad_keeps hs
  · exact opFatal_keeps hs
  · exact opFail_keeps hs
  · exact memConsequence_keeps (noteErr_keeps hs)
  · exact setMerState_keeps hs
  · exact takeService_keeps hs
  · exact pairAgain_keeps hs
  · exact .ite (lineTurn_keeps hs) hs
theorem dueStep_keeps {x : Place × Due} (hs : Keeps r s) : Keeps r (dueStep s x) := dueApply_keeps ({ hs with })
theorem settle_keeps {p : Option Place} (hs : Keeps r s) : Keeps r (settle p s) := Keeps.foldl ({ hs with }) fun _ _ hs1 => dueStep_keeps hs1
theorem setRequests_keeps {port : ℕ} {q : List MgmtReq} (hs : Keeps r s) : Keeps r (setRequests port q s) :=
  { hs with owner := { hs.owner with requests := fun w => tset_wf _ _ _ (hs.owner.requests w) } }
theorem acceptRequest_keeps {c : Instr} (hs : Keeps r s) : Keeps r (acceptRequest c s) := by
  unfold acceptRequest
  split
  · exact hs
  · exact .ite (setRequests_keeps hs) hs
theorem flushAnswers_keeps {port : ℕ} (hs : Keeps r s) : Keeps r (flushAnswers port s) := by
  unfold flushAnswers
  dsimp only
  refine setRequests_keeps ?_
  refine Keeps.foldl hs fun _ _ hs1 => ?_
  split
  · exact present_keeps hs1
  · exact hs1
theorem answer_keeps {port : ℕ} {master : ℕ} {v : Word} {err : Bool} (hs : Keeps r s) : Keeps r (answer port master v err s) :=
  .ite (present_keeps hs) (flushAnswers_keeps (setRequests_keeps ({ hs with owner := { hs.owner with } })))
theorem asRequest_keeps {c : Instr} {f : State → State} (hf : ∀ s, Keeps r s → Keeps r (f s)) (hs : Keeps r s) : Keeps r (asRequest c f s) := by
  unfold asRequest
  split
  · exact hf s hs
  · next p _ =>
    have h : Keeps r (f { s with owner := { s.owner with answering := (requestsAt p s).findIdx? fun r => r.access == some c } }) := hf _
        { hs with owner := { hs.owner with } }
    dsimp only
    split
    · exact h
    · have h' :=
          { h with owner := { h.owner with } : Keeps r { f { s with owner := { s.owner with answering := (requestsAt p s).findIdx? fun r => r.access == some c } } with
        owner :=
            { (f { s with owner := { s.owner with answering := (requestsAt p s).findIdx? fun r => r.access == some c } }).owner with answering := none }
            } }
      exact .ite h' (flushAnswers_keeps (setRequests_keeps h'))
theorem takeTurn_keeps {c : Instr} {p : Place} (hs : Keeps r s) : Keeps r (takeTurn c p s) := { hs with }
theorem holdOver_keeps {c : Instr} {p : Place} (hs : Keeps r s) : Keeps r (holdOver c p s) := acceptRequest_keeps ({ hs with })
theorem inTransit_keeps {c : Instr} {f : State → State} (hf : ∀ s, Keeps r s → Keeps r (f s)) (hs : Keeps r s) : Keeps r (inTransit c f s) := by
  unfold inTransit
  split
  · exact hf _ (settle_keeps hs)
  · exact .ite (hf _ (takeTurn_keeps (settle_keeps hs))) (holdOver_keeps (settle_keeps hs))
theorem atPlace_keeps {c : Instr} (hs : Keeps r s) : Keeps r (atPlace c s) := by
  unfold atPlace
  split
  · exact hs
  · exact takeTurn_keeps hs
end

/-! ### What the functions of `Machine/Ledgers` keep -/

section
variable {r s : State}

theorem openedBy_ok {o : Op} {waiting : List OpId} : LedgerOk r (openedBy o waiting) :=
  { acc := ledgerFree_ok.acc, blocks := ledgerFree_ok.blocks, pages := ledgerFree_ok.pages }
theorem claimLedger_ok {o : Op} (hs : Keeps r s) : LedgerOk r (claimLedger o s) := ite_ok openedBy_ok hs.ledgerAt
theorem joinLists_keeps {o : Op} (hs : Keeps r s) : Keeps r (joinLists o s) :=
  modOp_keeps (fun _ ho1 => { ho1 with }) (Keeps.foldl (Keeps.foldl hs fun _ _ hs4 => .ite (setLedger_keeps
      ({ acc := hs4.ledgerAt.acc, blocks := hs4.ledgerAt.blocks, pages := hs4.ledgerAt.pages }) hs4) hs4) fun _ _ hs2 => .ite hs2 (setLedger_keeps
      ({ acc := hs2.ledgerAt.acc, blocks := hs2.ledgerAt.blocks, pages := hs2.ledgerAt.pages }) hs2))
theorem claimWait_keeps {o : Op} (hs : Keeps r s) : Keeps r (claimWait o s) := .ite (opFail_keeps hs) (joinLists_keeps hs)
theorem claimedLedger_ok {o : Op} (hs : Keeps r s) : LedgerOk r (claimedLedger o s) :=
  ite_ok (openPages_ok openedBy_ok) (ite_ok hs.ledgerAt ({ acc := ledgerFree_ok.acc, blocks := ledgerFree_ok.blocks, pages := ledgerFree_ok.pages }))
theorem claimedState_ok {o : Op} {l : Ledger} (hl : LedgerOk r l) : LedgerOk r (claimedState o l) :=
  ite_ok ({ acc := hl.acc, blocks := hl.blocks, pages := hl.pages }) ({ acc := hl.acc, blocks := hl.blocks, pages := hl.pages })
theorem holdLedger_keeps {b : Nat} {id : Option OpId} (hs : Keeps r s) : Keeps r (setLedger b { ledgerAt b s with holder := id } s) :=
  setLedger_keeps { hs.ledgerAt (l := b) with } hs

theorem claimNow_keeps {o : Op} {l : Ledger} (ho : OpOk r o) (hl : LedgerOk r l) (hs : Keeps r s) : Keeps r (claimNow o l s) := by
  unfold claimNow
  dsimp only
  refine pageWaitEnd_keeps (setOp_keeps { ho with blocks0 := hl.blocks } ?_)
  have h : ∀ w a, Keeps r (leaveLists o.id (setLedger (dLedger o.d) (claimedState o { l with waiting := w, almanac := a }) s)) := fun _ _ =>
    leaveLists_keeps (setLedger_keeps (claimedState_ok { hl with }) hs)
  split
  · exact h _ _
  · exact holdLedger_keeps (h _ _)
/-- An operation with the state that it is worked on in. -/
structure PairOk (r : State) (x : Op × State) : Prop where
  op : OpOk r x.1
  state : Keeps r x.2

theorem takePool_ok {p : Nat} {l : List Nat} {x y : Op × State} (hx : PairOk r x) (e : takePool p l x = some y) : PairOk r y := by
  induction l generalizing x with
  | nil => cases e; exact hx
  | cons page l ih =>
    obtain ⟨o, s⟩ := x
    obtain ⟨ho, hs⟩ := hx
    unfold takePool at e
    split at e
    · cases e
    · exact ih ⟨{ (show OpOk r o from ho) with }, poolTake_keeps (show Keeps r s from hs)⟩ e

theorem takePlane_ok {l : Ledger} {n limbs ringN p : Nat} {twoWay : Bool} {x y : Op × State} (hx : PairOk r x) (e : takePlane l n limbs ringN twoWay p x = some y) : PairOk r y := by
  obtain ⟨o, s⟩ := x
  obtain ⟨ho, hs⟩ := hx
  unfold takePlane at e
  dsimp only at e
  split at e
  · cases e
  · refine takePool_ok ?_ e
    exact ⟨{ (show OpOk r o from ho) with }, hs⟩

/-- A chain of steps that may each find no room keeps what each of them keeps. -/
theorem foldl_bind_inv {α β : Type} {P : β → Prop} {f : α → β → Option β} {l : List α} {x : Option β} {y : β} (hf : ∀ a ∈ l, ∀ b c, P b → f a b = some
    c → P c)
    (hx : ∀ b, x = some b → P b) (e : l.foldl (fun x a => x.bind (f a)) x = some y) : P y := by
  induction l generalizing x with
  | nil => exact hx y e
  | cons a l ih =>
    refine ih (fun a ha => hf a (List.mem_cons_of_mem _ ha)) (fun b hb => ?_) e
    obtain ⟨c, hc, hb⟩ := Option.bind_eq_some_iff.1 hb
    exact hf a List.mem_cons_self c b (hx c hc) hb

theorem takePages_pair {o : Op} {l : Ledger} {n limbs ringN : Nat} {twoWay : Bool} {y : Op × State} (ho : OpOk r o) (hs : Keeps r s)
    (e : takePages o l n limbs ringN twoWay s = some y) : PairOk r y := by
  unfold takePages at e
  dsimp only at e
  split at e
  · cases e
  · exact foldl_bind_inv (fun _ _ _ _ hb => takePlane_ok hb) (fun b hb => by cases hb; exact ⟨ho, hs⟩) e
theorem claimTry_keeps {id : OpId} (hs : Keeps r s) : Keeps r (claimTry id s) := by
  unfold claimTry
  refine withRunning_keeps (fun o s ho hs => .ite hs (.ite (claimWait_keeps hs) (.ite hs ?_))) hs
  dsimp only
  split
  · exact opFail_keeps hs
  · exact opFail_keeps hs
  · exact claimWait_keeps hs
  · refine .ite (claimWait_keeps hs) (.ite (opFail_keeps hs) (.ite (joinLists_keeps hs) ?_))
    have hl : LedgerOk r (claimedLedger o s) := claimedLedger_ok hs
    have hset : ∀ st, Keeps r (setLedger (dLedger o.d) { claimedLedger o s with state := st } s) := fun _ => setLedger_keeps { hl with } hs
    split
    · next e =>
      have hx := takePages_pair ho (hset _) e
      exact claimNow_keeps hx.op hl hx.state
    · exact pageWaitBegin_keeps (joinLists_keeps hs)
theorem tidyWait_keeps {id : OpId} (hs : Keeps r s) : Keeps r (tidyWait id s) := withOp_keeps (fun _ _ _ hs2 => .ite (pageWaitEnd_keeps hs2) hs2) hs
theorem ledgerClaimApply_keeps {id : OpId} (hs : Keeps r s) : Keeps r (ledgerClaimApply id s) :=
  withRunning_keeps (fun _ _ _ hs2 => .ite (tidyWait_keeps (claimTry_keeps hs2)) hs2) hs
theorem serveList_keeps {f l : Nat} (hs : Keeps r s) : Keeps r (serveList f l s) := by
  induction f generalizing s with
  | zero => exact hs
  | succ f ih =>
    unfold serveList
    split
    · exact hs
    · next id _ _ =>
      have h : Keeps r (tidyWait id (claimTry id s)) := tidyWait_keeps (claimTry_keeps hs)
      exact .ite h (ih h)
theorem waitListApply_keeps {l : BitVec 12} (hs : Keeps r s) : Keeps r (waitListApply l s) := .ite hs (serveList_keeps hs)
theorem pageGrantApply_keeps {id : OpId} (hs : Keeps r s) : Keeps r (pageGrantApply id s) :=
  withRunning_keeps (fun _ _ _ hs2 => .ite (tidyWait_keeps (claimTry_keeps hs2)) hs2) hs
end

/-! ### What the functions of `Machine/Contribution` keep -/

section
variable {r s : State}

theorem countUp_keeps {stall : ℕ} {p : ℕ} (hs : Keeps r s) : Keeps r (countUp stall p s) := setStall_keeps hs
theorem countDiscarded_keeps {stall : ℕ} (hs : Keeps r s) : Keeps r (countDiscarded stall s) := setStall_keeps hs
theorem upHeld_keeps {stall : ℕ} {p : ℕ} (hs : Keeps r s) : Keeps r (upHeld stall p s) := setStall_keeps hs
theorem dropBeat_keeps {stall : ℕ} {p : ℕ} {tag : ℕ} {chunk : ℕ} {last : Bool} {x : ℕ × ℕ × ℕ} (hs : Keeps r s) : Keeps r (dropBeat stall p tag chunk
    last x s) :=
  .when (countDiscarded_keeps (countUp_keeps hs)) fun h1 => setStall_keeps h1
theorem beatFails_keeps {o : Op} (hs : Keeps r s) : Keeps r (beatFails o s) := findDue_keeps hs
theorem upOpFor_ok {stall p tag : Nat} {o : Op} (hs : Keeps r s) (e : upOpFor stall p tag s = some o) : OpOk r o := hs.findOps e
theorem takeUpBeat_keeps {o : Op} {stall p chunk : Nat} {last : Bool} {data : BitVec 512} {scale : BitVec 32} (ho : OpOk r o) (hs : Keeps r s) :
    Keeps r (takeUpBeat o stall p chunk last data scale s) := by
  have hc : Keeps r (countUp stall p s) := countUp_keeps hs
  have hp : OpOk r (setProg { o with progress := true } stall p (progNext o (progAt o stall p) p chunk last)) := setProg_ok { ho with }
  exact .ite (beatFails_keeps hc) (.ite (countDiscarded_keeps (setOp_keeps hp hc)) (setOp_keeps
      { hp with beats := fun w => tset_wf _ _ _ (hp.beats w) } hc))
theorem upBeatApply_keeps {stall : ℕ} {p : ℕ} {tag : ℕ} {chunk : ℕ} {last : Bool} {data : BitVec 512} {scale : BitVec 32} {cyc : ℕ} (hs : Keeps r s) : Keeps r (upBeatApply stall p tag chunk last data scale cyc s) := by
  unfold upBeatApply
  refine .unless (upHeld_keeps hs) fun h1 => ?_
  split
  · exact dropBeat_keeps hs
  · split
    · exact h1
    next _ e5 => exact .ite (takeUpBeat_keeps ((upOpFor_ok hs e5)) hs) (.ite (beatFails_keeps (countUp_keeps hs)) h1)
theorem treeServed_wf {w : InTree} {f h : Nat} {t : Table Nat} (ht : tableWf 0 t = true) : tableWf 0 (treeServed w f h t) = true := by
  induction f generalizing h t with
  | zero => exact ht
  | succ f ih =>
    unfold treeServed
    exact ite_ok (P := fun t => tableWf 0 t = true) ht (ih (tset_wf _ _ _ ht))
theorem exchServe_keeps {w : InTree} {p t n : Nat} (hs : Keeps r s) : Keeps r (exchServe w p t n s) :=
  setPlane_keeps { nextChild := fun hi => treeServed_wf (hs.planeAt.nextChild hi) } hs
theorem passBeat_keeps {id : OpId} {t : ℕ} {p : ℕ} (hs : Keeps r s) : Keeps r (passBeat id t s p) := by
  unfold passBeat
  dsimp only
  refine withOp_keeps (fun _ _ ho1 hs2 => ?_) hs
  refine .ite hs2 ?_
  split
  · exact hs2
  · split
    · exact exchServe_keeps (perfLater_keeps (setOp_keeps ({ ho1 with passed := fun w => tset_wf _ _ _ (ho1.passed w) }) hs2))
    · exact hs2
theorem passBeats_keeps {id : OpId} {t : ℕ} (hs : Keeps r s) : Keeps r (passBeats id t s) :=
  withOp_keeps (fun _ _ _ hs2 => Keeps.foldl hs2 fun _ _ hs3 => passBeat_keeps hs3) hs
theorem addElem_ok {e : Nat} {l : Ledger} {x : Op × State} {c : Word64 × Flags} (hx : PairOk r x) : PairOk r (addElem e l x c) :=
  ⟨{ hx.op with fresh := fun hi => tset_wf _ _ _ (hx.op.fresh hi) }, raisePlane_keeps hx.state⟩

theorem clearLimbs_wf {l : List Nat} {k : Nat → Nat} {t : Table (Option Word64)} (ht : tableWf none t = true) : tableWf none (l.foldl (fun t j => tset
    none (k j) none t) t) = true :=
  foldl_inv (P := fun t => tableWf none t = true) ht fun _ _ ht => tset_wf _ _ _ ht

theorem sumElem_ok {l : Ledger} {chunk beat i : Nat} {x : Op × State} (hx : PairOk r x) : PairOk r (sumElem l chunk beat x i) := by
  obtain ⟨o, s⟩ := x
  have ho : OpOk r o := hx.op
  have hs : ∀ p f, Keeps r (raisePlane p f s) := fun _ _ => raisePlane_keeps hx.state
  unfold sumElem
  dsimp only
  split
  · exact ⟨{ ho with limbs := fun hi => tset_wf _ _ _ (ho.limbs hi) }, hs _ _⟩
  · exact addElem_ok ⟨{ ho with limbs := fun hi => clearLimbs_wf (tset_wf _ _ _ (ho.limbs hi)) }, hs _ _⟩
theorem treeSumApply_keeps {id : OpId} {chunk beat cyc : Nat} (hs : Keeps r s) : Keeps r (treeSumApply id chunk beat cyc s) := by
  refine withRunning_keeps (fun o s ho h => .ite h ?_) hs
  have hx : ∀ x l n, PairOk r x → PairOk r ((List.range n).foldl (sumElem l chunk beat) x) := fun _ _ _ hx => foldl_inv (P := PairOk r) hx fun _ _ hx
      => sumElem_ok hx
  have hx := hx (o, exchServe (ownTree o s) (maskPlane o.planes chunk) (stamp cyc s) (exchCycles (sumMode o (ledgerAt (dLedger o.d) s)) (beatElems o.d
      chunk beat)) s)
    (ledgerAt (dLedger o.d) s) (beatElems o.d chunk beat) ⟨ho, exchServe_keeps h⟩
  refine issuePartials_keeps (perfLater_keeps (setOp_keeps ?_ hx.state))
  have hb := foldl_inv (P := fun t : Table (Option Beat) => r.innerWf = true → tableWf none t = true) (l := o.members) (f := fun t n => tset none
      (beatKey n chunk beat) none t)
    hx.op.beats fun _ _ ht hi => tset_wf _ _ _ (ht hi)
  exact { hx.op with summed := fun hi => tset_wf _ _ _ (hx.op.summed hi), beats := hb }
theorem noPool_ok {o : Op} (ho : OpOk r o) : OpOk r (noPool o) := { ho with }
theorem foldIssue_keeps {id : OpId} (hs : Keeps r s) : Keeps r (foldIssue id s) :=
  withRunning_keeps (fun _ _ _ hs2 => Keeps.foldl hs2 fun _ _ hs3 => .ite hs3 (memTry_keeps hs3)) hs
theorem foldLedger_ok {off : Nat} {l : Ledger} {x : Op × State} (hx : PairOk r x) : PairOk r (foldLedger off l x) :=
  foldl_inv (P := PairOk r) hx fun _ _ hx => foldl_inv (P := PairOk r) hx fun x _ hx =>
    have ho : ∀ k w, OpOk r { x.1 with folded := tset 0#64 k w x.1.folded } := fun _ _ =>
        { hx.op with folded := fun hi => tset_wf _ _ _ (hx.op.folded hi) }
    ⟨ite_ok (P := OpOk r) { ho _ _ with } (ho _ _), raisePlane_keeps hx.state⟩
theorem foldStep_keeps {id : OpId} (hs : Keeps r s) : Keeps r (foldStep id s) := by
  refine withRunning_keeps (fun o s ho h => .ite h (.ite (foldIssue_keeps h) ?_)) hs
  have h1 : PairOk r (foldLedger 0 (ledgerAt (dLedger o.d) s) (o, s)) := foldLedger_ok ⟨ho, h⟩
  dsimp only
  split
  · exact setOp_keeps { h1.op with } h1.state
  · next l _ =>
    have h2 : PairOk r (foldLedger 8 l ((foldLedger 0 (ledgerAt (dLedger o.d) s) (o, s)).1, (foldLedger 0 (ledgerAt (dLedger o.d) s) (o, s)).2)) :=
        foldLedger_ok h1
    exact setOp_keeps { h2.op with } h2.state
end

/-! ### What the functions of `Machine/Egress` keep -/

section
variable {r s : State}

theorem useTrue_ok {o : Op} (ho : OpOk r o) : OpOk r (useTrue o) := by
  unfold useTrue
  dsimp only
  split
  · exact { ho with }
  · exact ho
theorem unitRun_keeps {id : OpId} {t : ℕ} {u : ℕ} (hs : Keeps r s) : Keeps r (unitRun id t s u) := by
  unfold unitRun
  dsimp only
  refine withOp_keeps (fun _ _ ho1 hs2 => ?_) hs
  split
  · exact hs2
  next _ e4 => exact queueBeats_keeps (setOp_keeps
      ({ ho1 with leg := leg_some ({ (ho1.leg _ e4) with beatsOut := fun w => tset_wf _ _ _ (((ho1.leg _ e4)).beatsOut w) }) }) hs2)
theorem entryRun_keeps {id : OpId} {p : ℕ} {t : ℕ} (hs : Keeps r s) : Keeps r (entryRun id p t s) := by
  unfold entryRun
  dsimp only
  refine withOp_keeps (fun _ _ ho1 hs2 => ?_) hs
  split
  · exact hs2
  next _ e4 => exact .ite hs2 (queueBeats_keeps (setOp_keeps
      ({ ho1 with leg := leg_some ({ (ho1.leg _ e4) with beatsOut := fun w => tset_wf _ _ _ (((ho1.leg _ e4)).beatsOut w) }) }) hs2))
theorem finishPiece_keeps {id : OpId} {p : ℕ} {t : ℕ} (hs : Keeps r s) : Keeps r (finishPiece id p t s) := by
  unfold finishPiece
  dsimp only
  refine withOp_keeps (fun _ _ ho1 hs2 => ?_) hs
  split
  · exact hs2
  next _ e4 => exact .ite hs2 (.when (setOp_keeps ({ ho1 with leg := leg_some ({ (ho1.leg _ e4) with }) }) hs2) fun h5 => queueBeats_keeps h5)
theorem deliverHalf_keeps {id : OpId} {p : ℕ} {rev : Bool} {img : List Byte} {t : ℕ} (hs : Keeps r s) : Keeps r (deliverHalf id p rev img t s) := by
  unfold deliverHalf
  dsimp only
  refine withOp_keeps (fun _ _ ho1 hs2 => ?_) hs
  split
  · exact hs2
  next _ e4 => exact finishPiece_keeps (entryRun_keeps (Keeps.foldl (setOp_keeps
      ({ ho1 with leg := leg_some ({ (ho1.leg _ e4) with images := fun w => tset_wf _ _ _ (((ho1.leg _ e4)).images w) }) }) hs2) fun _ _ hs5 =>
      unitRun_keeps hs5))
theorem deliverStats_keeps {id : OpId} {p : ℕ} {img : List Byte} {t : ℕ} (hs : Keeps r s) : Keeps r (deliverStats id p img t s) := by
  unfold deliverStats
  dsimp only
  refine withOp_keeps (fun _ _ ho1 hs2 => ?_) hs
  split
  · exact hs2
  next _ e4 => exact .unless (setOp_keeps
      ({ ho1 with leg := leg_some ({ (ho1.leg _ e4) with stats := fun w => tset_wf _ _ _ (((ho1.leg _ e4)).stats w) }) }) hs2) fun h5 =>
      finishPiece_keeps h5
theorem ownHalves_keeps {id : OpId} {t : ℕ} {image : Bool → List Byte} (hs : Keeps r s) : Keeps r (ownHalves id t image s) := by
  unfold ownHalves
  refine withOp_keeps (fun _ _ _ hs2 => ?_) hs
  split
  · exact hs2
  · exact Keeps.foldl hs2 fun _ _ hs5 => .ite hs5 (deliverHalf_keeps hs5)
theorem endOutput_keeps {id : OpId} {t : ℕ} {decided : Bool} (hs : Keeps r s) : Keeps r (endOutput id t decided s) :=
  withOp_keeps (fun _ _ ho1 hs2 => .when (setOp_keeps ({ ho1 with }) hs2) fun h3 => queueBeats_keeps h3) hs
theorem egressEnd_keeps {id : OpId} {t : ℕ} {bs : Blocks} (hs : Keeps r s) : Keeps r (egressEnd id t bs s) := by
  unfold egressEnd
  dsimp only
  refine withOp_keeps (fun _ _ _ hs2 => ?_) hs
  split
  · exact endOutput_keeps hs2
  · exact .ite (finishPiece_keeps (ownHalves_keeps (.ite hs2 (deliverStats_keeps hs2)))) (endOutput_keeps (.ite hs2 (deliverStats_keeps hs2)))
theorem fillEmpty_keeps {t : ℕ} {o : Op} {l : Ledger} (ho : OpOk r o) (hs : Keeps r s) : Keeps r (fillEmpty t o l s) :=
  .ite (setOp_keeps ({ useTrue_ok ho with }) hs) hs
/-- The operation and the state that the conversion of blocks works on, whatever blocks it has gathered. -/
structure ConvOk (r : State) (x : Op × State × Blocks) : Prop where
  op : OpOk r x.1
  state : Keeps r x.2.1

theorem convertBlock_ok {l : Ledger} {c : EgCtx} {hi j : Nat} {x : Op × State × Blocks} (hx : ConvOk r x) : ConvOk r (convertBlock l c hi x j) := by
  have h : ∀ p f, Keeps r (raisePlane p f x.2.1) := fun _ _ => raisePlane_keeps hx.state
  refine ⟨{ hx.op with }, .ite (setLedger_keeps ?_ (h _ _)) (h _ _)⟩
  have hl : ∀ p f n, LedgerOk r (ledgerAt n (raisePlane p f x.2.1)) := fun p f n => (h p f).ledgerAt
  exact { acc := (hl _ _ _).acc, blocks := fun hi => tset_wf _ _ _ ((hl _ _ _).blocks hi), pages := (hl _ _ _).pages }

/-- The conversion of a list of blocks. -/
theorem convertBlocks_ok {l : Ledger} {c : EgCtx} {hi : Nat} {js : List Nat} {x : Op × State × Blocks} (hx : ConvOk r x) : ConvOk r (js.foldl
    (convertBlock l c hi) x) :=
  foldl_inv (P := ConvOk r) hx fun _ _ hx => convertBlock_ok hx

theorem ConvOk.setEg {x : Op × State × Blocks} {eg : Egress} (hx : ConvOk r x) : Keeps r (setOp { x.1 with eg := eg, progress := true } x.2.1) :=
  setOp_keeps { hx.op with } hx.state

theorem egressGroups_keeps {f : Nat} {id : OpId} {t : Nat} {x : State × Blocks} (hx : Keeps r x.1) : Keeps r (egressGroups f id t x).1 := by
  induction f generalizing x with
  | zero => exact hx
  | succ f ih =>
    obtain ⟨s, acc⟩ := x
    unfold egressGroups
    split
    · exact hx
    · next o e =>
      have ho : OpOk r (if o.eg.next ≤ (egSpan o (ledgerAt (dLedger o.d) s)).1 then useTrue o else o) := ite_ok (useTrue_ok (hx.opAt e)) (hx.opAt e)
      refine ite_ok (P := fun x : State × Blocks => Keeps r x.1) hx (ih ?_)
      have hc : ∀ l c hi js, ConvOk r (List.foldl (convertBlock l c hi) (if o.eg.next ≤ (egSpan o (ledgerAt (dLedger o.d) s)).1 then useTrue o else o,
          s, []) js) :=
        fun _ _ _ _ => convertBlocks_ok ⟨ho, hx⟩
      exact .ite (hc _ _ _ _).setEg (queueBeats_keeps (hc _ _ _ _).setEg)
theorem egressRun_keeps {id : OpId} {t : Nat} (hs : Keeps r s) : Keeps r (egressRun id t s) := by
  refine withRunning_keeps (fun o s ho h => .ite h ?_) hs
  have h' : Keeps r (fillEmpty t o (ledgerAt (dLedger o.d) s) s, ([] : Blocks)).1 := fillEmpty_keeps ho h
  exact withOp_keeps (fun _ _ _ h => .ite (egressEnd_keeps h) h) (egressGroups_keeps (f := (ledgerAt (dLedger o.d) s).count / 32 + 2) h')
theorem egressApply_keeps {id : OpId} {cyc : ℕ} (hs : Keeps r s) : Keeps r (egressApply id cyc s) :=
  egressRun_keeps (withRunning_keeps (fun _ _ _ hs2 => .ite (foldStep_keeps hs2) hs2) hs)
theorem sumWork_keeps {id : OpId} {cyc : ℕ} (hs : Keeps r s) : Keeps r (sumWork id cyc s) := by
  unfold sumWork
  dsimp only
  refine egressApply_keeps ?_
  refine withRunning_keeps (fun _ _ _ hs2 => ?_) hs
  refine Keeps.foldl hs2 fun _ _ hs3 => ?_
  split
  · exact hs3
  · exact treeSumApply_keeps hs3
theorem ofOp_keeps {code : Nat} {id : OpId} {f : State → State} (hf : ∀ s, Keeps r s → Keeps r (f s)) (hs : Keeps r s) : Keeps r (ofOp code id f s) :=
  withRunning_keeps (fun _ s _ h => .ite (hf s h) h) hs
theorem almanacCompareApply_keeps {id : OpId} (hs : Keeps r s) : Keeps r (almanacCompareApply id s) := by
  unfold almanacCompareApply
  dsimp only
  refine withRunning_keeps (fun _ _ ho1 hs2 => ?_) hs
  refine .ite hs2 ?_
  split
  · exact hs2
  · exact .ite (setOp_keeps ({ ho1 with }) hs2) hs2
  · exact setOp_keeps ({ ho1 with }) (setLedger_keeps ({ acc := hs2.ledgerAt.acc, blocks := hs2.ledgerAt.blocks, pages := hs2.ledgerAt.pages }) (.ite
        hs2 (irq_keeps hs2)))
theorem applyLegRecall_keeps {o : Op} {code : BitVec 8} (hs : Keeps r s) : Keeps r (applyLegRecall o code s) :=
  restartLeg_keeps (modOp_keeps (fun _ ho1 => { clearEgress_ok (ite_ok (clearContribution_ok ho1) ho1) with }) (recallNow_keeps hs))
theorem recallApply_keeps {id : OpId} (hs : Keeps r s) : Keeps r (recallApply id s) := by
  unfold recallApply
  dsimp only
  refine withRunning_keeps (fun _ _ _ hs2 => ?_) hs
  split
  · exact applyLegRecall_keeps hs2
  · exact .ite hs2 (modOp_keeps (fun _ ho5 => { ho5 with }) (recallNow_keeps hs2))
theorem beginRelap_ok {g : Leg} (hg : LegOk r g) : LegOk r (beginRelap g) :=
  { hg with stats := fun _ => rfl, images := fun w => filter_wf _ (hg.images w), beatsOut := fun _ => rfl }
theorem reEmissionApply_keeps {id : OpId} {cyc : ℕ} (hs : Keeps r s) : Keeps r (reEmissionApply id cyc s) :=
  withRunning_keeps (fun _ _ ho1 hs2 => .ite hs2 (egressApply_keeps (setOp_keeps (ite_ok
      ({ useTrue_ok ({ clearFold_ok (clearEgress_ok ho1) with }) with leg := leg_map (useTrue_ok ({ clearFold_ok (clearEgress_ok ho1) with })).leg fun _ hg3 => beginRelap_ok hg3 })
      (useTrue_ok ({ clearFold_ok (clearEgress_ok ho1) with }))) hs2))) hs
theorem lateRelease_keeps {id : OpId} {stall : ℕ} {chunk : ℕ} (hs : Keeps r s) : Keeps r (lateRelease id stall chunk s) := by
  unfold lateRelease
  split
  · exact hs
  · exact addTally_keeps ({ hs with })
theorem chunkReleaseApply_keeps {id : OpId} {stall : ℕ} {chunk : ℕ} (hs : Keeps r s) : Keeps r (chunkReleaseApply id stall chunk s) := by
  unfold chunkReleaseApply
  dsimp only
  refine .ite (.ite (lateRelease_keeps hs) hs) ?_
  refine withRunning_keeps (fun _ _ ho1 hs2 => ?_) hs
  refine .ite hs2 ?_
  split
  · exact hs2
  · exact .ite hs2 (addTally_keeps (setOp_keeps ({ ho1 with }) hs2))
end

/-! ### What the functions of `Machine/Laps` keep -/

section
variable {r s : State}

theorem putTx_ok {t : TxStep} {g : Leg} (hg : LegOk r g) : LegOk r (putTx t g) := { hg with }
end

/-! ### What the functions of `Machine/Leg` keep -/

section
variable {r s : State}

theorem sendByte_keeps {x : TxStep × State × List Byte} {b : Byte} (hx : Keeps r x.2.1) : Keeps r (sendByte x b).2.1 := by
  unfold sendByte
  dsimp only
  split
  · exact .ite (fireInjection_keeps hx) hx
  · split <;> exact hx

theorem feedFlits_keeps {vc group sid : Nat} {fin : Bool} {f : Nat} {buf : List Byte} {port : Nat} (hs : Keeps r s) : Keeps r (feedFlits vc group sid fin f buf port s).2 := by
  induction f generalizing s buf with
  | zero => exact hs
  | succ f ih =>
    unfold feedFlits
    split
    · exact ih (queueFlit_keeps hs)
    · split
      · exact queueFlit_keeps hs
      · exact hs

theorem feedStep_keeps {t : TxStep} {vc group chunks : Nat} {bytes : List Byte} {fin : Bool} (hs : Keeps r s) :
    Keeps r (feedStep t vc group chunks bytes fin s).2 :=
  feedFlits_keeps (foldl_inv (P := fun x : TxStep × State × List Byte => Keeps r x.2.1) hs fun _ _ hx => sendByte_keeps hx)
end

/-! ### What the functions of `Machine/Laps` keep -/

section
variable {r s : State}

theorem feedOwn_keeps {id : OpId} {rev : Bool} (hs : Keeps r s) : Keeps r (feedOwn id rev s) := by
  unfold feedOwn
  dsimp only
  refine withOp_keeps (fun _ _ ho1 hs2 => ?_) hs
  split
  · exact hs2
  next _ e4 =>
    split
    · exact .ite hs2 (setOp_keeps ({ ho1 with leg := leg_some (putTx_ok ((ho1.leg _ e4))) }) (feedStep_keeps hs2))
    · exact hs2
theorem feedDirs_keeps {id : OpId} (hs : Keeps r s) : Keeps r (feedDirs id s) := feedOwn_keeps (feedOwn_keeps hs)
end

/-! ### What the functions of `Machine/Copies` keep -/

section
variable {r s : State}

theorem copyFlags_keeps {id : OpId} {p : ℕ} {f : Flags} (hs : Keeps r s) : Keeps r (copyFlags id p f s) :=
  raisePlane_keeps (modOp_keeps (fun _ ho1 => { ho1 with }) hs)
theorem copyPresent_keeps {id : OpId} {t : ℕ} {n : ℕ} (hs : Keeps r s) : Keeps r (copyPresent id t s n) := by
  unfold copyPresent
  dsimp only
  refine withOp_keeps (fun _ _ ho1 hs2 => ?_) hs
  split
  · exact hs2
  · exact queueBeat_keeps (copyFlags_keeps (setOp_keeps ({ ho1 with summed := fun w => tset_wf _ _ _ (ho1.summed w) }) hs2))
theorem copyOnDie_keeps {id : OpId} {t : ℕ} (hs : Keeps r s) : Keeps r (copyOnDie id t s) :=
  withOp_keeps (fun _ _ _ hs2 => modOp_keeps (fun _ ho3 => ite_ok ({ ho3 with }) ho3) (Keeps.foldl hs2 fun _ _ hs4 => Keeps.foldl hs4 fun _ _ hs6 =>
      copyPresent_keeps hs6)) hs
theorem localFlags_keeps {id : OpId} {o : Op} {lo : ℕ} {hi : ℕ} (hs : Keeps r s) : Keeps r (localFlags id o lo hi s) :=
  Keeps.foldl hs fun _ _ hs1 => copyFlags_keeps hs1
theorem gatherOwn_keeps {id : OpId} {t : ℕ} (hs : Keeps r s) : Keeps r (gatherOwn id t s) := by
  unfold gatherOwn
  dsimp only
  refine withOp_keeps (fun _ _ _ hs2 => ?_) hs
  split
  · exact hs2
  · exact .ite hs2 (feedDirs_keeps (ownHalves_keeps (localFlags_keeps (modOp_keeps (fun _ ho5 => { ho5 with }) hs2))))
theorem copyWork_keeps {id : OpId} {cyc : ℕ} (hs : Keeps r s) : Keeps r (copyWork id cyc s) :=
  withRunning_keeps (fun _ _ _ hs2 => .ite hs2 (.ite (gatherOwn_keeps (passBeats_keeps hs2)) (copyOnDie_keeps (passBeats_keeps hs2)))) hs
theorem presentPairs_keeps {id : OpId} {t : ℕ} {l : List Cand} (hs : Keeps r s) : Keeps r (presentPairs id t l s) :=
  withOp_keeps (fun _ _ ho1 hs2 => queueBeats_keeps (setOp_keeps ({ ho1 with }) hs2)) hs
theorem deliverList_keeps {id : OpId} {p : ℕ} {img : List Byte} {t : ℕ} (hs : Keeps r s) : Keeps r (deliverList id p img t s) := by
  unfold deliverList
  dsimp only
  refine withOp_keeps (fun _ _ ho1 hs2 => ?_) hs
  split
  · exact hs2
  next _ e4 => exact .when (setOp_keeps
      ({ ho1 with leg := leg_some ({ (ho1.leg _ e4) with images := fun w => tset_wf _ _ _ (((ho1.leg _ e4)).images w) }) }) hs2) fun h5 =>
      presentPairs_keeps h5
theorem selectFlags_keeps {o : Op} (hs : Keeps r s) : Keeps r (selectFlags o s).2 :=
  foldl_inv (P := fun x : Flags × State => Keeps r x.2) hs fun _ _ hx => raisePlane_keeps hx
theorem selectEnd_keeps {id : OpId} {t : ℕ} (hs : Keeps r s) : Keeps r (selectEnd id t s) := by
  unfold selectEnd
  dsimp only
  refine withOp_keeps (fun _ _ _ hs2 => ?_) hs
  refine .ite hs2 ?_
  split
  · exact presentPairs_keeps (modOp_keeps (fun _ ho4 => { ho4 with }) (selectFlags_keeps hs2))
  · exact feedDirs_keeps (deliverList_keeps (modOp_keeps (fun _ ho6 => { ho6 with }) (selectFlags_keeps hs2)))
theorem selectWork_keeps {id : OpId} {cyc : ℕ} (hs : Keeps r s) : Keeps r (selectWork id cyc s) :=
  withRunning_keeps (fun _ _ _ hs2 => .ite hs2 (selectEnd_keeps (passBeats_keeps hs2))) hs
theorem a2aSizes_keeps {id : OpId} (hs : Keeps r s) : Keeps r (a2aSizes id s) := by
  unfold a2aSizes
  dsimp only
  refine withRunning_keeps (fun _ _ ho1 hs2 => ?_) hs
  split
  · exact hs2
  next _ e4 => exact .ite hs2 (.ite (findDue_keeps hs2) (setOp_keeps ({ ho1 with leg := leg_some ({ (ho1.leg _ e4) with }) }) hs2))
theorem a2aRun_keeps {id : OpId} {t : ℕ} {u : ℕ} (hs : Keeps r s) : Keeps r (a2aRun id t s u) := by
  unfold a2aRun
  dsimp only
  refine withOp_keeps (fun _ _ ho1 hs2 => ?_) hs
  split
  · exact hs2
  next _ e4 => exact queueBeats_keeps (setOp_keeps
      ({ ho1 with leg := leg_some ({ (ho1.leg _ e4) with beatsOut := fun w => tset_wf _ _ _ (((ho1.leg _ e4)).beatsOut w) }) }) hs2)
theorem a2aDeliver_keeps {id : OpId} {j : ℕ} {img : List Byte} {whole : Bool} {t : ℕ} (hs : Keeps r s) : Keeps r (a2aDeliver id j img whole t s) := by
  unfold a2aDeliver
  dsimp only
  refine withOp_keeps (fun _ _ ho1 hs2 => ?_) hs
  split
  · exact hs2
  next _ e4 => exact Keeps.foldl (setOp_keeps
      ({ ho1 with leg := leg_some ({ (ho1.leg _ e4) with images := fun w => tset_wf _ _ _ (((ho1.leg _ e4)).images w) }) }) hs2) fun _ _ hs5 =>
      a2aRun_keeps hs5
theorem a2aFeed_keeps {f : Nat} {id : OpId} {rev : Bool} (hs : Keeps r s) : Keeps r (a2aFeed f id rev s) := by
  induction f generalizing s with
  | zero => exact hs
  | succ f ih =>
    unfold a2aFeed
    split
    · exact hs
    split
    · exact hs
    dsimp only
    split
    · split
      · exact hs
      · exact ih (modOp_keeps (fun _ ho => { ho with leg := leg_map ho.leg fun _ hg => putTx_ok hg }) (feedStep_keeps (localFlags_keeps hs)))
    · exact hs
theorem a2aFeedDirs_keeps {id : OpId} (hs : Keeps r s) : Keeps r (a2aFeedDirs id s) := by
  unfold a2aFeedDirs
  refine withOp_keeps (fun _ _ _ hs2 => ?_) hs
  split
  · exact hs2
  · exact a2aFeed_keeps (a2aFeed_keeps hs2)
theorem a2aPass_keeps {id : OpId} {cyc : ℕ} (hs : Keeps r s) : Keeps r (a2aPass id cyc s) :=
  withRunning_keeps (fun _ _ _ hs2 => .ite (passBeats_keeps hs2) hs2) hs
theorem a2aOwn_keeps {id : OpId} {cyc : ℕ} (hs : Keeps r s) : Keeps r (a2aOwn id cyc s) := by
  unfold a2aOwn
  refine withRunning_keeps (fun _ _ _ hs2 => ?_) hs
  split
  · exact hs2
  · exact .ite hs2 (a2aDeliver_keeps (localFlags_keeps hs2))
end

/-! ### What the functions of `Machine/Phases` keep -/

section
variable {r s : State}

theorem holdsEdge_keeps (hs : Keeps r s) : Keeps r (holdsEdge s) := { hs with ops := map_mem hs.ops fun _ ho1 => ite_ok ho1 ({ ho1 with }) }
theorem closeUp_ok {o : Op} {p : ℕ} (ho : OpOk r o) : OpOk r (closeUp o p s) := { { ho with } with }
theorem upOpenApply_keeps {id : OpId} {p : ℕ} (hs : Keeps r s) : Keeps r (upOpenApply id p s) :=
  withRunning_keeps (fun _ _ ho1 hs2 => .ite hs2 (endDiscard_keeps (setOp_keeps (ite_ok (closeUp_ok ({ ho1 with })) ({ ho1 with })) hs2))) hs
theorem upCloseApply_keeps {id : OpId} {p : ℕ} (hs : Keeps r s) : Keeps r (upCloseApply id p s) :=
  withRunning_keeps (fun _ _ ho1 hs2 => .ite hs2 (setOp_keeps (closeUp_ok ho1) hs2)) hs
end

/-! ### What the functions of `Machine/Ring` keep -/

section
variable {r s : State}

theorem setStream_keeps {port : ℕ} {tag : ℕ} {v : Option Machine.Stream} (hs : Keeps r s) : Keeps r (setStream port tag v s) :=
  setLink_keeps ({ streams := fun w => tset_wf _ _ _ (hs.linkAt.streams w) }) hs
theorem freeFlits_keeps {port : ℕ} {vc : ℕ} {n : ℕ} (hs : Keeps r s) : Keeps r (freeFlits port vc n s) :=
  setLink_keeps ({ streams := hs.linkAt.streams }) hs
theorem settleStream_keeps {port : ℕ} {tag : ℕ} (hs : Keeps r s) : Keeps r (settleStream port tag s) := by
  unfold settleStream
  dsimp only
  split
  · exact hs
  · exact setStream_keeps (setLink_keeps ({ streams := ((freeFlits_keeps hs).linkAt).streams }) (freeFlits_keeps hs))
theorem eatChunk_keeps {port : ℕ} {tag : ℕ} {n : ℕ} {onward : Bool} {out : Option OutPart} (hs : Keeps r s) : Keeps r (eatChunk port tag n onward out s) := by
  unfold eatChunk
  dsimp only
  split
  · exact hs
  · exact settleStream_keeps (setStream_keeps hs)
theorem setLeg_keeps {id : OpId} {f : Leg → Leg} (hf : ∀ g, LegOk r g → LegOk r (f g)) (hs : Keeps r s) : Keeps r (setLeg id f s) :=
  modOp_keeps (fun _ ho => { ho with leg := leg_map ho.leg hf }) hs
theorem ringFlags_keeps {id : OpId} {port : ℕ} {f : Flags} (hs : Keeps r s) : Keeps r (ringFlags id port f s) :=
  raiseRing_keeps (modOp_keeps (fun _ ho1 => { ho1 with }) hs)
theorem rsFeed_keeps {id : OpId} {rev : Bool} {step : ℕ} {j : ℕ} (hs : Keeps r s) : Keeps r (rsFeed id rev step s j) := by
  unfold rsFeed
  dsimp only
  refine withOp_keeps (fun _ _ _ hs2 => ?_) hs
  split
  · exact hs2
  · split
    · exact hs2
    · exact .ite hs2 (setLeg_keeps (fun _ hg7 => putTx_ok hg7) (feedStep_keeps (ringFlags_keeps hs2)))
theorem endHalf_keeps {id : OpId} {p : ℕ} {rev : Bool} {st : LapSt} {t : ℕ} (hs : Keeps r s) : Keeps r (endHalf id p rev st t s) := by
  unfold endHalf
  dsimp only
  refine withOp_keeps (fun _ _ _ hs2 => ?_) hs
  split
  · exact hs2
  · exact .unless (setLeg_keeps (fun _ hg6 => { hg6 with images := fun w => tset_wf _ _ _ (hg6.images w) }) hs2) fun h5 => .ite (deliverList_keeps h5)
        (deliverHalf_keeps h5)
theorem relayBad_keeps {port : ℕ} {h : ChunkHdr} (hs : Keeps r s) : Keeps r (relayBad port h s) := by
  unfold relayBad
  split
  · exact findDue_keeps hs
  · exact findDue_keeps hs
theorem badChunk_keeps {port : ℕ} {h : ChunkHdr} (hs : Keeps r s) : Keeps r (badChunk port h s) := relayBad_keeps (count_keeps hs)
theorem trimStream_keeps {port : ℕ} {tag : ℕ} {pos : ℕ} (hs : Keeps r s) : Keeps r (trimStream port tag pos s) := by
  unfold trimStream
  split
  · exact hs
  · exact settleStream_keeps (setStream_keeps hs)
theorem legOp_both {tgroup : Nat} {seq : BitVec 16} {o : Op} {g : Leg} (hs : Keeps r s) (e : legOp tgroup seq s = some (o, g)) : OpOk r o ∧ LegOk r g := by
  obtain ⟨o', ho', e⟩ := List.exists_of_findSome?_eq_some e
  split at e
  · next g' hg =>
    split at e
    · cases e
      exact ⟨hs.ops _ ho', (hs.ops _ ho').leg _ hg⟩
    · cases e
  · cases e

/-- What a chunk's consumer leaves, where it takes the chunk, has kept what `r` had. -/
def ChunkRes.Ok (r : State) : ChunkRes → Prop
  | .take _ s => Keeps r s
  | _ => True

theorem rsChunk_ok {o : Op} {l : Ledger} {g : Leg} {h : ChunkHdr} {data : List Byte} {port : Nat} (hg : LegOk r g) (hs : Keeps r s) : (rsChunk o l g h data port s).Ok r := by
  refine ite_ok trivial (ite_ok trivial (ite_ok trivial ?_))
  have h' : ∀ n ws f fl, Keeps r (setLeg o.id (fun _ => { g with
      region := (ws : List (Nat × Word64 × Flags)).foldl (fun t x => tset 0#64 x.1 x.2.1 t) g.region, got := tset 0 (gotKey h.rev h.step) n g.got,
          reduced := f }) (ringFlags o.id port fl s)) :=
    fun _ _ _ _ => setLeg_keeps (fun _ _ => { hg with
      region := fun hi => foldl_inv (P := fun t => tableWf 0#64 t = true) (hg.region hi) fun _ _ ht => tset_wf _ _ _ ht
      got := fun hi => tset_wf _ _ _ (hg.got hi) }) (ringFlags_keeps hs)
  exact Keeps.ite (rsFeed_keeps (h' _ _ _ _)) (h' _ _ _ _)

theorem lapChunk_ok {o : Op} {l : Ledger} {g : Leg} {h : ChunkHdr} {data : List Byte} {ended : Bool} {t : Nat} (hs : Keeps r s) : (lapChunk o l g h data ended t s).Ok r := by
  unfold lapChunk
  refine ite_ok trivial ?_
  dsimp only
  split
  · exact ite_ok hs trivial
  · refine ite_ok trivial ?_
    have h' : ∀ k v, Keeps r (setLeg o.id (fun g => { g with images := tset [] k v g.images }) s) := fun _ _ => setLeg_keeps (fun _ hg =>
        { hg with images := fun hi => tset_wf _ _ _ (hg.images hi) }) hs
    exact Keeps.ite (endHalf_keeps (h' _ _)) (.ite (deliverHalf_keeps (h' _ _)) (h' _ _))

theorem statsChunk_ok {o : Op} {l : Ledger} {g : Leg} {h : ChunkHdr} {data : List Byte} {ended : Bool} {t : Nat} (hs : Keeps r s) : (statsChunk o l g h data ended t s).Ok r := by
  unfold statsChunk
  refine ite_ok trivial ?_
  split
  · exact ite_ok hs trivial
  · exact Keeps.ite (endHalf_keeps (.ite hs (deliverStats_keeps hs))) (.ite hs (deliverStats_keeps hs))

theorem a2aChunk_ok {o : Op} {g : Leg} {h : ChunkHdr} {data : List Byte} {ended : Bool} {t : Nat} (hs : Keeps r s) : (a2aChunk o g h data ended t
    s).Ok r :=
  ite_ok trivial (ite_ok (ite_ok trivial hs) (ite_ok trivial (ite_ok trivial (show Keeps r _ from a2aDeliver_keeps hs))))
theorem ringChunk_keeps {port tag : Nat} {st : Stream} {h : ChunkHdr} {raw : List Byte} {t : Nat} (hs : Keeps r s) : Keeps r (ringChunk port tag st h raw t s) := by
  have hd : ∀ {s : State}, Keeps r s → Keeps r (eatChunk port tag raw.length false none s) := fun h => eatChunk_keeps h
  unfold ringChunk
  dsimp only
  split
  · exact .ite (badChunk_keeps (hd hs)) (.ite (hd hs) hs)
  · next o g e =>
    refine .ite hs (.ite (hd hs) (.ite (findDue_keeps (hd (count_keeps hs))) ?_))
    split
    · exact hs
    · exact findDue_keeps (hd hs)
    · exact findDue_keeps (hd hs)
    · next onward s' e' =>
      have hs' : Keeps r s' := by
        have hr : ChunkRes.Ok r (.take onward s') := by
          rw [← e']
          exact ite_ok (rsChunk_ok (legOp_both hs e).2 hs) (ite_ok (lapChunk_ok hs) (ite_ok (statsChunk_ok hs) (ite_ok (a2aChunk_ok hs) trivial)))
        exact hr
      exact .ite (modOp_keeps (fun _ ho => { ho with }) hs) (.ite (trimStream_keeps (eatChunk_keeps hs')) (eatChunk_keeps hs'))
theorem endStream_keeps {port : ℕ} {tag : ℕ} (hs : Keeps r s) : Keeps r (endStream port tag s) := by
  unfold endStream
  split
  · exact hs
  · exact .ite (settleStream_keeps (setStream_keeps hs)) hs
theorem ringChunkApply_keeps {port : ℕ} {tag : ℕ} {cyc : ℕ} (hs : Keeps r s) : Keeps r (ringChunkApply port tag cyc s) := by
  unfold ringChunkApply
  dsimp only
  refine .ite hs ?_
  split
  · exact hs
  · split
    · exact endStream_keeps hs
    · refine .ite hs ?_
      split
      · exact ringChunk_keeps hs
      · exact .unless (eatChunk_keeps hs) fun h7 => badChunk_keeps h7
      · refine .ite (badChunk_keeps (eatChunk_keeps hs)) ?_
        split
        · exact findDue_keeps (eatChunk_keeps hs)
        · exact .ite (eatChunk_keeps hs) hs
theorem noteGate_keeps {id : OpId} {step : ℕ} (hs : Keeps r s) : Keeps r (noteGate id step s) :=
  withOp_keeps (fun _ _ ho1 hs2 => setOp_keeps ({ ho1 with }) (.ite (noticeNext_keeps hs2) hs2)) hs
end

/-! ### What the functions of `Machine/Leg` keep -/

section
variable {r s : State}

theorem takeSid_keeps {port : Nat} (hs : Keeps r s) : Keeps r (takeSid port s).2 := setLink_keeps ⟨hs.linkAt.streams⟩ hs
end

/-! ### What the functions of `Machine/Ring` keep -/

section
variable {r s : State}

theorem openStep_keeps {id : OpId} {rev : Bool} {step : ℕ} {key : ℕ} {port : ℕ} {from' : Option (ℕ × ℕ)} (hs : Keeps r s) : Keeps r (openStep id rev step key port from' s) := by
  unfold openStep
  dsimp only
  refine withOp_keeps (fun _ _ _ hs2 => ?_) hs
  split
  · exact hs2
  · exact noteGate_keeps (setLeg_keeps (fun _ hg5 => { hg5 with }) (takeSid_keeps hs2))
theorem ringStepApply_keeps {id : OpId} {rev : Bool} {step : ℕ} (hs : Keeps r s) : Keeps r (ringStepApply id rev step s) := by
  unfold ringStepApply
  dsimp only
  refine withRunning_keeps (fun _ _ _ hs2 => ?_) hs
  split
  · exact hs2
  · split
    · exact hs2
    · refine .ite hs2 ?_
      refine .ite (.ite hs2 (a2aFeed_keeps (openStep_keeps hs2))) ?_
      refine .ite (.ite hs2 (Keeps.foldl (openStep_keeps hs2) fun _ _ hs7 => rsFeed_keeps hs7)) ?_
      refine .ite hs2 ?_
      refine .ite (.ite hs2 (feedOwn_keeps (openStep_keeps hs2))) ?_
      split
      · exact hs2
      · split
        · exact hs2
        · exact .ite hs2 (openStep_keeps hs2)
theorem statsLapApply_keeps {id : OpId} (hs : Keeps r s) : Keeps r (statsLapApply id s) := by
  unfold statsLapApply
  refine withRunning_keeps (fun _ _ _ hs2 => ?_) hs
  split
  · exact .ite (ringStepApply_keeps hs2) hs2
  · exact hs2
theorem putRelay_keeps {out : ℕ} {t : TxStep} (hs : Keeps r s) : Keeps r (putRelay out t s) := setLink_keeps ({ streams := hs.linkAt.streams }) hs
theorem setFwd_keeps {port : ℕ} {tag : ℕ} {b : List Byte} {notes : List (ℕ × Delivery)} (hs : Keeps r s) : Keeps r (setFwd port tag b notes s) := by
  unfold setFwd
  split
  · exact hs
  · exact settleStream_keeps (setStream_keeps hs)
theorem forwardAll_keeps {port tag : Nat} {st : Stream} {t : TxStep} {vc : Nat} {put : TxStep → State → State} (hf : ∀ t s, Keeps r s → Keeps r (put t
    s)) (hs : Keeps r s) :
    Keeps r (forwardAll port tag st t vc put s) :=
  have h : ∀ b f, Keeps r (feedStep t vc t.group 0 b f s).2 := fun _ _ => feedStep_keeps hs
  setFwd_keeps (hf _ _ (h _ _))
theorem relayFor_keeps {whole : Bool} {port tag out : Nat} {h : ChunkHdr} {t : TxStep} {s' : State} (hs : Keeps r s) (e : relayFor whole port tag out h s = some (t, s')) : Keeps r s' := by
  unfold relayFor at e
  split at e
  · cases e
    exact hs
  · split at e <;> cases e
    exact takeSid_keeps hs
theorem forwardTransit_keeps {port : ℕ} {tag : ℕ} {out : ℕ} {pos : ℕ} {st : Machine.Stream} {h : ChunkHdr} (hs : Keeps r s) : Keeps r (forwardTransit port tag out pos st h s) := by
  unfold forwardTransit
  dsimp only
  refine .ite (setFwd_keeps hs) ?_
  split
  · exact hs
  next _ _ e2 => exact setFwd_keeps (putRelay_keeps (feedStep_keeps ((relayFor_keeps hs e2))))
theorem forwardDrop_keeps {port : ℕ} {tag : ℕ} (hs : Keeps r s) : Keeps r (forwardDrop port tag s) := by
  unfold forwardDrop
  dsimp only
  split
  · split
    · exact .ite hs (putRelay_keeps (feedStep_keeps hs))
    · exact hs
  · refine settleStream_keeps ?_
    refine setStream_keeps ?_
    split
    · exact .ite hs (putRelay_keeps (feedStep_keeps hs))
    · exact hs
theorem transitApply_keeps {port : ℕ} {tag : ℕ} {st : Machine.Stream} (hs : Keeps r s) : Keeps r (transitApply port tag st s) := by
  unfold transitApply
  split
  · exact .ite (forwardDrop_keeps hs) hs
  · split
    · exact .ite hs (.ite (forwardDrop_keeps hs) (forwardTransit_keeps hs))
    · exact .ite (forwardDrop_keeps hs) hs
theorem chunkForwardApply_keeps {port : ℕ} {tag : ℕ} {cyc : ℕ} (hs : Keeps r s) : Keeps r (chunkForwardApply port tag cyc s) := by
  unfold chunkForwardApply
  refine .ite hs ?_
  split
  · exact hs
  · refine .ite hs ?_
    split
    · exact .ite hs (forwardAll_keeps (fun _ _ hs4 => setLeg_keeps (fun _ hg5 => putTx_ok hg5) hs4) hs)
    · split
      · exact .ite (.ite hs (forwardAll_keeps (fun _ _ hs8 => putRelay_keeps hs8) hs)) (transitApply_keeps hs)
      · split
        · exact hs
        · split
          · refine .ite (forwardDrop_keeps hs) ?_
            split
            next _ _ e13 => exact forwardAll_keeps (fun _ _ hs14 => putRelay_keeps hs14) ((relayFor_keeps hs e13))
            · exact hs
          · exact .ite (transitApply_keeps hs) hs
          · exact hs
theorem Keeps.mapOps {f : Op → Op} (hf : ∀ o, OpOk r o → OpOk r (f o)) (hs : Keeps r s) : Keeps r { s with ops := s.ops.map f } :=
  { hs with ops := map_mem hs.ops hf }

theorem ringStepEndApply_keeps {port tag : Nat} (hs : Keeps r s) : Keeps r (ringStepEndApply port tag s) := by
  refine .ite hs ?_
  refine Keeps.mapOps (fun o ho => ?_) (.ite (setLink_keeps ⟨hs.linkAt.streams⟩ hs) hs)
  split
  · next g hg => exact ite_ok { ho with leg := leg_some { ho.leg g hg with } } ho
  · exact ho
theorem recallHeard_keeps {id : OpId} {g : Leg} {code : BitVec 8} (hs : Keeps r s) : Keeps r (recallHeard id g code s) :=
  .ite hs (floodRecall_keeps (setLeg_keeps (fun _ hg1 => { hg1 with }) hs))
theorem dropLegStreams_keeps {port : ℕ} {vc : ℕ} {g : Leg} {serial : ℕ} (hs : Keeps r s) : Keeps r (dropLegStreams port vc g serial s) := by
  unfold dropLegStreams
  dsimp only
  refine Keeps.foldl hs fun _ _ hs1 => ?_
  split
  · exact hs1
  · split
    · exact .ite (forwardDrop_keeps (setStream_keeps hs1)) hs1
    · exact hs1
theorem recallMsgApply_keeps {port : ℕ} {m : CtlMsg} (hs : Keeps r s) : Keeps r (recallMsgApply port m s) := by
  unfold recallMsgApply
  dsimp only
  split
  · exact hs
  · exact .ite (.ite (setLeg_keeps (fun _ hg3 => { hg3 with }) hs) (recallHeard_keeps (setLeg_keeps (fun _ hg4 => { hg4 with }) hs))) (.ite
        (dropLegStreams_keeps (setLeg_keeps (fun _ hg5 => { hg5 with }) hs)) (recallHeard_keeps (dropLegStreams_keeps (setLeg_keeps (fun _ hg6 =>
        { hg6 with }) hs))))
theorem recallReceive_keeps {port : ℕ} (hs : Keeps r s) : Keeps r (recallReceive port s) := by
  unfold recallReceive
  dsimp only
  refine .ite hs ?_
  split
  · exact hs
  · split
    · exact .ite hs (queueFlit_keeps (setLink_keeps ({ streams := hs.linkAt.streams }) hs))
    · exact recallMsgApply_keeps (setLink_keeps ({ streams := hs.linkAt.streams }) hs)
/-- Each port's first held ADD notes whether all that it waits for has gone (R317). -/
def addsReady (s : State) : State :=
  s.links.foldl (fun s p => match p.2.adds with
    | [] => s
    | a :: rest => setLink p.1 { p.2 with adds := { a with ready := a.waits.all (pathDrained s) } :: rest } s) s

theorem addsReady_keeps (hs : Keeps r s) : Keeps r (addsReady s) := by
  refine hs.foldl_mem fun s p hp h => ?_
  dsimp only
  split
  · exact h
  · exact setLink_keeps ⟨(hs.linksIn p hp).streams⟩ h
theorem addsEdge_keeps (hs : Keeps r s) : Keeps r (addsEdge s) := by
  have h1 := hs.foldl_mem (l := s.links) fun s p hp h => Keeps.ite (c := p.2.showing.isEmpty = true) h
    (setLink_keeps (n := p.1) (v := { p.2 with showing := p.2.showing.filter fun x => !deliveredBy s x.how }) ⟨(hs.linksIn p hp).streams⟩ h)
  have h2 : Keeps r (addsReady _) := addsReady_keeps h1
  exact { h2 with }
theorem verdictPassApply_keeps {tg : ℕ} {seq : BitVec 16} (hs : Keeps r s) : Keeps r (verdictPassApply tg seq s) := by
  unfold verdictPassApply
  dsimp only
  split
  · exact hs
  · exact .ite hs (verdictPassNow_keeps hs)
end

/-! ### What the functions of `Machine/Link` keep -/

section
variable {r s : State}

theorem modLink_keeps {port : Nat} {f : Link → Link} (hf : ∀ k, LinkOk r k → LinkOk r (f k)) (hs : Keeps r s) : Keeps r (modLink port f s) :=
  setLink_keeps (hf _ hs.linkAt) hs
theorem changeLink_keeps {port : Nat} {f : Link → Link} (hf : ∀ k, LinkOk r k → LinkOk r (f k)) (hs : Keeps r s) : Keeps r (changeLink port f s) :=
  .ite (modLink_keeps hf hs) (irq_keeps (modLink_keeps hf hs))
theorem linkDies_keeps {port : ℕ} {code : BitVec 8} (hs : Keeps r s) : Keeps r (linkDies port code s) :=
  modLink_keeps (fun _ hk1 => ite_ok hk1 ({ streams := hk1.streams })) hs
theorem ackApply_keeps {port : ℕ} {ack : ℕ} (hs : Keeps r s) : Keeps r (ackApply port ack s) :=
  .when (setLink_keeps ({ streams := hs.linkAt.streams }) hs) fun h1 => closeSourceChain_keeps h1
theorem creditApply_keeps {port : ℕ} {vc : ℕ} {cnt : ℕ} (hs : Keeps r s) : Keeps r (creditApply port vc cnt s) :=
  .ite (linkDies_keeps hs) (setLink_keeps ({ streams := hs.linkAt.streams }) hs)
theorem replayAttempt_keeps {port : ℕ} (hs : Keeps r s) : Keeps r (replayAttempt port s) :=
  .ite hs (.ite (linkDies_keeps hs) (setLink_keeps ({ streams := hs.linkAt.streams }) (.when (count_keeps hs) fun h1 => findDue_keeps h1)))
theorem nakDue_keeps {port : ℕ} (hs : Keeps r s) : Keeps r (nakDue port s) := modLink_keeps (fun _ hk1 => ite_ok hk1 ({ streams := hk1.streams })) hs
theorem streamProgress_keeps {port : ℕ} {tag : ℕ} (hs : Keeps r s) : Keeps r (streamProgress port tag s) := by
  unfold streamProgress
  split
  · exact hs
  · split
    · exact legProgress_keeps hs
    · exact hs
theorem dataAccept_keeps {port : ℕ} {h : FlitHdr} {payload : List Byte} {t : ℕ} (hs : Keeps r s) : Keeps r (dataAccept port h payload t s) :=
  streamProgress_keeps (setLink_keeps ({ streams := fun w => tset_wf _ _ _ (hs.linkAt.streams w) }) hs)
theorem ctlAccept_keeps {port : ℕ} {h : FlitHdr} {payload : List Byte} (hs : Keeps r s) : Keeps r (ctlAccept port h payload s) :=
  .ite (linkDies_keeps hs) (modLink_keeps (fun _ hk1 => { streams := hk1.streams }) hs)
theorem sequenced_keeps {port : ℕ} {h : FlitHdr} {payload : List Byte} {t : ℕ} (hs : Keeps r s) : Keeps r (sequenced port h payload t s) :=
  .ite (nakDue_keeps hs) (.ite (linkDies_keeps hs) (.ite (dataAccept_keeps (setLink_keeps ({ streams := hs.linkAt.streams }) hs)) (ctlAccept_keeps
      (setLink_keeps ({ streams := hs.linkAt.streams }) hs))))
theorem flitApply_keeps {port : ℕ} {flit : BitVec 1024} {symErr : Bool} {cyc : ℕ} (hs : Keeps r s) : Keeps r (flitApply port flit symErr cyc s) :=
  .ite hs (.ite (.when (count_keeps hs) fun h1 => nakDue_keeps h1) (.unless (setReg64_keeps (setLink_keeps ({ streams := hs.linkAt.streams }) hs)) fun
      h2 => .unless (creditApply_keeps (.when (.when h2 fun h5 => ackApply_keeps h5) fun h4 => modLink_keeps (fun _ hk6 => { streams := hk6.streams })
      h4)) fun h3 => .when h3 fun h7 => sequenced_keeps h7))
theorem nakApply_keeps {port : ℕ} (hs : Keeps r s) : Keeps r (nakApply port s) :=
  .ite (replayAttempt_keeps (modLink_keeps (fun _ hk1 => { streams := hk1.streams }) hs)) hs
theorem replayTimeoutApply_keeps {port : ℕ} {cyc : ℕ} (hs : Keeps r s) : Keeps r (replayTimeoutApply port cyc s) := by
  unfold replayTimeoutApply
  split
  · exact hs
  · exact .ite (replayAttempt_keeps hs) hs
theorem sendFrame_keeps {port : ℕ} {kind : ℕ} {vc : ℕ} {seq : ℕ} {tag : ℕ} {last : Bool} {payload : List Byte} {t : ℕ} (hs : Keeps r s) : Keeps r
    (sendFrame port kind vc seq tag last payload t s) :=
  frameOut_keeps (setLink_keeps ({ streams := hs.linkAt.streams }) (.ite (fireInjection_keeps hs) hs))
theorem txProgress_keeps {port : ℕ} {sid : ℕ} (hs : Keeps r s) : Keeps r (txProgress port sid s) := by
  unfold txProgress
  refine { hs with ops := map_mem hs.ops fun _ ho1 => ?_ }
  split
  · exact ite_ok ({ ho1 with }) ho1
  · exact ho1
theorem sendSequenced_keeps {port : ℕ} {vc : ℕ} {seq : ℕ} {t : ℕ} {f : TxFlit} (hs : Keeps r s) : Keeps r (sendSequenced port vc seq t f s) :=
  .when (modLink_keeps (fun _ hk2 => { streams := hk2.streams }) (sendFrame_keeps (.ite (takeTag_keeps hs) hs))) fun h1 => txProgress_keeps h1
theorem takeFrom_keeps {port vc : Nat} {f : TxFlit} {s' : State} (hs : Keeps r s) (e : takeFrom port vc s = some (f, s')) : Keeps r s' := by
  unfold takeFrom at e
  dsimp only at e
  split at e <;> cases e
  exact setLink_keeps ⟨hs.linkAt.streams⟩ hs
theorem sendNew_keeps {port : ℕ} {vc : ℕ} {t : ℕ} (hs : Keeps r s) : Keeps r (sendNew port vc t s) := by
  unfold sendNew
  dsimp only
  split
  · exact hs
  next _ _ e2 => exact sendSequenced_keeps (setLink_keeps ({ streams := (((takeFrom_keeps hs e2)).linkAt).streams }) ((takeFrom_keeps hs e2)))
theorem sendAgain_keeps {port : ℕ} {t : ℕ} (hs : Keeps r s) : Keeps r (sendAgain port t s) := by
  unfold sendAgain
  dsimp only
  split
  · exact hs
  · split
    · exact setLink_keeps ({ streams := hs.linkAt.streams }) hs
    · exact sendSequenced_keeps (setLink_keeps ({ streams := hs.linkAt.streams }) hs)
theorem sendHeartbeat_keeps {port : ℕ} {t : ℕ} (hs : Keeps r s) : Keeps r (sendHeartbeat port t s) := sendFrame_keeps hs
theorem sendNull_keeps {port : ℕ} {t : ℕ} (hs : Keeps r s) : Keeps r (sendNull port t s) := sendFrame_keeps hs
theorem transmitApply_keeps {port : ℕ} {cyc : ℕ} (hs : Keeps r s) : Keeps r (transmitApply port cyc s) := by
  unfold transmitApply
  dsimp only
  refine .ite hs ?_
  refine .ite (sendAgain_keeps hs) ?_
  refine .ite (sendNew_keeps hs) ?_
  split
  · exact sendNew_keeps (modLink_keeps (fun _ hk2 => { streams := hk2.streams }) hs)
  · exact .ite (sendHeartbeat_keeps hs) (.ite (sendNull_keeps hs) hs)
theorem heartbeatApply_keeps {port : ℕ} {cyc : ℕ} (hs : Keeps r s) : Keeps r (heartbeatApply port cyc s) := .ite (sendHeartbeat_keeps hs) hs
theorem nullApply_keeps {port : ℕ} {cyc : ℕ} (hs : Keeps r s) : Keeps r (nullApply port cyc s) := .ite (sendNull_keeps hs) hs
theorem fenceGroups_keeps {port : ℕ} (hs : Keeps r s) : Keeps r (fenceGroups port s) :=
  Keeps.foldl hs fun _ _ hs1 => .ite (irq_keeps (setGroup_keeps hs1)) hs1
theorem strikeLegs_keeps {code : BitVec 8} (hs : Keeps r s) : Keeps r (strikeLegs code s) :=
  Keeps.foldl hs fun _ _ hs1 => withOp_keeps (fun _ _ _ hs4 => .ite (ledgerFatalNow_keeps hs4) (opFail_keeps hs4)) hs1
theorem dropRelays_keeps {port : ℕ} (hs : Keeps r s) : Keeps r (dropRelays port s) := by
  unfold dropRelays
  dsimp only
  refine Keeps.foldl ?_ fun _ _ hs1 => ?_
  · refine Keeps.foldl hs fun _ _ hs3 => ?_
    refine Keeps.foldl hs3 fun _ _ hs5 => ?_
    split
    · exact .ite (putRelay_keeps (feedStep_keeps hs5)) hs5
    · exact hs5
  · split
    · exact .ite hs1 (forwardDrop_keeps hs1)
    · exact hs1
theorem times_keeps {n : Nat} {f : State → State} (hf : ∀ s, Keeps r s → Keeps r (f s)) (hs : Keeps r s) : Keeps r (times n f s) :=
  hs.foldl fun s _ h => hf s h
theorem remoteBad_keeps (hs : Keeps r s) : Keeps r (remoteBad s) := irq_keeps (count_keeps hs)
theorem dropSignals_keeps {port : ℕ} (hs : Keeps r s) : Keeps r (dropSignals port s) :=
  times_keeps (fun _ hs1 => remoteBad_keeps hs1) (times_keeps (fun _ hs2 => sigRefused_keeps hs2) hs)
theorem linkCleared_ok {code : BitVec 8} {l : Link} : LinkOk r (linkCleared code l) := { streams := linkDown_ok.streams }
theorem goDown_keeps {port : ℕ} {code : BitVec 8} (hs : Keeps r s) : Keeps r (goDown port code s) :=
  changeLink_keeps (fun _ _ => linkCleared_ok) (calLinkDown_keeps (dropSignals_keeps (dropRelays_keeps (strikeLegs_keeps (closeSourceChain_keeps
      (logFault_keeps (fenceGroups_keeps hs)))))))
theorem linkLostApply_keeps {port : ℕ} {lockFell : Bool} {cyc : ℕ} (hs : Keeps r s) : Keeps r (linkLostApply port lockFell cyc s) :=
  .ite (goDown_keeps (.ite (modLink_keeps (fun _ hk1 => { streams := hk1.streams }) hs) hs)) hs
theorem linkDownApply_keeps {port : ℕ} {code : BitVec 8} (hs : Keeps r s) : Keeps r (linkDownApply port code s) := .ite (goDown_keeps hs) hs
theorem ringSoftReset_keeps {port : ℕ} (hs : Keeps r s) : Keeps r (ringSoftReset port s) :=
  linkDies_keeps (changeLink_keeps (fun _ hk1 => { streams := hk1.streams }) hs)
theorem trainStart_keeps {port : Nat} (hs : Keeps r s) : Keeps r (trainStart port s) := changeLink_keeps (fun _ _ => ⟨fun _ => rfl⟩) hs
theorem retrainApply_keeps {port : ℕ} (hs : Keeps r s) : Keeps r (retrainApply port s) := .ite (trainStart_keeps hs) hs
theorem linkUp_keeps {port : ℕ} {t : ℕ} (hs : Keeps r s) : Keeps r (linkUp port t s) := changeLink_keeps (fun _ hk1 => { streams := hk1.streams }) hs
theorem trainDone_keeps {port : ℕ} {t : ℕ} (hs : Keeps r s) : Keeps r (trainDone port t s) := .ite (linkUp_keeps hs) hs
theorem linkTrainingApply_keeps {port : ℕ} {locked : Bool} {phyStat : Word} {cyc : ℕ} (hs : Keeps r s) : Keeps r (linkTrainingApply port locked
    phyStat cyc s) :=
  .ite hs (.unless (setReg_keeps hs) fun h1 => .when (changeLink_keeps (fun _ hk3 => { streams := hk3.streams }) h1) fun h2 => trainDone_keeps
      (frameOut_keeps (modLink_keeps (fun _ hk4 => { streams := hk4.streams }) h2)))
theorem trainFlitApply_keeps {port : ℕ} {i : TrainInfo} {cyc : ℕ} (hs : Keeps r s) : Keeps r (trainFlitApply port i cyc s) :=
  .ite hs (.ite (noticeNext_keeps hs) (trainDone_keeps (setLink_keeps ({ streams := hs.linkAt.streams }) hs)))
theorem ringCreditApply_keeps {port : ℕ} {off : ℕ} {v : Word} (hs : Keeps r s) : Keeps r (ringCreditApply port off v s) :=
  .ite (.ite (logFault_keeps hs) (setReg_keeps hs)) (.ite (setReg_keeps hs) (setReg_keeps hs))
end

/-! ### What the functions of `Machine/Queues` keep -/

section
variable {r s : State}

theorem queueRefuse_keeps (hs : Keeps r s) : Keeps r (queueRefuse s) := notice_keeps hs
theorem unpinAll_keeps {q : ℕ} (hs : Keeps r s) : Keeps r (unpinAll q s) := { hs with }
theorem dropFetched_keeps {q : ℕ} (hs : Keeps r s) : Keeps r (dropFetched q s) :=
  setQueue_keeps ({ cfg := ((memForget_keeps hs).queueAt).cfg }) (memForget_keeps hs)
theorem standingBell_keeps {q : ℕ} {n : ℕ} (hs : Keeps r s) : Keeps r (standingBell q n s) :=
  .ite (unpinAll_keeps (setQueue_keeps ({ cfg := ((dropFetched_keeps hs).queueAt).cfg }) (dropFetched_keeps hs))) (.ite (queueRefuse_keeps hs)
      (setQueue_keeps ({ cfg := hs.queueAt.cfg }) hs))
theorem doorbellWrite_keeps {q : ℕ} {w : Word} (hs : Keeps r s) : Keeps r (doorbellWrite q w s) :=
  .unless (queueRefuse_keeps hs) fun h1 => .ite (standingBell_keeps hs) (.ite h1 (setQueue_keeps ({ cfg := hs.queueAt.cfg }) hs))
theorem fetchApply_keeps {q : Nat} (hs : Keeps r s) : Keeps r (fetchApply q s) := by
  refine .ite hs ?_
  have h : Keeps r (setQueue q { queueAt q s with nextFetch := ((queueAt q s).nextFetch + 1) % queueSize (queueAt q s) } s) := setQueue_keeps
      ⟨hs.queueAt.cfg⟩ hs
  refine .ite h ?_
  cases e : memIssue false true (fetchAddr (queueAt q s)) 2 hSTREAM (.descFetch q (queueAt q s).nextFetch 1) []
    (setQueue q { queueAt q s with nextFetch := ((queueAt q s).nextFetch + 1) % queueSize (queueAt q s) } s) with
  | none => exact hs
  | some s' => exact memIssue_keeps h e
theorem pinSlot_keeps {q : Nat} {f : Fetched} {code : Nat} (hs : Keeps r s) : Keeps r (pinSlot q f code s) := by
  have h : ∀ n l, Keeps r (setQueue q { queueAt q s with nextStart := n, fetched := l } s) := fun _ _ => setQueue_keeps ⟨hs.queueAt.cfg⟩ hs
  exact .ite { h _ _ with } (h _ _)
theorem decodeApply_keeps {q : ℕ} {slot : ℕ} (hs : Keeps r s) : Keeps r (decodeApply q slot s) := by
  unfold decodeApply
  dsimp only
  refine .ite hs ?_
  split
  · exact hs
  · exact .ite (.ite (pinSlot_keeps hs) hs) (setQueue_keeps ({ cfg := hs.queueAt.cfg }) hs)
theorem trigTake_keeps {d : List Word} {members : List ℕ} {take : Bool} (hs : Keeps r s) : Keeps r (trigTake d members take s) :=
  .ite (Keeps.foldl hs fun _ _ hs1 => addTally_keeps hs1) hs
theorem newOp_ok {q : ℕ} {slot : ℕ} {run : ℕ} {d : List Word} {gated : Bool} : OpOk r (newOp q slot run d gated s) :=
  { prog := fun _ => rfl, beats := fun _ => rfl, summed := fun _ => rfl, passed := fun _ => rfl, limbs := fun _ => rfl, fresh := fun _ => rfl, folded := fun _ => rfl, blocks0 := fun _ => rfl, leg := nofun }
theorem setGated_keeps {b : Bool} (hs : Keeps r s) : Keeps r (setGated b s) := .unless ({ hs with }) fun h1 => irq_keeps h1
theorem attachLeg_keeps {id : OpId} (hs : Keeps r s) : Keeps r (attachLeg id s) :=
  withOp_keeps (fun _ _ ho1 hs2 => .ite hs2 (.unless (setGroup_keeps hs2) fun h3 => .when (.when (setOp_keeps
      ({ ho1 with leg := leg_some ({ got := fun _ => rfl, region := fun _ => rfl, stats := fun _ => rfl, images := fun _ => rfl, beatsOut := fun _ => rfl }) })
      h3) fun h5 => verdictStart_keeps h5) fun h4 => sizesIssue_keeps h4)) hs
theorem append_ops_keeps {o : Op} (ho : OpOk r o) (hs : Keeps r s) : Keeps r { s with ops := s.ops ++ [o] } :=
  { hs with ops := fun x hx => (List.mem_append.1 hx).elim (hs.ops x) fun hx => List.mem_singleton.1 hx ▸ ho }
theorem startOp_keeps {q slot run : Nat} {d : List Word} {gated : Bool} (hs : Keeps r s) : Keeps r (startOp q slot run d gated s) :=
  have h : Keeps r (noteGate (newOp q slot run d gated s).id 0 (perf pcStarted 1 (setGated false
      { s with ops := s.ops ++ [newOp q slot run d gated s] }))) :=
    noteGate_keeps (perf_keeps (setGated_keeps (append_ops_keeps newOp_ok hs)))
  .ite (attachLeg_keeps h) (opFail_keeps (modOp_keeps (fun _ ho => { ho with }) h))
theorem failOp_keeps {q slot : Nat} {d : List Word} {code : Nat} (hs : Keeps r s) : Keeps r (failOp q slot d code s) :=
  opFail_keeps (append_ops_keeps { (newOp_ok : OpOk r (newOp q slot 0 d false s)) with } hs)
theorem passSlot_keeps {q : ℕ} {slot : ℕ} (hs : Keeps r s) : Keeps r (passSlot q slot s) := setQueue_keeps ({ cfg := hs.queueAt.cfg }) hs
theorem startApply_keeps {only : ℕ → Bool} {q : ℕ} (hs : Keeps r s) : Keeps r (startApply only q s) := by
  unfold startApply
  dsimp only
  refine .ite hs ?_
  split
  · exact hs
  · exact .ite hs (.ite (failOp_keeps (.ite (setQueue_keeps ({ cfg := hs.queueAt.cfg }) hs) (passSlot_keeps hs))) (.ite hs (startOp_keeps
        (passSlot_keeps (trigTake_keeps hs)))))
theorem standingRunApply_keeps {q : ℕ} {slot : ℕ} (hs : Keeps r s) : Keeps r (standingRunApply q slot s) := by
  unfold standingRunApply
  dsimp only
  refine .ite hs ?_
  split
  · exact hs
  · exact .ite hs (startOp_keeps (setQueue_keeps ({ cfg := hs.queueAt.cfg }) (.next (trigTake_keeps hs) fun h3 => { h3 with })))
theorem queueEnableNow_keeps {q : Nat} {c : Word} (hc : c &&& 0x00FF1F7F#32 = c) (hs : Keeps r s) : Keeps r (queueEnableNow q c s) :=
  setQueue_keeps ⟨fun _ => hc⟩ hs
theorem queueDisableNow_keeps {q : Nat} (hs : Keeps r s) : Keeps r (queueDisableNow q s) :=
  have h := unpinAll_keeps (q := q) (dropFetched_keeps (q := q) hs)
  setQueue_keeps ⟨fun w => by
    have hq := h.queueAt (q := q) |>.cfg w
    rw [BitVec.and_assoc, BitVec.and_comm (~~~1#32), ← BitVec.and_assoc, hq]⟩ h
theorem queuesEdge_keeps (hs : Keeps r s) : Keeps r (queuesEdge s) :=
  Keeps.foldl hs fun _ _ hs1 => .ite (setQueue_keeps ({ cfg := hs1.queueAt.cfg }) hs1) hs1
theorem queueCfgWrite_keeps {q : Nat} {w : Word} (hs : Keeps r s) : Keeps r (queueCfgWrite q w s) :=
  have hc : (w &&& 0x00FF1F7F#32) &&& 0x00FF1F7F#32 = w &&& 0x00FF1F7F#32 := by rw [BitVec.and_assoc, BitVec.and_self]
  .ite (.ite (queueRefuse_keeps hs) (.ite hs (queueDisableNow_keeps hs)))
    (.ite (queueRefuse_keeps hs) (.ite (.ite (queueRefuse_keeps hs) (queueEnableNow_keeps hc hs)) (setQueue_keeps ⟨fun _ => hc⟩ hs)))
theorem queueRegWrite_keeps {q : ℕ} {off : ℕ} {w : Word} (hs : Keeps r s) : Keeps r (queueRegWrite q off w s) :=
  .ite (queueCfgWrite_keeps hs) (.ite (queueRefuse_keeps hs) (.ite (setQueue_keeps ({ cfg := hs.queueAt.cfg }) hs) (.ite (setQueue_keeps
      ({ cfg := hs.queueAt.cfg }) hs) (.ite (setQueue_keeps ({ cfg := hs.queueAt.cfg }) hs) (.ite (setQueue_keeps ({ cfg := hs.queueAt.cfg }) hs)
      (.ite (setQueue_keeps ({ cfg := hs.queueAt.cfg }) hs) hs))))))
theorem queueResumeNow_keeps {q : ℕ} (hs : Keeps r s) : Keeps r (queueResumeNow q s) :=
  .ite (issueRecords_keeps (setQueue_keeps ({ cfg := hs.queueAt.cfg }) hs)) hs
theorem maskDataApply_keeps {copy : ℕ} {v : Word} (hs : Keeps r s) : Keeps r (maskDataApply copy v s) :=
  .ite hs ({ hs with tabs := { hs.tabs with masks := fun w => tset_wf _ _ _ (hs.tabs.masks w) } })
end

/-! ### What the functions of `Machine/Save` keep -/

section
variable {r s : State}

theorem foldedLedger_ok {o : Op} {n : ℕ} {v : Ledger} (hl : LedgerOk r v) : LedgerOk r (foldedLedger o n v) :=
  ite_ok hl (foldl_inv hl fun _ _ hl1 => { acc := fun w => tset_wf _ _ _ (hl1.acc w), blocks := hl1.blocks, pages := hl1.pages })
theorem setSave_keeps {id : OpId} {f : SaveSt → SaveSt} (hs : Keeps r s) : Keeps r (setSave id f s) := modOp_keeps (fun _ ho1 => { ho1 with }) hs
theorem saveBuild_keeps {o : Op} (hs : Keeps r s) : Keeps r (saveBuild o s) := setSave_keeps (Keeps.foldl hs fun _ _ hs1 => raisePlane_keeps hs1)
theorem saveFold_keeps {o : Op} (hs : Keeps r s) : Keeps r (saveFold o s) := Keeps.foldl hs fun _ _ hs1 => .ite hs1 (memTry_keeps hs1)
theorem saveWrites_keeps {f : Nat} {id : OpId} (hs : Keeps r s) : Keeps r (saveWrites f id s) := by
  induction f generalizing s with
  | zero => exact hs
  | succ f ih =>
    unfold saveWrites
    split
    · exact hs
    split
    · exact hs
    refine .ite hs ?_
    dsimp only
    split
    · exact hs
    · next e => exact ih (setSave_keeps (memIssue_keeps hs e))
theorem saveHeader_keeps {o : Op} {v : SaveSt} (hs : Keeps r s) : Keeps r (saveHeader o v s) := by
  unfold saveHeader
  dsimp only
  split
  · exact hs
  next _ e2 => exact setSave_keeps ((memIssue_keeps hs e2))
theorem saveStep_keeps {id : OpId} {cyc : ℕ} (hs : Keeps r s) : Keeps r (saveStep id cyc s) := by
  unfold saveStep
  refine withRunning_keeps (fun _ _ _ hs2 => ?_) hs
  split
  · exact hs2
  · exact .ite hs2 (.ite (.ite hs2 (.ite (findDue_keeps hs2) (.ite (saveFold_keeps hs2) (saveWrites_keeps (saveBuild_keeps hs2))))) (.ite
        (saveWrites_keeps hs2) (.ite hs2 (.ite (saveHeader_keeps hs2) (modOp_keeps (fun _ ho5 => { ho5 with }) hs2)))))
theorem repairNow_keeps (hs : Keeps r s) : Keeps r (repairNow s) := .ite hs (findDue_keeps (setReg_keeps hs))
theorem saveDone_keeps (hs : Keeps r s) : Keeps r (saveDone s) :=
  repairNow_keeps (clearBells_keeps (clearTallies_keeps (Keeps.foldl hs fun _ _ hs1 => freeLedger_keeps hs1)))
theorem restoreReads_keeps {f : Nat} {id : OpId} {total : Nat} (hs : Keeps r s) : Keeps r (restoreReads f id total s) := by
  induction f generalizing s with
  | zero => exact hs
  | succ f ih =>
    unfold restoreReads
    split
    · exact hs
    split
    · exact hs
    refine .ite hs ?_
    dsimp only
    split
    · exact hs
    · next e => exact ih (setSave_keeps (memIssue_keeps hs e))
theorem readTable_wf {k : Nat → Word64} {l : List Nat} {t : Table Word64} (ht : tableWf 0#64 t = true) : tableWf 0#64 (l.foldl (fun t e => tset 0#64 e
    (k e) t) t) = true :=
  foldl_inv (P := fun t => tableWf 0#64 t = true) ht fun _ _ ht => tset_wf _ _ _ ht

theorem entryValues_ok {area : List Byte} {at' : Nat} {v : Ledger} (hl : LedgerOk r v) : LedgerOk r (entryValues area at' v) :=
  ite_ok hl ⟨fun _ => readTable_wf rfl, fun _ => readTable_wf rfl, hl.pages⟩
theorem restoreWrites_keeps {id : OpId} (hs : Keeps r s) : Keeps r (restoreWrites id s) :=
  withRunning_keeps (fun _ _ _ hs2 => Keeps.foldl hs2 fun _ _ hs3 => .ite hs3 (memTry_keeps hs3)) hs
theorem setPages_ok {α : Type} {a b : α → Nat} {c : α → PageSt} {ps : List α} {l : Ledger} (hl : LedgerOk r l) : LedgerOk r (ps.foldl (fun l g =>
    setPageSt (a g) (b g) (c g) l) l) :=
  foldl_inv (P := LedgerOk r) hl fun _ _ hl => setPageSt_ok hl

/-- The state, the holder and the wait list of a ledger hold no table. -/
theorem LedgerOk.held {l : Ledger} {n : Nat} {id : Option OpId} {w : List OpId} (hl : LedgerOk r l) : LedgerOk r
    { l with state := n, holder := id, waiting := w } :=
  { hl with }

theorem restoreLedger_ok {area : List Byte} {x : Nat × Nat × Ledger} {y z : Op × State} (hv : LedgerOk r x.2.2) (hy : PairOk r y) (e : restoreLedger area x y = some z) : PairOk r z := by
  obtain ⟨o, s⟩ := y
  obtain ⟨at', n, v⟩ := x
  have ho : OpOk r o := hy.op
  have hs : Keeps r s := hy.state
  unfold restoreLedger at e
  dsimp only at e
  split at e
  · cases e
    exact ⟨ho, setLedger_keeps { hv with } hs⟩
  · obtain ⟨w, hw, e⟩ := Option.map_eq_some_iff.1 e
    cases e
    have hw : PairOk r w := foldl_bind_inv (fun _ _ _ _ hb => takePool_ok hb) (fun b hb => by cases hb; exact ⟨{ ho with }, hs⟩) hw
    have hl : LedgerOk r (openPages (entryValues area at' v) (setOp o s)) := openPages_ok (entryValues_ok hv)
    refine ⟨hw.op, setOp_keeps hw.op (setLedger_keeps ?_ hw.state)⟩
    exact (setPages_ok hl).held

/-- A record of a save area names no table: those of its ledger are read after it. -/
theorem recordAt_ok {area : List Byte} {at' : Nat} : LedgerOk r (recordAt area at').2 := { (ledgerFree_ok : LedgerOk r Ledger.free) with }

theorem areaEntries_ok {area : List Byte} {n at' : Nat} : ∀ x ∈ areaEntries area n at', LedgerOk r x.2.2 := by
  induction n generalizing at' with
  | zero => exact fun _ h => absurd h List.not_mem_nil
  | succ n ih =>
    intro x hx
    rcases List.mem_cons.1 hx with rfl | hx
    · exact recordAt_ok
    · exact ih x hx

theorem restoreEntries_ok {v : SaveSt} : ∀ x ∈ restoreEntries v, LedgerOk r x.2.2 := areaEntries_ok

theorem restoreClaim_keeps {o : Op} {v : SaveSt} (ho : OpOk r o) (hs : Keeps r s) : Keeps r (restoreClaim o v s) := by
  unfold restoreClaim
  refine .ite (findDue_keeps hs) (.ite (pageWaitBegin_keeps hs) ?_)
  split
  · exact pageWaitBegin_keeps hs
  · next e =>
    have hx : PairOk r _ := foldl_bind_inv (P := PairOk r) (fun x hx _ _ hb => restoreLedger_ok (restoreEntries_ok x hx) hb) (fun b hb => by cases hb; exact ⟨ho, hs⟩) e
    exact restoreWrites_keeps (pageWaitEnd_keeps (setOp_keeps { hx.op with } hx.state))
theorem restoreStep_keeps {id : OpId} {cyc : ℕ} (hs : Keeps r s) : Keeps r (restoreStep id cyc s) := by
  unfold restoreStep
  dsimp only
  refine withRunning_keeps (fun _ _ ho1 hs2 => ?_) hs
  split
  · exact hs2
  · exact .ite hs2 (.ite (.ite (restoreWrites_keeps hs2) (modOp_keeps (fun _ ho5 => { ho5 with }) hs2)) (.ite (restoreReads_keeps hs2) (.ite hs2 (.ite
        (restoreReads_keeps (setSave_keeps hs2)) (restoreClaim_keeps ho1 hs2)))))
theorem restoreDone_keeps {o : Op} (hs : Keeps r s) : Keeps r (restoreDone o s) := by
  unfold restoreDone
  dsimp only
  split
  · exact hs
  · exact modOp_keeps (fun _ ho3 => { ho3 with }) (Keeps.foldl hs fun _ _ hs4 => .when (setLedger_keeps
        ({ acc := fun w => ite_wf (filter_wf _ (hs4.ledgerAt.acc w)) (hs4.ledgerAt.acc w), blocks := hs4.ledgerAt.blocks, pages := hs4.ledgerAt.pages })
        hs4) fun h6 => irq_keeps h6)
end

/-! ### What the functions of `Machine/Seal` keep -/

section
variable {r s : State}

theorem completionTally_keeps {o : Op} (hs : Keeps r s) : Keeps r (completionTally o s) := .ite hs (Keeps.foldl hs fun _ _ hs1 => addTally_keeps hs1)
theorem recordOut_keeps {o : Op} {b : List Byte} (hs : Keeps r s) : Keeps r (recordOut o b s) :=
  issueRecords_keeps (setQueue_keeps ({ cfg := hs.queueAt.cfg }) hs)
theorem endOp_keeps {o : Op} (hs : Keeps r s) : Keeps r (endOp o s) := .next (removeOp_keeps hs) fun h1 => { h1 with }
theorem addPartials_ok {o : Op} {l : Ledger} (hl : LedgerOk r l) : LedgerOk r (addPartials o l) :=
  foldl_inv hl fun _ _ hl1 => ite_ok hl1 (setPageSt_ok hl1)
theorem addSealed_keeps {o : Op} (hs : Keeps r s) : Keeps r (addSealed o s) := by
  refine endChain_keeps (modOp_keeps (fun _ ho => { ho with }) (setLedger_keeps ?_ hs))
  have h0 := hs.ledgerAt (l := dLedger o.d)
  have hl : ∀ t, (r.innerWf = true → tableWf 0#64 t = true) → LedgerOk r (addPartials o { ledgerAt (dLedger o.d) s with acc := t }) := fun _ ht =>
    addPartials_ok { h0 with acc := ht }
  refine { hl _ fun hi => foldl_inv (P := fun t => tableWf 0#64 t = true) (h0.acc hi) fun t x ht => ?_ with }
  split
  · exact ht
  · exact ite_ok (P := fun t => tableWf 0#64 t = true) ht (tset_wf _ _ _ ht)
theorem ledgerSealed_keeps {o : Op} (hs : Keeps r s) : Keeps r (ledgerSealed o s) :=
  .ite (addSealed_keeps hs) (.ite hs (releaseBias_keeps (freeLedger_keeps hs)))
theorem releaseRest_keeps {o : Op} (hs : Keeps r s) : Keeps r (releaseRest o s) :=
  .ite hs (Keeps.foldl hs fun _ _ hs1 => Keeps.foldl hs1 fun _ _ hs3 => .ite (addTally_keeps hs3) ({ hs3 with }))
theorem assaySealed_keeps {o : Op} (hs : Keeps r s) : Keeps r (assaySealed o s) := by
  unfold assaySealed
  dsimp only
  refine .unless ?_ fun h1 => ctlUpdate_keeps h1
  split
  · exact hs
  · exact .ite (almanacSeal_keeps hs) hs
theorem saveSealed_keeps {o : Op} (hs : Keeps r s) : Keeps r (saveSealed o s) := .ite (saveDone_keeps hs) (.ite (restoreDone_keeps hs) hs)
theorem noteSealed_keeps {o : Op} (hs : Keeps r s) : Keeps r (noteSealed o s) :=
  .ite ({ hs with log := { hs.log with sealedAt := fun w => tset_wf _ _ _ (hs.log.sealedAt w) } }) hs
theorem forgetVerdict_keeps {o : Op} (hs : Keeps r s) : Keeps r (forgetVerdict o s) := by
  unfold forgetVerdict
  split
  · exact hs
  · exact setVerdict_keeps hs
theorem sealApply_keeps {id : OpId} (hs : Keeps r s) : Keeps r (sealApply id s) :=
  withRunning_keeps (fun _ _ _ hs2 => .ite hs2 (endOp_keeps (recordOut_keeps (perf_keeps (noteSealed_keeps (forgetVerdict_keeps (completionTally_keeps
      (releaseRest_keeps (dropPages_keeps (saveSealed_keeps (assaySealed_keeps (ledgerSealed_keeps hs2)))))))))))) hs
theorem failHalts_keeps {o : Op} {code : BitVec 8} (hs : Keeps r s) : Keeps r (failHalts o code s) := .ite (queueHalt_keeps hs) hs
theorem descriptorFailApply_keeps {id : OpId} (hs : Keeps r s) : Keeps r (descriptorFailApply id s) := by
  unfold descriptorFailApply
  refine withOp_keeps (fun _ _ _ hs2 => ?_) hs
  split
  · exact hs2
  · exact .ite hs2 (endOp_keeps (failHalts_keeps (recordOut_keeps (completionTally_keeps (perf_keeps hs2)))))
end

/-! ### What the functions of `Machine/Faults` keep -/

section
variable {r s : State}

theorem linkInReset_ok {l : Link} : LinkOk r (linkInReset l) := linkCleared_ok
theorem Keeps.wiped {c : Clock} (h : Keeps r s) : Keeps r
    { s with clock := c, ops := [], late := [], pageWait := [], ledgers := [], verdicts := [], mem := [], memLate := [], injected := none, tabs := { s.tabs with tallies := [] } }
    :=
  { h with ops := fun _ h => absurd h List.not_mem_nil, ledgers := fun _ => rfl, ledgersIn := fun _ h => absurd h List.not_mem_nil, verdicts := fun _ => rfl, tabs := { h.tabs with tallies := fun _ => rfl } }

theorem serviceLost_keeps (hs : Keeps r s) : Keeps r (serviceLost s) := by
  have h1 : Keeps r (s.links.foldl (fun s p => changeLink p.1 linkInReset s) s) := hs.foldl fun _ _ h => changeLink_keeps (fun _ _ => linkInReset_ok)
      h
  have h := (((h1.lineSweep (f := fun _ p => { Line.idle with cfg := p.2.cfg })).stallSweep
    (f := fun p => { p.2 with bellIn := 0#16, bellLow := 0#16, pend := none, dropTags := [] })).planeSweep
    (f := fun p => { p.2 with pool := [], dnNext := 0, recalls := [], lastDn := none, exchNext := 0, nextChild := [] }) fun _ => rfl).queueSweep
    (f := fun q => { q.2 with fetched := [], records := [], badRecords := [] }) fun _ => rfl
  exact h.wiped
theorem fatalEdge_keeps (hs : Keeps r s) : Keeps r (fatalEdge s) := .ite (serviceLost_keeps hs) hs
theorem noteFatal_keeps {code : ℕ} (hs : Keeps r s) : Keeps r (noteFatal code s) := .ite hs (setReg64_keeps (setReg_keeps hs))
theorem fabricFatalNow_keeps {code : ℕ} {src : BitVec 16} (hs : Keeps r s) : Keeps r (fabricFatalNow code src s) :=
  .ite hs (.next (irq_keeps (noteFatal_keeps (logFault_keeps hs))) fun h1 => { h1 with })
theorem sramFault_keeps {code : BitVec 8} {src : BitVec 16} {place : FaultPlace} (hs : Keeps r s) : Keeps r (sramFault code src place s) := by
  unfold sramFault
  split
  · exact containedHit_keeps hs
  · exact containedHit_keeps hs
  · exact containedHitOn_keeps hs
  · exact .ite (countEcc_keeps (ledgerFatalLog_keeps hs)) hs
  · exact hs
theorem repairFail_keeps {src : BitVec 16} (hs : Keeps r s) : Keeps r (repairFail src s) := .ite (notice_keeps ({ hs with })) hs
theorem faultDetectApply_keeps {code : BitVec 8} {src : BitVec 16} {place : FaultPlace} (hs : Keeps r s) : Keeps r (faultDetectApply code src place s)
    :=
  .ite hs (.ite (countEcc_keeps (logFault_keeps hs)) (.ite (sramFault_keeps hs) (.ite (repairFail_keeps hs) (.ite (fabricFatalNow_keeps
      (countEcc_keeps hs)) hs))))
theorem containedReplayApply_keeps {id : OpId} {code : BitVec 8} {src : BitVec 16} (hs : Keeps r s) : Keeps r (containedReplayApply id code src s) :=
  withOp_keeps (fun _ _ _ hs2 => .ite hs2 (replayNow_keeps (.ite hs2 (containedHit_keeps hs2)))) hs
theorem ledgerFatalApply_keeps {l : BitVec 12} {code : BitVec 8} {src : BitVec 16} (hs : Keeps r s) : Keeps r (ledgerFatalApply l code src s) :=
  .ite (ledgerFatalLog_keeps (.ite (countEcc_keeps hs) hs)) hs
theorem fabricFatalApply_keeps {code : BitVec 8} {src : BitVec 16} (hs : Keeps r s) : Keeps r (fabricFatalApply code src s) :=
  .ite (fabricFatalNow_keeps (.ite (countEcc_keeps hs) hs)) hs
theorem watchdogApply_keeps {id : OpId} (hs : Keeps r s) : Keeps r (watchdogApply id s) :=
  withOp_keeps (fun _ _ _ hs2 => .ite (opFatal_keeps hs2) hs2) hs
theorem saveMismatch_keeps {id : OpId} {src : BitVec 16} (hs : Keeps r s) : Keeps r (saveMismatch id src s) := by
  refine withOp_keeps (fun o s ho h => .ite (afterFailure_keeps (countMismatch_keeps h)) (.ite h (.ite (opFail_keeps (logFault_keeps (struckNow_keeps
      h))) ?_))) hs
  refine modOp_keeps (fun _ ho => { ho with }) ?_
  split
  · exact logChained_keeps (countMismatch_keeps h)
  · exact logFault_keeps (countMismatch_keeps h)
theorem saveAgain_keeps {id : OpId} (hs : Keeps r s) : Keeps r (saveAgain id s) :=
  withOp_keeps (fun _ _ ho1 hs2 => perf_keeps (setOp_keeps ({ ho1 with }) (memForget_keeps hs2))) hs
theorem withholdWrite_keeps {id : OpId} {req : BitVec 8} (hs : Keeps r s) : Keeps r (withholdWrite id req s) := by
  unfold withholdWrite
  dsimp only
  split
  · exact hs
  · next q _ =>
    have h : Keeps r (removeReq q s) := removeReq_keeps hs
    exact { h with }
theorem withholdFlit_keeps {id : OpId} {port : Nat} (hs : Keeps r s) : Keeps r (withholdFlit id port s) := by
  refine withOp_keeps (fun o s ho h => ?_) hs
  dsimp only
  split
  · exact h
  · next g t e =>
    obtain ⟨g', hg, e⟩ := Option.bind_eq_some_iff.1 e
    obtain ⟨t', -, e⟩ := Option.map_eq_some_iff.1 e
    cases e
    exact setOp_keeps { ho with leg := leg_some (putTx_ok (ho.leg _ hg)) } (setLink_keeps ⟨h.linkAt.streams⟩ h)
theorem withhold_keeps {point : BinoPoint} (hs : Keeps r s) : Keeps r (withhold point s) := by
  unfold withhold
  split
  · exact hs
  · exact withholdFlit_keeps hs
  · exact withholdWrite_keeps hs
theorem markComparing_keeps {id : OpId} (hs : Keeps r s) :
    Keeps r (withOp id (fun o s => if o.replay.isSome && o.fail.isNone then setOp { o with comparing := true, progress := true } s else s) s) :=
  withOp_keeps (fun _ _ ho h => .ite (setOp_keeps { ho with } h) h) hs

theorem binoMismatchOn_keeps {point : BinoPoint} (hs : Keeps r s) : Keeps r (binoMismatchOn point s) := by
  unfold binoMismatchOn
  exact withOp_keeps (fun _ _ _ h => .ite h (.ite (saveMismatch_keeps (withhold_keeps h)) (markComparing_keeps (containedHit_keeps (withhold_keeps
      h))))) hs
theorem injectFault_keeps {op : Option OpId} (hs : Keeps r s) : Keeps r (injectFault op s) := by
  unfold injectFault
  dsimp only
  split
  · exact fireInjection_keeps (countEcc_keeps (logFault_keeps hs))
  · exact fireInjection_keeps (sramFault_keeps hs)
  · exact fireInjection_keeps (binoMismatchOn_keeps hs)
  · exact { hs with }
  · exact { hs with }
  · exact hs
theorem injectFireApply_keeps {op : Option OpId} (hs : Keeps r s) : Keeps r (injectFireApply op s) := .ite hs (injectFault_keeps hs)
end

/-! ### What the functions of `Machine/Binocular` keep -/

section
variable {r s : State}

theorem binoMismatchApply_keeps {point : BinoPoint} (hs : Keeps r s) : Keeps r (binoMismatchApply point s) := .ite (binoMismatchOn_keeps hs) hs
theorem binoStateApply_keeps {id : OpId} {differ : Bool} (hs : Keeps r s) : Keeps r (binoStateApply id differ s) :=
  withOp_keeps (fun _ _ ho1 hs2 => .ite hs2 (.ite (opFatal_keeps (setOp_keeps ({ ho1 with }) hs2)) (.ite (saveAgain_keeps (setOp_keeps ({ ho1 with })
      hs2)) (replayNow_keeps (setOp_keeps ({ ho1 with }) hs2))))) hs
theorem lateMismatchApply_keeps {ledger : Option (BitVec 12)} (hs : Keeps r s) : Keeps r (lateMismatchApply ledger s) :=
  .ite hs (count_keeps (logFault_keeps hs))
theorem sideLost_keeps {sideB : Bool} (hs : Keeps r s) : Keeps r (sideLost sideB s) := .when (logFault_keeps hs) fun h1 => moveService_keeps h1
theorem sideFaultApply_keeps {sideB : Bool} {code : BitVec 8} (hs : Keeps r s) : Keeps r (sideFaultApply sideB code s) :=
  .ite hs (.ite (fabricFatalNow_keeps (countEcc_keeps hs)) (.ite (fabricFatalNow_keeps (setReg_keeps (countEcc_keeps hs))) (sideLost_keeps
      (setReg_keeps (countEcc_keeps hs)))))
theorem takeoverApply_keeps (hs : Keeps r s) : Keeps r (takeoverApply s) := .ite (findDue_keeps hs) hs
theorem repairApply_keeps (hs : Keeps r s) : Keeps r (repairApply s) := .ite (orReg_keeps hs) hs
theorem repairWithdrawApply_keeps (hs : Keeps r s) : Keeps r (repairWithdrawApply s) := .ite (setReg_keeps hs) hs
end

/-! ### What the functions of `Machine/Steward` keep -/

section
variable {r s : State}

theorem stewardStart_keeps (hs : Keeps r s) : Keeps r (stewardStart s) := setStewardState_keeps ({ hs with })
theorem kickNow_keeps (hs : Keeps r s) : Keeps r (kickNow s) := { hs with }
theorem stewardWatchdogApply_keeps (hs : Keeps r s) : Keeps r (stewardWatchdogApply s) := by
  have h : Keeps r (count rWDOG_RESETS 1 (notice 0x74 stewardSource s)) := count_keeps (notice_keeps hs)
  have h' : ∀ l, Keeps r
      { count rWDOG_RESETS 1 (notice 0x74 stewardSource s) with steward := { (count rWDOG_RESETS 1 (notice 0x74 stewardSource s)).steward with resetTimes := l } }
      := fun _ => { h with }
  exact .ite hs (.ite (irq_keeps (setStewardState_keeps (notice_keeps (h' _)))) (stewardStart_keeps (h' _)))
theorem stewardRestartNow_keeps (hs : Keeps r s) : Keeps r (stewardRestartNow s) := .ite (stewardStart_keeps ({ hs with })) hs
theorem guardHit_keeps {code : ℕ} {addr : ℕ} (hs : Keeps r s) : Keeps r (guardHit code addr s) := setReg_keeps (count_keeps (notice_keeps hs))
theorem stewardGuardApply_keeps {a : StewardAction} (hs : Keeps r s) : Keeps r (stewardGuardApply a s) := by
  unfold stewardGuardApply
  dsimp only
  refine .ite hs ?_
  refine guardHit_keeps ?_
  split
  · exact noteErr_keeps hs
  · exact hs
end

/-! ### What the functions of `Machine/Power` keep -/

section
variable {r s : State}

theorem setFenced_keeps {b : Bool} (hs : Keeps r s) : Keeps r (setFenced b s) := .unless ({ hs with }) fun h1 => irq_keeps h1
theorem fenceEdge_keeps (hs : Keeps r s) : Keeps r (fenceEdge s) := setFenced_keeps hs
theorem fenceInApply_keeps {level : Bool} (hs : Keeps r s) : Keeps r (fenceInApply level s) := .ite hs (setFenced_keeps ({ hs with }))
theorem throttleApply_keeps {v : BitVec 2} (hs : Keeps r s) : Keeps r (throttleApply v s) := .ite hs (noteThrottle_keeps (irq_keeps ({ hs with })))
theorem idleEnterApply_keeps (hs : Keeps r s) : Keeps r (idleEnterApply s) := .ite (setGated_keeps hs) hs
theorem powerRefuse_keeps (hs : Keeps r s) : Keeps r (powerRefuse s) := notice_keeps hs
theorem planePdBit_keeps {v : Word} {p : ℕ} (hs : Keeps r s) : Keeps r (planePdBit v s p) :=
  .ite hs (.ite (.ite (setPlane_keeps ({ nextChild := hs.planeAt.nextChild }) (orReg_keeps hs)) (powerRefuse_keeps hs)) (setPlane_keeps
      ({ nextChild := hs.planeAt.nextChild }) (setReg_keeps hs)))
theorem planePdWrite_keeps {v : Word} (hs : Keeps r s) : Keeps r (planePdWrite v s) := Keeps.foldl hs fun _ _ hs1 => planePdBit_keeps hs1
theorem setPower_keeps {p : ℕ} {n : ℕ} (hs : Keeps r s) : Keeps r (setPower p n s) :=
  .ite hs (irq_keeps (setPlane_keeps ({ nextChild := hs.planeAt.nextChild }) hs))
theorem planePortsReset_keeps {p : ℕ} (hs : Keeps r s) : Keeps r (planePortsReset p s) := Keeps.foldl hs fun _ _ hs1 => .ite (setStall_keeps hs1) hs1
theorem planePdEdge_keeps {p : ℕ} (hs : Keeps r s) : Keeps r (planePdEdge s p) := by
  unfold planePdEdge
  dsimp only
  split
  · exact hs
  · exact planePortsReset_keeps (setPower_keeps (setPlane_keeps ({ nextChild := fun _ => rfl }) hs))
  · exact .when (setPlane_keeps ({ nextChild := hs.planeAt.nextChild }) hs) fun h4 => setPower_keeps h4
theorem failPlane_keeps {p : ℕ} (hs : Keeps r s) : Keeps r (failPlane p s) :=
  setPlane_keeps ({ nextChild := ((setPower_keeps (notice_keeps hs)).planeAt).nextChild }) (setReg_keeps (setPower_keeps (notice_keeps hs)))
theorem planeSelftestApply_keeps {p : ℕ} {rows : List (ℕ × ℕ)} (hs : Keeps r s) : Keeps r (planeSelftestApply p rows s) :=
  .ite hs (.ite (failPlane_keeps ({ hs with })) (setPower_keeps ({ hs with })))
theorem pageCtrlWrite_keeps {page : ℕ} {v : Word} (hs : Keeps r s) : Keeps r (pageCtrlWrite page v s) :=
  .when (orReg_keeps hs) fun h1 => ringSoftReset_keeps h1
theorem planeSoftReset_keeps {p : ℕ} (hs : Keeps r s) : Keeps r (planeSoftReset p s) :=
  .ite (planePortsReset_keeps (setPlane_keeps ({ nextChild := fun _ => rfl }) (setReg_keeps hs))) (powerRefuse_keeps hs)
theorem softResetAct_keeps {page : ℕ} (hs : Keeps r s) : Keeps r (softResetAct page s) := by
  unfold softResetAct
  split
  · exact planeSoftReset_keeps hs
  · exact hs
  · exact .ite (powerRefuse_keeps hs) (.ite (stewardStart_keeps hs) hs)
  · exact powerRefuse_keeps hs
theorem softResetEdge_keeps (hs : Keeps r s) : Keeps r (softResetEdge s) :=
  Keeps.foldl hs fun _ _ hs1 => .ite (softResetAct_keeps (setReg_keeps hs1)) hs1
theorem powerEdge_keeps (hs : Keeps r s) : Keeps r (powerEdge s) :=
  softResetEdge_keeps (Keeps.foldl (fenceEdge_keeps hs) fun _ _ hs1 => planePdEdge_keeps hs1)
end

/-! ### What the functions of `Machine/Owner` keep -/

section
variable {r s : State}

theorem setPhase_keeps {n : ℕ} (hs : Keeps r s) : Keeps r (setPhase n s) := .next (setReg_keeps hs) fun h1 => { h1 with }
theorem claimWrite_keeps {port : ℕ} {master : ℕ} {nonce : BitVec 16} (hs : Keeps r s) : Keeps r (claimWrite port master nonce s) :=
  .ite hs ({ hs with owner := { hs.owner with claims := fun w => tset_wf _ _ _ (hs.owner.claims w) } })
theorem offerEnd_keeps (hs : Keeps r s) : Keeps r (offerEnd s) := setReg_keeps hs
theorem newOwner_keeps {port : ℕ} {master : ℕ} {nonce : BitVec 16} (hs : Keeps r s) : Keeps r (newOwner port master nonce s) :=
  irq_keeps ({ hs with owner := { hs.owner with } })
theorem ownerElectionApply_keeps (hs : Keeps r s) : Keeps r (ownerElectionApply s) := by
  unfold ownerElectionApply
  dsimp only
  refine .ite hs ?_
  split
  · exact hs
  · exact .when (newOwner_keeps ({ hs with owner := { hs.owner with claims := fun _ => rfl } })) fun h3 => { h3 with }
theorem offerWrite_keeps {v : Word} (hs : Keeps r s) : Keeps r (offerWrite v s) := setReg_keeps ({ hs with owner := { hs.owner with } })
theorem acceptWrite_keeps {port : ℕ} {master : ℕ} {nonce : BitVec 16} (hs : Keeps r s) : Keeps r (acceptWrite port master nonce s) :=
  .ite (offerEnd_keeps ({ hs with owner := { hs.owner with } })) (notice_keeps hs)
theorem offerLapseApply_keeps (hs : Keeps r s) : Keeps r (offerLapseApply s) := .ite (offerEnd_keeps hs) hs
theorem heartbeatNow_keeps (hs : Keeps r s) : Keeps r (heartbeatNow s) := { hs with owner := { hs.owner with } }
theorem ownerVacantApply_keeps (hs : Keeps r s) : Keeps r (ownerVacantApply s) :=
  .ite (offerEnd_keeps (notice_keeps ({ hs with owner := { hs.owner with } }))) hs
theorem ownerEdge_keeps (hs : Keeps r s) : Keeps r (ownerEdge s) := by
  unfold ownerEdge
  cases s.owner.next with
  | none => exact { hs with owner := { hs.owner with } }
  | some x =>
    have h : Keeps r (newOwner x.1 x.2.1 x.2.2 s) := newOwner_keeps hs
    exact { h with owner := { h.owner with } }
theorem rejectWrite_keeps {port : ℕ} {master : ℕ} {addr : ℕ} (hs : Keeps r s) : Keeps r (rejectWrite port master addr s) :=
  .when (setReg_keeps (irq_keeps (count_keeps hs))) fun h1 => notice_keeps h1
theorem mailWrite_keeps {port : ℕ} {v : Word} (hs : Keeps r s) : Keeps r (mailWrite port v s) :=
  .ite ({ hs with owner := { hs.owner with mailOver := fun w => tset_wf _ _ _ (hs.owner.mailOver w) } }) (irq_keeps
      ({ hs with owner := { hs.owner with mailbox := fun w => tset_wf _ _ _ (hs.owner.mailbox w) } }))
theorem mailRead_keeps {port : ℕ} (hs : Keeps r s) : Keeps r (mailRead port s) :=
  { hs with owner := { hs.owner with mailbox := fun w => tset_wf _ _ _ (hs.owner.mailbox w), mailOver := fun w => tset_wf _ _ _ (hs.owner.mailOver w) } }
end

/-! ### What the functions of `Machine/Regs` keep -/

section
variable {r s : State}

theorem shownLedger_ok {n : ℕ} (hs : Keeps r s) : LedgerOk r (shownLedger n s) := by
  unfold shownLedger
  dsimp only
  split
  · exact ite_ok ({ acc := hs.ledgerAt.acc, blocks := hs.ledgerAt.blocks, pages := hs.ledgerAt.pages }) hs.ledgerAt
  · exact hs.ledgerAt
theorem setLatch_keeps {addr : ℕ} {v : Option Word} (hs : Keeps r s) : Keeps r (setLatch addr v s) :=
  { hs with hiLatch := fun w => tset_wf _ _ _ (hs.hiLatch w) }
theorem readLatch_keeps {copy : ℕ} {addr : ℕ} (hs : Keeps r s) : Keeps r (readLatch copy addr s) :=
  .ite (setLatch_keeps hs) (.ite (setLatch_keeps hs) hs)
theorem clearSpecial_keeps {copy : ℕ} {page : ℕ} {off : ℕ} (hs : Keeps r s) : Keeps r (clearSpecial copy page off s) := by
  unfold clearSpecial
  dsimp only
  refine .ite ?_ (.ite (setStall_keeps hs) hs)
  split
  · exact mailRead_keeps hs
  · exact hs
theorem readClear_keeps {owner : Bool} {copy : ℕ} {addr : ℕ} (hs : Keeps r s) : Keeps r (readClear owner copy addr s) := by
  unfold readClear
  refine .ite hs ?_
  split
  · exact .ite (setReg_keeps hs) (clearSpecial_keeps hs)
  · exact clearSpecial_keeps hs
theorem readHead_keeps {addr : ℕ} (hs : Keeps r s) : Keeps r (readHead addr s) := .ite ({ hs with log := { hs.log with } }) hs
theorem readEntry_keeps {copy : ℕ} {addr : ℕ} (hs : Keeps r s) : Keeps r (readEntry copy addr s) := .ite (entryAutoInc_keeps hs) hs
theorem readEffect_keeps {owner : Bool} {copy : ℕ} {addr : ℕ} (hs : Keeps r s) : Keeps r (readEffect owner copy addr s) :=
  .ite hs (readEntry_keeps (readHead_keeps (readClear_keeps (readLatch_keeps hs))))
end

/-! ### What the functions of `Machine/RegWrite` keep -/

section
variable {r s : State}

theorem storeReg_keeps {req : RegRow} {addr : ℕ} {v : Word} (hs : Keeps r s) : Keeps r (storeReg req addr v s) := setReg_keeps hs
theorem plainWrite_keeps {copy : ℕ} {addr : ℕ} {v : Word} (hs : Keeps r s) : Keeps r (plainWrite copy addr v s) := by
  unfold plainWrite
  split
  · exact hs
  · split
    · exact hs
    · exact hs
    · exact storeReg_keeps hs
    · exact .ite hs (storeReg_keeps hs)
    · exact clearBits_keeps hs
    · exact setReg_keeps hs
theorem headerWrite_keeps {page : ℕ} {off : ℕ} {v : Word} (hs : Keeps r s) : Keeps r (headerWrite page off v s) :=
  .ite (pageCtrlWrite_keeps hs) (.ite (setReg_keeps hs) (.ite (clearBits_keeps hs) (.ite (setReg_keeps hs) hs)))
theorem assayTrims_keeps (hs : Keeps r s) : Keeps r (assayTrims s) := Keeps.foldl hs fun _ _ hs1 => assaySetting_keeps hs1
theorem phyTrims_keeps (hs : Keeps r s) : Keeps r (phyTrims s) := Keeps.foldl hs fun _ _ hs1 => setReg_keeps (setReg_keeps hs1)
theorem restoreTrimsNow_keeps (hs : Keeps r s) : Keeps r (restoreTrimsNow s) :=
  setRotActive_keeps (emptyWindow_keeps (assayTrims_keeps (phyTrims_keeps (inputDelayApply_keeps hs))))
theorem bankWrite_keeps {off : ℕ} {v : Word} (hs : Keeps r s) : Keeps r (bankWrite off v s) := .ite (noticeNext_keeps hs) (plainWrite_keeps hs)
theorem errlogPopNow_keeps (hs : Keeps r s) : Keeps r (errlogPopNow s) := { hs with log := { hs.log with } }
theorem ledgerReleaseNow_keeps {l : ℕ} (hs : Keeps r s) : Keeps r (ledgerReleaseNow l s) := .ite (freeLedger_keeps hs) hs
theorem profileWrite_keeps {copy : ℕ} {w : ℕ} {v : Word} (hs : Keeps r s) : Keeps r (profileWrite copy w v s) :=
  { hs with tabs := { hs.tabs with profiles := fun w => tset_wf _ _ _ (hs.tabs.profiles w) } }
theorem almWrite_keeps {copy : ℕ} {w : ℕ} {v : Word} (hs : Keeps r s) : Keeps r (almWrite copy w v s) := setAlmWord_keeps hs
theorem musterValueApply_keeps {copy : ℕ} {v : Word} (hs : Keeps r s) : Keeps r (musterValueApply copy v s) :=
  { hs with tabs := { hs.tabs with musters := fun w => tset_wf _ _ _ (hs.tabs.musters w) } }
theorem binoCmd_keeps {v : Word} (hs : Keeps r s) : Keeps r (binoCmd v s) :=
  .ite hs (.ite (takeoverApply_keeps hs) (.ite (repairApply_keeps hs) (.ite (repairWithdrawApply_keeps hs) hs)))
theorem perfCtrlWrite_keeps {v : Word} (hs : Keeps r s) : Keeps r (perfCtrlWrite v s) :=
  setReg_keeps (.ite (Keeps.foldl hs fun _ _ hs1 => setReg_keeps hs1) hs)
theorem mailboxTake_keeps {port : ℕ} {v : Word} (hs : Keeps r s) : Keeps r (mailboxTake port v s) := .ite (.ite ({ hs with }) hs) (mailWrite_keeps hs)
theorem ownerWrite_keeps {by_ : Option (ℕ × ℕ)} {off : ℕ} {v : Word} (hs : Keeps r s) : Keeps r (ownerWrite by_ off v s) := by
  unfold ownerWrite
  dsimp only
  refine .ite (heartbeatNow_keeps hs) ?_
  refine .ite (heartbeatNow_keeps (plainWrite_keeps hs)) ?_
  refine .ite (offerWrite_keeps hs) ?_
  refine .ite (plainWrite_keeps hs) ?_
  split
  · exact .ite (claimWrite_keeps hs) hs
  · exact .ite (acceptWrite_keeps hs) hs
  · exact mailboxTake_keeps hs
  · exact hs
theorem meridianWrite_keeps {off : ℕ} {v : Word} (hs : Keeps r s) : Keeps r (meridianWrite off v s) :=
  .ite (.ite (calWrite_keeps hs) (.ite (resyncWrite_keeps hs) hs)) (.ite (.ite (plainWrite_keeps hs) hs) (.ite (inputDelayApply_keeps hs)
      (plainWrite_keeps hs)))
theorem ephemerisWrite_keeps {copy : ℕ} {off : ℕ} {v : Word} (hs : Keeps r s) : Keeps r (ephemerisWrite copy off v s) :=
  .ite (entryWrite_keeps hs) (.ite (bankWrite_keeps hs) (.ite (swapArmWrite_keeps hs) (plainWrite_keeps hs)))
theorem stewardWrite_keeps {off : ℕ} {v : Word} (hs : Keeps r s) : Keeps r (stewardWrite off v s) :=
  .ite (.ite (stewardRestartNow_keeps hs) hs) (.ite (kickNow_keeps hs) (plainWrite_keeps hs))
theorem configWrite_keeps {copy : ℕ} {off : ℕ} {v : Word} (hs : Keeps r s) : Keeps r (configWrite copy off v s) :=
  .ite (.ite (restoreTrimsNow_keeps hs) hs) (plainWrite_keeps hs)
theorem errlogWrite_keeps {off : ℕ} {v : Word} (hs : Keeps r s) : Keeps r (errlogWrite off v s) :=
  .ite (.ite (errlogPopNow_keeps hs) hs) (plainWrite_keeps hs)
theorem powerWrite_keeps {off : ℕ} {v : Word} (hs : Keeps r s) : Keeps r (powerWrite off v s) := .ite (planePdWrite_keeps hs) (plainWrite_keeps hs)
theorem memportWrite_keeps {off : ℕ} {v : Word} (hs : Keeps r s) : Keeps r (memportWrite off v s) := plainWrite_keeps hs
theorem queueWrite_keeps {copy : ℕ} {off : ℕ} {v : Word} (hs : Keeps r s) : Keeps r (queueWrite copy off v s) :=
  .ite (queueRegWrite_keeps hs) (.ite (.ite (queueResumeNow_keeps hs) hs) (.ite (maskDataApply_keeps hs) (plainWrite_keeps hs)))
theorem ledgerWrite_keeps {copy : ℕ} {off : ℕ} {v : Word} (hs : Keeps r s) : Keeps r (ledgerWrite copy off v s) :=
  .ite (.ite (ledgerReleaseNow_keeps hs) hs) (.ite (profileWrite_keeps hs) (plainWrite_keeps hs))
theorem assayWrite_keeps {copy : ℕ} {off : ℕ} {v : Word} (hs : Keeps r s) : Keeps r (assayWrite copy off v s) :=
  .ite (assaySetting_keeps hs) (.ite (almWrite_keeps hs) (plainWrite_keeps hs))
theorem bellWrite_keeps {copy : ℕ} {off : ℕ} {v : Word} (hs : Keeps r s) : Keeps r (bellWrite copy off v s) :=
  .ite (.ite (sigSendApply_keeps hs) hs) (.ite (lineCfgApply_keeps hs) (.ite (lineMembersApply_keeps hs) (.ite (musterCtrlApply_keeps hs) (.ite
      (musterValueApply_keeps hs) (plainWrite_keeps hs)))))
theorem binocularWrite_keeps {off : ℕ} {v : Word} (hs : Keeps r s) : Keeps r (binocularWrite off v s) :=
  .ite (binoCmd_keeps hs) (.ite (plainWrite_keeps hs) hs)
theorem perfWrite_keeps {off : ℕ} {v : Word} (hs : Keeps r s) : Keeps r (perfWrite off v s) := .ite (perfCtrlWrite_keeps hs) hs
theorem planeWrite_keeps {page : ℕ} {off : ℕ} {v : Word} (hs : Keeps r s) : Keeps r (planeWrite page off v s) := .ite hs (plainWrite_keeps hs)
theorem ringWrite_keeps {page : ℕ} {off : ℕ} {v : Word} (hs : Keeps r s) : Keeps r (ringWrite page off v s) :=
  .ite (.ite (retrainApply_keeps hs) hs) (.ite (ringCreditApply_keeps hs) (plainWrite_keeps hs))
theorem topologyWrite_keeps {copy : ℕ} {off : ℕ} {v : Word} (hs : Keeps r s) : Keeps r (topologyWrite copy off v s) :=
  .ite (topologyRegWrite_keeps hs) (.ite (groupCfgApply_keeps hs) (.ite (groupRangeApply_keeps hs) (.ite (groupRangeApply_keeps hs) (.ite (.ite
      (unfenceApply_keeps hs) hs) (plainWrite_keeps hs)))))
theorem pageWrite_keeps {by_ : Option (ℕ × ℕ)} {copy : ℕ} {page : ℕ} {off : ℕ} {v : Word} (hs : Keeps r s) : Keeps r (pageWrite by_ copy page off v s) := by
  unfold pageWrite
  split
  · exact ownerWrite_keeps hs
  · exact meridianWrite_keeps hs
  · exact ephemerisWrite_keeps hs
  · exact stewardWrite_keeps hs
  · exact configWrite_keeps hs
  · exact errlogWrite_keeps hs
  · exact powerWrite_keeps hs
  · exact memportWrite_keeps hs
  · exact queueWrite_keeps hs
  · exact ledgerWrite_keeps hs
  · exact assayWrite_keeps hs
  · exact bellWrite_keeps hs
  · exact binocularWrite_keeps hs
  · exact perfWrite_keeps hs
  · exact planeWrite_keeps hs
  · exact ringWrite_keeps hs
  · exact topologyWrite_keeps hs
  · exact plainWrite_keeps hs
  · exact plainWrite_keeps hs
  · exact plainWrite_keeps hs
  · exact hs
theorem writeReg_keeps {by_ : Option (ℕ × ℕ)} {copy : ℕ} {addr : ℕ} {v : Word} (hs : Keeps r s) : Keeps r (writeReg by_ copy addr v s) :=
  .ite (.ite (windowWrite_keeps hs) hs) (.ite (.ite (doorbellWrite_keeps hs) hs) (.ite hs (.ite (headerWrite_keeps hs) (pageWrite_keeps hs))))
end

/-! ### What the functions of `Machine/Access` keep -/

section
variable {r s : State}

theorem mgmtWrite_keeps {port : ℕ} {master : ℕ} {addr : ℕ} {v : Word} (hs : Keeps r s) : Keeps r (mgmtWrite port master addr v s) :=
  .unless (answer_keeps hs) fun h1 => .ite (answer_keeps (rejectWrite_keeps hs)) (.ite h1 (answer_keeps (writeReg_keeps hs)))
theorem mgmtRead_keeps {port : ℕ} {master : ℕ} {addr : ℕ} (hs : Keeps r s) : Keeps r (mgmtRead port master addr s) :=
  .ite (answer_keeps hs) (answer_keeps (readEffect_keeps hs))
theorem stewardStore_keeps {addr : ℕ} {v : Word} (hs : Keeps r s) : Keeps r (stewardStore addr v s) :=
  .ite (guardHit_keeps hs) (.ite hs (writeReg_keeps hs))
theorem stewardLoad_keeps {addr : ℕ} (hs : Keeps r s) : Keeps r (stewardLoad addr s) :=
  .ite (guardHit_keeps hs) (.ite hs (present_keeps (readEffect_keeps hs)))
theorem accessWrite_keeps {a : Agent} {addr : ℕ} {v : Word} (hs : Keeps r s) : Keeps r (accessWrite a addr v s) := by
  unfold accessWrite
  split
  · exact .ite (mgmtWrite_keeps hs) hs
  · exact .ite (stewardStore_keeps hs) hs
theorem accessRead_keeps {a : Agent} {addr : ℕ} (hs : Keeps r s) : Keeps r (accessRead a addr s) := by
  unfold accessRead
  split
  · exact .ite (mgmtRead_keeps hs) hs
  · exact .ite (stewardLoad_keeps hs) hs
end

/-! ### What the functions of `Machine/Startup` keep -/

section
variable {r s : State}

theorem resetNow_keeps (hs : Keeps r s) : Keeps r (resetNow s) := by
  have h := Keeps.refl (State.resetOf s.build)
  have ht : (State.resetOf s.build).tablesWf = true := resetOf_tablesWf s.build
  constructor
  case build => exact hs.build
  case pending => exact hs.pending
  case regs => exact fun _ => h.regs ht
  case tabs | owner | log => constructor <;> exact fun _ => rfl
  case ops => exact fun _ h => absurd h List.not_mem_nil
  case linksIn | queuesIn | ledgersIn | planesIn => exact fun _ h => absurd h List.not_mem_nil
  all_goals exact fun _ => rfl
theorem storeTrims_keeps {w : List Word} (hs : Keeps r s) : Keeps r (storeTrims w s) :=
  { hs with tabs := { hs.tabs with trims := fun _ => foldl_inv (P := fun t : Table Word => tableWf 0#32 t = true) rfl fun _ _ ht => tset_wf _ _ _ ht } }
theorem cfgBit_keeps {i : ℕ} (hs : Keeps r s) : Keeps r (cfgBit i s) := setReg_keeps hs
theorem trimPhase_keeps {w : List Word} (hs : Keeps r s) : Keeps r (trimPhase w s) := by
  have h1 : Keeps r (presentAll ((List.range 1024).map .trimRead) s) := presentAll_keeps hs
  have h2 : Keeps r (storeTrims w
      { presentAll ((List.range 1024).map .trimRead) s with boot := { (presentAll ((List.range 1024).map .trimRead) s).boot with trimsValid := trimsGood w } })
      :=
    storeTrims_keeps { h1 with }
  have h3 := Keeps.unless (c := trimsGood w = true) h2 fun h => cfgBit_keeps (i := 1) (notice_keeps (code := 0x92) (src := source 0 0) h)
  exact assayTrims_keeps (phyTrims_keeps (setReg_keeps { h3 with }))
theorem selfTest_keeps {rows : List (ℕ × ℕ)} (hs : Keeps r s) : Keeps r (selfTest rows s) :=
  .when (Keeps.foldl (irq_keeps ({ hs with })) fun _ _ hs2 => .ite (failPlane_keeps hs2) hs2) fun h1 => fabricFatalNow_keeps h1
theorem recordRefused_keeps {i : ℕ} (hs : Keeps r s) : Keeps r (recordRefused i s) := .when (setReg_keeps hs) fun h1 => notice_keeps (setReg_keeps h1)
theorem applyRecord_keeps {req : (ℕ × Word) × ℕ} (hs : Keeps r s) : Keeps r (applyRecord s req) :=
  .ite (setReg_keeps (writeReg_keeps hs)) (recordRefused_keeps (writeReg_keeps hs))
theorem defaultsNow_keeps {code : ℕ} (hs : Keeps r s) : Keeps r (defaultsNow code s) := absentIrq_keeps (irq_keeps (cfgBit_keeps (notice_keeps hs)))
theorem afterImage_keeps (hs : Keeps r s) : Keeps r (afterImage s) := setPhase_keeps ({ hs with })
theorem imageCheck_keeps (hs : Keeps r s) : Keeps r (imageCheck s) := .ite hs (.ite ({ hs with }) (afterImage_keeps (defaultsNow_keeps hs)))
theorem imageStep_keeps (hs : Keeps r s) : Keeps r (imageStep s) := by
  unfold imageStep
  dsimp only
  split
  · exact hs
  · exact .ite hs (.ite (afterImage_keeps (cfgBit_keeps (Keeps.foldl hs fun _ _ hs3 => applyRecord_keeps hs3))) (.next (Keeps.foldl hs fun _ _ hs5 =>
        applyRecord_keeps hs5) fun h7 => { h7 with }))
theorem firmwarePhase_keeps (hs : Keeps r s) : Keeps r (firmwarePhase s) :=
  .ite (cfgBit_keeps (stewardStart_keeps (setReg_keeps ({ hs with })))) (irq_keeps (setStewardState_keeps (orReg_keeps (notice_keeps hs))))
theorem trainPhase_keeps (hs : Keeps r s) : Keeps r (trainPhase s) := Keeps.foldl (setPhase_keeps hs) fun _ _ hs1 => retrainApply_keeps hs1
theorem sourceEdge_keeps (hs : Keeps r s) : Keeps r (sourceEdge s) := .ite (setMerState_keeps hs) (.ite (setMerState_keeps hs) hs)
theorem imagePhase_keeps (hs : Keeps r s) : Keeps r (imagePhase s) := .unless (setPhase_keeps hs) fun h1 => afterImage_keeps (defaultsNow_keeps h1)
theorem Keeps.setClock {c : Clock} (h : Keeps r s) : Keeps r { s with clock := c } := { h with }

theorem startupApply_keeps {b : BootInput} (hs : Keeps r s) : Keeps r (startupApply b s) := by
  refine .ite hs ?_
  have h1 : Keeps r (sourceEdge
      { s with clock := { s.clock with rstN := true, reached := Place.start, held := [], due := [], found := [], sampled := [] } }) :=
      sourceEdge_keeps { hs with }
  have h2 := selfTest_keeps (rows := b.testRows) (trimPhase_keeps (w := b.trims) (setPhase_keeps (n := 3) h1))
  exact .ite (imagePhase_keeps h2) h2.setClock
theorem readyNow_keeps (hs : Keeps r s) : Keeps r (readyNow s) := orReg_keeps (orReg_keeps (setPhase_keeps ({ hs with })))
theorem phaseEdge_keeps (hs : Keeps r s) : Keeps r (phaseEdge s) := by
  unfold phaseEdge
  dsimp only
  refine .ite hs ?_
  refine .ite (readyNow_keeps (sourceEdge_keeps hs)) ?_
  split
  · exact bootIssue_keeps (imageCheck_keeps (sourceEdge_keeps hs))
  · exact .ite (setPhase_keeps (firmwarePhase_keeps (sourceEdge_keeps hs))) (bootIssue_keeps (sourceEdge_keeps hs))
  · exact .when (sourceEdge_keeps hs) fun h4 => trainPhase_keeps h4
  · exact .when (sourceEdge_keeps hs) fun h6 => setPhase_keeps h6
  · exact sourceEdge_keeps hs
theorem imageTimeoutApply_keeps (hs : Keeps r s) : Keeps r (imageTimeoutApply s) := .ite (afterImage_keeps (defaultsNow_keeps hs)) hs
theorem lockTimeoutApply_keeps (hs : Keeps r s) : Keeps r (lockTimeoutApply s) := .ite (trainPhase_keeps (notice_keeps hs)) hs
theorem trainTimeoutApply_keeps (hs : Keeps r s) : Keeps r (trainTimeoutApply s) :=
  .ite (setPhase_keeps (Keeps.foldl hs fun _ _ hs1 => .ite hs1 (notice_keeps hs1))) hs
end

/-! ### What the functions of `Machine/Transit` keep -/

section
variable {r s : State}

theorem ungated_keeps (hs : Keeps r s) : Keeps r (ungated s) := setReg_keeps hs
theorem countTransit_keeps (hs : Keeps r s) : Keeps r (countTransit s) :=
  perf_keeps (perf_keeps (perf_keeps (perf_keeps (perf_keeps (perf_keeps (.when (.ite hs (count_keeps hs)) fun h1 => count_keeps h1))))))
theorem countIdle_keeps {cycles : ℕ} (hs : Keeps r s) : Keeps r (countIdle cycles s) :=
  { hs with ops := map_mem hs.ops fun _ ho1 => ite_ok ({ ho1 with }) (ite_ok ho1 ({ ho1 with })) }
theorem countIdleRun_keeps (hs : Keeps r s) : Keeps r (countIdleRun s) := { hs with }
theorem advance_keeps {n : ℕ} {cycles : ℕ} {ticks : ℕ} (hs : Keeps r s) : Keeps r (advance n cycles ticks s) := { hs with setNow := fun _ => rfl }
theorem lockRecord_keeps (hs : Keeps r s) : Keeps r (lockRecord s) := .ite (setReg64_keeps ({ hs with })) hs
theorem timeEdge_keeps {cycles : ℕ} {ticks : ℕ} (hs : Keeps r s) : Keeps r (timeEdge cycles ticks s) :=
  epochEdge_keeps (delaySlew_keeps (lockRecord_keeps (advance_keeps (merBoundary_keeps hs))))
theorem paceEdge_keeps (hs : Keeps r s) : Keeps r (paceEdge s) :=
  Keeps.foldl hs fun _ _ hs1 => .ite hs1 (setLink_keeps ({ streams := hs1.linkAt.streams }) hs1)
theorem firstEdge_keeps (hs : Keeps r s) : Keeps r (firstEdge s) :=
  addsEdge_keeps (linesEdge_keeps (queuesEdge_keeps (phaseEdge_keeps (powerEdge_keeps (ownerEdge_keeps (paceEdge_keeps (fatalEdge_keeps hs)))))))
theorem transitEnds_keeps {cycles : ℕ} (hs : Keeps r s) : Keeps r (transitEnds cycles s) :=
  .when (imageStep_keeps (holdsEdge_keeps (crierRun_keeps hs))) fun h1 => countIdleRun_keeps (countIdle_keeps (countTransit_keeps (countsEdge_keeps
      h1)))
theorem withReached_keeps {q : Place} (hs : Keeps r s) : Keeps r (withReached q s) := { hs with }
theorem ackedLink_ok {ack : ℕ} {l : Link} (hk : LinkOk r l) : LinkOk r (ackedLink ack l) := { streams := hk.streams }
theorem acknowledged_keeps {port : ℕ} {h : FlitHdr} (hs : Keeps r s) : Keeps r (acknowledged port h s) :=
  .when (.ite (ackApply_keeps hs) hs) fun h1 => modLink_keeps (fun _ hk2 => { streams := hk2.streams }) h1
theorem acknowledgedLink_ok {h : FlitHdr} {l : Link} (hk : LinkOk r l) : LinkOk r (acknowledgedLink h l) :=
  ite_ok ({ streams := (ite_ok (ackedLink_ok hk) hk).streams }) (ite_ok (ackedLink_ok hk) hk)
theorem creditedLink_ok {vc : ℕ} {cnt : ℕ} {l : Link} (hk : LinkOk r l) : LinkOk r (creditedLink vc cnt l) :=
  ite_ok ({ streams := hk.streams }) ({ streams := hk.streams })
theorem seenLink_ok {c : ℕ} {l : Link} (hk : LinkOk r l) : LinkOk r (seenLink c l) := { streams := hk.streams }
theorem countedFlit_keeps {port : ℕ} {cyc : ℕ} (hs : Keeps r s) : Keeps r (countedFlit port cyc s) :=
  setReg64_keeps (setLink_keeps (seenLink_ok hs.linkAt) hs)
theorem creditedFlit_keeps {port : ℕ} {cyc : ℕ} {h : FlitHdr} (hs : Keeps r s) : Keeps r (creditedFlit port cyc h s) :=
  creditApply_keeps (acknowledged_keeps (countedFlit_keeps hs))
theorem acceptedLink_ok {h : FlitHdr} {l : Link} (hk : LinkOk r l) : LinkOk r (acceptedLink h l) := { streams := hk.streams }
theorem dataLink_ok {h : FlitHdr} {payload : List Byte} {c : ℕ} {l : Link} (hk : LinkOk r l) : LinkOk r (dataLink h payload c l) :=
  { streams := fun w => tset_wf _ _ _ (hk.streams w) }
theorem ctlLink_ok {h : FlitHdr} {payload : List Byte} {waits : List Machine.Path} {l : Link} (hk : LinkOk r l) : LinkOk r (ctlLink h payload waits l)
    :=
  { streams := hk.streams }
end

end Sys2Proof.Machine

end

section
/-! PROOF. Every step keeps the build, the rest of the queue of commands and every table's canonical form: the commands, the events that were held, and the boundary. -/

namespace Sys2Proof.Machine

/-! ### Answers that keep what the state had -/

/-- An answer's next state, where it has one, has kept what `r` had. -/
def Answer.Keeps (r : State) (x : Answer) : Prop := ∀ t, x = .next t → Machine.Keeps r t

section
variable {r s : State} {c : Instr} {f : State → State} {x y : Answer}

theorem Answer.Keeps.next (h : Machine.Keeps r s) : Answer.Keeps r (.next s) := fun _ e => Host.Outcome.next.inj e ▸ h

theorem Answer.Keeps.ite {p : Prop} [Decidable p] (hx : Answer.Keeps r x) (hy : Answer.Keeps r y) : Answer.Keeps r (if p then x else y) := by
  split
  · exact hx
  · exact hy

theorem Answer.Keeps.fault {e : Fault} : Answer.Keeps r (.fault e) := by
  intro t h
  cases h

theorem Answer.Keeps.check {p : Prop} [Decidable p] {e : Fault} (h : Answer.Keeps r x) : Answer.Keeps r (if p then x else .fault e) := .ite h .fault
theorem Answer.Keeps.checkNot {p : Prop} [Decidable p] {e : Fault} (h : Answer.Keeps r x) : Answer.Keeps r (if p then .fault e else x) := .ite .fault h

theorem next_keeps (hf : ∀ s, Keeps r s → Keeps r (f s)) (hs : Keeps r s) : Answer.Keeps r (.next (inTransit c f s)) := .next (inTransit_keeps hf hs)
theorem onStall_keeps {n : Nat} (hf : ∀ s, Keeps r s → Keeps r (f s)) (hs : Keeps r s) : Answer.Keeps r (onStall n c f s) := .check (next_keeps hf hs)
theorem onLine_keeps {n : Nat} (hf : ∀ s, Keeps r s → Keeps r (f s)) (hs : Keeps r s) : Answer.Keeps r (onLine n c f s) := .check (next_keeps hf hs)
theorem onPort_keeps {n : Nat} (hf : ∀ s, Keeps r s → Keeps r (f s)) (hs : Keeps r s) : Answer.Keeps r (onPort n c f s) := .check (next_keeps hf hs)
theorem onBoard_keeps {n : Nat} (hf : ∀ s, Keeps r s → Keeps r (f s)) (hs : Keeps r s) : Answer.Keeps r (onBoard n c f s) := .check (next_keeps hf hs)
theorem onSides_keeps (hf : ∀ s, Keeps r s → Keeps r (f s)) (hs : Keeps r s) : Answer.Keeps r (onSides c f s) := .check (next_keeps hf hs)
theorem onAgent_keeps {a : Agent} (hf : ∀ s, Keeps r s → Keeps r (f s)) (hs : Keeps r s) : Answer.Keeps r (onAgent a c f s) := .check (next_keeps hf hs)
theorem onRingPage_keeps {a : Agent} {n : Nat} (hf : ∀ s, Keeps r s → Keeps r (f s)) (hs : Keeps r s) : Answer.Keeps r (onRingPage a n c f s) := .check (onAgent_keeps hf hs)
theorem onPlanePage_keeps {a : Agent} {n : Nat} (hf : ∀ s, Keeps r s → Keeps r (f s)) (hs : Keeps r s) : Answer.Keeps r (onPlanePage a n c f s) := .check (onAgent_keeps hf hs)

theorem heartbeatAccess_keeps {a : Agent} {w : Option Word} (hs : Keeps r s) :
    Keeps r ((match w with | none => accessWrite a 0x01048 1#32 | some w => accessWrite a rHEARTBEAT_WINDOW w) s) := by
  split <;> exact accessWrite_keeps hs

theorem anyAccess_keeps {a : Agent} {w : Bool} {addr : Nat} {v : Word} (hs : Keeps r s) : Keeps r ((if w then accessWrite a addr v else accessRead a addr) s) := by
  split
  · exact accessWrite_keeps hs
  · exact accessRead_keeps hs

/-! ### Commands -/

/-- Every command but a boundary keeps what the state had: the meaning of each does. -/
theorem command_keeps {c : Instr} (hc : ∀ cycles ticks, c ≠ .transitBoundary cycles ticks) (hs : Keeps r s) : Answer.Keeps r (exec c s) :=
  match c with
  | .resetAssert => .next (resetNow_keeps hs)
  | .startup .. => next_keeps (fun _ h => startupApply_keeps h) hs
  | .imageTimeout => next_keeps (fun _ h => imageTimeoutApply_keeps h) hs
  | .lockTimeout => next_keeps (fun _ h => lockTimeoutApply_keeps h) hs
  | .trainTimeout => next_keeps (fun _ h => trainTimeoutApply_keeps h) hs
  | .ownerElection => next_keeps (fun _ h => ownerElectionApply_keeps h) hs
  | .transitBoundary .. => absurd rfl (hc _ _)
  | .upBeat .. => .checkNot (next_keeps (fun _ h => upBeatApply_keeps h) hs)
  | .treeSumArrive .. => next_keeps (fun _ h => treeSumApply_keeps h) hs
  | .tallyAdd .. => onStall_keeps (fun _ h => tallyAddApply_keeps h) hs
  | .tallySub .. => onStall_keeps (fun _ h => tallySubApply_keeps h) hs
  | .tallyWait .. => onStall_keeps (fun _ h => tallyWaitApply_keeps h) hs
  | .tallyTake .. => onStall_keeps (fun _ h => tallyTakeApply_keeps h) hs
  | .tallyRead .. => onStall_keeps (fun _ h => tallyReadApply_keeps h) hs
  | .tallyBadIndex .. => onStall_keeps (fun _ h => tallyBadApply_keeps h) hs
  | .tallyRetest .. => onStall_keeps (fun _ h => tallyRetestApply_keeps h) hs
  | .tlyCancel .. => onStall_keeps (fun _ h => tlyCancelApply_keeps h) hs
  | .tallyWindowSet .. | .tallyWindowAdd .. | .tallyWindowSub .. | .sigSend .. | .doorbell .. | .standingPin .. | .standingUnpin ..
  | .meridianCal .. | .resync .. | .inputDelayWrite .. | .swapArm .. | .swapDisarm .. | .ephemerisEntryWrite .. | .powerFenceWrite ..
  | .softReset .. | .pageLock .. | .restoreTrims .. | .errlogPop .. | .takeover .. | .repair .. | .repairWithdraw .. | .ownerClaim ..
  | .ownerOffer .. | .ownerAccept .. | .nonownerWrite .. | .mailboxWrite .. | .stewardKick .. | .stewardRestart .. | .queueEnable ..
  | .queueDisable .. | .queueResume .. | .queueCfgWrite .. | .maskDataWrite .. | .ledgerRelease .. | .unfence .. | .topologyWrite ..
  | .groupCfgWrite .. | .lineCfgWrite .. | .lineMembersWrite .. | .musterCtrlWrite .. | .thresholdWrite .. | .assayPolicyWrite .. | .perfClear ..
  | .injectArm .. | .registerWrite .. => onAgent_keeps (fun _ h => accessWrite_keeps h) hs
  | .tallyWindowRead .. | .errlogHeadRead .. | .loReadLatch .. | .readToClear .. => onAgent_keeps (fun _ h => accessRead_keeps h) hs
  | .bellOutChange .. => .check (onStall_keeps (fun _ h => bellOutApply_keeps h) hs)
  | .bellExtSenseChange .. => .ite (onBoard_keeps (fun _ h => bellSenseApply_keeps h) hs) (.check (.next hs))
  | .bellRing .. => onLine_keeps (fun _ h => bellRingApply_keeps h) hs
  | .boardHoldExpire .. => onLine_keeps (fun _ h => boardHoldApply_keeps h) hs
  | .bellRearm .. => onLine_keeps (fun _ h => bellRearmApply_keeps h) hs
  | .bellMsgReceive .. => onPort_keeps (fun _ h => onCtl_keeps (fun _ _ h => bellMsgApply_keeps h) h) hs
  | .verdictMsgReceive .. => onPort_keeps (fun _ h => onCtl_keeps (fun _ _ h => verdictMsgApply_keeps h) h) hs
  | .verdictPass .. => next_keeps (fun _ h => verdictPassApply_keeps h) hs
  | .verdictRing .. => next_keeps (fun _ h => verdictRingApply_keeps h) hs
  | .remoteAddReceive .. => onPort_keeps (fun _ h => onCtl_keeps (fun _ _ h => remoteAddAccept_keeps h) h) hs
  | .remoteAddApply .. => .check (next_keeps (fun _ h => remoteAddApplyAt_keeps h) hs)
  | .memReadData .. => next_keeps (fun _ h => memReadApply_keeps h) hs
  | .memWriteResponse .. | .completionRecordWrite .. => next_keeps (fun _ h => writeResponse_keeps h) hs
  | .memTimeout .. => next_keeps (fun _ h => memTimeoutApply_keeps h) hs
  | .descriptorFetch .. => next_keeps (fun _ h => fetchApply_keeps h) hs
  | .descriptorDecode .. => next_keeps (fun _ h => decodeApply_keeps h) hs
  | .standingRun .. => next_keeps (fun _ h => standingRunApply_keeps h) hs
  | .descriptorStart .. | .barrier .. | .fence .. => next_keeps (fun _ h => startApply_keeps h) hs
  | .reduce .. | .allreduce .. | .reduceScatter .. | .ledgerAdd .. | .ledgerClose .. => next_keeps (fun _ h => ofOp_keeps (fun _ h => sumWork_keeps h) h) hs
  | .broadcast .. | .allgather .. => next_keeps (fun _ h => ofOp_keeps (fun _ h => copyWork_keeps h) h) hs
  | .max .. | .argmax .. | .topk .. | .sample .. => next_keeps (fun _ h => ofOp_keeps (fun _ h => selectWork_keeps h) h) hs
  | .alltoall .. => next_keeps (fun _ h => ofOp_keeps (fun _ h => a2aFeedDirs_keeps (a2aOwn_keeps (a2aPass_keeps (a2aSizes_keeps h)))) h) hs
  | .ledgerOpen .. => next_keeps (fun _ h => ofOp_keeps (fun _ h => ledgerClaimApply_keeps h) h) hs
  | .save .. => next_keeps (fun _ h => ofOp_keeps (fun _ h => saveStep_keeps h) h) hs
  | .restore .. => next_keeps (fun _ h => ofOp_keeps (fun _ h => restoreStep_keeps h) h) hs
  | .ledgerClaim .. => next_keeps (fun _ h => ledgerClaimApply_keeps h) hs
  | .waitListClaim .. => next_keeps (fun _ h => waitListApply_keeps h) hs
  | .pageGrant .. => next_keeps (fun _ h => pageGrantApply_keeps h) hs
  | .upPhaseOpen .. => next_keeps (fun _ h => upOpenApply_keeps h) hs
  | .upPhaseClose .. => next_keeps (fun _ h => upCloseApply_keeps h) hs
  | .egress .. => next_keeps (fun _ h => egressApply_keeps h) hs
  | .almanacCompare .. => next_keeps (fun _ h => almanacCompareApply_keeps h) hs
  | .recallOp .. => next_keeps (fun _ h => recallApply_keeps h) hs
  | .reEmission .. => next_keeps (fun _ h => reEmissionApply_keeps h) hs
  | .chunkRelease .. => .checkNot (next_keeps (fun _ h => chunkReleaseApply_keeps h) hs)
  | .seal .. => next_keeps (fun _ h => sealApply_keeps h) hs
  | .descriptorFail .. => next_keeps (fun _ h => descriptorFailApply_keeps h) hs
  | .ringStepStart .. => next_keeps (fun _ h => ringStepApply_keeps h) hs
  | .ringChunkReceive .. => onPort_keeps (fun _ h => ringChunkApply_keeps h) hs
  | .chunkForward .. => onPort_keeps (fun _ h => chunkForwardApply_keeps h) hs
  | .ringStepEnd .. => onPort_keeps (fun _ h => ringStepEndApply_keeps h) hs
  | .statisticsLap .. => next_keeps (fun _ h => statsLapApply_keeps h) hs
  | .recallMsgReceive .. => onPort_keeps (fun _ h => recallReceive_keeps h) hs
  | .flitReceive .. => onPort_keeps (fun _ h => flitApply_keeps h) hs
  | .nakReceive .. => onPort_keeps (fun _ h => nakApply_keeps h) hs
  | .replayTimeout .. => onPort_keeps (fun _ h => replayTimeoutApply_keeps h) hs
  | .flitTransmit .. => onPort_keeps (fun _ h => transmitApply_keeps h) hs
  | .heartbeatSend .. => onPort_keeps (fun _ h => heartbeatApply_keeps h) hs
  | .nullSend .. => onPort_keeps (fun _ h => nullApply_keeps h) hs
  | .linkLost .. => onPort_keeps (fun _ h => linkLostApply_keeps h) hs
  | .linkDown .. => onPort_keeps (fun _ h => linkDownApply_keeps h) hs
  | .trainFlitReceive .. => onPort_keeps (fun _ h => trainFlitApply_keeps h) hs
  | .timeFrameReceive .. => onPort_keeps (fun _ h => timeFrameApply_keeps h) hs
  | .merMarkPulse .. => next_keeps (fun _ h => merMarkApply_keeps h) hs
  | .timecodeFrame .. => next_keeps (fun _ h => timecodeApply_keeps h) hs
  | .meridianLock => next_keeps (fun _ h => lockApply_keeps h) hs
  | .markMissing => next_keeps (fun _ h => markMissingApply_keeps h) hs
  | .refLoss => next_keeps (fun _ h => refLossApply_keeps h) hs
  | .meridianLost => next_keeps (fun _ h => lostApply_keeps h) hs
  | .reacquire .. => next_keeps (fun _ h => reacquireApply_keeps h) hs
  | .slewComplete => next_keeps (fun _ h => slewCompleteApply_keeps h) hs
  | .fenceInChange .. => .ite (next_keeps (fun _ h => fenceInApply_keeps h) hs) (.next hs)
  | .throttleChange .. => .ite (next_keeps (fun _ h => throttleApply_keeps h) hs) (.next hs)
  | .bellExtHigh .. => onBoard_keeps (fun _ h => bellExtHighApply_keeps h) hs
  | .bellExtLow .. => onBoard_keeps (fun _ h => bellExtLowApply_keeps h) hs
  | .fenceHigh => next_keeps (fun _ h => fenceHighApply_keeps h) hs
  | .bankSwap => next_keeps (fun _ h => bankSwapApply_keeps h) hs
  | .idleEnter => next_keeps (fun _ h => idleEnterApply_keeps h) hs
  | .planePowerDown .. | .planePowerUp .. | .spillPoolWrite .. => onPlanePage_keeps (fun _ h => accessWrite_keeps h) hs
  | .planeSelftestDone .. => .check (next_keeps (fun _ h => planeSelftestApply_keeps h) hs)
  | .faultDetect .. => next_keeps (fun _ h => faultDetectApply_keeps h) hs
  | .containedReplay .. => next_keeps (fun _ h => containedReplayApply_keeps h) hs
  | .ledgerFatal .. => next_keeps (fun _ h => ledgerFatalApply_keeps h) hs
  | .fabricFatal .. => next_keeps (fun _ h => fabricFatalApply_keeps h) hs
  | .watchdog .. => next_keeps (fun _ h => watchdogApply_keeps h) hs
  | .binoMismatch .. => onSides_keeps (fun _ h => binoMismatchApply_keeps h) hs
  | .binoStateCompare .. => onSides_keeps (fun _ h => binoStateApply_keeps h) hs
  | .lateMismatch .. => onSides_keeps (fun _ h => lateMismatchApply_keeps h) hs
  | .sideFault .. => onSides_keeps (fun _ h => sideFaultApply_keeps h) hs
  | .offerLapse => next_keeps (fun _ h => offerLapseApply_keeps h) hs
  | .ownerHeartbeat .. => onAgent_keeps (fun _ h => heartbeatAccess_keeps h) hs
  | .ownerVacant => next_keeps (fun _ h => ownerVacantApply_keeps h) hs
  | .mailboxRead .. => .check (onAgent_keeps (fun _ h => accessRead_keeps h) hs)
  | .stewardWatchdog => next_keeps (fun _ h => stewardWatchdogApply_keeps h) hs
  | .stewardGuard .. => next_keeps (fun _ h => stewardGuardApply_keeps h) hs
  | .retrain .. | .ringCreditWrite .. => onRingPage_keeps (fun _ h => accessWrite_keeps h) hs
  | .linkTraining .. => onPort_keeps (fun _ h => linkTrainingApply_keeps h) hs
  | .injectFire .. => next_keeps (fun _ h => injectFireApply_keeps h) hs
  | .mgmtErrorResponse .. => onAgent_keeps (fun _ h => anyAccess_keeps h) hs
  | .merRefReturn => next_keeps (fun _ h => refReturnApply_keeps h) hs
  | .glitchRemoved .. => next_keeps (fun _ h => .ite h (glitchApply_keeps h)) hs

/-! ### Held events and the boundary -/

/-- A held event means what its command means; one that is never held means nothing. -/
theorem heldAnswer_eq (c : Instr) (s : State) : heldAnswer c s = exec c s ∨ heldAnswer c s = .next s := by
  cases c
  case resetAssert | startup | transitBoundary | upBeat | treeSumArrive | bellMsgReceive | verdictMsgReceive | remoteAddReceive | memReadData
    | memWriteResponse | descriptorFetch | descriptorDecode | reduce | broadcast | allreduce | reduceScatter | allgather | max | argmax | topk | sample
    | alltoall | ledgerAdd | ledgerClose | save | restore | upPhaseOpen | upPhaseClose | egress | reEmission | completionRecordWrite | ringChunkReceive
    | chunkForward | ringStepEnd | recallMsgReceive | flitReceive | nakReceive | replayTimeout | flitTransmit | heartbeatSend | nullSend
    | trainFlitReceive | timeFrameReceive | idleEnter | offerLapse | linkTraining | glitchRemoved => exact .inr rfl
  all_goals exact .inl rfl

theorem heldAnswer_keeps {c : Instr} (hs : Keeps r s) : Answer.Keeps r (heldAnswer c s) := by
  by_cases hc : ∃ cycles ticks, c = .transitBoundary cycles ticks
  · obtain ⟨_, _, rfl⟩ := hc
    exact .next hs
  · rcases heldAnswer_eq c s with e | e
    · rw [e]
      exact command_keeps (fun _ _ h => hc ⟨_, _, h⟩) hs
    · rw [e]
      exact .next hs

theorem applyHeld_keeps {x : Place × Instr} (hs : Keeps r s) : Keeps r (applyHeld s x) := by
  refine asRequest_keeps (fun s h => ?_) hs
  split
  · next s' e => exact heldAnswer_keeps h s' e
  · exact h

theorem boundaryApply_keeps {cycles ticks : Nat} (hs : Keeps r s) : Keeps r (boundaryApply cycles ticks s) := by
  refine .ite hs ?_
  have h1 : Keeps r ((heldFirst s.clock.held).foldl applyHeld (detectorBoundary (timeEdge cycles ticks (transitEnds cycles s)))) :=
    Keeps.foldl (detectorBoundary_keeps (timeEdge_keeps (transitEnds_keeps hs))) fun _ _ h => applyHeld_keeps h
  exact Keeps.foldl (firstEdge_keeps h1) fun _ _ h => applyHeld_keeps h

theorem exec_keeps {c : Instr} (hs : Keeps r s) : Answer.Keeps r (exec c s) := by
  by_cases hc : ∃ cycles ticks, c = .transitBoundary cycles ticks
  · obtain ⟨_, _, rfl⟩ := hc
    exact next_keeps (fun _ h => boundaryApply_keeps h) hs
  · exact command_keeps (fun _ _ h => hc ⟨_, _, h⟩) hs

end

/-! ### Every step -/

/-- A step keeps what the state without the front of its queue had. -/
theorem step_keeps {s t : State} (h : step s = .next t) : Keeps { s with pending := s.pending.drop 1 } t := by
  unfold step at h
  split at h
  · next e =>
    cases h
    have hs : { s with pending := s.pending.drop 1 } = s := by rw [e, List.drop_nil, ← e]
    rw [hs]
    exact .refl s
  · next c rest e =>
    have hs : s.pending.drop 1 = rest := by rw [e, List.drop_succ_cons, List.drop_zero]
    rw [hs]
    exact exec_keeps (.refl _) t h

/-- Settles O57: every update of a table writes it in canonical form, and every write of a queue's CFG masks it. -/
theorem stepKeepsTables : Obligations.StepKeepsTables := fun _ _ hs h => (step_keeps h).tablesWf hs

/-- Settles O58: so do the updates of the tables within operations, legs, ledgers, links and planes. -/
theorem stepKeepsAllTables : Obligations.StepKeepsAllTables := fun _ _ hs h => (step_keeps h).allWf hs

/-- Settles O59: no effect of a command writes the build or the queue. -/
theorem stepKeepsBuildAndQueue : Obligations.StepKeepsBuildAndQueue := fun _ _ h => ⟨(step_keeps h).build, (step_keeps h).pending⟩

end Sys2Proof.Machine
end

section
/-! PROOF. Frames and registers: how frames compose along the text of a function, the frame of each shared operation, and what a register reads after each kind of write. -/

namespace Sys2Proof.Machine

-- The inclusions that frames ask for are auto parameters, whose code is compiled: with proofs elaborated in order no thread waits for it.
set_option Elab.async false

/-! ### Frames along a function's text -/

section
variable {r s t u : State} {ps qs : List Part}

/-- One update more, of pieces that the frame names. -/
theorem OnlyChanges.next (h : OnlyChanges qs s t) (h' : OnlyChanges ps t u) (hq : ps ⊆ qs := by decide) : OnlyChanges qs s u := h.then h' hq

theorem OnlyChanges.ite {p : Prop} [Decidable p] (ha : OnlyChanges ps r s) (hb : OnlyChanges ps r t) : OnlyChanges ps r (if p then s else t) := by
  split
  · exact ha
  · exact hb

theorem OnlyChanges.when {p : Prop} [Decidable p] (hb : OnlyChanges ps r t) (ha : OnlyChanges ps r t → OnlyChanges ps r s) :
    OnlyChanges ps r (if p then s else t) := .ite (ha hb) hb

theorem OnlyChanges.unless {p : Prop} [Decidable p] (ha : OnlyChanges ps r s) (hb : OnlyChanges ps r s → OnlyChanges ps r t) :
    OnlyChanges ps r (if p then s else t) := .ite ha (hb ha)

theorem OnlyChanges.foldl {α : Type} {f : State → α → State} {l : List α} (h : OnlyChanges ps r s)
    (hf : ∀ t x, OnlyChanges ps r t → OnlyChanges ps r (f t x)) : OnlyChanges ps r (l.foldl f s) :=
  foldl_inv (P := OnlyChanges ps r) h hf

theorem OnlyChanges.requests_eq (h : OnlyChanges ps s t) (hp : .owner ∉ ps := by decide) : t.owner.requests = s.owner.requests := by
  rw [show t.owner = s.owner from h .owner hp]

theorem OnlyChanges.out_eq (h : OnlyChanges ps s t) (hp : .out ∉ ps := by decide) : t.out = s.out := h .out hp

end

/-! ### The frames of the shared operations -/

section
variable {r s : State} {ps : List Part}

theorem openChain_frame {e : LogIn} (h : OnlyChanges ps r s) (hq : [.log] ⊆ ps := by decide) : OnlyChanges ps r (openChain e s) := by
  refine h.then (ps := [.log]) ?_ hq
  unfold openChain
  dsimp only
  refine .ite (OnlyChanges.refl s) ?_
  split
  · exact .ite (OnlyChanges.next (ps := [.log]) (OnlyChanges.refl s) fun p hp => by cases p <;> simp [Part.same] at hp ⊢) (OnlyChanges.refl s)
  · exact .ite (OnlyChanges.next (ps := [.log]) (OnlyChanges.refl s) fun p hp => by cases p <;> simp [Part.same] at hp ⊢) (OnlyChanges.refl s)
theorem setReg_frame {a : Nat} {v : Word} (h : OnlyChanges ps r s) (hq : [.regs] ⊆ ps := by decide) : OnlyChanges ps r (setReg a v s) :=
  h.then (ps := [.regs]) (OnlyChanges.next (ps := [.regs]) (OnlyChanges.refl s) fun p hp => by cases p <;> simp [Part.same, setReg] at hp ⊢) hq
theorem orReg_frame {a : Nat} {v : Word} (h : OnlyChanges ps r s) (hq : [.setNow, .regs] ⊆ ps := by decide) : OnlyChanges ps r (orReg a v s) :=
  h.then (ps := [.setNow, .regs]) (OnlyChanges.next (ps := [.setNow]) (t := setReg a (reg a s ||| v) s) (setReg_frame (OnlyChanges.refl s)) fun p hp => by cases p <;> simp [Part.same, orReg] at hp ⊢) hq
theorem irq_frame {page : Nat} {b : Nat} (h : OnlyChanges ps r s) (hq : [.setNow, .regs] ⊆ ps := by decide) : OnlyChanges ps r (irq page b s) :=
  h.then (ps := [.setNow, .regs]) (orReg_frame (OnlyChanges.refl s)) hq
theorem count_frame {a : Nat} {n : Nat} (h : OnlyChanges ps r s) (hq : [.regs] ⊆ ps := by decide) : OnlyChanges ps r (count a n s) :=
  h.then (ps := [.regs]) (setReg_frame (OnlyChanges.refl s)) hq
theorem logPush_frame {e : LogEntry} (h : OnlyChanges ps r s) (hq : [.log, .setNow, .regs] ⊆ ps := by decide) : OnlyChanges ps r (logPush e s) :=
  h.then (ps := [.log, .setNow, .regs]) (.ite (.when (.when (.when (.when (OnlyChanges.next (ps := [.log]) (OnlyChanges.refl s) fun p hp => by cases p <;> simp [Part.same] at hp ⊢) fun h4 => irq_frame h4) fun h3 => irq_frame h3) fun h2 => irq_frame h2) fun h1 => irq_frame h1) (.when (.ite (irq_frame (count_frame (OnlyChanges.refl s))) (OnlyChanges.refl s)) fun h5 => irq_frame h5)) hq
theorem entryAttributed_frame {e : LogIn} (h : OnlyChanges ps r s) (hq : [.regs] ⊆ ps := by decide) : OnlyChanges ps r (attribute_ e s) :=
  h.then (ps := [.regs]) (count_frame (setReg_frame (count_frame (setReg_frame (OnlyChanges.refl s))))) hq
theorem codeIrq_frame {code : Nat} {page : Nat} (h : OnlyChanges ps r s) (hq : [.setNow, .regs] ⊆ ps := by decide) : OnlyChanges ps r (codeIrq code page s) :=
  h.then (ps := [.setNow, .regs]) (.ite (.ite (irq_frame (OnlyChanges.refl s)) (irq_frame (OnlyChanges.refl s))) (.ite (irq_frame (OnlyChanges.refl
      s)) (.unless (irq_frame (OnlyChanges.refl s)) fun h1 => .ite (.ite h1 (.ite (irq_frame (OnlyChanges.refl s)) (.ite (irq_frame (OnlyChanges.refl
      s)) (.ite (irq_frame (OnlyChanges.refl s)) (OnlyChanges.refl s))))) (.unless h1 fun h2 => .ite (.ite h2 (irq_frame (OnlyChanges.refl s))) (.ite
      (.ite h2 (.ite (irq_frame (OnlyChanges.refl s)) (OnlyChanges.refl s))) (.ite (.ite h2 (irq_frame (OnlyChanges.refl s))) (.ite (.ite (irq_frame
      (OnlyChanges.refl s)) (.ite (irq_frame (OnlyChanges.refl s)) (OnlyChanges.refl s))) (.ite (.ite (irq_frame (OnlyChanges.refl s)) (.ite h2 (.ite
      (irq_frame (OnlyChanges.refl s)) (OnlyChanges.refl s)))) (.ite (.ite (irq_frame (OnlyChanges.refl s)) (OnlyChanges.refl s)) (.ite (.ite
      (irq_frame (OnlyChanges.refl s)) (OnlyChanges.refl s)) (.ite (.ite (irq_frame (OnlyChanges.refl s)) (.ite (OnlyChanges.refl s) (irq_frame
      (OnlyChanges.refl s)))) (OnlyChanges.refl s)))))))))))) hq
theorem logFault_frame {e : LogIn} (h : OnlyChanges ps r s) (hq : [.setNow, .regs, .log] ⊆ ps := by decide) : OnlyChanges ps r (logFault e s) :=
  h.then (ps := [.setNow, .regs, .log]) (codeIrq_frame (entryAttributed_frame (logPush_frame (openChain_frame (OnlyChanges.refl s))))) hq
theorem notice_frame {code : Nat} {src : BitVec 16} (h : OnlyChanges ps r s) (hq : [.setNow, .regs, .log] ⊆ ps := by decide) : OnlyChanges ps r (notice code src s) :=
  h.then (ps := [.setNow, .regs, .log]) (logFault_frame (OnlyChanges.refl s)) hq
theorem noticeLedger_frame {code : Nat} {src : BitVec 16} {l : Nat} {attempt : Nat} (h : OnlyChanges ps r s) (hq : [.setNow, .regs, .log] ⊆ ps := by decide) : OnlyChanges ps r (noticeLedger code src l attempt s) :=
  h.then (ps := [.setNow, .regs, .log]) (logFault_frame (OnlyChanges.refl s)) hq
theorem findDue_frame {d : Due} (h : OnlyChanges ps r s) (hq : [.found] ⊆ ps := by decide) : OnlyChanges ps r (find_ d s) :=
  h.then (ps := [.found]) (OnlyChanges.next (ps := [.found]) (OnlyChanges.refl s) fun p hp => by cases p <;> simp [Part.same, find_] at hp ⊢) hq
theorem noticeNext_frame {code : Nat} {src : BitVec 16} (h : OnlyChanges ps r s) (hq : [.found] ⊆ ps := by decide) : OnlyChanges ps r (noticeNext code src s) :=
  h.then (ps := [.found]) (findDue_frame (OnlyChanges.refl s)) hq
theorem clearBits_frame {a : Nat} {v : Word} (h : OnlyChanges ps r s) (hq : [.regs] ⊆ ps := by decide) : OnlyChanges ps r (clearBits a v s) :=
  h.then (ps := [.regs]) (setReg_frame (OnlyChanges.refl s)) hq
theorem setReg64_frame {a : Nat} {v : Word64} (h : OnlyChanges ps r s) (hq : [.regs] ⊆ ps := by decide) : OnlyChanges ps r (setReg64 a v s) :=
  h.then (ps := [.regs]) (setReg_frame (setReg_frame (OnlyChanges.refl s))) hq
theorem present_frame {o : PortOut} (h : OnlyChanges ps r s) (hq : [.out] ⊆ ps := by decide) : OnlyChanges ps r (present o s) :=
  h.then (ps := [.out]) (OnlyChanges.next (ps := [.out]) (OnlyChanges.refl s) fun p hp => by cases p <;> simp [Part.same, present] at hp ⊢) hq
theorem setTally_frame {stall : Nat} {t : Nat} {v : Word} (h : OnlyChanges ps r s) (hq : [.tallies] ⊆ ps := by decide) : OnlyChanges ps r (setTally stall t v s) :=
  h.then (ps := [.tallies]) (OnlyChanges.next (ps := [.tallies]) (OnlyChanges.refl s) fun p hp => by cases p <;> simp [Part.same, setTally] at hp ⊢) hq
theorem addTally_frame {stall : Nat} {t : Nat} {a : Word} (h : OnlyChanges ps r s) (hq : [.tallies] ⊆ ps := by decide) : OnlyChanges ps r (addTally stall t a s) :=
  h.then (ps := [.tallies]) (setTally_frame (OnlyChanges.refl s)) hq
theorem setLink_frame {n : Nat} {v : Link} (h : OnlyChanges ps r s) (hq : [.links] ⊆ ps := by decide) : OnlyChanges ps r (setLink n v s) :=
  h.then (ps := [.links]) (OnlyChanges.next (ps := [.links]) (OnlyChanges.refl s) fun p hp => by cases p <;> simp [Part.same, setLink] at hp ⊢) hq
theorem setStall_frame {n : Nat} {v : StallSt} (h : OnlyChanges ps r s) (hq : [.stalls] ⊆ ps := by decide) : OnlyChanges ps r (setStall n v s) :=
  h.then (ps := [.stalls]) (OnlyChanges.next (ps := [.stalls]) (OnlyChanges.refl s) fun p hp => by cases p <;> simp [Part.same, setStall] at hp ⊢) hq
theorem setLine_frame {n : Nat} {v : Line} (h : OnlyChanges ps r s) (hq : [.lines] ⊆ ps := by decide) : OnlyChanges ps r (setLine n v s) :=
  h.then (ps := [.lines]) (OnlyChanges.next (ps := [.lines]) (OnlyChanges.refl s) fun p hp => by cases p <;> simp [Part.same, setLine] at hp ⊢) hq
theorem setQueue_frame {q : Nat} {v : QueueSt} (h : OnlyChanges ps r s) (hq : [.queues] ⊆ ps := by decide) : OnlyChanges ps r (setQueue q v s) :=
  h.then (ps := [.queues]) (OnlyChanges.next (ps := [.queues]) (OnlyChanges.refl s) fun p hp => by cases p <;> simp [Part.same, setQueue] at hp ⊢) hq
theorem setLedger_frame {l : Nat} {v : Ledger} (h : OnlyChanges ps r s) (hq : [.ledgers] ⊆ ps := by decide) : OnlyChanges ps r (setLedger l v s) :=
  h.then (ps := [.ledgers]) (OnlyChanges.next (ps := [.ledgers]) (OnlyChanges.refl s) fun p hp => by cases p <;> simp [Part.same, setLedger] at hp ⊢) hq
theorem setGroup_frame {g : Nat} {v : GroupDef} (h : OnlyChanges ps r s) (hq : [.groups] ⊆ ps := by decide) : OnlyChanges ps r (setGroup g v s) :=
  h.then (ps := [.groups]) (OnlyChanges.next (ps := [.groups]) (OnlyChanges.refl s) fun p hp => by cases p <;> simp [Part.same, setGroup] at hp ⊢) hq
theorem setPlane_frame {p : Nat} {v : PlaneSt} (h : OnlyChanges ps r s) (hq : [.planes] ⊆ ps := by decide) : OnlyChanges ps r (setPlane p v s) :=
  h.then (ps := [.planes]) (OnlyChanges.next (ps := [.planes]) (OnlyChanges.refl s) fun p hp => by cases p <;> simp [Part.same, setPlane] at hp ⊢) hq
theorem setVerdict_frame {k : Nat} {v : Verdict} (h : OnlyChanges ps r s) (hq : [.verdicts] ⊆ ps := by decide) : OnlyChanges ps r (setVerdict k v s) :=
  h.then (ps := [.verdicts]) (OnlyChanges.next (ps := [.verdicts]) (OnlyChanges.refl s) fun p hp => by cases p <;> simp [Part.same, setVerdict] at hp ⊢) hq
theorem setLatch_frame {addr : Nat} {v : Option Word} (h : OnlyChanges ps r s) (hq : [.hiLatch] ⊆ ps := by decide) : OnlyChanges ps r (setLatch addr v s) :=
  h.then (ps := [.hiLatch]) (OnlyChanges.next (ps := [.hiLatch]) (OnlyChanges.refl s) fun p hp => by cases p <;> simp [Part.same, setLatch] at hp ⊢) hq
theorem setOp_frame {o : Op} (h : OnlyChanges ps r s) (hq : [.ops] ⊆ ps := by decide) : OnlyChanges ps r (setOp o s) :=
  h.then (ps := [.ops]) (OnlyChanges.next (ps := [.ops]) (OnlyChanges.refl s) fun p hp => by cases p <;> simp [Part.same, setOp] at hp ⊢) hq
theorem removeOp_frame {id : OpId} (h : OnlyChanges ps r s) (hq : [.ops] ⊆ ps := by decide) : OnlyChanges ps r (removeOp id s) :=
  h.then (ps := [.ops]) (OnlyChanges.next (ps := [.ops]) (OnlyChanges.refl s) fun p hp => by cases p <;> simp [Part.same, removeOp] at hp ⊢) hq
theorem modOp_frame {id : OpId} {f : Op → Op} (h : OnlyChanges ps r s) (hq : [.ops] ⊆ ps := by decide) : OnlyChanges ps r (modOp id f s) := by
  refine h.then (ps := [.ops]) ?_ hq
  unfold modOp
  split
  · exact OnlyChanges.refl s
  · exact setOp_frame (OnlyChanges.refl s)
theorem perf_frame {i : Nat} {n : Nat} (h : OnlyChanges ps r s) (hq : [.regs, .setNow] ⊆ ps := by decide) : OnlyChanges ps r (perf i n s) :=
  h.then (ps := [.regs, .setNow]) (.ite (OnlyChanges.refl s) (.when (count_frame (OnlyChanges.refl s)) fun h1 => irq_frame h1)) hq
theorem perf64_frame {i : Nat} {n : Nat} (h : OnlyChanges ps r s) (hq : [.regs] ⊆ ps := by decide) : OnlyChanges ps r (perf64 i n s) :=
  h.then (ps := [.regs]) (.ite (OnlyChanges.refl s) (setReg64_frame (OnlyChanges.refl s))) hq
theorem perfLater_frame {i : Nat} {n : Nat} (h : OnlyChanges ps r s) (hq : [.counts] ⊆ ps := by decide) : OnlyChanges ps r (perfLater i n s) :=
  h.then (ps := [.counts]) (OnlyChanges.next (ps := [.counts]) (OnlyChanges.refl s) fun p hp => by cases p <;> simp [Part.same, perfLater] at hp ⊢) hq
theorem raisePlane_frame {p : Nat} {f : Flags} (h : OnlyChanges ps r s) (hq : [.setNow, .regs] ⊆ ps := by decide) : OnlyChanges ps r (raisePlane p f s) :=
  h.then (ps := [.setNow, .regs]) (.ite (OnlyChanges.refl s) (.when (orReg_frame (OnlyChanges.refl s)) fun h1 => irq_frame h1)) hq
theorem raiseLedger_frame {l : Nat} {f : Flags} (h : OnlyChanges ps r s) (hq : [.ledgers] ⊆ ps := by decide) : OnlyChanges ps r (raiseLedger l f s) :=
  h.then (ps := [.ledgers]) (.ite (OnlyChanges.refl s) (setLedger_frame (OnlyChanges.refl s))) hq
theorem closeLedgerChain_frame {l : Nat} (h : OnlyChanges ps r s) (hq : [.log] ⊆ ps := by decide) : OnlyChanges ps r (closeLedgerChain l s) :=
  h.then (ps := [.log]) (OnlyChanges.next (ps := [.log]) (OnlyChanges.refl s) fun p hp => by cases p <;> simp [Part.same, closeLedgerChain] at hp ⊢) hq
theorem closeSourceChain_frame {src : BitVec 16} (h : OnlyChanges ps r s) (hq : [.log] ⊆ ps := by decide) : OnlyChanges ps r (closeSourceChain src s) :=
  h.then (ps := [.log]) (OnlyChanges.next (ps := [.log]) (OnlyChanges.refl s) fun p hp => by cases p <;> simp [Part.same, closeSourceChain] at hp ⊢) hq

end

/-! ### What a register reads after a write -/

section
variable {r s t : State} {but : List Nat} {a b n : Nat} {v : Word}

theorem reg_orReg_self (h : tableWfBy regReset s.regs = true) : reg a (orReg a v s) = reg a s ||| v := reg_setReg_self h
theorem reg_orReg_ne (h : b ≠ a) : reg b (orReg a v s) = reg b s := reg_setReg_ne h
theorem reg_irq_self (h : tableWfBy regReset s.regs = true) : reg (rIrqRaw a) (irq a n s) = reg (rIrqRaw a) s ||| bit n := reg_setReg_self h
theorem reg_irq_ne (h : b ≠ rIrqRaw a) : reg b (irq a n s) = reg b s := reg_setReg_ne h
theorem reg_count_self (h : tableWfBy regReset s.regs = true) : reg a (count a n s) = satAdd (reg a s) n := reg_setReg_self h
theorem reg_count_ne (h : b ≠ a) : reg b (count a n s) = reg b s := reg_setReg_ne h
theorem reg_clearBits_self (h : tableWfBy regReset s.regs = true) :
    reg a (clearBits a v s) = reg a s &&& ~~~(v &&& ~~~(tget 0#32 a s.setNow)) := reg_setReg_self h
theorem reg_clearBits_ne (h : b ≠ a) : reg b (clearBits a v s) = reg b s := reg_setReg_ne h

theorem bit_getLsbD_self (h : n < 32) : (bit n).getLsbD n = true := by
  rw [bit, BitVec.getLsbD_ofNat, Nat.testBit_two_pow_self]
  simp [h]

/-- A cause that an event raises is set. -/
theorem irq_raised (h : tableWfBy regReset s.regs = true) (hn : n < 32) : (reg (rIrqRaw a) (irq a n s)).getLsbD n = true := by
  rw [reg_irq_self h, BitVec.getLsbD_or, bit_getLsbD_self hn, Bool.or_true]

/-- A later event clears no bit that one before it has set. -/
theorem getLsbD_orReg {k : Nat} (hw : tableWfBy regReset s.regs = true) (h : (reg b s).getLsbD k = true) : (reg b (orReg a v s)).getLsbD k = true := by
  by_cases e : b = a
  · subst e
    rw [reg_orReg_self hw, BitVec.getLsbD_or, h, Bool.true_or]
  · rwa [reg_orReg_ne e]

theorem RegsKeep.refl (s : State) : RegsKeep but s s := fun _ _ => rfl
theorem RegsKeep.then (h : RegsKeep but r s) (h' : RegsKeep but s t) : RegsKeep but r t := fun a ha => (h' a ha).trans (h a ha)
theorem RegsKeep.mono {but' : List Nat} (h : RegsKeep but r s) (hb : but ⊆ but') : RegsKeep but' r s := fun a ha => h a fun hm => ha (hb hm)
theorem RegsKeep.frame {ps : List Part} (h : RegsKeep but r s) (h' : OnlyChanges ps s t) (hp : .regs ∉ ps := by decide) : RegsKeep but r t :=
  h.then fun a _ => h'.reg_eq hp a

theorem setReg_regsKeep (h : RegsKeep but r s) (ha : a ∈ but) : RegsKeep but r (setReg a v s) :=
  h.then fun _ hb => reg_setReg_ne (ne_of_mem_of_not_mem ha hb).symm
theorem orReg_regsKeep (h : RegsKeep but r s) (ha : a ∈ but) : RegsKeep but r (orReg a v s) := setReg_regsKeep h ha
theorem irq_regsKeep (h : RegsKeep but r s) (ha : rIrqRaw a ∈ but) : RegsKeep but r (irq a n s) := setReg_regsKeep h ha
theorem count_regsKeep (h : RegsKeep but r s) (ha : a ∈ but) : RegsKeep but r (count a n s) := setReg_regsKeep h ha
theorem clearBits_regsKeep (h : RegsKeep but r s) (ha : a ∈ but) : RegsKeep but r (clearBits a v s) := setReg_regsKeep h ha

/-- What every step keeps holds of what an operation leaves. -/
theorem Keeps.regsWf (h : Keeps r s) (hw : r.tablesWf = true) : tableWfBy regReset s.regs = true := regs_wf (h.tablesWf hw)

end

end Sys2Proof.Machine
end

section
/-! PROOF. Writes of the owner in their turn (R61 to R65), the tally port's requests, and the tally window. -/

namespace Sys2Proof.Machine

-- The inclusions that frames ask for are auto parameters, whose code is compiled: with proofs elaborated in order no thread waits for it.
set_option Elab.async false

/-! ### A write in its turn -/

/-- An access of a management port applies now: the port exists, serves and has no earlier request, and no fabric-fatal fault has ended service. -/
def PortTurn (port : Nat) (c : Instr) (s : State) : Prop :=
  port < s.build.mgmtPorts ∧ mgmtServes s = true ∧ requestsAt port s = [] ∧ s.clock.fabFault = false ∧ applies c s = true

section
variable {s : State} {port master : Nat} {c : Instr}

theorem withReached_tablesWf (q : Place) (s : State) : (withReached q s).tablesWf = s.tablesWf := rfl

theorem OwnerTurn.portTurn (h : OwnerTurn port master c s) : PortTurn port c s :=
  let ⟨hport, hserve, hreq, hfab, _, ha⟩ := h
  ⟨hport, hserve, hreq, hfab, ha⟩

theorem OwnerTurn.owner (h : OwnerTurn port master c s) : isOwner (.mgmt port master) s = true :=
  let ⟨_, _, _, _, ho, _⟩ := h
  ho

/-- An access that applies now has its effect at some place of the transit. -/
theorem answers_onMgmt {f : State → State} {P : State → Prop} (ht : PortTurn port c s)
    (he : exec c s = onAgent (.mgmt port master) c f s) (hc : inputOf c = none) (hP : ∀ q, P (f (withReached q s))) : Answers c s P := by
  obtain ⟨hport, -, -, -, ha⟩ := ht
  obtain ⟨q, hq⟩ := atPlace_eq_withReached hc s
  exact ⟨_, by rw [he, onAgent, if_pos (by simpa [hasAgent] using hport), inTransit_of_applies ha], hq ▸ hP q⟩

/-- An admitted write of a good address does what the register's write does, and its port answers. -/
theorem accessWrite_admitted {addr : Nat} {v : Word} (ht : PortTurn port c s) (hadm : isOwner (.mgmt port master) s = true ∨ ownRegister port addr = true)
    (hbad : badAddr addr = false) (q : Place)
    (hreq : (writeReg (some (port, master)) 0 addr v (withReached q s)).owner.requests = s.owner.requests) :
    accessWrite (.mgmt port master) addr v (withReached q s)
      = present (.mgmtRsp port master 0#32 false) (writeReg (some (port, master)) 0 addr v (withReached q s)) := by
  obtain ⟨-, hserve, hq, hfab, -⟩ := ht
  have hserve' : mgmtServes (withReached q s) = true := hserve
  have hfab' : (withReached q s).clock.fabFault = false := hfab
  have hadm' : (!isOwner (.mgmt port master) (withReached q s) && !ownRegister port addr) = false := by
    rcases hadm with h | h
    · rw [show isOwner (.mgmt port master) (withReached q s) = true from h]
      rfl
    · rw [h]
      simp
  have hreq' : requestsAt port (writeReg (some (port, master)) 0 addr v (withReached q s)) = [] := by rw [requestsAt, hreq]; exact hq
  simp [accessWrite, mgmtWrite, hserve', hfab', hadm', hbad, answer_of_no_requests hreq']

/-- A read of a good address answers the value as it stands, and then has its effect. -/
theorem accessRead_turn {addr : Nat} (ht : PortTurn port c s) (hbad : badAddr addr = false) (q : Place) :
    accessRead (.mgmt port master) addr (withReached q s)
      = present (.mgmtRsp port master (readValue 0 addr (withReached q s)) false)
        (readEffect (isOwner (.mgmt port master) s) 0 addr (withReached q s)) := by
  obtain ⟨-, hserve, hq, -, -⟩ := ht
  have hserve' : mgmtServes (withReached q s) = true := hserve
  have hown' : isOwner (.mgmt port master) (withReached q s) = isOwner (.mgmt port master) s := rfl
  have hreq' : requestsAt port (readEffect (isOwner (.mgmt port master) s) 0 addr (withReached q s)) = [] := by
    rw [requestsAt, readEffect_requests]
    exact hq
  simp [accessRead, mgmtRead, hserve', hown', hbad, answer_of_no_requests hreq']

/-- A command that is an admitted write: its port answers, and it does what the register's write does. -/
theorem answers_write {f : State → State} {addr : Nat} {v : Word} {w : State → State} {P : State → Prop} (ht : PortTurn port c s)
    (hadm : isOwner (.mgmt port master) s = true ∨ ownRegister port addr = true)
    (he : exec c s = onAgent (.mgmt port master) c f s) (hc : inputOf c = none) (hbad : badAddr addr = false)
    (hf : ∀ q, f (withReached q s) = accessWrite (.mgmt port master) addr v (withReached q s))
    (hw : ∀ q, writeReg (some (port, master)) 0 addr v (withReached q s) = w (withReached q s))
    (hreq : ∀ q, (w (withReached q s)).owner.requests = s.owner.requests)
    (hP : ∀ q, P (present (.mgmtRsp port master 0#32 false) (w (withReached q s)))) : Answers c s P := by
  refine answers_onMgmt ht he hc fun q => ?_
  rw [hf, accessWrite_admitted ht hadm hbad q (by rw [hw]; exact hreq q), hw]
  exact hP q

/-- A command of the owner that is a write. -/
theorem answers_ownerWrite {f : State → State} {addr : Nat} {v : Word} {w : State → State} {P : State → Prop} (ho : OwnerTurn port master c s)
    (he : exec c s = onAgent (.mgmt port master) c f s) (hc : inputOf c = none) (hbad : badAddr addr = false)
    (hf : ∀ q, f (withReached q s) = accessWrite (.mgmt port master) addr v (withReached q s))
    (hw : ∀ q, writeReg (some (port, master)) 0 addr v (withReached q s) = w (withReached q s))
    (hreq : ∀ q, (w (withReached q s)).owner.requests = s.owner.requests)
    (hP : ∀ q, P (present (.mgmtRsp port master 0#32 false) (w (withReached q s)))) : Answers c s P :=
  answers_write ho.portTurn (.inl ho.owner) he hc hbad hf hw hreq hP

/-- The frame of such a command: its place, what its write changes, and the answer. -/
theorem present_withReached_frame {ps : List Part} {q : Place} {t : State} {o : PortOut} (h : OnlyChanges ps (withReached q s) t)
    (hr : .reached ∈ ps := by decide) (ho : .out ∈ ps := by decide) : OnlyChanges ps s (present o t) :=
  (((withReached_onlyChanges q s).mono (by simpa using hr)).trans h).then (present_onlyChanges _ _) (by simpa using ho)

theorem withReached_frame {ps : List Part} {q : Place} {t : State} (h : OnlyChanges ps (withReached q s) t) (hr : .reached ∈ ps := by decide) :
    OnlyChanges ps s t := ((withReached_onlyChanges q s).mono (by simpa using hr)).trans h

end

/-! ### Requests of a tally port -/

section
variable {s a t : State} {stall : Nat}

theorem talliesKeep_setTally {i : Nat} {v : Word} (hi : i < 64) : TalliesKeep stall i s (setTally stall i v s) :=
  fun _ _ hj hne => tally_setTally_ne hi hj hne

/-- A command of a stall's port that applies now runs at some place of the transit. -/
theorem answers_onStall_withReached {c : Instr} {f : State → State} {P : State → Prop} (he : exec c s = onStall stall c f s) (hc : inputOf c = none)
    (hs : hasStall stall s = true) (ha : applies c s = true) (hP : ∀ q, P (f (withReached q s))) : Answers c s P := by
  obtain ⟨q, hq⟩ := atPlace_eq_withReached hc s
  exact answers_onStall he hs ha (hq ▸ hP q)

end

theorem tallyAddSubRead : Claims.TallyAddSubRead := by
  intro stall idx a s hw hs hr hi
  have hready (q : Place) : tallyReady stall (withReached q s) = true := hr
  refine ⟨fun ha => ?_, fun ha => ?_, fun ha => ?_⟩ <;> refine answers_onStall_withReached rfl rfl hs ha fun q => ?_
  · rw [tallyAddApply, tallyReq_ready (hready q) hi]
    exact ⟨tally_setTally_self (s := withReached q s) (tally_wf hw), talliesKeep_setTally (s := withReached q s) (by omega), rfl,
      withReached_frame (present_frame (addTally_frame (.refl _)))⟩
  · rw [tallySubApply, tallyReq_ready (hready q) hi]
    refine ⟨?_, talliesKeep_setTally (s := withReached q s) (by omega), rfl, withReached_frame (present_frame (addTally_frame (.refl _)))⟩
    exact (tally_setTally_self (s := withReached q s) (tally_wf hw)).trans (BitVec.sub_eq_add_neg _ _).symm
  · rw [tallyReadApply, tallyReq_ready (hready q) hi]
    exact ⟨rfl, withReached_frame (present_frame (.refl _))⟩

theorem tallyBadApply_bad {stall : Nat} {op : BitVec 3} {idx : BitVec 6} {s : State} (hr : tallyReady stall s = true) (hb : 48 ≤ idx.toNat ∨ 5 ≤ op.toNat) :
    tallyBadApply stall op idx s = badIndexAck stall s := by
  rcases hb with h | h <;> simp [tallyBadApply, hr, h]

theorem tallyBadIndex : Claims.TallyBadIndex := by
  intro stall op idx s hw hs hr hb ha
  refine answers_onStall_withReached rfl rfl hs ha fun q => ?_
  rw [tallyBadApply_bad (s := withReached q s) hr hb]
  have hregs := regs_wf hw
  have hst {v : StallSt} : stallAt stall (setStall stall v (present (.tlyAck stall 0#32 stBadIndex) (withReached q s))) = v :=
    stallAt_setStall_self (s := present _ (withReached q s)) (stalls_wf hw)
  refine ⟨rfl, congrArg StallSt.badIndex hst, ?_, irq_raised (s := setStall stall _ (present _ (withReached q s))) hregs (by decide),
    fun a ha => reg_irq_ne (by simpa using ha), fun n hn => stallAt_setStall_ne (s := present _ (withReached q s)) hn, ?_⟩
  · have hpend : (stallAt stall s).pend = none := by
      simp only [tallyReady, Bool.and_eq_true, Option.isNone_iff_eq_none] at hr
      exact hr.2
    exact (congrArg StallSt.pend hst).trans hpend
  · exact withReached_frame (irq_frame (setStall_frame (present_frame (.refl _))))

/-- Settles O5: a request of an idle port acknowledges what its tally then holds, or BAD_INDEX, which touches no tally. -/
theorem tallyOperations : Obligations.TallyOperations := ⟨tallyAddSubRead, tallyBadIndex⟩

/-! ### The tally window (R311) -/

section
variable {r s : State} {ps : List Part}

theorem windowWrite_frame {stall : Nat} {t : Nat} {off : Nat} {v : Word} (h : OnlyChanges ps r s) (hq : [.tallies] ⊆ ps := by decide) : OnlyChanges ps r (windowWrite stall t off v s) :=
  h.then (ps := [.tallies]) (.ite (OnlyChanges.refl s) (.ite (setTally_frame (OnlyChanges.refl s)) (.ite (addTally_frame (OnlyChanges.refl s)) (.ite
      (addTally_frame (OnlyChanges.refl s)) (OnlyChanges.refl s))))) hq
end

section
variable {s : State} {stall i off copy : Nat} {v : Word} {by_ : Option (Nat × Nat)}

theorem badAddr_tallyAddr (ho : off % 4 = 0) (hlt : off < 16) : badAddr (tallyAddr stall i off) = false := by
  have h1 : tallyAddr stall i off % 4 = 0 := by unfold tallyAddr; omega
  have h2 : ¬ 0x300000 ≤ tallyAddr stall i off := by unfold tallyAddr; omega
  simp [badAddr, h1, h2]

theorem writeReg_tallyAddr (hs : stall < 1024) (hi : i < 64) (ho : off < 16) : writeReg by_ copy (tallyAddr stall i off) v s = windowWrite stall i off v s := by
  have h1 : 0x200000 ≤ tallyAddr stall i off ∧ tallyAddr stall i off < 0x300000 := by unfold tallyAddr; omega
  have h2 : tallyAddr stall i off / 1024 % 1024 = stall := by unfold tallyAddr; omega
  have h3 : tallyAddr stall i off / 16 % 64 = i := by unfold tallyAddr; omega
  have h4 : tallyAddr stall i off % 16 = off := by unfold tallyAddr; omega
  rw [writeReg, if_pos h1.1, if_pos h1.2, h2, h3, h4]

theorem readValue_tallyAddr (hs : stall < 1024) (hi : i < 64) : readValue copy (tallyAddr stall i 0) s = if windowSlot stall i s then tally stall i s else 0#32 := by
  have h1 : 0x200000 ≤ tallyAddr stall i 0 ∧ tallyAddr stall i 0 < 0x300000 := by unfold tallyAddr; omega
  have h2 : tallyAddr stall i 0 / 1024 % 1024 = stall := by unfold tallyAddr; omega
  have h3 : tallyAddr stall i 0 / 16 % 64 = i := by unfold tallyAddr; omega
  have h4 : tallyAddr stall i 0 % 16 = 0 := by unfold tallyAddr; omega
  rw [readValue, if_pos h1.1, if_pos h1.2, h2, h3, h4, windowRead]
  simp

theorem readEffect_window {owner : Bool} {addr : Nat} (h : 0x100000 ≤ addr) : readEffect owner copy addr s = s := if_pos h

/-- What a write to a tally's slot leaves in it. -/
theorem windowWrite_tally {x : Word} (hw : tableWf 0#32 s.tabs.tallies = true) (hi : i < 64)
    (hx : windowSlot stall i s = true → windowWrite stall i off v s = setTally stall i x s) :
    tally stall i (windowWrite stall i off v s) = (if windowSlot stall i s then x else tally stall i s) ∧ TalliesKeep stall i s (windowWrite stall i off v s) := by
  cases hs : windowSlot stall i s with
  | true =>
    rw [hx hs]
    exact ⟨tally_setTally_self hw, talliesKeep_setTally hi⟩
  | false =>
    rw [windowWrite, if_pos (by simp [hs])]
    exact ⟨rfl, fun _ _ _ _ => rfl⟩

/-- A write command of the owner to a slot of the window. -/
theorem answers_windowWrite {port master : Nat} {c : Instr} {x : Word} (hw : s.tablesWf = true) (hs : stall < 1024) (hi : i < 64) (ho : OwnerTurn port master c s)
    (he : exec c s = onAgent (.mgmt port master) c (accessWrite (.mgmt port master) (tallyAddr stall i off) v) s) (hc : inputOf c = none)
    (hlt : off < 16) (h4 : off % 4 = 0)
    (hx : ∀ q, windowSlot stall i s = true → windowWrite stall i off v (withReached q s) = setTally stall i x (withReached q s)) :
    Answers c s fun t => tally stall i t = (if windowSlot stall i s then x else tally stall i s) ∧ TalliesKeep stall i s t ∧ Answered port master 0#32 s t
      ∧ OnlyChanges [.reached, .tallies, .out] s t := by
  have hf (q : Place) : OnlyChanges [.reached, .tallies, .out] (withReached q s) (windowWrite stall i off v (withReached q s)) := windowWrite_frame (.refl _)
  refine answers_ownerWrite ho he hc (badAddr_tallyAddr h4 hlt) (fun _ => rfl) (fun _ => writeReg_tallyAddr hs hi hlt) (fun q => (hf q).requests_eq) fun q => ?_
  obtain ⟨ht, hk⟩ := windowWrite_tally (s := withReached q s) (tally_wf hw) hi (hx q)
  exact ⟨ht, hk, congrArg (· ++ _) ((windowWrite_frame (ps := [.tallies]) (.refl (withReached q s))).out_eq), present_withReached_frame (hf q)⟩

end

/-- Settles O6: each slot of the window reaches one tally, or none. -/
theorem tallyWindow : Obligations.TallyWindow := by
  intro port master stall i v s hw hs hi
  have hin {q : Place} (h : windowSlot stall i s = true) : windowSlot stall i (withReached q s) = true := h
  refine ⟨fun ho => ?_, fun ho => ?_, fun ho => ?_, fun ho => ?_⟩
  · exact answers_windowWrite hw hs hi ho rfl rfl (by decide) (by decide) fun q h => by simp [windowWrite, hin h]
  · exact answers_windowWrite hw hs hi ho rfl rfl (by decide) (by decide) fun q h => by simp [windowWrite, hin h]; rfl
  · exact answers_windowWrite hw hs hi ho rfl rfl (by decide) (by decide) fun q h => by simp [windowWrite, hin h, addTally, BitVec.sub_eq_add_neg]; rfl
  · refine answers_onMgmt ho.portTurn rfl rfl fun q => ?_
    rw [accessRead_turn ho.portTurn (badAddr_tallyAddr (by decide) (by decide)), readValue_tallyAddr hs hi, readEffect_window (by unfold tallyAddr; omega)]
    exact ⟨rfl, present_withReached_frame (.refl _)⟩

end Sys2Proof.Machine
end

section
/-! PROOF. The error log's entries and the registers that an entry touches (R335 to R338, R392); ownership, mailboxes and the steward. -/

namespace Sys2Proof.Machine

-- The inclusions that frames ask for are auto parameters, whose code is compiled: with proofs elaborated in order no thread waits for it.
set_option Elab.async false

/-! ### An entry of the log -/

section
variable {s : State} {e : LogIn} {x : LogEntry} {l : List LogEntry}

/-- Codes whose entries come in the order in which they enter, whatever stands in the log (R335). -/
def plainCode (code : Nat) : Prop := code < 0x30 ∨ (0x34 < code ∧ code < 256)

theorem entersAfter_of_plain {y : LogEntry} {code : Nat} (hc : plainCode code) (he : x.code = BitVec.ofNat 8 code) : entersAfter x y = false := by
  have h1 : code % 256 = code := Nat.mod_eq_of_lt (by unfold plainCode at hc; omega)
  have hne : (x.code == 0x34#8) = false := by
    rw [he, beq_eq_false_iff_ne]
    intro h
    have := congrArg BitVec.toNat h
    simp only [BitVec.toNat_ofNat] at this
    unfold plainCode at hc
    omega
  have hr : (decide (0x30#8 ≤ x.code) && decide (x.code < 0x34#8)) = false := by
    rw [he, Bool.and_eq_false_iff, decide_eq_false_iff_not, decide_eq_false_iff_not, BitVec.le_def, BitVec.lt_def]
    simp only [BitVec.toNat_ofNat]
    unfold plainCode at hc
    omega
  unfold entersAfter
  rw [hne]
  cases h : (y.code == 0x34#8) <;> simp_all

theorem entriesWith_last (h : ∀ y, entersAfter x y = false) : entriesWith x l = l ++ [x] := by
  have ht : (l.reverse.takeWhile (entersAfter x)) = [] := by cases l.reverse <;> simp [h]
  simp [entriesWith, ht]

theorem entriesWith_length : (entriesWith x l).length = l.length + 1 := by
  simp only [entriesWith, List.length_append, List.length_take, List.length_cons, List.length_drop]
  omega

theorem openChain_entries : (openChain e s).log.entries = s.log.entries := by
  unfold openChain
  dsimp only
  split
  · rfl
  · split <;> split <;> rfl

theorem logPush_entries (h : LogRoom s) : (logPush x s).log.entries = entriesWith x s.log.entries := by
  unfold LogRoom at h
  have hroom : (decide (s.log.entries.length < 31) || (x.cls == clsFabricFatal && decide (s.log.entries.length < 32))) = true := by simp [h]
  unfold logPush
  simp only [hroom, if_true]
  split_ifs <;> rfl

theorem logFault_log : (logFault e s).log = (logPush (entryOf e s) (openChain e s)).log := by
  have h (t : State) : OnlyChanges [.setNow, .regs] t (codeIrq e.code (entryPage e) (attribute_ e t)) := codeIrq_frame (entryAttributed_frame (.refl t))
  exact h _ .log (by decide)

theorem logFault_entries (h : LogRoom s) : (logFault e s).log.entries = entriesWith (entryOf e s) s.log.entries := by
  rw [logFault_log, logPush_entries (by unfold LogRoom; rw [openChain_entries]; exact h), openChain_entries]

theorem logFault_logged (hr : LogRoom s) (hc : plainCode e.code) : Logged e.code e.cls e.src s (logFault e s) :=
  ⟨entryOf e s, by rw [logFault_entries hr, entriesWith_last fun y => entersAfter_of_plain hc rfl], rfl, rfl, rfl, rfl⟩

theorem notice_logged {code : Nat} {src : BitVec 16} (hr : LogRoom s) (hc : plainCode code) : Logged code 0 src s (notice code src s) :=
  logFault_logged (e := ⟨code, clsNotice, src, none, none⟩) hr hc

/-- An entry stands in what later operations leave that keep the log. -/
theorem Logged.of_eq {code cls : Nat} {src : BitVec 16} {t a b : State} (h : Logged code cls src a b) (hl : a.log = s.log) (hc : a.clock.transit = s.clock.transit)
    (hb : t.log = b.log) : Logged code cls src s t := by
  obtain ⟨e, he, h1, h2, h3, h4⟩ := h
  exact ⟨e, by rw [hb, he, hl], h1, h2, h3, by rw [h4, hc]⟩

end

/-! ### What an entry does to registers -/

section
variable {r s : State} {but : List Nat} {e : LogIn} {x : LogEntry} {code page a k : Nat}

/-- The registers that an entry attributed to a page may change (R337, R391, R392). -/
def logRegs (page : Nat) : List Nat :=
  [rErrCode page, rErrCount page, rErrCode pERRLOG, rErrCount pERRLOG, rOVERRUN, rIrqRaw pERRLOG, rIrqRaw page]

/-- The state has raised at most one cause of a page. -/
def RaisedAtMost (page : Nat) (s t : State) : Prop := t = s ∨ ∃ b, t = irq page b s

theorem codeIrq_cases : RaisedAtMost page s (codeIrq code page s) := by
  have hi (b : Nat) : RaisedAtMost page s (irq page b s) := .inr ⟨b, rfl⟩
  have h0 : RaisedAtMost page s s := .inl rfl
  unfold codeIrq
  repeat' refine ite_ok ?_ ?_
  all_goals simp only [hi, h0]

theorem RegsKeep.ite {p : Prop} [Decidable p] {t u : State} (ha : RegsKeep but r t) (hb : RegsKeep but r u) : RegsKeep but r (if p then t else u) := by
  split
  · exact ha
  · exact hb

theorem RegsKeep.when {p : Prop} [Decidable p] {t u : State} (hb : RegsKeep but r u) (ha : RegsKeep but r u → RegsKeep but r t) :
    RegsKeep but r (if p then t else u) := .ite (ha hb) hb

theorem codeIrq_regsKeep (h : RegsKeep but r s) (hp : rIrqRaw page ∈ but) : RegsKeep but r (codeIrq code page s) := by
  rcases codeIrq_cases (s := s) (code := code) (page := page) with e | ⟨b, e⟩
  · rwa [e]
  · rw [e]
    exact irq_regsKeep h hp

theorem logPush_regsKeep (h : RegsKeep but r s) (hp : rIrqRaw pERRLOG ∈ but) (ho : rOVERRUN ∈ but) : RegsKeep but r (logPush x s) :=
  have hi {b : Nat} {t : State} (ht : RegsKeep but r t) : RegsKeep but r (irq pERRLOG b t) := irq_regsKeep ht hp
  .ite (.when (.when (.when (.when (h.frame (ps := [.log]) (fun p hp => by cases p <;> simp [Part.same] at hp ⊢)) hi) hi) hi) hi)
    (.when (.ite (hi (count_regsKeep h ho)) h) hi)

theorem logFault_regsKeep (h : RegsKeep but r s) (hb : logRegs (entryPage e) ⊆ but) : RegsKeep but r (logFault e s) := by
  simp only [logRegs, List.cons_subset, List.nil_subset, and_true] at hb
  obtain ⟨h1, h2, h3, h4, h5, h6, h7⟩ := hb
  have ho : RegsKeep but r (openChain e s) := h.frame (ps := [.log]) (openChain_frame (.refl s))
  exact codeIrq_regsKeep (count_regsKeep (setReg_regsKeep (count_regsKeep (setReg_regsKeep (logPush_regsKeep ho h6 h5) h1) h2) h3) h4) h7

theorem reg_logFault_ne (ha : a ∉ logRegs (entryPage e)) : reg a (logFault e s) = reg a s :=
  logFault_regsKeep (.refl s) (List.Subset.refl _) a ha

theorem reg_notice_ne {src : BitVec 16} (ha : a ∉ logRegs (codePage code src)) : reg a (notice code src s) = reg a s :=
  reg_logFault_ne (e := ⟨code, clsNotice, src, none, none⟩) ha

theorem rIrqRaw_ne {p q : Nat} : rIrqRaw p ≠ rErrCode q ∧ rIrqRaw p ≠ rErrCount q ∧ rIrqRaw p ≠ rOVERRUN := by
  unfold rIrqRaw rErrCode rErrCount rOVERRUN pageBase
  omega

/-- A set bit of a register stays set where only events touch the register. -/
def BitStays (a k : Nat) (s t : State) : Prop := (reg a s).getLsbD k = true → (reg a t).getLsbD k = true

theorem irq_bitStays (hw : s.tablesWf = true) {b : Nat} : BitStays a k s (irq page b s) := fun h => getLsbD_orReg (regs_wf hw) h

theorem codeIrq_bitStays (hw : s.tablesWf = true) : BitStays a k s (codeIrq code page s) := by
  rcases codeIrq_cases (s := s) (code := code) (page := page) with e | ⟨b, e⟩
  · rw [e]
    exact id
  · rw [e]
    exact irq_bitStays hw

theorem ite_bitStays {p : Prop} [Decidable p] {t u : State} (ht : BitStays a k s t) (hu : BitStays a k s u) : BitStays a k s (if p then t else u) := by
  split
  · exact ht
  · exact hu

theorem whenIrq_bitStays {p : Prop} [Decidable p] {b : Nat} {t : State} (hw : s.tablesWf = true) (hk : Keeps s t) (h : BitStays a k s t) :
    BitStays a k s (if p then irq page b t else t) := ite_bitStays (fun hb => irq_bitStays (hk.tablesWf hw) (h hb)) h

theorem logPush_bitStays {p : Nat} (hw : s.tablesWf = true) : BitStays (rIrqRaw p) k s (logPush x s) := by
  obtain ⟨-, -, hne⟩ := rIrqRaw_ne (p := p) (q := p)
  have hk : Keeps s { s with log := { s.log with entries := entriesWith x s.log.entries } } :=
    { Keeps.refl s with log := { (Keeps.refl s).log with } }
  refine ite_bitStays ?_ (whenIrq_bitStays hw (.ite (irq_keeps (count_keeps (.refl s))) (.refl s)) (ite_bitStays ?_ id))
  · exact whenIrq_bitStays hw (.when (.when (.when hk irq_keeps) irq_keeps) irq_keeps)
      (whenIrq_bitStays hw (.when (.when hk irq_keeps) irq_keeps) (whenIrq_bitStays hw (.when hk irq_keeps) (whenIrq_bitStays hw hk id)))
  · exact fun h => irq_bitStays ((count_keeps (.refl s)).tablesWf hw) (by rwa [reg_count_ne hne])

theorem logFault_bitStays {p : Nat} (hw : s.tablesWf = true) : BitStays (rIrqRaw p) k s (logFault e s) := by
  have ho : Keeps s (openChain e s) := openChain_keeps (.refl s)
  have hl : Keeps s (logPush (entryOf e s) (openChain e s)) := logPush_keeps ho
  intro h
  have h' : (reg (rIrqRaw p) (openChain e s)).getLsbD k = true := by
    rw [(openChain_frame (ps := [.log]) (.refl s)).reg_eq (by decide)]
    exact h
  have h'' := logPush_bitStays (x := entryOf e s) (ho.tablesWf hw) h'
  refine codeIrq_bitStays ((entryAttributed_keeps hl).tablesWf hw) ?_
  unfold attribute_
  dsimp only
  rwa [reg_count_ne rIrqRaw_ne.2.1, reg_setReg_ne rIrqRaw_ne.1, reg_count_ne rIrqRaw_ne.2.1, reg_setReg_ne rIrqRaw_ne.1]

/-- The cause that a code raises on its page is set once its entry has been made. -/
theorem logFault_raises {b : Nat} (hw : s.tablesWf = true) (hb : b < 32) (hc : ∀ t, codeIrq e.code (entryPage e) t = irq (entryPage e) b t) :
    (reg (rIrqRaw (entryPage e)) (logFault e s)).getLsbD b = true := by
  have hk : Keeps s (attribute_ e (logPush (entryOf e s) (openChain e s))) := entryAttributed_keeps (logPush_keeps (openChain_keeps (.refl s)))
  rw [logFault, hc]
  exact irq_raised (hk.regsWf hw) hb

end

end Sys2Proof.Machine
end

section
/-! PROOF. Ownership, the mailboxes, refused and bad accesses, and the steward (R61 to R63, R373 to R379, R397 to R399, R404). -/

namespace Sys2Proof.Machine

-- The inclusions that frames ask for are auto parameters, whose code is compiled: with proofs elaborated in order no thread waits for it.
set_option Elab.async false

/-! ### Frames -/

section
variable {r s : State} {ps : List Part}

theorem claimWrite_frame {port : Nat} {master : Nat} {nonce : BitVec 16} (h : OnlyChanges ps r s) (hq : [.owner] ⊆ ps := by decide) : OnlyChanges ps r (claimWrite port master nonce s) :=
  h.then (ps := [.owner]) (.ite (OnlyChanges.refl s) (OnlyChanges.next (ps := [.owner]) (OnlyChanges.refl s) fun p hp => by cases p <;> simp [Part.same] at hp ⊢)) hq
theorem newOwner_frame {port : Nat} {master : Nat} {nonce : BitVec 16} (h : OnlyChanges ps r s) (hq : [.setNow, .regs, .owner] ⊆ ps := by decide) : OnlyChanges ps r (newOwner port master nonce s) :=
  h.then (ps := [.setNow, .regs, .owner]) (irq_frame (OnlyChanges.next (ps := [.owner]) (OnlyChanges.refl s) fun p hp => by cases p <;> simp [Part.same] at hp ⊢)) hq
theorem ownerElectionApply_frame (h : OnlyChanges ps r s) (hq : [.setNow, .regs, .owner, .clock] ⊆ ps := by decide) : OnlyChanges ps r (ownerElectionApply s) := by
  refine h.then (ps := [.setNow, .regs, .owner, .clock]) ?_ hq
  unfold ownerElectionApply
  dsimp only
  refine .ite (OnlyChanges.refl s) ?_
  split
  · exact OnlyChanges.refl s
  · exact .when (newOwner_frame (OnlyChanges.next (ps := [.owner]) (OnlyChanges.refl s) fun p hp => by cases p <;> simp [Part.same] at hp ⊢)) fun h1 => OnlyChanges.next (ps := [.clock]) h1 fun p hp => by cases p <;> simp [Part.same] at hp ⊢
theorem offerWrite_frame {v : Word} (h : OnlyChanges ps r s) (hq : [.regs, .owner] ⊆ ps := by decide) : OnlyChanges ps r (offerWrite v s) :=
  h.then (ps := [.regs, .owner]) (setReg_frame (OnlyChanges.next (ps := [.owner]) (OnlyChanges.refl s) fun p hp => by cases p <;> simp [Part.same] at hp ⊢)) hq
theorem offerEnd_frame (h : OnlyChanges ps r s) (hq : [.regs] ⊆ ps := by decide) : OnlyChanges ps r (offerEnd s) :=
  h.then (ps := [.regs]) (setReg_frame (OnlyChanges.refl s)) hq
theorem acceptWrite_frame {port : Nat} {master : Nat} {nonce : BitVec 16} (h : OnlyChanges ps r s) (hq : [.regs, .owner, .setNow, .log] ⊆ ps := by decide) : OnlyChanges ps r (acceptWrite port master nonce s) :=
  h.then (ps := [.regs, .owner, .setNow, .log]) (.ite (offerEnd_frame (OnlyChanges.next (ps := [.owner]) (OnlyChanges.refl s) fun p hp => by cases p <;> simp [Part.same] at hp ⊢)) (notice_frame (OnlyChanges.refl s))) hq
theorem offerLapseApply_frame (h : OnlyChanges ps r s) (hq : [.regs] ⊆ ps := by decide) : OnlyChanges ps r (offerLapseApply s) :=
  h.then (ps := [.regs]) (.ite (offerEnd_frame (OnlyChanges.refl s)) (OnlyChanges.refl s)) hq
theorem heartbeatNow_frame (h : OnlyChanges ps r s) (hq : [.owner] ⊆ ps := by decide) : OnlyChanges ps r (heartbeatNow s) :=
  h.then (ps := [.owner]) (OnlyChanges.next (ps := [.owner]) (OnlyChanges.refl s) fun p hp => by cases p <;> simp [Part.same, heartbeatNow] at hp ⊢) hq
theorem ownerVacantApply_frame (h : OnlyChanges ps r s) (hq : [.regs, .setNow, .log, .owner] ⊆ ps := by decide) : OnlyChanges ps r (ownerVacantApply s) :=
  h.then (ps := [.regs, .setNow, .log, .owner]) (.ite (offerEnd_frame (notice_frame (OnlyChanges.next (ps := [.owner]) (OnlyChanges.refl s) fun p hp => by cases p <;> simp [Part.same] at hp ⊢))) (OnlyChanges.refl s)) hq
theorem rejectWrite_frame {port : Nat} {master : Nat} {addr : Nat} (h : OnlyChanges ps r s) (hq : [.regs, .setNow, .log] ⊆ ps := by decide) : OnlyChanges ps r (rejectWrite port master addr s) :=
  h.then (ps := [.regs, .setNow, .log]) (.when (setReg_frame (irq_frame (count_frame (OnlyChanges.refl s)))) fun h1 => notice_frame h1) hq
theorem mailWrite_frame {port : Nat} {v : Word} (h : OnlyChanges ps r s) (hq : [.owner, .setNow, .regs] ⊆ ps := by decide) : OnlyChanges ps r (mailWrite port v s) :=
  h.then (ps := [.owner, .setNow, .regs]) (.ite (OnlyChanges.next (ps := [.owner]) (OnlyChanges.refl s) fun p hp => by cases p <;> simp [Part.same] at hp ⊢) (irq_frame (OnlyChanges.next (ps := [.owner]) (OnlyChanges.refl s) fun p hp => by cases p <;> simp [Part.same] at hp ⊢))) hq
theorem mailboxTake_frame {port : Nat} {v : Word} (h : OnlyChanges ps r s) (hq : [.boot, .owner, .setNow, .regs] ⊆ ps := by decide) : OnlyChanges ps r (mailboxTake port v s) :=
  h.then (ps := [.boot, .owner, .setNow, .regs]) (.ite (.ite (OnlyChanges.next (ps := [.boot]) (OnlyChanges.refl s) fun p hp => by cases p <;> simp [Part.same] at hp ⊢) (OnlyChanges.refl s)) (mailWrite_frame (OnlyChanges.refl s))) hq
theorem mailRead_frame {port : Nat} (h : OnlyChanges ps r s) (hq : [.owner] ⊆ ps := by decide) : OnlyChanges ps r (mailRead port s) :=
  h.then (ps := [.owner]) (OnlyChanges.next (ps := [.owner]) (OnlyChanges.refl s) fun p hp => by cases p <;> simp [Part.same, mailRead] at hp ⊢) hq
theorem kickNow_frame (h : OnlyChanges ps r s) (hq : [.steward] ⊆ ps := by decide) : OnlyChanges ps r (kickNow s) :=
  h.then (ps := [.steward]) (OnlyChanges.next (ps := [.steward]) (OnlyChanges.refl s) fun p hp => by cases p <;> simp [Part.same, kickNow] at hp ⊢) hq
theorem setStewardState_frame {n : Nat} (h : OnlyChanges ps r s) (hq : [.regs] ⊆ ps := by decide) : OnlyChanges ps r (setStewardState n s) :=
  h.then (ps := [.regs]) (setReg_frame (OnlyChanges.refl s)) hq
theorem stewardStart_frame (h : OnlyChanges ps r s) (hq : [.regs, .steward] ⊆ ps := by decide) : OnlyChanges ps r (stewardStart s) :=
  h.then (ps := [.regs, .steward]) (setStewardState_frame (OnlyChanges.next (ps := [.steward]) (OnlyChanges.refl s) fun p hp => by cases p <;> simp [Part.same] at hp ⊢)) hq
theorem stewardRestartNow_frame (h : OnlyChanges ps r s) (hq : [.regs, .steward] ⊆ ps := by decide) : OnlyChanges ps r (stewardRestartNow s) :=
  h.then (ps := [.regs, .steward]) (.ite (stewardStart_frame (OnlyChanges.next (ps := [.steward]) (OnlyChanges.refl s) fun p hp => by cases p <;> simp [Part.same] at hp ⊢)) (OnlyChanges.refl s)) hq
theorem noteErr_frame {code : Nat} {id : Nat} {addr : Nat} (h : OnlyChanges ps r s) (hq : [.regs] ⊆ ps := by decide) : OnlyChanges ps r (noteErr code id addr s) :=
  h.then (ps := [.regs]) (setReg_frame (setReg_frame (setReg_frame (OnlyChanges.refl s)))) hq
theorem guardHit_frame {code : Nat} {addr : Nat} (h : OnlyChanges ps r s) (hq : [.regs, .setNow, .log] ⊆ ps := by decide) : OnlyChanges ps r (guardHit code addr s) :=
  h.then (ps := [.regs, .setNow, .log]) (setReg_frame (count_frame (notice_frame (OnlyChanges.refl s)))) hq
theorem stewardGuardApply_frame {a : StewardAction} (h : OnlyChanges ps r s) (hq : [.regs, .setNow, .log] ⊆ ps := by decide) : OnlyChanges ps r (stewardGuardApply a s) := by
  refine h.then (ps := [.regs, .setNow, .log]) ?_ hq
  unfold stewardGuardApply
  dsimp only
  refine .ite (OnlyChanges.refl s) ?_
  refine guardHit_frame ?_
  split
  · exact noteErr_frame (OnlyChanges.refl s)
  · exact OnlyChanges.refl s

end

section
variable {r s : State} {ps : List Part}

theorem setResetTimes_frame (l : List Nat) (h : OnlyChanges ps r s) (hq : [.steward] ⊆ ps := by decide) :
    OnlyChanges ps r { s with steward := { s.steward with resetTimes := l } } :=
  h.then (ps := [.steward]) (fun p hp => by cases p <;> simp [Part.same] at hp ⊢) hq

theorem stewardWatchdogApply_frame (h : OnlyChanges ps r s) (hq : [.setNow, .regs, .log, .steward] ⊆ ps := by decide) :
    OnlyChanges ps r (stewardWatchdogApply s) := by
  have hn : OnlyChanges [.setNow, .regs, .log, .steward] s (count rWDOG_RESETS 1 (notice 0x74 stewardSource s)) := count_frame (notice_frame (.refl s))
  exact h.then (.ite (.refl s)
    (.ite (irq_frame (setStewardState_frame (notice_frame (setResetTimes_frame _ hn)))) (stewardStart_frame (setResetTimes_frame _ hn)))) hq

end

/-! ### Words of fields -/

section
variable {w : Word} {n : Nat}

theorem setWidth_extractLsb' (v : BitVec 16) : (v.setWidth 32).extractLsb' 0 16 = v := by
  ext i hi
  simp [BitVec.getElem_extractLsb', hi]
  intro h
  omega

theorem low2_clear : (w &&& ~~~3#32).toNat % 4 = 0 := by
  have h : (w &&& ~~~3#32).extractLsb' 0 2 = 0#2 := by
    ext i hi
    interval_cases i <;> simp
  simpa using congrArg BitVec.toNat h

theorem fieldOf_low_set (h : n < 4) : fieldOf ((w &&& ~~~3#32) ||| BitVec.ofNat 32 n) 0 2 = n := by
  have hn : (BitVec.ofNat 32 n).toNat = n := by simp; omega
  unfold fieldOf bitsAt
  rw [BitVec.toNat_or, hn, Nat.shiftRight_zero, Nat.or_mod_two_pow, show (2 ^ 2 : Nat) = 4 from rfl, low2_clear, Nat.zero_or]
  omega

end

section
variable {s : State} {n : Nat}

theorem stewardState_set (hw : tableWfBy regReset s.regs = true) (h : n < 4) : stewardState (setStewardState n s) = n := by
  unfold stewardState setStewardState
  rw [reg_setReg_self hw, fieldOf_low_set h]

end

/-! ### Claims and accepts (R373, R374) -/

section
variable {s : State} {port master : Nat}

theorem bankPort_self {base : Nat} (h : port < 4) (hb : port < s.build.mgmtPorts) : bankPort (base + 4 * port) base s = some port := by
  unfold bankPort
  rw [if_pos (by omega)]
  congr 1
  omega

theorem bankPort_other {off base : Nat} (h : off < base ∨ base + 16 ≤ off) : bankPort off base s = none := by
  unfold bankPort
  rw [if_neg (by omega)]

theorem writeReg_ownerPage {by_ : Option (Nat × Nat)} {copy off : Nat} {v : Word} (h : 0x040 ≤ off) (hlt : off < 0x1000) :
    writeReg by_ copy (0x01000 + off) v s = ownerWrite by_ off v s := by
  have h1 : (0x01000 + off) / 0x1000 = 1 := by omega
  have h2 : (0x01000 + off) % 0x1000 = off := by omega
  simp only [writeReg, if_neg (show ¬ 0x200000 ≤ 0x01000 + off by omega), if_neg (show ¬ 0x100000 ≤ 0x01000 + off by omega), h1, h2,
    if_neg (show ¬ off < 0x040 by omega)]
  rfl

theorem ownerWrite_claim {v : Word} (h : port < 4) (hb : port < s.build.mgmtPorts) :
    writeReg (some (port, master)) 0 (0x01060 + 4 * port) v s = claimWrite port master (v.extractLsb' 0 16) s := by
  rw [show 0x01060 + 4 * port = 0x01000 + (0x060 + 4 * port) by omega, writeReg_ownerPage (by omega) (by omega)]
  simp only [ownerWrite, if_neg (show ¬ 0x060 + 4 * port = 0x048 by omega), if_neg (show ¬ 0x060 + 4 * port = 0x04C by omega),
    if_neg (show ¬ 0x060 + 4 * port = 0x050 by omega), if_neg (show ¬ 0x060 + 4 * port = 0x054 by omega), bankPort_self h hb, if_true]

theorem ownerWrite_accept {v : Word} (h : port < 4) (hb : port < s.build.mgmtPorts) :
    writeReg (some (port, master)) 0 (0x01080 + 4 * port) v s = acceptWrite port master (v.extractLsb' 0 16) s := by
  rw [show 0x01080 + 4 * port = 0x01000 + (0x080 + 4 * port) by omega, writeReg_ownerPage (by omega) (by omega)]
  simp only [ownerWrite, if_neg (show ¬ 0x080 + 4 * port = 0x048 by omega), if_neg (show ¬ 0x080 + 4 * port = 0x04C by omega),
    if_neg (show ¬ 0x080 + 4 * port = 0x050 by omega), if_neg (show ¬ 0x080 + 4 * port = 0x054 by omega), bankPort_self h hb,
    bankPort_other (show 0x080 + 4 * port < 0x060 ∨ 0x060 + 16 ≤ 0x080 + 4 * port by omega), if_true]

theorem ownerWrite_mailbox {by_ : Nat × Nat} {v : Word} (h : port < 4) (hb : port < s.build.mgmtPorts) :
    writeReg (some by_) 0 (0x01090 + 4 * port) v s = mailboxTake port v s := by
  rw [show 0x01090 + 4 * port = 0x01000 + (0x090 + 4 * port) by omega, writeReg_ownerPage (by omega) (by omega)]
  simp only [ownerWrite, if_neg (show ¬ 0x090 + 4 * port = 0x048 by omega), if_neg (show ¬ 0x090 + 4 * port = 0x04C by omega),
    if_neg (show ¬ 0x090 + 4 * port = 0x050 by omega), if_neg (show ¬ 0x090 + 4 * port = 0x054 by omega), bankPort_self h hb,
    bankPort_other (show 0x090 + 4 * port < 0x060 ∨ 0x060 + 16 ≤ 0x090 + 4 * port by omega),
    bankPort_other (show 0x090 + 4 * port < 0x080 ∨ 0x080 + 16 ≤ 0x090 + 4 * port by omega)]

theorem claims_wf (h : s.tablesWf = true) : tableWf none s.owner.claims = true := by
  simp only [State.tablesWf, Bool.and_eq_true] at h
  tauto

theorem mailbox_wf (h : s.tablesWf = true) : tableWf [] s.owner.mailbox = true := by
  simp only [State.tablesWf, Bool.and_eq_true] at h
  tauto

theorem mailOver_wf (h : s.tablesWf = true) : tableWf 0 s.owner.mailOver = true := by
  simp only [State.tablesWf, Bool.and_eq_true] at h
  tauto

end

theorem ownerClaims : Claims.OwnerClaims := by
  intro port master nonce s hw h4 hb hserve hreq hfab ha
  refine answers_write (w := claimWrite port master nonce) ⟨hb, hserve, hreq, hfab, ha⟩ (.inr (by simp [ownRegister])) rfl rfl
    (badAddr_of_aligned (by omega) (by omega)) (fun _ => rfl) (fun q => ?_) (fun q => ?_) fun q => ?_
  · rw [ownerWrite_claim (s := withReached q s) h4 hb, setWidth_extractLsb']
  · unfold claimWrite
    split <;> rfl
  · have hf : OnlyChanges [.owner] (withReached q s) (claimWrite port master nonce (withReached q s)) := claimWrite_frame (.refl _)
    refine ⟨?_, fun p hp => ?_, ?_, ?_, congrArg (· ++ _) hf.out_eq, present_withReached_frame (hf.mono (by decide))⟩ <;>
      unfold claimWrite <;> split
    · next h =>
      rw [Bool.or_eq_true, decide_eq_true_eq] at h
      exact (if_pos h).symm
    · next h =>
      rw [Bool.or_eq_true, decide_eq_true_eq] at h
      exact (tget_tset_self port _ _ (claims_wf hw)).trans (if_neg h).symm
    · rfl
    · exact tget_tset_ne hp _ _
    all_goals rfl

/-! ### The election (R373) -/

section
variable {t : Table (Option Claim)} {p : Nat} {c : Claim}

/-- In a canonical table the first claim is one that it holds. -/
theorem firstClaim_mem (h : firstClaim t = some (p, c)) : (p, some c) ∈ t := by
  induction t with
  | nil => simp [firstClaim] at h
  | cons x t ih =>
    obtain ⟨q, _ | d⟩ := x
    · exact List.mem_cons_of_mem _ (ih h)
    · unfold firstClaim at h
      split at h
      · next q' d' hf =>
        split at h
        · cases h
          exact List.mem_cons_of_mem _ (ih hf)
        · cases h
          exact List.mem_cons_self
      · cases h
        exact List.mem_cons_self

theorem firstClaim_isSome (h : (p, some c) ∈ t) : ∃ x, firstClaim t = some x := by
  induction t with
  | nil => cases h
  | cons x t ih =>
    obtain ⟨q, _ | d⟩ := x
    · exact ih (by simpa using h)
    · unfold firstClaim
      split
      · split <;> exact ⟨_, rfl⟩
      · exact ⟨_, rfl⟩

/-- The first claim is the earliest, and of those the one of the lowest port. -/
theorem firstClaim_le {q : Nat} {d : Claim} (hw : tableWf none t = true) (h : firstClaim t = some (p, c)) (hm : (q, some d) ∈ t) :
    c.transit.toNat < d.transit.toNat ∨ (c.transit.toNat = d.transit.toNat ∧ p ≤ q) := by
  induction t generalizing p c with
  | nil => cases hm
  | cons x t ih =>
    obtain ⟨hk, -, ht⟩ := tableWfBy_cons.1 hw
    have hkey {k : Nat} {e : Option Claim} (he : (k, e) ∈ t) : x.1 < k := by
      simp only [keysAbove, List.all_eq_true, decide_eq_true_eq] at hk
      exact hk _ he
    obtain ⟨k, _ | e⟩ := x
    · exact ih ht h (by simpa using hm)
    · unfold firstClaim at h
      split at h
      · next q' d' hf =>
        split at h
        · next hlt =>
          cases h
          rcases List.mem_cons.1 hm with hm | hm
          · cases hm
            exact .inl hlt
          · exact ih ht hf hm
        · next hge =>
          cases h
          rcases List.mem_cons.1 hm with hm | hm
          · cases hm
            exact .inr ⟨rfl, Nat.le_refl _⟩
          · have := hkey hm
            have := ih ht hf hm
            simp only at *
            omega
      · next hnone =>
        cases h
        rcases List.mem_cons.1 hm with hm | hm
        · cases hm
          exact .inr ⟨rfl, Nat.le_refl _⟩
        · obtain ⟨y, hy⟩ := firstClaim_isSome hm
          simp [hy] at hnone

/-- What a key of a table reads as is listed there, where it is no default. -/
theorem mem_of_tget_some {α : Type} {t : Table (Option α)} {k : Nat} {v : α} (h : tget none k t = some v) : (k, some v) ∈ t := by
  induction t with
  | nil => cases h
  | cons x t ih =>
    obtain ⟨j, w⟩ := x
    unfold tget at h
    split at h
    · next e =>
      subst e h
      exact List.mem_cons_self
    · exact List.mem_cons_of_mem _ (ih h)

end

theorem firstClaim_earliest {p : Nat} {c : Claim} {s : State} (hw : s.tablesWf = true) (hp : claimAt p s = some c)
    (hmin : ∀ q d, claimAt q s = some d → c.transit.toNat ≤ d.transit.toNat ∧ (d.transit.toNat = c.transit.toNat → p ≤ q)) :
    firstClaim s.owner.claims = some (p, c) := by
  have hwf := claims_wf hw
  obtain ⟨⟨q, d⟩, hf⟩ := firstClaim_isSome (mem_of_tget_some hp)
  have hq : claimAt q s = some d := tget_of_mem hwf (firstClaim_mem hf)
  have hle := firstClaim_le hwf hf (mem_of_tget_some hp)
  obtain ⟨h1, h2⟩ := hmin q d hq
  have e : p = q := by
    rcases hle with h | ⟨h, hqp⟩
    · omega
    · exact Nat.le_antisymm (h2 h) hqp
  subst e
  rw [hf, Option.some.inj (hq.symm.trans hp)]

/-- A command that no unit's port takes, in its turn. -/
theorem answers_next {c : Instr} {f : State → State} {s : State} {P : State → Prop} (he : exec c s = .next (inTransit c f s)) (hc : inputOf c = none)
    (ha : applies c s = true) (hP : ∀ q, P (f (withReached q s))) : Answers c s P := by
  obtain ⟨q, hq⟩ := atPlace_eq_withReached hc s
  exact ⟨_, by rw [he, inTransit_of_applies ha], hq ▸ hP q⟩

/-- The winner of an election owns the block; its claim and every other are cleared. -/
def elected (p : Nat) (c : Claim) (s : State) : State := newOwner p c.master c.nonce { s with owner := { s.owner with claims := [] } }

theorem ownerElectionApply_elected {p : Nat} {c : Claim} {s : State} (halive : alive s = true) (hstate : s.owner.state ≠ 1)
    (hphase : phaseOf s = 8 ∨ s.owner.state = 2) (hfirst : firstClaim s.owner.claims = some (p, c)) :
    ownerElectionApply s = if phaseOf (elected p c s) = 8 then { elected p c s with clock := { (elected p c s).clock with readyNext := true } } else elected p c s := by
  have hgo : (!alive s || s.owner.state == 1 || !(phaseOf s == 8 || s.owner.state == 2)) = false := by
    rcases hphase with h | h <;> simp [halive, h, hstate]
  unfold ownerElectionApply
  simp only [hgo, Bool.false_eq_true, if_false, hfirst]
  rfl

theorem electionEarliestClaim : Claims.ElectionEarliestClaim := by
  intro p c s hw halive hstate hphase hp hmin ha
  refine answers_next rfl rfl ha fun q => ?_
  have hregs := regs_wf hw
  have hraised : (reg (rIrqRaw pOWNER) (elected p c (withReached q s))).getLsbD 1 = true := irq_raised (s := { withReached q s with owner := _ }) hregs (by decide)
  have hkeep : RegsKeep [rIrqRaw pOWNER] s (elected p c (withReached q s)) := fun a ha => reg_irq_ne (by simpa using ha)
  have hphase' : phaseOf (elected p c (withReached q s)) = phaseOf s := by
    unfold phaseOf
    rw [hkeep _ (by decide)]
  have hframe : OnlyChanges [.reached, .owner, .clock, .regs, .setNow] s (ownerElectionApply (withReached q s)) :=
    withReached_frame (ownerElectionApply_frame (.refl _))
  have he := ownerElectionApply_elected (s := withReached q s) halive hstate hphase (firstClaim_earliest hw hp hmin)
  by_cases h : phaseOf s = 8
  · rw [he, if_pos (hphase'.trans h)] at hframe ⊢
    exact ⟨rfl, rfl, rfl, rfl, fun _ => rfl, rfl, rfl, hraised, fun _ => rfl, hkeep, hframe⟩
  · rw [he, if_neg (hphase' ▸ h)] at hframe ⊢
    exact ⟨rfl, rfl, rfl, rfl, fun _ => rfl, rfl, rfl, hraised, fun h8 => absurd h8 h, hkeep, hframe⟩

/-- Settles O13: a claim is held where none is and nobody owns the block; of the held ones the election takes the first in the order of transit and port. -/
theorem ownershipClaims : Obligations.OwnershipClaims := ⟨ownerClaims, electionEarliestClaim⟩

end Sys2Proof.Machine
end

section
/-! PROOF. Handover, heartbeat and vacancy of ownership (R374 to R376), the steward's watchdog and guards (R378, R379), refused and bad accesses (R63, R377), and the mailboxes (R399). -/

namespace Sys2Proof.Machine

-- The inclusions that frames ask for are auto parameters, whose code is compiled: with proofs elaborated in order no thread waits for it.
set_option Elab.async false

/-! ### Plain registers -/

section
variable {s : State} {r : RegRow} {copy addr : Nat} {v : Word}

theorem plainWrite_rw (h : regRow addr = some r) (hr : r.acc = .rw) : plainWrite copy addr v s = setReg addr (v &&& r.mask) s := by
  simp [plainWrite, h, hr, storeReg]

/-- A command without a place of its own, with nothing due, has its effect at once. -/
theorem answers_unplaced {c : Instr} {f : State → State} {P : State → Prop} (he : exec c s = .next (inTransit c f s)) (hp : placeOf c s = none)
    (hd : s.clock.due = []) (hP : P (f s)) : Answers c s P := by
  refine ⟨_, he, ?_⟩
  rwa [inTransit, hp, settle_none hd]

end

/-! ### Handover (R374) -/

theorem offerEnd_notLive {s : State} (hw : tableWfBy regReset s.regs = true) : (reg rOFFER (offerEnd s)).getLsbD 31 = false := by
  rw [offerEnd, reg_setReg_self hw, BitVec.getLsbD_and]
  simp

theorem ownerHandover : Claims.OwnerHandover := by
  refine ⟨fun port master v s hw ho => ?_, fun port master nonce s hw h4 hb hserve hreq hfab ha hroom => ?_, fun s hw halive hdue hlive hlapse => ?_⟩
  · refine answers_ownerWrite (w := offerWrite v) ho rfl rfl (by decide) (fun _ => rfl) (fun _ => rfl) (fun _ => rfl) fun q => ?_
    exact ⟨reg_setReg_self (s := { withReached q s with owner := _ }) (regs_wf hw), rfl, rfl, setReg_regsKeep (.refl s) (by decide),
      present_withReached_frame (offerWrite_frame (.refl _))⟩
  · have hf (q : Place) : OnlyChanges [.regs, .setNow, .log, .owner] (withReached q s) (acceptWrite port master nonce (withReached q s)) :=
      acceptWrite_frame (.refl _)
    have hn (q : Place) : OnlyChanges [.regs, .setNow, .log] (withReached q s) (notice 0xA2 (mgmtSource port) (withReached q s)) := notice_frame (.refl _)
    have hown (q : Place) : (notice 0xA2 (mgmtSource port) (withReached q s)).owner = s.owner := hn q .owner (by decide)
    have hcases (q : Place) : acceptWrite port master nonce (withReached q s)
        = if s.owner.state == 1 && offerMatches port master s then offerEnd { withReached q s with owner := { s.owner with next := some (port, master, nonce) } }
          else notice 0xA2 (mgmtSource port) (withReached q s) := rfl
    refine answers_write (w := acceptWrite port master nonce) ⟨hb, hserve, hreq, hfab, ha⟩ (.inr (by simp [ownRegister])) rfl rfl
      (badAddr_of_aligned (by omega) (by omega)) (fun _ => rfl) (fun q => ?_) (fun q => ?_) fun q => ?_
    · rw [ownerWrite_accept (s := withReached q s) h4 hb, setWidth_extractLsb']
    · rw [hcases]
      split
      · rfl
      · rw [hown]
    · have hout : (acceptWrite port master nonce (withReached q s)).out = s.out := (hf q).out_eq
      rw [hcases] at hout ⊢
      by_cases h : s.owner.state = 1 ∧ offerMatches port master s = true
      · have hregs := regs_wf hw
        have hb : (s.owner.state == 1 && offerMatches port master s) = true := by simp [h.1, h.2]
        rw [if_pos hb, if_pos h]
        exact ⟨rfl, rfl, rfl, rfl, offerEnd_notLive (s := { withReached q s with owner := _ }) hregs⟩
      · have hb : ¬ (s.owner.state == 1 && offerMatches port master s) = true := by simpa using h
        rw [if_neg hb] at hout ⊢
        rw [if_neg h]
        have hl : Logged 0xA2 0 (mgmtSource port) (withReached q s) (notice 0xA2 (mgmtSource port) (withReached q s)) :=
          notice_logged hroom (.inr (by decide))
        exact ⟨congrArg Owner.state (hown q), congrArg Owner.role (hown q), congrArg (· ++ _) hout, hown q, hl.of_eq rfl rfl rfl⟩
  · have hgo : (alive s && bitOf (reg rOFFER s) 31 && decide (s.owner.offerStart + regNat rOFFER_WINDOW s * unitsMs ≤ s.clock.now)) = true := by
      simp [halive, hlive, hlapse]
    refine answers_unplaced rfl rfl hdue ?_
    rw [offerLapseApply, if_pos hgo]
    exact ⟨offerEnd_notLive (regs_wf hw), setReg_regsKeep (.refl s) (by decide), offerEnd_frame (.refl s)⟩

/-! ### Heartbeat and vacancy (R375, R376) -/

theorem heartbeatAndVacancy : Claims.HeartbeatAndVacancy := by
  refine ⟨fun port master w s hw ho => ?_, fun s hw halive hstate hwin hpast hroom ha => ?_⟩
  · cases w with
    | none =>
      refine answers_ownerWrite (addr := 0x01048) (v := 1#32) (w := heartbeatNow) ho rfl rfl (by decide) (fun _ => rfl) (fun _ => rfl) (fun _ => rfl) fun q => ?_
      exact ⟨rfl, rfl, rfl, .refl s, present_withReached_frame (heartbeatNow_frame (.refl _))⟩
    | some v =>
      refine answers_ownerWrite (addr := rHEARTBEAT_WINDOW) (v := v) (w := fun s => heartbeatNow (setReg rHEARTBEAT_WINDOW (v &&& 0xFFFF#32) s))
        ho rfl rfl (by decide) (fun _ => rfl) (fun _ => rfl) (fun _ => rfl) fun q => ?_
      exact ⟨rfl, reg_setReg_self (s := withReached q s) (regs_wf hw), rfl, setReg_regsKeep (.refl s) (by decide),
        present_withReached_frame (heartbeatNow_frame (setReg_frame (.refl _)))⟩
  · refine answers_next rfl rfl ha fun q => ?_
    let x : State := { withReached q s with owner := { s.owner with state := 2, next := none } }
    have hwx : x.tablesWf = true := hw
    have hgo : (alive s && s.owner.state == 1 && regNat rHEARTBEAT_WINDOW s != 0
        && decide (s.owner.hbStart + regNat rHEARTBEAT_WINDOW s * unitsMs ≤ s.clock.now)) = true := by simp [halive, hstate, hwin, hpast]
    have hframe : OnlyChanges [.reached, .owner, .regs, .setNow, .log] s (ownerVacantApply (withReached q s)) :=
      withReached_frame (ownerVacantApply_frame (.refl _))
    have he : ownerVacantApply (withReached q s) = offerEnd (notice 0xA0 (mgmtSource s.owner.port) x) := if_pos hgo
    rw [he] at hframe ⊢
    have hn : OnlyChanges [.regs, .setNow, .log] x (notice 0xA0 (mgmtSource s.owner.port) x) := notice_frame (.refl _)
    have hown : (notice 0xA0 (mgmtSource s.owner.port) x).owner = x.owner := hn .owner (by decide)
    have hl : Logged 0xA0 0 (mgmtSource s.owner.port) x (notice 0xA0 (mgmtSource s.owner.port) x) := notice_logged hroom (.inr (by decide))
    have hown' : (offerEnd (notice 0xA0 (mgmtSource s.owner.port) x)).owner = x.owner := hown
    refine ⟨by rw [hown'], by rw [hown'], by rw [hown'], hl.of_eq rfl rfl rfl, ?_,
      offerEnd_notLive ((notice_keeps (.refl x)).regsWf hwx), hframe⟩
    rw [offerEnd, reg_setReg_ne (by decide)]
    exact logFault_raises (e := ⟨0xA0, clsNotice, mgmtSource s.owner.port, none, none⟩) hwx (by decide) fun _ => rfl

/-- Settles O14: an offer, an accept, a lapse, a heartbeat and a vacancy each change the owner's record in their one way. -/
theorem ownershipPasses : Obligations.OwnershipPasses := ⟨ownerHandover, heartbeatAndVacancy⟩

/-! ### The steward (R378, R379) -/

section
variable {s : State} {a : StewardAction}

theorem stewardStart_state (hw : tableWfBy regReset s.regs = true) : stewardState (stewardStart s) = 1 :=
  stewardState_set (s := { s with steward := _ }) hw (by decide)

theorem reg_setStewardState_ne {b n : Nat} (h : b ≠ rSTEWARD_STATE) : reg b (setStewardState n s) = reg b s := reg_setReg_ne h

theorem setStewardState_log {n : Nat} : (setStewardState n s).log = s.log := rfl
theorem stewardStart_steward : (stewardStart s).steward = { s.steward with starts := s.steward.starts + 1, kickAt := s.clock.now } := rfl
theorem setStewardState_steward {n : Nat} : (setStewardState n s).steward = s.steward := rfl

/-- The steward's resets of the last second, before this one. -/
def recentResets (s : State) : List Nat := s.steward.resetTimes.filter fun x => decide (s.clock.now < x + unitsSec)

/-- The steward's record of a reset now. -/
def noteReset (s : State) : State :=
  { s with steward := { s.steward with resetTimes := recentResets s ++ [s.clock.now] } }

/-- A missed window: its reset is counted and noted. -/
def resetNoted (s : State) : State := noteReset (count rWDOG_RESETS 1 (notice 0x74 stewardSource s))

theorem resetNoted_keeps : Keeps s (resetNoted s) := { (count_keeps (notice_keeps (.refl s)) : Keeps s (count rWDOG_RESETS 1 (notice 0x74 stewardSource s))) with }

theorem OnlyChanges.clock_eq {ps : List Part} {t : State} (h : OnlyChanges ps s t) (h1 : .clock ∉ ps := by decide) (h2 : .reached ∉ ps := by decide)
    (h3 : .held ∉ ps := by decide) (h4 : .due ∉ ps := by decide) (h5 : .found ∉ ps := by decide) : t.clock = s.clock := by
  have hr : t.clock.reached = s.clock.reached := h .reached h2
  have hh : t.clock.held = s.clock.held := h .held h3
  have hd : t.clock.due = s.clock.due := h .due h4
  have hf : t.clock.found = s.clock.found := h .found h5
  have hc : { t.clock with reached := s.clock.reached, held := s.clock.held, due := s.clock.due, found := s.clock.found } = s.clock := h .clock h1
  rw [← hr, ← hh, ← hd, ← hf] at hc
  exact hc

theorem notice_clock {code : Nat} {src : BitVec 16} : (notice code src s).clock = s.clock :=
  (notice_frame (ps := [.regs, .setNow, .log]) (.refl s) : OnlyChanges _ s _).clock_eq
theorem notice_steward {code : Nat} {src : BitVec 16} : (notice code src s).steward = s.steward :=
  (notice_frame (ps := [.regs, .setNow, .log]) (.refl s) : OnlyChanges _ s _) .steward (by decide)

theorem resetNoted_steward : (resetNoted s).steward = { s.steward with resetTimes := recentResets s ++ [s.clock.now] } := by
  have hc : (count rWDOG_RESETS 1 (notice 0x74 stewardSource s)).clock = s.clock := notice_clock
  have hs : (count rWDOG_RESETS 1 (notice 0x74 stewardSource s)).steward = s.steward := notice_steward
  unfold resetNoted noteReset recentResets
  rw [hc, hs]

theorem resetNoted_log : (resetNoted s).log = (notice 0x74 stewardSource s).log := by
  unfold resetNoted noteReset
  dsimp only
  rw [count_log]

theorem resetNoted_clock : (resetNoted s).clock = s.clock := by
  have hc : (count rWDOG_RESETS 1 (notice 0x74 stewardSource s)).clock = s.clock := notice_clock
  unfold resetNoted noteReset
  exact hc

theorem stewardWatchdogApply_windowPassed (ha : alive s = true) (hr : stewardRuns s = true)
    (hp : s.steward.kickAt + regNat rWDOG_WINDOW s * unitsUs ≤ s.clock.now) :
    stewardWatchdogApply s = if 2 ≤ (recentResets s).length then irq pSTEWARD 1 (setStewardState 2 (notice 0x75 stewardSource (resetNoted s)))
      else stewardStart (resetNoted s) := by
  have hgo : ¬ (!alive s || !stewardRuns s || decide (s.clock.now < s.steward.kickAt + regNat rWDOG_WINDOW s * unitsUs)) = true := by
    rw [ha, hr, decide_eq_false (Nat.not_lt.2 hp)]
    decide
  have hlen : 3 ≤ (resetNoted s).steward.resetTimes.length ↔ 2 ≤ (recentResets s).length := by simp [resetNoted_steward]
  have he : stewardWatchdogApply s = if 3 ≤ (resetNoted s).steward.resetTimes.length then irq pSTEWARD 1 (setStewardState 2 (notice 0x75 stewardSource (resetNoted s)))
      else stewardStart (resetNoted s) := by
    unfold stewardWatchdogApply resetNoted noteReset recentResets
    rw [if_neg hgo]
  rw [he]
  exact ite_congr (propext hlen) (fun _ => rfl) fun _ => rfl

end

theorem stewardWatchdog : Claims.StewardWatchdog := by
  refine ⟨fun port master s hw ho => ?_, fun s hw halive hruns hpast hroom ha => ?_, fun port master s hw ho => ?_⟩
  · refine answers_ownerWrite (addr := 0x04048) (v := 1#32) (w := kickNow) ho rfl rfl (by decide) (fun _ => rfl) (fun _ => rfl) (fun _ => rfl) fun q => ?_
    exact ⟨rfl, rfl, present_withReached_frame (kickNow_frame (.refl _))⟩
  · refine answers_next rfl rfl ha fun q => ?_
    have hframe : OnlyChanges [.reached, .steward, .regs, .setNow, .log] s (stewardWatchdogApply (withReached q s)) :=
      withReached_frame (stewardWatchdogApply_frame (.refl _))
    have hrec : recentResets (withReached q s) = s.steward.resetTimes.filter fun x => decide (s.clock.now < x + 16000000000) := by
      rw [show recentResets (withReached q s) = recentResets s from rfl]
      unfold recentResets unitsSec
      rfl
    rw [stewardWatchdogApply_windowPassed (s := withReached q s) halive hruns hpast, hrec] at hframe ⊢
    have hroom1 : LogRoom (withReached q s) := Nat.lt_of_lt_of_le hroom (by decide)
    have hk : Keeps (withReached q s) (resetNoted (withReached q s)) := resetNoted_keeps
    have hkn : Keeps (withReached q s) (notice 0x75 stewardSource (resetNoted (withReached q s))) := notice_keeps hk
    have hst : (resetNoted (withReached q s)).steward = { s.steward with
        resetTimes := (s.steward.resetTimes.filter fun x => decide (s.clock.now < x + 16000000000)) ++ [s.clock.now] } := by
      rw [resetNoted_steward, hrec]
      rfl
    generalize (s.steward.resetTimes.filter fun x => decide (s.clock.now < x + 16000000000)) = recent at hframe hst ⊢
    have hcount : reg rWDOG_RESETS (resetNoted (withReached q s)) = satAdd (reg rWDOG_RESETS s) 1 := by
      refine (reg_count_self ((notice_keeps (.refl (withReached q s))).regsWf hw)).trans ?_
      rw [reg_notice_ne (by decide)]
      rfl
    have hlogged : Logged 0x74 0 0x5000#16 (withReached q s) (resetNoted (withReached q s)) :=
      Logged.of_eq (notice_logged hroom1 (.inr (by decide))) rfl rfl resetNoted_log
    by_cases h : 2 ≤ recent.length
    · have hlen : (resetNoted (withReached q s)).log.entries.length = s.log.entries.length + 1 := by
        obtain ⟨e, he, -⟩ := hlogged
        rw [he, List.length_append]
        rfl
      have hlen2 : (notice 0x75 stewardSource (resetNoted (withReached q s))).log.entries.length = s.log.entries.length + 2 := by
        rw [notice, logFault_entries (by unfold LogRoom; omega), entriesWith_length, hlen]
      rw [if_pos h] at hframe ⊢
      refine ⟨?_, ?_, ?_, hframe⟩
      · rw [reg_irq_ne (by decide), reg_setStewardState_ne (by decide), reg_notice_ne (by decide), hcount]
      · rw [irq_steward, setStewardState_steward, notice_steward, hst]
      · rw [if_pos h, irq_log, setStewardState_log, irq_steward, setStewardState_steward, notice_steward, hst]
        refine ⟨?_, rfl, hlen2⟩
        · unfold stewardState
          rw [reg_irq_ne (by decide)]
          exact stewardState_set (hkn.regsWf hw) (by decide)
    · rw [if_neg h] at hframe ⊢
      rw [stewardStart_steward, hst, resetNoted_clock]
      refine ⟨?_, rfl, ?_, hframe⟩
      · rw [stewardStart, reg_setStewardState_ne (by decide)]
        exact hcount
      · rw [if_neg h]
        exact ⟨stewardStart_state (hk.regsWf hw), rfl, rfl, hlogged⟩
  · refine answers_ownerWrite (addr := 0x04044) (v := 1#32) (w := stewardRestartNow) ho rfl rfl (by decide) (fun _ => rfl) (fun _ => rfl) (fun q => ?_) fun q => ?_
    · exact (stewardRestartNow_frame (ps := [.regs, .steward]) (.refl (withReached q s))).requests_eq
    · refine ⟨congrArg (· ++ _) (stewardRestartNow_frame (ps := [.regs, .steward]) (.refl (withReached q s))).out_eq, ?_⟩
      have hregs := regs_wf hw
      have hcases : stewardRestartNow (withReached q s) = if stewardState s = 2 && !bitOf (reg rSTEWARD_STATE s) 4 then
        stewardStart { withReached q s with steward := { s.steward with resetTimes := [] } } else withReached q s := rfl
      rw [hcases]
      by_cases h : stewardState s = 2 ∧ bitOf (reg rSTEWARD_STATE s) 4 = false
      · rw [if_pos h, if_pos (by simp [h])]
        exact ⟨stewardStart_state (s := { withReached q s with steward := _ }) hregs, rfl, rfl⟩
      · rw [if_neg h, if_neg (by simpa using h)]
        exact ⟨rfl, rfl⟩

/-! ### Guards (R378) -/

section
variable {s : State} {a : StewardAction}

/-- Codes of a blocked action: those of R378, and 0x63 of R54. -/
def guardCodes : List Nat := [0, 0x63, 0x70, 0x71, 0x72, 0x73]

theorem guardCode_mem {write : Bool} {addr : Nat} : guardCode write addr ∈ guardCodes := by
  have h (n : Nat) (hn : n = 0 ∨ n = 0x71 ∨ n = 0x72 ∨ n = 0x73) : n ∈ guardCodes := by rcases hn with rfl | rfl | rfl | rfl <;> decide
  unfold guardCode
  dsimp only
  refine ite_ok (h _ (by decide)) (ite_ok (h _ (by decide)) (ite_ok (h _ (by decide)) ?_))
  split <;> (repeat' refine ite_ok ?_ ?_) <;> exact h _ (by decide)

theorem sendGuard_mem {port : Nat} {vc : Option Nat} : sendGuard port vc s ∈ guardCodes := by
  refine ite_ok (by decide) ?_
  split
  · exact ite_ok (by decide) (by decide)
  · decide

theorem guardOf_mem : (guardOf a s).1 ∈ guardCodes := by
  cases a with
  | transmit port vc => exact (sendGuard_mem : sendGuard port (some vc) s ∈ guardCodes)
  | write addr v =>
    show (storeGuard addr.toNat v s).1 ∈ guardCodes
    unfold storeGuard
    dsimp only
    split
    · exact guardCode_mem
    · split
      · exact sendGuard_mem
      · exact List.mem_cons_self
  | diagRead addr => exact guardCode_mem
  | memRequest addr sectors => exact ite_ok (by decide) (by decide)
  | forceCondition => exact (by decide : 0x73 ∈ guardCodes)

theorem plainCode_of_guard {n : Nat} (h : n ∈ guardCodes) : plainCode n := by
  simp only [guardCodes, List.mem_cons, List.not_mem_nil, or_false] at h
  unfold plainCode
  omega

/-- What a blocked action leaves before its guard's entry: a memory request keeps its address. -/
def guardNoted (a : StewardAction) (s : State) : State :=
  match a with
  | .memRequest m _ => noteErr 0x63 0 m s
  | _ => s

theorem guardNoted_frame {r : State} {ps : List Part} (h : OnlyChanges ps r s) (hq : [.regs] ⊆ ps := by decide) : OnlyChanges ps r (guardNoted a s) := by
  refine h.then (ps := [.regs]) ?_ hq
  cases a with
  | memRequest m n => exact noteErr_frame (.refl s)
  | _ => exact .refl s

theorem guardNoted_keeps : Keeps s (guardNoted a s) := by
  cases a with
  | memRequest m n => exact noteErr_keeps (.refl s)
  | _ => exact .refl s

theorem reg_guardNoted_ne {b : Nat} (h : b ∉ [rLAST_ERR, rLAST_ERR_ADDR_LO, rLAST_ERR_ADDR_LO + 4]) : reg b (guardNoted a s) = reg b s := by
  simp only [List.mem_cons, List.not_mem_nil, or_false, not_or] at h
  obtain ⟨h1, h2, h3⟩ := h
  cases a with
  | memRequest m n => exact (reg_setReg_ne h1).trans ((reg_setReg_ne h2).trans (reg_setReg_ne h3))
  | _ => rfl

theorem stewardGuardApply_blocked (ha : alive s = true) (hr : stewardRuns s = true) (h : (guardOf a s).1 ≠ 0) :
    stewardGuardApply a s = guardHit (guardOf a s).1 (guardOf a s).2 (guardNoted a s) := by
  have hgo : ¬ (!alive s || !stewardRuns s || (guardOf a s).1 == 0) = true := by simp [ha, hr, h]
  unfold stewardGuardApply
  dsimp only
  rw [if_neg hgo]
  rfl

end

theorem stewardGuards : Claims.StewardGuards := by
  intro a s hw halive hruns hcode hroom ha
  refine answers_next rfl rfl ha fun q => ?_
  have hsame : guardOf a (withReached q s) = guardOf a s := by cases a <;> rfl
  have hframe : OnlyChanges [.reached, .regs, .setNow, .log] s (stewardGuardApply a (withReached q s)) := withReached_frame (stewardGuardApply_frame (.refl _))
  have hf : OnlyChanges [.regs] (withReached q s) (guardNoted a (withReached q s)) := guardNoted_frame (.refl _)
  rw [stewardGuardApply_blocked (s := withReached q s) halive hruns (hsame ▸ hcode), hsame] at hframe ⊢
  have hk : Keeps (withReached q s) (notice (guardOf a s).1 stewardSource (guardNoted a (withReached q s))) := notice_keeps guardNoted_keeps
  have hroom' : LogRoom (guardNoted a (withReached q s)) := by
    unfold LogRoom
    rw [hf .log (by decide)]
    exact hroom
  have hpage : ∀ n ∈ guardCodes, rGUARD_COUNT ∉ logRegs (codePage n stewardSource) := by decide
  have hmem : (guardOf a s).1 ∈ guardCodes := guardOf_mem
  refine ⟨(notice_logged hroom' (plainCode_of_guard hmem)).of_eq (hf .log (by decide)) ?_ rfl, ?_, ?_, hframe⟩
  · rw [hf.clock_eq]
    rfl
  · rw [guardHit, reg_setReg_ne (by decide), reg_count_self (hk.regsWf hw), reg_notice_ne (hpage _ hmem), reg_guardNoted_ne (by decide)]
    rfl
  · exact reg_setReg_self ((count_keeps hk).regsWf hw)

/-- Settles O15: the watchdog and RESTART by the steward's record of its resets; a guard's code is one that its action names, and what it enters and counts is all that changes. -/
theorem stewardBounds : Obligations.StewardBounds := ⟨stewardWatchdog, stewardGuards⟩

end Sys2Proof.Machine
end

section
/-! PROOF. Refused writes of a non-owner (R63, R377), the mailboxes (R399), and accesses to bad addresses (R63). -/

namespace Sys2Proof.Machine

-- The inclusions that frames ask for are auto parameters, whose code is compiled: with proofs elaborated in order no thread waits for it.
set_option Elab.async false

section
variable {s : State} {port master addr : Nat} {c : Instr} {v : Word}

theorem reg_present {a : Nat} {o : PortOut} : reg a (present o s) = reg a s := rfl

/-- A write that R63 refuses: its port answers with MGMT_ERR once the refusal has been counted. -/
theorem accessWrite_refused (ht : PortTurn port c s) (ho : isOwner (.mgmt port master) s = false) (hr : ownRegister port addr = false) (q : Place)
    (hreq : (rejectWrite port master addr (withReached q s)).owner.requests = s.owner.requests) :
    accessWrite (.mgmt port master) addr v (withReached q s)
      = present (.mgmtRsp port master 0#32 true) (rejectWrite port master addr (withReached q s)) := by
  obtain ⟨-, hserve, hq, hfab, -⟩ := ht
  have hserve' : mgmtServes (withReached q s) = true := hserve
  have hfab' : (withReached q s).clock.fabFault = false := hfab
  have ho' : isOwner (.mgmt port master) (withReached q s) = false := ho
  have hreq' : requestsAt port (rejectWrite port master addr (withReached q s)) = [] := by rw [requestsAt, hreq]; exact hq
  simp [accessWrite, mgmtWrite, hserve', hfab', ho', hr, answer_of_no_requests hreq']

/-- A refused write before its entry: the count, its interrupt, and REJECT_LAST. -/
def rejectCounted (port master addr : Nat) (s : State) : State :=
  setReg rREJECT_LAST (BitVec.ofNat 32 (addr % 2 ^ 22 + master % 256 * 2 ^ 22 + port % 4 * 2 ^ 30)) (irq pOWNER 2 (count rREJECTED 1 s))

theorem rejectWrite_eq : rejectWrite port master addr s
    = if reg rREJECTED s == 0#32 then notice 0xA1 (mgmtSource port) (rejectCounted port master addr s) else rejectCounted port master addr s := rfl

theorem rejectCounted_keeps : Keeps s (rejectCounted port master addr s) := setReg_keeps (irq_keeps (count_keeps (.refl s)))

theorem rejectCounted_spec (hw : s.tablesWf = true) :
    reg rREJECTED (rejectCounted port master addr s) = satAdd (reg rREJECTED s) 1
      ∧ reg rREJECT_LAST (rejectCounted port master addr s) = BitVec.ofNat 32 (addr % 2 ^ 22 + master % 256 * 2 ^ 22 + port % 4 * 2 ^ 30)
      ∧ (reg (rIrqRaw pOWNER) (rejectCounted port master addr s)).getLsbD 2 = true := by
  have hk : Keeps s (count rREJECTED 1 s) := count_keeps (.refl s)
  refine ⟨?_, reg_setReg_self ((irq_keeps hk).regsWf hw), ?_⟩
  · rw [rejectCounted, reg_setReg_ne (by decide), reg_irq_ne (by decide), reg_count_self (regs_wf hw)]
  · rw [rejectCounted, reg_setReg_ne (by decide)]
    exact irq_raised (hk.regsWf hw) (by decide)

end

theorem nonownerRefused : Claims.NonownerRefused := by
  intro port master addr v s hw hb hserve hreq hfab hown hreg hroom ha
  have ht : PortTurn port (.nonownerWrite port master addr v) s := ⟨hb, hserve, hreq, hfab, ha⟩
  refine answers_onMgmt (master := master) ht rfl rfl fun q => ?_
  have hframe : OnlyChanges [.regs, .setNow, .log] (withReached q s) (rejectWrite port master addr.toNat (withReached q s)) := rejectWrite_frame (.refl _)
  rw [accessWrite_refused ht hown hreg q hframe.requests_eq]
  have haddr : addr.toNat % 2 ^ 22 = addr.toNat := Nat.mod_eq_of_lt addr.isLt
  obtain ⟨hcount, hlast, hirq⟩ := rejectCounted_spec (s := withReached q s) (port := port) (master := master) (addr := addr.toNat) hw
  rw [haddr] at hlast
  have hout : (rejectWrite port master addr.toNat (withReached q s)).out = s.out := hframe.out_eq
  have hall : OnlyChanges [.reached, .regs, .setNow, .log, .out] s (present (.mgmtRsp port master 0#32 true) (rejectWrite port master addr.toNat (withReached q s))) :=
    present_withReached_frame (rejectWrite_frame (.refl _))
  simp only [reg_present]
  rw [rejectWrite_eq] at hout hall ⊢
  by_cases h : reg rREJECTED s = 0#32
  · have hq : (reg rREJECTED (withReached q s) == 0#32) = true := beq_iff_eq.2 h
    rw [if_pos hq] at hout hall ⊢
    rw [if_pos h]
    have hp : codePage 0xA1 (mgmtSource port) = pOWNER := rfl
    have hbit : BitStays (rIrqRaw pOWNER) 2 (rejectCounted port master addr.toNat (withReached q s))
        (notice 0xA1 (mgmtSource port) (rejectCounted port master addr.toNat (withReached q s))) := logFault_bitStays (rejectCounted_keeps.tablesWf hw)
    have hlogged := notice_logged (s := rejectCounted port master addr.toNat (withReached q s)) (code := 0xA1) (src := mgmtSource port) hroom (.inr (by decide))
    rw [← reg_notice_ne (code := 0xA1) (src := mgmtSource port) (by rw [hp]; decide)] at hcount hlast
    exact ⟨hcount, hlast, hbit hirq, hlogged.of_eq rfl rfl rfl, congrArg (· ++ _) hout, hall⟩
  · have hq : ¬ (reg rREJECTED (withReached q s) == 0#32) = true := fun hc => h (beq_iff_eq.1 hc)
    rw [if_neg hq] at hout hall ⊢
    rw [if_neg h]
    exact ⟨hcount, hlast, hirq, rfl, congrArg (· ++ _) hout, hall⟩

/-! ### Mailboxes (R399) -/

section
variable {s : State} {port q : Nat} {v : Word}

theorem mailWrite_full (h : 16 ≤ (mailboxAt port s).length) :
    mailWrite port v s = { s with owner := { s.owner with mailOver := tset 0 port 1 s.owner.mailOver } } := if_pos h

theorem mailWrite_room (h : (mailboxAt port s).length < 16) :
    mailWrite port v s = irq pOWNER 3 { s with owner := { s.owner with mailbox := tset [] port (mailboxAt port s ++ [v]) s.owner.mailbox } } := if_neg (Nat.not_le.2 h)

theorem mailboxTake_unstaged (h : staging port s = false) : mailboxTake port v s = mailWrite port v s := if_neg (by simp [h])

theorem mailWrite_requests : (mailWrite port v s).owner.requests = s.owner.requests := by
  unfold mailWrite
  dsimp only
  split <;> rfl

theorem mailWrite_out : (mailWrite port v s).out = s.out := by
  unfold mailWrite
  dsimp only
  split <;> rfl

/-- A read of the owner at a mailbox removes its oldest word; one of any other master, and any read of another register of the page, leaves it. -/
theorem readEffect_mailbox {owner : Bool} (h4 : port < 4) (hb : port < s.build.mgmtPorts) :
    readEffect owner 0 (0x01090 + 4 * port) s = if owner then mailRead port s else s := by
  have h1 : (0x01090 + 4 * port) / 0x1000 = pOWNER := by unfold pOWNER; omega
  have h2 : (0x01090 + 4 * port) % 0x1000 = 0x090 + 4 * port := by omega
  have hl : isLow ((0x01090 + 4 * port) / 0x1000) ((0x01090 + 4 * port) % 0x1000) = false := by rw [h1]; rfl
  have hh : isHigh (0x01090 + 4 * port) = false := by
    unfold isHigh
    rw [show (0x01090 + 4 * port - 4) / 0x1000 = pOWNER by unfold pOWNER; omega, show isLow pOWNER _ = false from rfl, Bool.and_false]
  have hr : regRow (0x01090 + 4 * port) = none := by interval_cases port <;> decide
  rw [readEffect_of_plain (by omega) hl hh (by omega) (by omega)]
  unfold readClear
  rw [h1, h2, hr]
  have he : pageExists pOWNER s = true := rfl
  have hc : clearSpecial 0 pOWNER (0x090 + 4 * port) s = mailRead port s := by
    rw [clearSpecial, if_pos rfl, bankPort_self h4 hb]
  cases owner <;> simp [he, hc]

theorem readValue_mailbox (h4 : port < 4) (hb : port < s.build.mgmtPorts) (hl : tget none (0x01090 + 4 * port) s.hiLatch = none) :
    readValue 0 (0x01090 + 4 * port) s = (mailboxAt port s).headD 0#32 := by
  have h1 : (0x01090 + 4 * port) / 0x1000 = pOWNER := by unfold pOWNER; omega
  have h2 : (0x01090 + 4 * port) % 0x1000 = 0x090 + 4 * port := by omega
  have hs : readSpecial 0 pOWNER (0x090 + 4 * port) s = some ((mailboxAt port s).headD 0#32) := by
    show readOwner (0x090 + 4 * port) s = _
    rw [readOwner, if_neg (by omega), if_neg (by omega), bankPort_self h4 hb, bankPort_other (by omega), bankPort_other (by omega)]
  rw [readValue, if_neg (by omega), if_neg (by omega), hl]
  show readPage 0 (0x01090 + 4 * port) s = _
  unfold readPage
  dsimp only
  rw [h1, h2, hs]
  simp [show pageExists pOWNER s = true from rfl, show ¬ 0x090 + 4 * port < 0x040 by omega]

end

theorem mailboxes : Claims.Mailboxes := by
  refine ⟨fun port master v s hw h4 hb hserve hreq hfab hst ha => ?_, fun port master box s hw h4 hbox hb hserve hreq hl ha => ?_⟩
  · have hw' (q : Place) : writeReg (some (port, master)) 0 (0x01090 + 4 * port) v (withReached q s) = mailWrite port v (withReached q s) := by
      rw [ownerWrite_mailbox (s := withReached q s) h4 hb, mailboxTake_unstaged (s := withReached q s) hst]
    refine answers_write ⟨hb, hserve, hreq, hfab, ha⟩ (.inr (by simp [ownRegister])) rfl rfl (badAddr_of_aligned (by omega) (by omega))
      (fun _ => rfl) hw' (fun q => mailWrite_requests) fun q => ?_
    have hframe : OnlyChanges [.reached, .owner, .regs, .setNow, .out] s (present (.mgmtRsp port master 0#32 false) (mailWrite port v (withReached q s))) :=
      present_withReached_frame (mailWrite_frame (.refl _))
    have hout : (mailWrite port v (withReached q s)).out = s.out := mailWrite_out
    by_cases h : (mailboxAt port s).length < 16
    · have hregs := regs_wf hw
      rw [mailWrite_room (s := withReached q s) h] at hframe hout ⊢
      rw [if_pos h]
      exact ⟨congrArg (· ++ _) hout, fun p hp => tget_tset_ne hp _ _, ⟨tget_tset_self _ _ _ (mailbox_wf hw), rfl,
        irq_raised (s := { withReached q s with owner := _ }) hregs (by decide)⟩, hframe⟩
    · rw [mailWrite_full (s := withReached q s) (Nat.not_lt.1 h)] at hframe hout ⊢
      rw [if_neg h]
      exact ⟨congrArg (· ++ _) hout, fun _ _ => rfl, ⟨rfl, beq_iff_eq.2 (tget_tset_self _ _ _ (mailOver_wf hw))⟩, hframe⟩
  · refine answers_accessRead (port := port) (master := master) (addr := 0x01090 + 4 * box) ?_ rfl hb hserve hreq ha (badAddr_of_aligned (by omega) (by omega)) fun q => ?_
    · show execMailboxRead (.mgmt port master) box s = _
      rw [execMailboxRead, if_pos h4]
    · rw [readValue_mailbox (s := withReached q s) h4 hbox hl, readEffect_mailbox (s := withReached q s) h4 hbox]
      cases ho : isOwner (.mgmt port master) s with
      | true =>
        rw [if_pos rfl, if_pos rfl]
        have hover : tget 0 box (tset 0 box 0 s.owner.mailOver) = 0 := tget_tset_self _ _ _ (mailOver_wf hw)
        refine ⟨rfl, fun p hp => tget_tset_ne hp _ _, ⟨tget_tset_self _ _ _ (mailbox_wf hw), ?_⟩, present_withReached_frame (mailRead_frame (.refl _))⟩
        exact beq_eq_false_iff_ne.2 (hover.trans_ne (by decide))
      | false =>
        rw [if_neg (by decide), if_neg (by decide)]
        exact ⟨rfl, fun _ _ => rfl, rfl, present_withReached_frame (.refl _)⟩

/-! ### Bad addresses (R63) -/

section
variable {s : State} {port master addr : Nat} {c : Instr} {v : Word}

theorem accessWrite_bad (ho : OwnerTurn port master c s) (hbad : badAddr addr = true) (q : Place) :
    accessWrite (.mgmt port master) addr v (withReached q s) = present (.mgmtRsp port master 0#32 true) (withReached q s) := by
  obtain ⟨-, hserve, hq, hfab, hown, -⟩ := ho
  have hserve' : mgmtServes (withReached q s) = true := hserve
  have hfab' : (withReached q s).clock.fabFault = false := hfab
  have hown' : isOwner (.mgmt port master) (withReached q s) = true := hown
  have hreq' : requestsAt port (withReached q s) = [] := hq
  simp [accessWrite, mgmtWrite, hserve', hfab', hown', hbad, answer_of_no_requests hreq']

theorem accessRead_bad (hserve : mgmtServes s = true) (hreq : requestsAt port s = []) (hbad : badAddr addr = true) :
    accessRead (.mgmt port master) addr s = present (.mgmtRsp port master 0#32 true) s := by
  simp [accessRead, mgmtRead, hserve, hbad, answer_of_no_requests hreq]

end

theorem badAddressErrors : Claims.BadAddressErrors := by
  intro port master write addr v s _ hbad hb hserve hreq hor ha
  obtain ⟨q, hq⟩ := atPlace_eq_withReached (c := .mgmtErrorResponse port master write addr v) rfl s
  have hframe : OnlyChanges [.reached, .out] s (present (.mgmtRsp port master 0#32 true) (withReached q s)) := present_withReached_frame (.refl _)
  have he : exec (.mgmtErrorResponse port master write addr v) s = .next (present (.mgmtRsp port master 0#32 true) (withReached q s)) := by
    show execMgmtErrorResponse port master write addr v s = _
    rw [execMgmtErrorResponse, onAgent, if_pos (by simpa [hasAgent] using hb), inTransit_of_applies ha, hq]
    cases write with
    | false => exact congrArg _ (accessRead_bad (s := withReached q s) hserve hreq hbad)
    | true => exact congrArg _ (accessWrite_bad (hor.resolve_left (by decide)) hbad q)
  exact ⟨_, he, rfl, hframe⟩

/-- Settles O16: a refused write, a mailbox's access and one of a bad address each end in their port's answer, with only what they count, store or remove changed. -/
theorem nonownerAccesses : Obligations.NonownerAccesses := ⟨nonownerRefused, mailboxes, badAddressErrors⟩

end Sys2Proof.Machine
end

section
/-! PROOF. The header registers of the pages (R388, R390, R391), the error log's port (R335, R407), PERF.CTRL and INJECT (R417, R419). -/

namespace Sys2Proof.Machine

-- The inclusions that frames ask for are auto parameters, whose code is compiled: with proofs elaborated in order no thread waits for it.
set_option Elab.async false

/-! ### Frames -/

section
variable {r s : State} {ps : List Part}

theorem modLink_frame {port : Nat} {f : Link → Link} (h : OnlyChanges ps r s) (hq : [.links] ⊆ ps := by decide) : OnlyChanges ps r (modLink port f s) :=
  h.then (ps := [.links]) (setLink_frame (OnlyChanges.refl s)) hq
theorem linkDies_frame {port : Nat} {code : BitVec 8} (h : OnlyChanges ps r s) (hq : [.links] ⊆ ps := by decide) : OnlyChanges ps r (linkDies port code s) :=
  h.then (ps := [.links]) (modLink_frame (OnlyChanges.refl s)) hq
theorem changeLink_frame {port : Nat} {f : Link → Link} (h : OnlyChanges ps r s) (hq : [.links, .setNow, .regs] ⊆ ps := by decide) : OnlyChanges ps r (changeLink port f s) :=
  h.then (ps := [.links, .setNow, .regs]) (.unless (modLink_frame (OnlyChanges.refl s)) fun h1 => irq_frame h1) hq
theorem ringSoftReset_frame {port : Nat} (h : OnlyChanges ps r s) (hq : [.links, .setNow, .regs] ⊆ ps := by decide) : OnlyChanges ps r (ringSoftReset port s) :=
  h.then (ps := [.links, .setNow, .regs]) (linkDies_frame (changeLink_frame (OnlyChanges.refl s))) hq
theorem pageCtrlWrite_frame {page : Nat} {v : Word} (h : OnlyChanges ps r s) (hq : [.setNow, .regs, .links] ⊆ ps := by decide) : OnlyChanges ps r (pageCtrlWrite page v s) :=
  h.then (ps := [.setNow, .regs, .links]) (.when (orReg_frame (OnlyChanges.refl s)) fun h1 => ringSoftReset_frame h1) hq
theorem headerWrite_frame {page : Nat} {off : Nat} {v : Word} (h : OnlyChanges ps r s) (hq : [.setNow, .regs, .links] ⊆ ps := by decide) : OnlyChanges ps r (headerWrite page off v s) :=
  h.then (ps := [.setNow, .regs, .links]) (.ite (pageCtrlWrite_frame (OnlyChanges.refl s)) (.ite (setReg_frame (OnlyChanges.refl s)) (.ite
      (clearBits_frame (OnlyChanges.refl s)) (.ite (setReg_frame (OnlyChanges.refl s)) (OnlyChanges.refl s))))) hq
theorem errlogPopNow_frame (h : OnlyChanges ps r s) (hq : [.log] ⊆ ps := by decide) : OnlyChanges ps r (errlogPopNow s) :=
  h.then (ps := [.log]) (OnlyChanges.next (ps := [.log]) (OnlyChanges.refl s) fun p hp => by cases p <;> simp [Part.same, errlogPopNow] at hp ⊢) hq
theorem perfCtrlWrite_frame {v : Word} (h : OnlyChanges ps r s) (hq : [.regs] ⊆ ps := by decide) : OnlyChanges ps r (perfCtrlWrite v s) :=
  h.then (ps := [.regs]) (setReg_frame (.ite (.foldl (OnlyChanges.refl s) fun _ _ h1 => setReg_frame h1) (OnlyChanges.refl s))) hq

end

/-! ### Writes to a page's header -/

section
variable {s : State} {page off copy : Nat} {v : Word} {by_ : Option (Nat × Nat)}

theorem writeReg_header (hp : page < 0x41) (he : pageExists page s = true) (ho : off < 0x040) :
    writeReg by_ copy (pageBase page + off) v s = headerWrite page off v s := by
  have h1 : (pageBase page + off) / 0x1000 = page := by unfold pageBase; omega
  have h2 : (pageBase page + off) % 0x1000 = off := by unfold pageBase; omega
  have h3 : ¬ 0x200000 ≤ pageBase page + off := by unfold pageBase; omega
  have h4 : ¬ 0x100000 ≤ pageBase page + off := by unfold pageBase; omega
  simp only [writeReg, if_neg h3, if_neg h4, h1, h2, he, Bool.not_true, Bool.false_eq_true, if_false, if_pos ho]

theorem badAddr_header (hp : page < 0x41) (ho : off % 4 = 0) (hlt : off < 0x040) : badAddr (pageBase page + off) = false :=
  badAddr_of_aligned (by unfold pageBase; omega) (by unfold pageBase; omega)

theorem pageAddr_header (hp : page < 0x41) : pageAddr page 0x008 = pageBase page + 0x008 := by
  unfold pageAddr pageBase
  omega

end

/-- A write of the owner that sets one register. -/
theorem answers_setReg {port master addr a : Nat} {c : Instr} {f : State → State} {v x : Word} {s : State} (hw : s.tablesWf = true)
    (ho : OwnerTurn port master c s) (hc : exec c s = onAgent (.mgmt port master) c f s) (hin : inputOf c = none) (hbad : badAddr addr = false)
    (hf : ∀ q, f (withReached q s) = accessWrite (.mgmt port master) addr v (withReached q s))
    (hx : ∀ q, writeReg (some (port, master)) 0 addr v (withReached q s) = setReg a x (withReached q s)) :
    Answers c s fun t => reg a t = x ∧ RegsKeep [a] s t ∧ Answered port master 0#32 s t ∧ OnlyChanges [.reached, .regs, .out] s t := by
  refine answers_ownerWrite (w := setReg a x) ho hc hin hbad hf hx (fun _ => rfl) fun q => ?_
  exact ⟨reg_setReg_self (s := withReached q s) (regs_wf hw), setReg_regsKeep (.refl s) List.mem_cons_self, rfl,
    present_withReached_frame (setReg_frame (.refl _))⟩

theorem Answers.imp {c : Instr} {s : State} {P Q : State → Prop} (h : Answers c s P) (hi : ∀ t, P t → Q t) : Answers c s Q :=
  let ⟨t, he, ht⟩ := h
  ⟨t, he, hi t ht⟩

theorem headerWrites : Claims.HeaderWrites := by
  intro port master page addr v s hw hp he ho
  have hset {off a : Nat} {x : Word} (ha : addr.toNat = pageBase page + off) (h4 : off % 4 = 0) (hlt : off < 0x040)
      (hx : ∀ q, headerWrite page off v (withReached q s) = setReg a x (withReached q s)) :=
    answers_setReg (c := .registerWrite (.mgmt port master) addr v) (addr := addr.toNat) hw ho rfl rfl (ha ▸ badAddr_header hp h4 hlt) (fun _ => rfl)
      (fun q => by rw [ha]; exact (writeReg_header (s := withReached q s) hp he hlt).trans (hx q))
  refine ⟨fun ha => ?_, fun ha => ?_, fun ha => ?_⟩
  · rcases ha with ha | ha <;> rw [ha] <;> exact hset ha (by decide) (by decide) fun q => rfl
  · exact hset ha (by decide) (by decide) fun q => rfl
  · refine (hset (a := rIrqRaw page) (x := reg (rIrqRaw page) s &&& ~~~(v &&& ~~~(tget 0#32 (rIrqRaw page) s.setNow))) ha (by decide) (by decide)
      fun q => rfl).imp fun t ⟨hreg, hkeep, hans, hf⟩ => ⟨fun i hi => ?_, hkeep, hans, hf⟩
    rw [hreg]
    simp [hi]

/-! ### PAGE_CTRL (R385, R390) -/

section
variable {s : State} {page : Nat}

theorem reg_pageCtrl_or (hw : s.tablesWf = true) {v : Word} : reg (rPageCtrl page) (orReg (rPageCtrl page) v s) = reg (rPageCtrl page) s ||| v :=
  reg_orReg_self (regs_wf hw)

theorem pageCtrlWrite_plain {v : Word} (h : (bitOf v 1 && pageKind page == .ring) = false) : pageCtrlWrite page v s = orReg (rPageCtrl page) (v &&& 6#32) s := by
  simp [pageCtrlWrite, h]

theorem pageCtrlWrite_ringReset {v : Word} (h : (bitOf v 1 && pageKind page == .ring) = true) :
    pageCtrlWrite page v s = ringSoftReset (page - 0x18) (orReg (rPageCtrl page) (v &&& 6#32) s) := by
  simp [pageCtrlWrite, h]

end

/-- A write of the owner to PAGE_CTRL that does not touch a link. -/
theorem answers_pageCtrl {port master page : Nat} {c : Instr} {f : State → State} {v : Word} {s : State} (hw : s.tablesWf = true) (hp : page < 0x41)
    (he : pageExists page s = true) (ho : OwnerTurn port master c s) (hc : exec c s = onAgent (.mgmt port master) c f s) (hin : inputOf c = none)
    (hf : ∀ q, f (withReached q s) = accessWrite (.mgmt port master) (pageBase page + 0x008) v (withReached q s))
    (hv : (bitOf v 1 && pageKind page == .ring) = false) :
    Answers c s fun t => reg (rPageCtrl page) t = reg (rPageCtrl page) s ||| (v &&& 6#32) ∧ RegsKeep [rPageCtrl page] s t
      ∧ Answered port master 0#32 s t ∧ OnlyChanges [.reached, .regs, .setNow, .out] s t := by
  refine answers_ownerWrite (w := orReg (rPageCtrl page) (v &&& 6#32)) ho hc hin (badAddr_header hp (by decide) (by decide)) hf
    (fun q => (writeReg_header (s := withReached q s) hp he (by decide)).trans (pageCtrlWrite_plain hv)) (fun _ => rfl) fun q => ?_
  exact ⟨reg_pageCtrl_or (s := withReached q s) hw, orReg_regsKeep (.refl s) List.mem_cons_self, rfl, present_withReached_frame (orReg_frame (.refl _))⟩

/-! ### The soft reset of a ring port (R385) -/

section
variable {s : State} {p : Nat}

theorem links_wf_of_tables (h : s.tablesWf = true) : tableWf Link.down s.links = true := by
  simp only [State.tablesWf, Bool.and_eq_true] at h
  tauto

theorem linkAt_modLink_self {f : Link → Link} (h : tableWf Link.down s.links = true) : linkAt p (modLink p f s) = f (linkAt p s) := linkAt_setLink_self h
theorem linkAt_modLink_ne {q : Nat} {f : Link → Link} (h : q ≠ p) : linkAt q (modLink p f s) = linkAt q s := linkAt_setLink_ne h

/-- A change of a link that its page shows interrupts there; the link is as it was changed in any case. -/
theorem linkAt_changeLink_self {f : Link → Link} (h : tableWf Link.down s.links = true) : linkAt p (changeLink p f s) = f (linkAt p s) := by
  unfold changeLink
  dsimp only
  split <;> exact linkAt_modLink_self h

theorem linkAt_changeLink_ne {q : Nat} {f : Link → Link} (h : q ≠ p) : linkAt q (changeLink p f s) = linkAt q s := by
  unfold changeLink
  dsimp only
  split <;> exact linkAt_modLink_ne h

theorem linkAt_linkDies_self {code : BitVec 8} (h : tableWf Link.down s.links = true) :
    linkAt p (linkDies p code s) = if (linkAt p s).state = 0 ∨ (linkAt p s).dying ≠ 0#8 then linkAt p s else { linkAt p s with dying := code } :=
  linkAt_modLink_self h

theorem linkAt_ringSoftReset_self (h : s.tablesWf = true) :
    linkAt p (ringSoftReset p s) = (if (linkAt p s).state = 0 ∨ (linkAt p s).dying ≠ 0#8 then { linkAt p s with phyEnable := false }
      else { linkAt p s with phyEnable := false, dying := 0x2A#8 }) := by
  have hl := links_wf_of_tables h
  have hk : Keeps s (changeLink p (fun l => { l with phyEnable := false }) s) := changeLink_keeps (fun _ hk => ⟨hk.streams⟩) (.refl s)
  rw [ringSoftReset, linkAt_linkDies_self (links_wf_of_tables (hk.tablesWf h)), linkAt_changeLink_self hl]

theorem linkAt_ringSoftReset_ne {q : Nat} (h : q ≠ p) : linkAt q (ringSoftReset p s) = linkAt q s := by
  rw [ringSoftReset, linkDies, linkAt_modLink_ne h, linkAt_changeLink_ne h]

end

theorem pageControl : Claims.PageControl := by
  intro port master page s hw hp he
  refine ⟨fun hk ho => ?_, fun p hp8 hport hpage ho => ?_, fun ho => ?_⟩
  · refine (answers_pageCtrl (v := 2#32) hw hp he ho rfl rfl (fun q => by rw [← pageAddr_header hp]) (by simp [hk])).imp
      fun t ⟨hreg, hkeep, hans, hf⟩ => ⟨?_, ?_, hkeep, hans, hf⟩ <;> rw [hreg] <;> simp [bitOf]
  · have hv : (bitOf 2#32 1 && pageKind page == .ring) = true := by subst hpage; interval_cases p <;> rfl
    have hpp : page - 0x18 = p := by subst hpage; unfold pRING; omega
    have hw' (q : Place) : writeReg (some (port, master)) 0 (pageBase page + 0x008) 2#32 (withReached q s)
        = ringSoftReset p (orReg (rPageCtrl page) 2#32 (withReached q s)) := by
      rw [writeReg_header (s := withReached q s) hp he (by decide)]
      exact (pageCtrlWrite_ringReset hv).trans (by rw [hpp]; rfl)
    have hframe (q : Place) : OnlyChanges [.regs, .setNow, .links] (withReached q s) (ringSoftReset p (orReg (rPageCtrl page) 2#32 (withReached q s))) :=
      ringSoftReset_frame (orReg_frame (.refl _))
    refine answers_ownerWrite (w := fun s => ringSoftReset p (orReg (rPageCtrl page) 2#32 s)) ho rfl rfl (badAddr_header hp (by decide) (by decide))
      (fun q => by rw [← pageAddr_header hp]) hw' (fun q => (hframe q).requests_eq) fun q => ?_
    have hwo : (orReg (rPageCtrl page) 2#32 (withReached q s)).tablesWf = true := (orReg_keeps (.refl (withReached q s))).tablesWf hw
    have hl : linkAt p (ringSoftReset p (orReg (rPageCtrl page) 2#32 (withReached q s)))
        = if (linkAt p s).state = 0 ∨ (linkAt p s).dying ≠ 0#8 then { linkAt p s with phyEnable := false }
          else { linkAt p s with phyEnable := false, dying := 0x2A#8 } := linkAt_ringSoftReset_self hwo
    refine ⟨?_, ?_, fun h1 h2 => ?_, fun r hr => linkAt_ringSoftReset_ne hr, congrArg (· ++ _) (hframe q).out_eq⟩
    · exact (congrArg Link.phyEnable hl).trans (by split <;> rfl)
    · exact (congrArg Link.state hl).trans (by split <;> rfl)
    · exact (congrArg Link.dying hl).trans (by rw [if_neg (by simp [h1, h2])])
  · refine (answers_pageCtrl (v := 4#32) hw hp he ho rfl rfl (fun q => by rw [← pageAddr_header hp]) rfl).imp
      fun t ⟨hreg, hkeep, hans, hf⟩ => ⟨?_, ?_, hkeep, hans, hf⟩
    · rw [pageLocked, hreg]
      simp [bitOf]
    · rw [hreg]
      simp [bitOf]

/-- Settles O18: a header register takes what its write gives; PAGE_CTRL keeps its bits, and a ring port's soft reset ends its link. -/
theorem pageHeaders : Obligations.PageHeaders := ⟨headerWrites, pageControl⟩

end Sys2Proof.Machine
end

section
/-! PROOF. RESTORE_TRIMS where a CAL waits for the slew of INPUT_DELAY (R221, R228, R363). -/

namespace Sys2Proof.Machine

-- The inclusions that frames ask for are auto parameters, whose code is compiled: with proofs elaborated in order no thread waits for it.
set_option Elab.async false

/-! ### RESTORE_TRIMS and a CAL that waits -/

/-- A block that master 1 on port 0 owns, LOCKED over an UP link, with a CAL that waits for INPUT_DELAY to reach 0, where the boundaries stand already. -/
def calPending : State :=
  let r := State.resetOf ⟨4, 1, 1, 1, false, 0, 1⟩
  { r with
    clock := { r.clock with rstN := true, phase := 8 }
    owner := { r.owner with role := some (0, 1) }
    regs := [(rMER_STATE, 0x402#32)]
    mer := { r.mer with calWaiting := true, delayAt := 0 }
    links := [(0, { Link.down with state := 2 })] }

theorem calPending_turn : OwnerTurn 0 1 (.restoreTrims (.mgmt 0 1)) calPending := by
  unfold OwnerTurn
  decide

/-- RESTORE_TRIMS ends the slew, so that the waiting CAL sends its time frame before the port answers. -/
theorem calPending_presents : (match exec (.restoreTrims (.mgmt 0 1)) calPending with | .next t => t.out.length == 2 | _ => false) = true := by decide +kernel

/-- Refutes O19: RESTORE_TRIMS writes INPUT_DELAY, and where that ends a slew that a CAL waits for, the CAL's time frame is presented too, before the port's answer. -/
theorem not_logAndControlCommands : ¬ Obligations.LogAndControlCommands := by
  rintro ⟨-, h⟩
  obtain ⟨-, -, hrestore⟩ := h 0 1 calPending (by decide)
  obtain ⟨t, he, -, -, -, -, hans⟩ := hrestore calPending_turn
  have hlen := calPending_presents
  rw [he] at hlen
  have h1 : t.out.length = 1 := by rw [hans]; rfl
  simp [h1] at hlen

end Sys2Proof.Machine
end

section
/-! PROOF. FENCE_IN, THROTTLE, POWER.FENCE and IDLE (R380 to R384), and the power of a plane (R362, R383). -/

namespace Sys2Proof.Machine

-- The inclusions that frames ask for are auto parameters, whose code is compiled: with proofs elaborated in order no thread waits for it.
set_option Elab.async false

/-! ### Frames -/

section
variable {r s : State} {ps : List Part}

theorem setFenced_frame {b : Bool} (h : OnlyChanges ps r s) (hq : [.clock, .setNow, .regs] ⊆ ps := by decide) : OnlyChanges ps r (setFenced b s) :=
  h.then (ps := [.clock, .setNow, .regs]) (.unless (OnlyChanges.next (ps := [.clock]) (OnlyChanges.refl s) fun p hp => by cases p <;> simp [Part.same] at hp ⊢) fun h1 => irq_frame h1) hq
theorem fenceInApply_frame {level : Bool} (h : OnlyChanges ps r s) (hq : [.clock, .setNow, .regs, .mer] ⊆ ps := by decide) : OnlyChanges ps r (fenceInApply level s) :=
  h.then (ps := [.clock, .setNow, .regs, .mer]) (.ite (OnlyChanges.refl s) (setFenced_frame (OnlyChanges.next (ps := [.clock, .mer]) (OnlyChanges.refl s) fun p hp => by cases p <;> simp [Part.same] at hp ⊢))) hq
theorem noteThrottle_frame {was : Bool} (h : OnlyChanges ps r s) (hq : [.setNow, .regs] ⊆ ps := by decide) : OnlyChanges ps r (noteThrottle was s) :=
  h.then (ps := [.setNow, .regs]) (.ite (irq_frame (OnlyChanges.refl s)) (OnlyChanges.refl s)) hq
theorem throttleApply_frame {v : BitVec 2} (h : OnlyChanges ps r s) (hq : [.setNow, .regs, .clock] ⊆ ps := by decide) : OnlyChanges ps r (throttleApply v s) :=
  h.then (ps := [.setNow, .regs, .clock]) (.ite (OnlyChanges.refl s) (noteThrottle_frame (irq_frame (OnlyChanges.next (ps := [.clock]) (OnlyChanges.refl s) fun p hp => by cases p <;> simp [Part.same] at hp ⊢)))) hq
theorem setGated_frame {b : Bool} (h : OnlyChanges ps r s) (hq : [.clock, .setNow, .regs] ⊆ ps := by decide) : OnlyChanges ps r (setGated b s) :=
  h.then (ps := [.clock, .setNow, .regs]) (.unless (OnlyChanges.next (ps := [.clock]) (OnlyChanges.refl s) fun p hp => by cases p <;> simp [Part.same] at hp ⊢) fun h1 => irq_frame h1) hq
theorem idleEnterApply_frame (h : OnlyChanges ps r s) (hq : [.clock, .setNow, .regs] ⊆ ps := by decide) : OnlyChanges ps r (idleEnterApply s) :=
  h.then (ps := [.clock, .setNow, .regs]) (.ite (setGated_frame (OnlyChanges.refl s)) (OnlyChanges.refl s)) hq
theorem powerRefuse_frame (h : OnlyChanges ps r s) (hq : [.setNow, .regs, .log] ⊆ ps := by decide) : OnlyChanges ps r (powerRefuse s) :=
  h.then (ps := [.setNow, .regs, .log]) (notice_frame (OnlyChanges.refl s)) hq
theorem planePdBit_frame {v : Word} {p : Nat} (h : OnlyChanges ps r s) (hq : [.planes, .setNow, .regs, .log] ⊆ ps := by decide) : OnlyChanges ps r (planePdBit v s p) :=
  h.then (ps := [.planes, .setNow, .regs, .log]) (.ite (OnlyChanges.refl s) (.ite (.ite (setPlane_frame (orReg_frame (OnlyChanges.refl s)))
      (powerRefuse_frame (OnlyChanges.refl s))) (setPlane_frame (setReg_frame (OnlyChanges.refl s))))) hq
theorem planePdWrite_frame {v : Word} (h : OnlyChanges ps r s) (hq : [.planes, .setNow, .regs, .log] ⊆ ps := by decide) : OnlyChanges ps r (planePdWrite v s) :=
  h.then (ps := [.planes, .setNow, .regs, .log]) (.foldl (OnlyChanges.refl s) fun _ _ h1 => planePdBit_frame h1) hq
theorem setPower_frame {p : Nat} {n : Nat} (h : OnlyChanges ps r s) (hq : [.setNow, .regs, .planes] ⊆ ps := by decide) : OnlyChanges ps r (setPower p n s) :=
  h.then (ps := [.setNow, .regs, .planes]) (.ite (OnlyChanges.refl s) (irq_frame (setPlane_frame (OnlyChanges.refl s)))) hq
theorem failPlane_frame {p : Nat} (h : OnlyChanges ps r s) (hq : [.planes, .regs, .setNow, .log] ⊆ ps := by decide) : OnlyChanges ps r (failPlane p s) :=
  h.then (ps := [.planes, .regs, .setNow, .log]) (setPlane_frame (setReg_frame (setPower_frame (notice_frame (OnlyChanges.refl s))))) hq
theorem planeSelftestApply_frame {p : Nat} {rows : List (Nat × Nat)} (h : OnlyChanges ps r s) (hq : [.planes, .regs, .setNow, .log, .boot] ⊆ ps := by decide) : OnlyChanges ps r (planeSelftestApply p rows s) :=
  h.then (ps := [.planes, .regs, .setNow, .log, .boot]) (.ite (OnlyChanges.refl s) (.ite (failPlane_frame (OnlyChanges.next (ps := [.boot]) (OnlyChanges.refl s) fun p hp => by cases p <;> simp [Part.same] at hp ⊢)) (setPower_frame (OnlyChanges.next (ps := [.boot]) (OnlyChanges.refl s) fun p hp => by cases p <;> simp [Part.same] at hp ⊢)))) hq
end

/-! ### A command that samples an input -/

section
variable {s : State} {c : Instr}

/-- The state in which the sample of an input takes effect: the place is reached, and the input is noted as sampled. -/
def sampledAt (q : Place) (k : Nat) (s : State) : State := { s with clock := { s.clock with reached := q, sampled := s.clock.sampled ++ [k] } }

theorem sampledAt_onlyChanges (q : Place) (k : Nat) (s : State) : OnlyChanges [.reached, .clock] s (sampledAt q k s) := by
  intro p hp
  cases p <;> simp [Part.same, sampledAt] at hp ⊢

theorem sampledAt_frame {ps : List Part} {q : Place} {k : Nat} {t : State} (h : OnlyChanges ps (sampledAt q k s) t) (hr : .reached ∈ ps := by decide)
    (hc : .clock ∈ ps := by decide) : OnlyChanges ps s t := ((sampledAt_onlyChanges q k s).mono (by simp [hr, hc])).trans h

theorem atPlace_eq_sampledAt {p : Place} {k : Nat} (hp : placeOf c s = some p) (hc : inputOf c = some k) : atPlace c s = sampledAt p k s := by
  simp [atPlace, hp, takeTurn, hc, sampledAt]

end

/-! ### FENCED and THROTTLE (R380, R384) -/

section
variable {s : State} {b : Bool} {n : Nat}

theorem setFenced_cases (b : Bool) (s : State) : setFenced b s
    = if powerState s = powerState { s with clock := { s.clock with fenced := b } } then { s with clock := { s.clock with fenced := b } }
      else irq pPOWER 0 { s with clock := { s.clock with fenced := b } } := rfl

theorem setFenced_clock : (setFenced b s).clock = { s.clock with fenced := b } := by
  rw [setFenced_cases]
  split <;> rfl

theorem setFenced_regsKeep : RegsKeep [rIrqRaw pPOWER] s (setFenced b s) := by
  rw [setFenced_cases]
  exact .ite (.refl s) (irq_regsKeep (s := { s with clock := { s.clock with fenced := b } }) (.refl s) List.mem_cons_self)

theorem powerState_congr {t : State} (h : t.clock.fenced = s.clock.fenced) (h' : t.clock.gated = s.clock.gated) : powerState t = powerState s := by
  unfold powerState
  rw [h, h']

theorem setFenced_raises (hw : s.tablesWf = true) (h : powerState (setFenced b s) ≠ powerState s) : (reg (rIrqRaw pPOWER) (setFenced b s)).getLsbD 0 = true := by
  have hregs := regs_wf hw
  have hp : powerState (setFenced b s) = powerState { s with clock := { s.clock with fenced := b } } :=
    powerState_congr (congrArg Clock.fenced setFenced_clock) (congrArg Clock.gated setFenced_clock)
  rw [hp] at h
  rw [setFenced_cases, if_neg (Ne.symm h)]
  exact irq_raised (s := { s with clock := _ }) hregs (by decide)

end

/-- FENCE_IN as it has been taken, before the block is FENCED by it. -/
def fenceTaken (level : Bool) (s : State) : State :=
  { s with
    clock := { s.clock with fenceIn := level }
    mer := if level && !s.clock.fenceIn then { s.mer with fenceHighSince := s.clock.now } else s.mer }

theorem fenceTaken_frame {level : Bool} {s : State} {ps : List Part} (hq : [.clock, .mer] ⊆ ps := by decide) : OnlyChanges ps s (fenceTaken level s) :=
  (OnlyChanges.refl s).then (ps := [.clock, .mer]) (fun p hp => by cases p <;> simp [Part.same, fenceTaken] at hp ⊢) hq

theorem fenceInApply_alive {level : Bool} {s : State} (h : alive s = true) : fenceInApply level s = setFenced (level || fenceBit s) (fenceTaken level s) := by
  unfold fenceInApply
  rw [h]
  rfl

/-- A new value of THROTTLE as it has been taken. -/
def throttleTaken (v : BitVec 2) (s : State) : State := irq pPOWER 2 { s with clock := { s.clock with throttle := v } }

theorem throttleTaken_frame {v : BitVec 2} {s : State} {ps : List Part} (hq : [.clock, .regs, .setNow] ⊆ ps := by decide) : OnlyChanges ps s (throttleTaken v s) :=
  (OnlyChanges.refl s).then (ps := [.clock, .regs, .setNow])
    (irq_frame (OnlyChanges.next (ps := [.clock]) (.refl s) fun p hp => by cases p <;> simp [Part.same] at hp ⊢)) hq

theorem throttleApply_new {v : BitVec 2} {s : State} (h : alive s = true) (hv : v ≠ s.clock.throttle) :
    throttleApply v s = noteThrottle (overThrottle s) (throttleTaken v s) := if_neg (by simp [h, Ne.symm hv])

section
variable {s t : State}

theorem overThrottle_congr (hr : ∀ a, a ≠ rIrqRaw pPOWER → a ≠ rIrqRaw pMERIDIAN → reg a t = reg a s) (hc : t.clock.throttle = s.clock.throttle) :
    overThrottle t = overThrottle s := by
  have h3 : fieldOf (reg rEPH_ACTIVE s) 0 1 < 2 := Nat.mod_lt _ (by decide)
  have ha : activeBank t = activeBank s := by rw [activeBank, hr _ (by decide) (by decide)]; rfl
  have hb : reg (rBANK (activeBank s) 3) t = reg (rBANK (activeBank s) 3) s := by
    refine hr _ ?_ ?_ <;> unfold rBANK activeBank rIrqRaw pageBase <;> simp only [pPOWER, pMERIDIAN] <;> omega
  unfold overThrottle regNat
  rw [ha, hb, hc]

end

theorem fenceAndThrottle : Claims.FenceAndThrottle := by
  intro s hw halive
  have hregs := regs_wf hw
  refine ⟨fun level edges hf ha => ?_, fun v edges hv hf ha => ?_⟩
  · let x := fenceTaken level (sampledAt ⟨1, [0]⟩ 0 s)
    have he : exec (.fenceInChange ⟨level, edges⟩) s = .next (setFenced (level || fenceBit s) x) := by
      show execFenceInChange ⟨level, edges⟩ s = _
      rw [execFenceInChange, if_pos (by simpa [filterPasses] using hf), inTransit_of_applies ha, atPlace_eq_sampledAt rfl rfl]
      exact congrArg _ (fenceInApply_alive (s := sampledAt ⟨1, [0]⟩ 0 s) halive)
    have hf : OnlyChanges [.reached, .clock, .mer, .regs, .setNow] s (setFenced (level || fenceBit s) x) :=
      sampledAt_frame (q := ⟨1, [0]⟩) (k := 0) (setFenced_frame (s := x) fenceTaken_frame)
    have hc : (setFenced (level || fenceBit s) x).clock = { x.clock with fenced := level || fenceBit s } := setFenced_clock
    exact ⟨_, he, congrArg Clock.fenceIn hc, congrArg Clock.fenced hc, setFenced_regsKeep (s := x), setFenced_raises (s := x) hw, hf⟩
  · let x := sampledAt ⟨1, [1]⟩ 1 s
    have he : exec (.throttleChange ⟨v, edges⟩) s = .next (noteThrottle (overThrottle s) (throttleTaken v x)) := by
      show execThrottleChange ⟨v, edges⟩ s = _
      rw [execThrottleChange, if_pos (by simpa [filterPasses] using hf), inTransit_of_applies ha, atPlace_eq_sampledAt rfl rfl]
      exact congrArg _ (throttleApply_new (s := x) halive hv)
    have hraised : (reg (rIrqRaw pPOWER) (throttleTaken v x)).getLsbD 2 = true := irq_raised (s := { x with clock := _ }) hregs (by decide)
    have hwx : (throttleTaken v x).tablesWf = true := (irq_keeps (.refl { x with clock := { x.clock with throttle := v } })).tablesWf hw
    have hf : OnlyChanges [.reached, .clock, .regs, .setNow] s (noteThrottle (overThrottle s) (throttleTaken v x)) :=
      sampledAt_frame (q := ⟨1, [1]⟩) (k := 1) (noteThrottle_frame (s := throttleTaken v x) throttleTaken_frame)
    have hk : RegsKeep [rIrqRaw pPOWER, rIrqRaw pMERIDIAN] s (throttleTaken v x) :=
      irq_regsKeep (s := { x with clock := _ }) (.refl s) List.mem_cons_self
    refine ⟨_, he, ?_, ?_, fun h1 h2 => ?_, ?_, hf⟩
    · unfold noteThrottle
      split <;> rfl
    · unfold noteThrottle
      split
      · exact irq_bitStays hwx hraised
      · exact hraised
    · have ho : overThrottle (noteThrottle (overThrottle s) (throttleTaken v x)) = overThrottle (throttleTaken v x) := by
        unfold noteThrottle
        split
        · exact overThrottle_congr (fun a _ h => reg_irq_ne h) rfl
        · rfl
      rw [ho] at h1
      rw [noteThrottle, if_pos (by simp [h1, h2])]
      exact irq_raised (regs_wf hwx) (by decide)
    · unfold noteThrottle
      exact .ite (irq_regsKeep hk (List.mem_cons_of_mem _ List.mem_cons_self)) hk

/-! ### POWER.FENCE and IDLE (R380, R381) -/

theorem fenceWriteAndIdle : Claims.FenceWriteAndIdle := by
  refine ⟨fun port master v s hw ho => answers_setReg hw ho rfl rfl (by decide) (fun _ => rfl) fun q => rfl, fun s hw halive hdue hgated hidle hrun => ?_⟩
  have hregs := regs_wf hw
  have hgo : (alive s && !s.clock.gated && idleNow s && decide (regNat rIDLE_DELAY s ≤ s.clock.idleRun)) = true := by simp [halive, hgated, hidle, hrun]
  refine answers_unplaced rfl rfl hdue ?_
  have hf : OnlyChanges [.clock, .regs, .setNow] s (idleEnterApply s) := idleEnterApply_frame (.refl s)
  rw [idleEnterApply, if_pos hgo] at hf ⊢
  let x : State := { s with clock := { s.clock with gated := true, idleRun := 0 } }
  have hcases : setGated true s = if powerState s = powerState x then x else irq pPOWER 0 x := rfl
  have hclock : (setGated true s).clock = x.clock := by
    rw [hcases]
    split <;> rfl
  refine ⟨congrArg Clock.gated hclock, fun hfenced => ?_, hf⟩
  have hx : powerState x = 1 := by
    show (if s.clock.fenced then 2 else 1) = 1
    rw [hfenced]
    rfl
  have h0 : powerState s = 0 := by
    unfold powerState
    rw [hfenced, hgated]
    rfl
  refine ⟨(powerState_congr (congrArg Clock.fenced hclock) (congrArg Clock.gated hclock)).trans hx, ?_⟩
  rw [hcases, if_neg (by rw [hx, h0]; decide)]
  exact irq_raised (s := x) hregs (by decide)

/-- Settles O20: FENCED follows its two causes, a change of THROTTLE is noted once, and IDLE is entered where it is due. -/
theorem fencingAndIdling : Obligations.FencingAndIdling := ⟨fenceAndThrottle, fenceWriteAndIdle⟩

end Sys2Proof.Machine
end

section
/-! PROOF. Power of a plane, its self-test, and the two banks of the ephemeris (R362, R383; R230 to R234, R403). -/

namespace Sys2Proof.Machine

-- The inclusions that frames ask for are auto parameters, whose code is compiled: with proofs elaborated in order no thread waits for it.
set_option Elab.async false

/-! ### Bits of registers -/

section
variable {w : Word} {p q : Nat}

theorem bit_getLsbD (hp : p < 32) : (bit p).getLsbD q = decide (q = p) := by
  unfold bit
  rw [BitVec.getLsbD_ofNat, Nat.testBit_two_pow]
  by_cases h : q = p
  · simp [h, hp]
  · simp [h, Ne.symm h]

theorem bitOf_or_bit (hp : p < 32) : bitOf (w ||| bit p) q = (bitOf w q || decide (q = p)) := by
  unfold bitOf
  rw [BitVec.getLsbD_or, bit_getLsbD hp]

theorem bitOf_clear_bit (hp : p < 32) : bitOf (w &&& ~~~(bit p)) q = (bitOf w q && !decide (q = p)) := by
  unfold bitOf
  rw [BitVec.getLsbD_and, BitVec.getLsbD_not, bit_getLsbD hp]
  by_cases hq : q < 32
  · simp [hq]
  · simp [BitVec.getLsbD_of_ge w q (by omega)]

end

/-! ### PLANE_PD (R383) -/

section
variable {s : State} {p : Nat}

theorem planes_wf (h : s.tablesWf = true) : tableWf PlaneSt.on s.planes = true := by
  unfold State.tablesWf at h
  simp only [Bool.and_eq_true] at h
  exact h.2

/-- A PLANE_PD that differs from the register in one plane's bit is a write for that plane. -/
theorem planePdWrite_one {v : Word} (hp : p < s.build.planes) (hv : ∀ q, q ≠ p → bitOf v q = planePd q s)
    (hstay : ∀ q, q ≠ p → planePd q (planePdBit v s p) = planePd q s) : planePdWrite v s = planePdBit v s p := by
  have hskip {t : State} {q : Nat} (h : planePd q t = bitOf v q) : planePdBit v t q = t := if_pos (by simp [h])
  have hsame {l : List Nat} {t : State} (h : ∀ q ∈ l, planePd q t = bitOf v q) : l.foldl (planePdBit v) t = t := by
    induction l with
    | nil => rfl
    | cons q l ih => rw [List.foldl_cons, hskip (h q List.mem_cons_self)]; exact ih fun r hr => h r (List.mem_cons_of_mem _ hr)
  obtain ⟨k, hk⟩ := Nat.exists_eq_add_of_lt hp
  rw [planePdWrite, show s.build.planes = p + (k + 1) by omega, List.range_add, List.range_succ_eq_map, List.map_cons, List.foldl_append, List.foldl_cons,
    hsame fun q hq => (hv q (by have := List.mem_range.mp hq; omega)).symm]
  refine hsame fun q hq => ?_
  obtain ⟨r, hr, rfl⟩ := List.mem_map.mp hq
  obtain ⟨r', -, rfl⟩ := List.mem_map.mp hr
  have hne : p + r'.succ ≠ p := by omega
  exact (hstay _ hne).trans (hv _ hne).symm

theorem planePd_withReached {q : Nat} {pl : Place} : planePd q (withReached pl s) = planePd q s := rfl

theorem writeReg_planePd {by_ : Option (Nat × Nat)} {v : Word} : writeReg by_ 0 rPLANE_PD v s = planePdWrite v s := rfl

/-- The plane has been asked to change its power, and its bit stands. -/
def pdAsked (b : Bool) (p : Nat) (s : State) : State := setPlane p { planeAt p s with pdNext := some b } s

/-- The two changes of power that a write of one plane's bit can ask for. -/
def askDown (p : Nat) (s : State) : State := pdAsked true p (orReg rPLANE_PD (bit p) s)
def askUp (p : Nat) (s : State) : State := pdAsked false p (setReg rPLANE_PD (reg rPLANE_PD s &&& ~~~(bit p)) s)

theorem planePd_askDown (hw : s.tablesWf = true) (hp : p < 32) {q : Nat} : planePd q (askDown p s) = (planePd q s || decide (q = p)) :=
  (congrArg (bitOf · q) (reg_orReg_self (a := rPLANE_PD) (regs_wf hw))).trans (bitOf_or_bit hp)

theorem planePd_askUp (hw : s.tablesWf = true) (hp : p < 32) {q : Nat} : planePd q (askUp p s) = (planePd q s && !decide (q = p)) :=
  (congrArg (bitOf · q) (reg_setReg_self (a := rPLANE_PD) (regs_wf hw))).trans (bitOf_clear_bit hp)

theorem planeAt_askDown_self (hw : s.tablesWf = true) : planeAt p (askDown p s) = { planeAt p s with pdNext := some true } :=
  planeAt_setPlane_self (s := orReg rPLANE_PD (bit p) s) (show tableWf PlaneSt.on s.planes = true from planes_wf hw)

theorem planeAt_askUp_self (hw : s.tablesWf = true) : planeAt p (askUp p s) = { planeAt p s with pdNext := some false } :=
  planeAt_setPlane_self (s := setReg rPLANE_PD _ s) (show tableWf PlaneSt.on s.planes = true from planes_wf hw)

theorem planeAt_askDown_ne {q : Nat} (h : q ≠ p) : planeAt q (askDown p s) = planeAt q s := planeAt_setPlane_ne h
theorem planeAt_askUp_ne {q : Nat} (h : q ≠ p) : planeAt q (askUp p s) = planeAt q s := planeAt_setPlane_ne h

theorem planePdBit_down (h2 : planePower p s ≠ 2) (hoff : planePd p s = false) (hp : p < 32) :
    planePdBit (reg rPLANE_PD s ||| bit p) s p = if planeEmpty p s then askDown p s else powerRefuse s := by
  have hb : bitOf (reg rPLANE_PD s ||| bit p) p = true := by simp [bitOf_or_bit hp]
  rw [planePdBit, hb, hoff, if_neg (by simpa using h2), if_pos rfl]
  rfl

theorem planePdBit_up (h2 : planePower p s ≠ 2) (hon : planePd p s = true) (hp : p < 32) :
    planePdBit (reg rPLANE_PD s &&& ~~~(bit p)) s p = askUp p s := by
  have hb : bitOf (reg rPLANE_PD s &&& ~~~(bit p)) p = false := by simp [bitOf_clear_bit hp]
  rw [planePdBit, hb, hon, if_neg (by simpa using h2), if_neg Bool.false_ne_true]
  rfl

theorem planePd_powerRefuse {q : Nat} : planePd q (powerRefuse s) = planePd q s := congrArg (bitOf · q) (reg_notice_ne (by decide))

theorem powerRefuse_planes : (powerRefuse s).planes = s.planes := powerRefuse_frame (ps := [.setNow, .regs, .log]) (.refl s) (by decide) .planes (by decide)

theorem planeAt_powerRefuse {q : Nat} : planeAt q (powerRefuse s) = planeAt q s := congrArg (tget PlaneSt.on q) powerRefuse_planes

/-- The write of PLANE_PD that PLANE_POWER_DOWN makes. -/
theorem planePdWrite_down (hw : s.tablesWf = true) (hlt : p < s.build.planes) (h2 : planePower p s ≠ 2) (hoff : planePd p s = false) (hp : p < 32) :
    planePdWrite (reg rPLANE_PD s ||| bit p) s = if planeEmpty p s then askDown p s else powerRefuse s := by
  have hbit := planePdBit_down h2 hoff hp
  refine (planePdWrite_one hlt (fun r hr => ?_) fun r hr => ?_).trans hbit
  · rw [bitOf_or_bit hp, decide_eq_false hr, Bool.or_false]
    rfl
  · rw [hbit]
    split
    · rw [planePd_askDown hw hp, decide_eq_false hr, Bool.or_false]
    · exact planePd_powerRefuse

/-- The write of PLANE_PD that PLANE_POWER_UP makes. -/
theorem planePdWrite_up (hw : s.tablesWf = true) (hlt : p < s.build.planes) (h2 : planePower p s ≠ 2) (hon : planePd p s = true) (hp : p < 32) :
    planePdWrite (reg rPLANE_PD s &&& ~~~(bit p)) s = askUp p s := by
  have hbit := planePdBit_up h2 hon hp
  refine (planePdWrite_one hlt (fun r hr => ?_) fun r hr => ?_).trans hbit
  · rw [bitOf_clear_bit hp, decide_eq_false hr, Bool.not_false, Bool.and_true]
    rfl
  · rw [hbit, planePd_askUp hw hp, decide_eq_false hr, Bool.not_false, Bool.and_true]

end

/-- What a refused PLANE_POWER_DOWN leaves. -/
theorem powerRefuse_spec {s : State} (hroom : LogRoom s) : let t := powerRefuse s
    (∀ q, planePd q t = planePd q s) ∧ (∀ q, planeAt q t = planeAt q s) ∧ t.planes = s.planes ∧ Logged 0x99 0 0x0000#16 s t :=
  ⟨fun _ => planePd_powerRefuse, fun _ => planeAt_powerRefuse, powerRefuse_planes, notice_logged (src := source 0 0) hroom (.inr (by decide))⟩

theorem planePowerDownUp (port master p : Nat) (s : State) (hw : s.tablesWf = true) (hp8 : p < 8) (hp : hasPlane p s = true) (h2 : planePower p s ≠ 2) :
    (planePd p s = false → LogRoom s → OwnerTurn port master (.planePowerDown (.mgmt port master) p) s → Answers (.planePowerDown (.mgmt port master) p) s fun t =>
      (if planeEmpty p s then planePd p t = true ∧ planeAt p t = { planeAt p s with pdNext := some true } ∧ t.log = s.log
       else planePd p t = false ∧ t.planes = s.planes ∧ Logged 0x99 0 0x0000#16 s t)
        ∧ (∀ q, q ≠ p → q < 8 → planePd q t = planePd q s ∧ planeAt q t = planeAt q s) ∧ Answered port master 0#32 s t)
      ∧ (planePd p s = true → OwnerTurn port master (.planePowerUp (.mgmt port master) p) s → Answers (.planePowerUp (.mgmt port master) p) s fun t =>
        planePd p t = false ∧ planeAt p t = { planeAt p s with pdNext := some false } ∧ t.log = s.log
          ∧ (∀ q, q ≠ p → q < 8 → planePd q t = planePd q s ∧ planeAt q t = planeAt q s) ∧ Answered port master 0#32 s t) := by
  have hlt : p < s.build.planes := by simpa [hasPlane] using hp
  have h32 : p < 32 := by omega
  refine ⟨fun hoff hroom ho => ?_, fun hon ho => ?_⟩
  · have hwrite (q : Place) := planePdWrite_down (s := withReached q s) hw hlt h2 hoff h32
    have hframe (q : Place) : OnlyChanges [.planes, .setNow, .regs, .log] (withReached q s) (planePdWrite (reg rPLANE_PD s ||| bit p) (withReached q s)) :=
      planePdWrite_frame (.refl _)
    refine answers_ownerWrite (addr := rPLANE_PD) (v := reg rPLANE_PD s ||| bit p) (w := planePdWrite (reg rPLANE_PD s ||| bit p)) ho
      (if_pos hp8) rfl rfl (fun _ => rfl) (fun _ => rfl) (fun q => (hframe q).requests_eq) fun q => ?_
    have hwrite := hwrite q
    change planePdWrite (reg rPLANE_PD s ||| bit p) (withReached q s) = if planeEmpty p s then _ else _ at hwrite
    have hout := congrArg (· ++ [PortOut.mgmtRsp port master 0#32 false]) (hframe q).out_eq
    rw [hwrite] at hout ⊢
    by_cases he : planeEmpty p s = true
    · rw [if_pos he] at hout
      rw [if_pos he, if_pos he]
      refine ⟨⟨(planePd_askDown (s := withReached q s) hw h32).trans (by simp), planeAt_askDown_self (s := withReached q s) hw, rfl⟩,
        fun r hr _ => ⟨(planePd_askDown (s := withReached q s) hw h32).trans ?_, planeAt_askDown_ne (s := withReached q s) hr⟩, hout⟩
      rw [decide_eq_false hr, Bool.or_false]
      rfl
    · rw [if_neg he] at hout
      rw [if_neg he, if_neg he]
      have hspec := powerRefuse_spec (s := withReached q s) hroom
      generalize powerRefuse (withReached q s) = t at hspec hout ⊢
      obtain ⟨hpd, hat, hplanes, hlog⟩ := hspec
      exact ⟨⟨(hpd p).trans hoff, hplanes, hlog.of_eq rfl rfl rfl⟩, fun r _ _ => ⟨hpd r, hat r⟩, hout⟩
  · have hwrite (q : Place) := planePdWrite_up (s := withReached q s) hw hlt h2 hon h32
    refine answers_ownerWrite (addr := rPLANE_PD) (v := reg rPLANE_PD s &&& ~~~(bit p)) (w := planePdWrite (reg rPLANE_PD s &&& ~~~(bit p))) ho
      (if_pos hp8) rfl rfl (fun _ => rfl) (fun _ => rfl) (fun q => (planePdWrite_frame (ps := [.planes, .setNow, .regs, .log]) (.refl (withReached q s))).requests_eq (s := withReached q s)) fun q => ?_
    rw [show planePdWrite (reg rPLANE_PD s &&& ~~~(bit p)) (withReached q s) = _ from hwrite q]
    refine ⟨(planePd_askUp (s := withReached q s) hw h32).trans (by simp), planeAt_askUp_self (s := withReached q s) hw, rfl,
      fun r hr _ => ⟨(planePd_askUp (s := withReached q s) hw h32).trans ?_, planeAt_askUp_ne (s := withReached q s) hr⟩, rfl⟩
    rw [decide_eq_false hr, Bool.not_false, Bool.and_true]
    rfl

/-! ### The self-test of a plane (R362) -/

/-- What the self-test of a plane has found stands beside what those of other planes found. -/
def testFound (p : Nat) (rows : List (Nat × Nat)) (s : State) : State :=
  let inShare := fun x : Nat × Nat => decide (Config.macroPlane x.1 = some p)
  { s with boot := { s.boot with testRows := (s.boot.testRows.filter fun x => !inShare x) ++ rows.filter inShare } }

section
variable {s : State} {p : Nat}

theorem planeSelftestApply_testing {rows : List (Nat × Nat)} (ha : alive s = true) (h3 : planePower p s = 3) :
    planeSelftestApply p rows s = if shareFails p (testFound p rows s) then failPlane p (testFound p rows s) else setPower p 0 (testFound p rows s) := by
  have hshare (x : Nat × Nat) : (Config.macroPlane x.1 == some p) = decide (Config.macroPlane x.1 = some p) := by
    rw [Bool.eq_iff_iff, beq_iff_eq, decide_eq_true_iff]
  unfold planeSelftestApply testFound
  rw [if_neg (by simp [ha, h3])]
  simp only [hshare]

theorem setPower_new {n : Nat} (h : (planeAt p s).power ≠ n) : setPower p n s = irq pPOWER 1 (setPlane p { planeAt p s with power := n } s) := if_neg h

theorem setPower_spec {n : Nat} (hw : s.tablesWf = true) (hp : hasPlane p s = true) (h : (planeAt p s).power ≠ n) :
    let t := setPower p n s
    planePower p t = n ∧ (reg (rIrqRaw pPOWER) t).getLsbD 1 = true ∧ (∀ q, q ≠ p → planeAt q t = planeAt q s) := by
  have hregs := regs_wf hw
  rw [setPower_new h]
  refine ⟨?_, irq_raised (s := setPlane p _ s) hregs (by decide), fun q hq => planeAt_setPlane_ne hq⟩
  have hat : planeAt p (irq pPOWER 1 (setPlane p { planeAt p s with power := n } s)) = { planeAt p s with power := n } := planeAt_setPlane_self (planes_wf hw)
  exact (if_pos hp).trans (congrArg PlaneSt.power hat)

/-- A plane that fails: its power, its bit of PLANE_PD, and what was asked of it. -/
def planeFailed (p : Nat) (s : State) : State := setPlane p { planeAt p s with pdNext := none } (setReg rPLANE_PD (reg rPLANE_PD s &&& ~~~(bit p)) s)

theorem failPlane_eq : failPlane p s = planeFailed p (setPower p 2 (notice 0x93 (source 1 p) s)) := rfl

theorem planeFailed_spec (hw : s.tablesWf = true) (hp : hasPlane p s = true) : let t := planeFailed p s
    planePower p t = planePower p s ∧ reg (rIrqRaw pPOWER) t = reg (rIrqRaw pPOWER) s ∧ (∀ q, q ≠ p → planeAt q t = planeAt q s) := by
  refine ⟨?_, reg_setReg_ne (by decide), fun q hq => planeAt_setPlane_ne hq⟩
  have hat : planeAt p (planeFailed p s) = { planeAt p s with pdNext := none } :=
    planeAt_setPlane_self (s := setReg rPLANE_PD _ s) (show tableWf PlaneSt.on s.planes = true from planes_wf hw)
  exact (if_pos hp).trans ((congrArg PlaneSt.power hat).trans (if_pos hp).symm)

theorem failPlane_spec (hw : s.tablesWf = true) (hp : hasPlane p s = true) (h : (planeAt p s).power ≠ 2) (hroom : LogRoom s) :
    let t := failPlane p s
    planePower p t = 2 ∧ (reg (rIrqRaw pPOWER) t).getLsbD 1 = true ∧ (∀ q, q ≠ p → planeAt q t = planeAt q s) ∧ Logged 0x93 0 (source 1 p) s t := by
  have hn : OnlyChanges [.setNow, .regs, .log] s (notice 0x93 (source 1 p) s) := notice_frame (.refl s)
  have hwn : (notice 0x93 (source 1 p) s).tablesWf = true := (notice_keeps (.refl s)).tablesWf hw
  have hl : Logged 0x93 0 (source 1 p) s (notice 0x93 (source 1 p) s) := notice_logged hroom (.inr (by decide))
  rw [failPlane_eq]
  generalize notice 0x93 (source 1 p) s = x at hn hwn hl ⊢
  have hplanes : x.planes = s.planes := hn .planes (by decide)
  have hat (q : Nat) : planeAt q x = planeAt q s := congrArg (tget PlaneSt.on q) hplanes
  have hpx : hasPlane p x = true := by rwa [hasPlane, hn .build (by decide)]
  obtain ⟨h1, h2, h3⟩ := setPower_spec (n := 2) hwn hpx (by rwa [hat])
  have hy : OnlyChanges [.setNow, .regs, .planes] x (setPower p 2 x) := setPower_frame (.refl x)
  have hwy : (setPower p 2 x).tablesWf = true := (setPower_keeps (.refl x)).tablesWf hwn
  generalize setPower p 2 x = y at h1 h2 h3 hy hwy ⊢
  have hpy : hasPlane p y = true := by rwa [hasPlane, hy .build (by decide)]
  obtain ⟨h4, h5, h6⟩ := planeFailed_spec hwy hpy
  exact ⟨h4.trans h1, by rw [h5]; exact h2, fun q hq => (h6 q hq).trans ((h3 q hq).trans (hat q)), hl.of_eq rfl rfl (hy .log (by decide))⟩

end

theorem planeSelftest (p : Nat) (rows : List (Nat × Nat)) (s : State) (hw : s.tablesWf = true) (hp : hasPlane p s = true) (halive : alive s = true)
    (h3 : planePower p s = 3) (hroom : LogRoom s) (ha : applies (.planeSelftestDone p rows) s = true) :
    let inShare := fun x : Nat × Nat => decide (Config.macroPlane x.1 = some p)
    let found := (s.boot.testRows.filter fun x => !inShare x) ++ rows.filter inShare
    let fails := shareFails p { s with boot := { s.boot with testRows := found } }
    Answers (.planeSelftestDone p rows) s fun t => t.boot = { s.boot with testRows := found } ∧ planePower p t = (if fails then 2 else 0) ∧ (reg (rIrqRaw pPOWER) t).getLsbD 1 = true
      ∧ (∀ q, q ≠ p → planeAt q t = planeAt q s) ∧ (if fails then Logged 0x93 0 (source 1 p) s t else t.log = s.log)
      ∧ OnlyChanges [.reached, .boot, .planes, .regs, .setNow, .log] s t := by
  have hpower : (planeAt p s).power = 3 := (if_pos hp).symm.trans h3
  refine answers_next (if_pos hp) rfl ha fun q => ?_
  have happly := planeSelftestApply_testing (s := withReached q s) (rows := rows) halive h3
  have hf : OnlyChanges [.reached, .boot, .planes, .regs, .setNow, .log] (withReached q s) (planeSelftestApply p rows (withReached q s)) := planeSelftestApply_frame (.refl _)
  rw [happly] at hf ⊢
  have hfails : shareFails p (testFound p rows (withReached q s)) = shareFails p (testFound p rows s) := rfl
  change _ ∧ planePower p _ = (if shareFails p (testFound p rows s) then 2 else 0) ∧ _ ∧ _ ∧ (if shareFails p (testFound p rows s) then _ else _) ∧ _
  rw [hfails] at hf ⊢
  by_cases hb : shareFails p (testFound p rows s) = true
  · rw [if_pos hb] at hf
    rw [if_pos hb, if_pos hb, if_pos hb]
    have hspec := failPlane_spec (s := testFound p rows (withReached q s)) hw hp (by show (planeAt p s).power ≠ 2; rw [hpower]; decide) hroom
    have hboot : (failPlane p (testFound p rows (withReached q s))).boot = (testFound p rows s).boot :=
      failPlane_frame (ps := [.planes, .regs, .setNow, .log]) (.refl (testFound p rows (withReached q s))) (by decide) .boot (by decide)
    generalize failPlane p (testFound p rows (withReached q s)) = t at hspec hboot hf ⊢
    obtain ⟨h1, h2, h4, h5⟩ := hspec
    exact ⟨hboot, h1, h2, h4, h5.of_eq rfl rfl rfl, withReached_frame hf⟩
  · rw [if_neg hb] at hf
    rw [if_neg hb, if_neg hb, if_neg hb]
    have hspec := setPower_spec (s := testFound p rows (withReached q s)) (n := 0) hw hp (by show (planeAt p s).power ≠ 0; rw [hpower]; decide)
    have hy : OnlyChanges [.setNow, .regs, .planes] (testFound p rows (withReached q s)) (setPower p 0 (testFound p rows (withReached q s))) := setPower_frame (.refl _)
    generalize setPower p 0 (testFound p rows (withReached q s)) = t at hspec hf hy ⊢
    obtain ⟨h1, h2, h4⟩ := hspec
    exact ⟨hy .boot (by decide), h1, h2, h4, hy .log (by decide), withReached_frame hf⟩

/-- Settles O21: a plane's power down, power up, and self-test. -/
theorem planePower_holds : Obligations.PlanePower :=
  ⟨planePowerDownUp, fun p rows s hw _ hp halive h3 hroom ha => planeSelftest p rows s hw hp halive h3 hroom ha⟩

end Sys2Proof.Machine
end

section
/-! PROOF. The two banks of the ephemeris: swaps and entry words (R230 to R234, R403). -/

namespace Sys2Proof.Machine

-- The inclusions that frames ask for are auto parameters, whose code is compiled: with proofs elaborated in order no thread waits for it.
set_option Elab.async false

section
variable {r s : State} {ps : List Part}

theorem swapArmWrite_frame {v : Word} (h : OnlyChanges ps r s) (hq : [.mer, .found] ⊆ ps := by decide) : OnlyChanges ps r (swapArmWrite v s) :=
  h.then (ps := [.mer, .found]) (.ite (.when (OnlyChanges.next (ps := [.mer]) (OnlyChanges.refl s) fun p hp => by cases p <;> simp [Part.same] at hp ⊢) fun h1 => noticeNext_frame h1) (OnlyChanges.next (ps := [.mer]) (OnlyChanges.refl s) fun p hp => by cases p <;> simp [Part.same] at hp ⊢)) hq
theorem bankSwapApply_frame (h : OnlyChanges ps r s) (hq : [.setNow, .regs, .mer] ⊆ ps := by decide) : OnlyChanges ps r (bankSwapApply s) := by
  refine h.then (ps := [.setNow, .regs, .mer]) ?_ hq
  unfold bankSwapApply
  dsimp only
  split
  · exact OnlyChanges.refl s
  · exact .ite (OnlyChanges.refl s) (noteThrottle_frame (irq_frame (setReg_frame (OnlyChanges.next (ps := [.mer]) (OnlyChanges.refl s) fun p hp => by cases p <;> simp [Part.same] at hp ⊢))))
theorem entryAutoInc_frame {copy : Nat} {w : Nat} (h : OnlyChanges ps r s) (hq : [.regs] ⊆ ps := by decide) : OnlyChanges ps r (entryAutoInc copy w s) :=
  h.then (ps := [.regs]) (.ite (setReg_frame (OnlyChanges.refl s)) (OnlyChanges.refl s)) hq
theorem entryWrite_frame {copy : Nat} {w : Nat} {v : Word} (h : OnlyChanges ps r s) (hq : [.regs, .found, .ephemeris] ⊆ ps := by decide) : OnlyChanges ps r (entryWrite copy w v s) :=
  h.then (ps := [.regs, .found, .ephemeris]) (entryAutoInc_frame (.ite (noticeNext_frame (OnlyChanges.refl s)) (OnlyChanges.next (ps := [.ephemeris]) (OnlyChanges.refl s) fun p hp => by cases p <;> simp [Part.same] at hp ⊢))) hq
end

/-! ### Fields of registers -/

section
variable {w x : Word} {lo n : Nat}

theorem fieldOf_eq_extract : fieldOf w lo n = (w.extractLsb' lo n).toNat := by
  rw [BitVec.extractLsb'_toNat]
  rfl

theorem fieldOf_lt : fieldOf w lo n < 2 ^ n := Nat.mod_lt _ (Nat.two_pow_pos n)

/-- The low twelve bits, set to a number. -/
theorem fieldOf_low12_set {i : Nat} (hi : i < 4096) : fieldOf ((w &&& 0xFFFFF000#32) ||| BitVec.ofNat 32 i) 0 12 = i := by
  have hbits : ((w &&& 0xFFFFF000#32) ||| BitVec.ofNat 32 i).extractLsb' 0 12 = (BitVec.ofNat 32 i).extractLsb' 0 12 := by
    have hmask : (0xFFFFF000#32).extractLsb' 0 12 = 0#12 := by decide
    rw [BitVec.extractLsb'_or, BitVec.extractLsb'_and, hmask, BitVec.and_zero, BitVec.zero_or]
  rw [fieldOf_eq_extract, hbits, BitVec.extractLsb'_toNat, BitVec.toNat_ofNat]
  simp
  omega

/-- What stands above the low twelve bits stays. -/
theorem fieldOf_bank_set {i : Nat} (hi : i < 4096) : fieldOf ((w &&& 0xFFFFF000#32) ||| BitVec.ofNat 32 i) 12 1 = fieldOf w 12 1 := by
  have hmask : (0xFFFFF000#32).extractLsb' 12 1 = BitVec.allOnes 1 := by decide
  have hzero : (BitVec.ofNat 32 i).extractLsb' 12 1 = 0#1 := by
    apply BitVec.eq_of_toNat_eq
    rw [BitVec.extractLsb'_toNat, BitVec.toNat_ofNat, Nat.mod_eq_of_lt (by omega : i < 2 ^ 32), Nat.shiftRight_eq_div_pow, Nat.div_eq_of_lt hi]
    rfl
  rw [fieldOf_eq_extract, BitVec.extractLsb'_or, BitVec.extractLsb'_and, hmask, hzero, BitVec.and_allOnes, BitVec.or_zero, ← fieldOf_eq_extract]

theorem fieldOf_bit_flip {b : Nat} (h : b < 2) : fieldOf (BitVec.ofNat 32 (1 - b)) 0 1 = 1 - b := by
  interval_cases b <;> decide

end

theorem activeBank_lt (s : State) : activeBank s < 2 := fieldOf_lt (n := 1)

/-! ### Swaps (R233) -/

/-- The armed swap has ended. -/
def swapEnded (s : State) : State := { s with mer := { s.mer with swapAt := none } }

/-- The other bank is active. -/
def bankSwapped (s : State) : State := irq pEPHEMERIS 0 (setReg rEPH_ACTIVE (BitVec.ofNat 32 (1 - activeBank s)) (swapEnded s))

theorem bankSwapApply_due {a : Word64} {s : State} (halive : alive s = true) (ha : s.mer.swapAt = some a) (hdue : a.toNat ≤ s.clock.transit.toNat) :
    bankSwapApply s = noteThrottle (overThrottle (swapEnded s)) (bankSwapped s) := by
  unfold bankSwapApply
  rw [ha]
  exact if_neg (by simp [halive, hdue])

theorem bankSwapped_spec {s : State} (hw : s.tablesWf = true) : let t := bankSwapped s
    activeBank t = 1 - activeBank s ∧ t.mer = { s.mer with swapAt := none } ∧ (reg (rIrqRaw pEPHEMERIS) t).getLsbD 0 = true
      ∧ RegsKeep [rEPH_ACTIVE, rIrqRaw pEPHEMERIS, rIrqRaw pMERIDIAN] s t := by
  have hregs := regs_wf hw
  have h : reg rEPH_ACTIVE (bankSwapped s) = BitVec.ofNat 32 (1 - activeBank s) := (reg_irq_ne (by decide)).trans (reg_setReg_self (s := swapEnded s) hregs)
  refine ⟨?_, rfl, irq_raised (s := setReg rEPH_ACTIVE _ (swapEnded s)) ((setReg_keeps (s := swapEnded s) (.refl _)).regsWf hw) (by decide),
    irq_regsKeep (setReg_regsKeep (s := swapEnded s) (.refl s) List.mem_cons_self) (by simp)⟩
  rw [activeBank, h, fieldOf_bit_flip (activeBank_lt s)]

theorem noteThrottle_cases (was : Bool) (s : State) : noteThrottle was s = s ∨ noteThrottle was s = irq pMERIDIAN 4 s := by
  unfold noteThrottle
  split
  · exact .inr rfl
  · exact .inl rfl

theorem swapWrites (port master : Nat) (s : State) :
    (OwnerTurn port master (.swapArm (.mgmt port master)) s → Answers (.swapArm (.mgmt port master)) s fun t =>
      t.mer = { s.mer with swapAt := some (reg64 rSWAP_AT_LO s) } ∧ Answered port master 0#32 s t
        ∧ (if (reg64 rSWAP_AT_LO s).toNat ≤ s.clock.transit.toNat then Found (.entry ⟨0x19, 0, 0x4000#16, none, none⟩) s t else t.clock.found = s.clock.found)
        ∧ OnlyChanges [.reached, .found, .mer, .out] s t)
      ∧ (OwnerTurn port master (.swapDisarm (.mgmt port master)) s → Answers (.swapDisarm (.mgmt port master)) s fun t =>
        t.mer = { s.mer with swapAt := none } ∧ Answered port master 0#32 s t ∧ OnlyChanges [.reached, .mer, .out] s t) := by
  have hwrite (q : Place) : swapArmWrite 1#32 (withReached q s) = if (reg64 rSWAP_AT_LO s).toNat ≤ s.clock.transit.toNat
      then find_ (.entry ⟨0x19, 0, 0x4000#16, none, none⟩) { withReached q s with mer := { s.mer with swapAt := some (reg64 rSWAP_AT_LO s) } }
      else { withReached q s with mer := { s.mer with swapAt := some (reg64 rSWAP_AT_LO s) } } := rfl
  refine ⟨fun ho => ?_, fun ho => ?_⟩
  · have hframe (q : Place) : OnlyChanges [.mer, .found] (withReached q s) (swapArmWrite 1#32 (withReached q s)) := swapArmWrite_frame (.refl _)
    refine answers_ownerWrite (addr := 0x03080) (v := 1#32) (w := swapArmWrite 1#32) ho rfl rfl rfl (fun _ => rfl) (fun _ => rfl) (fun q => (hframe q).requests_eq) fun q => ?_
    have hall : OnlyChanges [.reached, .found, .mer, .out] s (present (.mgmtRsp port master 0#32 false) (swapArmWrite 1#32 (withReached q s))) :=
      present_withReached_frame (swapArmWrite_frame (.refl _))
    rw [hwrite] at hall ⊢
    split at hall <;> rename_i hle
    · rw [if_pos hle, if_pos hle]
      exact ⟨rfl, rfl, rfl, hall⟩
    · rw [if_neg hle, if_neg hle]
      exact ⟨rfl, rfl, rfl, hall⟩
  · exact answers_ownerWrite (addr := 0x03080) (v := 0#32) (w := fun s => { s with mer := { s.mer with swapAt := none } }) ho rfl rfl rfl
      (fun _ => rfl) (fun _ => rfl) (fun _ => rfl) fun q => ⟨rfl, rfl, present_withReached_frame
        (OnlyChanges.next (ps := [.mer]) (.refl (withReached q s)) fun p hp => by cases p <;> simp [Part.same] at hp ⊢)⟩

theorem ephemerisSwap : Claims.EphemerisSwap := by
  refine ⟨fun port master s _ => swapWrites port master s, fun a s hw halive ha hdue hap => ?_⟩
  refine answers_next rfl rfl hap fun q => ?_
  have hframe : OnlyChanges [.reached, .mer, .regs, .setNow] s (bankSwapApply (withReached q s)) := withReached_frame (bankSwapApply_frame (.refl _))
  rw [bankSwapApply_due (s := withReached q s) halive ha hdue] at hframe ⊢
  obtain ⟨h1, h2, h3, h4⟩ := bankSwapped_spec (s := withReached q s) hw
  generalize bankSwapped (withReached q s) = y at h1 h2 h3 h4 hframe ⊢
  rcases noteThrottle_cases (overThrottle (swapEnded (withReached q s))) y with h | h <;> rw [h] at hframe ⊢
  · exact ⟨h1, h2, h3, h4, hframe⟩
  · refine ⟨?_, h2, ?_, irq_regsKeep h4 (by simp), hframe⟩
    · rw [activeBank, reg_irq_ne (by decide)]
      exact h1
    · rw [reg_irq_ne (by decide)]
      exact h3

/-! ### Entry words (R231, R403) -/

section
variable {s : State} {b i w : Nat} {v : Word}

theorem ephemeris_wf (h : s.tablesWf = true) : tableWf 0#32 s.tabs.ephemeris = true := by
  unfold State.tablesWf Tabs.wf at h
  simp only [Bool.and_eq_true] at h
  simp_all

/-- An entry word takes the bits that are not reserved. -/
def entryKept (w : Nat) (v : Word) : Word := if w = 2 then v &&& 0x1FFFF#32 else if w = 3 then 0#32 else v

/-- An entry word stored. -/
def entryStored (b i w : Nat) (v : Word) (s : State) : State := { s with tabs := { s.tabs with ephemeris := tset 0#32 (ephKey b i w) v s.tabs.ephemeris } }

theorem entryWrite_eq : entryWrite 0 w v s = entryAutoInc 0 w
    (if bankClosed (entrySel 0 s).2 s then noticeNext 0x1B (source 4 0) s else entryStored (entrySel 0 s).2 (entrySel 0 s).1 w (entryKept w v) s) := rfl

theorem ephWord_entryStored_self (hw : s.tablesWf = true) : ephWord b i w (entryStored b i w v s) = v := tget_tset_self _ _ _ (ephemeris_wf hw)

theorem ephWord_entryStored_ne {b' i' w' : Nat} (hi : i < 4096) (hi' : i' < 4096) (hw4 : w < 4) (hw4' : w' < 4) (hne : (b', i', w') ≠ (b, i, w)) :
    ephWord b' i' w' (entryStored b i w v s) = ephWord b' i' w' s := by
  refine tget_tset_ne (fun h => hne ?_) _ _
  unfold ephKey at h
  simp only [Prod.mk.injEq]
  omega

theorem entryAutoInc_sel (hw : s.tablesWf = true) : entrySel 0 (entryAutoInc 0 w s)
    = if w = 3 ∧ bitOf (reg rENTRY_SELECT s) 31 = true then (((entrySel 0 s).1 + 1) % 4096, (entrySel 0 s).2) else ((entrySel 0 s).1, (entrySel 0 s).2) := by
  have hcond : (w == 3 && bitOf (reg rENTRY_SELECT s) 31) = true ↔ w = 3 ∧ bitOf (reg rENTRY_SELECT s) 31 = true := by simp
  unfold entryAutoInc
  simp only [Nat.add_zero, hcond]
  split
  · unfold entrySel
    simp only [Nat.add_zero]
    rw [reg_setReg_self (regs_wf hw), fieldOf_low12_set (Nat.mod_lt _ (by decide)), fieldOf_bank_set (Nat.mod_lt _ (by decide))]
  · rfl

theorem entryStored_wf (hw : s.tablesWf = true) : (entryStored b i w v s).tablesWf = true := by
  have h := tset_wf (ephKey b i w) v s.tabs.ephemeris (ephemeris_wf hw)
  unfold State.tablesWf Tabs.wf at hw ⊢
  simp only [Bool.and_eq_true] at hw ⊢
  simp_all [entryStored]

/-- Stepping the selection keeps the words and what was found. -/
theorem entryAutoInc_tabs : (entryAutoInc 0 w s).tabs = s.tabs ∧ (entryAutoInc 0 w s).clock = s.clock := by
  unfold entryAutoInc
  dsimp only
  split <;> exact ⟨rfl, rfl⟩

theorem entryWrite_spec (hw : s.tablesWf = true) (hw4 : w < 4) :
    let i := (entrySel 0 s).1
    let b := (entrySel 0 s).2
    let t := entryWrite 0 w v s
    (if b = activeBank s ∧ phaseOf s ≠ 4 then t.tabs = s.tabs ∧ Found (.entry ⟨0x1B, 0, 0x4000#16, none, none⟩) s t
       else ephWord b i w t = entryKept w v ∧ (∀ b' i' w', b' < 2 → i' < 4096 → w' < 4 → (b', i', w') ≠ (b, i, w) → ephWord b' i' w' t = ephWord b' i' w' s)
         ∧ t.clock.found = s.clock.found)
      ∧ entrySel 0 t = if w = 3 ∧ bitOf (reg rENTRY_SELECT s) 31 = true then ((i + 1) % 4096, b) else (i, b) := by
  have hi : (entrySel 0 s).1 < 4096 := fieldOf_lt (n := 12)
  have hclosed : bankClosed (entrySel 0 s).2 s = true ↔ (entrySel 0 s).2 = activeBank s ∧ phaseOf s ≠ 4 := by
    unfold bankClosed phaseOf
    simp only [Bool.and_eq_true, beq_iff_eq, bne_iff_ne]
  dsimp only
  rw [entryWrite_eq]
  by_cases hb : bankClosed (entrySel 0 s).2 s = true
  · rw [if_pos hb, if_pos (hclosed.mp hb)]
    obtain ⟨h1, h2⟩ := entryAutoInc_tabs (w := w) (s := noticeNext 0x1B (source 4 0) s)
    exact ⟨⟨h1, congrArg Clock.found h2⟩, entryAutoInc_sel (s := noticeNext 0x1B (source 4 0) s) hw⟩
  · rw [if_neg hb, if_neg fun h => hb (hclosed.mpr h)]
    have hwu : (entryStored (entrySel 0 s).2 (entrySel 0 s).1 w (entryKept w v) s).tablesWf = true := entryStored_wf hw
    obtain ⟨h1, h2⟩ := entryAutoInc_tabs (w := w) (s := entryStored (entrySel 0 s).2 (entrySel 0 s).1 w (entryKept w v) s)
    have hword (b' i' w' : Nat) : ephWord b' i' w' (entryAutoInc 0 w (entryStored (entrySel 0 s).2 (entrySel 0 s).1 w (entryKept w v) s))
        = ephWord b' i' w' (entryStored (entrySel 0 s).2 (entrySel 0 s).1 w (entryKept w v) s) := congrArg (fun t : Tabs => tget 0#32 (ephKey b' i' w') t.ephemeris) h1
    exact ⟨⟨(hword _ _ _).trans (ephWord_entryStored_self hw),
      fun b' i' w' _ hi' hw' hne => (hword _ _ _).trans (ephWord_entryStored_ne hi hi' hw4 hw' hne), congrArg Clock.found h2⟩, entryAutoInc_sel hwu⟩

end

theorem ephemerisEntryWrite : Claims.EphemerisEntryWrite := by
  intro port master w v s hw hw4 ho
  dsimp only
  have haddr : badAddr (0x03048 + 4 * (w % 4)) = false ∧ ∀ (q : Place), writeReg (some (port, master)) 0 (0x03048 + 4 * (w % 4)) v (withReached q s) = entryWrite 0 w v (withReached q s) := by
    interval_cases w <;> exact ⟨by decide, fun _ => rfl⟩
  refine answers_ownerWrite (addr := 0x03048 + 4 * (w % 4)) (v := v) (w := entryWrite 0 w v) ho rfl rfl haddr.1 (fun _ => rfl) haddr.2
    (fun q => (entryWrite_frame (ps := [.found, .ephemeris, .regs]) (.refl (withReached q s))).requests_eq) fun q => ?_
  have hframe : OnlyChanges [.found, .ephemeris, .regs] (withReached q s) (entryWrite 0 w v (withReached q s)) := entryWrite_frame (.refl _)
  have hall := present_withReached_frame (ps := [.reached, .found, .ephemeris, .regs, .out]) (q := q) (o := .mgmtRsp port master 0#32 false) (hframe.mono (by decide))
  obtain ⟨h1, h2⟩ := entryWrite_spec (s := withReached q s) (v := v) hw hw4
  exact ⟨congrArg (· ++ [PortOut.mgmtRsp port master 0#32 false]) hframe.out_eq, h1, h2, hall⟩

/-- Settles O22: an armed swap and what it does, and the words of an entry. -/
theorem ephemerisBanks : Obligations.EphemerisBanks := ⟨ephemerisSwap, ephemerisEntryWrite⟩

end Sys2Proof.Machine
end

section
/-! PROOF. SIG_SEND, and remote ADDs from their reception to their tally (R314 to R318, R393). -/

namespace Sys2Proof.Machine

-- The inclusions that frames ask for are auto parameters, whose code is compiled: with proofs elaborated in order no thread waits for it.
set_option Elab.async false

section
variable {r s : State} {ps : List Part}

theorem sigRefused_frame (h : OnlyChanges ps r s) (hq : [.setNow, .regs] ⊆ ps := by decide) : OnlyChanges ps r (sigRefused s) :=
  h.then (ps := [.setNow, .regs]) (irq_frame (count_frame (OnlyChanges.refl s))) hq
theorem queueFlit_frame {port : Nat} {vc : Nat} {f : TxFlit} (h : OnlyChanges ps r s) (hq : [.links] ⊆ ps := by decide) : OnlyChanges ps r (queueFlit port vc f s) :=
  h.then (ps := [.links]) (setLink_frame (OnlyChanges.refl s)) hq
theorem sigSendApply_frame {copy : Nat} (h : OnlyChanges ps r s) (hq : [.setNow, .regs, .links] ⊆ ps := by decide) : OnlyChanges ps r (sigSendApply copy s) :=
  h.then (ps := [.setNow, .regs, .links]) (.ite (sigRefused_frame (OnlyChanges.refl s)) (queueFlit_frame (setLink_frame (OnlyChanges.refl s)))) hq
theorem remoteAddAccept_frame {port : Nat} {m : CtlMsg} (h : OnlyChanges ps r s) (hq : [.links] ⊆ ps := by decide) : OnlyChanges ps r (remoteAddAccept port m s) :=
  h.then (ps := [.links]) (setLink_frame (OnlyChanges.refl s)) hq
theorem remoteAddApplyAt_frame {port : Nat} (h : OnlyChanges ps r s) (hq : [.tallies, .links, .setNow, .regs] ⊆ ps := by decide) : OnlyChanges ps r (remoteAddApplyAt port s) := by
  refine h.then (ps := [.tallies, .links, .setNow, .regs]) ?_ hq
  unfold remoteAddApplyAt
  dsimp only
  refine .ite (OnlyChanges.refl s) ?_
  split
  · exact OnlyChanges.refl s
  · exact .ite (OnlyChanges.refl s) (.ite (addTally_frame (setLink_frame (OnlyChanges.refl s))) (irq_frame (count_frame (setLink_frame
        (OnlyChanges.refl s)))))
end

/-! ### Links after a write of one of them -/

section
variable {s : State} {p vc : Nat} {f : TxFlit}

theorem linkAt_queueFlit_self (h : tableWf Link.down s.links = true) :
    linkAt p (queueFlit p vc f s) = { linkAt p s with txq := (linkAt p s).txq.set vc ((linkAt p s).txq.getD vc [] ++ [f]) } := linkAt_setLink_self h

theorem linkAt_queueFlit_ne {k : Nat} (h : k ≠ p) : linkAt k (queueFlit p vc f s) = linkAt k s := linkAt_setLink_ne h

theorem setLink_links_wf {l : Link} (h : tableWf Link.down s.links = true) : tableWf Link.down (setLink p l s).links = true := tset_wf _ _ _ h

theorem count_regs_wf {a n : Nat} (h : tableWfBy regReset s.regs = true) : tableWfBy regReset (count a n s).regs = true := tset_wfBy _ _ _ h

/-- A command that takes up the oldest CONTROL message of a type finds it at the head. -/
theorem onCtl_head {ty : Byte} {m : CtlMsg} {rest : List CtlMsg} {g : CtlMsg → State → State} (h : takeCtl ty (linkAt p s).rxCtl = some (m, rest)) :
    onCtl p ty g s = g m (setLink p { linkAt p s with rxCtl := rest } s) := by
  unfold onCtl
  dsimp only
  rw [h]

end

/-! ### SIG_SEND (R314, R315) -/

/-- The signal is refused. -/
def sigBad (s : State) : Bool :=
  portAbsent (fieldOf (reg rSIG_PORT s) 0 3) s || (linkAt (fieldOf (reg rSIG_PORT s) 0 3) s).state != 2 || decide (48 ≤ fieldOf (reg rSIG_TALLY s) 0 6)
    || decide (64 ≤ sigWaiting (fieldOf (reg rSIG_PORT s) 0 3) s)

/-- The signal's flit is counted by its port and joins the named channel. -/
def sigQueued (s : State) : State :=
  let p := fieldOf (reg rSIG_PORT s) 0 3
  queueFlit p (fieldOf (reg rSIG_VC s) 0 2)
    ⟨2, 0, false, (linkAt p s).sigSerial + 1, sigPayload (fieldOf (reg rSIG_STALL s) 0 10) (fieldOf (reg rSIG_TALLY s) 0 6) (reg rSIG_AMOUNT s) (fieldOf (reg rSIG_FENCE s) 0 16)⟩
    (setLink p { linkAt p s with sigSerial := (linkAt p s).sigSerial + 1 } s)

theorem sigSendApply_eq (s : State) : sigSendApply 0 s = if sigBad s then sigRefused s else sigQueued s := rfl

theorem sigRefused_spec {s : State} (hw : s.tablesWf = true) : let t := sigRefused s
    reg rSIG_REFUSED t = satAdd (reg rSIG_REFUSED s) 1 ∧ (reg (rIrqRaw pBELL) t).getLsbD 0 = true ∧ RegsKeep [rSIG_REFUSED, rIrqRaw pBELL] s t := by
  have hregs := regs_wf hw
  exact ⟨(reg_irq_ne (by decide)).trans (reg_count_self hregs), irq_raised ((count_keeps (.refl s)).regsWf hw) (by decide),
    irq_regsKeep (count_regsKeep (.refl s) List.mem_cons_self) (by simp)⟩

theorem sigQueued_spec {s : State} (hw : s.tablesWf = true) :
    let p := fieldOf (reg rSIG_PORT s) 0 3
    let vc := fieldOf (reg rSIG_VC s) 0 2
    let l := linkAt p s
    let t := sigQueued s
    (linkAt p t).txq = l.txq.set vc (l.txq.getD vc [] ++ [⟨2, 0, false, l.sigSerial + 1,
        sigPayload (fieldOf (reg rSIG_STALL s) 0 10) (fieldOf (reg rSIG_TALLY s) 0 6) (reg rSIG_AMOUNT s) (fieldOf (reg rSIG_FENCE s) 0 16)⟩])
      ∧ (∀ k, k ≠ p → linkAt k t = linkAt k s) ∧ OnlyChanges [.links] s t := by
  have hl := links_wf_of_tables hw
  refine ⟨?_, fun k hk => (linkAt_queueFlit_ne hk).trans (linkAt_setLink_ne hk), queueFlit_frame (setLink_frame (.refl s))⟩
  have h := linkAt_queueFlit_self (p := fieldOf (reg rSIG_PORT s) 0 3) (vc := fieldOf (reg rSIG_VC s) 0 2)
    (f := ⟨2, 0, false, (linkAt (fieldOf (reg rSIG_PORT s) 0 3) s).sigSerial + 1,
      sigPayload (fieldOf (reg rSIG_STALL s) 0 10) (fieldOf (reg rSIG_TALLY s) 0 6) (reg rSIG_AMOUNT s) (fieldOf (reg rSIG_FENCE s) 0 16)⟩)
    (setLink_links_wf (p := fieldOf (reg rSIG_PORT s) 0 3)
      (l := { linkAt (fieldOf (reg rSIG_PORT s) 0 3) s with sigSerial := (linkAt (fieldOf (reg rSIG_PORT s) 0 3) s).sigSerial + 1 }) hl)
  rw [linkAt_setLink_self hl] at h
  exact congrArg Link.txq h

theorem sigSend : Claims.SigSend := by
  intro port master s hw ho
  dsimp only
  have hframe (q : Place) : OnlyChanges [.regs, .setNow, .links] (withReached q s) (sigSendApply 0 (withReached q s)) := sigSendApply_frame (.refl _)
  refine answers_ownerWrite (addr := 0x0C058) (v := 1#32) (w := sigSendApply 0) ho rfl rfl rfl (fun _ => rfl) (fun _ => rfl) (fun q => (hframe q).requests_eq) fun q => ?_
  refine ⟨congrArg (· ++ [PortOut.mgmtRsp port master 0#32 false]) (hframe q).out_eq, ?_⟩
  rw [sigSendApply_eq]
  have hbad : sigBad (withReached q s) = sigBad s := rfl
  rw [hbad]
  change (if sigBad s = true then _ else _)
  by_cases hb : sigBad s = true
  · rw [if_pos hb, if_pos hb]
    obtain ⟨h1, h2, h3⟩ := sigRefused_spec (s := withReached q s) hw
    exact ⟨h1, h2, h3, present_withReached_frame (sigRefused_frame (.refl _))⟩
  · rw [if_neg hb, if_neg hb]
    obtain ⟨h1, h2, h3⟩ := sigQueued_spec (s := withReached q s) hw
    exact ⟨h1, h2, present_withReached_frame (h3.mono (by decide))⟩

/-! ### Remote ADDs (R316 to R318) -/

/-- A held ADD leaves its port and is applied, or discarded and counted. -/
theorem remoteAddApplyAt_ready {port : Nat} {a : HeldAdd} {rest : List HeldAdd} {s : State} (halive : alive s = true) (hadds : (linkAt port s).adds = a :: rest)
    (hready : a.ready = true) : remoteAddApplyAt port s = if hasStall a.add.stall s = true ∧ a.add.tally < 48
      then addTally a.add.stall a.add.tally a.add.amount (setLink port { linkAt port s with adds := rest } s)
      else irq pBELL 1 (count rREMOTE_BAD 1 (setLink port { linkAt port s with adds := rest } s)) := by
  have hcond : (hasStall a.add.stall s && decide (a.add.tally < 48)) = true ↔ hasStall a.add.stall s = true ∧ a.add.tally < 48 := by simp
  unfold remoteAddApplyAt
  rw [if_neg (by simp [halive])]
  dsimp only
  rw [hadds]
  dsimp only
  rw [if_neg (by simp [hready])]
  exact if_congr hcond rfl rfl

theorem remoteAdds : Claims.RemoteAdds := by
  refine ⟨fun port cyc m s hw hport ⟨rest, hhead⟩ hdue => ?_, fun port a rest s hw hport halive hadds hready hlt ha => ?_⟩
  · have hl := links_wf_of_tables hw
    refine answers_unplaced (if_pos hport) rfl hdue ?_
    rw [onCtl_head hhead]
    let x := setLink port { linkAt port s with rxCtl := rest } s
    have hx : linkAt port x = { linkAt port s with rxCtl := rest } := linkAt_setLink_self hl
    have ht : linkAt port (remoteAddAccept port m x) = { linkAt port x with adds := (linkAt port x).adds
        ++ [⟨⟨m.vc, leNat (sliceB m.payload 2 2), (m.payload.getD 4 0#8).toNat, word32At m.payload 8, BitVec.ofNat 16 (addFence m.payload)⟩, m.waits, false⟩] } :=
      linkAt_setLink_self (setLink_links_wf hl)
    refine ⟨⟨_, (congrArg Link.adds ht).trans (by rw [hx]), rfl, rfl, rfl, rfl, rfl⟩, fun k hk => (linkAt_setLink_ne hk).trans (linkAt_setLink_ne hk),
      remoteAddAccept_frame (setLink_frame (.refl s))⟩
  · have hl := links_wf_of_tables hw
    refine answers_next (if_pos hport) rfl ha fun q => ?_
    rw [remoteAddApplyAt_ready (s := withReached q s) halive hadds hready]
    have hlink : linkAt port (setLink port { linkAt port (withReached q s) with adds := rest } (withReached q s)) = { linkAt port s with adds := rest } :=
      linkAt_setLink_self (s := withReached q s) hl
    change _ ∧ _ ∧ (if hasStall a.add.stall s = true ∧ a.add.tally < 48 then _ else _)
    rw [show hasStall a.add.stall (withReached q s) = hasStall a.add.stall s from rfl]
    by_cases hb : hasStall a.add.stall s = true ∧ a.add.tally < 48
    · rw [if_pos hb, if_pos hb]
      refine ⟨hlink, fun k hk => linkAt_setLink_ne hk, ?_, ?_, withReached_frame (addTally_frame (setLink_frame (.refl _)))⟩
      · exact tally_setTally_self (s := setLink port _ (withReached q s)) (show tableWf 0#32 s.tabs.tallies = true from tally_wf hw)
      · exact fun n j hj hne => tally_setTally_ne hlt hj hne
    · rw [if_neg hb, if_neg hb]
      have hregs := regs_wf hw
      have hcounted := count_regs_wf (a := rREMOTE_BAD) (n := 1) (s := setLink port { linkAt port (withReached q s) with adds := rest } (withReached q s)) hregs
      exact ⟨hlink, fun k hk => linkAt_setLink_ne hk, (reg_irq_ne (by decide)).trans (reg_count_self (s := setLink port _ (withReached q s)) hregs),
        irq_raised hcounted (by decide), withReached_frame (irq_frame (count_frame (setLink_frame (.refl _))))⟩

/-- Settles O10: SIG_SEND, and a remote ADD's reception and application. -/
theorem signalsAcrossTheRing : Obligations.SignalsAcrossTheRing := ⟨sigSend, remoteAdds⟩

end Sys2Proof.Machine
end

section
/-! PROOF. A bell that rings, and the musters of its line (R322 to R324, R328, R329). -/

namespace Sys2Proof.Machine

-- The inclusions that frames ask for are auto parameters, whose code is compiled: with proofs elaborated in order no thread waits for it.
set_option Elab.async false

section
variable {r s : State} {ps : List Part}

theorem queueKeyed_frame {port : Nat} {payload : List Byte} (h : OnlyChanges ps r s) (hq : [.links] ⊆ ps := by decide) : OnlyChanges ps r (queueKeyed port payload s) :=
  h.then (ps := [.links]) (setLink_frame (OnlyChanges.refl s)) hq
theorem sendGained_frame {g : GroupDef} {old : List Nat} {new : List Nat} {msg : Nat → Nat → List Byte} (h : OnlyChanges ps r s) (hq : [.links] ⊆ ps := by decide) : OnlyChanges ps r (sendGained g old new msg s) :=
  h.then (ps := [.links]) (.foldl (OnlyChanges.refl s) fun _ _ h1 => .ite h1 (.foldl h1 fun _ _ h2 => queueKeyed_frame h2)) hq
theorem sendKept_frame {n : Nat} (h : OnlyChanges ps r s) (hq : [.links] ⊆ ps := by decide) : OnlyChanges ps r (sendKept n s) :=
  h.then (ps := [.links]) (.ite (sendGained_frame (OnlyChanges.refl s)) (OnlyChanges.refl s)) hq
theorem muster_frame {line : Nat} (h : OnlyChanges ps r s) (hq : [.tallies] ⊆ ps := by decide) : OnlyChanges ps r (muster line s) :=
  h.then (ps := [.tallies]) (.foldl (OnlyChanges.refl s) fun _ _ h1 => .ite (setTally_frame h1) h1) hq
theorem bellRingApply_frame {n : Nat} (h : OnlyChanges ps r s) (hq : [.tallies, .setNow, .regs, .links, .lines] ⊆ ps := by decide) : OnlyChanges ps r (bellRingApply n s) :=
  h.then (ps := [.tallies, .setNow, .regs, .links, .lines]) (.ite (muster_frame (irq_frame (orReg_frame (sendKept_frame (setLine_frame
      (OnlyChanges.refl s)))))) (OnlyChanges.refl s)) hq
end

/-! ### Musters -/

/-- One muster entry's control word, where the line has rung. -/
def musterStep (line : Nat) (s : State) (p : Nat × Word) : State :=
  let c := p.2
  if p.1 % 2 == 0 && bitOf c 31 && fieldOf c 16 4 == line then setTally (fieldOf c 6 10) (fieldOf c 0 6) (musterValue (p.1 / 2) s) s else s

theorem muster_eq (line : Nat) (s : State) : muster line s = s.tabs.musters.foldl (musterStep line) s := rfl

/-- A stored word is the control word of a valid entry of the line that names the tally. -/
def WordHits (line stall i : Nat) (p : Nat × Word) : Prop :=
  p.1 % 2 = 0 ∧ bitOf p.2 31 = true ∧ fieldOf p.2 16 4 = line ∧ fieldOf p.2 6 10 = stall ∧ fieldOf p.2 0 6 = i

section
variable {line stall i : Nat} {s : State} {p : Nat × Word}

theorem musterStep_musters : (musterStep line s p).tabs.musters = s.tabs.musters := by
  unfold musterStep
  dsimp only
  split <;> rfl

theorem musterStep_tallies_wf (h : tableWf 0#32 s.tabs.tallies = true) : tableWf 0#32 (musterStep line s p).tabs.tallies = true := by
  unfold musterStep
  dsimp only
  split
  · exact tset_wf _ _ _ h
  · exact h

theorem musterStep_hit (hw : tableWf 0#32 s.tabs.tallies = true) (h : WordHits line stall i p) : tally stall i (musterStep line s p) = musterValue (p.1 / 2) s := by
  obtain ⟨h1, h2, h3, h4, h5⟩ := h
  unfold musterStep
  dsimp only
  rw [if_pos (by simp [h1, h2, h3]), h4, h5]
  exact tally_setTally_self hw

theorem musterStep_miss (hi : i < 64) (h : ¬ WordHits line stall i p) : tally stall i (musterStep line s p) = tally stall i s := by
  unfold musterStep
  dsimp only
  split
  · next hc =>
    simp only [Bool.and_eq_true, beq_iff_eq] at hc
    refine tally_setTally_ne (fieldOf_lt (n := 6)) hi fun e => h ?_
    rw [Prod.mk.injEq] at e
    exact ⟨hc.1.1, hc.1.2, hc.2, e.1.symm, e.2.symm⟩
  · rfl

/-- The words of a table in rising order: a tally that none of them names keeps its value. -/
theorem musterFold_miss {l : Table Word} (hi : i < 64) (h : ∀ p ∈ l, ¬ WordHits line stall i p) : tally stall i (l.foldl (musterStep line) s) = tally stall i s := by
  induction l generalizing s with
  | nil => rfl
  | cons x l ih => exact (ih fun p hp => h p (List.mem_cons_of_mem _ hp)).trans (musterStep_miss hi (h x List.mem_cons_self))

/-- The last word that names a tally sets it. -/
theorem musterFold_hit {l : Table Word} (hi : i < 64) (hw : tableWf 0#32 s.tabs.tallies = true) (hl : tableWf 0#32 l = true) (hp : p ∈ l)
    (h : WordHits line stall i p) (hlast : ∀ p' ∈ l, p.1 < p'.1 → ¬ WordHits line stall i p') :
    tally stall i (l.foldl (musterStep line) s) = musterValue (p.1 / 2) s := by
  induction l generalizing s with
  | nil => cases hp
  | cons x l ih =>
    obtain ⟨hk, -, ht⟩ := tableWfBy_cons.1 hl
    rw [List.foldl_cons]
    rcases List.mem_cons.1 hp with rfl | hp
    · refine (musterFold_miss hi fun p' hp' => hlast p' (List.mem_cons_of_mem _ hp') ?_).trans (musterStep_hit hw h)
      simp only [keysAbove, List.all_eq_true, decide_eq_true_eq] at hk
      exact hk p' hp'
    · refine (ih (musterStep_tallies_wf hw) ht hp fun p' hp' => hlast p' (List.mem_cons_of_mem _ hp')).trans ?_
      unfold musterValue
      rw [musterStep_musters]

theorem musters_wf (h : s.tablesWf = true) : tableWf 0#32 s.tabs.musters = true := by
  unfold State.tablesWf Tabs.wf at h
  simp only [Bool.and_eq_true] at h
  simp_all

/-- What a key of a table reads as is listed there, where it is no default. -/
theorem mem_of_tget_ne {α : Type} {d : α} {t : Table α} {k : Nat} (h : tget d k t ≠ d) : (k, tget d k t) ∈ t := by
  induction t with
  | nil => exact absurd rfl h
  | cons x t ih =>
    obtain ⟨j, w⟩ := x
    unfold tget at h ⊢
    split
    · next e =>
      subst e
      exact List.mem_cons_self
    · next e =>
      rw [if_neg e] at h
      exact List.mem_cons_of_mem _ (ih h)

theorem wordHits_of_musterHits {e : Nat} (h : MusterHits line e stall i s) : (2 * e, musterCtrl e s) ∈ s.tabs.musters ∧ WordHits line stall i (2 * e, musterCtrl e s) := by
  obtain ⟨h1, h2, h3, h4⟩ := h
  refine ⟨mem_of_tget_ne fun h0 => ?_, Nat.mul_mod_right 2 e, h1, h2, h3, h4⟩
  have h0 : musterCtrl e s = 0#32 := h0
  rw [h0] at h1
  exact absurd h1 (by decide)

theorem musterHits_of_wordHits (hw : s.tablesWf = true) (hp : p ∈ s.tabs.musters) (h : WordHits line stall i p) : MusterHits line (p.1 / 2) stall i s := by
  obtain ⟨h1, h2, h3, h4, h5⟩ := h
  have hc : musterCtrl (p.1 / 2) s = p.2 := by
    unfold musterCtrl
    rw [show 2 * (p.1 / 2) = p.1 by omega]
    exact tget_of_mem (musters_wf hw) hp
  exact ⟨by rw [hc]; exact h2, by rw [hc]; exact h3, by rw [hc]; exact h4, by rw [hc]; exact h5⟩

/-- The musters of a line, entry by entry. -/
theorem muster_spec (hw : s.tablesWf = true) (hi : i < 64) :
    (∀ e, MusterHits line e stall i s → (∀ e', e < e' → ¬ MusterHits line e' stall i s) → tally stall i (muster line s) = musterValue e s)
      ∧ ((∀ e, ¬ MusterHits line e stall i s) → tally stall i (muster line s) = tally stall i s) := by
  refine ⟨fun e he hlast => ?_, fun h => musterFold_miss hi fun p hp hh => h _ (musterHits_of_wordHits hw hp hh)⟩
  obtain ⟨hm, hh⟩ := wordHits_of_musterHits he
  refine (musterFold_hit hi (tally_wf hw) (musters_wf hw) hm hh fun p' hp' hlt hh' => ?_).trans ?_
  · have h1 : p'.1 % 2 = 0 := hh'.1
    exact hlast (p'.1 / 2) (by simp only at hlt; omega) (musterHits_of_wordHits hw hp' hh')
  · rw [show (2 * e, musterCtrl e s).1 / 2 = e by simp]

end

/-! ### The ring (R322 to R324) -/

section
variable {s : State} {n : Nat}

/-- The line after the ring, before its musters. -/
def rung (n : Nat) (s : State) : State := irq pBELL 2 (orReg rRANG (bit n) (sendKept n (setLine n (nextGen (lineAt n s) s.clock.transit) s)))

theorem bellRingApply_rings (hs : serving s = true) (hc : canRing n s = true) : bellRingApply n s = muster n (rung n s) := if_pos (by simp [hs, hc])

theorem sendKept_lines : (sendKept n s).lines = s.lines := sendKept_frame (ps := [.links]) (.refl s) (by decide) .lines (by decide)
theorem sendKept_regs : (sendKept n s).regs = s.regs := sendKept_frame (ps := [.links]) (.refl s) (by decide) .regs (by decide)

theorem sendKept_onDie (h : lXchip (lineAt n s).cfg = false) : sendKept n s = s := if_neg (by simp [h])

theorem lines_wf (h : s.tablesWf = true) : tableWf Line.idle s.lines = true := by
  unfold State.tablesWf at h
  simp only [Bool.and_eq_true] at h
  simp_all

theorem rung_spec (hw : s.tablesWf = true) (hn : n < 16) : let t := rung n s
    lineAt n t = nextGen (lineAt n s) s.clock.transit ∧ (∀ m, m ≠ n → lineAt m t = lineAt m s) ∧ (lXchip (lineAt n s).cfg = false → t.links = s.links)
      ∧ (reg rRANG t).getLsbD n = true ∧ (reg (rIrqRaw pBELL) t).getLsbD 2 = true ∧ RegsKeep [rRANG, rIrqRaw pBELL] s t ∧ OnlyChanges [.lines, .links, .regs, .setNow] s t := by
  let x := setLine n (nextGen (lineAt n s) s.clock.transit) s
  have hx : lineAt n x = nextGen (lineAt n s) s.clock.transit := lineAt_setLine_self (lines_wf hw)
  have hlines : (rung n s).lines = x.lines := sendKept_lines
  have hregs : tableWfBy regReset (sendKept n x).regs = true := by rw [sendKept_regs]; exact (show tableWfBy regReset s.regs = true from regs_wf hw)
  have hkeep : RegsKeep [rRANG, rIrqRaw pBELL] s (sendKept n x) := (RegsKeep.refl s).frame (ps := [.lines, .links]) (sendKept_frame (setLine_frame (.refl s)))
  refine ⟨(congrArg (tget Line.idle n) hlines).trans hx, fun m hm => (congrArg (tget Line.idle m) hlines).trans (lineAt_setLine_ne hm), fun h => ?_, ?_,
    irq_raised (tset_wfBy _ _ _ hregs) (by decide), irq_regsKeep (orReg_regsKeep hkeep List.mem_cons_self) (by simp),
    irq_frame (orReg_frame (sendKept_frame (setLine_frame (.refl s))))⟩
  · have hon : sendKept n x = x := sendKept_onDie (by rw [hx]; exact h)
    exact (show (sendKept n x).links = x.links by rw [hon])
  · rw [show reg rRANG (rung n s) = reg rRANG (orReg rRANG (bit n) (sendKept n x)) from reg_irq_ne (by decide), reg_orReg_self hregs, BitVec.getLsbD_or,
      bit_getLsbD_self (by omega), Bool.or_true]

end

theorem bellRings : Claims.BellRings := by
  intro n s hw hn hs hc ha
  refine answers_next (if_pos hn) rfl ha fun q => ?_
  rw [bellRingApply_rings (s := withReached q s) hs hc]
  obtain ⟨h1, h2, h3, h4, h5, h6, h7⟩ := rung_spec (s := withReached q s) hw hn
  have hf : OnlyChanges [.tallies] (rung n (withReached q s)) (muster n (rung n (withReached q s))) := muster_frame (.refl _)
  have hall : OnlyChanges [.reached, .lines, .links, .regs, .setNow, .tallies] s (muster n (rung n (withReached q s))) :=
    withReached_frame ((h7.mono (by decide)).then hf (by decide))
  generalize rung n (withReached q s) = x at h1 h2 h3 h4 h5 h6 h7 hf hall ⊢
  have hlines (m : Nat) : lineAt m (muster n x) = lineAt m x := congrArg (tget Line.idle m) (hf .lines (by decide))
  have hreg (a : Nat) : reg a (muster n x) = reg a x := congrArg (tget (regReset a) a) (hf .regs (by decide))
  rw [hlines, h1, hreg, hreg]
  exact ⟨rfl, rfl, rfl, rfl, rfl, rfl, rfl, rfl, fun hx => (hf .links (by decide)).trans (h3 hx), fun m hm => (hlines m).trans (h2 m hm), h4, h5, h6.frame hf, hall⟩

theorem musterSets : Claims.MusterSets := by
  intro n stall i s hw hn hs hc ha hi
  refine answers_next (if_pos hn) rfl ha fun q => ?_
  rw [bellRingApply_rings (s := withReached q s) hs hc]
  have h7 := (rung_spec (s := withReached q s) hw hn).2.2.2.2.2.2
  have hwx : (rung n (withReached q s)).tablesWf = true :=
    (irq_keeps (orReg_keeps (sendKept_keeps (setLine_keeps (.refl (withReached q s)))))).tablesWf hw
  generalize rung n (withReached q s) = x at h7 hwx ⊢
  have hmust : x.tabs.musters = s.tabs.musters := h7 .musters (by decide)
  have htal : x.tabs.tallies = s.tabs.tallies := h7 .tallies (by decide)
  have hspec := muster_spec (line := n) (stall := stall) (i := i) hwx hi
  have hhits (e : Nat) : MusterHits n e stall i x ↔ MusterHits n e stall i s := by
    unfold MusterHits musterCtrl
    rw [hmust]
  have hval (e : Nat) : musterValue e x = musterValue e s := by
    unfold musterValue
    rw [hmust]
  have ht : tally stall i x = tally stall i s := by
    unfold tally
    rw [htal]
  simp only [hhits, hval, ht] at hspec
  exact hspec

/-- Settles O7: a ring and the musters of its line. -/
theorem bellsAndMusters : Obligations.BellsAndMusters := ⟨bellRings, musterSets⟩

end Sys2Proof.Machine
end

section
/-! PROOF. The on-die and board parts of a line, its pull and its re-arming (R43, R322, R323). -/

namespace Sys2Proof.Machine

-- The inclusions that frames ask for are auto parameters, whose code is compiled: with proofs elaborated in order no thread waits for it.
set_option Elab.async false

section
variable {r s : State} {ps : List Part}

theorem lineChip_frame {n : Nat} (h : OnlyChanges ps r s) (hq : [.links, .lines] ⊆ ps := by decide) : OnlyChanges ps r (lineChip n s) :=
  h.then (ps := [.links, .lines]) (.ite (.ite (sendGained_frame (setLine_frame (OnlyChanges.refl s))) (setLine_frame (OnlyChanges.refl s)))
      (OnlyChanges.refl s)) hq
theorem lineBoard_frame {n : Nat} (h : OnlyChanges ps r s) (hq : [.lines, .links] ⊆ ps := by decide) : OnlyChanges ps r (lineBoard n s) :=
  h.then (ps := [.lines, .links]) (.ite (.ite (setLine_frame (OnlyChanges.refl s)) (.ite (lineChip_frame (setLine_frame (OnlyChanges.refl s)))
      (OnlyChanges.refl s))) (OnlyChanges.refl s)) hq
theorem lineRelease_frame {n : Nat} (h : OnlyChanges ps r s) (hq : [.lines] ⊆ ps := by decide) : OnlyChanges ps r (lineRelease n s) :=
  h.then (ps := [.lines]) (.ite (setLine_frame (OnlyChanges.refl s)) (OnlyChanges.refl s)) hq
theorem lineOndie_frame {n : Nat} (h : OnlyChanges ps r s) (hq : [.links, .lines] ⊆ ps := by decide) : OnlyChanges ps r (lineOndie n s) :=
  h.then (ps := [.links, .lines]) (.ite (lineChip_frame (setLine_frame (OnlyChanges.refl s))) (OnlyChanges.refl s)) hq
theorem lineEdge_frame {n : Nat} (h : OnlyChanges ps r s) (hq : [.links, .lines] ⊆ ps := by decide) : OnlyChanges ps r (lineEdge n s) :=
  h.then (ps := [.links, .lines]) (lineChip_frame (lineBoard_frame (lineRelease_frame (lineOndie_frame (OnlyChanges.refl s))))) hq
theorem lineRecover_frame {n : Nat} (h : OnlyChanges ps r s) (hq : [.lines] ⊆ ps := by decide) : OnlyChanges ps r (lineRecover n s) := by
  refine h.then (ps := [.lines]) ?_ hq
  unfold lineRecover
  dsimp only
  split
  · exact OnlyChanges.refl s
  · exact setLine_frame (OnlyChanges.refl s)
  · exact setLine_frame (OnlyChanges.refl s)
theorem lineTurn_frame {n : Nat} (h : OnlyChanges ps r s) (hq : [.links, .lines] ⊆ ps := by decide) : OnlyChanges ps r (lineTurn n s) :=
  h.then (ps := [.links, .lines]) (lineEdge_frame (lineRecover_frame (OnlyChanges.refl s))) hq
theorem bellOutApply_frame {stall : Nat} {n : Nat} {level : Bool} (h : OnlyChanges ps r s) (hq : [.stalls] ⊆ ps := by decide) : OnlyChanges ps r (bellOutApply stall n level s) :=
  h.then (ps := [.stalls]) (.ite (OnlyChanges.refl s) (setStall_frame (OnlyChanges.refl s))) hq
theorem bellSenseApply_frame {b : Nat} {level : Bool} (h : OnlyChanges ps r s) (hq : [.clock] ⊆ ps := by decide) : OnlyChanges ps r (bellSenseApply b level s) :=
  h.then (ps := [.clock]) (.ite (OnlyChanges.refl s) (OnlyChanges.next (ps := [.clock]) (OnlyChanges.refl s) fun p hp => by cases p <;> simp [Part.same] at hp ⊢)) hq
theorem boardHoldApply_frame {n : Nat} (h : OnlyChanges ps r s) (hq : [.lines] ⊆ ps := by decide) : OnlyChanges ps r (boardHoldApply n s) := by
  refine h.then (ps := [.lines]) ?_ hq
  unfold boardHoldApply
  dsimp only
  split
  · exact OnlyChanges.refl s
  · exact .ite (setLine_frame (OnlyChanges.refl s)) (OnlyChanges.refl s)
theorem bellRearmApply_frame {n : Nat} (h : OnlyChanges ps r s) (hq : [.links, .lines] ⊆ ps := by decide) : OnlyChanges ps r (bellRearmApply n s) := by
  refine h.then (ps := [.links, .lines]) ?_ hq
  unfold bellRearmApply
  dsimp only
  split
  · exact OnlyChanges.refl s
  · exact .ite (lineEdge_frame (setLine_frame (OnlyChanges.refl s))) (OnlyChanges.refl s)
end

/-! ### What is due before a command -/

/-- The state in which the one thing that is due takes effect. -/
def atDue (d : Due) (s : State) : State := { s with clock := { s.clock with due := [], reached := duePlace d } }

theorem atDue_onlyChanges (d : Due) (s : State) : OnlyChanges [.reached, .due] s (atDue d s) := by
  intro p hp
  cases p <;> simp [Part.same, atDue] at hp ⊢

theorem takeTurn_eq_withReached {c : Instr} {p : Place} {s : State} (hc : inputOf c = none) : takeTurn c p s = withReached p s := by
  simp [takeTurn, hc, withReached]

section
variable {n : Nat} {s : State} {d : Due}

/-- BELL_REARM comes after the one thing that is due before it. -/
theorem answers_bellRearm_due {P : State → Prop} (hn : n < 16) (hdue : s.clock.due = [(duePlace d, d)]) (hle : placeLe (duePlace d) ⟨3, [n, 2]⟩ = true)
    (hreach : (dueApply d (atDue d s)).clock.reached = duePlace d) (hP : P (bellRearmApply n (withReached ⟨3, [n, 2]⟩ (dueApply d (atDue d s))))) :
    Answers (.bellRearm n) s P := by
  refine ⟨_, if_pos hn, ?_⟩
  have hsettle : settle (some ⟨3, [n, 2]⟩) s = dueApply d (atDue d s) := by
    unfold settle
    simp [hdue, hle, dueStep, atDue]
  have hturn : turnNow (.bellRearm n) ⟨3, [n, 2]⟩ (dueApply d (atDue d s)) = true := by
    unfold turnNow
    rw [hreach, hle]
    simp [sampledNow, inputOf, portFull, requestOf, agentOf]
  have hplace : placeOf (.bellRearm n) s = some ⟨3, [n, 2]⟩ := rfl
  rw [inTransit, hplace]
  dsimp only
  rw [hsettle, if_pos hturn, takeTurn_eq_withReached rfl]
  exact hP

/-- It does nothing to a line that is armed, or has not rung. -/
theorem bellRearmApply_idle (h : (lineAt n s).rangAt = none ∨ (lineAt n s).armed = true) : bellRearmApply n s = s := by
  unfold bellRearmApply
  dsimp only
  split
  · rfl
  · next hr => rw [if_neg (by rcases h with h | h <;> simp_all)]

end

/-! ### A line in class 3 -/

section
variable {n : Nat} {s : State}

theorem setLine_lines_wf {l : Line} (h : tableWf Line.idle s.lines = true) : tableWf Line.idle (setLine n l s).lines = true := tset_wf _ _ _ h

theorem lineAt_sendGained {g : GroupDef} {old new : List Nat} {msg : Nat → Nat → List Byte} {m : Nat} : lineAt m (sendGained g old new msg s) = lineAt m s :=
  congrArg (tget Line.idle m) ((sendGained_frame (ps := [.links]) (.refl s)) .lines (by decide))

theorem sendGained_lines {g : GroupDef} {old new : List Nat} {msg : Nat → Nat → List Byte} : (sendGained g old new msg s).lines = s.lines :=
  (sendGained_frame (ps := [.links]) (.refl s)) .lines (by decide)

/-- What a unit of a line's turn may do: it keeps other lines and the form of the table. -/
structure LineStep (n : Nat) (s t : State) : Prop where
  wf : tableWf Line.idle s.lines = true → tableWf Line.idle t.lines = true
  others : ∀ m, m ≠ n → lineAt m t = lineAt m s
  frame : OnlyChanges [.lines, .links] s t

theorem LineStep.refl (n : Nat) (s : State) : LineStep n s s := ⟨id, fun _ _ => rfl, .refl s⟩
theorem LineStep.trans {t u : State} (h : LineStep n s t) (h' : LineStep n t u) : LineStep n s u :=
  ⟨fun hw => h'.wf (h.wf hw), fun m hm => (h'.others m hm).trans (h.others m hm), h.frame.trans h'.frame⟩

theorem setLine_lineStep {l : Line} : LineStep n s (setLine n l s) := ⟨setLine_lines_wf, fun _ hm => lineAt_setLine_ne hm, setLine_frame (.refl s)⟩

theorem sendGained_lineStep {g : GroupDef} {old new : List Nat} {msg : Nat → Nat → List Byte} : LineStep n s (sendGained g old new msg s) :=
  ⟨fun h => by rw [sendGained_lines]; exact h, fun _ _ => lineAt_sendGained, sendGained_frame (.refl s)⟩

theorem lineChip_lineStep : LineStep n s (lineChip n s) := by
  unfold lineChip
  dsimp only
  split
  · split
    · exact setLine_lineStep.trans sendGained_lineStep
    · exact setLine_lineStep
  · exact .refl n s

/-- The chip part changes no more of its line than that part and the maps. -/
theorem lineChip_line (hw : tableWf Line.idle s.lines = true) : ∃ c m, lineAt n (lineChip n s) = { lineAt n s with chip := c, maps := m } := by
  unfold lineChip
  dsimp only
  split
  · split
    · exact ⟨true, _, lineAt_sendGained.trans (lineAt_setLine_self hw)⟩
    · exact ⟨true, _, lineAt_setLine_self hw⟩
  · exact ⟨_, _, rfl⟩

theorem lineOndie_lineStep : LineStep n s (lineOndie n s) := by
  unfold lineOndie
  dsimp only
  split
  · exact setLine_lineStep.trans lineChip_lineStep
  · exact .refl n s

theorem lineOndie_line (hw : tableWf Line.idle s.lines = true) (ha : (lineAt n s).armed = true) : ∃ c m w, lineAt n (lineOndie n s) = { lineAt n s with
    ondie := (lineAt n s).ondie || (lEnable (lineAt n s).cfg && (lineMembers n s).all fun m => (stallAt m s).bellOut.getLsbD n), chip := c, maps := m, sigWait := w } := by
  unfold lineOndie
  dsimp only
  split
  · next h =>
    simp only [Bool.and_eq_true] at h
    obtain ⟨⟨⟨h1, -⟩, -⟩, h4⟩ := h
    obtain ⟨c, m, hl⟩ := lineChip_line (n := n) (setLine_lines_wf (n := n)
      (l := { lineAt n s with ondie := true, sigWait := s.links.map fun p => (p.1, p.2.sigSerial) }) hw)
    rw [lineAt_setLine_self hw] at hl
    refine ⟨c, m, s.links.map fun p => (p.1, p.2.sigSerial), hl.trans ?_⟩
    rw [h1, h4]
    simp only [Bool.and_self, Bool.or_true]
  · next h =>
    refine ⟨(lineAt n s).chip, (lineAt n s).maps, (lineAt n s).sigWait, ?_⟩
    have hsame : ((lineAt n s).ondie || (lEnable (lineAt n s).cfg && (lineMembers n s).all fun m => (stallAt m s).bellOut.getLsbD n)) = (lineAt n s).ondie := by
      cases ho : (lineAt n s).ondie <;> simp_all
    rw [hsame]

theorem lineRelease_cases : lineRelease n s = setLine n { lineAt n s with pull := false } s ∨ lineRelease n s = s := ite_eq_or_eq ..

theorem lineRelease_lineStep : LineStep n s (lineRelease n s) := by
  rcases lineRelease_cases (n := n) (s := s) with h | h <;> rw [h]
  · exact setLine_lineStep
  · exact .refl n s

theorem lineRelease_line (hw : tableWf Line.idle s.lines = true) : ∃ p, lineAt n (lineRelease n s) = { lineAt n s with pull := p } := by
  rcases lineRelease_cases (n := n) (s := s) with h | h <;> rw [h]
  · exact ⟨false, lineAt_setLine_self hw⟩
  · exact ⟨_, rfl⟩

theorem lineBoard_lineStep : LineStep n s (lineBoard n s) := by
  unfold lineBoard
  dsimp only
  split
  · split
    · exact setLine_lineStep
    · split
      · exact setLine_lineStep.trans lineChip_lineStep
      · exact .refl n s
  · exact .refl n s

theorem lineBoard_line (hw : tableWf Line.idle s.lines = true) : ∃ lo b c m, lineAt n (lineBoard n s) = { lineAt n s with boardLow := lo, board := b, chip := c, maps := m }
    ∧ (lEnable (lineAt n s).cfg = true → lBoard (lineAt n s).cfg = true → (lineAt n s).armed = true →
      (s.clock.bellSense.getLsbD (lBoardLine (lineAt n s).cfg) = false → lo = true ∧ b = (lineAt n s).board)
        ∧ (s.clock.bellSense.getLsbD (lBoardLine (lineAt n s).cfg) = true → (lineAt n s).boardLow = true → b = true)) := by
  unfold lineBoard
  dsimp only
  split
  · split
    · next hs =>
      refine ⟨true, (lineAt n s).board, (lineAt n s).chip, (lineAt n s).maps, lineAt_setLine_self hw, fun _ _ _ => ⟨fun _ => ⟨rfl, rfl⟩, fun h => ?_⟩⟩
      simp [h] at hs
    · next hs =>
      have hs : s.clock.bellSense.getLsbD (lBoardLine (lineAt n s).cfg) = true := by simpa using hs
      split
      · obtain ⟨c, m, hl⟩ := lineChip_line (n := n) (setLine_lines_wf (n := n) (l := { lineAt n s with board := true }) hw)
        refine ⟨(lineAt n s).boardLow, true, c, m, hl.trans (by rw [lineAt_setLine_self hw]), fun _ _ _ => ⟨fun h => ?_, fun _ _ => rfl⟩⟩
        simp [h] at hs
      · next hlow =>
        refine ⟨_, _, _, _, rfl, fun _ _ _ => ⟨fun h => ?_, fun _ h => absurd h hlow⟩⟩
        simp [h] at hs
  · next h => exact ⟨_, _, _, _, rfl, fun h1 h2 h3 => absurd (by simp [h1, h2, h3]) h⟩

theorem lineEdge_lineStep : LineStep n s (lineEdge n s) :=
  lineOndie_lineStep.trans (lineRelease_lineStep.trans (lineBoard_lineStep.trans lineChip_lineStep))

/-- What a line's turn leaves of it. -/
theorem lineEdge_line (hw : tableWf Line.idle s.lines = true) (ha : (lineAt n s).armed = true) :
    let l := lineAt n s
    let l' := lineAt n (lineEdge n s)
    l'.armed = true ∧ l'.gen = l.gen ∧ l'.ondie = (l.ondie || (lEnable l.cfg && (lineMembers n s).all fun m => (stallAt m s).bellOut.getLsbD n))
      ∧ (lEnable l.cfg = true → lBoard l.cfg = true → (s.clock.bellSense.getLsbD (lBoardLine l.cfg) = false → l'.boardLow = true ∧ l'.board = l.board)
        ∧ (s.clock.bellSense.getLsbD (lBoardLine l.cfg) = true → l.boardLow = true → l'.board = true)) := by
  have h1 := lineOndie_lineStep (n := n) (s := s)
  have h2 := lineRelease_lineStep (n := n) (s := lineOndie n s)
  have h3 := lineBoard_lineStep (n := n) (s := lineRelease n (lineOndie n s))
  obtain ⟨c, m, w, e1⟩ := lineOndie_line hw ha
  obtain ⟨p, e2⟩ := lineRelease_line (n := n) (h1.wf hw)
  obtain ⟨lo, b, c', m', e3, hboard⟩ := lineBoard_line (n := n) (h2.wf (h1.wf hw))
  obtain ⟨c'', m'', e4⟩ := lineChip_line (n := n) (h3.wf (h2.wf (h1.wf hw)))
  have hsense : (lineRelease n (lineOndie n s)).clock = s.clock := (h1.trans h2).frame.clock_eq
  rw [e2, e1, hsense] at hboard
  dsimp only
  rw [lineEdge, e4, e3, e2, e1]
  exact ⟨ha, rfl, rfl, fun he hb => hboard he hb ha⟩

theorem lineTurn_settled (h : (lineAt n s).recover = none) : lineTurn n s = lineEdge n s := by
  unfold lineTurn lineRecover
  dsimp only
  rw [h]

end

/-! ### Samples (R43, R322) -/

section
variable {s : State} {n : Nat}

/-- A sample sets one bit of its word to the level. -/
theorem getLsbD_level {w k : Nat} {x : BitVec w} {level : Bool} (hn : n < w) (hk : k < w) :
    (if level then x ||| BitVec.ofNat w (2 ^ n) else x &&& ~~~(BitVec.ofNat w (2 ^ n))).getLsbD k = if k = n then level else x.getLsbD k := by
  have hbit : (BitVec.ofNat w (2 ^ n)).getLsbD k = decide (k = n) := by
    rw [BitVec.getLsbD_ofNat, Nat.testBit_two_pow]
    by_cases h : k = n
    · simp [h, hn]
    · simp [h, Ne.symm h]
  cases level
  · rw [if_neg Bool.false_ne_true, BitVec.getLsbD_and, BitVec.getLsbD_not, hbit]
    by_cases h : k = n <;> simp [h, hk]
  · rw [if_pos rfl, BitVec.getLsbD_or, hbit]
    by_cases h : k = n <;> simp [h]

/-- A line's turn is due, before a command that itself does nothing. -/
theorem answers_lineDue {P : State → Prop} (hw : s.tablesWf = true) (hn : n < 16) (ha : alive s = true) (hdue : s.clock.due = [(duePlace (.line n), .line n)])
    (harmed : (lineAt n s).armed = true) (hrec : (lineAt n s).recover = none)
    (hP : P (withReached ⟨3, [n, 2]⟩ (lineEdge n (atDue (.line n) s)))) : Answers (.bellRearm n) s P := by
  have happly : dueApply (.line n) (atDue (.line n) s) = lineEdge n (atDue (.line n) s) := (if_pos ha).trans (lineTurn_settled (s := atDue (.line n) s) hrec)
  have hclock : (lineEdge n (atDue (.line n) s)).clock = (atDue (.line n) s).clock := lineEdge_lineStep.frame.clock_eq
  have harmed' : (lineAt n (lineEdge n (atDue (.line n) s))).armed = true := (lineEdge_line (s := atDue (.line n) s) (lines_wf hw) harmed).1
  refine answers_bellRearm_due hn hdue ?_ ?_ ?_
  · simp [placeLe, duePlace, keyLe]
  · rw [happly, hclock]
    rfl
  · rw [happly, bellRearmApply_idle (s := withReached ⟨3, [n, 2]⟩ (lineEdge n (atDue (.line n) s))) (.inr harmed')]
    exact hP

end

theorem bellOutSamples : Claims.BellOutSamples := by
  refine ⟨fun stall n level s hw hn hst hserv ha => ?_, fun n s hw hn ha hdue _ harmed hrec => ?_⟩
  · have hst' := stalls_wf hw
    refine answers_next ((if_pos hn).trans (if_pos hst)) rfl ha fun q => ?_
    have happly : bellOutApply stall n level (withReached q s) = setStall stall { stallAt stall s with bellOut := if level then (stallAt stall s).bellOut ||| BitVec.ofNat 16 (2 ^ n)
        else (stallAt stall s).bellOut &&& ~~~(BitVec.ofNat 16 (2 ^ n)) } (withReached q s) := if_neg (by show ¬ (!serving s) = true; simp [hserv])
    rw [happly]
    refine ⟨fun k hk => ?_, fun m hm => stallAt_setStall_ne hm, withReached_frame (setStall_frame (.refl _))⟩
    rw [stallAt_setStall_self (s := withReached q s) hst']
    exact getLsbD_level hn hk
  · refine answers_lineDue hw hn ha hdue harmed hrec ?_
    have hstep := lineEdge_lineStep (n := n) (s := atDue (.line n) s)
    obtain ⟨-, -, hondie, -⟩ := lineEdge_line (n := n) (s := atDue (.line n) s) (lines_wf hw) harmed
    have hd : (lineEdge n (atDue (.line n) s)).clock.due = [] := by rw [hstep.frame.clock_eq]; rfl
    exact ⟨hondie, hstep.others, hd,
      (((atDue_onlyChanges _ s).mono (by decide)).then hstep.frame (by decide)).then (withReached_onlyChanges _ _) (by decide)⟩

theorem boardHoldApply_expires {n : Nat} {r : Word64} {s : State} (ha : alive s = true) (hr : (lineAt n s).rangAt = some r) (hb : lBoard (lineAt n s).cfg = true)
    (hgap : (lineAt n s).ondie = true → s.clock.transit.toNat < r.toNat + regNat rBOARD_HOLD s + 2) (hp : (lineAt n s).pull = false)
    (hdue : r.toNat + regNat rBOARD_HOLD s ≤ s.clock.transit.toNat) : boardHoldApply n s = setLine n { lineAt n s with pull := true } s := by
  unfold boardHoldApply
  dsimp only
  rw [hr]
  dsimp only
  refine if_pos ?_
  cases ho : (lineAt n s).ondie
  · simp [ha, hb, hp, hdue]
  · simp [ha, hb, hp, hdue, hgap ho]

theorem bellRearmApply_rearms {n : Nat} {r : Word64} {s : State} (ha : alive s = true) (hr : (lineAt n s).rangAt = some r) (he : lEnable (lineAt n s).cfg = true)
    (harmed : (lineAt n s).armed = false) (hlow : ∀ m ∈ lineMembers n s, (stallAt m s).bellIn.getLsbD n = false)
    (hafter : r.toNat + (if (lineMembers n s).isEmpty then 1 else 2) ≤ s.clock.transit.toNat) :
    bellRearmApply n s = lineEdge n (setLine n { lineAt n s with armed := true } s) := by
  have hall : ((lineMembers n s).all fun m => !(stallAt m s).bellIn.getLsbD n) = true := by
    rw [List.all_eq_true]
    intro m hm
    rw [hlow m hm]
    rfl
  unfold bellRearmApply
  dsimp only
  rw [hr]
  dsimp only
  rw [if_pos]
  rw [ha, he, harmed, hall, decide_eq_true hafter]
  rfl

theorem boardAndRearm : Claims.BoardAndRearm := by
  refine fun n s hw => ⟨fun level edges hn halive => ⟨fun he ha => ?_, fun he => ?_⟩, fun hn halive hdue _ harmed hrec hen hb => ?_,
    fun r hn halive hr hb hgap hp hd ha => ?_, fun r hn halive hr hen harmed hlow hafter ha => ?_⟩
  · let x := sampledAt ⟨3, [boardOwner n s, 0, 1024 + n]⟩ (2 + n) s
    have hexec : exec (.bellExtSenseChange n ⟨level, edges⟩) s = .next (bellSenseApply n level x) := by
      show execBellExtSenseChange n ⟨level, edges⟩ s = _
      rw [execBellExtSenseChange, if_pos (by simpa [filterPasses] using he), onBoard, if_pos hn, inTransit_of_applies ha, atPlace_eq_sampledAt rfl rfl]
    have happly : bellSenseApply n level x = { x with clock := { x.clock with bellSense := if level then s.clock.bellSense ||| BitVec.ofNat 4 (2 ^ n)
        else s.clock.bellSense &&& ~~~(BitVec.ofNat 4 (2 ^ n)) } } := if_neg (by show ¬ (!alive s) = true; simp [halive])
    refine ⟨_, hexec, fun k hk => ?_, sampledAt_frame (q := ⟨3, [boardOwner n s, 0, 1024 + n]⟩) (k := 2 + n) (bellSenseApply_frame (.refl x))⟩
    rw [happly]
    exact getLsbD_level hn hk
  · refine ⟨s, ?_, rfl⟩
    show execBellExtSenseChange n ⟨level, edges⟩ s = _
    rw [execBellExtSenseChange, if_neg (by simpa [filterPasses] using he), if_pos hn]
  · refine answers_lineDue hw hn halive hdue harmed hrec ?_
    exact (lineEdge_line (n := n) (s := atDue (.line n) s) (lines_wf hw) harmed).2.2.2 hen hb
  · refine answers_next (if_pos hn) rfl ha fun q => ?_
    rw [boardHoldApply_expires (s := withReached q s) halive hr hb hgap hp hd]
    exact ⟨lineAt_setLine_self (s := withReached q s) (lines_wf hw), fun m hm => lineAt_setLine_ne hm, withReached_frame (setLine_frame (.refl _))⟩
  · refine answers_next (if_pos hn) rfl ha fun q => ?_
    rw [bellRearmApply_rearms (s := withReached q s) halive hr hen harmed hlow hafter]
    have hx : lineAt n (setLine n { lineAt n (withReached q s) with armed := true } (withReached q s)) = { lineAt n s with armed := true } :=
      lineAt_setLine_self (s := withReached q s) (lines_wf hw)
    have hwx : tableWf Line.idle (setLine n { lineAt n (withReached q s) with armed := true } (withReached q s)).lines = true := setLine_lines_wf (lines_wf hw)
    have hstep := lineEdge_lineStep (n := n) (s := setLine n { lineAt n (withReached q s) with armed := true } (withReached q s))
    obtain ⟨h1, h2, -, -⟩ := lineEdge_line (n := n) hwx (by rw [hx])
    rw [hx] at h2
    exact ⟨h1, h2, fun m hm => (hstep.others m hm).trans (lineAt_setLine_ne hm), withReached_frame ((setLine_frame (.refl _)).then hstep.frame (by decide))⟩

/-- Settles O8: the on-die part, the board part, the pull and the re-arming of a line. -/
theorem bellParts : Obligations.BellParts := ⟨bellOutSamples, boardAndRearm⟩

end Sys2Proof.Machine
end

section
/-! PROOF. The meridian: markers, timecode frames, and its changes of state (R209 to R229). -/

namespace Sys2Proof.Machine

-- The inclusions that frames ask for are auto parameters, whose code is compiled: with proofs elaborated in order no thread waits for it.
set_option Elab.async false

section
variable {r s : State} {ps : List Part}

theorem calBit_frame {i : Nat} {on : Bool} (h : OnlyChanges ps r s) (hq : [.regs] ⊆ ps := by decide) : OnlyChanges ps r (calBit i on s) :=
  h.then (ps := [.regs]) (setReg_frame (OnlyChanges.refl s)) hq
theorem calEnd_frame {outcome : Nat} (h : OnlyChanges ps r s) (hq : [.setNow, .regs] ⊆ ps := by decide) : OnlyChanges ps r (calEnd outcome s) :=
  h.then (ps := [.setNow, .regs]) (irq_frame (calBit_frame (calBit_frame (OnlyChanges.refl s)))) hq
theorem lockedBegins_frame (h : OnlyChanges ps r s) (hq : [.log, .mer] ⊆ ps := by decide) : OnlyChanges ps r (lockedBegins s) :=
  h.then (ps := [.log, .mer]) (closeSourceChain_frame (OnlyChanges.next (ps := [.mer]) (OnlyChanges.refl s) fun p hp => by cases p <;> simp [Part.same] at hp ⊢)) hq
theorem setMerState_frame {n : Nat} (h : OnlyChanges ps r s) (hq : [.setNow, .regs, .log, .mer] ⊆ ps := by decide) : OnlyChanges ps r (setMerState n s) :=
  h.then (ps := [.setNow, .regs, .log, .mer]) (.ite (OnlyChanges.refl s) (.when (irq_frame (setReg_frame (.ite (calEnd_frame (OnlyChanges.refl s))
      (OnlyChanges.refl s)))) fun h1 => lockedBegins_frame h1)) hq
theorem markerAt_frame {offset : Int} (h : OnlyChanges ps r s) (hq : [.mer] ⊆ ps := by decide) : OnlyChanges ps r (markerAt offset s) :=
  h.then (ps := [.mer]) (OnlyChanges.next (ps := [.mer]) (OnlyChanges.refl s) fun p hp => by cases p <;> simp [Part.same, markerAt] at hp ⊢) hq
theorem markerTest_frame {offset : Int} (h : OnlyChanges ps r s) (hq : [.mer, .regs] ⊆ ps := by decide) : OnlyChanges ps r (markerTest offset s) :=
  h.then (ps := [.mer, .regs]) (.ite (OnlyChanges.next (ps := [.mer]) (OnlyChanges.refl s) fun p hp => by cases p <;> simp [Part.same] at hp ⊢) (.ite (OnlyChanges.refl s) (.ite (OnlyChanges.next (ps := [.mer]) (t := if offset ≠ 0 then count rMARK_SLIP 1 (markerAt offset { build := s.build, clock := s.clock, regs := s.regs, hiLatch := s.hiLatch, setNow := s.setNow, tabs := s.tabs, mer := have __src := s.mer; { time := __src.time, edgeAt := __src.edgeAt, delayAt := __src.delayAt, calCount := __src.calCount, calTheta := __src.calTheta, calRtt := __src.calRtt, calT1 := __src.calT1, calWaiting := __src.calWaiting, acqMark := true, acqPrev := __src.acqPrev, acqReady := __src.acqReady, frameEdge := __src.frameEdge, lockPending := __src.lockPending, reload := __src.reload, mismatches := if s.mer.acqMark = true then 0 else s.mer.mismatches, holdPeriods := __src.holdPeriods, refLost := __src.refLost, ratioAcc := __src.ratioAcc, markStuck := __src.markStuck, markEpoch := __src.markEpoch, epochFclk := __src.epochFclk, acquired := __src.acquired, slewDiff := __src.slewDiff, bellHighRun := __src.bellHighRun, bellHighFired := __src.bellHighFired, bellLowSince := __src.bellLowSince, bellLowFired := __src.bellLowFired, fenceHighSince := __src.fenceHighSince, fenceHighFired := __src.fenceHighFired, swapAt := __src.swapAt }, owner := s.owner, steward := s.steward, boot := s.boot, log := s.log, mem := s.mem, memLate := s.memLate, lines := s.lines, verdicts := s.verdicts, links := s.links, groups := s.groups, queues := s.queues, orders := s.orders, ledgers := s.ledgers, ops := s.ops, late := s.late, pageWait := s.pageWait, stalls := s.stalls, planes := s.planes, assayWin := s.assayWin, counts := s.counts, injected := s.injected, out := s.out, pending := s.pending }) else { build := s.build, clock := s.clock, regs := s.regs, hiLatch := s.hiLatch, setNow := s.setNow, tabs := s.tabs, mer := have __src := s.mer; { time := __src.time, edgeAt := __src.edgeAt, delayAt := __src.delayAt, calCount := __src.calCount, calTheta := __src.calTheta, calRtt := __src.calRtt, calT1 := __src.calT1, calWaiting := __src.calWaiting, acqMark := true, acqPrev := __src.acqPrev, acqReady := __src.acqReady, frameEdge := __src.frameEdge, lockPending := __src.lockPending, reload := __src.reload, mismatches := if s.mer.acqMark = true then 0 else s.mer.mismatches, holdPeriods := __src.holdPeriods, refLost := __src.refLost, ratioAcc := __src.ratioAcc, markStuck := __src.markStuck, markEpoch := __src.markEpoch, epochFclk := __src.epochFclk, acquired := __src.acquired, slewDiff := __src.slewDiff, bellHighRun := __src.bellHighRun, bellHighFired := __src.bellHighFired, bellLowSince := __src.bellLowSince, bellLowFired := __src.bellLowFired, fenceHighSince := __src.fenceHighSince, fenceHighFired := __src.fenceHighFired, swapAt := __src.swapAt }, owner := s.owner, steward := s.steward, boot := s.boot, log := s.log, mem := s.mem, memLate := s.memLate, lines := s.lines, verdicts := s.verdicts, links := s.links, groups := s.groups, queues := s.queues, orders := s.orders, ledgers := s.ledgers, ops := s.ops, late := s.late, pageWait := s.pageWait, stalls := s.stalls, planes := s.planes, assayWin := s.assayWin, counts := s.counts, injected := s.injected, out := s.out, pending := s.pending }) (.when (OnlyChanges.next (ps := [.mer]) (OnlyChanges.refl s) fun p hp => by cases p <;> simp [Part.same] at hp ⊢) fun h1 => count_frame (markerAt_frame h1)) fun p hp => by cases p <;> simp [Part.same] at hp ⊢) (count_frame (OnlyChanges.refl s))))) hq
theorem merMarkApply_frame {width : Nat} {offset : Int} (h : OnlyChanges ps r s) (hq : [.setNow, .regs, .log, .mer] ⊆ ps := by decide) : OnlyChanges ps r (merMarkApply width offset s) :=
  h.then (ps := [.setNow, .regs, .log, .mer]) (.ite (OnlyChanges.refl s) (.ite (.when (logFault_frame (OnlyChanges.next (ps := [.mer]) (OnlyChanges.refl s) fun p hp => by cases p <;> simp [Part.same] at hp ⊢)) fun h1 => setMerState_frame (OnlyChanges.next (ps := [.mer]) h1 fun p hp => by cases p <;> simp [Part.same] at hp ⊢)) (.ite (count_frame (OnlyChanges.next (ps := [.mer]) (OnlyChanges.refl s) fun p hp => by cases p <;> simp [Part.same] at hp ⊢)) (.unless (OnlyChanges.next (ps := [.mer]) (OnlyChanges.refl s) fun p hp => by cases p <;> simp [Part.same] at hp ⊢) fun h2 => markerTest_frame h2)))) hq
theorem frameAcquire_frame {e : BitVec 40} {edge : Int} (h : OnlyChanges ps r s) (hq : [.mer] ⊆ ps := by decide) : OnlyChanges ps r (frameAcquire e edge s) :=
  h.then (ps := [.mer]) (.ite (OnlyChanges.next (ps := [.mer]) (OnlyChanges.refl s) fun p hp => by cases p <;> simp [Part.same] at hp ⊢) (OnlyChanges.next (ps := [.mer]) (OnlyChanges.refl s) fun p hp => by cases p <;> simp [Part.same] at hp ⊢)) hq
theorem countLost_frame (h : OnlyChanges ps r s) (hq : [.setNow, .regs, .log, .mer] ⊆ ps := by decide) : OnlyChanges ps r (countLost s) :=
  h.then (ps := [.setNow, .regs, .log, .mer]) (setMerState_frame (OnlyChanges.next (ps := [.mer]) (OnlyChanges.refl s) fun p hp => by cases p <;> simp [Part.same] at hp ⊢)) hq
theorem timecodeApply_frame {frame : Timecode} (h : OnlyChanges ps r s) (hq : [.mer, .regs, .setNow, .log] ⊆ ps := by decide) : OnlyChanges ps r (timecodeApply frame s) := by
  refine h.then (ps := [.mer, .regs, .setNow, .log]) ?_ hq
  unfold timecodeApply
  dsimp only
  refine .ite (OnlyChanges.refl s) ?_
  split
  · next _ _ => exact OnlyChanges.next (ps := [.mer]) (t := count rCODE_ERR 1 s) (count_frame (OnlyChanges.refl s)) fun p hp => by cases p <;> simp [Part.same] at hp ⊢
  · exact .ite (frameAcquire_frame (OnlyChanges.refl s)) (.ite (.ite (OnlyChanges.next (ps := [.mer]) (OnlyChanges.refl s) fun p hp => by cases p <;> simp [Part.same] at hp ⊢) (.ite (countLost_frame (notice_frame (notice_frame (OnlyChanges.next (ps := [.mer]) (OnlyChanges.refl s) fun p hp => by cases p <;> simp [Part.same] at hp ⊢)))) (notice_frame (OnlyChanges.next (ps := [.mer]) (OnlyChanges.refl s) fun p hp => by cases p <;> simp [Part.same] at hp ⊢)))) (.ite (.ite (setMerState_frame (OnlyChanges.next (ps := [.mer]) (OnlyChanges.refl s) fun p hp => by cases p <;> simp [Part.same] at hp ⊢)) (OnlyChanges.next (ps := [.mer]) (OnlyChanges.refl s) fun p hp => by cases p <;> simp [Part.same] at hp ⊢)) (OnlyChanges.refl s)))
theorem setMer_frame {m : Meridian} (h : OnlyChanges ps r s) (hq : [.mer] ⊆ ps := by decide) : OnlyChanges ps r (setMer m s) :=
  h.then (ps := [.mer]) (OnlyChanges.next (ps := [.mer]) (OnlyChanges.refl s) fun p hp => by cases p <;> simp [Part.same, setMer] at hp ⊢) hq

end

/-! ### A change of state (R224) -/

theorem fieldOf_low3_set {w : Word} {n : Nat} (h : n < 8) : fieldOf ((w &&& ~~~7#32) ||| BitVec.ofNat 32 n) 0 3 = n := by
  have hmask : (~~~7#32).extractLsb' 0 3 = 0#3 := by decide
  have hbits : ((w &&& ~~~7#32) ||| BitVec.ofNat 32 n).extractLsb' 0 3 = (BitVec.ofNat 32 n).extractLsb' 0 3 := by
    rw [BitVec.extractLsb'_or, BitVec.extractLsb'_and, hmask, BitVec.and_zero, BitVec.zero_or]
  rw [fieldOf_eq_extract, hbits, BitVec.extractLsb'_toNat, BitVec.toNat_ofNat]
  simp
  omega

/-- A measurement that runs ends where LOCKED does. -/
def calStopped (s : State) : State := if merState s == 2 && calRuns s then calEnd 9 s else s

/-- The STATE field and its interrupt. -/
def stateEntered (n : Nat) (s : State) : State := irq pMERIDIAN 0 (setReg rMER_STATE ((reg rMER_STATE s &&& ~~~7#32) ||| BitVec.ofNat 32 n) s)

section
variable {s t : State} {n : Nat}

theorem setMerState_eq (n : Nat) (s : State) : setMerState n s
    = if merState s = n then s else if n = 2 then lockedBegins (stateEntered n (calStopped s)) else stateEntered n (calStopped s) := rfl

theorem calStopped_frame {ps : List Part} {r : State} (h : OnlyChanges ps r s) (hq : [.regs, .setNow] ⊆ ps := by decide) : OnlyChanges ps r (calStopped s) :=
  h.then (ps := [.regs, .setNow]) (.ite (calEnd_frame (.refl s)) (.refl s)) hq

theorem stateEntered_frame {ps : List Part} {r : State} (h : OnlyChanges ps r s) (hq : [.regs, .setNow] ⊆ ps := by decide) : OnlyChanges ps r (stateEntered n s) :=
  h.then (ps := [.regs, .setNow]) (irq_frame (setReg_frame (.refl s))) hq

theorem calStopped_keeps : Keeps s (calStopped s) := .ite (calEnd_keeps (.refl s)) (.refl s)

theorem merState_congr (h : reg rMER_STATE t = reg rMER_STATE s) : merState t = merState s := congrArg (fieldOf · 0 3) h

theorem merState_lockedBegins (s : State) : merState (lockedBegins s) = merState s := rfl

theorem merState_stateEntered (hw : s.tablesWf = true) (hn : n < 8) : merState (stateEntered n s) = n := by
  have h : reg rMER_STATE (stateEntered n s) = (reg rMER_STATE s &&& ~~~7#32) ||| BitVec.ofNat 32 n := (reg_irq_ne (by decide)).trans (reg_setReg_self (regs_wf hw))
  rw [merState, h, fieldOf_low3_set hn]

theorem merState_setMerState (hw : s.tablesWf = true) (hn : n < 8) : merState (setMerState n s) = n := by
  have hstopped : (calStopped s).tablesWf = true := calStopped_keeps.tablesWf hw
  rw [setMerState_eq]
  split
  · assumption
  · split
    · exact (merState_lockedBegins _).trans (merState_stateEntered hstopped hn)
    · exact merState_stateEntered hstopped hn

theorem setMerState_unlocked (h2 : n ≠ 2) : OnlyChanges [.regs, .setNow] s (setMerState n s) := by
  rw [setMerState_eq, if_neg h2]
  exact OnlyChanges.ite (OnlyChanges.refl s) (stateEntered_frame (calStopped_frame (OnlyChanges.refl s)))

theorem setMerState_mer (h2 : n ≠ 2) : (setMerState n s).mer = s.mer := setMerState_unlocked h2 .mer (by decide)
theorem setMerState_log (h2 : n ≠ 2) : (setMerState n s).log = s.log := setMerState_unlocked h2 .log (by decide)

theorem setMerState_locked (h : merState s ≠ 2) : (setMerState 2 s).mer = { s.mer with epochFclk := none, markEpoch := some (timeEpoch s) } := by
  have hm : (stateEntered 2 (calStopped s)).mer = s.mer := (stateEntered_frame (ps := [.regs, .setNow]) (calStopped_frame (.refl s))) .mer (by decide)
  rw [setMerState_eq, if_neg h, if_pos rfl]
  unfold lockedBegins closeSourceChain timeEpoch
  dsimp only
  rw [hm]

theorem setMerState_clock : (setMerState n s).clock = s.clock :=
  (setMerState_frame (ps := [.regs, .setNow, .log, .mer]) (.refl s)).clock_eq

/-- A notice of the meridian's leaves the STATE field. -/
theorem merState_notice {code : Nat} (hc : 0x10 ≤ code ∧ code ≤ 0x18) : merState (notice code merSource s) = merState s := by
  refine merState_congr (reg_notice_ne ?_)
  rw [show codePage code merSource = pMERIDIAN from if_pos hc]
  decide

end

/-! ### Markers (R220, R221) -/

section
variable {s : State} {offset : Int}

theorem merMarkApply_glitch (ha : alive s = true) (hm : s.mer.markStuck = none) : merMarkApply 1 offset s = count rGLITCH_COUNT 1 s := by
  have hs : { s with mer := { s.mer with markStuck := none } } = s := by rw [← hm]
  unfold merMarkApply markHeldOff
  rw [if_neg (by simp [ha]), if_neg (by decide)]
  dsimp only
  rw [hm]
  dsimp only
  rw [if_pos rfl]
  exact congrArg (count rGLITCH_COUNT 1) hs

theorem merMarkApply_marker (ha : alive s = true) (hm : s.mer.markStuck = none) : merMarkApply 2 offset s = markerTest offset s := by
  have hs : { s with mer := { s.mer with markStuck := none } } = s := by rw [← hm]
  unfold merMarkApply markHeldOff
  rw [if_neg (by simp [ha]), if_neg (by decide)]
  dsimp only
  rw [hm]
  dsimp only
  rw [if_neg (by decide)]
  exact congrArg (markerTest offset) hs

/-- The marker is in its place: the epoch has had its marker. -/
def markSeen (s : State) : State := { s with mer := { s.mer with acqMark := true, mismatches := if s.mer.acqMark then 0 else s.mer.mismatches } }
def epochMarked (s : State) : State := { s with mer := { s.mer with markEpoch := some (timeEpoch s) } }

theorem markerTest_locked (h2 : merState s = 2) : markerTest offset s = if offset.natAbs ≤ fieldOf (reg rMARK_WINDOW s) 0 4
    then epochMarked (if offset ≠ 0 then count rMARK_SLIP 1 (markerAt offset (markSeen s)) else markSeen s) else count rMARK_EARLY 1 s := by
  unfold markerTest
  rw [if_neg (by omega), if_neg (by omega)]
  rfl

theorem markerAt_time : (markerAt offset s).mer.time = s.mer.time - BitVec.ofInt 64 offset := by
  show BitVec.ofInt 64 ((s.mer.time.toNat : Int) - offset) = _
  rw [Int.sub_eq_add_neg, BitVec.ofInt_add, BitVec.ofInt_neg, BitVec.ofInt_natCast, BitVec.ofNat_toNat, BitVec.setWidth_eq, BitVec.sub_eq_add_neg]

theorem markerTest_spec (hw : s.tablesWf = true) (h2 : merState s = 2) : let t := markerTest offset s
    merState t = 2 ∧ (if offset.natAbs ≤ fieldOf (reg rMARK_WINDOW s) 0 4 then
      t.mer.acqMark = true ∧ t.mer.time = s.mer.time - BitVec.ofInt 64 offset ∧ t.mer.markEpoch = some (timeEpoch t)
        ∧ reg rMARK_SLIP t = (if offset = 0 then reg rMARK_SLIP s else satAdd (reg rMARK_SLIP s) 1) ∧ RegsKeep [rMARK_SLIP] s t
     else reg rMARK_EARLY t = satAdd (reg rMARK_EARLY s) 1 ∧ t.mer = s.mer) := by
  have hregs := regs_wf hw
  dsimp only
  rw [markerTest_locked h2]
  by_cases hwin : offset.natAbs ≤ fieldOf (reg rMARK_WINDOW s) 0 4
  · rw [if_pos hwin, if_pos hwin]
    by_cases h0 : offset = 0
    · rw [if_neg (by simpa using h0), if_pos h0, h0]
      exact ⟨h2, rfl, by simp [epochMarked, markSeen], rfl, rfl, RegsKeep.refl s⟩
    · rw [if_pos h0, if_neg h0]
      have hslip : merState (epochMarked (count rMARK_SLIP 1 (markerAt offset (markSeen s)))) = merState s := merState_congr (reg_count_ne (s := markerAt offset (markSeen s)) (by decide))
      exact ⟨hslip.trans h2, rfl, markerAt_time (s := markSeen s), rfl, reg_count_self (s := markerAt offset (markSeen s)) hregs,
        count_regsKeep (s := markerAt offset (markSeen s)) (.refl s) List.mem_cons_self⟩
  · rw [if_neg hwin, if_neg hwin]
    exact ⟨(merState_congr (reg_count_ne (by decide))).trans h2, reg_count_self hregs, rfl⟩

/-- A notice of the meridian's, and after it a change of its state with what goes with that. -/
def noticedState (n code : Nat) (f : Meridian → Meridian) (s : State) : State := setMerState n (setMer (f (notice code merSource s).mer) (notice code merSource s))

theorem noticedState_spec {n code : Nat} {f : Meridian → Meridian} (hw : s.tablesWf = true) (hroom : LogRoom s) (hc : 0x10 ≤ code ∧ code ≤ 0x18) (hn : n < 8)
    (h2 : n ≠ 2) : let t := noticedState n code f s
    merState t = n ∧ t.mer = f s.mer ∧ Logged code 0 merSource s t ∧ OnlyChanges [.mer, .regs, .setNow, .log] s t := by
  have hwn : (notice code merSource s).tablesWf = true := (notice_keeps (.refl s)).tablesWf hw
  have hl : Logged code 0 merSource s (notice code merSource s) := notice_logged hroom (.inl (by omega))
  have hf : OnlyChanges [.setNow, .regs, .log] s (notice code merSource s) := notice_frame (.refl s)
  unfold noticedState
  generalize notice code merSource s = x at hwn hl hf ⊢
  have hmer : x.mer = s.mer := hf .mer (by decide)
  have hset : OnlyChanges [.mer] x (setMer (f x.mer) x) := setMer_frame (.refl x)
  refine ⟨merState_setMerState (s := setMer (f x.mer) x) hwn hn, (setMerState_mer h2).trans (congrArg f hmer), hl.of_eq rfl rfl (setMerState_log h2), ?_⟩
  exact ((hf.mono (by decide)).then hset (by decide)).then (setMerState_unlocked h2) (by decide)

/-- MER_MARK is stuck, noted before its entry. -/
def markStuckAt (s : State) : State := { s with mer := { s.mer with markStuck := some s.clock.now } }

/-- A holdover begins on the edges of MER_REF. -/
def holdoverFrom (m : Meridian) : Meridian := { m with holdPeriods := 0, refLost := false }

theorem merMarkApply_stuck {width : Nat} (ha : alive s = true) (h2 : merState s = 2) (hwidth : 2 < width) :
    merMarkApply width offset s = noticedState 3 0x10 holdoverFrom (markStuckAt s) := by
  have hstate : merState (notice 0x10 merSource (markStuckAt s)) = 2 := (merState_notice (s := markStuckAt s) (by omega)).trans h2
  unfold merMarkApply
  rw [if_neg (by simp [ha]; omega), if_pos hwidth]
  exact if_pos hstate

end

theorem meridianMarker : Claims.MeridianMarker := by
  intro offset s hw halive h2
  refine ⟨fun hm ha => ?_, fun hm ha => ?_, fun width hwidth hroom ha => ?_⟩
  · refine answers_next rfl rfl ha fun q => ?_
    rw [merMarkApply_glitch (s := withReached q s) halive hm]
    exact ⟨reg_count_self (s := withReached q s) (regs_wf hw), rfl, withReached_frame (count_frame (.refl _))⟩
  · refine answers_next rfl rfl ha fun q => ?_
    rw [merMarkApply_marker (s := withReached q s) halive hm]
    obtain ⟨h3, h4⟩ := markerTest_spec (s := withReached q s) (offset := offset) hw h2
    exact ⟨h3, h4, withReached_frame (markerTest_frame (.refl _))⟩
  · refine answers_next rfl rfl ha fun q => ?_
    rw [merMarkApply_stuck (s := withReached q s) halive h2 hwidth]
    obtain ⟨h3, h4, h5, h6⟩ := noticedState_spec (s := markStuckAt (withReached q s)) (n := 3) (code := 0x10) (f := holdoverFrom) hw hroom (by omega) (by decide) (by decide)
    generalize noticedState 3 0x10 holdoverFrom (markStuckAt (withReached q s)) = t at h3 h4 h5 h6 ⊢
    refine ⟨h3, by rw [h4]; rfl, by rw [h4]; rfl, h5.of_eq rfl rfl rfl, withReached_frame (q := q) ?_⟩
    exact (OnlyChanges.next (ps := [.mer]) (t := withReached q s) (.refl _) fun p hp => by cases p <;> simp [Part.same, markStuckAt] at hp ⊢).then h6 (by decide)

/-! ### Timecode frames (R222, R226) -/

section
variable {s : State} {frame : Timecode}

/-- A frame that is invalid ends a run of differing ones; one that agrees clears it; one that differs counts. -/
def runEnded (m : Meridian) : Meridian := { m with acqMark := false, acqPrev := none, mismatches := 0 }
def runCleared (m : Meridian) : Meridian := { m with mismatches := 0, acqMark := false }
def runBegun (m : Meridian) : Meridian := { m with mismatches := 1, acqMark := false }

/-- What goes with the loss of the meridian. -/
def lostFrom (acc : Nat) (m : Meridian) : Meridian := { m with ratioAcc := acc, acqPrev := none, acqReady := false, acqMark := false, acquired := none }

theorem countLost_eq (s : State) : ∃ acc, countLost s = setMerState 4 (setMer (lostFrom acc s.mer) s) := ⟨_, rfl⟩

theorem timecodeApply_invalid (ha : alive s = true) (hf : frameEpoch frame.bits = none) : timecodeApply frame s = setMer (runEnded s.mer) (count rCODE_ERR 1 s) := by
  unfold timecodeApply
  rw [if_neg (by simp [ha]), hf]
  rfl

theorem timecodeApply_locked {e : BitVec 40} (ha : alive s = true) (h2 : merState s = 2) (hf : frameEpoch frame.bits = some e) : timecodeApply frame s
    = if e = timeEpoch s then setMer (runCleared s.mer) s
      else if s.mer.mismatches = 0 then notice 0x14 merSource (setMer (runBegun s.mer) s)
      else countLost (notice 0x14 merSource (notice 0x13 merSource (setMer (runCleared s.mer) s))) := by
  unfold timecodeApply
  rw [if_neg (by simp [ha]), hf]
  dsimp only
  rw [if_neg (by omega), if_pos h2]
  split
  · rfl
  · by_cases h0 : s.mer.mismatches = 0
    · rw [if_neg (by omega), if_neg (by omega), if_pos h0, h0]
      rfl
    · rw [if_pos (by omega), if_pos (by omega), if_neg h0]
      rfl

theorem notice_length {code : Nat} {src : BitVec 16} (hroom : LogRoom s) : (notice code src s).log.entries.length = s.log.entries.length + 1 := by
  rw [notice, logFault_entries hroom, entriesWith_length]

theorem notice_mer {code : Nat} {src : BitVec 16} : (notice code src s).mer = s.mer :=
  notice_frame (ps := [.setNow, .regs, .log]) (OnlyChanges.refl s) (by decide) .mer (by decide)

/-- The second frame in a row that differs: 0x13, 0x14, and the meridian is LOST. -/
theorem secondMismatch_spec (hw : s.tablesWf = true) (hroom : s.log.entries.length < 30) :
    let t := countLost (notice 0x14 merSource (notice 0x13 merSource s))
    merState t = 4 ∧ t.mer.mismatches = s.mer.mismatches ∧ t.mer.time = s.mer.time ∧ t.log.entries.length = s.log.entries.length + 2 := by
  have hlen : (notice 0x13 merSource s).log.entries.length = s.log.entries.length + 1 := notice_length (by unfold LogRoom; omega)
  have hwy : (notice 0x14 merSource (notice 0x13 merSource s)).tablesWf = true := (notice_keeps (notice_keeps (.refl s))).tablesWf hw
  have hmer : (notice 0x14 merSource (notice 0x13 merSource s)).mer = s.mer := notice_mer.trans notice_mer
  have hlen' : (notice 0x14 merSource (notice 0x13 merSource s)).log.entries.length = s.log.entries.length + 2 := by
    rw [notice_length (by unfold LogRoom; omega), hlen]
  generalize notice 0x14 merSource (notice 0x13 merSource s) = y at hwy hmer hlen' ⊢
  obtain ⟨acc, hc⟩ := countLost_eq y
  rw [hc]
  have hm : (setMerState 4 (setMer (lostFrom acc y.mer) y)).mer = lostFrom acc y.mer := setMerState_mer (by decide)
  have hl : (setMerState 4 (setMer (lostFrom acc y.mer) y)).log = y.log := setMerState_log (by decide)
  refine ⟨merState_setMerState (s := setMer (lostFrom acc y.mer) y) hwy (by decide), ?_, ?_, by rw [hl]; exact hlen'⟩
  · rw [hm, ← hmer]
    rfl
  · rw [hm, ← hmer]
    rfl

theorem timecode_spec (hw : s.tablesWf = true) (ha : alive s = true) (h2 : merState s = 2) (hroom : s.log.entries.length < 30) : let t := timecodeApply frame s
    t.mer.time = s.mer.time ∧ (match frameEpoch frame.bits with
      | none => reg rCODE_ERR t = satAdd (reg rCODE_ERR s) 1 ∧ merState t = 2 ∧ t.mer.mismatches = 0 ∧ t.log = s.log
      | some e =>
        if e = timeEpoch s then merState t = 2 ∧ t.mer.mismatches = 0 ∧ t.log = s.log
        else if s.mer.mismatches = 0 then merState t = 2 ∧ t.mer.mismatches = 1 ∧ Logged 0x14 0 merSource s t
        else merState t = 4 ∧ t.mer.mismatches = 0 ∧ t.log.entries.length = s.log.entries.length + 2) := by
  dsimp only
  cases hf : frameEpoch frame.bits with
  | none =>
    rw [timecodeApply_invalid ha hf]
    exact ⟨rfl, reg_count_self (regs_wf hw), (merState_congr (reg_count_ne (by decide))).trans h2, rfl, rfl⟩
  | some e =>
    rw [timecodeApply_locked ha h2 hf]
    dsimp only
    by_cases he : e = timeEpoch s
    · rw [if_pos he, if_pos he]
      exact ⟨rfl, h2, rfl, rfl⟩
    · rw [if_neg he, if_neg he]
      by_cases h0 : s.mer.mismatches = 0
      · rw [if_pos h0, if_pos h0]
        have hmer : (notice 0x14 merSource (setMer (runBegun s.mer) s)).mer = runBegun s.mer := notice_mer
        have hl : Logged 0x14 0 merSource (setMer (runBegun s.mer) s) (notice 0x14 merSource (setMer (runBegun s.mer) s)) :=
          notice_logged (by unfold LogRoom; exact Nat.lt_succ_of_lt hroom) (.inl (by decide))
        exact ⟨by rw [hmer]; rfl, (merState_notice (by omega)).trans h2, by rw [hmer]; rfl, hl.of_eq rfl rfl rfl⟩
      · rw [if_neg h0, if_neg h0]
        obtain ⟨h3, h4, h5, h6⟩ := secondMismatch_spec (s := setMer (runCleared s.mer) s) hw hroom
        exact ⟨h5, h3, h4, h6⟩

end

theorem meridianTimecode : Claims.MeridianTimecode := by
  intro frame s hw halive h2 hroom ha
  refine answers_next rfl rfl ha fun q => ?_
  obtain ⟨h1, h3⟩ := timecode_spec (s := withReached q s) (frame := frame) hw halive h2 hroom
  exact ⟨h1, withReached_frame (timecodeApply_frame (.refl _)), h3⟩

/-- Settles O23: markers and timecode frames in LOCKED. -/
theorem meridianReference : Obligations.MeridianReference := ⟨meridianMarker, meridianTimecode⟩

end Sys2Proof.Machine
end

section
/-! PROOF. The states of the meridian: holdover, loss, lock, reacquisition, slew and RESYNC (R224 to R229). -/

namespace Sys2Proof.Machine

-- The inclusions that frames ask for are auto parameters, whose code is compiled: with proofs elaborated in order no thread waits for it.
set_option Elab.async false

section
variable {r s : State} {ps : List Part}

theorem loadTime_frame {t : Nat} {edge : Int} (h : OnlyChanges ps r s) (hq : [.mer] ⊆ ps := by decide) : OnlyChanges ps r (loadTime t edge s) :=
  h.then (ps := [.mer]) (OnlyChanges.next (ps := [.mer]) (OnlyChanges.refl s) fun p hp => by cases p <;> simp [Part.same, loadTime] at hp ⊢) hq
theorem resyncWrite_frame (h : OnlyChanges ps r s) (hq : [.found, .mer] ⊆ ps := by decide) : OnlyChanges ps r (resyncWrite s) := by
  refine h.then (ps := [.found, .mer]) ?_ hq
  unfold resyncWrite
  dsimp only
  split
  · exact .ite (findDue_frame (loadTime_frame (OnlyChanges.next (ps := [.mer]) (OnlyChanges.refl s) fun p hp => by cases p <;> simp [Part.same] at hp ⊢))) (noticeNext_frame (OnlyChanges.refl s))
  · exact noticeNext_frame (OnlyChanges.refl s)
theorem refReturnApply_frame (h : OnlyChanges ps r s) (hq : [.mer] ⊆ ps := by decide) : OnlyChanges ps r (refReturnApply s) :=
  h.then (ps := [.mer]) (.ite (OnlyChanges.next (ps := [.mer]) (OnlyChanges.refl s) fun p hp => by cases p <;> simp [Part.same] at hp ⊢) (OnlyChanges.refl s)) hq
theorem lockApply_frame (h : OnlyChanges ps r s) (hq : [.setNow, .regs, .log, .mer] ⊆ ps := by decide) : OnlyChanges ps r (lockApply s) := by
  refine h.then (ps := [.setNow, .regs, .log, .mer]) ?_ hq
  unfold lockApply
  dsimp only
  refine .ite ?_ (OnlyChanges.refl s)
  split
  · exact OnlyChanges.refl s
  · exact setMerState_frame (loadTime_frame (OnlyChanges.next (ps := [.mer]) (OnlyChanges.refl s) fun p hp => by cases p <;> simp [Part.same] at hp ⊢))
theorem reacquireApply_frame {edge : Int} (h : OnlyChanges ps r s) (hq : [.setNow, .regs, .log, .mer] ⊆ ps := by decide) : OnlyChanges ps r (reacquireApply edge s) := by
  refine h.then (ps := [.setNow, .regs, .log, .mer]) ?_ hq
  unfold reacquireApply
  dsimp only
  refine .ite ?_ (OnlyChanges.refl s)
  split
  · exact OnlyChanges.refl s
  · next e _ => exact .ite (setMerState_frame (OnlyChanges.next (ps := [.mer]) (t := { build := s.build, clock := s.clock, regs := s.regs, hiLatch := s.hiLatch, setNow := s.setNow, tabs := s.tabs, mer := have __src := s.mer; { time := __src.time, edgeAt := __src.edgeAt, delayAt := __src.delayAt, calCount := __src.calCount, calTheta := __src.calTheta, calRtt := __src.calRtt, calT1 := __src.calT1, calWaiting := __src.calWaiting, acqMark := __src.acqMark, acqPrev := __src.acqPrev, acqReady := false, frameEdge := __src.frameEdge, lockPending := __src.lockPending, reload := __src.reload, mismatches := __src.mismatches, holdPeriods := __src.holdPeriods, refLost := __src.refLost, ratioAcc := __src.ratioAcc, markStuck := __src.markStuck, markEpoch := __src.markEpoch, epochFclk := __src.epochFclk, acquired := some (BitVec.ofNat 64 (lockTime e), edge), slewDiff := __src.slewDiff, bellHighRun := __src.bellHighRun, bellHighFired := __src.bellHighFired, bellLowSince := __src.bellLowSince, bellLowFired := __src.bellLowFired, fenceHighSince := __src.fenceHighSince, fenceHighFired := __src.fenceHighFired, swapAt := __src.swapAt }, owner := s.owner, steward := s.steward, boot := s.boot, log := s.log, mem := s.mem, memLate := s.memLate, lines := s.lines, verdicts := s.verdicts, links := s.links, groups := s.groups, queues := s.queues, orders := s.orders, ledgers := s.ledgers, ops := s.ops, late := s.late, pageWait := s.pageWait, stalls := s.stalls, planes := s.planes, assayWin := s.assayWin, counts := s.counts, injected := s.injected, out := s.out, pending := s.pending }) (OnlyChanges.next (ps := [.mer]) (OnlyChanges.refl s) fun p hp => by cases p <;> simp [Part.same] at hp ⊢) fun p hp => by cases p <;> simp [Part.same] at hp ⊢)) (notice_frame (OnlyChanges.next (ps := [.mer]) (OnlyChanges.refl s) fun p hp => by cases p <;> simp [Part.same] at hp ⊢))
theorem slewCompleteApply_frame (h : OnlyChanges ps r s) (hq : [.setNow, .regs, .log, .mer] ⊆ ps := by decide) : OnlyChanges ps r (slewCompleteApply s) :=
  h.then (ps := [.setNow, .regs, .log, .mer]) (.ite (setMerState_frame (OnlyChanges.next (ps := [.mer]) (OnlyChanges.refl s) fun p hp => by cases p <;> simp [Part.same] at hp ⊢)) (OnlyChanges.refl s)) hq
end

theorem OnlyChanges.transit_eq {ps : List Part} {s t : State} (h : OnlyChanges ps s t) (hc : .clock ∉ ps := by decide) : t.clock.transit = s.clock.transit := by
  have hsame : { t.clock with reached := s.clock.reached, held := s.clock.held, due := s.clock.due, found := s.clock.found } = s.clock := h .clock hc
  exact (congrArg Clock.transit hsame :)

/-! ### Holdover and loss (R226) -/

section
variable {s : State}

/-- The window has closed without its marker: a holdover on the edges of MER_REF. -/
def markMissed (m : Meridian) : Meridian := { m with holdPeriods := 0, refLost := false, acqMark := false }

/-- MER_REF is lost: a holdover on the FCLK ratio. -/
def refMissed (acc : Nat) (m : Meridian) : Meridian := { m with holdPeriods := 0, refLost := true, ratioAcc := acc }

theorem markMissingApply_missed (ha : alive s = true) (h2 : merState s = 2) (hwin : fieldOf (reg rMARK_WINDOW s) 0 4 < s.mer.time.toNat % 2 ^ 24)
    (hmark : s.mer.markEpoch ≠ some (timeEpoch s)) : markMissingApply s = noticedState 3 0x11 markMissed s := by
  have hcond : (alive s && merState s == 2 && windowMissed s) = true := by
    unfold windowMissed
    rw [ha, h2, decide_eq_true hwin, bne_iff_ne.mpr hmark]
    rfl
  unfold markMissingApply noticedState
  rw [if_pos hcond, notice_mer]
  rfl

theorem refLossApply_locked (ha : alive s = true) (h2 : merState s = 2) : refLossApply s = noticedState 3 0x12 (refMissed (ratioStart s)) s := by
  unfold refLossApply noticedState
  rw [if_neg (by simp [ha]), if_pos h2, notice_mer]
  rfl

theorem lostApply_lasted (ha : alive s = true) (h3 : merState s = 3) (hlong : 2 ^ 24 ≤ s.mer.holdPeriods) :
    ∃ acc, lostApply s = noticedState 4 0x13 (lostFrom acc) s := by
  obtain ⟨acc, hc⟩ := countLost_eq (notice 0x13 merSource s)
  refine ⟨acc, Eq.trans (if_pos ?_) hc⟩
  rw [ha, h3, decide_eq_true hlong]
  rfl

theorem refReturnApply_back (ha : alive s = true) (h3 : merState s = 3) (hl : s.mer.refLost = true) :
    refReturnApply s = setMer { s.mer with refLost := false, edgeAt := s.mer.edgeAt + (Config.refPhase s.clock.now % 64 - 32) } s := by
  refine if_pos ?_
  rw [ha, h3, hl]
  rfl

end

theorem meridianHoldoverAndLoss : Claims.MeridianHoldoverAndLoss := by
  intro s hw halive hroom
  refine ⟨fun h2 hwin hmark ha => ?_, fun h2 ha => ?_, fun h3 hlong ha => ?_, fun h3 hl ha => ?_⟩
  · refine answers_next rfl rfl ha fun q => ?_
    rw [markMissingApply_missed (s := withReached q s) halive h2 hwin hmark]
    obtain ⟨h4, h5, h6, h7⟩ := noticedState_spec (s := withReached q s) (n := 3) (code := 0x11) (f := markMissed) hw hroom (by omega) (by decide) (by decide)
    generalize noticedState 3 0x11 markMissed (withReached q s) = t at h4 h5 h6 h7 ⊢
    exact ⟨h4, by rw [h5]; rfl, by rw [h5]; rfl, by rw [h5]; rfl, h6.of_eq rfl rfl rfl, withReached_frame (h7.mono (by decide))⟩
  · refine answers_next rfl rfl ha fun q => ?_
    rw [refLossApply_locked (s := withReached q s) halive h2]
    generalize ratioStart (withReached q s) = acc
    obtain ⟨h4, h5, h6, h7⟩ := noticedState_spec (s := withReached q s) (n := 3) (code := 0x12) (f := refMissed acc) hw hroom (by omega) (by decide) (by decide)
    generalize noticedState 3 0x12 (refMissed acc) (withReached q s) = t at h4 h5 h6 h7 ⊢
    exact ⟨h4, by rw [h5]; rfl, by rw [h5]; rfl, by rw [h5]; rfl, h6.of_eq rfl rfl rfl, withReached_frame (h7.mono (by decide))⟩
  · refine answers_next rfl rfl ha fun q => ?_
    obtain ⟨acc, he⟩ := lostApply_lasted (s := withReached q s) halive h3 hlong
    rw [he]
    obtain ⟨h4, h5, h6, h7⟩ := noticedState_spec (s := withReached q s) (n := 4) (code := 0x13) (f := lostFrom acc) hw hroom (by omega) (by decide) (by decide)
    generalize noticedState 4 0x13 (lostFrom acc) (withReached q s) = t at h4 h5 h6 h7 ⊢
    exact ⟨h4, by rw [h5]; rfl, h6.of_eq rfl rfl rfl, withReached_frame (h7.mono (by decide))⟩
  · refine answers_next rfl rfl ha fun q => ?_
    rw [refReturnApply_back (s := withReached q s) halive h3 hl]
    refine ⟨rfl, ?_, withReached_frame (setMer_frame (.refl _))⟩
    show (s.mer.edgeAt + (Config.refPhase s.clock.now % 64 - 32) - s.mer.edgeAt).natAbs ≤ 32
    omega

/-! ### Locks, slews and RESYNC (R225, R229) -/

section
variable {s : State}

/-- ACQUIRE is left. -/
def acquired (m : Meridian) : Meridian := { m with acqReady := false, lockPending := true, mismatches := 0, acqMark := false }

theorem lockApply_ready {e : BitVec 40} (ha : alive s = true) (h1 : merState s = 1) (hr : s.mer.acqReady = true) (he : s.mer.acqPrev = some e) :
    lockApply s = setMerState 2 (loadTime (lockTime e) s.mer.frameEdge (setMer (acquired s.mer) s)) := by
  unfold lockApply
  rw [if_pos (by rw [ha, h1, hr]; rfl), he]
  rfl

/-- The time that a LOST chip has acquired. -/
def timeAcquired (e : BitVec 40) (edge : Int) (m : Meridian) : Meridian := { m with acqReady := false, acquired := some (BitVec.ofNat 64 (lockTime e), edge) }

/-- How far the acquired time stands from the count, in 1/16 ns. -/
def acquiredDiff (e : BitVec 40) (s : State) : Int := 64 * (lockTime e : Int) - (64 * (s.mer.time.toNat : Int) + (s.mer.frameEdge - s.mer.edgeAt))

theorem reacquireApply_ready {e : BitVec 40} (ha : alive s = true) (h4 : merState s = 4) (hr : s.mer.acqReady = true) (he : s.mer.acqPrev = some e) :
    reacquireApply s.mer.frameEdge s = if (acquiredDiff e s).natAbs ≤ unitsUs * regNat rSLEW_LIMIT s
      then setMerState 5 (setMer { timeAcquired e s.mer.frameEdge s.mer with slewDiff := acquiredDiff e s } s)
      else notice 0x15 merSource (setMer (timeAcquired e s.mer.frameEdge s.mer) s) := by
  unfold reacquireApply
  rw [if_pos (by rw [ha, h4, hr]; simp), he]
  rfl

theorem slewCompleteApply_done (ha : alive s = true) (h5 : merState s = 5) (hd : s.mer.slewDiff.natAbs < 16) :
    slewCompleteApply s = setMerState 2 (setMer { s.mer with slewDiff := 0, edgeAt := s.mer.edgeAt - s.mer.slewDiff, acquired := none } s) := by
  refine if_pos ?_
  rw [ha, h5, decide_eq_true hd]
  rfl

theorem resyncWrite_eq (s : State) : resyncWrite s = match s.mer.acquired with
    | some a => if s.clock.fenced = true ∧ anyHeld s = false ∧ merState s = 4
        then find_ .resynced (loadTime a.1.toNat a.2 (setMer { s.mer with acquired := none, mismatches := 0 } s)) else noticeNext 0x15 merSource s
    | none => noticeNext 0x15 merSource s := by
  unfold resyncWrite
  cases s.mer.acquired with
  | none => rfl
  | some a => exact if_congr (by simp [and_assoc]) rfl rfl

end

theorem meridianLocks : Claims.MeridianLocks := by
  intro s hw halive
  refine ⟨fun e h1 hr he ha => ?_, fun e edge h4 hr he hroom hedge ha => ?_, fun h5 hd ha => ?_, fun port master ho => ?_, fun n hn hrang hdue hle h4 => ?_⟩
  · refine answers_next rfl rfl ha fun q => ?_
    rw [lockApply_ready (s := withReached q s) halive h1 hr he]
    let x := loadTime (lockTime e) s.mer.frameEdge (setMer (acquired s.mer) (withReached q s))
    have hx1 : merState x ≠ 2 := by show merState s ≠ 2; omega
    have hf : OnlyChanges [.mer] (withReached q s) x := loadTime_frame (setMer_frame (.refl _))
    have hmer : (setMerState 2 x).mer = { x.mer with epochFclk := none, markEpoch := some (timeEpoch x) } := setMerState_locked hx1
    refine ⟨merState_setMerState (s := x) hw (by decide), (congrArg Meridian.time hmer).trans rfl, congrArg Meridian.lockPending hmer, congrArg Meridian.reload hmer,
      (congrArg Clock.transit (setMerState_clock (s := x))).trans rfl, withReached_frame (q := q) ?_⟩
    exact (hf.mono (by decide)).then (setMerState_frame (ps := [.mer, .regs, .setNow, .log]) (.refl x)) (by decide)
  · subst hedge
    refine answers_next rfl rfl ha fun q => ?_
    rw [show s.mer.frameEdge = (withReached q s).mer.frameEdge from rfl, reacquireApply_ready (s := withReached q s) halive h4 hr he]
    change _ ∧ _ ∧ (if (acquiredDiff e s).natAbs ≤ 16000 * regNat rSLEW_LIMIT s then _ else _) ∧ _
    have hcond : ((acquiredDiff e (withReached q s)).natAbs ≤ unitsUs * regNat rSLEW_LIMIT (withReached q s)) ↔ ((acquiredDiff e s).natAbs ≤ 16000 * regNat rSLEW_LIMIT s) := Iff.rfl
    by_cases hd : (acquiredDiff e s).natAbs ≤ 16000 * regNat rSLEW_LIMIT s
    · rw [if_pos (hcond.mpr hd), if_pos hd]
      let x := setMer { timeAcquired e s.mer.frameEdge s.mer with slewDiff := acquiredDiff e s } (withReached q s)
      have hf : OnlyChanges [.regs, .setNow] x (setMerState 5 x) := setMerState_unlocked (by decide)
      have hm : (setMerState 5 x).mer = x.mer := setMerState_mer (by decide)
      have hx : OnlyChanges [.mer] (withReached q s) x := setMer_frame (.refl _)
      exact ⟨congrArg Meridian.acquired hm, (congrArg Meridian.time hm).trans rfl, ⟨merState_setMerState (s := x) hw (by decide), congrArg Meridian.slewDiff hm⟩,
        withReached_frame (q := q) ((hx.mono (by decide)).then hf (by decide))⟩
    · rw [if_neg (mt hcond.mp hd), if_neg hd]
      let x := setMer (timeAcquired e s.mer.frameEdge s.mer) (withReached q s)
      have hm : (notice 0x15 merSource x).mer = x.mer := notice_mer
      have hl : Logged 0x15 0 merSource x (notice 0x15 merSource x) := notice_logged hroom (.inl (by decide))
      have hx : OnlyChanges [.mer] (withReached q s) x := setMer_frame (.refl _)
      exact ⟨congrArg Meridian.acquired hm, (congrArg Meridian.time hm).trans rfl, ⟨(merState_notice (s := x) (by omega)).trans h4, hl.of_eq rfl rfl rfl⟩,
        withReached_frame (q := q) (notice_frame (hx.mono (by decide)))⟩
  · refine answers_next rfl rfl ha fun q => ?_
    rw [slewCompleteApply_done (s := withReached q s) halive h5 hd]
    let x := setMer { s.mer with slewDiff := 0, edgeAt := s.mer.edgeAt - s.mer.slewDiff, acquired := none } (withReached q s)
    have hx2 : merState x ≠ 2 := by show merState s ≠ 2; omega
    have hmer : (setMerState 2 x).mer = { x.mer with epochFclk := none, markEpoch := some (timeEpoch x) } := setMerState_locked hx2
    have hx : OnlyChanges [.mer] (withReached q s) x := setMer_frame (.refl _)
    exact ⟨merState_setMerState (s := x) hw (by decide), congrArg Meridian.slewDiff hmer, (congrArg Meridian.time hmer).trans rfl, congrArg Meridian.edgeAt hmer,
      withReached_frame (q := q) ((hx.mono (by decide)).then (setMerState_frame (ps := [.mer, .regs, .setNow, .log]) (.refl x)) (by decide))⟩
  · have hframe (q : Place) : OnlyChanges [.mer, .found] (withReached q s) (resyncWrite (withReached q s)) := resyncWrite_frame (.refl _)
    refine answers_ownerWrite (addr := 0x02044) (v := 2#32) (w := resyncWrite) ho rfl rfl rfl (fun _ => rfl) (fun _ => rfl) (fun q => (hframe q).requests_eq) fun q => ?_
    have hall : OnlyChanges [.reached, .found, .mer, .out] s (present (.mgmtRsp port master 0#32 false) (resyncWrite (withReached q s))) :=
      present_withReached_frame ((hframe q).mono (by decide))
    refine ⟨congrArg (· ++ [PortOut.mgmtRsp port master 0#32 false]) (hframe q).out_eq, merState_congr (congrArg (tget (regReset rMER_STATE) rMER_STATE) (hall .regs (by decide))),
      hall.transit_eq, hall, ?_⟩
    rw [resyncWrite_eq]
    rw [show (withReached q s).mer.acquired = s.mer.acquired from rfl]
    cases hacq : s.mer.acquired with
    | none => exact ⟨rfl, rfl⟩
    | some a =>
      dsimp only
      have hcond : ((withReached q s).clock.fenced = true ∧ anyHeld (withReached q s) = false ∧ merState (withReached q s) = 4)
          ↔ (s.clock.fenced = true ∧ anyHeld s = false ∧ merState s = 4) := Iff.rfl
      by_cases hc : s.clock.fenced = true ∧ anyHeld s = false ∧ merState s = 4
      · rw [if_pos hc, if_pos (hcond.mpr hc)]
        exact ⟨rfl, rfl, rfl, rfl⟩
      · rw [if_neg hc, if_neg (mt hcond.mp hc)]
        exact ⟨rfl, rfl⟩
  · let x := atDue .resynced s
    have hclock : (setMerState 2 x).clock = x.clock := setMerState_clock
    have hmer : (setMerState 2 x).mer = { x.mer with epochFclk := none, markEpoch := some (timeEpoch x) } := setMerState_locked (by show merState s ≠ 2; omega)
    have hf : OnlyChanges [.regs, .setNow, .log, .mer] x (setMerState 2 x) := setMerState_frame (.refl x)
    have hidle : bellRearmApply n (withReached ⟨3, [n, 2]⟩ (setMerState 2 x)) = withReached ⟨3, [n, 2]⟩ (setMerState 2 x) :=
      bellRearmApply_idle (.inl ((congrArg (fun t => (tget Line.idle n t).rangAt) (hf .lines (by decide))).trans hrang))
    refine answers_bellRearm_due hn hdue rfl (congrArg Clock.reached hclock) ?_
    rw [show dueApply .resynced (atDue .resynced s) = setMerState 2 x from rfl, hidle]
    exact ⟨merState_setMerState (s := x) hw (by decide), (congrArg Meridian.time hmer).trans rfl, congrArg Clock.due hclock,
      (((atDue_onlyChanges _ s).mono (by decide)).then hf (by decide)).then (withReached_onlyChanges _ _) (by decide)⟩

/-- Settles O24: holdover and loss, locks, slews and RESYNC. -/
theorem meridianStates : Obligations.MeridianStates := ⟨meridianHoldoverAndLoss, meridianLocks⟩

end Sys2Proof.Machine
end

section
/-! PROOF. INPUT_DELAY and calibration over a ring link, and the detectors of stuck lines (R212, R213, R219, R223, R401). -/

namespace Sys2Proof.Machine

-- The inclusions that frames ask for are auto parameters, whose code is compiled: with proofs elaborated in order no thread waits for it.
set_option Elab.async false

section
variable {r s : State} {ps : List Part}

theorem frameOut_frame {port : Nat} {at' : Nat} {o : PortOut} (h : OnlyChanges ps r s) (hq : [.out, .regs, .links] ⊆ ps := by decide) : OnlyChanges ps r (frameOut port at' o s) :=
  h.then (ps := [.out, .regs, .links]) (present_frame (setReg64_frame (setLink_frame (OnlyChanges.refl s)))) hq
theorem calStart_frame (h : OnlyChanges ps r s) (hq : [.out, .regs, .links, .mer, .setNow] ⊆ ps := by decide) : OnlyChanges ps r (calStart s) :=
  h.then (ps := [.out, .regs, .links, .mer, .setNow]) (.ite (frameOut_frame (OnlyChanges.next (ps := [.mer]) (OnlyChanges.refl s) fun p hp => by cases p <;> simp [Part.same] at hp ⊢)) (calEnd_frame (OnlyChanges.next (ps := [.mer]) (OnlyChanges.refl s) fun p hp => by cases p <;> simp [Part.same] at hp ⊢))) hq
theorem calWrite_frame (h : OnlyChanges ps r s) (hq : [.mer, .regs, .out, .links, .setNow] ⊆ ps := by decide) : OnlyChanges ps r (calWrite s) :=
  h.then (ps := [.mer, .regs, .out, .links, .setNow]) (.ite (OnlyChanges.refl s) (.ite (OnlyChanges.next (ps := [.mer]) (t := calBit 10 true (calBit 8 false (calBit 9 false s))) (calBit_frame (calBit_frame (calBit_frame (OnlyChanges.refl s)))) fun p hp => by cases p <;> simp [Part.same] at hp ⊢) (calStart_frame (calBit_frame (calBit_frame (calBit_frame (OnlyChanges.refl s))))))) hq
theorem delaySlewEnds_frame (h : OnlyChanges ps r s) (hq : [.regs, .out, .links, .mer, .setNow] ⊆ ps := by decide) : OnlyChanges ps r (delaySlewEnds s) :=
  h.then (ps := [.regs, .out, .links, .mer, .setNow]) (.when (calBit_frame (OnlyChanges.refl s)) fun h1 => calStart_frame h1) hq
theorem inputDelayApply_frame {v : Word} (h : OnlyChanges ps r s) (hq : [.regs, .out, .links, .mer, .setNow] ⊆ ps := by decide) : OnlyChanges ps r (inputDelayApply v s) :=
  h.then (ps := [.regs, .out, .links, .mer, .setNow]) (.ite (delaySlewEnds_frame (setReg_frame (OnlyChanges.refl s))) (calBit_frame (setReg_frame
      (OnlyChanges.refl s)))) hq
theorem timeFrameApply_frame {port : Nat} {reply : Option TimeReply} {stamp : Int} (h : OnlyChanges ps r s) (hq : [.out, .regs, .links, .setNow, .mer] ⊆ ps := by decide) : OnlyChanges ps r (timeFrameApply port reply stamp s) := by
  refine h.then (ps := [.out, .regs, .links, .setNow, .mer]) ?_ hq
  unfold timeFrameApply
  dsimp only
  refine .ite (OnlyChanges.refl s) ?_
  split
  · exact .ite (frameOut_frame (OnlyChanges.refl s)) (OnlyChanges.refl s)
  · exact .ite (OnlyChanges.refl s) (.ite (calEnd_frame (OnlyChanges.refl s)) (.ite (calEnd_frame (setReg_frame (setReg_frame (OnlyChanges.next (ps := [.mer]) (OnlyChanges.refl s) fun p hp => by cases p <;> simp [Part.same] at hp ⊢)))) (frameOut_frame (OnlyChanges.next (ps := [.mer]) (OnlyChanges.refl s) fun p hp => by cases p <;> simp [Part.same] at hp ⊢))))
theorem bellExtHighApply_frame {n : Nat} (h : OnlyChanges ps r s) (hq : [.setNow, .regs, .log, .mer] ⊆ ps := by decide) : OnlyChanges ps r (bellExtHighApply n s) :=
  h.then (ps := [.setNow, .regs, .log, .mer]) (.ite (notice_frame (OnlyChanges.next (ps := [.mer]) (OnlyChanges.refl s) fun p hp => by cases p <;> simp [Part.same] at hp ⊢)) (OnlyChanges.refl s)) hq
theorem bellExtLowApply_frame {n : Nat} (h : OnlyChanges ps r s) (hq : [.setNow, .regs, .log, .mer] ⊆ ps := by decide) : OnlyChanges ps r (bellExtLowApply n s) :=
  h.then (ps := [.setNow, .regs, .log, .mer]) (.ite (notice_frame (OnlyChanges.next (ps := [.mer]) (OnlyChanges.refl s) fun p hp => by cases p <;> simp [Part.same] at hp ⊢)) (OnlyChanges.refl s)) hq
theorem fenceHighApply_frame (h : OnlyChanges ps r s) (hq : [.setNow, .regs, .log, .mer] ⊆ ps := by decide) : OnlyChanges ps r (fenceHighApply s) :=
  h.then (ps := [.setNow, .regs, .log, .mer]) (.ite (notice_frame (OnlyChanges.next (ps := [.mer]) (OnlyChanges.refl s) fun p hp => by cases p <;> simp [Part.same] at hp ⊢)) (OnlyChanges.refl s)) hq
theorem glitchApply_frame (h : OnlyChanges ps r s) (hq : [.regs] ⊆ ps := by decide) : OnlyChanges ps r (glitchApply s) :=
  h.then (ps := [.regs]) (.ite (count_frame (OnlyChanges.refl s)) (OnlyChanges.refl s)) hq
end

/-! ### The bits of MERIDIAN.STATE (R213, R401) -/

section
variable {s : State} {i k : Nat} {on : Bool}

theorem reg_calBit (h : tableWfBy regReset s.regs = true) :
    reg rMER_STATE (calBit i on s) = if on then reg rMER_STATE s ||| bit i else reg rMER_STATE s &&& ~~~bit i := reg_setReg_self h

theorem calBit_regs_wf (h : tableWfBy regReset s.regs = true) : tableWfBy regReset (calBit i on s).regs = true := tset_wfBy _ _ _ h

theorem bitOf_calBit (h : tableWfBy regReset s.regs = true) (hi : i < 32) :
    bitOf (reg rMER_STATE (calBit i on s)) k = if k = i then on else bitOf (reg rMER_STATE s) k := by
  rw [reg_calBit h]
  cases on
  · rw [if_neg Bool.false_ne_true, bitOf_clear_bit hi]
    by_cases hk : k = i <;> simp [hk]
  · rw [if_pos rfl, bitOf_or_bit hi]
    by_cases hk : k = i <;> simp [hk]

/-- The STATE field lies below the bits of a measurement. -/
theorem fieldOf_low3_or_bit {w : Word} (hi : 3 ≤ i) : fieldOf (w ||| bit i) 0 3 = fieldOf w 0 3 := by
  have hbit : (bit i).extractLsb' 0 3 = 0#3 := by
    apply BitVec.eq_of_toNat_eq
    rw [BitVec.extractLsb'_toNat]
    unfold bit
    rw [BitVec.toNat_ofNat, Nat.shiftRight_zero, Nat.mod_mod_of_dvd _ (by decide : 2 ^ 3 ∣ 2 ^ 32)]
    exact Nat.mod_eq_zero_of_dvd (Nat.pow_dvd_pow 2 hi)
  rw [fieldOf_eq_extract, fieldOf_eq_extract, BitVec.extractLsb'_or, hbit, BitVec.or_zero]

theorem fieldOf_low3_clear_bit {w : Word} (hi : 3 ≤ i) (hi' : i < 32) : fieldOf (w &&& ~~~bit i) 0 3 = fieldOf w 0 3 := by
  rw [fieldOf_eq_extract, fieldOf_eq_extract]
  congr 1
  ext j hj
  have h := bitOf_clear_bit (w := w) (q := j) hi'
  unfold bitOf at h
  simp only [BitVec.getElem_extractLsb', Nat.zero_add]
  rw [h, decide_eq_false (by omega), Bool.not_false, Bool.and_true]

theorem merState_calBit (h : tableWfBy regReset s.regs = true) (hi : 3 ≤ i) (hi' : i < 32) : merState (calBit i on s) = merState s := by
  unfold merState
  rw [reg_calBit h]
  cases on
  · exact fieldOf_low3_clear_bit hi hi'
  · exact fieldOf_low3_or_bit hi

/-- A frame of a port's own leaves no register of the pages below the ring ports' changed. -/
theorem reg_frameOut_ne {p c a : Nat} {o : PortOut} (h : a < 0x18000) : reg a (frameOut p c o s) = reg a s := by
  have h1 : a ≠ rTX_FLITS p + 4 ∧ a ≠ rTX_FLITS p := by unfold rTX_FLITS pRING pageBase; omega
  exact (reg_present.trans (reg_setReg_ne h1.1)).trans (reg_setReg_ne h1.2)

theorem frameOut_out {p c : Nat} {o : PortOut} : (frameOut p c o s).out = s.out ++ [o] := rfl
theorem frameOut_mer {p c : Nat} {o : PortOut} : (frameOut p c o s).mer = s.mer := rfl

end

/-! ### Measurements (R213, R401) -/

section
variable {s : State}

/-- A measurement begins with this stamp. -/
def measured (t : Int) (m : Meridian) : Meridian := { m with calWaiting := false, calCount := 0, calTheta := 0, calRtt := 0, calT1 := t }

theorem calStart_sends (h2 : merState s = 2) (hup : (linkAt (calPort s) s).state = 2) (hdy : (linkAt (calPort s) s).dying = 0#8) :
    calStart s = frameOut (calPort s) s.clock.fclk (.timeFrame (calPort s) (stampNow s)) (setMer (measured (stampNow s) s.mer) s) := by
  refine if_pos ?_
  show (merState s == 2 && ((linkAt (calPort s) s).state == 2 && (linkAt (calPort s) s).dying == 0#8)) = true
  rw [h2, hup, hdy]
  rfl

/-- What the start of a measurement leaves. -/
theorem calStart_spec (h2 : merState s = 2) (hup : (linkAt (calPort s) s).state = 2) (hdy : (linkAt (calPort s) s).dying = 0#8) : let t := calStart s
    reg rMER_STATE t = reg rMER_STATE s ∧ t.mer = measured (stampNow s) s.mer ∧ t.out = s.out ++ [.timeFrame (calPort s) (stampNow s)]
      ∧ OnlyChanges [.mer, .regs, .links, .out] s t := by
  dsimp only
  rw [calStart_sends h2 hup hdy]
  exact ⟨reg_frameOut_ne (s := setMer _ s) (by decide), rfl, rfl, frameOut_frame (setMer_frame (.refl s))⟩

theorem calPort_calBit {i : Nat} {on : Bool} : calPort (calBit i on s) = calPort s := congrArg (fieldOf · 0 3) (reg_setReg_ne (by decide))

/-- INPUT_DELAY has its word. -/
def delayWritten (v : Word) (s : State) : State := setReg rINPUT_DELAY (v &&& 0xFFFF#32) s

theorem regNat_delayWritten (h : tableWfBy regReset s.regs = true) {v : Word} : regNat rINPUT_DELAY (delayWritten v s) = (v &&& 0xFFFF#32).toNat :=
  congrArg BitVec.toNat (reg_setReg_self h)

theorem inputDelayApply_eq (h : tableWfBy regReset s.regs = true) (v : Word) : inputDelayApply v s = if s.mer.delayAt = (v &&& 0xFFFF#32).toNat
    then (if s.mer.calWaiting = true then calStart (calBit 11 false (delayWritten v s)) else calBit 11 false (delayWritten v s))
    else calBit 11 true (delayWritten v s) := by
  unfold inputDelayApply delaySlewEnds
  rw [show setReg rINPUT_DELAY (v &&& 0xFFFF#32) s = delayWritten v s from rfl]
  dsimp only
  rw [regNat_delayWritten h]
  rfl

end

theorem inputDelayWrites (port master : Nat) (v : Word) (s : State) (hw : s.tablesWf = true) (ho : OwnerTurn port master (.inputDelayWrite (.mgmt port master) v) s) :
    (s.mer.calWaiting = false ∨ s.mer.delayAt ≠ (v &&& 0xFFFF#32).toNat → Answers (.inputDelayWrite (.mgmt port master) v) s fun t => reg rINPUT_DELAY t = v &&& 0xFFFF#32 ∧ t.mer = s.mer
      ∧ bitOf (reg rMER_STATE t) 11 = decide (s.mer.delayAt ≠ (v &&& 0xFFFF#32).toNat) ∧ merState t = merState s
      ∧ RegsKeep [rINPUT_DELAY, rMER_STATE] s t ∧ Answered port master 0#32 s t ∧ OnlyChanges [.reached, .regs, .out] s t)
    ∧ (s.mer.calWaiting = true → s.mer.delayAt = (v &&& 0xFFFF#32).toNat → merState s = 2 → bitOf (reg rMER_STATE s) 10 = true → (linkAt (calPort s) s).state = 2 → (linkAt (calPort s) s).dying = 0#8 →
      Answers (.inputDelayWrite (.mgmt port master) v) s fun t => bitOf (reg rMER_STATE t) 11 = false ∧ bitOf (reg rMER_STATE t) 10 = true ∧ t.mer.calWaiting = false ∧ t.mer.calT1 = stampNow s
        ∧ t.out = s.out ++ [.timeFrame (calPort s) (stampNow s), .mgmtRsp port master 0#32 false] ∧ OnlyChanges [.reached, .mer, .regs, .links, .out] s t) := by
  have hregs := regs_wf hw
  have hreq (q : Place) : (inputDelayApply v (withReached q s)).owner.requests = s.owner.requests :=
    (inputDelayApply_frame (ps := [.mer, .regs, .setNow, .links, .out]) (.refl (withReached q s))).requests_eq
  refine ⟨fun hnot => ?_, fun hwait hat h2 h10 hup hdy => ?_⟩
  · refine answers_ownerWrite (addr := rINPUT_DELAY) (v := v) (w := inputDelayApply v) ho rfl rfl rfl (fun _ => rfl) (fun _ => rfl) hreq fun q => ?_
    have hd : ∃ b, b = decide (s.mer.delayAt ≠ (v &&& 0xFFFF#32).toNat) ∧ inputDelayApply v (withReached q s) = calBit 11 b (delayWritten v (withReached q s)) := by
      rw [inputDelayApply_eq (s := withReached q s) hregs]
      by_cases hat : s.mer.delayAt = (v &&& 0xFFFF#32).toNat
      · refine ⟨false, by simp [hat], ?_⟩
        have hw0 : s.mer.calWaiting = false := hnot.resolve_right fun h => h hat
        exact (if_pos hat).trans (if_neg (by show ¬ s.mer.calWaiting = true; rw [hw0]; decide))
      · exact ⟨true, (decide_eq_true hat).symm, if_neg hat⟩
    obtain ⟨b, hb, he⟩ := hd
    have hx : tableWfBy regReset (delayWritten v (withReached q s)).regs = true := tset_wfBy _ _ _ hregs
    have hstate : reg rMER_STATE (delayWritten v (withReached q s)) = reg rMER_STATE s := reg_setReg_ne (by decide)
    rw [he]
    refine ⟨(reg_setReg_ne (by decide)).trans (reg_setReg_self (s := withReached q s) hregs), rfl, ?_, ?_,
      setReg_regsKeep (setReg_regsKeep (s := withReached q s) (.refl s) List.mem_cons_self) (by simp), rfl, present_withReached_frame (calBit_frame (setReg_frame (.refl _)))⟩
    · rw [reg_present, bitOf_calBit hx (by decide), if_pos rfl, hb]
    · exact (merState_calBit hx (by decide) (by decide)).trans (merState_congr hstate)
  · refine answers_ownerWrite (addr := rINPUT_DELAY) (v := v) (w := inputDelayApply v) ho rfl rfl rfl (fun _ => rfl) (fun _ => rfl) hreq fun q => ?_
    have he : inputDelayApply v (withReached q s) = calStart (calBit 11 false (delayWritten v (withReached q s))) := by
      rw [inputDelayApply_eq (s := withReached q s) hregs]
      exact (if_pos hat).trans (if_pos hwait)
    have hx : tableWfBy regReset (delayWritten v (withReached q s)).regs = true := tset_wfBy _ _ _ hregs
    have hstate : reg rMER_STATE (delayWritten v (withReached q s)) = reg rMER_STATE s := reg_setReg_ne (by decide)
    have hport : calPort (calBit 11 false (delayWritten v (withReached q s))) = calPort s := calPort_calBit.trans (congrArg (fieldOf · 0 3) (reg_setReg_ne (by decide)))
    obtain ⟨h3, h4, h5, h6⟩ := calStart_spec (s := calBit 11 false (delayWritten v (withReached q s)))
      ((merState_calBit hx (by decide) (by decide)).trans ((merState_congr hstate).trans h2)) (by rw [hport]; exact hup) (by rw [hport]; exact hdy)
    have hy : OnlyChanges [.regs] (withReached q s) (calBit 11 false (delayWritten v (withReached q s))) := calBit_frame (setReg_frame (.refl _))
    rw [hport] at h5
    rw [he]
    generalize calStart (calBit 11 false (delayWritten v (withReached q s))) = t at h3 h4 h5 h6 ⊢
    refine ⟨?_, ?_, by rw [show (present (PortOut.mgmtRsp port master 0#32 false) t).mer = t.mer from rfl, h4]; rfl,
      by rw [show (present (PortOut.mgmtRsp port master 0#32 false) t).mer = t.mer from rfl, h4]; rfl, ?_, present_withReached_frame ((hy.mono (by decide)).then h6 (by decide))⟩
    · rw [reg_present, h3, bitOf_calBit hx (by decide), if_pos rfl]
    · rw [reg_present, h3, bitOf_calBit hx (by decide), if_neg (by decide), hstate, h10]
    · show t.out ++ _ = _
      rw [h5, List.append_assoc]
      rfl

/-- A measurement that is asked for is BUSY. -/
def calBusy (s : State) : State := calBit 10 true (calBit 8 false (calBit 9 false s))

theorem calBusy_spec {s : State} (h : tableWfBy regReset s.regs = true) : let t := calBusy s
    bitOf (reg rMER_STATE t) 10 = true ∧ bitOf (reg rMER_STATE t) 11 = bitOf (reg rMER_STATE s) 11 ∧ merState t = merState s ∧ calPort t = calPort s := by
  have h1 : tableWfBy regReset (calBit 9 false s).regs = true := calBit_regs_wf h
  have h2 : tableWfBy regReset (calBit 8 false (calBit 9 false s)).regs = true := calBit_regs_wf h1
  unfold calBusy
  refine ⟨?_, ?_, ?_, calPort_calBit.trans (calPort_calBit.trans calPort_calBit)⟩
  · rw [bitOf_calBit h2 (by decide), if_pos rfl]
  · rw [bitOf_calBit h2 (by decide), if_neg (by decide), bitOf_calBit h1 (by decide), if_neg (by decide), bitOf_calBit h (by decide), if_neg (by decide)]
  · exact (merState_calBit h2 (by decide) (by decide)).trans ((merState_calBit h1 (by decide) (by decide)).trans (merState_calBit h (by decide) (by decide)))

theorem calWrite_starts {s : State} (hregs : tableWfBy regReset s.regs = true) (h10 : bitOf (reg rMER_STATE s) 10 = false) (h11 : bitOf (reg rMER_STATE s) 11 = false) :
    calWrite s = calStart (calBusy s) := by
  have hb : bitOf (reg rMER_STATE (calBusy s)) 11 = false := (calBusy_spec hregs).2.1.trans h11
  unfold calWrite
  rw [if_neg (by rw [h10]; decide)]
  exact if_neg (by rw [show bitOf (reg rMER_STATE (calBit 10 true (calBit 8 false (calBit 9 false s)))) 11 = false from hb]; decide)

theorem meridianCalWrites (port master : Nat) (s : State) (hw : s.tablesWf = true) (h2 : merState s = 2) (h10 : bitOf (reg rMER_STATE s) 10 = false)
    (h11 : bitOf (reg rMER_STATE s) 11 = false) (hup : (linkAt (calPort s) s).state = 2) (hdy : (linkAt (calPort s) s).dying = 0#8)
    (ho : OwnerTurn port master (.meridianCal (.mgmt port master)) s) : Answers (.meridianCal (.mgmt port master)) s fun t =>
      bitOf (reg rMER_STATE t) 10 = true ∧ merState t = 2 ∧ t.mer.calCount = 0
        ∧ t.mer.calT1 = stampNow s ∧ t.out = s.out ++ [.timeFrame (calPort s) (stampNow s), .mgmtRsp port master 0#32 false] ∧ OnlyChanges [.reached, .mer, .regs, .links, .out] s t := by
  have hregs := regs_wf hw
  refine answers_ownerWrite (addr := 0x02044) (v := 1#32) (w := calWrite) ho rfl rfl rfl (fun _ => rfl) (fun _ => rfl)
    (fun q => (calWrite_frame (ps := [.mer, .regs, .setNow, .links, .out]) (.refl (withReached q s))).requests_eq) fun q => ?_
  rw [calWrite_starts (s := withReached q s) hregs h10 h11]
  obtain ⟨hb10, -, hstate, hport⟩ := calBusy_spec (s := withReached q s) hregs
  rw [show calPort (withReached q s) = calPort s from rfl] at hport
  obtain ⟨h3, h4, h5, h6⟩ := calStart_spec (s := calBusy (withReached q s)) (hstate.trans h2) (by rw [hport]; exact hup) (by rw [hport]; exact hdy)
  have hy : OnlyChanges [.regs] (withReached q s) (calBusy (withReached q s)) := calBit_frame (calBit_frame (calBit_frame (.refl _)))
  rw [hport] at h5
  generalize calStart (calBusy (withReached q s)) = t at h3 h4 h5 h6 ⊢
  refine ⟨by rw [reg_present, h3, hb10], (merState_congr h3).trans (hstate.trans h2), (congrArg Meridian.calCount h4 :), (congrArg Meridian.calT1 h4 :), ?_,
    present_withReached_frame ((hy.mono (by decide)).then h6 (by decide))⟩
  show t.out ++ _ = _
  rw [h5, List.append_assoc]
  rfl

/-! ### Time frames (R213) -/

section
variable {s : State} {port : Nat} {stamp : Int} {reply : TimeReply}

theorem timeFrameApply_request (ha : alive s = true) (hphy : (linkAt port s).phyEnable = true) (hdy : (linkAt port s).dying = 0#8) :
    timeFrameApply port none stamp s = frameOut port s.clock.fclk (.timeAnswer port stamp stamp) s := by
  unfold timeFrameApply
  rw [if_neg (by simp [ha])]
  refine if_pos ?_
  rw [hphy, hdy]
  rfl

/-- The sums of a measurement with one exchange more. -/
def exchanged (th rt t1 : Int) (m : Meridian) : Meridian := { m with calCount := m.calCount + 1, calTheta := th, calRtt := rt, calT1 := t1 }

/-- The means of 64 measurements. -/
def calMeans (th rt : Int) (s : State) : State := setReg rCAL_RTT (BitVec.ofInt 32 (rt.tdiv 128)) (setReg rCAL_OFFSET (BitVec.ofInt 32 (th.tdiv 128)) s)

theorem timeFrameApply_reply (ha : alive s = true) (h10 : bitOf (reg rMER_STATE s) 10 = true) (hwait : s.mer.calWaiting = false) (hport : port = calPort s)
    (hl : reply.locked = true) (h2 : merState s = 2) (hup : (linkAt port s).state = 2) (hdy : (linkAt port s).dying = 0#8) :
    let th := s.mer.calTheta + ((stamp - reply.t3) - (reply.t2 - s.mer.calT1))
    let rt := s.mer.calRtt + ((reply.t2 - s.mer.calT1) + (stamp - reply.t3))
    timeFrameApply port (some reply) stamp s = if s.mer.calCount + 1 = 64 then calEnd 8 (calMeans th rt (setMer (exchanged th rt stamp s.mer) s))
      else frameOut port s.clock.fclk (.timeFrame port stamp) (setMer (exchanged th rt stamp s.mer) s) := by
  have hup' : timePort port s = true := by unfold timePort; rw [hup, hdy]; rfl
  dsimp only
  unfold timeFrameApply
  rw [if_neg (by simp [ha])]
  dsimp only
  rw [if_neg (by simp [h10, hwait, ← hport]), if_neg (by simp [hl, h2, hup'])]
  rfl

/-- A measurement that has ended DONE. -/
theorem calEnd_done_spec (hregs : tableWfBy regReset s.regs = true) : let t := calEnd 8 s
    bitOf (reg rMER_STATE t) 10 = false ∧ bitOf (reg rMER_STATE t) 8 = true ∧ (reg (rIrqRaw pMERIDIAN) t).getLsbD 1 = true ∧ t.out = s.out ∧ t.mer = s.mer
      ∧ reg rCAL_OFFSET t = reg rCAL_OFFSET s ∧ reg rCAL_RTT t = reg rCAL_RTT s := by
  have h1 : tableWfBy regReset (calBit 10 false s).regs = true := calBit_regs_wf hregs
  have h2 : tableWfBy regReset (calBit 8 true (calBit 10 false s)).regs = true := calBit_regs_wf h1
  have hirq {a : Nat} (h : a ≠ rIrqRaw pMERIDIAN) : reg a (calEnd 8 s) = reg a (calBit 8 true (calBit 10 false s)) := reg_irq_ne h
  refine ⟨?_, ?_, irq_raised h2 (by decide), rfl, rfl, ?_, ?_⟩
  · rw [hirq (by decide), bitOf_calBit h1 (by decide), if_neg (by decide), bitOf_calBit hregs (by decide), if_pos rfl]
  · rw [hirq (by decide), bitOf_calBit h1 (by decide), if_pos rfl]
  · exact (hirq (by decide)).trans ((reg_setReg_ne (by decide)).trans (reg_setReg_ne (by decide)))
  · exact (hirq (by decide)).trans ((reg_setReg_ne (by decide)).trans (reg_setReg_ne (by decide)))

end

theorem meridianCalibration : Claims.MeridianCalibration := by
  refine ⟨fun port master v s hw ho => inputDelayWrites port master v s hw ho, fun port master s hw h2 h10 h11 hup hdy ho => meridianCalWrites port master s hw h2 h10 h11 hup hdy ho, fun port stamp s hw hp halive hdue hphy hdy => ?_,
    fun port r stamp s hw hp halive hdue h10 hwait hport hl h2 hup hdy => ?_⟩
  · refine answers_unplaced (if_pos hp) rfl hdue ?_
    rw [timeFrameApply_request halive hphy hdy]
    exact ⟨rfl, rfl, frameOut_frame (.refl s)⟩
  · have hregs := regs_wf hw
    refine answers_unplaced (if_pos hp) rfl hdue ?_
    have happly := timeFrameApply_reply (stamp := stamp) halive h10 hwait hport hl h2 hup hdy
    dsimp only at happly
    rw [happly]
    by_cases h64 : s.mer.calCount + 1 = 64
    · rw [if_pos h64, if_pos h64]
      let th := s.mer.calTheta + ((stamp - r.t3) - (r.t2 - s.mer.calT1))
      let rt := s.mer.calRtt + ((r.t2 - s.mer.calT1) + (stamp - r.t3))
      let x := calMeans th rt (setMer (exchanged th rt stamp s.mer) s)
      have hx1 : tableWfBy regReset (setReg rCAL_OFFSET (BitVec.ofInt 32 (th.tdiv 128)) (setMer (exchanged th rt stamp s.mer) s)).regs = true := tset_wfBy _ _ _ hregs
      have hx : tableWfBy regReset x.regs = true := tset_wfBy _ _ _ hx1
      obtain ⟨e1, e2, e3, e4, e5, e6, e7⟩ := calEnd_done_spec hx
      have hoff : reg rCAL_OFFSET x = BitVec.ofInt 32 (th.tdiv 128) := (reg_setReg_ne (by decide)).trans (reg_setReg_self (s := setMer _ s) hregs)
      have hrtt : reg rCAL_RTT x = BitVec.ofInt 32 (rt.tdiv 128) := reg_setReg_self hx1
      exact ⟨(congrArg Meridian.calCount e5 :), ⟨e6.trans hoff, e7.trans hrtt, e1, e2, e3, e4⟩, calEnd_frame (setReg_frame (setReg_frame (setMer_frame (.refl s))))⟩
    · rw [if_neg h64, if_neg h64]
      exact ⟨rfl, ⟨rfl, rfl, rfl, rfl⟩, frameOut_frame (setMer_frame (.refl s))⟩

/-! ### Stuck lines (R219, R223) -/

section
variable {s : State} {n : Nat}

theorem bellExtHighApply_high (ha : alive s = true) (h8 : 8 ≤ s.mer.bellHighRun.getD n 0) (hf : s.mer.bellHighFired.getD n false = false) :
    bellExtHighApply n s = notice 0x16 (source 4 0) (setMer { s.mer with bellHighFired := s.mer.bellHighFired.set n true } s) := by
  refine if_pos ?_
  rw [ha, hf, decide_eq_true h8]
  rfl

theorem bellExtLowApply_low (ha : alive s = true) (h0 : regNat rBELL_LOW_LIMIT s ≠ 0) (hpull : boardPull n s = false) (hs : s.clock.bellSense.getLsbD n = false)
    (hf : s.mer.bellLowFired.getD n false = false) (hlong : regNat rBELL_LOW_LIMIT s * unitsUs ≤ s.clock.now - s.mer.bellLowSince.getD n 0) :
    bellExtLowApply n s = notice 0x17 (source 4 0) (setMer { s.mer with bellLowFired := s.mer.bellLowFired.set n true } s) := by
  refine if_pos ?_
  rw [ha, hpull, hs, hf, decide_eq_true hlong, bne_iff_ne.mpr h0]
  rfl

theorem fenceHighApply_high (ha : alive s = true) (h0 : regNat rFENCE_HIGH_LIMIT s ≠ 0) (hi : s.clock.fenceIn = true) (hf : s.mer.fenceHighFired = false)
    (hlong : regNat rFENCE_HIGH_LIMIT s * unitsUs ≤ s.clock.now - s.mer.fenceHighSince) :
    fenceHighApply s = notice 0x18 (source 4 0) (setMer { s.mer with fenceHighFired := true } s) := by
  refine if_pos ?_
  rw [ha, hi, hf, decide_eq_true hlong, bne_iff_ne.mpr h0]
  rfl

theorem getD_set_self {l : List Bool} (h : n < l.length) : (l.set n true).getD n false = true := by
  simp [List.getD_eq_getElem?_getD, h]

/-- A detector that fires: its mark, and its entry. -/
theorem detector_fires {c : Instr} {f : State → State} {code : Nat} {m : Meridian} {P : Meridian → Prop} (he : exec c s = .next (inTransit c f s)) (hc : inputOf c = none)
    (ha : applies c s = true) (hcode : code < 0x30) (hf : ∀ q, f (withReached q s) = notice code (source 4 0) (setMer m (withReached q s))) (hroom : LogRoom s) (hm : P m) :
    Answers c s fun t => Logged code 0 0x4000#16 s t ∧ P t.mer ∧ OnlyChanges [.reached, .mer, .regs, .setNow, .log] s t := by
  refine answers_next he hc ha fun q => ?_
  rw [hf]
  have hl : Logged code 0 (source 4 0) (setMer m (withReached q s)) (notice code (source 4 0) (setMer m (withReached q s))) := notice_logged hroom (.inl hcode)
  exact ⟨hl.of_eq rfl rfl rfl, by rw [notice_mer]; exact hm, withReached_frame (notice_frame (setMer_frame (.refl _)))⟩

end

theorem stuckLineDetectors : Claims.StuckLineDetectors := by
  intro n s hw hn halive hroom hhi hlo
  refine ⟨fun h8 hf ha => ?_, fun h0 hpull hs hf hlong ha => ?_, fun h0 hi hf hlong ha => ?_, fun g hdue => ⟨fun hlt => ?_, fun hge => ?_⟩⟩
  · exact detector_fires (code := 0x16) (m := { s.mer with bellHighFired := s.mer.bellHighFired.set n true })
      (P := fun m => m.bellHighFired.getD n false = true) (if_pos hn) rfl ha (by decide)
      (fun q => bellExtHighApply_high (s := withReached q s) halive h8 hf) hroom (getD_set_self (by omega))
  · exact detector_fires (code := 0x17) (m := { s.mer with bellLowFired := s.mer.bellLowFired.set n true })
      (P := fun m => m.bellLowFired.getD n false = true) (if_pos hn) rfl ha (by decide)
      (fun q => bellExtLowApply_low (s := withReached q s) halive h0 hpull hs hf hlong) hroom (getD_set_self (by omega))
  · exact detector_fires (code := 0x18) (m := { s.mer with fenceHighFired := true }) (P := fun m => m.fenceHighFired = true) rfl rfl ha (by decide)
      (fun q => fenceHighApply_high (s := withReached q s) halive h0 hi hf hlong) hroom rfl
  · refine answers_unplaced rfl rfl hdue ?_
    rw [if_neg (by simpa [filterPasses] using hlt), glitchApply, if_pos halive]
    exact ⟨reg_count_self (regs_wf hw), count_regsKeep (.refl s) List.mem_cons_self, count_frame (.refl s)⟩
  · refine answers_unplaced rfl rfl hdue ?_
    rw [if_pos (by simpa [filterPasses] using hge)]
    exact .refl s

/-- Settles O25: INPUT_DELAY and calibration, and the detectors of stuck lines. -/
theorem meridianServices : Obligations.MeridianServices := ⟨meridianCalibration, stuckLineDetectors⟩

end Sys2Proof.Machine
end

section
/-! PROOF. Doorbells, standing orders and the configuration of queues (R237 to R241, R261, R435 to R437). -/

namespace Sys2Proof.Machine

-- The inclusions that frames ask for are auto parameters, whose code is compiled: with proofs elaborated in order no thread waits for it.
set_option Elab.async false

section
variable {r s : State} {ps : List Part}

theorem queueRefuse_frame (h : OnlyChanges ps r s) (hq : [.setNow, .regs, .log] ⊆ ps := by decide) : OnlyChanges ps r (queueRefuse s) :=
  h.then (ps := [.setNow, .regs, .log]) (notice_frame (OnlyChanges.refl s)) hq
theorem unpinAll_frame {q : Nat} (h : OnlyChanges ps r s) (hq : [.orders] ⊆ ps := by decide) : OnlyChanges ps r (unpinAll q s) :=
  h.then (ps := [.orders]) (OnlyChanges.next (ps := [.orders]) (OnlyChanges.refl s) fun p hp => by cases p <;> simp [Part.same, unpinAll] at hp ⊢) hq
theorem memForget_frame {f : Purpose → Bool} (h : OnlyChanges ps r s) (hq : [.mem, .memLate] ⊆ ps := by decide) : OnlyChanges ps r (memForget f s) :=
  h.then (ps := [.mem, .memLate]) (OnlyChanges.next (ps := [.mem, .memLate]) (OnlyChanges.refl s) fun p hp => by cases p <;> simp [Part.same, memForget] at hp ⊢) hq
theorem dropFetched_frame {q : Nat} (h : OnlyChanges ps r s) (hq : [.queues, .mem, .memLate] ⊆ ps := by decide) : OnlyChanges ps r (dropFetched q s) :=
  h.then (ps := [.queues, .mem, .memLate]) (setQueue_frame (memForget_frame (OnlyChanges.refl s))) hq
theorem standingBell_frame {q : Nat} {n : Nat} (h : OnlyChanges ps r s) (hq : [.orders, .queues, .mem, .memLate, .setNow, .regs, .log] ⊆ ps := by decide) : OnlyChanges ps r (standingBell q n s) :=
  h.then (ps := [.orders, .queues, .mem, .memLate, .setNow, .regs, .log]) (.ite (unpinAll_frame (setQueue_frame (dropFetched_frame (OnlyChanges.refl
      s)))) (.ite (queueRefuse_frame (OnlyChanges.refl s)) (setQueue_frame (OnlyChanges.refl s)))) hq
theorem doorbellWrite_frame {q : Nat} {w : Word} (h : OnlyChanges ps r s) (hq : [.setNow, .regs, .log, .orders, .queues, .mem, .memLate] ⊆ ps := by decide) : OnlyChanges ps r (doorbellWrite q w s) :=
  h.then (ps := [.setNow, .regs, .log, .orders, .queues, .mem, .memLate]) (.unless (queueRefuse_frame (OnlyChanges.refl s)) fun h1 => .ite
      (standingBell_frame (OnlyChanges.refl s)) (.ite h1 (setQueue_frame (OnlyChanges.refl s)))) hq
theorem queueDisableNow_frame {q : Nat} (h : OnlyChanges ps r s) (hq : [.queues, .orders, .mem, .memLate] ⊆ ps := by decide) : OnlyChanges ps r (queueDisableNow q s) :=
  h.then (ps := [.queues, .orders, .mem, .memLate]) (setQueue_frame (unpinAll_frame (dropFetched_frame (OnlyChanges.refl s)))) hq
theorem queueEnableNow_frame {q : Nat} {c : Word} (h : OnlyChanges ps r s) (hq : [.queues] ⊆ ps := by decide) : OnlyChanges ps r (queueEnableNow q c s) :=
  h.then (ps := [.queues]) (setQueue_frame (OnlyChanges.refl s)) hq
theorem queueCfgWrite_frame {q : Nat} {w : Word} (h : OnlyChanges ps r s) (hq : [.setNow, .regs, .log, .queues, .orders, .mem, .memLate] ⊆ ps := by decide) : OnlyChanges ps r (queueCfgWrite q w s) :=
  h.then (ps := [.setNow, .regs, .log, .queues, .orders, .mem, .memLate]) (.ite (.ite (queueRefuse_frame (OnlyChanges.refl s)) (.ite (OnlyChanges.refl
      s) (queueDisableNow_frame (OnlyChanges.refl s)))) (.unless (queueRefuse_frame (OnlyChanges.refl s)) fun h1 => .ite (.ite h1
      (queueEnableNow_frame (OnlyChanges.refl s))) (setQueue_frame (OnlyChanges.refl s)))) hq
theorem queueRegWrite_frame {q : Nat} {off : Nat} {w : Word} (h : OnlyChanges ps r s) (hq : [.setNow, .regs, .log, .queues, .orders, .mem, .memLate] ⊆ ps := by decide) : OnlyChanges ps r (queueRegWrite q off w s) :=
  h.then (ps := [.setNow, .regs, .log, .queues, .orders, .mem, .memLate]) (.ite (queueCfgWrite_frame (OnlyChanges.refl s)) (.ite (queueRefuse_frame
      (OnlyChanges.refl s)) (.ite (setQueue_frame (OnlyChanges.refl s)) (.ite (setQueue_frame (OnlyChanges.refl s)) (.ite (setQueue_frame
      (OnlyChanges.refl s)) (.ite (setQueue_frame (OnlyChanges.refl s)) (.ite (setQueue_frame (OnlyChanges.refl s)) (OnlyChanges.refl s)))))))) hq
end

/-! ### What a refused and an accepted write of a queue leave -/

section
variable {s : State} {q port master : Nat} {v : QueueSt} {p : Place}

theorem queues_wf (h : s.tablesWf = true) : tableWf QueueSt.idle s.queues = true ∧ ∀ x ∈ s.queues, x.2.cfg &&& 0x00FF1F7F#32 = x.2.cfg := by
  unfold State.tablesWf queuesWf at h
  simp only [Bool.and_eq_true, List.all_eq_true, beq_iff_eq] at h
  grind

theorem queueAt_withReached : queueAt q (withReached p s) = queueAt q s := rfl

/-- A refused write: 0x5C, and no queue changes. -/
theorem queueRefuse_refuses (hroom : LogRoom s) : let t := present (.mgmtRsp port master 0#32 false) (queueRefuse (withReached p s))
    Answered port master 0#32 s t ∧ OnlyChanges [.reached, .queues, .regs, .setNow, .log, .out] s t ∧ t.queues = s.queues ∧ Logged 0x5C 0 0xA000#16 s t := by
  have hf : OnlyChanges [.setNow, .regs, .log] (withReached p s) (queueRefuse (withReached p s)) := queueRefuse_frame (.refl _)
  have hlog : Logged 0x5C 0 0xA000#16 (withReached p s) (queueRefuse (withReached p s)) := notice_logged hroom (.inr (by decide))
  exact ⟨congrArg (· ++ _) hf.out_eq, present_withReached_frame (queueRefuse_frame (.refl _)), hf .queues (by decide), hlog.of_eq rfl rfl rfl⟩

/-- An accepted write: the queue takes its new form, and every other queue stays. -/
theorem setQueue_writes (hw : s.tablesWf = true) : let t := present (.mgmtRsp port master 0#32 false) (setQueue q v (withReached p s))
    Answered port master 0#32 s t ∧ OnlyChanges [.reached, .queues, .regs, .setNow, .log, .out] s t ∧ queueAt q t = v ∧ (∀ r, r ≠ q → queueAt r t = queueAt r s)
      ∧ t.log = s.log :=
  ⟨rfl, present_withReached_frame (setQueue_frame (.refl _)), queueAt_setQueue_self (s := withReached p s) (queues_wf hw).1,
    fun _ hr => queueAt_setQueue_ne (s := withReached p s) hr, rfl⟩

end

/-! ### Doorbells (R241, R261) -/

theorem ite_eq_ite_not {α : Type} {p c : Prop} [Decidable p] [Decidable c] {a b : α} (h : p ↔ ¬c) : (if p then a else b) = if c then b else a :=
  (if_congr h rfl rfl).trans (ite_not ..)

section
variable {s : State} {q : Nat} {v : Word} {by_ : Option (Nat × Nat)} {copy : Nat}

theorem badAddr_doorbellAddr : badAddr (doorbellAddr q) = false := by
  have h1 : doorbellAddr q % 4 = 0 := by unfold doorbellAddr; omega
  have h2 : ¬ 0x300000 ≤ doorbellAddr q := by unfold doorbellAddr; omega
  simp [badAddr, h1, h2]

theorem writeReg_doorbellAddr (h : q < 65536) : writeReg by_ copy (doorbellAddr q) v s = doorbellWrite q v s := by
  have h1 : ¬ 0x200000 ≤ doorbellAddr q ∧ 0x100000 ≤ doorbellAddr q := by unfold doorbellAddr; omega
  have h2 : doorbellAddr q % 16 = 0 := by unfold doorbellAddr; omega
  have h3 : doorbellAddr q / 16 % 65536 = q := by unfold doorbellAddr; omega
  rw [writeReg, if_neg h1.1, if_pos h1.2, if_pos h2, h3]

/-- A doorbell of a queue that holds no standing orders, or that is not enabled. -/
theorem doorbellWrite_ring (h : qStanding (queueAt q s) = false ∨ qEnabled (queueAt q s) = false) : doorbellWrite q v s =
    if qEnabled (queueAt q s) = true ∧ v.toNat < queueSize (queueAt q s) ∧ bellMoves (queueAt q s) v.toNat = true
    then setQueue q { queueAt q s with tail := v.toNat } s else queueRefuse s := by
  unfold doorbellWrite
  dsimp only
  cases he : qEnabled (queueAt q s)
  · rw [if_pos (by rfl), if_neg (fun hc => by cases hc.1)]
  · have hst := h.resolve_right (by simp [he])
    rw [if_neg (by decide), if_neg (by simp [hst])]
    exact ite_eq_ite_not (by simp [imp_iff_not_or])

/-- A doorbell of an enabled queue of standing orders. -/
theorem doorbellWrite_standing (he : qEnabled (queueAt q s) = true) (hst : qStanding (queueAt q s) = true) : doorbellWrite q v s = standingBell q v.toNat s := by
  exact (if_neg (by rw [he]; decide)).trans (if_pos hst)

theorem pinBusy_false_iff : pinBusy q s = false ↔ (∀ o ∈ s.orders, o.queue ≠ q) ∧ (queueAt q s).pinTarget ≤ (queueAt q s).nextStart ∧ (queueAt q s).fetched = [] := by
  simp [pinBusy, queueOrders, and_assoc]

theorem standingBell_pin {n : Nat} (hn : n ≠ 0) : standingBell q n s =
    if n < queueSize (queueAt q s) ∧ pinBusy q s = false then setQueue q { queueAt q s with pinTarget := n, nextFetch := 0, nextStart := 0, tail := n } s
    else queueRefuse s := by
  unfold standingBell
  rw [if_neg hn]
  exact ite_eq_ite_not (by simp [imp_iff_not_or])

/-- The orders of a queue that stay after an unpinning: those in a run, and every order of another queue. -/
theorem mem_unpinAll {o : Order} (ho : o ∈ (unpinAll q s).orders) (hq : o.queue = q) : o.unpin = true ∧ orderBusy q o.slot s = true := by
  simp only [unpinAll, List.mem_map, List.mem_filter, Bool.or_eq_true, bne_iff_ne] at ho
  obtain ⟨x, ⟨-, hx⟩, rfl⟩ := ho
  by_cases hxq : x.queue = q
  · have hbusy := hx.resolve_left (not_not.mpr hxq)
    simp [hxq, hbusy]
  · simp [hxq] at hq

theorem unpinned_mem {o : Order} (ho : o ∈ s.orders) (hq : o.queue = q) (hb : orderBusy q o.slot s = true) : { o with unpin := true } ∈ (unpinAll q s).orders := by
  refine List.mem_map.mpr ⟨o, List.mem_filter.mpr ⟨ho, by simp [hb]⟩, ?_⟩
  rw [if_pos (by simpa using hq)]

theorem unpinAll_others : ((unpinAll q s).orders.filter fun o => o.queue != q) = s.orders.filter fun o => o.queue != q := by
  unfold unpinAll
  dsimp only
  induction s.orders with
  | nil => rfl
  | cons o os ih =>
    by_cases hq : o.queue = q
    · by_cases hb : orderBusy q o.slot s = true
      · simpa [List.filter_cons, hq, hb] using ih
      · simpa [List.filter_cons, hq, hb] using ih
    · simpa [List.filter_cons, hq] using ih

end

/-! ### Doorbell commands -/

/-- What the two outcomes of a doorbell leave (R241, R261). -/
theorem bell_outcome {port master q : Nat} {s : State} {p : Place} {v : QueueSt} {c d : Prop} [Decidable c] [Decidable d] (hw : s.tablesWf = true) (hroom : LogRoom s)
    (hd : d ↔ c) : let t := present (.mgmtRsp port master 0#32 false) (if c then setQueue q v (withReached p s) else queueRefuse (withReached p s))
    Answered port master 0#32 s t ∧ OnlyChanges [.reached, .queues, .regs, .setNow, .log, .out] s t ∧
      (if d then queueAt q t = v ∧ (∀ r, r ≠ q → queueAt r t = queueAt r s) ∧ t.log = s.log else t.queues = s.queues ∧ Logged 0x5C 0 0xA000#16 s t) := by
  by_cases hc : c
  · simp only [if_pos hc, if_pos (hd.mpr hc)]
    exact setQueue_writes hw
  · simp only [if_neg hc, if_neg (mt hd.mp hc)]
    exact queueRefuse_refuses hroom

/-- A doorbell of 0 to a queue of standing orders: what has not started is dropped, and every order is unpinned. -/
def unpinned (q : Nat) (s : State) : State :=
  unpinAll q (setQueue q { queueAt q (dropFetched q s) with pinTarget := 0, nextFetch := 0, nextStart := 0, tail := 0 } (dropFetched q s))

theorem unpinned_frame (q : Nat) (s : State) : OnlyChanges [.orders, .queues, .mem, .memLate] s (unpinned q s) :=
  unpinAll_frame (setQueue_frame (dropFetched_frame (.refl s)))

theorem queueAt_dropFetched {s : State} {q : Nat} (hw : s.tablesWf = true) : queueAt q (dropFetched q s) = { queueAt q s with fetched := [] } :=
  queueAt_setQueue_self (s := memForget _ s) (queues_wf hw).1

theorem dropFetched_tablesWf {s : State} {q : Nat} (hw : s.tablesWf = true) : (dropFetched q s).tablesWf = true := (dropFetched_keeps (.refl s)).tablesWf hw

theorem queueAt_unpinned {s : State} {q : Nat} (hw : s.tablesWf = true) :
    queueAt q (unpinned q s) = { queueAt q (dropFetched q s) with pinTarget := 0, nextFetch := 0, nextStart := 0, tail := 0 } :=
  queueAt_setQueue_self (s := dropFetched q s) (queues_wf (dropFetched_tablesWf hw)).1

theorem queueAt_unpinned_ne {s : State} {q r : Nat} (h : r ≠ q) : queueAt r (unpinned q s) = queueAt r s :=
  (queueAt_setQueue_ne (s := dropFetched q s) h).trans (queueAt_setQueue_ne (s := memForget _ s) h)

/-- Settles O27: a doorbell passes the test of R241 or R261, or is refused. -/
theorem doorbells : Obligations.Doorbells := by
  intro port master q v s hw hq hroom
  refine ⟨fun ho hns => ?_, fun ho he hst hn => ?_, fun ho he hst => ?_⟩
  · refine answers_ownerWrite ho rfl rfl badAddr_doorbellAddr (fun _ => rfl) (fun _ => writeReg_doorbellAddr hq)
      (fun p => (doorbellWrite_frame (ps := [.setNow, .regs, .log, .orders, .queues, .mem, .memLate]) (.refl (withReached p s))).requests_eq) fun p => ?_
    rw [doorbellWrite_ring (s := withReached p s) hns]
    exact bell_outcome hw hroom (and_congr_right fun _ => and_congr_right fun _ => decide_eq_true_iff.symm)
  · refine answers_ownerWrite ho rfl rfl badAddr_doorbellAddr (fun _ => rfl) (fun _ => writeReg_doorbellAddr hq)
      (fun p => (doorbellWrite_frame (ps := [.setNow, .regs, .log, .orders, .queues, .mem, .memLate]) (.refl (withReached p s))).requests_eq) fun p => ?_
    rw [doorbellWrite_standing (s := withReached p s) he hst, standingBell_pin hn]
    exact bell_outcome hw hroom (and_congr_right fun _ => (pinBusy_false_iff (s := s)).symm)
  · refine answers_ownerWrite (w := unpinned q) ho rfl rfl badAddr_doorbellAddr (fun _ => rfl)
      (fun p => (writeReg_doorbellAddr hq).trans (doorbellWrite_standing (s := withReached p s) he hst)) (fun p => (unpinned_frame q _).requests_eq) fun p => ?_
    have hq1 : queueAt q (unpinned q (withReached p s)) = _ := queueAt_unpinned (s := withReached p s) hw
    rw [queueAt_dropFetched (s := withReached p s) hw] at hq1
    exact ⟨congrArg (· ++ _) (unpinned_frame q (withReached p s)).out_eq, fun o ho hoq => mem_unpinAll ho hoq, fun o ho hoq hb => unpinned_mem ho hoq hb, unpinAll_others,
      congrArg QueueSt.pinTarget hq1, congrArg QueueSt.fetched hq1, (unpinned_frame q (withReached p s)) .log (by decide),
      fun r hr => queueAt_unpinned_ne (s := withReached p s) hr,
      present_withReached_frame ((unpinned_frame q (withReached p s)).mono (by decide))⟩

/-! ### Configuration of a queue (R436, R437) -/

section
variable {w : Word}

theorem toNat_and_low {m k : Nat} (hm : m = 2 ^ k - 1) (hk : k ≤ 32) : (w &&& BitVec.ofNat 32 m).toNat = w.toNat % 2 ^ k := by
  have hlt : 2 ^ k - 1 < 2 ^ 32 := by
    have := Nat.pow_le_pow_right (n := 2) (by omega) hk
    have := Nat.two_pow_pos k
    omega
  rw [BitVec.toNat_and, BitVec.toNat_ofNat, hm, Nat.mod_eq_of_lt hlt, Nat.and_two_pow_sub_one_eq_mod]

theorem toNat_and_high6 : (w &&& 0xFFFFFFC0#32).toNat = w.toNat / 64 * 64 := by
  have h : w &&& 0xFFFFFFC0#32 = (w >>> 6) <<< 6 := by
    ext i hi
    interval_cases i <;> simp
  rw [h, BitVec.toNat_shiftLeft, BitVec.toNat_ushiftRight, Nat.shiftLeft_eq, Nat.shiftRight_eq_div_pow]
  omega

theorem toNat_and_high5 : (w &&& 0xFFFFFFE0#32).toNat = w.toNat / 32 * 32 := by
  have h : w &&& 0xFFFFFFE0#32 = (w >>> 5) <<< 5 := by
    ext i hi
    interval_cases i <;> simp
  rw [h, BitVec.toNat_shiftLeft, BitVec.toNat_ushiftRight, Nat.shiftLeft_eq, Nat.shiftRight_eq_div_pow]
  omega

/-- A CFG without its ENABLE bit, masked and with the bit set again, is the CFG it was. -/
theorem cfg_reenabled (hm : w &&& 0x00FF1F7F#32 = w) (h0 : bitOf w 0 = true) : (w &&& ~~~1#32 &&& 0x00FF1F7F#32) ||| 1#32 = w := by
  have hclear : w &&& ~~~1#32 &&& 0x00FF1F7F#32 = w &&& ~~~1#32 := by
    rw [BitVec.and_assoc, BitVec.and_comm (~~~1#32), ← BitVec.and_assoc, hm]
  rw [hclear]
  ext i hi
  rcases Nat.eq_zero_or_pos i with rfl | hpos
  · simpa [bitOf] using h0.symm
  · interval_cases i <;> simp

theorem bitOf_enable : bitOf ((w ||| 1#32) &&& 0x00FF1F7F#32) 0 = true := by simp [bitOf]

theorem bitOf_disable : bitOf (w &&& ~~~1#32 &&& 0x00FF1F7F#32) 0 = false := by simp [bitOf]

end

section
variable {s : State} {q off : Nat} {v : Word}

theorem queueAt_cfg_masked (hw : s.tablesWf = true) : (queueAt q s).cfg &&& 0x00FF1F7F#32 = (queueAt q s).cfg := by
  by_cases h : queueAt q s = QueueSt.idle
  · rw [h]
    rfl
  · exact (queues_wf hw).2 _ (mem_of_tget_ne h)

/-- A CFG write that sets ENABLE of a queue that is not enabled. -/
theorem queueCfgWrite_enable (he : qEnabled (queueAt q s) = false) (h0 : bitOf (v &&& 0x00FF1F7F#32) 0 = true) : queueCfgWrite q v s =
    if (bitOf (v &&& 0x00FF1F7F#32) 3 && !bitOf (queueAt q s).cfg 3 && decide (64 ≤ earlyCount s)) = true ∨ enableBad (queueAt q s) (v &&& 0x00FF1F7F#32) s = true
    then queueRefuse s else queueEnableNow q (v &&& 0x00FF1F7F#32) s := by
  unfold queueCfgWrite
  dsimp only
  rw [if_neg (by simp [he]), if_pos h0]
  by_cases hearly : (bitOf (v &&& 0x00FF1F7F#32) 3 && !bitOf (queueAt q s).cfg 3 && decide (64 ≤ earlyCount s)) = true
  · rw [if_pos hearly, if_pos (.inl hearly)]
  · rw [if_neg hearly]
    exact if_congr (or_iff_right hearly).symm rfl rfl

/-- A CFG write that only clears ENABLE. -/
theorem queueCfgWrite_disable (hw : s.tablesWf = true) (he : qEnabled (queueAt q s) = true) :
    queueCfgWrite q ((queueAt q s).cfg &&& ~~~1#32) s = queueDisableNow q s := by
  unfold queueCfgWrite
  dsimp only
  rw [if_pos he, if_neg, if_neg (by rw [bitOf_disable]; decide)]
  rw [cfg_reenabled (queueAt_cfg_masked hw) he]
  simp

/-- What a disabling leaves of its queue (R240). -/
theorem queueAt_queueDisableNow (hw : s.tablesWf = true) : queueAt q (queueDisableNow q s) =
    { queueAt q s with fetched := [], cfg := (queueAt q s).cfg &&& ~~~1#32, disabling := true, pinTarget := 0, nextFetch := (queueAt q s).nextStart } := by
  have hself : queueAt q (queueDisableNow q s) = _ := queueAt_setQueue_self (s := unpinAll q (dropFetched q s)) (queues_wf (dropFetched_tablesWf hw)).1
  rw [hself, show queueAt q (unpinAll q (dropFetched q s)) = queueAt q (dropFetched q s) from rfl, queueAt_dropFetched hw]

theorem queueAt_queueDisableNow_ne {r : Nat} (h : r ≠ q) : queueAt r (queueDisableNow q s) = queueAt r s :=
  (queueAt_setQueue_ne (s := unpinAll q (dropFetched q s)) h).trans (queueAt_setQueue_ne (s := memForget _ s) h)

/-- With no record kept, there is none to write (R269). -/
theorem issueRecords_none (h : ∀ x ∈ s.queues, x.2.records = []) : issueRecords s = s := by
  have hfold (l : Table QueueSt) (hl : ∀ x ∈ l, x.2.records = []) (t : State) : l.foldl (fun s x => x.2.records.foldl (fun s r =>
      let v := queueAt x.1 s
      if memHas (.record x.1 r.1) s || v.badRecords.contains r.1 || firstRecord r.1 v.records != some r.2 then s
      else memTry true false (v.compBase + 32 * r.1) 1 hSTREAM (.record x.1 r.1) r.2 s) s) t = t := by
    induction l generalizing t with
    | nil => rfl
    | cons x l ih =>
      rw [List.foldl_cons, hl x List.mem_cons_self]
      exact ih (fun y hy => hl y (List.mem_cons_of_mem _ hy)) t
  exact hfold s.queues h s

/-- RESUME, with no record kept (R437). -/
theorem queueResumeNow_noRecords (h : ∀ x ∈ s.queues, x.2.records = []) : queueResumeNow q s = if (queueAt q s).state = 2
    then setQueue q { queueAt q s with state := if qEnabled (queueAt q s) then 1 else (queueAt q s).state, err := 0#8, badRecords := [] } s else s := by
  have hself : (queueAt q s).records = [] := by
    by_cases hidle : queueAt q s = QueueSt.idle
    · rw [hidle]
      rfl
    · exact h _ (mem_of_tget_ne hidle)
  unfold queueResumeNow
  dsimp only
  rw [issueRecords_none]
  exact tset_mem (P := fun x : QueueSt => x.records = []) h hself

/-- A queue whose GROUP or one of whose base words is written (R435). -/
def baseWritten (off : Nat) (w : Word) (v : QueueSt) : QueueSt :=
  if off = 0x048 then { v with group := w &&& 0xFFFF#32 }
  else if off = 0x04C then { v with descBase := v.descBase / 2 ^ 32 * 2 ^ 32 + (w &&& 0xFFFFFFC0#32).toNat }
  else if off = 0x050 then { v with descBase := v.descBase % 2 ^ 32 + (w &&& 0x1FFFFFF#32).toNat * 2 ^ 32 }
  else if off = 0x054 then { v with compBase := v.compBase / 2 ^ 32 * 2 ^ 32 + (w &&& 0xFFFFFFE0#32).toNat }
  else { v with compBase := v.compBase % 2 ^ 32 + (w &&& 0x1FFFFFF#32).toNat * 2 ^ 32 }

theorem queueRegWrite_base (ho : off = 0x048 ∨ off = 0x04C ∨ off = 0x050 ∨ off = 0x054 ∨ off = 0x058) : queueRegWrite q off v s =
    if qEnabled (queueAt q s) = true then queueRefuse s else setQueue q (baseWritten off v (queueAt q s)) s := by
  rcases ho with rfl | rfl | rfl | rfl | rfl <;> rfl

theorem writeReg_queueBase {by_ : Option (Nat × Nat)} (ho : off = 0x048 ∨ off = 0x04C ∨ off = 0x050 ∨ off = 0x054 ∨ off = 0x058) :
    badAddr (pageAddr pQUEUE off) = false ∧ writeReg by_ 0 (pageAddr pQUEUE off) v s = queueRegWrite (qSel 0 s) off v s := by
  rcases ho with rfl | rfl | rfl | rfl | rfl <;> exact ⟨rfl, rfl⟩

end

/-- What the two outcomes of a configuration write leave (R437). -/
theorem config_outcome {port master q : Nat} {s : State} {p : Place} {v : QueueSt} {c d : Prop} [Decidable c] [Decidable d] (hw : s.tablesWf = true) (hroom : LogRoom s)
    (hd : d ↔ c) : let t := present (.mgmtRsp port master 0#32 false) (if c then queueRefuse (withReached p s) else setQueue q v (withReached p s))
    Answered port master 0#32 s t ∧ OnlyChanges [.reached, .queues, .regs, .setNow, .log, .out] s t ∧
      (if d then t.queues = s.queues ∧ Logged 0x5C 0 0xA000#16 s t else queueAt q t = v ∧ (∀ r, r ≠ q → queueAt r t = queueAt r s) ∧ t.log = s.log) := by
  simpa only [ite_not] using bell_outcome (c := ¬c) (d := ¬d) hw hroom (not_congr hd)

theorem queueEnabling {port master : Nat} {v : Word} {s : State} (hw : s.tablesWf = true) (hroom : LogRoom s) (ho : OwnerTurn port master (.queueEnable (.mgmt port master) v) s)
    (he : qEnabled (queueAt (qSel 0 s) s) = false) :
    let q := qSel 0 s
    let qs := queueAt q s
    let c := (v ||| 1#32) &&& 0x00FF1F7F#32
    Answers (.queueEnable (.mgmt port master) v) s fun t => Answered port master 0#32 s t ∧ OnlyChanges [.reached, .queues, .regs, .setNow, .log, .out] s t ∧
      (if (bitOf c 3 && !bitOf qs.cfg 3 && decide (64 ≤ earlyCount s)) = true ∨ enableBad qs c s = true then t.queues = s.queues ∧ Logged 0x5C 0 0xA000#16 s t
       else queueAt q t = { QueueSt.idle with cfg := c, group := qs.group, descBase := qs.descBase, compBase := qs.compBase, state := 1, lap := true, records := qs.records }
        ∧ (∀ r, r ≠ q → queueAt r t = queueAt r s) ∧ t.log = s.log) := by
  refine answers_ownerWrite (addr := 0x09044) (v := v ||| 1#32) (w := queueCfgWrite (qSel 0 s) (v ||| 1#32)) ho rfl rfl rfl (fun _ => rfl) (fun _ => rfl)
    (fun p => (queueCfgWrite_frame (ps := [.setNow, .regs, .log, .queues, .orders, .mem, .memLate]) (.refl (withReached p s))).requests_eq) fun p => ?_
  rw [queueCfgWrite_enable (s := withReached p s) he bitOf_enable]
  exact config_outcome hw hroom Iff.rfl

theorem queueDisabling {port master : Nat} {s : State} (hw : s.tablesWf = true) (ho : OwnerTurn port master (.queueDisable (.mgmt port master)) s)
    (he : qEnabled (queueAt (qSel 0 s) s) = true) :
    let q := qSel 0 s
    Answers (.queueDisable (.mgmt port master)) s fun t => Answered port master 0#32 s t
      ∧ queueAt q t = { queueAt q s with fetched := [], cfg := (queueAt q s).cfg &&& ~~~1#32, disabling := true, pinTarget := 0, nextFetch := (queueAt q s).nextStart }
      ∧ (∀ r, r ≠ q → queueAt r t = queueAt r s) ∧ OnlyChanges [.reached, .queues, .orders, .mem, .memLate, .out] s t := by
  have hf (p : Place) : OnlyChanges [.queues, .orders, .mem, .memLate] (withReached p s) (queueDisableNow (qSel 0 s) (withReached p s)) := queueDisableNow_frame (.refl _)
  refine answers_ownerWrite (addr := 0x09044) (v := (queueAt (qSel 0 s) s).cfg &&& ~~~1#32) (w := queueDisableNow (qSel 0 s)) ho rfl rfl rfl (fun _ => rfl)
    (fun p => queueCfgWrite_disable (s := withReached p s) hw he) (fun p => (hf p).requests_eq) fun p => ?_
  exact ⟨congrArg (· ++ _) (hf p).out_eq, queueAt_queueDisableNow (s := withReached p s) hw, fun r hr => queueAt_queueDisableNow_ne (s := withReached p s) hr,
    present_withReached_frame ((hf p).mono (by decide))⟩

theorem queueResuming {port master : Nat} {s : State} (hw : s.tablesWf = true) (ho : OwnerTurn port master (.queueResume (.mgmt port master)) s)
    (hrec : ∀ x ∈ s.queues, x.2.records = []) :
    let q := qSel 0 s
    let qs := queueAt q s
    Answers (.queueResume (.mgmt port master)) s fun t => Answered port master 0#32 s t ∧ OnlyChanges [.reached, .queues, .out] s t ∧
      (if qs.state = 2 ∧ qEnabled qs = true then (queueAt q t).state = 1 ∧ (queueAt q t).err = 0#8 ∧ (queueAt q t).head = qs.head ∧ (queueAt q t).tail = qs.tail
       else (queueAt q t).state = qs.state) ∧ (∀ r, r ≠ q → queueAt r t = queueAt r s) := by
  have hwrite (p : Place) : queueResumeNow (qSel 0 s) (withReached p s) = _ := queueResumeNow_noRecords (s := withReached p s) hrec
  have hf (p : Place) : OnlyChanges [.queues] (withReached p s) (queueResumeNow (qSel 0 s) (withReached p s)) := by
    rw [hwrite]
    exact .ite (setQueue_frame (OnlyChanges.refl _)) (OnlyChanges.refl _)
  refine answers_ownerWrite (addr := 0x09068) (v := 1#32) (w := queueResumeNow (qSel 0 s)) ho rfl rfl rfl (fun _ => rfl) (fun _ => rfl) (fun p => (hf p).requests_eq)
    fun p => ⟨congrArg (· ++ _) (hf p).out_eq, present_withReached_frame ((hf p).mono (by decide)), ?_⟩
  rw [hwrite]
  by_cases h2 : (queueAt (qSel 0 s) (withReached p s)).state = 2
  · rw [if_pos h2]
    have hself {v : QueueSt} : queueAt (qSel 0 s) (setQueue (qSel 0 s) v (withReached p s)) = v := queueAt_setQueue_self (s := withReached p s) (queues_wf hw).1
    refine ⟨?_, fun r hr => queueAt_setQueue_ne (s := withReached p s) hr⟩
    by_cases he : qEnabled (queueAt (qSel 0 s) s) = true
    · rw [if_pos ⟨h2, he⟩]
      exact ⟨(congrArg QueueSt.state hself).trans (if_pos he), congrArg QueueSt.err hself, (congrArg QueueSt.head hself).trans rfl, (congrArg QueueSt.tail hself).trans rfl⟩
    · rw [if_neg (fun h => he h.2)]
      exact (congrArg QueueSt.state hself).trans (if_neg he)
  · rw [if_neg h2, if_neg (fun h => h2 h.1)]
    exact ⟨rfl, fun _ _ => rfl⟩

theorem queueBaseWriting {port master off : Nat} {v : Word} {s : State} (hw : s.tablesWf = true) (hroom : LogRoom s)
    (hoff : off = 0x048 ∨ off = 0x04C ∨ off = 0x050 ∨ off = 0x054 ∨ off = 0x058) (ho : OwnerTurn port master (.queueCfgWrite (.mgmt port master) off v) s) :
    let q := qSel 0 s
    Answers (.queueCfgWrite (.mgmt port master) off v) s fun t => Answered port master 0#32 s t ∧ OnlyChanges [.reached, .queues, .regs, .setNow, .log, .out] s t ∧
      (if qEnabled (queueAt q s) = true then t.queues = s.queues ∧ Logged 0x5C 0 0xA000#16 s t
       else queueAt q t = baseWritten off v (queueAt q s) ∧ (∀ r, r ≠ q → queueAt r t = queueAt r s) ∧ t.log = s.log) := by
  refine answers_ownerWrite (w := queueRegWrite (qSel 0 s) off v) ho rfl rfl (writeReg_queueBase (s := s) (v := v) (by_ := none) hoff).1 (fun _ => rfl)
    (fun _ => (writeReg_queueBase hoff).2)
    (fun p => (queueRegWrite_frame (ps := [.setNow, .regs, .log, .queues, .orders, .mem, .memLate]) (.refl (withReached p s))).requests_eq) fun p => ?_
  rw [queueRegWrite_base (s := withReached p s) hoff]
  exact config_outcome hw hroom Iff.rfl

/-- What such a write leaves of the queue. -/
theorem baseWritten_spec {off : Nat} {v : Word} {qs : QueueSt} (hoff : off = 0x048 ∨ off = 0x04C ∨ off = 0x050 ∨ off = 0x054 ∨ off = 0x058) :
    (baseWritten off v qs).cfg = qs.cfg ∧
      (if off = 0x048 then (baseWritten off v qs).group = v &&& 0xFFFF#32 else
       if off = 0x04C then (baseWritten off v qs).descBase = qs.descBase / 2 ^ 32 * 2 ^ 32 + v.toNat / 64 * 64 else
       if off = 0x050 then (baseWritten off v qs).descBase = qs.descBase % 2 ^ 32 + v.toNat % 2 ^ 25 * 2 ^ 32 else
       if off = 0x058 then (baseWritten off v qs).compBase = qs.compBase % 2 ^ 32 + v.toNat % 2 ^ 25 * 2 ^ 32
       else (baseWritten off v qs).compBase = qs.compBase / 2 ^ 32 * 2 ^ 32 + v.toNat / 32 * 32) := by
  have h25 : (v &&& 0x1FFFFFF#32).toNat = v.toNat % 2 ^ 25 := toNat_and_low (k := 25) rfl (by decide)
  rw [← toNat_and_high6, ← toNat_and_high5, ← h25]
  rcases hoff with rfl | rfl | rfl | rfl | rfl <;> simp [baseWritten]

/-- Settles O28: each write of a queue's configuration is refused, or gives the queue its new form. -/
theorem queueConfiguration : Obligations.QueueConfiguration := by
  intro port master v s hw hroom
  refine ⟨fun ho he => ?_, fun ho he => ?_, fun ho hrec => queueResuming hw ho hrec, fun off hoff ho => ?_⟩
  · refine (queueEnabling hw hroom ho he).imp fun t ⟨h1, h2, h3⟩ => ⟨h1, h2, ?_⟩
    split at h3
    · next hc =>
      rw [if_pos]
      · exact h3
      · simpa [enableBad, and_assoc, or_assoc] using hc
    · next hc =>
      rw [if_neg]
      · obtain ⟨hq, hr, hlog⟩ := h3
        rw [hq]
        exact ⟨rfl, rfl, rfl, rfl, rfl, rfl, rfl, rfl, hr, hlog⟩
      · simpa [enableBad, and_assoc, or_assoc] using hc
  · refine (queueDisabling hw ho he).imp fun t ⟨h1, hq, hr, hf⟩ => ⟨h1, ?_, ?_, ?_, hf .ops (by decide), hr, hf .log (by decide), hf⟩ <;> rw [hq]
    rfl
  · refine (queueBaseWriting hw hroom hoff ho).imp fun t ⟨h1, h2, h3⟩ => ⟨h1, h2, ?_⟩
    split at h3
    · next hc =>
      rw [if_pos hc]
      exact h3
    · next hc =>
      rw [if_neg hc]
      obtain ⟨hq, hr, hlog⟩ := h3
      obtain ⟨hcfg, hbase⟩ := baseWritten_spec (v := v) (qs := queueAt (qSel 0 s) s) hoff
      rw [hq]
      exact ⟨hr, hlog, hcfg, hbase⟩

end Sys2Proof.Machine
end

section
/-! PROOF. The tables behind selectors, the assay's settings and the spill registers (R250, R328, R428, R438, R443). -/

namespace Sys2Proof.Machine

-- The inclusions that frames ask for are auto parameters, whose code is compiled: with proofs elaborated in order no thread waits for it.
set_option Elab.async false

section
variable {r s : State} {ps : List Part}

theorem maskDataApply_frame {copy : Nat} {v : Word} (h : OnlyChanges ps r s) (hq : [.masks] ⊆ ps := by decide) : OnlyChanges ps r (maskDataApply copy v s) :=
  h.then (ps := [.masks]) (.ite (OnlyChanges.refl s) (OnlyChanges.next (ps := [.masks]) (OnlyChanges.refl s) fun p hp => by cases p <;> simp [Part.same] at hp ⊢)) hq
theorem cfgRefused_frame (h : OnlyChanges ps r s) (hq : [.setNow, .regs] ⊆ ps := by decide) : OnlyChanges ps r (cfgRefused s) :=
  h.then (ps := [.setNow, .regs]) (irq_frame (count_frame (OnlyChanges.refl s))) hq
theorem lineMembersApply_frame {copy : Nat} {v : Word} (h : OnlyChanges ps r s) (hq : [.setNow, .regs, .lineMembers] ⊆ ps := by decide) : OnlyChanges ps r (lineMembersApply copy v s) :=
  h.then (ps := [.setNow, .regs, .lineMembers]) (.ite (cfgRefused_frame (OnlyChanges.refl s)) (.ite (OnlyChanges.refl s) (OnlyChanges.next (ps := [.lineMembers]) (OnlyChanges.refl s) fun p hp => by cases p <;> simp [Part.same] at hp ⊢))) hq
theorem musterCtrlApply_frame {copy : Nat} {v : Word} (h : OnlyChanges ps r s) (hq : [.setNow, .regs, .musters] ⊆ ps := by decide) : OnlyChanges ps r (musterCtrlApply copy v s) :=
  h.then (ps := [.setNow, .regs, .musters]) (.ite (cfgRefused_frame (OnlyChanges.refl s)) (OnlyChanges.next (ps := [.musters]) (OnlyChanges.refl s) fun p hp => by cases p <;> simp [Part.same] at hp ⊢)) hq
theorem poolGive_frame {p : Nat} {i : Nat} (h : OnlyChanges ps r s) (hq : [.planes] ⊆ ps := by decide) : OnlyChanges ps r (poolGive p i s) :=
  h.then (ps := [.planes]) (setPlane_frame (OnlyChanges.refl s)) hq
theorem freeLedgerPool_frame {l : Ledger} (h : OnlyChanges ps r s) (hq : [.planes] ⊆ ps := by decide) : OnlyChanges ps r (freeLedgerPool l s) :=
  h.then (ps := [.planes]) (.foldl (OnlyChanges.refl s) fun _ _ h1 => .foldl h1 fun _ _ h2 => poolGive_frame h2) hq
theorem freeLedger_frame {l : Nat} (h : OnlyChanges ps r s) (hq : [.log, .ledgers, .planes] ⊆ ps := by decide) : OnlyChanges ps r (freeLedger l s) :=
  h.then (ps := [.log, .ledgers, .planes]) (closeLedgerChain_frame (setLedger_frame (freeLedgerPool_frame (OnlyChanges.refl s)))) hq
theorem ledgerReleaseNow_frame {l : Nat} (h : OnlyChanges ps r s) (hq : [.log, .ledgers, .planes] ⊆ ps := by decide) : OnlyChanges ps r (ledgerReleaseNow l s) :=
  h.then (ps := [.log, .ledgers, .planes]) (.ite (freeLedger_frame (OnlyChanges.refl s)) (OnlyChanges.refl s)) hq
theorem clampTh_frame (h : OnlyChanges ps r s) (hq : [.regs] ⊆ ps := by decide) : OnlyChanges ps r (clampTh s) :=
  h.then (ps := [.regs]) (.when (.ite (setReg_frame (OnlyChanges.refl s)) (OnlyChanges.refl s)) fun h1 => setReg_frame h1) hq
theorem emptyWindow_frame (h : OnlyChanges ps r s) (hq : [.assayWin] ⊆ ps := by decide) : OnlyChanges ps r (emptyWindow s) :=
  h.then (ps := [.assayWin]) (OnlyChanges.next (ps := [.assayWin]) (OnlyChanges.refl s) fun p hp => by cases p <;> simp [Part.same, emptyWindow] at hp ⊢) hq
theorem setRotActive_frame {b : Bool} (h : OnlyChanges ps r s) (hq : [.setNow, .regs] ⊆ ps := by decide) : OnlyChanges ps r (setRotActive b s) :=
  h.then (ps := [.setNow, .regs]) (.ite (OnlyChanges.refl s) (irq_frame (setReg_frame (OnlyChanges.refl s)))) hq
theorem assaySetting_frame {off : Nat} {v : Word} (h : OnlyChanges ps r s) (hq : [.regs, .assayWin, .setNow] ⊆ ps := by decide) : OnlyChanges ps r (assaySetting off v s) :=
  h.then (ps := [.regs, .assayWin, .setNow]) (.ite (clampTh_frame (setReg_frame (OnlyChanges.refl s))) (.ite (clampTh_frame (setReg_frame
      (OnlyChanges.refl s))) (.ite (clampTh_frame (setReg_frame (OnlyChanges.refl s))) (.ite (clampTh_frame (setReg_frame (OnlyChanges.refl s))) (.ite
      (.when (setReg_frame (OnlyChanges.refl s)) fun h1 => emptyWindow_frame h1) (.ite (setReg_frame (OnlyChanges.refl s)) (.ite (setReg_frame
      (OnlyChanges.refl s)) (.ite (setReg_frame (OnlyChanges.refl s)) (.ite (.unless (setReg_frame (OnlyChanges.refl s)) fun h2 => emptyWindow_frame
      h2) (.ite (setRotActive_frame (OnlyChanges.refl s)) (OnlyChanges.refl s))))))))))) hq
theorem storeReg_frame {req : RegRow} {addr : Nat} {v : Word} (h : OnlyChanges ps r s) (hq : [.regs] ⊆ ps := by decide) : OnlyChanges ps r (storeReg req addr v s) :=
  h.then (ps := [.regs]) (setReg_frame (OnlyChanges.refl s)) hq
theorem plainWrite_frame {copy : Nat} {addr : Nat} {v : Word} (h : OnlyChanges ps r s) (hq : [.regs] ⊆ ps := by decide) : OnlyChanges ps r (plainWrite copy addr v s) := by
  refine h.then (ps := [.regs]) ?_ hq
  unfold plainWrite
  split
  · exact OnlyChanges.refl s
  · split
    · exact OnlyChanges.refl s
    · exact OnlyChanges.refl s
    · exact storeReg_frame (OnlyChanges.refl s)
    · exact .ite (OnlyChanges.refl s) (storeReg_frame (OnlyChanges.refl s))
    · exact clearBits_frame (OnlyChanges.refl s)
    · exact setReg_frame (OnlyChanges.refl s)
theorem planeWrite_frame {page : Nat} {off : Nat} {v : Word} (h : OnlyChanges ps r s) (hq : [.regs] ⊆ ps := by decide) : OnlyChanges ps r (planeWrite page off v s) :=
  h.then (ps := [.regs]) (.ite (OnlyChanges.refl s) (plainWrite_frame (OnlyChanges.refl s))) hq
end

/-! ### Words of stalls that exist -/

section
variable {s : State} {w i n k : Nat} {v x : Word}

theorem tabs_wf (h : s.tablesWf = true) : s.tabs.wf = true := by
  unfold State.tablesWf at h
  simp only [Bool.and_eq_true] at h
  grind

theorem masks_wf (h : s.tablesWf = true) : tableWf 0#32 s.tabs.masks = true := by
  have := tabs_wf h
  simp only [Tabs.wf, Bool.and_eq_true] at this
  grind

theorem lineMembers_wf (h : s.tablesWf = true) : tableWf 0#32 s.tabs.lineMembers = true := by
  have := tabs_wf h
  simp only [Tabs.wf, Bool.and_eq_true] at this
  grind

theorem getLsbD_and_low (hi : i < 32) : (v &&& BitVec.ofNat 32 (2 ^ n - 1)).getLsbD i = (v.getLsbD i && decide (i < n)) := by
  rw [BitVec.getLsbD_and, BitVec.getLsbD_ofNat, Nat.testBit_two_pow_sub_one]
  simp [hi]

/-- A word's bits of stalls that exist. -/
theorem getLsbD_leafBits (hi : i < 32) (hw : 32 * w < leaves s.build) : (v &&& leafBits w s).getLsbD i = (v.getLsbD i && decide (32 * w + i < leaves s.build)) := by
  unfold leafBits
  rw [if_neg (by omega)]
  split
  · rw [getLsbD_and_low hi]
    exact congrArg (v.getLsbD i && ·) (decide_eq_decide.mpr (by omega))
  · have hall : v &&& all32 = v := BitVec.and_allOnes
    rw [hall, decide_eq_true (by omega), Bool.and_true]

end

/-! ### Masks and line members (R250, R443) -/

section
variable {s : State} {v : Word} {port master : Nat}

/-- A mask word as it is written. -/
def maskWritten (v : Word) (s : State) : State :=
  { s with tabs := { s.tabs with masks := tset 0#32 (32 * (maskSel 0 s).1 + (maskSel 0 s).2) (v &&& leafBits (maskSel 0 s).2 s) s.tabs.masks } }

theorem maskDataApply_eq : maskDataApply 0 v s = if leaves s.build ≤ 32 * (maskSel 0 s).2 then s else maskWritten v s := rfl

theorem maskDataWriting (hw : s.tablesWf = true) (ho : OwnerTurn port master (.maskDataWrite (.mgmt port master) v) s) :
    let e := (maskSel 0 s).1
    let w := (maskSel 0 s).2
    Answers (.maskDataWrite (.mgmt port master) v) s fun t => Answered port master 0#32 s t ∧ OnlyChanges [.reached, .masks, .out] s t
      ∧ (∀ k, k ≠ 32 * e + w → tget 0#32 k t.tabs.masks = tget 0#32 k s.tabs.masks)
      ∧ (leaves s.build ≤ 32 * w → t.tabs = s.tabs)
      ∧ (∀ i, i < 32 → 32 * w < leaves s.build → (tget 0#32 (32 * e + w) t.tabs.masks).getLsbD i = (v.getLsbD i && decide (32 * w + i < leaves s.build))) := by
  have hf (q : Place) : OnlyChanges [.masks] (withReached q s) (maskDataApply 0 v (withReached q s)) := maskDataApply_frame (.refl _)
  refine answers_ownerWrite (addr := 0x09078) (v := v) (w := maskDataApply 0 v) ho rfl rfl rfl (fun _ => rfl) (fun _ => rfl) (fun q => (hf q).requests_eq)
    fun q => ⟨congrArg (· ++ _) (hf q).out_eq, present_withReached_frame ((hf q).mono (by decide)), ?_⟩
  rw [maskDataApply_eq]
  by_cases hle : leaves (withReached q s).build ≤ 32 * (maskSel 0 (withReached q s)).2
  · rw [if_pos hle]
    exact ⟨fun _ _ => rfl, fun _ => rfl, fun _ _ hlt => absurd hlt (Nat.not_lt.mpr hle)⟩
  · rw [if_neg hle]
    refine ⟨fun k hk => tget_tset_ne hk _ _, fun h => absurd h hle, fun i hi hlt => ?_⟩
    exact (congrArg (BitVec.getLsbD · i) (tget_tset_self _ _ _ (masks_wf hw))).trans (getLsbD_leafBits (s := withReached q s) hi hlt)

/-- The selected word of a line's members. -/
def memberWord (s : State) : Nat := fieldOf (reg rLINE_MEMBER_SEL s) 0 5

/-- A word of members as it is written. -/
def membersWritten (v : Word) (s : State) : State :=
  { s with tabs := { s.tabs with lineMembers := tset 0#32 (32 * lineSel 0 s + memberWord s) (v &&& leafBits (memberWord s) s) s.tabs.lineMembers } }

theorem lineMembersApply_eq : lineMembersApply 0 v s = if lEnable (lineAt (lineSel 0 s) s).cfg = true then cfgRefused s
    else if leaves s.build ≤ 32 * memberWord s then s else membersWritten v s := by
  by_cases hle : leaves s.build ≤ 32 * memberWord s
  · rw [if_pos hle]
    exact if_congr Iff.rfl rfl (if_pos hle)
  · have hkeep : leafBits (memberWord s) s = if leaves s.build < 32 * memberWord s + 32 then BitVec.ofNat 32 (2 ^ (leaves s.build - 32 * memberWord s) - 1) else all32 :=
      if_neg hle
    unfold membersWritten
    rw [hkeep]
    rfl

/-- A refused write of the BELL page is counted, with its interrupt (R443). -/
theorem cfgRefused_spec (hw : s.tablesWf = true) : (cfgRefused s).tabs = s.tabs ∧ reg rCFG_REFUSED (cfgRefused s) = satAdd (reg rCFG_REFUSED s) 1
    ∧ (reg (rIrqRaw pBELL) (cfgRefused s)).getLsbD 3 = true :=
  ⟨rfl, (reg_irq_ne (by decide)).trans (reg_count_self (regs_wf hw)), irq_raised (count_regs_wf (regs_wf hw)) (by decide)⟩

theorem lineMembersWriting (hw : s.tablesWf = true) (ho : OwnerTurn port master (.lineMembersWrite (.mgmt port master) v) s) :
    let n := lineSel 0 s
    let w := memberWord s
    Answers (.lineMembersWrite (.mgmt port master) v) s fun t => Answered port master 0#32 s t ∧
      (if lEnable (lineAt n s).cfg then t.tabs = s.tabs ∧ reg rCFG_REFUSED t = satAdd (reg rCFG_REFUSED s) 1 ∧ (reg (rIrqRaw pBELL) t).getLsbD 3 = true
       else (∀ k, k ≠ 32 * n + w → tget 0#32 k t.tabs.lineMembers = tget 0#32 k s.tabs.lineMembers) ∧ t.regs = s.regs
        ∧ ∀ i, i < 32 → 32 * w < leaves s.build → (tget 0#32 (32 * n + w) t.tabs.lineMembers).getLsbD i = (v.getLsbD i && decide (32 * w + i < leaves s.build)))
      ∧ OnlyChanges [.reached, .lineMembers, .regs, .setNow, .out] s t := by
  have hf (q : Place) : OnlyChanges [.setNow, .regs, .lineMembers] (withReached q s) (lineMembersApply 0 v (withReached q s)) := lineMembersApply_frame (.refl _)
  refine answers_ownerWrite (addr := 0x0C074) (v := v) (w := lineMembersApply 0 v) ho rfl rfl rfl (fun _ => rfl) (fun _ => rfl) (fun q => (hf q).requests_eq)
    fun q => ⟨congrArg (· ++ _) (hf q).out_eq, ?_, present_withReached_frame ((hf q).mono (by decide))⟩
  rw [lineMembersApply_eq]
  by_cases he : lEnable (lineAt (lineSel 0 (withReached q s)) (withReached q s)).cfg = true
  · rw [if_pos he]
    refine (if_pos he).mpr ?_
    exact cfgRefused_spec (s := withReached q s) hw
  · rw [if_neg he]
    refine (if_neg he).mpr ?_
    by_cases hle : leaves (withReached q s).build ≤ 32 * memberWord (withReached q s)
    · rw [if_pos hle]
      exact ⟨fun _ _ => rfl, rfl, fun _ _ hlt => absurd hlt (Nat.not_lt.mpr hle)⟩
    · rw [if_neg hle]
      refine ⟨fun k hk => tget_tset_ne hk _ _, rfl, fun i hi hlt => ?_⟩
      exact (congrArg (BitVec.getLsbD · i) (tget_tset_self _ _ _ (lineMembers_wf hw))).trans (getLsbD_leafBits (s := withReached q s) hi hlt)

/-! ### Muster entries (R328, R443) -/

theorem musterCtrlWriting (hw : s.tablesWf = true) (ho : OwnerTurn port master (.musterCtrlWrite (.mgmt port master) v) s) :
    let e := musterSel 0 s
    Answers (.musterCtrlWrite (.mgmt port master) v) s fun t => Answered port master 0#32 s t ∧
      (if leaves s.build ≤ fieldOf v 6 10 ∨ 48 ≤ fieldOf v 0 6 then t.tabs = s.tabs ∧ reg rCFG_REFUSED t = satAdd (reg rCFG_REFUSED s) 1
       else musterCtrl e t = v &&& 0x800FFFFF#32 ∧ musterValue e t = musterValue e s ∧ t.regs = s.regs
        ∧ (∀ f, f ≠ e → f < 1024 → musterCtrl f t = musterCtrl f s ∧ musterValue f t = musterValue f s))
      ∧ OnlyChanges [.reached, .musters, .regs, .setNow, .out] s t := by
  have hf (q : Place) : OnlyChanges [.setNow, .regs, .musters] (withReached q s) (musterCtrlApply 0 v (withReached q s)) := musterCtrlApply_frame (.refl _)
  refine answers_ownerWrite (addr := 0x0C090) (v := v) (w := musterCtrlApply 0 v) ho rfl rfl rfl (fun _ => rfl) (fun _ => rfl) (fun q => (hf q).requests_eq)
    fun q => ⟨congrArg (· ++ _) (hf q).out_eq, ?_, present_withReached_frame ((hf q).mono (by decide))⟩
  unfold musterCtrlApply
  by_cases hbad : leaves (withReached q s).build ≤ fieldOf v 6 10 ∨ 48 ≤ fieldOf v 0 6
  · rw [if_pos hbad]
    refine (if_pos hbad).mpr ?_
    obtain ⟨h1, h2, -⟩ := cfgRefused_spec (s := withReached q s) hw
    exact ⟨h1, h2⟩
  · rw [if_neg hbad]
    refine (if_neg hbad).mpr ⟨tget_tset_self _ _ _ (musters_wf hw), tget_tset_ne (by omega) _ _, rfl, fun f hne _ => ?_⟩
    have hne : f ≠ musterSel 0 (withReached q s) := hne
    exact ⟨tget_tset_ne (by omega) _ _, tget_tset_ne (by omega) _ _⟩

end

/-! ### Release of a ledger (R199) -/

section
variable {s : State} {l k : Nat} {port master : Nat}

theorem freeLedgerPool_ledgers (v : Ledger) : (freeLedgerPool v s).ledgers = s.ledgers :=
  (freeLedgerPool_frame (ps := [.planes]) (.refl s)) .ledgers (by decide)

theorem ledgers_wf (h : s.tablesWf = true) : tableWf Ledger.free s.ledgers = true := by
  unfold State.tablesWf at h
  simp only [Bool.and_eq_true] at h
  grind

theorem ledgerAt_freeLedger_self (h : tableWf Ledger.free s.ledgers = true) : ledgerAt l (freeLedger l s) = { Ledger.free with waiting := (ledgerAt l s).waiting } :=
  ledgerAt_setLedger_self (s := freeLedgerPool (ledgerAt l s) s) (by rw [freeLedgerPool_ledgers]; exact h)

theorem ledgerAt_freeLedger_ne (h : k ≠ l) : ledgerAt k (freeLedger l s) = ledgerAt k s :=
  (ledgerAt_setLedger_ne (s := freeLedgerPool (ledgerAt l s) s) h).trans (congrArg (tget Ledger.free k) (freeLedgerPool_ledgers _))

theorem ledgerReleasing (hw : s.tablesWf = true) (ho : OwnerTurn port master (.ledgerRelease (.mgmt port master)) s) :
    let l := ledgerSel 0 s
    Answers (.ledgerRelease (.mgmt port master)) s fun t => Answered port master 0#32 s t ∧ (∀ k, k ≠ l → ledgerAt k t = ledgerAt k s) ∧
      (if (ledgerAt l s).state = 3 then ledgerAt l t = { Ledger.free with waiting := (ledgerAt l s).waiting } else ledgerAt l t = ledgerAt l s)
      ∧ OnlyChanges [.reached, .ledgers, .planes, .log, .regs, .setNow, .out] s t := by
  have hf (q : Place) : OnlyChanges [.log, .ledgers, .planes] (withReached q s) (ledgerReleaseNow (ledgerSel 0 s) (withReached q s)) := ledgerReleaseNow_frame (.refl _)
  refine answers_ownerWrite (addr := 0x0A04C) (v := 1#32) (w := ledgerReleaseNow (ledgerSel 0 s)) ho rfl rfl rfl (fun _ => rfl) (fun _ => rfl) (fun q => (hf q).requests_eq)
    fun q => ⟨congrArg (· ++ _) (hf q).out_eq, ?_⟩
  refine and_assoc.mp ⟨?_, present_withReached_frame ((hf q).mono (by decide))⟩
  unfold ledgerReleaseNow
  by_cases h3 : (ledgerAt (ledgerSel 0 s) (withReached q s)).state = 3
  · rw [if_pos h3]
    exact ⟨fun k hk => ledgerAt_freeLedger_ne (s := withReached q s) hk, (if_pos h3).mpr (ledgerAt_freeLedger_self (s := withReached q s) (ledgers_wf hw))⟩
  · rw [if_neg h3]
    exact ⟨fun _ _ => rfl, (if_neg h3).mpr rfl⟩

end

theorem selectedTables : Claims.SelectedTables := fun _ _ _ _ hw =>
  ⟨fun ho => maskDataWriting hw ho, fun ho => lineMembersWriting hw ho, fun ho => musterCtrlWriting hw ho, fun ho => ledgerReleasing hw ho⟩

/-! ### Thresholds and floors (R428) -/

section
variable {s : State} {a b : Nat} {v : Word}

theorem regNat_present {o : PortOut} : regNat a (present o s) = regNat a s := rfl
theorem regNat_setReg_ne (h : b ≠ a) : regNat b (setReg a v s) = regNat b s := congrArg BitVec.toNat (reg_setReg_ne h)
theorem regNat_setReg_self (h : tableWfBy regReset s.regs = true) : regNat a (setReg a v s) = v.toNat := congrArg BitVec.toNat (reg_setReg_self h)
theorem setReg_regs_wf (h : tableWfBy regReset s.regs = true) : tableWfBy regReset (setReg a v s).regs = true := tset_wfBy _ _ _ h

/-- A threshold held at or below its floor. -/
def heldBelow (th floor : Nat) (s : State) : State := if regNat floor s < regNat th s then setReg th (reg floor s) s else s

theorem clampTh_eq : clampTh s = heldBelow rTH_E4M3 rFLOOR_E4M3 (heldBelow rTH_E2M1 rFLOOR_E2M1 s) := rfl

theorem heldBelow_regs_wf (h : tableWfBy regReset s.regs = true) : tableWfBy regReset (heldBelow a b s).regs = true := by
  unfold heldBelow
  split
  · exact setReg_regs_wf h
  · exact h

theorem reg_heldBelow_ne {c : Nat} (h : c ≠ a) : reg c (heldBelow a b s) = reg c s := by
  unfold heldBelow
  split
  · exact reg_setReg_ne h
  · rfl

theorem regNat_heldBelow_self (h : tableWfBy regReset s.regs = true) : regNat a (heldBelow a b s) = min (regNat a s) (regNat b s) := by
  unfold heldBelow
  split
  · next hlt => exact (regNat_setReg_self h).trans (Nat.min_eq_right hlt.le).symm
  · next hle => exact (Nat.min_eq_left (Nat.not_lt.mp hle)).symm

/-- What the two comparisons leave of either pair. -/
theorem clampTh_spec {k : Nat} (hk : k < 2) (h : tableWfBy regReset s.regs = true) :
    regNat (0x0B040 + 4 * k) (clampTh s) = min (regNat (0x0B040 + 4 * k) s) (regNat (0x0B048 + 4 * k) (clampTh s)) ∧ reg (0x0B048 + 4 * k) (clampTh s) = reg (0x0B048 + 4 * k) s := by
  rw [clampTh_eq]
  have hwf : tableWfBy regReset (heldBelow rTH_E2M1 rFLOOR_E2M1 s).regs = true := heldBelow_regs_wf h
  have hk : k = 0 ∨ k = 1 := by omega
  rcases hk with rfl | rfl
  · have hfloor {c : Nat} (hc : c ≠ rTH_E4M3) {t : State} : regNat c (heldBelow rTH_E4M3 rFLOOR_E4M3 t) = regNat c t := congrArg BitVec.toNat (reg_heldBelow_ne hc)
    refine ⟨?_, (reg_heldBelow_ne (by decide)).trans (reg_heldBelow_ne (by decide))⟩
    rw [hfloor (by decide), hfloor (by decide), show regNat (0x0B048 + 4 * 0) (heldBelow rTH_E2M1 rFLOOR_E2M1 s) = regNat rFLOOR_E2M1 s from
      congrArg BitVec.toNat (reg_heldBelow_ne (by decide))]
    exact regNat_heldBelow_self h
  · refine ⟨?_, (reg_heldBelow_ne (by decide)).trans (reg_heldBelow_ne (by decide))⟩
    have hkeep {c : Nat} (hc : c ≠ rTH_E2M1) : regNat c (heldBelow rTH_E2M1 rFLOOR_E2M1 s) = regNat c s := congrArg BitVec.toNat (reg_heldBelow_ne hc)
    have hfloor : regNat (0x0B048 + 4 * 1) (heldBelow rTH_E4M3 rFLOOR_E4M3 (heldBelow rTH_E2M1 rFLOOR_E2M1 s)) = regNat rFLOOR_E4M3 (heldBelow rTH_E2M1 rFLOOR_E2M1 s) :=
      congrArg BitVec.toNat (reg_heldBelow_ne (by decide))
    rw [hfloor, ← hkeep (c := 0x0B040 + 4 * 1) (by decide)]
    exact regNat_heldBelow_self hwf

theorem clampTh_regsKeep {but : List Nat} {r : State} (h : RegsKeep but r s) (h1 : rTH_E2M1 ∈ but) (h2 : rTH_E4M3 ∈ but) : RegsKeep but r (clampTh s) := by
  intro c hc
  have hc1 : c ≠ rTH_E2M1 := fun h => hc (h ▸ h1)
  have hc2 : c ≠ rTH_E4M3 := fun h => hc (h ▸ h2)
  rw [clampTh_eq, reg_heldBelow_ne hc2, reg_heldBelow_ne hc1]
  exact h c hc

theorem writeReg_assay {by_ : Option (Nat × Nat)} {off : Nat} (ho : 0x040 ≤ off ∧ off ≤ 0x064) (h4 : off % 4 = 0) :
    badAddr (pageAddr pASSAY off) = false ∧ writeReg by_ 0 (pageAddr pASSAY off) v s = assaySetting off v s := by
  have ho' : off = 0x040 ∨ off = 0x044 ∨ off = 0x048 ∨ off = 0x04C ∨ off = 0x050 ∨ off = 0x054 ∨ off = 0x058 ∨ off = 0x05C ∨ off = 0x060 ∨ off = 0x064 := by omega
  rcases ho' with rfl | rfl | rfl | rfl | rfl | rfl | rfl | rfl | rfl | rfl <;> exact ⟨rfl, rfl⟩

/-- A threshold or a floor written (R428). -/
theorem assaySetting_threshold {k off : Nat} (hk : k < 2) (ho : off = 0x040 + 4 * k ∨ off = 0x048 + 4 * k) :
    assaySetting off v s = clampTh (setReg (0x0B000 + off) (v &&& 0x3FFF#32) s) := by
  have hk : k = 0 ∨ k = 1 := by omega
  rcases hk with rfl | rfl <;> rcases ho with rfl | rfl <;> rfl

end

section
variable {s : State} {v : Word} {port master : Nat}

/-- A write of the assay's settings. -/
theorem answers_assaySetting {off : Nat} {c : Instr} {P : State → Prop} (ho : OwnerTurn port master c s)
    (he : exec c s = onAgent (.mgmt port master) c (accessWrite (.mgmt port master) (pageAddr pASSAY off) v) s) (hc : inputOf c = none)
    (hoff : 0x040 ≤ off ∧ off ≤ 0x064) (h4 : off % 4 = 0) (hP : ∀ q, P (present (.mgmtRsp port master 0#32 false) (assaySetting off v (withReached q s)))) : Answers c s P :=
  answers_ownerWrite (w := assaySetting off v) ho he hc (writeReg_assay (s := s) (v := v) (by_ := none) hoff h4).1 (fun _ => rfl) (fun _ => (writeReg_assay hoff h4).2)
    (fun q => (assaySetting_frame (ps := [.regs, .assayWin, .setNow]) (.refl (withReached q s))).requests_eq) hP

theorem thresholdWriting {k off : Nat} (hw : s.tablesWf = true) (hk : k < 2) (hoff : off = 0x040 + 4 * k ∨ off = 0x048 + 4 * k)
    (ho : OwnerTurn port master (.thresholdWrite (.mgmt port master) off v) s) : Answers (.thresholdWrite (.mgmt port master) off v) s fun t =>
      Answered port master 0#32 s t
        ∧ reg (0x0B048 + 4 * k) t = (if off = 0x048 + 4 * k then v &&& 0x3FFF#32 else reg (0x0B048 + 4 * k) s)
        ∧ regNat (0x0B040 + 4 * k) t = min (if off = 0x040 + 4 * k then v.toNat % 2 ^ 14 else regNat (0x0B040 + 4 * k) s) (regNat (0x0B048 + 4 * k) t)
        ∧ RegsKeep [rTH_E2M1, rTH_E4M3, 0x0B048 + 4 * k] s t ∧ OnlyChanges [.reached, .regs, .out] s t := by
  refine answers_assaySetting ho rfl rfl (by omega) (by omega) fun q => ?_
  rw [assaySetting_threshold hk hoff]
  have hregs : tableWfBy regReset (withReached q s).regs = true := regs_wf hw
  have hf : OnlyChanges [.regs] (withReached q s) (clampTh (setReg (0x0B000 + off) (v &&& 0x3FFF#32) (withReached q s))) := clampTh_frame (setReg_frame (.refl _))
  have hkeep : RegsKeep [rTH_E2M1, rTH_E4M3, 0x0B048 + 4 * k] (withReached q s) (clampTh (setReg (0x0B000 + off) (v &&& 0x3FFF#32) (withReached q s))) := by
    refine clampTh_regsKeep (setReg_regsKeep (.refl _) ?_) (by simp) (by simp)
    have hk : k = 0 ∨ k = 1 := by omega
    rcases hk with rfl | rfl <;> rcases hoff with rfl | rfl <;> decide
  obtain ⟨hth, hfloor⟩ := clampTh_spec hk (setReg_regs_wf (a := 0x0B000 + off) (v := v &&& 0x3FFF#32) hregs)
  have h14 : (v &&& 0x3FFF#32).toNat = v.toNat % 2 ^ 14 := toNat_and_low (k := 14) rfl (by decide)
  refine ⟨congrArg (· ++ _) hf.out_eq, hfloor.trans ?_, hth.trans ?_, hkeep, present_withReached_frame (hf.mono (by decide))⟩
  · rcases hoff with rfl | rfl
    · rw [if_neg (by omega)]
      exact reg_setReg_ne (s := withReached q s) (by omega)
    · rw [if_pos rfl, show 0x0B048 + 4 * k = 0x0B000 + (0x048 + 4 * k) by omega]
      exact reg_setReg_self hregs
  · refine congrArg₂ min ?_ regNat_present.symm
    rcases hoff with rfl | rfl
    · rw [if_pos rfl, ← h14, show 0x0B040 + 4 * k = 0x0B000 + (0x040 + 4 * k) by omega]
      exact regNat_setReg_self hregs
    · rw [if_neg (by omega)]
      exact regNat_setReg_ne (s := withReached q s) (by omega)

/-! ### STEP, WINDOW, POLICY, TARGET and BAND -/

/-- A write that leaves one register with a value, and nothing else. -/
theorem setReg_writes {a : Nat} {q : Place} (hw : s.tablesWf = true) : let t := present (.mgmtRsp port master 0#32 false) (setReg a v (withReached q s))
    reg a t = v ∧ RegsKeep [a] s t ∧ Answered port master 0#32 s t ∧ OnlyChanges [.reached, .regs, .out] s t :=
  ⟨reg_setReg_self (s := withReached q s) (regs_wf hw), setReg_regsKeep (s := withReached q s) (.refl s) List.mem_cons_self, rfl,
    present_withReached_frame (setReg_frame (.refl _))⟩

theorem stepWriting (hw : s.tablesWf = true) (ho : OwnerTurn port master (.assayPolicyWrite (.mgmt port master) 0x05C v) s) :
    Answers (.assayPolicyWrite (.mgmt port master) 0x05C v) s fun t => regNat rSTEP t = min 4096 (max 1 (v.toNat % 2 ^ 13)) ∧ RegsKeep [rSTEP] s t
      ∧ Answered port master 0#32 s t ∧ OnlyChanges [.reached, .regs, .out] s t := by
  refine answers_assaySetting ho rfl rfl (by decide) (by decide) fun q => ?_
  obtain ⟨hreg, hrest⟩ := setReg_writes (a := rSTEP) (port := port) (master := master) (q := q)
    (v := if fieldOf v 0 13 = 0 then 1#32 else if 4096 < fieldOf v 0 13 then 0x1000#32 else BitVec.ofNat 32 (fieldOf v 0 13)) hw
  refine ⟨(congrArg BitVec.toNat hreg).trans ?_, hrest⟩
  have hn : fieldOf v 0 13 = v.toNat % 2 ^ 13 := rfl
  rw [← hn]
  have hlt : fieldOf v 0 13 < 2 ^ 13 := fieldOf_lt (n := 13)
  split
  · next h0 => rw [h0]; rfl
  · split
    · next h1 => rw [Nat.min_eq_left (by omega)]; rfl
    · rw [BitVec.toNat_ofNat]
      omega

theorem windowWriting (hw : s.tablesWf = true) (ho : OwnerTurn port master (.assayPolicyWrite (.mgmt port master) 0x060 v) s) :
    Answers (.assayPolicyWrite (.mgmt port master) 0x060 v) s fun t => regNat rWINDOW t = min 6 (v.toNat % 8) ∧ (regNat rWINDOW t ≠ regNat rWINDOW s → t.assayWin = [])
      ∧ (regNat rWINDOW t = regNat rWINDOW s → t.assayWin = s.assayWin) ∧ RegsKeep [rWINDOW] s t ∧ Answered port master 0#32 s t
      ∧ OnlyChanges [.reached, .regs, .assayWin, .out] s t := by
  refine answers_assaySetting ho rfl rfl (by decide) (by decide) fun q => ?_
  have hn : (if fieldOf v 0 3 = 7 then 6 else fieldOf v 0 3) = min 6 (v.toNat % 8) := by
    have hv : fieldOf v 0 3 = v.toNat % 8 := rfl
    rw [hv]
    split <;> omega
  have hset : assaySetting 0x060 v (withReached q s) = if min 6 (v.toNat % 8) = regNat rWINDOW s then setReg rWINDOW (BitVec.ofNat 32 (min 6 (v.toNat % 8))) (withReached q s)
      else emptyWindow (setReg rWINDOW (BitVec.ofNat 32 (min 6 (v.toNat % 8))) (withReached q s)) := by
    rw [← hn]
    rfl
  obtain ⟨hreg, hkeep, hans, hf⟩ := setReg_writes (a := rWINDOW) (port := port) (master := master) (q := q) (v := BitVec.ofNat 32 (min 6 (v.toNat % 8))) hw
  have hnat : (BitVec.ofNat 32 (min 6 (v.toNat % 8))).toNat = min 6 (v.toNat % 8) := by
    rw [BitVec.toNat_ofNat]
    omega
  rw [hset]
  split
  · next heq => exact ⟨(congrArg BitVec.toNat hreg).trans hnat, fun h => absurd (((congrArg BitVec.toNat hreg).trans hnat).trans heq) h, fun _ => rfl, hkeep, hans, hf.mono (by decide)⟩
  · next hne => exact ⟨(congrArg BitVec.toNat hreg).trans hnat, fun _ => rfl, fun h => absurd (((congrArg BitVec.toNat hreg).trans hnat).symm.trans h) hne, hkeep, hans,
      present_withReached_frame (emptyWindow_frame (setReg_frame (.refl _)))⟩

/-- POLICY as it is kept. -/
def policyKept (v : Word) : Word := (v &&& 0x7F1#32) ||| (if fieldOf v 4 4 = 0 then 0x10#32 else 0#32)

theorem assaySetting_policy : assaySetting 0x050 v s = if bitOf v 10 = bitOf (reg rPOLICY s) 10 then setReg rPOLICY (policyKept v) s
    else emptyWindow (setReg rPOLICY (policyKept v) s) := by
  have hfield : fieldOf (v &&& 0x7F1#32) 4 4 = fieldOf v 4 4 := by
    have hmask : (0x7F1#32).extractLsb' 4 4 = BitVec.allOnes 4 := by decide
    rw [fieldOf_eq_extract, BitVec.extractLsb'_and, hmask, BitVec.and_allOnes, ← fieldOf_eq_extract]
  have hkept : (if fieldOf (v &&& 0x7F1#32) 4 4 = 0 then v &&& 0x7F1#32 ||| 0x10#32 else v &&& 0x7F1#32) = policyKept v := by
    rw [hfield, policyKept]
    split
    · rfl
    · exact BitVec.or_zero.symm
  have hbit : bitOf (policyKept v) 10 = bitOf v 10 := by
    unfold policyKept bitOf
    split <;> simp
  have hset : assaySetting 0x050 v s = if (bitOf (policyKept v) 10 != bitOf (reg rPOLICY s) 10) = true then emptyWindow (setReg rPOLICY (policyKept v) s)
      else setReg rPOLICY (policyKept v) s := by
    rw [← hkept]
    rfl
  rw [hset, hbit]
  exact ite_eq_ite_not (by simp)

theorem policyWriting (hw : s.tablesWf = true) (ho : OwnerTurn port master (.assayPolicyWrite (.mgmt port master) 0x050 v) s) :
    Answers (.assayPolicyWrite (.mgmt port master) 0x050 v) s fun t => reg rPOLICY t = policyKept v
      ∧ t.assayWin = (if bitOf v 10 = bitOf (reg rPOLICY s) 10 then s.assayWin else []) ∧ RegsKeep [rPOLICY] s t ∧ Answered port master 0#32 s t
      ∧ OnlyChanges [.reached, .regs, .assayWin, .out] s t := by
  refine answers_assaySetting ho rfl rfl (by decide) (by decide) fun q => ?_
  rw [assaySetting_policy]
  obtain ⟨hreg, hkeep, hans, hf⟩ := setReg_writes (a := rPOLICY) (port := port) (master := master) (q := q) (v := policyKept v) hw
  by_cases h10 : bitOf v 10 = bitOf (reg rPOLICY (withReached q s)) 10
  · rw [if_pos h10]
    exact ⟨hreg, (if_pos h10).symm, hkeep, hans, hf.mono (by decide)⟩
  · rw [if_neg h10]
    exact ⟨hreg, (if_neg h10).symm, hkeep, hans, present_withReached_frame (emptyWindow_frame (setReg_frame (.refl _)))⟩

theorem targetWriting {off : Nat} (hw : s.tablesWf = true) (hoff : off = 0x054 ∨ off = 0x058) (ho : OwnerTurn port master (.assayPolicyWrite (.mgmt port master) off v) s) :
    Answers (.assayPolicyWrite (.mgmt port master) off v) s fun t => reg (0x0B000 + off) t = v &&& 0xFFFF#32 ∧ RegsKeep [0x0B000 + off] s t
      ∧ Answered port master 0#32 s t ∧ OnlyChanges [.reached, .regs, .out] s t := by
  refine answers_assaySetting ho rfl rfl (by omega) (by omega) fun q => ?_
  have hset : assaySetting off v (withReached q s) = setReg (0x0B000 + off) (v &&& 0xFFFF#32) (withReached q s) := by
    rcases hoff with rfl | rfl <;> rfl
  rw [hset]
  exact setReg_writes hw

/-! ### The spill registers of a plane -/

/-- A write of a page's own registers (R10, R388). -/
theorem writeReg_pageAddr {by_ : Option (Nat × Nat)} {copy page off : Nat} (hp : page < 0x41) (hoff : 0x040 ≤ off ∧ off < 0x1000) (he : pageExists page s = true) :
    writeReg by_ copy (pageAddr page off) v s = pageWrite by_ copy page off v s := by
  have haddr : pageAddr page off = 0x1000 * page + off := by
    unfold pageAddr pageBase
    omega
  have h1 : (0x1000 * page + off) / 0x1000 = page := by omega
  have h2 : (0x1000 * page + off) % 0x1000 = off := by omega
  simp only [haddr, writeReg, if_neg (show ¬ 0x200000 ≤ 0x1000 * page + off by omega), if_neg (show ¬ 0x100000 ≤ 0x1000 * page + off by omega), h1, h2, he,
    if_neg (show ¬ off < 0x040 by omega), Bool.not_true, Bool.false_eq_true, if_false]

/-- The bits of a spill register (R438). -/
def spillMask (off : Nat) : Word := if off = 0x044 then 0xFFFFF000#32 else if off = 0x048 then 0x1FFFFFF#32 else 0xFFFFFF#32

theorem writeReg_spill {by_ : Option (Nat × Nat)} {p off : Nat} (hp : p < 8) (he : hasPlane p s = true) (hoff : off = 0x044 ∨ off = 0x048 ∨ off = 0x04C) :
    writeReg by_ 0 (pageAddr (pPLANE p) off) v s = planeWrite (pPLANE p) off v s := by
  rw [writeReg_pageAddr (by unfold pPLANE; omega) (by omega)]
  · interval_cases p <;> rfl
  · interval_cases p <;> exact he

theorem planeWrite_spill {p off : Nat} (hp : p < 8) (hoff : off = 0x044 ∨ off = 0x048 ∨ off = 0x04C) : planeWrite (pPLANE p) off v s =
    if (planeAt p s).pool ≠ [] then s else setReg (pageBase (pPLANE p) + off) (v &&& spillMask off) s := by
  have hplane : pPLANE p - 0x10 = p := by unfold pPLANE; omega
  have hplain : plainWrite 0 (pageBase (pPLANE p) + off) v s = setReg (pageBase (pPLANE p) + off) (v &&& spillMask off) s := by
    interval_cases p <;> rcases hoff with rfl | rfl | rfl <;> rfl
  unfold planeWrite
  rw [hplane, hplain]
  exact if_congr (by rcases hoff with rfl | rfl | rfl <;> simp) rfl rfl

theorem spillWriting {p off : Nat} (hw : s.tablesWf = true) (hp : p < 8) (he : hasPlane p s = true) (hoff : off = 0x044 ∨ off = 0x048 ∨ off = 0x04C)
    (ho : OwnerTurn port master (.spillPoolWrite (.mgmt port master) p off v) s) : Answers (.spillPoolWrite (.mgmt port master) p off v) s fun t =>
      Answered port master 0#32 s t
        ∧ reg (pageBase (pPLANE p) + off) t = (if (planeAt p s).pool ≠ [] then reg (pageBase (pPLANE p) + off) s else v &&& spillMask off)
        ∧ RegsKeep [pageBase (pPLANE p) + off] s t ∧ OnlyChanges [.reached, .regs, .out] s t := by
  have hbad : badAddr (pageAddr (pPLANE p) off) = false := by
    interval_cases p <;> rcases hoff with rfl | rfl | rfl <;> rfl
  refine answers_ownerWrite (w := planeWrite (pPLANE p) off v) ho (if_pos hp) rfl hbad (fun _ => rfl) (fun q => writeReg_spill hp he hoff)
    (fun q => (planeWrite_frame (ps := [.regs]) (.refl (withReached q s))).requests_eq) fun q => ?_
  rw [planeWrite_spill hp hoff]
  by_cases hpool : (planeAt p (withReached q s)).pool ≠ []
  · rw [if_pos hpool]
    exact ⟨rfl, (if_pos hpool).symm, .refl s, present_withReached_frame (.refl _)⟩
  · rw [if_neg hpool]
    obtain ⟨hreg, hkeep, hans, hf⟩ := setReg_writes (a := pageBase (pPLANE p) + off) (port := port) (master := master) (q := q) (v := v &&& spillMask off) hw
    exact ⟨hans, hreg.trans (if_neg hpool).symm, hkeep, hf⟩

end

theorem assayAndSpillSettings : Claims.AssayAndSpillSettings := fun _ _ _ _ hw =>
  ⟨fun _ _ hk hoff ho => thresholdWriting hw hk hoff ho, fun ho => stepWriting hw ho, fun ho => windowWriting hw ho, fun ho => policyWriting hw ho,
    fun _ hoff ho => targetWriting hw hoff ho, fun _ _ hp he hoff ho => spillWriting hw hp he hoff ho⟩

/-- Settles O29: each write of these tables leaves in its one register or word what may stand there. -/
theorem tableWrites : Obligations.TableWrites := ⟨selectedTables, assayAndSpillSettings⟩

end Sys2Proof.Machine
end

section
/-! PROOF. Topology registers and group definitions (R272, R274, R307, R434). -/

namespace Sys2Proof.Machine

-- The inclusions that frames ask for are auto parameters, whose code is compiled: with proofs elaborated in order no thread waits for it.
set_option Elab.async false

section
variable {r s : State} {ps : List Part}

theorem cfgRefuse_frame (h : OnlyChanges ps r s) (hq : [.setNow, .regs, .log] ⊆ ps := by decide) : OnlyChanges ps r (cfgRefuse s) :=
  h.then (ps := [.setNow, .regs, .log]) (notice_frame (OnlyChanges.refl s)) hq
theorem absentIrq_frame {before : State} (h : OnlyChanges ps r s) (hq : [.setNow, .regs] ⊆ ps := by decide) : OnlyChanges ps r (absentIrq before s) :=
  h.then (ps := [.setNow, .regs]) (.foldl (OnlyChanges.refl s) fun _ _ h1 => .ite h1 (irq_frame h1)) hq
theorem topologyRegWrite_frame {off : Nat} {v : Word} (h : OnlyChanges ps r s) (hq : [.setNow, .regs, .log] ⊆ ps := by decide) : OnlyChanges ps r (topologyRegWrite off v s) :=
  have hrefuse : OnlyChanges [.setNow, .regs, .log] s (cfgRefuse s) := cfgRefuse_frame (.refl s)
  have hset {a : Nat} {x : Word} : OnlyChanges [.setNow, .regs, .log] s (setReg a x s) := setReg_frame (.refl s)
  h.then (ps := [.setNow, .regs, .log]) (.ite hrefuse (.ite (.ite hrefuse (.ite (absentIrq_frame hset) (.ite hrefuse (absentIrq_frame hset))))
    (.ite hset (.ite hrefuse hset)))) hq
theorem groupCfgApply_frame {copy : Nat} {v : Word} (h : OnlyChanges ps r s) (hq : [.setNow, .regs, .log, .groups] ⊆ ps := by decide) : OnlyChanges ps r (groupCfgApply copy v s) :=
  h.then (ps := [.setNow, .regs, .log, .groups]) (.ite (.ite (OnlyChanges.refl s) (.unless (cfgRefuse_frame (OnlyChanges.refl s)) fun h1 => .ite h1
      (setGroup_frame (OnlyChanges.refl s)))) (.unless (setGroup_frame (OnlyChanges.refl s)) fun h2 => .ite (cfgRefuse_frame h2) (setGroup_frame h2)))
      hq
theorem unfenceApply_frame {copy : Nat} (h : OnlyChanges ps r s) (hq : [.groups, .setNow, .regs, .log] ⊆ ps := by decide) : OnlyChanges ps r (unfenceApply copy s) :=
  h.then (ps := [.groups, .setNow, .regs, .log]) (.ite (setGroup_frame (OnlyChanges.refl s)) (cfgRefuse_frame (OnlyChanges.refl s))) hq
end

/-! ### What a refusal leaves -/

section
variable {s : State} {port master : Nat} {q : Place}

/-- A refused write of the TOPOLOGY page: 0x29, and no register of the page's own changes (R272). -/
theorem cfgRefuse_refuses (hroom : LogRoom s) : let t := present (.mgmtRsp port master 0#32 false) (cfgRefuse (withReached q s))
    (∀ off, 0x040 ≤ off → reg (0x20000 + off) t = reg (0x20000 + off) s) ∧ Logged 0x29 0 0x0000#16 s t ∧ Answered port master 0#32 s t
      ∧ OnlyChanges [.reached, .regs, .setNow, .log, .out] s t := by
  have hf : OnlyChanges [.setNow, .regs, .log] (withReached q s) (cfgRefuse (withReached q s)) := cfgRefuse_frame (.refl _)
  have hlog : Logged 0x29 0 0x0000#16 (withReached q s) (cfgRefuse (withReached q s)) := notice_logged hroom (.inl (by decide))
  refine ⟨fun off ho => ?_, hlog.of_eq rfl rfl rfl, congrArg (· ++ _) hf.out_eq, present_withReached_frame (cfgRefuse_frame (.refl _))⟩
  refine reg_notice_ne (s := withReached q s) ?_
  have hpage : codePage 0x29 topSource = 0x20 := rfl
  rw [hpage]
  simp only [logRegs, rErrCode, rErrCount, rOVERRUN, rIrqRaw, pageBase, pERRLOG, List.mem_cons, List.not_mem_nil, or_false]
  omega

end

theorem cfgRefuse_logs {s : State} (hroom : LogRoom s) : (cfgRefuse s).groups = s.groups ∧ Logged 0x29 0 0x0000#16 s (cfgRefuse s) :=
  ⟨(cfgRefuse_frame (ps := [.setNow, .regs, .log]) (.refl s)) .groups (by decide), notice_logged hroom (.inl (by decide))⟩

/-! ### Topology registers (R272) -/

section
variable {s : State} {n m k off : Nat} {v : Word}

theorem badAddr_pageAddr {page : Nat} (h4 : off % 4 = 0) : badAddr (pageAddr page off) = false :=
  badAddr_of_aligned (by unfold pageAddr pageBase; omega) (by unfold pageAddr pageBase; omega)

/-- A write of a topology register. -/
theorem answers_topologyWrite {port master : Nat} {P : State → Prop} (hoff : (0x040 ≤ off ∧ off ≤ 0x054) ∨ (0x060 ≤ off ∧ off ≤ 0x07C)) (h4 : off % 4 = 0)
    (ho : OwnerTurn port master (.topologyWrite (.mgmt port master) off v) s)
    (hP : ∀ q, P (present (.mgmtRsp port master 0#32 false) (topologyRegWrite off v (withReached q s)))) : Answers (.topologyWrite (.mgmt port master) off v) s P :=
  answers_ownerWrite (w := topologyRegWrite off v) ho rfl rfl (badAddr_pageAddr h4) (fun _ => rfl)
    (fun q => (writeReg_pageAddr (by decide) (by omega) rfl).trans (if_pos hoff))
    (fun q => (topologyRegWrite_frame (ps := [.setNow, .regs, .log]) (.refl (withReached q s))).requests_eq) hP

theorem rPORTMAP_ne_irq (hn : n < 8) : rPORTMAP m ≠ rIrqRaw (pRING n) ∧ rCFG_STATUS ≠ rIrqRaw (pRING n) := by
  unfold rPORTMAP rCFG_STATUS rIrqRaw pRING pageBase
  omega

theorem portAbsent_irq (hn : n < 8) : portAbsent m (irq (pRING n) 0 s) = portAbsent m s := by
  have h1 : reg (rPORTMAP m) (irq (pRING n) 0 s) = reg (rPORTMAP m) s := reg_irq_ne (rPORTMAP_ne_irq hn).1
  have h2 : reg rCFG_STATUS (irq (pRING n) 0 s) = reg rCFG_STATUS s := reg_irq_ne (rPORTMAP_ne_irq (m := m) hn).2
  unfold portAbsent portMap defaultsUsed
  rw [h1, h2]
  rfl

theorem portAbsent_setReg_ne (h : m ≠ n) : portAbsent m (setReg (rPORTMAP n) v s) = portAbsent m s := by
  have h1 : reg (rPORTMAP m) (setReg (rPORTMAP n) v s) = reg (rPORTMAP m) s := reg_setReg_ne (by unfold rPORTMAP; omega)
  have h2 : reg rCFG_STATUS (setReg (rPORTMAP n) v s) = reg rCFG_STATUS s := reg_setReg_ne (by unfold rPORTMAP rCFG_STATUS; omega)
  unfold portAbsent portMap defaultsUsed
  rw [h1, h2]
  rfl

/-- One port's presence compared with what it was. -/
def absentStep (before t : State) (m : Nat) : State := if portAbsent m before == portAbsent m t then t else irq (pRING m) 0 t

/-- A write of one entry of the port map interrupts at its own port only, and where its presence changes. -/
theorem absentIrq_setReg (hn : n < 8) : absentIrq s (setReg (rPORTMAP n) v s) =
    if n < s.build.ringPorts ∧ portAbsent n s ≠ portAbsent n (setReg (rPORTMAP n) v s) then irq (pRING n) 0 (setReg (rPORTMAP n) v s) else setReg (rPORTMAP n) v s := by
  have hfold (k : Nat) : (List.range k).foldl (absentStep s) (setReg (rPORTMAP n) v s) =
      if n < k ∧ portAbsent n s ≠ portAbsent n (setReg (rPORTMAP n) v s) then irq (pRING n) 0 (setReg (rPORTMAP n) v s) else setReg (rPORTMAP n) v s := by
    induction k with
    | zero => rfl
    | succ k ih =>
      rw [List.range_succ, List.foldl_append, ih, List.foldl_cons, List.foldl_nil]
      rcases eq_or_ne k n with rfl | hne
      · rw [if_neg (fun h => Nat.lt_irrefl _ h.1)]
        unfold absentStep
        exact ite_eq_ite_not (by simp)
      · have hlt : n < k + 1 ↔ n < k := by omega
        simp only [hlt]
        refine if_pos ?_
        split
        · rw [portAbsent_irq hn, portAbsent_setReg_ne hne, beq_self_eq_true]
        · rw [portAbsent_setReg_ne hne, beq_self_eq_true]
  exact hfold s.build.ringPorts

theorem bitOf_portMask : bitOf (v &&& 0xF#32) 3 = bitOf v 3 := by simp [bitOf]

theorem fieldOf_portMask : fieldOf (v &&& 0xF#32) 0 2 = fieldOf v 0 2 := by
  have hmask : (0xF#32).extractLsb' 0 2 = BitVec.allOnes 2 := by decide
  rw [fieldOf_eq_extract, BitVec.extractLsb'_and, hmask, BitVec.and_allOnes, ← fieldOf_eq_extract]

/-- An entry of the port map takes an ABSENT mark. -/
theorem topologyRegWrite_absent (hdown : anyLinkUp s = false) (hdef : defaultsUsed s = false) (h3 : bitOf v 3 = true) :
    topologyRegWrite (0x060 + 4 * n) v s = absentIrq s (setReg (rPORTMAP n) (v &&& 0xF#32) s) := by
  have hidx : (0x060 + 4 * n - 0x060) / 4 = n := by omega
  unfold topologyRegWrite
  dsimp only
  rw [if_neg (by simp [hdown]), if_pos (by omega), hidx, if_neg (by simp [hdef]), if_pos (bitOf_portMask.trans h3)]

/-- An entry of the port map names an axis that AXES does not reach. -/
theorem topologyRegWrite_badAxis (hdown : anyLinkUp s = false) (hdef : defaultsUsed s = false) (h3 : bitOf v 3 = false) (ha : axesN s ≤ fieldOf v 0 2) :
    topologyRegWrite (0x060 + 4 * n) v s = cfgRefuse s := by
  unfold topologyRegWrite
  dsimp only
  rw [if_neg (by simp [hdown]), if_pos (by omega), if_neg (by simp [hdef]), if_neg (by simp [bitOf_portMask, h3]), fieldOf_portMask, if_pos (by simp [ha])]

theorem topologyRegWrite_axes (hdown : anyLinkUp s = false) (hg : ∀ x ∈ s.groups, gValid x.2 = false) :
    topologyRegWrite 0x040 v s = setReg rAXES (v &&& 7#32) s := by
  have hbad : anyGroupBad (setReg rAXES (v &&& 7#32) s) = false := by
    rw [anyGroupBad, List.any_eq_false]
    intro x hx
    simp [hg x hx]
  exact (if_neg (by simp [hdown])).trans ((if_neg (by decide)).trans ((if_neg (by decide)).trans (if_neg (by rw [Bool.not_eq_true]; exact hbad))))

theorem topologyRegWrite_self (hdown : anyLinkUp s = false) : topologyRegWrite 0x054 v s = setReg rSELF (v &&& 0x3F3F3F3F#32) s :=
  (if_neg (by simp [hdown])).trans rfl

end

theorem topologyWrites : Claims.TopologyWrites := by
  intro port master v s hw hroom
  have hregs := regs_wf hw
  refine ⟨fun off h4 hoff hup ho => ?_, fun hdown => ⟨fun ho => ?_, fun ho _ _ hg => ?_, fun n hn ho hdef => ?_⟩⟩
  · refine answers_topologyWrite hoff h4 ho fun q => ?_
    rw [topologyRegWrite, if_pos (show anyLinkUp (withReached q s) = true from hup)]
    obtain ⟨h1, h2, h3, h4⟩ := cfgRefuse_refuses (port := port) (master := master) (q := q) hroom
    exact ⟨h1 off (by omega), h2, h3, h4⟩
  · refine answers_topologyWrite (by decide) (by decide) ho fun q => ?_
    rw [topologyRegWrite_self (s := withReached q s) hdown]
    exact setReg_writes hw
  · refine answers_topologyWrite (by decide) (by decide) ho fun q => ?_
    rw [topologyRegWrite_axes (s := withReached q s) hdown hg]
    obtain ⟨h1, h2⟩ := setReg_writes (port := port) (master := master) (a := rAXES) (v := v &&& 7#32) (q := q) hw
    exact ⟨(congrArg BitVec.toNat h1).trans (toNat_and_low (k := 3) rfl (by decide)), h2⟩
  · refine answers_topologyWrite (by omega) (by omega) ho fun q => ?_
    have hframe : OnlyChanges [.setNow, .regs, .log] (withReached q s) (topologyRegWrite (0x060 + 4 * n) v (withReached q s)) := topologyRegWrite_frame (.refl _)
    refine ⟨congrArg (· ++ _) hframe.out_eq, fun h3 => ?_, fun h3 ha => ?_, present_withReached_frame (hframe.mono (by decide))⟩
    · rw [topologyRegWrite_absent (s := withReached q s) hdown hdef h3, absentIrq_setReg hn]
      have hself : reg (rPORTMAP n) (setReg (rPORTMAP n) (v &&& 0xF#32) (withReached q s)) = v &&& 0xF#32 := reg_setReg_self (s := withReached q s) hregs
      have hkeep : RegsKeep [rPORTMAP n, rIrqRaw (pRING n)] s (setReg (rPORTMAP n) (v &&& 0xF#32) (withReached q s)) :=
        setReg_regsKeep (s := withReached q s) (.refl s) List.mem_cons_self
      have habs : portAbsent n (setReg (rPORTMAP n) (v &&& 0xF#32) (withReached q s)) = true := by
        have hdef' : defaultsUsed (setReg (rPORTMAP n) (v &&& 0xF#32) (withReached q s)) = false :=
          (congrArg (bitOf · 0) (reg_setReg_ne (s := withReached q s) (by unfold rPORTMAP rCFG_STATUS; omega))).trans hdef
        rw [portAbsent, portMap, hdef', if_neg (by decide), hself, bitOf_portMask, h3, Bool.or_true]
      split
      · exact ⟨(reg_irq_ne (rPORTMAP_ne_irq hn).1).trans hself, irq_regsKeep hkeep (by simp),
          fun _ _ => irq_raised (setReg_regs_wf (s := withReached q s) hregs) (by decide), rfl⟩
      · next hno => exact ⟨hself, hkeep, fun hlt hpres => absurd ⟨hlt, by rw [habs, show portAbsent n (withReached q s) = false from hpres]; decide⟩ hno, rfl⟩
    · rw [topologyRegWrite_badAxis (s := withReached q s) hdown hdef h3 ha]
      obtain ⟨h1, h2, -, -⟩ := cfgRefuse_refuses (port := port) (master := master) (q := q) hroom
      refine ⟨?_, h2⟩
      have := h1 (0x060 + 4 * n) (by omega)
      rwa [show 0x20000 + (0x060 + 4 * n) = rPORTMAP n by unfold rPORTMAP; omega] at this

/-! ### Group definitions (R274, R276, R307, R434) -/

section
variable {s : State} {i : Nat} {g : GroupDef} {v w : Word}

theorem groups_wf (h : s.tablesWf = true) : tableWf GroupDef.clear s.groups = true := by
  unfold State.tablesWf at h
  simp only [Bool.and_eq_true] at h
  grind

theorem groupBad_iff : groupBad g s = true ↔ BreaksR274 g s := by
  simp [groupBad, BreaksR274, or_assoc]

theorem fieldOf_clearEnable {lo n : Nat} (hlo : 0 < lo) : fieldOf (w &&& ~~~1#32) lo n = fieldOf w lo n := by
  rw [fieldOf_eq_extract, fieldOf_eq_extract]
  congr 1
  ext k hk
  rw [BitVec.getElem_extractLsb', BitVec.getElem_extractLsb', BitVec.getLsbD_and, BitVec.getLsbD_not, BitVec.getLsbD_one]
  by_cases h : lo + k < 32
  · rw [decide_eq_false (p := lo + k = 0) (by omega), decide_eq_true h]
    simp
  · simp [BitVec.getLsbD_of_ge w (lo + k) (by omega)]

/-- The axes and the number of a definition do not depend on whether it is VALID. -/
theorem groupBad_clearEnable : groupBad { g with cfg := w &&& ~~~1#32 } s = groupBad { g with cfg := w } s := by
  have hmask : gMask { g with cfg := w &&& ~~~1#32 } = gMask { g with cfg := w } := fieldOf_clearEnable (by decide)
  have haxes : gAxes { g with cfg := w &&& ~~~1#32 } = gAxes { g with cfg := w } := by
    unfold gAxes
    rw [hmask]
  have hn : gN { g with cfg := w &&& ~~~1#32 } = gN { g with cfg := w } := by
    unfold gN
    rw [haxes]
    rfl
  have htop : gTop { g with cfg := w &&& ~~~1#32 } = gTop { g with cfg := w } := by
    unfold gTop
    rw [haxes]
  unfold groupBad
  rw [haxes, hn, htop]
  rfl

theorem gWeight_clearEnable : gWeight { g with cfg := w &&& ~~~1#32 } = gWeight { g with cfg := w } := fieldOf_clearEnable (by decide)

theorem and_not_one_of_clear (h : bitOf w 0 = false) : w &&& ~~~1#32 = w := by
  ext k hk
  rcases Nat.eq_zero_or_pos k with rfl | hpos
  · simpa [bitOf] using h.symm
  · interval_cases k <;> simp

theorem bitOf_groupMask : bitOf (v &&& 0xF3F1#32) 0 = bitOf v 0 := by simp [bitOf]

/-- A write of GROUP_CFG to a VALID definition. -/
theorem groupCfgApply_valid (hv : gValid (groupAt (groupSel 0 s) s) = true) : groupCfgApply 0 v s =
    if v &&& 0xF3F1#32 = (groupAt (groupSel 0 s) s).cfg then s
    else if v &&& 0xF3F1#32 ||| 1#32 ≠ (groupAt (groupSel 0 s) s).cfg ∨ legActive (groupSel 0 s) s = true ∨ lineUses (groupSel 0 s) s = true then cfgRefuse s
    else setGroup (groupSel 0 s) { groupAt (groupSel 0 s) s with cfg := v &&& 0xF3F1#32 } s := by
  unfold groupCfgApply
  dsimp only
  rw [if_pos hv]
  refine if_congr Iff.rfl rfl ?_
  by_cases hne : v &&& 0xF3F1#32 ||| 1#32 ≠ (groupAt (groupSel 0 s) s).cfg
  · rw [if_pos (by simpa using hne), if_pos (.inl hne)]
  · rw [if_neg (by simpa using hne)]
    exact if_congr (by rw [or_iff_right hne, Bool.or_eq_true]) rfl rfl

/-- A write of GROUP_CFG to a definition that is not VALID. -/
theorem groupCfgApply_free (hv : gValid (groupAt (groupSel 0 s) s) = false) : groupCfgApply 0 v s =
    let i := groupSel 0 s
    let g := groupAt i s
    let w := v &&& 0xF3F1#32
    let s' := setGroup i { g with cfg := w &&& ~~~1#32 } s
    if bitOf v 0 = false then s'
    else if groupBad { g with cfg := w } s = true ∨ gWeight { g with cfg := w } = 0 then cfgRefuse s'
    else setGroup i { g with cfg := w, fenced := false, legSeq := 0#16 } s' := by
  unfold groupCfgApply
  dsimp only
  rw [if_neg (by simp [hv]), bitOf_groupMask, groupBad_clearEnable, gWeight_clearEnable]
  refine if_congr ?_ rfl (if_congr ?_ rfl rfl) <;> simp

theorem groupCfgApply_bad (hv : gValid (groupAt (groupSel 0 s) s) = false) (h0 : bitOf v 0 = true)
    (hbad : BreaksR274 { groupAt (groupSel 0 s) s with cfg := v &&& 0xF3F1#32 } s ∨ gWeight { groupAt (groupSel 0 s) s with cfg := v &&& 0xF3F1#32 } = 0) :
    groupCfgApply 0 v s = cfgRefuse (setGroup (groupSel 0 s) { groupAt (groupSel 0 s) s with cfg := v &&& 0xF3F1#32 &&& ~~~1#32 } s) := by
  rw [groupCfgApply_free hv]
  dsimp only
  rw [if_neg (by simp [h0]), if_pos (hbad.imp groupBad_iff.mpr id)]

theorem groupCfgApply_good (hv : gValid (groupAt (groupSel 0 s) s) = false) (h0 : bitOf v 0 = true)
    (hgood : ¬BreaksR274 { groupAt (groupSel 0 s) s with cfg := v &&& 0xF3F1#32 } s) (hweight : gWeight { groupAt (groupSel 0 s) s with cfg := v &&& 0xF3F1#32 } ≠ 0) :
    groupCfgApply 0 v s = setGroup (groupSel 0 s) { groupAt (groupSel 0 s) s with cfg := v &&& 0xF3F1#32, fenced := false, legSeq := 0#16 }
      (setGroup (groupSel 0 s) { groupAt (groupSel 0 s) s with cfg := v &&& 0xF3F1#32 &&& ~~~1#32 } s) := by
  rw [groupCfgApply_free hv]
  dsimp only
  rw [if_neg (by simp [h0]), if_neg (fun h => h.elim (fun h => hgood (groupBad_iff.mp h)) hweight)]

/-- UNFENCE of the selected definition may take effect. -/
def unfenceAllowed (s : State) : Prop :=
  gMember (groupAt (groupSel 0 s) s) s = false ∨ ∀ p ∈ groupPorts (groupAt (groupSel 0 s) s) s, ∃ n, p = some n ∧ (linkAt n s).state = 2

theorem portsUp_iff : ((groupPorts g s).all fun p => match p with | some n => (linkAt n s).state == 2 | none => false) = true
    ↔ ∀ p ∈ groupPorts g s, ∃ n, p = some n ∧ (linkAt n s).state = 2 := by
  rw [List.all_eq_true]
  refine forall₂_congr fun p _ => ?_
  cases p <;> simp

theorem unfenceApply_allowed (h : unfenceAllowed s) :
    unfenceApply 0 s = setGroup (groupSel 0 s) { groupAt (groupSel 0 s) s with fenced := false, legSeq := 0#16 } s := by
  refine if_pos ?_
  rw [Bool.or_eq_true, Bool.not_eq_true']
  exact h.imp id portsUp_iff.mpr

theorem unfenceApply_refused (h : ¬unfenceAllowed s) : unfenceApply 0 s = cfgRefuse s := by
  refine if_neg ?_
  rw [Bool.or_eq_true, Bool.not_eq_true']
  exact fun hc => h (hc.imp id portsUp_iff.mp)

theorem writeReg_unfence {by_ : Option (Nat × Nat)} : writeReg by_ 0 0x20094 1#32 s = unfenceApply 0 s := by
  refine (writeReg_pageAddr (page := pTOPOLOGY) (off := 0x094) (by decide) (by decide) rfl).trans ?_
  show topologyWrite 0 0x094 1#32 s = _
  rw [topologyWrite, if_neg (by decide), if_neg (by decide), if_neg (by decide), if_neg (by decide), if_pos (by rfl), if_pos (by decide)]

end

/-- What a write that changes one definition leaves. -/
theorem setGroup_writes {s : State} {port master i : Nat} {g : GroupDef} {q : Place} (hw : s.tablesWf = true) :
    let t := present (.mgmtRsp port master 0#32 false) (setGroup i g (withReached q s))
    groupAt i t = g ∧ t.log = s.log :=
  ⟨groupAt_setGroup_self (s := withReached q s) (groups_wf hw), rfl⟩

theorem groupCfgApply_others {s : State} {v : Word} {k : Nat} (hk : k ≠ groupSel 0 s) : groupAt k (groupCfgApply 0 v s) = groupAt k s := by
  have hset {g : GroupDef} {t : State} (ht : groupAt k t = groupAt k s) : groupAt k (setGroup (groupSel 0 s) g t) = groupAt k s :=
    (groupAt_setGroup_ne hk).trans ht
  have hrefuse {t : State} (ht : groupAt k t = groupAt k s) : groupAt k (cfgRefuse t) = groupAt k s :=
    (congrArg (tget GroupDef.clear k) ((cfgRefuse_frame (ps := [.setNow, .regs, .log]) (.refl t)) .groups (by decide))).trans ht
  cases hv : gValid (groupAt (groupSel 0 s) s)
  · rw [groupCfgApply_free hv]
    dsimp only
    split_ifs
    · exact hset rfl
    · exact hrefuse (hset rfl)
    · exact hset (hset rfl)
  · rw [groupCfgApply_valid hv]
    split_ifs
    · rfl
    · exact hrefuse rfl
    · exact hset rfl

theorem groupCfgWriting {port master : Nat} {v : Word} {s : State} (hw : s.tablesWf = true) (hroom : LogRoom s)
    (ho : OwnerTurn port master (.groupCfgWrite (.mgmt port master) v) s) :
    let i := groupSel 0 s
    let g := groupAt i s
    let w := v &&& 0xF3F1#32
    Answers (.groupCfgWrite (.mgmt port master) v) s fun t =>
      Answered port master 0#32 s t ∧ (∀ k, k ≠ i → groupAt k t = groupAt k s) ∧ OnlyChanges [.reached, .groups, .regs, .setNow, .log, .out] s t
        ∧ (gValid g = true → w = g.cfg → t.groups = s.groups ∧ t.log = s.log)
        ∧ (gValid g = true → w ||| 1#32 ≠ g.cfg ∨ legActive i s = true ∨ lineUses i s = true → w ≠ g.cfg → t.groups = s.groups ∧ Logged 0x29 0 0x0000#16 s t)
        ∧ (gValid g = true → w ≠ g.cfg → w ||| 1#32 = g.cfg → legActive i s = false → lineUses i s = false → groupAt i t = { g with cfg := w } ∧ t.log = s.log)
        ∧ (gValid g = false → bitOf v 0 = false → groupAt i t = { g with cfg := w } ∧ t.log = s.log)
        ∧ (gValid g = false → bitOf v 0 = true → BreaksR274 { g with cfg := w } s ∨ gWeight { g with cfg := w } = 0 →
            groupAt i t = { g with cfg := w &&& 0xFFFFFFFE#32 } ∧ Logged 0x29 0 0x0000#16 s t)
        ∧ (gValid g = false → bitOf v 0 = true → ¬ BreaksR274 { g with cfg := w } s → gWeight { g with cfg := w } ≠ 0 →
            groupAt i t = { g with cfg := w, fenced := false, legSeq := 0#16 } ∧ t.log = s.log) := by
  have hf (q : Place) : OnlyChanges [.setNow, .regs, .log, .groups] (withReached q s) (groupCfgApply 0 v (withReached q s)) := groupCfgApply_frame (.refl _)
  refine answers_ownerWrite (addr := 0x20084) (v := v) (w := groupCfgApply 0 v) ho rfl rfl rfl (fun _ => rfl) (fun _ => rfl) (fun q => (hf q).requests_eq)
    fun q => ⟨congrArg (· ++ _) (hf q).out_eq, fun k hk => groupCfgApply_others (s := withReached q s) hk, present_withReached_frame ((hf q).mono (by decide)), ?_⟩
  have hself {g : GroupDef} {t : State} (ht : tableWf GroupDef.clear t.groups = true) : groupAt (groupSel 0 s) (setGroup (groupSel 0 s) g t) = g :=
    groupAt_setGroup_self ht
  have hwf : tableWf GroupDef.clear (withReached q s).groups = true := groups_wf hw
  refine ⟨fun hv heq => ?_, fun hv hbad hne => ?_, fun hv hne h1 hleg hline => ?_, fun hv h0 => ?_, fun hv h0 hbad => ?_, fun hv h0 hgood hweight => ?_⟩
  · rw [groupCfgApply_valid (s := withReached q s) hv]
    split
    · exact ⟨rfl, rfl⟩
    · next h => exact absurd heq h
  · rw [groupCfgApply_valid (s := withReached q s) hv]
    split
    · next h => exact absurd h hne
    · split
      · obtain ⟨-, h2, -, h4⟩ := cfgRefuse_refuses (port := port) (master := master) (q := q) hroom
        exact ⟨h4 .groups (by decide), h2⟩
      · next h => exact absurd hbad h
  · rw [groupCfgApply_valid (s := withReached q s) hv]
    split
    · next h => exact absurd h hne
    · split
      · next h =>
        have hleg : legActive (groupSel 0 (withReached q s)) (withReached q s) = false := hleg
        have hline : lineUses (groupSel 0 (withReached q s)) (withReached q s) = false := hline
        exact absurd h1 (h.resolve_right (by simp [hleg, hline]))
      · exact ⟨hself hwf, rfl⟩
  · rw [groupCfgApply_free (s := withReached q s) hv]
    dsimp only
    rw [if_pos h0, and_not_one_of_clear (bitOf_groupMask.trans h0)]
    exact ⟨hself hwf, rfl⟩
  · rw [groupCfgApply_bad (s := withReached q s) hv h0 hbad]
    have h := cfgRefuse_logs (s := setGroup (groupSel 0 (withReached q s)) { groupAt (groupSel 0 (withReached q s)) (withReached q s) with cfg := v &&& 0xF3F1#32 &&& ~~~1#32 } (withReached q s)) hroom
    generalize cfgRefuse (setGroup (groupSel 0 (withReached q s)) _ _) = u at h ⊢
    exact ⟨(congrArg (tget GroupDef.clear _) h.1).trans (hself hwf), h.2.of_eq rfl rfl rfl⟩
  · rw [groupCfgApply_good (s := withReached q s) hv h0 hgood hweight]
    exact ⟨hself (tset_wf _ _ _ hwf), rfl⟩

theorem unfencing {port master : Nat} {s : State} (hw : s.tablesWf = true) (hroom : LogRoom s) (ho : OwnerTurn port master (.unfence (.mgmt port master)) s) :
    let i := groupSel 0 s
    let g := groupAt i s
    Answers (.unfence (.mgmt port master)) s fun t => Answered port master 0#32 s t
      ∧ ((unfenceAllowed s → groupAt i t = { g with fenced := false, legSeq := 0#16 } ∧ t.log = s.log) ∧ (¬unfenceAllowed s → t.groups = s.groups ∧ Logged 0x29 0 0x0000#16 s t))
      ∧ (∀ k, k ≠ i → groupAt k t = groupAt k s) ∧ OnlyChanges [.reached, .groups, .regs, .setNow, .log, .out] s t := by
  have hf (q : Place) : OnlyChanges [.groups, .setNow, .regs, .log] (withReached q s) (unfenceApply 0 (withReached q s)) := unfenceApply_frame (.refl _)
  refine answers_ownerWrite (addr := 0x20094) (v := 1#32) (w := unfenceApply 0) ho rfl rfl rfl (fun _ => rfl) (fun _ => writeReg_unfence) (fun q => (hf q).requests_eq)
    fun q => ⟨congrArg (· ++ _) (hf q).out_eq, and_assoc.mp ⟨?_, present_withReached_frame ((hf q).mono (by decide))⟩⟩
  have hsel : groupSel 0 (withReached q s) = groupSel 0 s := rfl
  have hat : groupAt (groupSel 0 s) (withReached q s) = groupAt (groupSel 0 s) s := rfl
  have hallow : unfenceAllowed (withReached q s) ↔ unfenceAllowed s := Iff.rfl
  rw [← hallow]
  by_cases h : unfenceAllowed (withReached q s)
  · rw [unfenceApply_allowed h, hsel, hat]
    refine ⟨⟨fun _ => setGroup_writes hw, fun hno => absurd h hno⟩, fun k hk => groupAt_setGroup_ne (s := withReached q s) hk⟩
  · rw [unfenceApply_refused h]
    obtain ⟨-, h2, -, h4⟩ := cfgRefuse_refuses (port := port) (master := master) (q := q) hroom
    have hg := h4 .groups (by decide)
    have hg : (present (.mgmtRsp port master 0#32 false) (cfgRefuse (withReached q s))).groups = s.groups := hg
    exact ⟨⟨fun hyes => absurd hyes h, fun _ => ⟨hg, h2⟩⟩, fun k _ => congrArg (tget GroupDef.clear k) hg⟩

theorem groupDefinitions : Claims.GroupDefinitions := by
  intro port master v s hw hroom
  refine ⟨fun ho => groupCfgWriting hw hroom ho, fun ho => (unfencing hw hroom ho).imp fun t ⟨h1, ⟨hyes, hno⟩, h3, h4⟩ => ⟨h1, ⟨hyes, fun hm hp => hno ?_⟩, h3, h4⟩⟩
  rintro (hm' | hall)
  · simp [hm'] at hm
  · obtain ⟨p, hp, hdown⟩ := hp
    obtain ⟨n, hn, hup⟩ := hall p hp
    exact hdown n hn hup

/-- Settles O30: a write of the topology or of a definition takes effect where the links and the definition allow it, and is refused elsewhere. -/
theorem topologyAndGroups : Obligations.TopologyAndGroups := ⟨topologyWrites, groupDefinitions⟩

end Sys2Proof.Machine
end

section
/-! PROOF. Bell lines and the credits of a ring port (R297, R321, R443). -/

namespace Sys2Proof.Machine

-- The inclusions that frames ask for are auto parameters, whose code is compiled: with proofs elaborated in order no thread waits for it.
set_option Elab.async false

section
variable {r s : State} {ps : List Part}

theorem lineDisable_frame {n : Nat} (h : OnlyChanges ps r s) (hq : [.lines, .stalls] ⊆ ps := by decide) : OnlyChanges ps r (lineDisable n s) :=
  h.then (ps := [.lines, .stalls]) (.foldl (setLine_frame (OnlyChanges.refl s)) fun _ _ h1 => .ite (setStall_frame h1) h1) hq
theorem lineCfgApply_frame {copy : Nat} {v : Word} (h : OnlyChanges ps r s) (hq : [.setNow, .regs, .lines, .stalls, .links] ⊆ ps := by decide) : OnlyChanges ps r (lineCfgApply copy v s) :=
  h.then (ps := [.setNow, .regs, .lines, .stalls, .links]) (.ite (.unless (.ite (cfgRefused_frame (OnlyChanges.refl s)) (OnlyChanges.refl s)) fun h1
      => lineDisable_frame h1) (.unless (setLine_frame (OnlyChanges.refl s)) fun h2 => .ite (cfgRefused_frame h2) (sendKept_frame (setLine_frame
      h2)))) hq
theorem ringCreditApply_frame {port : Nat} {off : Nat} {v : Word} (h : OnlyChanges ps r s) (hq : [.setNow, .regs, .log] ⊆ ps := by decide) : OnlyChanges ps r (ringCreditApply port off v s) :=
  h.then (ps := [.setNow, .regs, .log]) (.ite (.ite (logFault_frame (OnlyChanges.refl s)) (setReg_frame (OnlyChanges.refl s))) (.ite (setReg_frame
      (OnlyChanges.refl s)) (setReg_frame (OnlyChanges.refl s)))) hq
end

/-! ### Lines (R321, R443) -/

section
variable {s : State} {n m : Nat} {v w : Word} {l : Line}

theorem lineBad_iff : lineBad n w s = true ↔ LineRefused n w s := by
  simp only [lineBad, LineRefused, Bool.or_eq_true, Bool.and_eq_true, List.isEmpty_iff, Bool.not_eq_true', List.any_eq_true, List.mem_range, bne_iff_ne, beq_iff_eq,
    or_assoc, and_assoc]

/-- A line's own configuration does not matter to what refuses it (R321). -/
theorem lineBad_setLine : lineBad n w (setLine n l s) = lineBad n w s := by
  have hothers : ((List.range 16).any fun m => m != n && lEnable (lineAt m (setLine n l s)).cfg && lBoard (lineAt m (setLine n l s)).cfg && lBoardLine (lineAt m (setLine n l s)).cfg == lBoardLine w)
      = (List.range 16).any fun m => m != n && lEnable (lineAt m s).cfg && lBoard (lineAt m s).cfg && lBoardLine (lineAt m s).cfg == lBoardLine w := by
    refine congrArg (fun f => (List.range 16).any f) (funext fun m => ?_)
    by_cases h : m = n
    · simp [h]
    · rw [lineAt_setLine_ne h]
  unfold lineBad
  rw [hothers]
  rfl

theorem bitOf_lineMask : bitOf (v &&& 0xFF3F#32) 0 = bitOf v 0 := by simp [bitOf]

/-- One stall of a line that is disabled. -/
def fallStep (n : Nat) (t : State) (x : Nat × StallSt) : State :=
  if x.2.bellIn.getLsbD n then setStall x.1 { x.2 with bellLow := x.2.bellLow ||| BitVec.ofNat 16 (2 ^ n) } t else t

theorem lineDisable_eq : lineDisable n s = s.stalls.foldl (fallStep n) (setLine n { Line.idle with cfg := (lineAt n s).cfg &&& ~~~1#32 } s) := rfl

/-- What one step of a fold brings about, and the others keep, holds at its end. -/
theorem foldl_establishes {α β : Type} {I Q : α → Prop} {f : α → β → α} {x : β} (hI : ∀ t y, I t → I (f t y)) (hQ : ∀ t y, I t → Q t → Q (f t y))
    (hx : ∀ t, I t → Q (f t x)) {xs : List β} (hmem : x ∈ xs) {t : α} (ht : I t) : Q (xs.foldl f t) := by
  have hkeep (ys : List β) (t : α) (ht : I t) (hq : Q t) : Q (ys.foldl f t) := by
    induction ys generalizing t with
    | nil => exact hq
    | cons y ys ih => exact ih (f t y) (hI t y ht) (hQ t y ht hq)
  induction xs generalizing t with
  | nil => cases hmem
  | cons y ys ih =>
    rcases List.mem_cons.mp hmem with rfl | hmem
    · exact hkeep ys _ (hI t _ ht) (hx t ht)
    · exact ih hmem (hI t y ht)

theorem bellLow_set (hn : n < 16) (x : BitVec 16) : (x ||| BitVec.ofNat 16 (2 ^ n)).getLsbD n = true := by
  rw [BitVec.getLsbD_or, BitVec.getLsbD_ofNat]
  simp [hn]

theorem fallStep_stalls_wf {t : State} {x : Nat × StallSt} (h : tableWf StallSt.quiet t.stalls = true) : tableWf StallSt.quiet (fallStep n t x).stalls = true := by
  unfold fallStep
  split
  · exact tset_wf _ _ _ h
  · exact h

/-- A line's disabling has every BELL_IN of it that is high fall at the next first edge. -/
theorem lineDisable_bellLow (hw : s.tablesWf = true) (hn : n < 16) (hin : (stallAt m s).bellIn.getLsbD n = true) :
    (stallAt m (lineDisable n s)).bellLow.getLsbD n = true := by
  have hmem : (m, stallAt m s) ∈ s.stalls := mem_of_tget_ne fun h => by
    rw [show stallAt m s = StallSt.quiet from h] at hin
    simp [StallSt.quiet] at hin
  rw [lineDisable_eq]
  refine foldl_establishes (I := fun t => tableWf StallSt.quiet t.stalls = true) (Q := fun t => (stallAt m t).bellLow.getLsbD n = true) (x := (m, stallAt m s))
    (fun t y ht => fallStep_stalls_wf ht) (fun t y ht hq => ?_) (fun t ht => ?_) hmem (stalls_wf hw)
  · unfold fallStep
    split
    · rcases eq_or_ne m y.1 with rfl | hne
      · rw [stallAt_setStall_self ht]
        exact bellLow_set hn _
      · rw [stallAt_setStall_ne hne]
        exact hq
    · exact hq
  · unfold fallStep
    rw [if_pos hin, stallAt_setStall_self ht]
    exact bellLow_set hn _

theorem lineDisable_lines : (lineDisable n s).lines = (setLine n { Line.idle with cfg := (lineAt n s).cfg &&& ~~~1#32 } s).lines := by
  have h : OnlyChanges [.stalls] (setLine n { Line.idle with cfg := (lineAt n s).cfg &&& ~~~1#32 } s) (lineDisable n s) :=
    .foldl (.refl _) fun _ _ h1 => .ite (setStall_frame h1) h1
  exact h .lines (by decide)

end

/-! ### LINE_CFG of the selected line -/

section
variable {s : State} {v : Word}

/-- A write to an enabled line, before it clears ENABLE. -/
def lineChecked (v : Word) (s : State) : State := if v &&& 0xFF3F#32 ||| 1#32 ≠ (lineAt (lineSel 0 s) s).cfg then cfgRefused s else s

theorem lineCfgApply_enabled (he : lEnable (lineAt (lineSel 0 s) s).cfg = true) : lineCfgApply 0 v s =
    if bitOf v 0 = true then lineChecked v s else lineDisable (lineSel 0 s) (lineChecked v s) := by
  have hcheck : lineChecked v s = if (v &&& 0xFF3F#32 ||| 1#32 != (lineAt (lineSel 0 s) s).cfg) = true then cfgRefused s else s := if_congr (by simp) rfl rfl
  unfold lineCfgApply
  dsimp only
  rw [if_pos he, bitOf_lineMask, ← hcheck]

/-- The selected line with the fields that are written, not yet enabled. -/
def lineFields (v : Word) (s : State) : State := setLine (lineSel 0 s) { lineAt (lineSel 0 s) s with cfg := v &&& 0xFF3F#32 &&& ~~~1#32 } s

/-- The selected line as it is armed when it is enabled. -/
def lineArmed (v : Word) (s : State) : Line :=
  { Line.idle with cfg := v &&& 0xFF3F#32, armed := true, maps := mergeKept 0 (lineAt (lineSel 0 s) s).kept [0, 0, 0, 0] }

theorem lineCfgApply_free (he : lEnable (lineAt (lineSel 0 s) s).cfg = false) : lineCfgApply 0 v s =
    if bitOf v 0 = false then lineFields v s
    else if lineBad (lineSel 0 s) (v &&& 0xFF3F#32) s = true then cfgRefused (lineFields v s)
    else sendKept (lineSel 0 s) (setLine (lineSel 0 s) (lineArmed v s) (lineFields v s)) := by
  unfold lineCfgApply
  dsimp only
  rw [if_neg (by simp [he]), bitOf_lineMask, lineBad_setLine]
  refine if_congr ?_ rfl rfl
  simp

theorem lineChecked_spec (hw : s.tablesWf = true) : let refused (t : State) := reg rCFG_REFUSED t = satAdd (reg rCFG_REFUSED s) 1 ∧ (reg (rIrqRaw pBELL) t).getLsbD 3 = true
    (v &&& 0xFF3F#32 ||| 1#32 ≠ (lineAt (lineSel 0 s) s).cfg → refused (lineChecked v s))
      ∧ (v &&& 0xFF3F#32 ||| 1#32 = (lineAt (lineSel 0 s) s).cfg → (lineChecked v s).regs = s.regs)
      ∧ (lineChecked v s).lines = s.lines ∧ (lineChecked v s).stalls = s.stalls ∧ (lineChecked v s).tablesWf = true
      ∧ RegsKeep [rCFG_REFUSED, rIrqRaw pBELL] s (lineChecked v s) := by
  obtain ⟨-, h1, h2⟩ := cfgRefused_spec hw
  unfold lineChecked
  by_cases hne : v &&& 0xFF3F#32 ||| 1#32 ≠ (lineAt (lineSel 0 s) s).cfg
  · rw [if_pos hne]
    exact ⟨fun _ => ⟨h1, h2⟩, fun h => absurd h hne, rfl, rfl, (cfgRefused_keeps (.refl s)).tablesWf hw, irq_regsKeep (count_regsKeep (.refl s) (by simp)) (by simp)⟩
  · rw [if_neg hne]
    exact ⟨fun h => absurd h hne, fun _ => rfl, rfl, rfl, hw, .refl s⟩

theorem lineAt_of_lines {t : State} {m : Nat} (h : t.lines = s.lines) : lineAt m t = lineAt m s := congrArg (tget Line.idle m) h

theorem lineDisable_regs {n : Nat} : (lineDisable n s).regs = s.regs := (lineDisable_frame (ps := [.lines, .stalls]) (.refl s)) .regs (by decide)

theorem lineAt_lineDisable_ne {m n : Nat} (h : m ≠ n) : lineAt m (lineDisable n s) = lineAt m s :=
  (lineAt_of_lines lineDisable_lines).trans (lineAt_setLine_ne h)

theorem lineAt_lineDisable_self {n : Nat} (hw : s.tablesWf = true) : lineAt n (lineDisable n s) = { Line.idle with cfg := (lineAt n s).cfg &&& ~~~1#32 } :=
  (lineAt_of_lines lineDisable_lines).trans (lineAt_setLine_self (lines_wf hw))

theorem sendKept_lineAt {m n : Nat} : lineAt m (sendKept n s) = lineAt m s := lineAt_of_lines sendKept_lines

theorem sendKept_regsKeep {n : Nat} {but : List Nat} {r : State} (h : RegsKeep but r s) : RegsKeep but r (sendKept n s) :=
  h.frame (ps := [.links]) (sendKept_frame (.refl s))

/-- What a LINE_CFG write leaves of the other lines and of the registers. -/
theorem lineCfgApply_others (hw : s.tablesWf = true) : (∀ m, m ≠ lineSel 0 s → lineAt m (lineCfgApply 0 v s) = lineAt m s)
    ∧ RegsKeep [rCFG_REFUSED, rIrqRaw pBELL] s (lineCfgApply 0 v s) := by
  cases he : lEnable (lineAt (lineSel 0 s) s).cfg
  · rw [lineCfgApply_free he]
    have hfields {m : Nat} (hm : m ≠ lineSel 0 s) : lineAt m (lineFields v s) = lineAt m s := lineAt_setLine_ne hm
    split_ifs
    · exact ⟨fun m hm => hfields hm, .refl s⟩
    · exact ⟨fun m hm => hfields hm, irq_regsKeep (count_regsKeep (.refl s) (by simp)) (by simp)⟩
    · exact ⟨fun m hm => sendKept_lineAt.trans ((lineAt_setLine_ne hm).trans (hfields hm)), sendKept_regsKeep (.refl s)⟩
  · rw [lineCfgApply_enabled he]
    obtain ⟨-, -, hl, -, -, hr⟩ := lineChecked_spec (v := v) hw
    split
    · exact ⟨fun m _ => lineAt_of_lines hl, hr⟩
    · exact ⟨fun m hm => (lineAt_lineDisable_ne hm).trans (lineAt_of_lines hl), fun a ha => (congrArg (tget (regReset a) a) lineDisable_regs).trans (hr a ha)⟩

end

theorem lineConfiguration : Claims.LineConfiguration := by
  intro port master v s hw ho
  have hf (q : Place) : OnlyChanges [.setNow, .regs, .lines, .stalls, .links] (withReached q s) (lineCfgApply 0 v (withReached q s)) := lineCfgApply_frame (.refl _)
  refine answers_ownerWrite (addr := 0x0C06C) (v := v) (w := lineCfgApply 0 v) ho rfl rfl rfl (fun _ => rfl) (fun _ => rfl) (fun q => (hf q).requests_eq) fun q => ?_
  obtain ⟨hothers, hregs⟩ := lineCfgApply_others (v := v) (s := withReached q s) hw
  refine ⟨congrArg (· ++ _) (hf q).out_eq, hothers, hregs, present_withReached_frame ((hf q).mono (by decide)), fun he => ?_, fun he h0 => ?_, fun he h0 hbad => ?_,
    fun he h0 hgood => ?_⟩
  · rw [lineCfgApply_enabled (s := withReached q s) he]
    obtain ⟨h1, h2, hl, hst, hwf, -⟩ := lineChecked_spec (v := v) (s := withReached q s) hw
    have hreg (n : Nat) : reg rCFG_REFUSED (lineDisable n (lineChecked v (withReached q s))) = reg rCFG_REFUSED (lineChecked v (withReached q s))
        ∧ reg (rIrqRaw pBELL) (lineDisable n (lineChecked v (withReached q s))) = reg (rIrqRaw pBELL) (lineChecked v (withReached q s)) :=
      ⟨congrArg (tget _ _) lineDisable_regs, congrArg (tget _ _) lineDisable_regs⟩
    cases h0 : bitOf v 0
    · rw [if_neg (by decide)]
      obtain ⟨hc, hi⟩ := hreg (lineSel 0 (withReached q s))
      refine ⟨fun hne => ⟨hc.trans (h1 hne).1, (congrArg (BitVec.getLsbD · 3) hi).trans (h1 hne).2⟩, fun heq => lineDisable_regs.trans (h2 heq), fun h => (by cases h), fun _ =>
        ⟨?_, fun m hn hin => lineDisable_bellLow hwf hn ?_⟩⟩
      · have hself := lineAt_lineDisable_self (n := lineSel 0 s) hwf
        rw [lineAt_of_lines hl] at hself
        exact hself
      · rw [stallAt, hst]
        exact hin
    · rw [if_pos rfl]
      exact ⟨h1, h2, fun _ => hl, fun h => (by cases h)⟩
  · rw [lineCfgApply_free (s := withReached q s) he, if_pos h0, lineFields, and_not_one_of_clear (bitOf_lineMask.trans h0)]
    exact ⟨lineAt_setLine_self (s := withReached q s) (lines_wf hw), rfl⟩
  · have hbad : LineRefused (lineSel 0 (withReached q s)) (v &&& 0xFF3F#32) (withReached q s) := hbad
    rw [lineCfgApply_free (s := withReached q s) he, if_neg (by simp [h0]), if_pos (lineBad_iff.mpr hbad)]
    have hwf : (lineFields v (withReached q s)).tablesWf = true := (setLine_keeps (s := withReached q s) (.refl _)).tablesWf hw
    obtain ⟨-, h1, h2⟩ := cfgRefused_spec hwf
    exact ⟨lineAt_setLine_self (s := withReached q s) (lines_wf hw), h1, h2⟩
  · have hgood : ¬LineRefused (lineSel 0 (withReached q s)) (v &&& 0xFF3F#32) (withReached q s) := hgood
    rw [lineCfgApply_free (s := withReached q s) he, if_neg (by simp [h0]), if_neg (fun h => hgood (lineBad_iff.mp h))]
    have hwf : (lineFields v (withReached q s)).tablesWf = true := (setLine_keeps (s := withReached q s) (.refl _)).tablesWf hw
    have hline : lineAt (lineSel 0 s) (sendKept (lineSel 0 s) (setLine (lineSel 0 s) (lineArmed v s) (lineFields v (withReached q s)))) = lineArmed v s :=
      sendKept_lineAt.trans (lineAt_setLine_self (lines_wf hwf))
    have hregs : (sendKept (lineSel 0 s) (setLine (lineSel 0 s) (lineArmed v s) (lineFields v (withReached q s)))).regs = s.regs := sendKept_regs
    exact ⟨congrArg Line.cfg hline, congrArg Line.armed hline, congrArg Line.gen hline, congrArg Line.ondie hline, congrArg Line.maps hline, hregs⟩

/-! ### Credits, weights and caps of a ring port (R297, R440) -/

section
variable {s : State} {p i off : Nat} {v : Word} {port master : Nat}

/-- A write of a ring port's credits, weights or caps. -/
theorem answers_ringCredit {P : State → Prop} (hp : hasPort p s = true) (hp8 : p < 8) (hoff : (0x060 ≤ off ∧ off ≤ 0x078) ∨ (0x080 ≤ off ∧ off ≤ 0x08C)) (h4 : off % 4 = 0)
    (ho : OwnerTurn port master (.ringCreditWrite (.mgmt port master) p off v) s)
    (hP : ∀ q, P (present (.mgmtRsp port master 0#32 false) (ringCreditApply p off v (withReached q s)))) : Answers (.ringCreditWrite (.mgmt port master) p off v) s P := by
  have hpage (q : Place) : pageExists (pRING p) (withReached q s) = true := by
    interval_cases p <;> exact hp
  have hwrite (q : Place) : pageWrite (some (port, master)) 0 (pRING p) off v (withReached q s) = ringCreditApply p off v (withReached q s) := by
    have hring : pageWrite (some (port, master)) 0 (pRING p) off v (withReached q s) = ringWrite (pRING p) off v (withReached q s) := by
      interval_cases p <;> rfl
    have hnum : pRING p - 0x18 = p := by unfold pRING; omega
    rw [hring, ringWrite, if_neg (by omega), if_pos hoff, hnum]
  exact answers_ownerWrite (w := ringCreditApply p off v) ho (if_pos hp8) rfl (badAddr_pageAddr h4) (fun _ => rfl)
    (fun q => (writeReg_pageAddr (by unfold pRING; omega) (by omega) (hpage q)).trans (hwrite q))
    (fun q => (ringCreditApply_frame (ps := [.setNow, .regs, .log]) (.refl (withReached q s))).requests_eq) hP

/-- The credits of a port's other channels. -/
def otherCredits (p i : Nat) (s : State) : Nat := (((List.range 4).filter fun j => j != i).map fun j => regNat (rCREDIT p j) s).sum

theorem ringCreditApply_credit (hi : i < 4) : ringCreditApply p (0x060 + 4 * i) v s = if 2048 < otherCredits p i s + fieldOf v 0 12
    then logFault ⟨0x29, clsNotice, ringSource p, none, some (pRING p)⟩ s else setReg (rCREDIT p i) (BitVec.ofNat 32 (fieldOf v 0 12)) s := by
  have haddr : pageBase (pRING p) + (0x060 + 4 * i) = rCREDIT p i := by unfold rCREDIT; omega
  have hfilter : (fun j : Nat => 0x060 + 4 * j != 0x060 + 4 * i) = fun j => j != i := by
    funext j
    rw [Bool.eq_iff_iff, bne_iff_ne, bne_iff_ne]
    omega
  unfold ringCreditApply
  dsimp only
  rw [if_pos (by omega), haddr, hfilter]
  rfl

theorem creditWriting (hw : s.tablesWf = true) (hroom : LogRoom s) (hp : hasPort p s = true) (hp8 : p < 8) (hi : i < 4)
    (ho : OwnerTurn port master (.ringCreditWrite (.mgmt port master) p (0x060 + 4 * i) v) s) :
    Answers (.ringCreditWrite (.mgmt port master) p (0x060 + 4 * i) v) s fun t => Answered port master 0#32 s t ∧
      (if 2048 < otherCredits p i s + fieldOf v 0 12 then reg (rCREDIT p i) t = reg (rCREDIT p i) s ∧ Logged 0x29 0 (source 2 p) s t
       else regNat (rCREDIT p i) t = fieldOf v 0 12 ∧ RegsKeep [rCREDIT p i] s t ∧ t.log = s.log) ∧ OnlyChanges [.reached, .regs, .setNow, .log, .out] s t := by
  have hf (q : Place) : OnlyChanges [.setNow, .regs, .log] (withReached q s) (ringCreditApply p (0x060 + 4 * i) v (withReached q s)) := ringCreditApply_frame (.refl _)
  refine answers_ringCredit hp hp8 (by omega) (by omega) ho fun q =>
    ⟨congrArg (· ++ _) (hf q).out_eq, ?_, present_withReached_frame ((hf q).mono (by decide))⟩
  have hsum : otherCredits p i (withReached q s) = otherCredits p i s := rfl
  rw [ringCreditApply_credit hi, hsum]
  by_cases hover : 2048 < otherCredits p i s + fieldOf v 0 12
  · rw [if_pos hover, if_pos hover]
    have hlog : Logged 0x29 0 (source 2 p) (withReached q s) (logFault ⟨0x29, clsNotice, ringSource p, none, some (pRING p)⟩ (withReached q s)) :=
      logFault_logged hroom (.inl (show 0x29 < 0x30 by decide))
    have hreg : reg (rCREDIT p i) (logFault ⟨0x29, clsNotice, ringSource p, none, some (pRING p)⟩ (withReached q s)) = reg (rCREDIT p i) (withReached q s) := by
      refine reg_logFault_ne ?_
      simp only [entryPage, Option.getD_some, logRegs, rErrCode, rErrCount, rOVERRUN, rIrqRaw, pageBase, pERRLOG, rCREDIT, pRING, List.mem_cons, List.not_mem_nil, or_false]
      omega
    generalize logFault _ (withReached q s) = u at hlog hreg ⊢
    exact ⟨hreg, hlog.of_eq rfl rfl rfl⟩
  · rw [if_neg hover, if_neg hover]
    obtain ⟨h1, h2, -, -⟩ := setReg_writes (port := port) (master := master) (a := rCREDIT p i) (v := BitVec.ofNat 32 (fieldOf v 0 12)) (q := q) hw
    refine ⟨(congrArg BitVec.toNat h1).trans ?_, h2, rfl⟩
    have hlt : fieldOf v 0 12 < 2 ^ 12 := fieldOf_lt (n := 12)
    rw [BitVec.toNat_ofNat]
    omega

/-- A weight or a cap: the register takes a number. -/
theorem limitWriting {n : Nat} (hw : s.tablesWf = true) (hp : hasPort p s = true) (hp8 : p < 8) (hn : n < 2 ^ 32) (hoff : (0x070 ≤ off ∧ off ≤ 0x078) ∨ (0x080 ≤ off ∧ off ≤ 0x08C))
    (h4 : off % 4 = 0) (ho : OwnerTurn port master (.ringCreditWrite (.mgmt port master) p off v) s)
    (hset : ∀ t, ringCreditApply p off v t = setReg (pageBase (pRING p) + off) (BitVec.ofNat 32 n) t) :
    Answers (.ringCreditWrite (.mgmt port master) p off v) s fun t => regNat (pageBase (pRING p) + off) t = n
      ∧ RegsKeep [pageBase (pRING p) + off] s t ∧ Answered port master 0#32 s t ∧ OnlyChanges [.reached, .regs, .out] s t := by
  refine answers_ringCredit hp hp8 (by omega) h4 ho fun q => ?_
  rw [hset]
  obtain ⟨h1, h2⟩ := setReg_writes (port := port) (master := master) (a := pageBase (pRING p) + off) (v := BitVec.ofNat 32 n) (q := q) hw
  exact ⟨(congrArg BitVec.toNat h1).trans (by rw [BitVec.toNat_ofNat, Nat.mod_eq_of_lt hn]), h2⟩

end

theorem ringCredits : Claims.RingCredits := by
  intro port master p i v s hw hroom hp hp8
  have hweight : fieldOf v 0 4 < 2 ^ 4 := fieldOf_lt (n := 4)
  refine ⟨fun hi ho => creditWriting hw hroom hp hp8 hi ho, fun hi ho => ?_, fun hi ho => ?_⟩
  · refine (limitWriting (n := max 1 (fieldOf v 0 4)) hw hp hp8 (by omega) (by omega) (by omega) ho fun t => ?_).imp fun t h => by rwa [← Nat.add_assoc] at h
    exact (if_neg (by omega)).trans (if_pos (by omega))
  · refine (limitWriting (n := min 256 (max 1 (fieldOf v 0 9))) hw hp hp8 (by omega) (by omega) (by omega) ho fun t => ?_).imp fun t h => by rwa [← Nat.add_assoc] at h
    exact (if_neg (by omega)).trans (if_neg (by omega))

/-- Settles O31: a line's configuration and a port's credits change as R321 and R297 allow. -/
theorem linesAndCredits : Obligations.LinesAndCredits := ⟨lineConfiguration, ringCredits⟩

end Sys2Proof.Machine
end

section
/-! PROOF. The boundary of a transit: what ends it, the time that passes, and the first edge of the next (R213 to R220, R225, R351). -/

namespace Sys2Proof.Machine

-- The inclusions that frames ask for are auto parameters, whose code is compiled: with proofs elaborated in order no thread waits for it.
set_option Elab.async false

section
variable {r s : State} {ps : List Part}

theorem memTry_frame {write urgent : Bool} {addr sectors hint : Nat} {p : Purpose} {data : List Byte} (h : OnlyChanges ps r s)
    (hq : [.found, .mem, .counts, .out] ⊆ ps := by decide) : OnlyChanges ps r (memTry write urgent addr sectors hint p data s) := by
  refine h.then (ps := [.found, .mem, .counts, .out]) ?_ hq
  unfold memTry memIssue
  split
  · exact OnlyChanges.refl s
  · split
    · exact OnlyChanges.refl s
    · split
      · exact findDue_frame (OnlyChanges.refl s)
      · exact OnlyChanges.next (ps := [.found, .mem, .counts, .out]) (OnlyChanges.refl s) fun p hp => by
          cases p <;> simp [Part.same, perfLater, presentAll, present] at hp ⊢ <;> split <;> rfl

theorem withOp_frame {id : OpId} {f : Op → State → State} (hf : ∀ o s, OnlyChanges ps r s → OnlyChanges ps r (f o s)) (h : OnlyChanges ps r s) :
    OnlyChanges ps r (withOp id f s) := by
  unfold withOp
  split
  · exact h
  · exact hf _ _ h

theorem withRunning_frame {id : OpId} {f : Op → State → State} (hf : ∀ o s, OnlyChanges ps r s → OnlyChanges ps r (f o s)) (h : OnlyChanges ps r s) :
    OnlyChanges ps r (withRunning id f s) :=
  withOp_frame (fun o s h1 => .ite (hf o s h1) h1) h

theorem countDn_frame {stalls : List Nat} (h : OnlyChanges ps r s) (hq : [.stalls] ⊆ ps := by decide) : OnlyChanges ps r (countDn stalls s) :=
  h.then (ps := [.stalls]) (.foldl (OnlyChanges.refl s) fun _ _ h1 => setStall_frame h1) hq
theorem presentBeat_frame {id : OpId} {t : Nat} {b : DnBeat} (h : OnlyChanges ps r s) (hq : [.ops, .counts, .stalls, .out] ⊆ ps := by decide) : OnlyChanges ps r (presentBeat id t b s) :=
  h.then (ps := [.ops, .counts, .stalls, .out]) (withOp_frame (fun _ _ h1 => setOp_frame (perfLater_frame (countDn_frame (present_frame h1))))
      (OnlyChanges.refl s)) hq
theorem planeCycle_frame {p : Nat} {t : Nat} (h : OnlyChanges ps r s) (hq : [.planes, .out, .setNow, .regs, .ops, .counts, .stalls] ⊆ ps := by decide) : OnlyChanges ps r (planeCycle p t s) := by
  refine h.then (ps := [.planes, .out, .setNow, .regs, .ops, .counts, .stalls]) ?_ hq
  unfold planeCycle
  dsimp only
  split
  · exact .unless (.unless (setPlane_frame (OnlyChanges.refl s)) fun h2 => present_frame h2) fun h1 => irq_frame (present_frame h1)
  · split
    · exact OnlyChanges.refl s
    · exact presentBeat_frame (setPlane_frame (OnlyChanges.refl s))

theorem planeRun_frame {f p stop : Nat} (h : OnlyChanges ps r s) (hq : [.planes, .out, .setNow, .regs, .ops, .counts, .stalls] ⊆ ps := by decide) :
    OnlyChanges ps r (planeRun f p stop s) := by
  induction f generalizing s with
  | zero => exact h
  | succ f ih =>
    unfold planeRun
    split
    · exact h
    · exact .ite h (ih (planeCycle_frame h hq))

end
section
variable {r s : State} {ps : List Part}

theorem crierRun_frame {stop : Nat} (h : OnlyChanges ps r s) (hq : [.planes, .out, .setNow, .regs, .ops, .counts, .stalls] ⊆ ps := by decide) : OnlyChanges ps r (crierRun stop s) :=
  h.then (ps := [.planes, .out, .setNow, .regs, .ops, .counts, .stalls]) (.foldl (OnlyChanges.refl s) fun _ _ h1 => planeRun_frame h1) hq
theorem holdsEdge_frame (h : OnlyChanges ps r s) (hq : [.ops] ⊆ ps := by decide) : OnlyChanges ps r (holdsEdge s) :=
  h.then (ps := [.ops]) (OnlyChanges.next (ps := [.ops]) (OnlyChanges.refl s) fun p hp => by cases p <;> simp [Part.same, holdsEdge] at hp ⊢) hq
theorem countsEdge_frame (h : OnlyChanges ps r s) (hq : [.counts, .regs, .setNow] ⊆ ps := by decide) : OnlyChanges ps r (countsEdge s) :=
  h.then (ps := [.counts, .regs, .setNow]) (.foldl (OnlyChanges.next (ps := [.counts]) (OnlyChanges.refl s) fun p hp => by cases p <;> simp [Part.same] at hp ⊢) fun _ _ h1 => .ite (perf_frame h1) (perf64_frame h1)) hq
theorem countTransit_frame (h : OnlyChanges ps r s) (hq : [.regs, .setNow] ⊆ ps := by decide) : OnlyChanges ps r (countTransit s) :=
  h.then (ps := [.regs, .setNow]) (perf_frame (perf_frame (perf_frame (perf_frame (perf_frame (perf_frame (.when (.ite (OnlyChanges.refl s)
      (count_frame (OnlyChanges.refl s))) fun h1 => count_frame h1))))))) hq
theorem lockRecord_frame (h : OnlyChanges ps r s) (hq : [.regs, .mer] ⊆ ps := by decide) : OnlyChanges ps r (lockRecord s) :=
  h.then (ps := [.regs, .mer]) (.ite (setReg64_frame (OnlyChanges.next (ps := [.mer]) (OnlyChanges.refl s) fun p hp => by cases p <;> simp [Part.same] at hp ⊢)) (OnlyChanges.refl s)) hq
theorem delaySlew_frame (h : OnlyChanges ps r s) (hq : [.mer, .regs, .out, .links, .setNow] ⊆ ps := by decide) : OnlyChanges ps r (delaySlew s) :=
  h.then (ps := [.mer, .regs, .out, .links, .setNow]) (.ite (OnlyChanges.refl s) (.when (OnlyChanges.next (ps := [.mer]) (OnlyChanges.refl s) fun p hp => by cases p <;> simp [Part.same] at hp ⊢) fun h1 => delaySlewEnds_frame h1)) hq
theorem epochEdge_frame (h : OnlyChanges ps r s) (hq : [.mer, .regs] ⊆ ps := by decide) : OnlyChanges ps r (epochEdge s) := by
  refine h.then (ps := [.mer, .regs]) ?_ hq
  have hmer {m : Meridian} {t : State} (ht : OnlyChanges [.mer, .regs] s t) : OnlyChanges [.mer, .regs] s { t with mer := m } :=
    OnlyChanges.next (ps := [.mer]) ht fun p hp => by cases p <;> simp [Part.same] at hp ⊢
  unfold epochEdge
  cases s.mer.epochFclk with
  | none => exact .ite (OnlyChanges.refl s) (hmer (OnlyChanges.refl s))
  | some f => exact .ite (OnlyChanges.refl s) (hmer (setReg_frame (OnlyChanges.refl s)))
theorem detectorBoundary_frame (h : OnlyChanges ps r s) (hq : [.mer] ⊆ ps := by decide) : OnlyChanges ps r (detectorBoundary s) :=
  h.then (ps := [.mer]) (.foldl (.ite (OnlyChanges.refl s) (OnlyChanges.next (ps := [.mer]) (OnlyChanges.refl s) fun p hp => by cases p <;> simp [Part.same] at hp ⊢)) fun _ _ h1 => OnlyChanges.next (ps := [.mer]) h1 fun p hp => by cases p <;> simp [Part.same] at hp ⊢) hq
/-- The parts of what a fabric-fatal fault ends (R351): links, lines, stalls, planes, queues, and all that is under way. -/
def linksLost (s : State) : State := s.links.foldl (fun s p => changeLink p.1 linkInReset s) s
def linesLost (s : State) : State := s.lines.foldl (fun s p => setLine p.1 { Line.idle with cfg := p.2.cfg } s) s
def stallsLost (s : State) : State := s.stalls.foldl (fun s p => setStall p.1 { p.2 with bellIn := 0#16, bellLow := 0#16, pend := none, dropTags := [] } s) s
def planesLost (s : State) : State :=
  s.planes.foldl (fun s p => setPlane p.1 { p.2 with pool := [], dnNext := 0, recalls := [], lastDn := none, exchNext := 0, nextChild := [] } s) s
def queuesLost (s : State) : State := s.queues.foldl (fun s q => setQueue q.1 { q.2 with fetched := [], records := [], badRecords := [] } s) s
def servicesCleared (s : State) : State :=
  { s with clock := { s.clock with due := [], found := [] }, ops := [], late := [], pageWait := [], ledgers := [], verdicts := [], mem := [], memLate := [], injected := none, tabs := { s.tabs with tallies := [] } }

theorem serviceLost_eq : serviceLost s = servicesCleared (queuesLost (planesLost (stallsLost (linesLost (linksLost s))))) := rfl

theorem linksLost_frame (h : OnlyChanges ps r s) (hq : [.links, .setNow, .regs] ⊆ ps := by decide) : OnlyChanges ps r (linksLost s) :=
  h.then (ps := [.links, .setNow, .regs]) (.foldl (OnlyChanges.refl s) fun _ _ h1 => changeLink_frame h1) hq
theorem linesLost_frame (h : OnlyChanges ps r s) (hq : [.lines] ⊆ ps := by decide) : OnlyChanges ps r (linesLost s) :=
  h.then (ps := [.lines]) (.foldl (OnlyChanges.refl s) fun _ _ h1 => setLine_frame h1) hq
theorem stallsLost_frame (h : OnlyChanges ps r s) (hq : [.stalls] ⊆ ps := by decide) : OnlyChanges ps r (stallsLost s) :=
  h.then (ps := [.stalls]) (.foldl (OnlyChanges.refl s) fun _ _ h1 => setStall_frame h1) hq
theorem planesLost_frame (h : OnlyChanges ps r s) (hq : [.planes] ⊆ ps := by decide) : OnlyChanges ps r (planesLost s) :=
  h.then (ps := [.planes]) (.foldl (OnlyChanges.refl s) fun _ _ h1 => setPlane_frame h1) hq
theorem queuesLost_frame (h : OnlyChanges ps r s) (hq : [.queues] ⊆ ps := by decide) : OnlyChanges ps r (queuesLost s) :=
  h.then (ps := [.queues]) (.foldl (OnlyChanges.refl s) fun _ _ h1 => setQueue_frame h1) hq
theorem servicesCleared_frame (h : OnlyChanges ps r s) (hq : [.due, .found, .tallies, .mem, .memLate, .verdicts, .ledgers, .ops, .late, .pageWait, .injected] ⊆ ps := by decide) :
    OnlyChanges ps r (servicesCleared s) :=
  h.then (ps := [.due, .found, .tallies, .mem, .memLate, .verdicts, .ledgers, .ops, .late, .pageWait, .injected])
    (OnlyChanges.next (ps := [.due, .found, .tallies, .mem, .memLate, .verdicts, .ledgers, .ops, .late, .pageWait, .injected]) (OnlyChanges.refl s)
      fun p hp => by cases p <;> simp [Part.same, servicesCleared] at hp ⊢) hq
theorem paceEdge_frame (h : OnlyChanges ps r s) (hq : [.links] ⊆ ps := by decide) : OnlyChanges ps r (paceEdge s) :=
  h.then (ps := [.links]) (.foldl (OnlyChanges.refl s) fun _ _ h1 => .ite h1 (setLink_frame h1)) hq
theorem ownerEdge_frame (h : OnlyChanges ps r s) (hq : [.owner, .setNow, .regs] ⊆ ps := by decide) : OnlyChanges ps r (ownerEdge s) := by
  refine h.then (ps := [.owner, .setNow, .regs]) ?_ hq
  have howner {o : Owner} {t : State} (ht : OnlyChanges [.owner, .setNow, .regs] s t) : OnlyChanges [.owner, .setNow, .regs] s { t with owner := o } :=
    OnlyChanges.next (ps := [.owner]) ht fun p hp => by cases p <;> simp [Part.same] at hp ⊢
  unfold ownerEdge
  cases s.owner.next with
  | none => exact howner (OnlyChanges.refl s)
  | some x => exact howner (newOwner_frame (OnlyChanges.refl s))
theorem planePortsReset_frame {p : Nat} (h : OnlyChanges ps r s) (hq : [.stalls] ⊆ ps := by decide) : OnlyChanges ps r (planePortsReset p s) :=
  h.then (ps := [.stalls]) (.foldl (OnlyChanges.refl s) fun _ _ h1 => .ite (setStall_frame h1) h1) hq
theorem planeSoftReset_frame {p : Nat} (h : OnlyChanges ps r s) (hq : [.stalls, .planes, .regs, .setNow, .log] ⊆ ps := by decide) : OnlyChanges ps r (planeSoftReset p s) :=
  h.then (ps := [.stalls, .planes, .regs, .setNow, .log]) (.ite (planePortsReset_frame (setPlane_frame (setReg_frame (OnlyChanges.refl s))))
      (powerRefuse_frame (OnlyChanges.refl s))) hq
theorem softResetAct_frame {page : Nat} (h : OnlyChanges ps r s) (hq : [.stalls, .planes, .regs, .setNow, .log, .steward] ⊆ ps := by decide) : OnlyChanges ps r (softResetAct page s) := by
  refine h.then (ps := [.stalls, .planes, .regs, .setNow, .log, .steward]) ?_ hq
  unfold softResetAct
  split
  · exact planeSoftReset_frame (OnlyChanges.refl s)
  · exact OnlyChanges.refl s
  · exact .ite (powerRefuse_frame (OnlyChanges.refl s)) (.ite (stewardStart_frame (OnlyChanges.refl s)) (OnlyChanges.refl s))
  · exact powerRefuse_frame (OnlyChanges.refl s)
theorem softResetEdge_frame (h : OnlyChanges ps r s) (hq : [.stalls, .planes, .regs, .setNow, .log, .steward] ⊆ ps := by decide) : OnlyChanges ps r (softResetEdge s) :=
  h.then (ps := [.stalls, .planes, .regs, .setNow, .log, .steward]) (.foldl (OnlyChanges.refl s) fun _ _ h1 => .ite (softResetAct_frame (setReg_frame
      h1)) h1) hq
theorem planePdEdge_frame {p : Nat} (h : OnlyChanges ps r s) (hq : [.stalls, .setNow, .regs, .planes] ⊆ ps := by decide) : OnlyChanges ps r (planePdEdge s p) := by
  refine h.then (ps := [.stalls, .setNow, .regs, .planes]) ?_ hq
  unfold planePdEdge
  dsimp only
  split
  · exact OnlyChanges.refl s
  · exact planePortsReset_frame (setPower_frame (setPlane_frame (OnlyChanges.refl s)))
  · exact .when (setPlane_frame (OnlyChanges.refl s)) fun h1 => setPower_frame h1
theorem fenceEdge_frame (h : OnlyChanges ps r s) (hq : [.clock, .setNow, .regs] ⊆ ps := by decide) : OnlyChanges ps r (fenceEdge s) :=
  h.then (ps := [.clock, .setNow, .regs]) (setFenced_frame (OnlyChanges.refl s)) hq
theorem powerEdge_frame (h : OnlyChanges ps r s) (hq : [.stalls, .planes, .regs, .setNow, .log, .steward, .clock] ⊆ ps := by decide) : OnlyChanges ps r (powerEdge s) :=
  h.then (ps := [.stalls, .planes, .regs, .setNow, .log, .steward, .clock]) (softResetEdge_frame (.foldl (fenceEdge_frame (OnlyChanges.refl s)) fun _
      _ h1 => planePdEdge_frame h1)) hq
theorem sourceEdge_frame (h : OnlyChanges ps r s) (hq : [.setNow, .regs, .log, .mer] ⊆ ps := by decide) : OnlyChanges ps r (sourceEdge s) :=
  h.then (ps := [.setNow, .regs, .log, .mer]) (.ite (setMerState_frame (OnlyChanges.refl s)) (.ite (setMerState_frame (OnlyChanges.refl s))
      (OnlyChanges.refl s))) hq
theorem setPhase_frame {n : Nat} (h : OnlyChanges ps r s) (hq : [.clock, .regs] ⊆ ps := by decide) : OnlyChanges ps r (setPhase n s) :=
  h.then (ps := [.clock, .regs]) (OnlyChanges.next (ps := [.clock]) (t := setReg rCFG_STATUS (reg rCFG_STATUS s &&& ~~~3840#32 ||| BitVec.ofNat 32 (n * 256)) s) (setReg_frame (OnlyChanges.refl s)) fun p hp => by cases p <;> simp [Part.same, setPhase] at hp ⊢) hq
theorem readyNow_frame (h : OnlyChanges ps r s) (hq : [.setNow, .regs, .clock] ⊆ ps := by decide) : OnlyChanges ps r (readyNow s) :=
  h.then (ps := [.setNow, .regs, .clock]) (orReg_frame (orReg_frame (setPhase_frame (OnlyChanges.next (ps := [.clock]) (OnlyChanges.refl s) fun p hp => by cases p <;> simp [Part.same] at hp ⊢)))) hq
theorem bootRead_frame {base : Nat} {have' : Nat} {total : Nat} {p : Purpose} (h : OnlyChanges ps r s) (hq : [.found, .mem, .counts, .out] ⊆ ps := by decide) : OnlyChanges ps r (bootRead base have' total p s) :=
  h.then (ps := [.found, .mem, .counts, .out]) (.ite (OnlyChanges.refl s) (memTry_frame (OnlyChanges.refl s))) hq
theorem bootIssue_frame (h : OnlyChanges ps r s) (hq : [.found, .mem, .counts, .out] ⊆ ps := by decide) : OnlyChanges ps r (bootIssue s) :=
  h.then (ps := [.found, .mem, .counts, .out]) (.ite (bootRead_frame (OnlyChanges.refl s)) (.ite (bootRead_frame (OnlyChanges.refl s))
      (OnlyChanges.refl s))) hq
theorem afterImage_frame (h : OnlyChanges ps r s) (hq : [.clock, .regs, .boot] ⊆ ps := by decide) : OnlyChanges ps r (afterImage s) :=
  h.then (ps := [.clock, .regs, .boot]) (setPhase_frame (OnlyChanges.next (ps := [.boot]) (OnlyChanges.refl s) fun p hp => by cases p <;> simp [Part.same] at hp ⊢)) hq
theorem cfgBit_frame {i : Nat} (h : OnlyChanges ps r s) (hq : [.regs] ⊆ ps := by decide) : OnlyChanges ps r (cfgBit i s) :=
  h.then (ps := [.regs]) (setReg_frame (OnlyChanges.refl s)) hq
theorem defaultsNow_frame {code : Nat} (h : OnlyChanges ps r s) (hq : [.setNow, .regs, .log] ⊆ ps := by decide) : OnlyChanges ps r (defaultsNow code s) :=
  h.then (ps := [.setNow, .regs, .log]) (absentIrq_frame (irq_frame (cfgBit_frame (notice_frame (OnlyChanges.refl s))))) hq
theorem imageCheck_frame (h : OnlyChanges ps r s) (hq : [.boot, .clock, .regs, .setNow, .log] ⊆ ps := by decide) : OnlyChanges ps r (imageCheck s) :=
  h.then (ps := [.boot, .clock, .regs, .setNow, .log]) (.ite (OnlyChanges.refl s) (.ite (OnlyChanges.next (ps := [.boot]) (OnlyChanges.refl s) fun p hp => by cases p <;> simp [Part.same] at hp ⊢) (afterImage_frame (defaultsNow_frame (OnlyChanges.refl s))))) hq
theorem firmwarePhase_frame (h : OnlyChanges ps r s) (hq : [.regs, .steward, .setNow, .log] ⊆ ps := by decide) : OnlyChanges ps r (firmwarePhase s) :=
  h.then (ps := [.regs, .steward, .setNow, .log]) (.ite (cfgBit_frame (stewardStart_frame (setReg_frame (OnlyChanges.next (ps := [.steward]) (OnlyChanges.refl s) fun p hp => by cases p <;> simp [Part.same] at hp ⊢)))) (irq_frame (setStewardState_frame (orReg_frame (notice_frame (OnlyChanges.refl s)))))) hq
theorem trainStart_frame {port : Nat} (h : OnlyChanges ps r s) (hq : [.links, .setNow, .regs] ⊆ ps := by decide) : OnlyChanges ps r (trainStart port s) :=
  h.then (ps := [.links, .setNow, .regs]) (changeLink_frame (OnlyChanges.refl s)) hq
theorem retrainApply_frame {port : Nat} (h : OnlyChanges ps r s) (hq : [.links, .setNow, .regs] ⊆ ps := by decide) : OnlyChanges ps r (retrainApply port s) :=
  h.then (ps := [.links, .setNow, .regs]) (.ite (trainStart_frame (OnlyChanges.refl s)) (OnlyChanges.refl s)) hq
theorem trainPhase_frame (h : OnlyChanges ps r s) (hq : [.clock, .regs, .links, .setNow] ⊆ ps := by decide) : OnlyChanges ps r (trainPhase s) :=
  h.then (ps := [.clock, .regs, .links, .setNow]) (.foldl (setPhase_frame (OnlyChanges.refl s)) fun _ _ h1 => retrainApply_frame h1) hq
theorem phaseEdge_frame (h : OnlyChanges ps r s) (hq : [.setNow, .regs, .clock, .log, .mer, .found, .mem, .counts, .out, .boot, .steward, .links] ⊆ ps := by decide) : OnlyChanges ps r (phaseEdge s) := by
  refine h.then (ps := [.setNow, .regs, .clock, .log, .mer, .found, .mem, .counts, .out, .boot, .steward, .links]) ?_ hq
  unfold phaseEdge
  dsimp only
  refine .ite (OnlyChanges.refl s) ?_
  refine .ite (readyNow_frame (sourceEdge_frame (OnlyChanges.refl s))) ?_
  split
  · exact bootIssue_frame (imageCheck_frame (sourceEdge_frame (OnlyChanges.refl s)))
  · exact .ite (setPhase_frame (firmwarePhase_frame (sourceEdge_frame (OnlyChanges.refl s)))) (bootIssue_frame (sourceEdge_frame (OnlyChanges.refl
        s)))
  · exact .when (sourceEdge_frame (OnlyChanges.refl s)) fun h1 => trainPhase_frame h1
  · exact .when (sourceEdge_frame (OnlyChanges.refl s)) fun h2 => setPhase_frame h2
  · exact sourceEdge_frame (OnlyChanges.refl s)
theorem queuesEdge_frame (h : OnlyChanges ps r s) (hq : [.queues] ⊆ ps := by decide) : OnlyChanges ps r (queuesEdge s) :=
  h.then (ps := [.queues]) (.foldl (OnlyChanges.refl s) fun _ _ h1 => .ite (setQueue_frame h1) h1) hq
theorem bellInEdge_frame (h : OnlyChanges ps r s) (hq : [.stalls] ⊆ ps := by decide) : OnlyChanges ps r (bellInEdge s) :=
  h.then (ps := [.stalls]) (.foldl (.foldl (OnlyChanges.refl s) fun _ _ h2 => .ite h2 (setStall_frame h2)) fun _ _ h1 => .foldl h1 fun _ _ h3 =>
      setStall_frame h3) hq
theorem linesEdge_frame (h : OnlyChanges ps r s) (hq : [.stalls, .due] ⊆ ps := by decide) : OnlyChanges ps r (linesEdge s) :=
  h.then (ps := [.stalls, .due]) (.foldl (bellInEdge_frame (OnlyChanges.refl s)) fun _ _ h1 => OnlyChanges.next (ps := [.due]) h1 fun p hp => by cases p <;> simp [Part.same] at hp ⊢) hq
/-- What a first edge does of held ADDs: deliveries that are over are forgotten, and each port's first ADD looks at what it waits for (R319). -/
def showingsDelivered (s : State) : State :=
  s.links.foldl (fun s p => if p.2.showing.isEmpty then s else setLink p.1 { p.2 with showing := p.2.showing.filter fun x => !deliveredBy s x.how } s) s
def headAddsReady (s : State) : State :=
  s.links.foldl (fun s p => match p.2.adds with
    | [] => s
    | a :: rest => setLink p.1 { p.2 with adds := { a with ready := a.waits.all (pathDrained s) } :: rest } s) s
def addsCounted (s : State) : State := { s with clock := { s.clock with addsHeld := addsPending s } }

theorem addsEdge_eq : addsEdge s = addsCounted (headAddsReady (showingsDelivered s)) := rfl

theorem showingsDelivered_frame (h : OnlyChanges ps r s) (hq : [.links] ⊆ ps := by decide) : OnlyChanges ps r (showingsDelivered s) :=
  h.then (ps := [.links]) (.foldl (OnlyChanges.refl s) fun _ _ h1 => .ite h1 (setLink_frame h1)) hq
theorem headAddsReady_frame (h : OnlyChanges ps r s) (hq : [.links] ⊆ ps := by decide) : OnlyChanges ps r (headAddsReady s) := by
  refine h.then (ps := [.links]) (.foldl (OnlyChanges.refl s) fun t p h1 => ?_) hq
  cases p.2.adds with
  | nil => exact h1
  | cons a rest => exact setLink_frame h1
theorem addsEdge_frame (h : OnlyChanges ps r s) (hq : [.clock, .links] ⊆ ps := by decide) : OnlyChanges ps r (addsEdge s) :=
  OnlyChanges.next (ps := [.clock]) (headAddsReady_frame (showingsDelivered_frame h (List.Subset.trans (by decide) hq)) (List.Subset.trans (by decide) hq))
    (fun p hp => by cases p <;> simp [Part.same, addsEdge_eq, addsCounted] at hp ⊢) (List.Subset.trans (by decide) hq)

end

end Sys2Proof.Machine
end

section
/-! PROOF. What the boundary of a transit keeps and advances (R213 to R220, R225). -/

namespace Sys2Proof.Machine

-- The inclusions that frames ask for are auto parameters, whose code is compiled: with proofs elaborated in order no thread waits for it.
set_option Elab.async false

/-! ### Steps that leave time and the order of the transit as they are -/

/-- Time, the transit's number and order, and what is due stand as before. -/
structure TimeKept (s t : State) : Prop where
  fclk : t.clock.fclk = s.clock.fclk
  now : t.clock.now = s.clock.now
  transit : t.clock.transit = s.clock.transit
  time : t.mer.time = s.mer.time
  reload : t.mer.reload = s.mer.reload
  reached : t.clock.reached = s.clock.reached
  held : t.clock.held = s.clock.held
  due : ∀ x ∈ s.clock.due, x ∈ t.clock.due

section
variable {r s t : State} {ps : List Part}

theorem TimeKept.refl (s : State) : TimeKept s s := ⟨rfl, rfl, rfl, rfl, rfl, rfl, rfl, fun _ h => h⟩

theorem TimeKept.trans (h : TimeKept r s) (h' : TimeKept s t) : TimeKept r t :=
  ⟨h'.fclk.trans h.fclk, h'.now.trans h.now, h'.transit.trans h.transit, h'.time.trans h.time, h'.reload.trans h.reload, h'.reached.trans h.reached,
    h'.held.trans h.held, fun x hx => h'.due x (h.due x hx)⟩

theorem TimeKept.of_clock (hc : OnlyChanges ps s t) (hm : t.mer.time = s.mer.time) (hr : t.mer.reload = s.mer.reload)
    (hp : .clock ∉ ps ∧ .reached ∉ ps ∧ .held ∉ ps ∧ .due ∉ ps := by decide) : TimeKept s t := by
  obtain ⟨h1, h2, h3, h4⟩ := hp
  have hclock := hc .clock h1
  exact ⟨(congrArg Clock.fclk hclock :), (congrArg Clock.now hclock :), (congrArg Clock.transit hclock :), hm, hr, hc .reached h2, hc .held h3,
    fun x hx => (hc .due h4 : t.clock.due = s.clock.due) ▸ hx⟩

theorem TimeKept.of_frame (h : OnlyChanges ps s t) (hp : .clock ∉ ps ∧ .reached ∉ ps ∧ .held ∉ ps ∧ .due ∉ ps := by decide) (hm : .mer ∉ ps := by decide) :
    TimeKept s t :=
  .of_clock h (congrArg Meridian.time (h .mer hm)) (congrArg Meridian.reload (h .mer hm)) hp

/-- A step after others, that touches neither. -/
theorem TimeKept.next (h : TimeKept r s) (h' : OnlyChanges ps s t) (hp : .clock ∉ ps ∧ .reached ∉ ps ∧ .held ∉ ps ∧ .due ∉ ps := by decide)
    (hm : .mer ∉ ps := by decide) : TimeKept r t := h.trans (.of_frame h' hp hm)

theorem TimeKept.ite {p : Prop} [Decidable p] {u : State} (ht : TimeKept s t) (hu : TimeKept s u) : TimeKept s (if p then t else u) := by
  split
  · exact ht
  · exact hu

theorem TimeKept.foldl {α : Type} {f : State → α → State} {l : List α} (h : TimeKept r s) (hf : ∀ t a, TimeKept r t → TimeKept r (f t a)) :
    TimeKept r (l.foldl f s) := by
  induction l generalizing s with
  | nil => exact h
  | cons a l ih => exact ih (hf s a h)

/-! ### The first edge -/

theorem fenceEdge_timeKept (s : State) : TimeKept s (fenceEdge s) := by
  have hf : OnlyChanges [.clock, .setNow, .regs] s (fenceEdge s) := fenceEdge_frame (.refl s)
  have hclock : (fenceEdge s).clock = { s.clock with fenced := s.clock.fenceIn || fenceBit s } := setFenced_clock
  have hmer := hf .mer (by decide)
  exact ⟨by rw [hclock], by rw [hclock], by rw [hclock], congrArg Meridian.time hmer, congrArg Meridian.reload hmer, by rw [hclock], by rw [hclock], by rw [hclock]; exact fun _ h => h⟩

theorem setPhase_timeKept {n : Nat} (h : TimeKept r s) : TimeKept r (setPhase n s) := h.trans ⟨rfl, rfl, rfl, rfl, rfl, rfl, rfl, fun _ h => h⟩

theorem readyNow_timeKept (h : TimeKept r s) : TimeKept r (readyNow s) := h.trans ⟨rfl, rfl, rfl, rfl, rfl, rfl, rfl, fun _ h => h⟩

theorem powerEdge_timeKept (s : State) : TimeKept s (powerEdge s) :=
  (TimeKept.foldl (fenceEdge_timeKept s) fun t p h => h.next (ps := [.stalls, .setNow, .regs, .planes]) (planePdEdge_frame (.refl t))).next
    (ps := [.stalls, .planes, .regs, .setNow, .log, .steward]) (softResetEdge_frame (.refl _))

theorem sourceEdge_timeKept (s : State) : TimeKept s (sourceEdge s) := by
  have hset {n : Nat} (h2 : n ≠ 2) : TimeKept s (setMerState n s) :=
    .of_clock (ps := [.setNow, .regs, .log, .mer]) (setMerState_frame (.refl s)) (congrArg Meridian.time (setMerState_mer h2)) (congrArg Meridian.reload (setMerState_mer h2))
  exact .ite (hset (by decide)) (.ite (hset (by decide)) (.refl s))

theorem imageCheck_timeKept (h : TimeKept r s) : TimeKept r (imageCheck s) := by
  have hboot {b : Boot} {t : State} (ht : TimeKept r t) : TimeKept r { t with boot := b } := ht.trans ⟨rfl, rfl, rfl, rfl, rfl, rfl, rfl, fun _ h => h⟩
  exact .ite h (.ite (hboot h) (setPhase_timeKept (hboot (h.next (ps := [.setNow, .regs, .log]) (defaultsNow_frame (.refl s))))))

theorem phaseEdge_timeKept (s : State) : TimeKept s (phaseEdge s) := by
  have hsource := sourceEdge_timeKept s
  have hissue {t : State} (ht : TimeKept s t) : TimeKept s (bootIssue t) := ht.next (ps := [.found, .mem, .counts, .out]) (bootIssue_frame (.refl t))
  unfold phaseEdge
  dsimp only
  generalize sourceEdge s = y at hsource ⊢
  refine .ite (.refl s) (.ite (readyNow_timeKept hsource) ?_)
  split
  · exact hissue (imageCheck_timeKept hsource)
  · exact .ite (setPhase_timeKept (hsource.next (ps := [.regs, .steward, .setNow, .log]) (firmwarePhase_frame (.refl y)))) (hissue hsource)
  · exact .ite (TimeKept.foldl (setPhase_timeKept hsource) fun t n h => h.next (ps := [.links, .setNow, .regs]) (retrainApply_frame (.refl t))) hsource
  · exact .ite (setPhase_timeKept hsource) hsource
  · exact hsource

theorem mem_holdInsert {α : Type} {p : Place} {c : α} {l : List (Place × α)} {x : Place × α} (h : x ∈ l) : x ∈ holdInsert p c l := by
  induction l with
  | nil => cases h
  | cons y l ih =>
    rw [holdInsert]
    split
    · rcases List.mem_cons.mp h with rfl | h
      · exact List.mem_cons_self
      · exact List.mem_cons_of_mem _ (ih h)
    · exact List.mem_cons_of_mem _ h

theorem linesEdge_timeKept (s : State) : TimeKept s (linesEdge s) := by
  have hbell : TimeKept s (bellInEdge s) := .of_frame (ps := [.stalls]) (bellInEdge_frame (.refl s))
  exact .foldl hbell fun t p h => h.trans ⟨rfl, rfl, rfl, rfl, rfl, rfl, rfl, fun _ hx => mem_holdInsert hx⟩

theorem addsEdge_timeKept (s : State) : TimeKept s (addsEdge s) := by
  have h : TimeKept s (headAddsReady (showingsDelivered s)) := .of_frame (ps := [.links]) (headAddsReady_frame (showingsDelivered_frame (.refl s)))
  exact h.trans ⟨rfl, rfl, rfl, rfl, rfl, rfl, rfl, fun _ h => h⟩

/-- The first edge after the services' loss, where there is one. -/
theorem firstEdge_timeKept (s : State) : TimeKept (fatalEdge s) (firstEdge s) := by
  have hpace : TimeKept (fatalEdge s) (paceEdge (fatalEdge s)) := .of_frame (ps := [.links]) (paceEdge_frame (.refl _))
  have howner := hpace.next (ps := [.owner, .setNow, .regs]) (ownerEdge_frame (.refl _))
  exact ((((howner.trans (powerEdge_timeKept _)).trans (phaseEdge_timeKept _)).next (ps := [.queues]) (queuesEdge_frame (.refl _))).trans (linesEdge_timeKept _)).trans (addsEdge_timeKept _)

/-! ### The time of the boundary -/

theorem lockRecord_timeKept (h : TimeKept r s) : TimeKept r (lockRecord s) := h.trans (.ite ⟨rfl, rfl, rfl, rfl, rfl, rfl, rfl, fun _ h => h⟩ (.refl s))

theorem calStart_timeKept (h : TimeKept r s) : TimeKept r (calStart s) := by
  let x := setMer (measured (stampNow s) s.mer) s
  have hcalc : calStart s = if (merState x == 2 && timePort (calPort x) x) = true then frameOut (calPort x) x.clock.fclk (.timeFrame (calPort x) (stampNow s)) x
      else calEnd 9 x := rfl
  have hx : TimeKept r x := h.trans ⟨rfl, rfl, rfl, rfl, rfl, rfl, rfl, fun _ h => h⟩
  rw [hcalc]
  exact .ite (hx.next (ps := [.links, .regs, .out]) (frameOut_frame (.refl x))) (hx.next (ps := [.setNow, .regs]) (calEnd_frame (.refl x)))

theorem delaySlew_timeKept (h : TimeKept r s) : TimeKept r (delaySlew s) := by
  have hcal {t : State} (ht : TimeKept r t) : TimeKept r (calBit 11 false t) := ht.next (ps := [.regs]) (setReg_frame (.refl t))
  have hends {t : State} (ht : TimeKept r t) : TimeKept r (delaySlewEnds t) := .ite (calStart_timeKept (hcal ht)) (hcal ht)
  have hslew : TimeKept r { s with mer := { s.mer with delayAt := approach s.mer.delayAt (regNat rINPUT_DELAY s) (slewStep s) } } :=
    h.trans ⟨rfl, rfl, rfl, rfl, rfl, rfl, rfl, fun _ h => h⟩
  unfold delaySlew
  exact .ite h (.ite (hends hslew) hslew)

theorem epochEdge_timeKept (h : TimeKept r s) : TimeKept r (epochEdge s) := by
  unfold epochEdge
  cases s.mer.epochFclk with
  | none => exact .ite h (h.trans ⟨rfl, rfl, rfl, rfl, rfl, rfl, rfl, fun _ h => h⟩)
  | some f => exact .ite h (h.trans ⟨rfl, rfl, rfl, rfl, rfl, rfl, rfl, fun _ h => h⟩)

/-- A change of the meridian's record that leaves its time. -/
theorem setMer_timeKept {m : Meridian} (h : TimeKept r s) (hm : m.time = s.mer.time ∧ m.reload = s.mer.reload) : TimeKept r { s with mer := m } :=
  h.trans ⟨rfl, rfl, rfl, hm.1, hm.2, rfl, rfl, fun _ h => h⟩

theorem detectorBoundary_timeKept (h : TimeKept r s) : TimeKept r (detectorBoundary s) := by
  unfold detectorBoundary
  refine .foldl ?_ fun t b ht => setMer_timeKept ht ?_
  · exact .ite h (setMer_timeKept h ⟨rfl, rfl⟩)
  · constructor <;> split <;> split <;> rfl

/-- What the boundary's time leaves of the count, before the services of the new transit. -/
def timeAdvanced (cycles ticks : Nat) (s : State) : State := advance (nextTransit cycles ticks s) cycles ticks (merBoundary (nextTransit cycles ticks s) cycles ticks s)

theorem timeEdge_timeKept (cycles ticks : Nat) (s : State) : TimeKept (timeAdvanced cycles ticks s) (detectorBoundary (timeEdge cycles ticks s)) :=
  detectorBoundary_timeKept (epochEdge_timeKept (delaySlew_timeKept (lockRecord_timeKept (.refl _))))

end

/-! ### What ends a transit -/

/-- The MERIDIAN page's own registers read as before. -/
def MerPageKept (s t : State) : Prop := ∀ a, 0x02040 ≤ a → a < 0x03000 → reg a t = reg a s

section
variable {r s t : State} {ps : List Part}

theorem MerPageKept.refl (s : State) : MerPageKept s s := fun _ _ _ => rfl

theorem MerPageKept.next (h : MerPageKept r s) (h' : OnlyChanges ps s t) (hp : .regs ∉ ps := by decide) : MerPageKept r t := fun a h1 h2 =>
  (congrArg (tget (regReset a) a) (h' .regs hp)).trans (h a h1 h2)

theorem MerPageKept.ite {p : Prop} [Decidable p] {u : State} (ht : MerPageKept s t) (hu : MerPageKept s u) : MerPageKept s (if p then t else u) := by
  split
  · exact ht
  · exact hu

theorem MerPageKept.foldl {α : Type} {f : State → α → State} {l : List α} (h : MerPageKept r s) (hf : ∀ t a, MerPageKept r t → MerPageKept r (f t a)) :
    MerPageKept r (l.foldl f s) := by
  induction l generalizing s with
  | nil => exact h
  | cons a l ih => exact ih (hf s a h)

theorem setReg_merPageKept {a : Nat} {v : Word} (h : MerPageKept r s) (ha : 0x03000 ≤ a) : MerPageKept r (setReg a v s) := fun b h1 h2 =>
  (reg_setReg_ne (by omega)).trans (h b h1 h2)

theorem irq_merPageKept {p b : Nat} (h : MerPageKept r s) (hp : 3 ≤ p) : MerPageKept r (irq p b s) := fun a h1 h2 =>
  (reg_irq_ne (by have := hp; unfold rIrqRaw pageBase; omega)).trans (h a h1 h2)

theorem count_merPageKept {a n : Nat} (h : MerPageKept r s) (ha : 0x03000 ≤ a) : MerPageKept r (count a n s) := setReg_merPageKept h ha

theorem perf_merPageKept {i n : Nat} (h : MerPageKept r s) : MerPageKept r (perf i n s) := by
  have hc : MerPageKept r (count (rPERF i) n s) := count_merPageKept h (by unfold rPERF; omega)
  unfold perf
  exact .ite h (.ite (irq_merPageKept hc (by decide)) hc)

theorem perf64_merPageKept {i n : Nat} (h : MerPageKept r s) : MerPageKept r (perf64 i n s) := by
  have ha : 0x03000 ≤ rPERF i := by unfold rPERF; omega
  exact .ite h (setReg_merPageKept (setReg_merPageKept h ha) (by omega))

theorem planeCycle_merPageKept {p t : Nat} (h : MerPageKept r s) : MerPageKept r (planeCycle p t s) := by
  unfold planeCycle
  dsimp only
  split
  · have hset {v : PlaneSt} : MerPageKept r (setPlane p v s) := h.next (ps := [.planes]) (setPlane_frame (.refl s))
    have hpresent {o : PortOut} {t : State} (ht : MerPageKept r t) : MerPageKept r (present o t) := ht.next (ps := [.out]) (present_frame (.refl t))
    split
    · split
      · exact hset
      · exact hpresent hset
    · refine irq_merPageKept (hpresent ?_) (by decide)
      split
      · exact hset
      · exact hpresent hset
  · split
    · exact h
    · exact h.next (ps := [.planes, .ops, .counts, .stalls, .out]) (presentBeat_frame (setPlane_frame (.refl s)))

theorem planeRun_merPageKept {f p stop : Nat} (h : MerPageKept r s) : MerPageKept r (planeRun f p stop s) := by
  induction f generalizing s with
  | zero => exact h
  | succ f ih =>
    unfold planeRun
    split
    · exact h
    · exact .ite h (ih (planeCycle_merPageKept h))

theorem countTransit_merPageKept (h : MerPageKept r s) : MerPageKept r (countTransit s) := by
  unfold countTransit
  refine perf_merPageKept (perf_merPageKept (perf_merPageKept (perf_merPageKept (perf_merPageKept (perf_merPageKept ?_)))))
  have hslot : MerPageKept r (if slotWaits s = 0 then s else count rSLOT_WAIT (slotWaits s) s) := .ite h (count_merPageKept h (by decide))
  exact .ite (count_merPageKept hslot (by decide)) hslot

theorem countsEdge_merPageKept (h : MerPageKept r s) : MerPageKept r (countsEdge s) :=
  .foldl (h.next (ps := [.counts]) fun p hp => by cases p <;> simp [Part.same] at hp ⊢) fun _ _ ht => .ite (perf_merPageKept ht) (perf64_merPageKept ht)

/-- The last outputs of a transit, with what its members hold. -/
def outputsEnded (cycles : Nat) (s : State) : State := holdsEdge (crierRun (s.clock.fclk + cycles) s)

theorem outputsEnded_frame (cycles : Nat) (s : State) : OnlyChanges [.planes, .out, .setNow, .regs, .ops, .counts, .stalls] s (outputsEnded cycles s) :=
  holdsEdge_frame (crierRun_frame (.refl s))

theorem outputsEnded_merPageKept (cycles : Nat) (s : State) : MerPageKept s (outputsEnded cycles s) :=
  (MerPageKept.foldl (.refl s) fun _ _ h => planeRun_merPageKept h).next (ps := [.ops]) (holdsEdge_frame (.refl _))

/-- The counts of a transit that ends. -/
def transitCounted (cycles : Nat) (s : State) : State := countIdle cycles (countTransit (countsEdge s))

theorem transitCounted_frame (cycles : Nat) (s : State) : OnlyChanges [.counts, .regs, .setNow, .ops] s (transitCounted cycles s) :=
  OnlyChanges.next (ps := [.ops]) (countTransit_frame (countsEdge_frame (.refl s))) fun p hp => by cases p <;> simp [Part.same, transitCounted, countIdle] at hp ⊢

/-- With no image being applied, a transit ends with its outputs and, where the block is alive, its counts. -/
theorem transitEnds_eq {cycles : Nat} (hb : s.boot.applying = none) : transitEnds cycles s =
    if alive s = true then countIdleRun (transitCounted cycles (outputsEnded cycles s)) else outputsEnded cycles s := by
  have hf := outputsEnded_frame cycles s
  have himage : imageStep (outputsEnded cycles s) = outputsEnded cycles s := by
    unfold imageStep
    rw [show (outputsEnded cycles s).boot = s.boot from hf .boot (by decide), hb]
  have halive : alive (outputsEnded cycles s) = alive s := by
    unfold alive
    rw [hf.clock_eq]
  unfold transitEnds
  dsimp only
  rw [show holdsEdge (crierRun (s.clock.fclk + cycles) s) = outputsEnded cycles s from rfl, himage, halive]
  rfl

/-- What the end of a transit leaves of the clock and of the meridian. -/
theorem transitEnds_spec {cycles : Nat} (hb : s.boot.applying = none) : let t := transitEnds cycles s
    (∃ n, t.clock = { s.clock with idleRun := n }) ∧ t.mer = s.mer ∧ MerPageKept s t
      ∧ OnlyChanges [.planes, .out, .setNow, .regs, .ops, .counts, .stalls, .clock] s t := by
  have hf := outputsEnded_frame cycles s
  have hkeep := outputsEnded_merPageKept cycles s
  dsimp only
  rw [transitEnds_eq hb]
  split
  · have hc := transitCounted_frame cycles (outputsEnded cycles s)
    have hck : MerPageKept s (transitCounted cycles (outputsEnded cycles s)) :=
      (countTransit_merPageKept (countsEdge_merPageKept hkeep)).next (ps := [.ops]) fun p hp => by cases p <;> simp [Part.same, transitCounted, countIdle] at hp ⊢
    have hrun (t : State) : OnlyChanges [.clock] t (countIdleRun t) := fun p hp => by cases p <;> simp [Part.same, countIdleRun] at hp ⊢
    obtain ⟨n, hn⟩ : ∃ n, (countIdleRun (transitCounted cycles (outputsEnded cycles s))).clock = { (transitCounted cycles (outputsEnded cycles s)).clock with idleRun := n } := ⟨_, rfl⟩
    rw [hc.clock_eq, hf.clock_eq] at hn
    refine ⟨⟨n, hn⟩, ?_, ?_, ?_⟩
    · exact (hc .mer (by decide)).trans (hf .mer (by decide))
    · exact hck.next (ps := [.clock]) (hrun _)
    · exact ((hf.mono (by decide)).trans (hc.mono (by decide))).trans ((hrun _).mono (by decide))
  · exact ⟨⟨s.clock.idleRun, hf.clock_eq⟩, hf .mer (by decide), hkeep, hf.mono (by decide)⟩

end

/-! ### The boundary -/

section
variable {s : State} {cycles ticks : Nat}

/-- A boundary's state before its first edge. -/
def edgeState (cycles ticks : Nat) (s : State) : State := detectorBoundary (timeEdge cycles ticks (transitEnds cycles s))

/-- A boundary in which nothing was held. -/
theorem answers_boundary {P : State → Prop} (hr : s.clock.rstN = true) (hheld : s.clock.held = []) (hdue : s.clock.due = []) (hfits : boundaryFits cycles ticks s = true)
    (hP : P (firstEdge (edgeState cycles ticks s))) : Answers (.transitBoundary cycles ticks) s P := by
  refine answers_unplaced rfl rfl hdue ?_
  unfold boundaryApply
  dsimp only
  have hfirst : heldFirst [] = [] := rfl
  have hlater (t : State) : heldLater [] t = [] := rfl
  rw [if_neg (by simp [hr, hfits]), hheld, hfirst, List.foldl_nil, hlater, List.foldl_nil]
  exact hP

theorem merState_of_merPage {t : State} (h : MerPageKept s t) : merState t = merState s := congrArg (fun w => fieldOf w 0 3) (h rMER_STATE (by decide) (by decide))
theorem shiftK_of_merPage {t : State} (h : MerPageKept s t) : shiftK t = shiftK s := congrArg (fun w => fieldOf w 0 4) (h rTRANSIT_SHIFT (by decide) (by decide))

/-- A clock after a transit of so many cycles and ticks, in transit n. -/
def clockAdvanced (n cycles ticks : Nat) (c : Clock) : Clock :=
  { c with fclk := c.fclk + cycles, now := c.now + ticks, transit := BitVec.ofNat 64 n, reached := Place.start, held := [], due := c.found, found := [], sampled := [] }

theorem timeAdvanced_clock : (timeAdvanced cycles ticks s).clock = clockAdvanced (nextTransit cycles ticks s) cycles ticks s.clock := by
  have h : (merBoundary (nextTransit cycles ticks s) cycles ticks s).clock = s.clock := by
    unfold merBoundary
    split <;> rfl
  exact congrArg (clockAdvanced (nextTransit cycles ticks s) cycles ticks) h

/-- Before the first edge, the clock stands where the boundary's time has brought it. -/
theorem edgeState_frame : OnlyChanges [.regs, .mer, .out, .links, .setNow] (timeAdvanced cycles ticks (transitEnds cycles s)) (edgeState cycles ticks s) :=
  detectorBoundary_frame (epochEdge_frame (delaySlew_frame (lockRecord_frame (.refl _))))

theorem edgeState_clock (hb : s.boot.applying = none) :
    ∃ n k, (edgeState cycles ticks s).clock = clockAdvanced n cycles ticks { s.clock with idleRun := k } ∧ (s.mer.reload = false → n = s.clock.transit.toNat + 1) := by
  obtain ⟨⟨k, hclock⟩, hmer, -, -⟩ := transitEnds_spec (cycles := cycles) hb
  refine ⟨nextTransit cycles ticks (transitEnds cycles s), k, ?_, fun h => ?_⟩
  · rw [edgeState_frame.clock_eq, timeAdvanced_clock, hclock]
  · have hnext : nextTransit cycles ticks (transitEnds cycles s) = (transitEnds cycles s).clock.transit.toNat + 1 := if_neg (by simp [hmer, h])
    rw [hnext, hclock]

/-- A block that is alive passes its first edge without a loss. -/
theorem fatalEdge_edgeState (hb : s.boot.applying = none) (ha : s.clock.fabFault = false) : fatalEdge (edgeState cycles ticks s) = edgeState cycles ticks s := by
  obtain ⟨n, k, hclock, -⟩ := edgeState_clock (cycles := cycles) (ticks := ticks) hb
  refine if_neg ?_
  rw [hclock]
  simpa [clockAdvanced] using ha

theorem timeAdvanced_mer (h : s.mer.reload = true ∨ 2 ≤ merState s) :
    (timeAdvanced cycles ticks s).mer.time = BitVec.ofNat 64 (nextTransit cycles ticks s * 2 ^ shiftK s) ∧ (timeAdvanced cycles ticks s).mer.reload = false := by
  have hgo : ¬(!s.mer.reload && (merState s == 0 || merState s == 1)) = true := by
    rcases h with h | h
    · simp [h]
    · simp
      omega
  have hmer : (timeAdvanced cycles ticks s).mer = (merBoundary (nextTransit cycles ticks s) cycles ticks s).mer := rfl
  rw [hmer, merBoundary, if_neg hgo]
  exact ⟨rfl, rfl⟩

end

/-- Settles O26: the boundary advances the count of time, and nothing of the first edge touches it. -/
theorem transitAdvances : Obligations.TransitAdvances := by
  intro cycles ticks s hw halive _ hheld hdue hboot hfits
  have hr : s.clock.rstN = true := (Bool.and_eq_true_iff.mp halive).1
  refine answers_boundary hr hheld hdue hfits ?_
  have hfault : s.clock.fabFault = false := by simpa [alive, hr] using halive
  obtain ⟨-, hmer, hkeep, -⟩ := transitEnds_spec (cycles := cycles) hboot
  obtain ⟨n, k, hclock, hn⟩ := edgeState_clock (cycles := cycles) (ticks := ticks) hboot
  have hedge := firstEdge_timeKept (edgeState cycles ticks s)
  rw [fatalEdge_edgeState hboot hfault] at hedge
  have htime : TimeKept (timeAdvanced cycles ticks (transitEnds cycles s)) (edgeState cycles ticks s) := timeEdge_timeKept cycles ticks (transitEnds cycles s)
  have hmeradv := timeAdvanced_mer (cycles := cycles) (ticks := ticks) (s := transitEnds cycles s)
  rw [hmer, merState_of_merPage hkeep, shiftK_of_merPage hkeep] at hmeradv
  have hnum : nextTransit cycles ticks (transitEnds cycles s) % 2 ^ 64 = n % 2 ^ 64 := by
    have h := congrArg Clock.transit (timeAdvanced_clock (cycles := cycles) (ticks := ticks) (s := transitEnds cycles s))
    rw [← htime.transit, hclock] at h
    simpa [clockAdvanced] using (congrArg BitVec.toNat h).symm
  generalize firstEdge (edgeState cycles ticks s) = t at hedge ⊢
  refine ⟨?_, ?_, ?_, ?_, ?_, fun hrel => ?_, fun hcase => ?_, fun hrel => ?_⟩
  · rw [hedge.fclk, hclock]
    rfl
  · rw [hedge.now, hclock]
    rfl
  · rw [hedge.reached, hclock]
    rfl
  · intro x hx
    refine hedge.due x ?_
    rw [hclock]
    exact hx
  · rw [hedge.held, hclock]
    rfl
  · rw [hedge.transit, hclock, hn hrel]
    exact BitVec.eq_of_toNat_eq (by simp [clockAdvanced])
  · rw [hedge.time, htime.time, (hmeradv hcase).1, hedge.transit, hclock]
    refine BitVec.eq_of_toNat_eq ?_
    simp only [clockAdvanced, BitVec.toNat_ofNat]
    rw [Nat.mul_mod, hnum, ← Nat.mul_mod, Nat.mod_mul_mod]
  · rw [hedge.reload, htime.reload, (hmeradv (.inl hrel)).2]

end Sys2Proof.Machine
end

section
/-! PROOF. Start-up: the trims, the limits of the phases, and the end of start-up (R359 to R372, R394). -/

namespace Sys2Proof.Machine

-- The inclusions that frames ask for are auto parameters, whose code is compiled: with proofs elaborated in order no thread waits for it.
set_option Elab.async false

section
variable {r s : State} {ps : List Part}

theorem presentAll_frame {l : List PortOut} (h : OnlyChanges ps r s) (hq : [.out] ⊆ ps := by decide) : OnlyChanges ps r (presentAll l s) :=
  h.then (ps := [.out]) (OnlyChanges.next (ps := [.out]) (OnlyChanges.refl s) fun p hp => by cases p <;> simp [Part.same, presentAll] at hp ⊢) hq
theorem storeTrims_frame {w : List Word} (h : OnlyChanges ps r s) (hq : [.trims] ⊆ ps := by decide) : OnlyChanges ps r (storeTrims w s) :=
  h.then (ps := [.trims]) (OnlyChanges.next (ps := [.trims]) (OnlyChanges.refl s) fun p hp => by cases p <;> simp [Part.same, storeTrims] at hp ⊢) hq
theorem assayTrims_frame (h : OnlyChanges ps r s) (hq : [.regs, .assayWin, .setNow] ⊆ ps := by decide) : OnlyChanges ps r (assayTrims s) :=
  h.then (ps := [.regs, .assayWin, .setNow]) (.foldl (OnlyChanges.refl s) fun _ _ h1 => assaySetting_frame h1) hq
theorem phyTrims_frame (h : OnlyChanges ps r s) (hq : [.regs] ⊆ ps := by decide) : OnlyChanges ps r (phyTrims s) :=
  h.then (ps := [.regs]) (.foldl (OnlyChanges.refl s) fun _ _ h1 => setReg_frame (setReg_frame h1)) hq
/-- The trims read and stored, with the verdict on them; and what a bad set leaves of the log and of CONFIG.STATUS (R360, R361). -/
def trimsStored (w : List Word) (s : State) : State :=
  let p := presentAll ((List.range 1024).map .trimRead) s
  storeTrims w { p with boot := { p.boot with trimsValid := trimsGood w } }
def trimsJudged (w : List Word) (s : State) : State := if trimsGood w then trimsStored w s else cfgBit 1 (notice 0x92 (source 0 0) (trimsStored w s))
/-- INPUT_DELAY takes its trim, and boundaries stand there. -/
def delayTaken (s : State) : State :=
  setReg rINPUT_DELAY (trimOr 258 0#32 s &&& 0xFFFF#32) { s with mer := { s.mer with delayAt := (trimOr 258 0#32 s &&& 0xFFFF#32).toNat } }

theorem trimPhase_eq (w : List Word) (s : State) : trimPhase w s = assayTrims (phyTrims (delayTaken (trimsJudged w s))) := rfl

theorem trimsStored_frame {w : List Word} (h : OnlyChanges ps r s) (hq : [.out, .trims, .boot] ⊆ ps := by decide) : OnlyChanges ps r (trimsStored w s) :=
  h.then (ps := [.out, .trims, .boot]) (OnlyChanges.next (ps := [.out, .trims, .boot]) (OnlyChanges.refl s)
    fun p hp => by cases p <;> simp [Part.same, trimsStored, storeTrims, presentAll] at hp ⊢) hq
theorem trimsJudged_frame {w : List Word} (h : OnlyChanges ps r s) (hq : [.out, .trims, .boot, .setNow, .regs, .log] ⊆ ps := by decide) : OnlyChanges ps r (trimsJudged w s) :=
  h.then (ps := [.out, .trims, .boot, .setNow, .regs, .log]) (.ite (trimsStored_frame (OnlyChanges.refl s)) (cfgBit_frame (notice_frame (trimsStored_frame (OnlyChanges.refl s))))) hq
theorem delayTaken_frame (h : OnlyChanges ps r s) (hq : [.regs, .mer] ⊆ ps := by decide) : OnlyChanges ps r (delayTaken s) :=
  h.then (ps := [.regs, .mer]) (setReg_frame (setMer_frame (OnlyChanges.refl s))) hq
theorem trimPhase_frame {w : List Word} (h : OnlyChanges ps r s) (hq : [.regs, .assayWin, .setNow, .mer, .trims, .boot, .out, .log] ⊆ ps := by decide) : OnlyChanges ps r (trimPhase w s) :=
  h.then (ps := [.regs, .assayWin, .setNow, .mer, .trims, .boot, .out, .log]) (assayTrims_frame (phyTrims_frame (delayTaken_frame (trimsJudged_frame (OnlyChanges.refl s))))) hq
theorem imagePhase_frame (h : OnlyChanges ps r s) (hq : [.clock, .regs, .boot, .setNow, .log] ⊆ ps := by decide) : OnlyChanges ps r (imagePhase s) :=
  h.then (ps := [.clock, .regs, .boot, .setNow, .log]) (.unless (setPhase_frame (OnlyChanges.refl s)) fun h1 => afterImage_frame (defaultsNow_frame
      h1)) hq
theorem imageTimeoutApply_frame (h : OnlyChanges ps r s) (hq : [.clock, .regs, .boot, .setNow, .log] ⊆ ps := by decide) : OnlyChanges ps r (imageTimeoutApply s) :=
  h.then (ps := [.clock, .regs, .boot, .setNow, .log]) (.ite (afterImage_frame (defaultsNow_frame (OnlyChanges.refl s))) (OnlyChanges.refl s)) hq
theorem lockTimeoutApply_frame (h : OnlyChanges ps r s) (hq : [.clock, .regs, .links, .setNow, .log] ⊆ ps := by decide) : OnlyChanges ps r (lockTimeoutApply s) :=
  h.then (ps := [.clock, .regs, .links, .setNow, .log]) (.ite (trainPhase_frame (notice_frame (OnlyChanges.refl s))) (OnlyChanges.refl s)) hq
theorem trainTimeoutApply_frame (h : OnlyChanges ps r s) (hq : [.clock, .regs, .setNow, .log] ⊆ ps := by decide) : OnlyChanges ps r (trainTimeoutApply s) :=
  h.then (ps := [.clock, .regs, .setNow, .log]) (.ite (setPhase_frame (.foldl (OnlyChanges.refl s) fun _ _ h1 => .ite h1 (notice_frame h1)))
      (OnlyChanges.refl s)) hq
end

/-! ### The end of start-up (R359, R394) -/

section
variable {s : State}

/-- CONFIG.STATUS with another phase. -/
def withPhase (n : Nat) (w : Word) : Word := (w &&& ~~~0xF00#32) ||| BitVec.ofNat 32 (n * 256)

theorem fieldOf_withPhase {n : Nat} {w : Word} (hn : n < 16) : fieldOf (withPhase n w) 8 4 = n := by
  have hmask : (~~~0xF00#32 : Word).extractLsb' 8 4 = 0#4 := by decide
  rw [fieldOf_eq_extract, withPhase, BitVec.extractLsb'_or, BitVec.extractLsb'_and, hmask, BitVec.and_zero, BitVec.zero_or, BitVec.extractLsb'_toNat, BitVec.toNat_ofNat,
    Nat.mod_eq_of_lt (by omega), Nat.shiftRight_eq_div_pow]
  omega

/-- The bits of CONFIG.STATUS below the phase stay. -/
theorem getLsbD_withPhase {n i : Nat} {w : Word} (hi : i < 8) : (withPhase n w).getLsbD i = w.getLsbD i := by
  have hlow : (BitVec.ofNat 32 (n * 256)).getLsbD i = false := by
    rw [BitVec.getLsbD_ofNat, show n * 256 = n * 2 ^ 8 from rfl, Nat.testBit_mul_two_pow]
    simp
    omega
  have hmask : (~~~0xF00#32 : Word).getLsbD i = true := by
    interval_cases i <;> decide
  rw [withPhase, BitVec.getLsbD_or, BitVec.getLsbD_and, hlow, hmask]
  simp

theorem reg_setPhase {n : Nat} (h : tableWfBy regReset s.regs = true) : reg rCFG_STATUS (setPhase n s) = withPhase n (reg rCFG_STATUS s) :=
  reg_setReg_self h

theorem phaseOf_setPhase {n : Nat} (hn : n < 16) (h : tableWfBy regReset s.regs = true) : phaseOf (setPhase n s) = n := by
  rw [phaseOf, reg_setPhase h, fieldOf_withPhase hn]

theorem getLsbD_orReg_mask {a i : Nat} {w : Word} (h : tableWfBy regReset s.regs = true) (hw : w.getLsbD i = true) : (reg a (orReg a w s)).getLsbD i = true := by
  rw [reg_orReg_self h, BitVec.getLsbD_or, hw, Bool.or_true]

/-- The block becomes ready. -/
theorem readyNow_spec (hw : s.tablesWf = true) : let t := readyNow s
    t.clock.fabReady = true ∧ t.clock.readyNext = false ∧ phaseOf t = 9 ∧ pageLocked pMERIDIAN t = true ∧ pageLocked pCONFIG t = true := by
  let x : State := setPhase 9 { s with clock := { s.clock with fabReady := true, readyNext := false } }
  let y : State := orReg (rPageCtrl pMERIDIAN) 4#32 x
  have hx : x.tablesWf = true := (setPhase_keeps (s := { s with clock := { s.clock with fabReady := true, readyNext := false } }) (.refl _)).tablesWf hw
  have hy : y.tablesWf = true := (orReg_keeps (.refl x)).tablesWf hx
  have hphase : phaseOf x = 9 := phaseOf_setPhase (s := { s with clock := { s.clock with fabReady := true, readyNext := false } }) (by decide) (regs_wf hw)
  have hstatus : reg rCFG_STATUS (readyNow s) = reg rCFG_STATUS x := (reg_orReg_ne (s := y) (by decide)).trans (reg_orReg_ne (s := x) (by decide))
  refine ⟨rfl, rfl, ?_, ?_, ?_⟩
  · rw [phaseOf, hstatus]
    exact hphase
  · have h : reg (rPageCtrl pMERIDIAN) (readyNow s) = reg (rPageCtrl pMERIDIAN) y := reg_orReg_ne (s := y) (by decide)
    rw [pageLocked, h]
    exact getLsbD_orReg_mask (s := x) (regs_wf hx) (by decide)
  · exact getLsbD_orReg_mask (s := y) (regs_wf hy) (by decide)

theorem powerEdge_clock : ∃ b, (powerEdge s).clock = { s.clock with fenced := b } := by
  have hf : OnlyChanges [.stalls, .planes, .regs, .setNow, .log, .steward] (fenceEdge s) (powerEdge s) :=
    softResetEdge_frame (.foldl (.refl _) fun _ _ h1 => planePdEdge_frame h1)
  exact ⟨s.clock.fenceIn || fenceBit s, hf.clock_eq.trans setFenced_clock⟩

end

theorem startUpEnds : Claims.StartUpEnds := by
  intro cycles ticks s hw halive hready hheld hdue hboot hfits
  have hr : s.clock.rstN = true := (Bool.and_eq_true_iff.mp halive).1
  have hfault : s.clock.fabFault = false := by simpa [alive, hr] using halive
  refine answers_boundary hr hheld hdue hfits ?_
  obtain ⟨n, k, hclock, -⟩ := edgeState_clock (cycles := cycles) (ticks := ticks) hboot
  have hwf : (edgeState cycles ticks s).tablesWf = true := (detectorBoundary_keeps (timeEdge_keeps (transitEnds_keeps (.refl s)))).tablesWf hw
  rw [firstEdge, fatalEdge_edgeState hboot hfault]
  generalize edgeState cycles ticks s = e at hclock hwf
  have hf : OnlyChanges [.links, .owner, .setNow, .regs] e (ownerEdge (paceEdge e)) := ownerEdge_frame (paceEdge_frame (.refl e))
  obtain ⟨b, hpower⟩ := powerEdge_clock (s := ownerEdge (paceEdge e))
  rw [hf.clock_eq, hclock] at hpower
  have hywf : (powerEdge (ownerEdge (paceEdge e))).tablesWf = true := (powerEdge_keeps (ownerEdge_keeps (paceEdge_keeps (.refl e)))).tablesWf hwf
  generalize powerEdge (ownerEdge (paceEdge e)) = y at hpower hywf
  have hsource : OnlyChanges [.setNow, .regs, .log, .mer] y (sourceEdge y) := sourceEdge_frame (.refl y)
  have hphase : phaseEdge y = readyNow (sourceEdge y) := by
    have hyalive : alive y = true := by
      rw [alive, hpower]
      simpa [clockAdvanced, alive] using halive
    have hynext : (sourceEdge y).clock.readyNext = true := by
      rw [hsource.clock_eq, hpower]
      exact hready
    unfold phaseEdge
    dsimp only
    rw [if_neg (by simp [hyalive]), if_pos hynext]
  rw [hphase]
  have hspec := readyNow_spec ((sourceEdge_keeps (.refl y)).tablesWf hywf)
  generalize readyNow (sourceEdge y) = z at hspec
  obtain ⟨h1, h2, h3, h4, h5⟩ := hspec
  have hz : OnlyChanges [.queues, .stalls, .due, .links] z (headAddsReady (showingsDelivered (linesEdge (queuesEdge z)))) :=
    headAddsReady_frame (showingsDelivered_frame (linesEdge_frame (queuesEdge_frame (.refl z))))
  have hregs : (addsEdge (linesEdge (queuesEdge z))).regs = z.regs := hz .regs (by decide)
  have hreg (a : Nat) : reg a (addsEdge (linesEdge (queuesEdge z))) = reg a z := congrArg (tget (regReset a) a) hregs
  have hzclock : { (headAddsReady (showingsDelivered (linesEdge (queuesEdge z)))).clock with reached := z.clock.reached, held := z.clock.held, due := z.clock.due, found := z.clock.found } = z.clock :=
    hz .clock (by decide)
  refine ⟨?_, ?_, ?_, ?_, ?_⟩
  · exact (congrArg Clock.fabReady hzclock).trans h1
  · exact (congrArg Clock.readyNext hzclock).trans h2
  · rw [phaseOf, hreg]
    exact h3
  · rw [pageLocked, hreg]
    exact h4
  · rw [pageLocked, hreg]
    exact h5

/-! ### The limits of the phases (R364, R371, R372) -/

section
variable {r s t before : State} {ps : List Part} {a n m p i code : Nat}

theorem reg_absentIrq (ha : ∀ n, a ≠ rIrqRaw (pRING n)) : reg a (absentIrq before s) = reg a s := by
  have hfold (l : List Nat) (t : State) : reg a (l.foldl (absentStep before) t) = reg a t := by
    induction l generalizing t with
    | nil => rfl
    | cons m l ih =>
      refine (ih (absentStep before t m)).trans ?_
      unfold absentStep
      split
      · rfl
      · exact reg_irq_ne (ha m)
  exact hfold _ s

theorem ringIrq_ne (ha : a < 0x18000) (n : Nat) : a ≠ rIrqRaw (pRING n) := by
  unfold rIrqRaw pRING pageBase
  omega

/-- The defaults mark CONFIG.STATUS and interrupt (R368). -/
theorem defaultsNow_spec (hw : s.tablesWf = true) : let t := defaultsNow code s
    (reg rCFG_STATUS t).getLsbD 0 = true ∧ (reg (rIrqRaw pCONFIG) t).getLsbD 1 = true ∧ t.clock = s.clock := by
  have hn : (notice code (source 0 0) s).tablesWf = true := (notice_keeps (.refl s)).tablesWf hw
  have hc : (cfgBit 0 (notice code (source 0 0) s)).tablesWf = true := (setReg_keeps (.refl _)).tablesWf hn
  have hf : OnlyChanges [.setNow, .regs, .log] s (defaultsNow code s) := defaultsNow_frame (.refl s)
  refine ⟨?_, ?_, hf.clock_eq⟩
  · have h : reg rCFG_STATUS (defaultsNow code s) = reg rCFG_STATUS (cfgBit 0 (notice code (source 0 0) s)) :=
      (reg_absentIrq (ringIrq_ne (by decide))).trans (reg_irq_ne (by decide))
    rw [h]
    exact getLsbD_orReg_mask (regs_wf hn) (by decide)
  · have h : reg (rIrqRaw pCONFIG) (defaultsNow code s) = reg (rIrqRaw pCONFIG) (irq pCONFIG 1 (cfgBit 0 (notice code (source 0 0) s))) :=
      reg_absentIrq (ringIrq_ne (by decide))
    rw [h]
    exact irq_raised (regs_wf hc) (by decide)

/-- Phase 5 begins (R369). -/
theorem afterImage_spec (hw : s.tablesWf = true) : let t := afterImage s
    phaseOf t = 5 ∧ t.clock = { s.clock with phase := 5, phaseAt := s.clock.now } ∧ t.boot.firmware = [] ∧ t.boot.trimsValid = s.boot.trimsValid
      ∧ (∀ i, i < 8 → (reg rCFG_STATUS t).getLsbD i = (reg rCFG_STATUS s).getLsbD i) ∧ RegsKeep [rCFG_STATUS] s t := by
  let x : State := { s with boot := { s.boot with applying := none, firmware := [], readBad := false } }
  have hregs : tableWfBy regReset x.regs = true := regs_wf hw
  refine ⟨phaseOf_setPhase (s := x) (by decide) hregs, rfl, rfl, rfl, fun i hi => ?_, setReg_regsKeep (s := x) (.refl s) List.mem_cons_self⟩
  have h : reg rCFG_STATUS (afterImage s) = withPhase 5 (reg rCFG_STATUS x) := reg_setPhase (s := x) hregs
  rw [h]
  exact getLsbD_withPhase hi

theorem imageTimeout (hw : s.tablesWf = true) (halive : alive s = true) (h4 : phaseOf s = 4) (hb : s.boot.applying = none)
    (hlast : lasted (bootWord 290 s).toNat s.clock.phaseAt s = true) (ha : applies .imageTimeout s = true) : Answers .imageTimeout s fun t =>
      phaseOf t = 5 ∧ t.clock.phaseAt = s.clock.now ∧ (reg rCFG_STATUS t).getLsbD 0 = true ∧ (reg (rIrqRaw pCONFIG) t).getLsbD 1 = true
        ∧ t.boot.firmware = [] ∧ OnlyChanges [.reached, .clock, .boot, .regs, .setNow, .log] s t := by
  refine answers_next rfl rfl ha fun q => ?_
  have hgo : (alive s && phaseOf s == 4 && s.boot.applying.isNone && lasted (bootWord 290 s).toNat s.clock.phaseAt s) = true := by simp [halive, h4, hb, hlast]
  have heq : imageTimeoutApply (withReached q s) = afterImage (defaultsNow 0x91 (withReached q s)) := if_pos hgo
  have hframe : OnlyChanges [.reached, .clock, .boot, .regs, .setNow, .log] s (imageTimeoutApply (withReached q s)) := withReached_frame (imageTimeoutApply_frame (.refl _))
  rw [heq] at hframe ⊢
  obtain ⟨hbit, hirq, hclock⟩ := defaultsNow_spec (s := withReached q s) (code := 0x91) hw
  have hdw : (defaultsNow 0x91 (withReached q s)).tablesWf = true := (defaultsNow_keeps (.refl _)).tablesWf (show (withReached q s).tablesWf = true from hw)
  generalize defaultsNow 0x91 (withReached q s) = d at hbit hirq hclock hdw hframe ⊢
  obtain ⟨h5, hc, hfw, -, hlow, hkeep⟩ := afterImage_spec hdw
  refine ⟨h5, ?_, (hlow 0 (by decide)).trans hbit, ?_, hfw, hframe⟩
  · rw [hc, hclock]
    rfl
  · rw [hkeep _ (by decide)]
    exact hirq

/-! #### The limit of phase 6 -/

theorem stewardState_congr (h : reg rSTEWARD_STATE t = reg rSTEWARD_STATE s) : stewardRuns t = stewardRuns s := by
  unfold stewardRuns stewardState
  rw [h]

theorem portAbsent_congr (hb : t.build = s.build) (hm : bitOf (reg (rPORTMAP n) t) 3 = bitOf (reg (rPORTMAP n) s) 3) (hc : (reg rCFG_STATUS t).getLsbD 0 = (reg rCFG_STATUS s).getLsbD 0) :
    portAbsent n t = portAbsent n s := by
  have hd : defaultsUsed t = defaultsUsed s := hc
  unfold portAbsent portMap hasPort
  rw [hd, hb]
  split
  · rfl
  · rw [hm]

/-- A change of link state raises bit 0 of a register, and no other bit. -/
theorem bitOf_trainStart (h : tableWfBy regReset s.regs = true) (hi : 0 < i) : bitOf (reg a (trainStart m s)) i = bitOf (reg a s) i := by
  unfold trainStart changeLink
  dsimp only
  split
  · rfl
  · rcases eq_or_ne a (rIrqRaw (pRING m)) with rfl | hne
    · have hbit : (bit 0).getLsbD i = false := by
        rw [show bit 0 = 1#32 from rfl, BitVec.getLsbD_one]
        simp
        omega
      rw [show ∀ u : State, u.regs = s.regs → bitOf (reg (rIrqRaw (pRING m)) (irq (pRING m) 0 u)) i = bitOf (reg (rIrqRaw (pRING m)) s) i from fun u hu => by
        have hu' : reg (rIrqRaw (pRING m)) u = reg (rIrqRaw (pRING m)) s := congrArg (tget (regReset _) _) hu
        rw [irq, reg_orReg_self (hu ▸ h), hu', bitOf, BitVec.getLsbD_or, hbit, Bool.or_false]
        rfl]
      rfl
    · exact congrArg (bitOf · i) (reg_irq_ne hne)

theorem trainStart_regsKeep : RegsKeep [rIrqRaw (pRING m)] s (trainStart m s) := by
  unfold trainStart changeLink
  dsimp only
  exact .ite (.refl s) (irq_regsKeep (.refl s) List.mem_cons_self)

/-- A link that is to train is one that a running steward retrains where it is DOWN, or has retrained. -/
structure Trainable (n : Nat) (t : State) : Prop where
  tables : t.tablesWf = true
  runs : stewardRuns t = true
  present : portAbsent n t = false
  link : (linkAt n t).state = 0 ∨ (linkAt n t).state = 1 ∧ (linkAt n t).phyEnable = true

theorem trainStart_trains (h : tableWf Link.down s.links = true) : (linkAt m (trainStart m s)).state = 1 ∧ (linkAt m (trainStart m s)).phyEnable = true := by
  unfold trainStart
  rw [linkAt_changeLink_self h]
  exact ⟨rfl, rfl⟩

theorem Trainable.retrain (h : Trainable n t) : Trainable n (retrainApply m t) := by
  unfold retrainApply
  split
  · have hkeep := trainStart_regsKeep (m := m) (s := t)
    have hbuild : (trainStart m t).build = t.build := (trainStart_frame (ps := [.links, .setNow, .regs]) (.refl t)) .build (by decide)
    have hne {a : Nat} (ha : a % 0x1000 ≠ 0x010) : reg a (trainStart m t) = reg a t := hkeep a (by
      simp only [List.mem_singleton, rIrqRaw, pRING, pageBase]
      omega)
    refine ⟨(trainStart_keeps (.refl t)).tablesWf h.tables, ?_, ?_, ?_⟩
    · rw [stewardState_congr (hne (by decide))]
      exact h.runs
    · rw [portAbsent_congr hbuild (bitOf_trainStart (regs_wf h.tables) (by decide)) (by rw [hne (by decide)])]
      exact h.present
    · rcases eq_or_ne n m with rfl | hnm
      · exact .inr (trainStart_trains (links_wf_of_tables h.tables))
      · rw [show linkAt n (trainStart m t) = linkAt n t from linkAt_changeLink_ne hnm]
        exact h.link
  · exact h

theorem Trainable.trains (h : Trainable n t) : (linkAt n (retrainApply n t)).state = 1 ∧ (linkAt n (retrainApply n t)).phyEnable = true := by
  unfold retrainApply
  rcases h.link with h0 | h1
  · rw [if_pos (by simp [h.runs, h0, h.present])]
    exact trainStart_trains (links_wf_of_tables h.tables)
  · rw [if_neg (by simp [h1.1])]
    exact h1

/-- Once a link trains, the retraining of others leaves it so. -/
theorem retrain_trains (hw : t.tablesWf = true) (h : (linkAt n t).state = 1 ∧ (linkAt n t).phyEnable = true) :
    (linkAt n (retrainApply m t)).state = 1 ∧ (linkAt n (retrainApply m t)).phyEnable = true := by
  unfold retrainApply
  split
  · rcases eq_or_ne n m with rfl | hnm
    · exact trainStart_trains (links_wf_of_tables hw)
    · rw [show linkAt n (trainStart m t) = linkAt n t from linkAt_changeLink_ne hnm]
      exact h
  · exact h

/-- The retraining of a steward that does not run changes nothing. -/
theorem retrains_of_stopped {l : List Nat} (h : stewardRuns s = false) : l.foldl (fun s n => retrainApply n s) s = s := by
  induction l with
  | nil => rfl
  | cons m l ih =>
    have hm : retrainApply m s = s := by
      unfold retrainApply
      rw [if_neg (by simp [h])]
    exact (congrArg (l.foldl fun s n => retrainApply n s) hm).trans ih

/-- The registers but for those of the ports' causes are not a link's. -/
theorem retrains_reg {l : List Nat} (ha : a % 0x1000 ≠ 0x010) : reg a (l.foldl (fun s n => retrainApply n s) s) = reg a s := by
  induction l generalizing s with
  | nil => rfl
  | cons m l ih =>
    refine (ih (s := retrainApply m s)).trans ?_
    unfold retrainApply
    split
    · exact trainStart_regsKeep (m := m) a (by
        simp only [List.mem_singleton, rIrqRaw, pRING, pageBase]
        omega)
    · rfl

/-- Training begins: a running steward retrains every mapped port that is DOWN (R371). -/
theorem trainPhase_spec (hw : s.tablesWf = true) : let t := trainPhase s
    phaseOf t = 7 ∧ t.clock.phaseAt = s.clock.now ∧ t.log = s.log ∧ (stewardRuns s = false → t.links = s.links)
      ∧ (stewardRuns s = true → ∀ n, n < s.build.ringPorts → portAbsent n s = false → (linkAt n s).state = 0 → (linkAt n t).state = 1 ∧ (linkAt n t).phyEnable = true) := by
  have hstart : RegsKeep [rCFG_STATUS] s (setPhase 7 s) := setReg_regsKeep (.refl s) List.mem_cons_self
  have hruns : stewardRuns (setPhase 7 s) = stewardRuns s := stewardState_congr (hstart _ (by decide))
  have hxw : (setPhase 7 s).tablesWf = true := (setPhase_keeps (.refl s)).tablesWf hw
  have hphase : phaseOf (setPhase 7 s) = 7 := phaseOf_setPhase (by decide) (regs_wf hw)
  have hlow (i : Nat) (hi : i < 8) : (reg rCFG_STATUS (setPhase 7 s)).getLsbD i = (reg rCFG_STATUS s).getLsbD i := by
    rw [reg_setPhase (regs_wf hw)]
    exact getLsbD_withPhase hi
  have habsent (n : Nat) : portAbsent n (setPhase 7 s) = portAbsent n s := by
    rcases eq_or_ne (rPORTMAP n) rCFG_STATUS with heq | hne
    · exact portAbsent_congr rfl (by rw [heq]; exact hlow 3 (by decide)) (hlow 0 (by decide))
    · exact portAbsent_congr rfl (by rw [hstart _ (by simpa using hne)]) (hlow 0 (by decide))
  have hlinks (n : Nat) : linkAt n (setPhase 7 s) = linkAt n s := rfl
  have hfacts : (setPhase 7 s).clock.phaseAt = s.clock.now ∧ (setPhase 7 s).log = s.log ∧ (setPhase 7 s).links = s.links ∧ (setPhase 7 s).build = s.build := ⟨rfl, rfl, rfl, rfl⟩
  have heq : trainPhase s = (mappedPorts (setPhase 7 s)).foldl (fun s n => retrainApply n s) (setPhase 7 s) := rfl
  rw [heq]
  generalize setPhase 7 s = x at hruns hxw hphase habsent hlinks hfacts ⊢
  obtain ⟨hat, hlog, hlinked, hbuild⟩ := hfacts
  have hframe : OnlyChanges [.links, .setNow, .regs] x ((mappedPorts x).foldl (fun s n => retrainApply n s) x) :=
    .foldl (.refl x) fun _ _ h => retrainApply_frame h
  refine ⟨?_, ?_, ?_, fun hstop => ?_, fun hrun n hn hpresent hdown => ?_⟩
  · rw [phaseOf, retrains_reg (by decide)]
    exact hphase
  · rw [hframe.clock_eq]
    exact hat
  · exact (hframe .log (by decide)).trans hlog
  · rw [retrains_of_stopped (hruns.trans hstop)]
    exact hlinked
  · have hmem : n ∈ mappedPorts x := List.mem_filter.mpr ⟨List.mem_range.mpr (hbuild ▸ hn), by simp [habsent, hpresent]⟩
    exact foldl_establishes (f := fun s n => retrainApply n s) (I := Trainable n) (Q := fun t => (linkAt n t).state = 1 ∧ (linkAt n t).phyEnable = true) (x := n) (fun _ _ => Trainable.retrain)
      (fun _ _ ht => retrain_trains ht.tables) (fun _ => Trainable.trains) hmem ⟨hxw, hruns.trans hrun, (habsent n).trans hpresent, .inl ((congrArg Link.state (hlinks n)).trans hdown)⟩

/-- The port map is no register of the log's. -/
theorem rPORTMAP_notMem_logRegs {page : Nat} (h : page < 32) : rPORTMAP n ∉ logRegs page := by
  simp only [logRegs, List.mem_cons, rErrCode, rErrCount, rOVERRUN, rIrqRaw, pageBase, rPORTMAP, pERRLOG, List.not_mem_nil, or_false]
  omega

theorem portAbsent_notice {src : BitVec 16} (hp : codePage code src < 32) (hc : rCFG_STATUS ∉ logRegs (codePage code src)) :
    portAbsent n (notice code src s) = portAbsent n s :=
  portAbsent_congr ((notice_frame (ps := [.log, .setNow, .regs]) (.refl s)) .build (by decide)) (by rw [reg_notice_ne (rPORTMAP_notMem_logRegs hp)]) (by rw [reg_notice_ne hc])

theorem lockTimeout (hw : s.tablesWf = true) (halive : alive s = true) (h6 : phaseOf s = 6) (hlast : lasted (regNat rLOCK_WAIT s) 0 s = true) (hroom : LogRoom s)
    (ha : applies .lockTimeout s = true) : Answers .lockTimeout s fun t => phaseOf t = 7 ∧ t.clock.phaseAt = s.clock.now ∧ Logged 0x95 0 0x0000#16 s t
      ∧ (stewardRuns s = false → t.links = s.links)
      ∧ (stewardRuns s = true → ∀ n, n < s.build.ringPorts → portAbsent n s = false → (linkAt n s).state = 0 → (linkAt n t).state = 1 ∧ (linkAt n t).phyEnable = true) := by
  refine answers_next rfl rfl ha fun q => ?_
  have hgo : (alive s && phaseOf s == 6 && lasted (regNat rLOCK_WAIT s) 0 s) = true := by simp [halive, h6, hlast]
  have heq : lockTimeoutApply (withReached q s) = trainPhase (notice 0x95 (source 0 0) (withReached q s)) := if_pos hgo
  rw [heq]
  have hf : OnlyChanges [.log, .setNow, .regs] (withReached q s) (notice 0x95 (source 0 0) (withReached q s)) := notice_frame (.refl _)
  have hlog : Logged 0x95 0 0x0000#16 (withReached q s) (notice 0x95 (source 0 0) (withReached q s)) := notice_logged hroom (.inr (by decide))
  have hruns : stewardRuns (notice 0x95 (source 0 0) (withReached q s)) = stewardRuns s := stewardState_congr (reg_notice_ne (s := withReached q s) (by decide))
  have habsent (n : Nat) : portAbsent n (notice 0x95 (source 0 0) (withReached q s)) = portAbsent n s :=
    portAbsent_notice (s := withReached q s) (by decide) (by decide)
  have hnw : (notice 0x95 (source 0 0) (withReached q s)).tablesWf = true := (notice_keeps (.refl _)).tablesWf hw
  generalize notice 0x95 (source 0 0) (withReached q s) = x at hf hlog hruns habsent hnw ⊢
  obtain ⟨hphase, hat, hsame, hstop, hrun⟩ := trainPhase_spec hnw
  have hbuild : x.build = s.build := hf .build (by decide)
  have hlinks : x.links = s.links := hf .links (by decide)
  refine ⟨hphase, ?_, Logged.of_eq hlog rfl rfl hsame, fun h => (hstop (hruns.trans h)).trans hlinks, fun h n hn hp hl => ?_⟩
  · rw [hat, hf.clock_eq]
    rfl
  · exact hrun (hruns.trans h) n (hbuild ▸ hn) ((habsent n).trans hp) ((congrArg (fun l => (tget Link.down n l).state) hlinks).trans hl)

/-! #### The limit of phase 7 -/

/-- A port whose link is not UP is found untrained. -/
def untrained (s : State) (n : Nat) : State := if (linkAt n s).state = 2 then s else notice 0x96 (ringSource n) s

theorem untrained_frame {n : Nat} (h : OnlyChanges ps r s) (hq : [.log, .setNow, .regs] ⊆ ps := by decide) : OnlyChanges ps r (untrained s n) :=
  h.then (ps := [.log, .setNow, .regs]) (.ite (.refl s) (notice_frame (.refl s))) hq

theorem untrained_keeps {n : Nat} (h : Keeps r s) : Keeps r (untrained s n) := .ite h (notice_keeps h)

/-- The list's ports that are not UP enter in its order. -/
theorem untrained_entries {l : List Nat} (hroom : s.log.entries.length + (l.filter fun n => (linkAt n s).state != 2).length ≤ 31) :
    ∃ es, (l.foldl untrained s).log.entries = s.log.entries ++ es
      ∧ es.map (fun e => (e.code, e.source)) = (l.filter fun n => (linkAt n s).state != 2).map fun n => (0x96#8, source 2 n) := by
  induction l generalizing s with
  | nil => exact ⟨[], (List.append_nil _).symm, rfl⟩
  | cons m l ih =>
    by_cases hup : (linkAt m s).state = 2
    · have hm : untrained s m = s := if_pos hup
      have hskip : ((m :: l).filter fun n => (linkAt n s).state != 2) = l.filter fun n => (linkAt n s).state != 2 := by simp [hup]
      rw [hskip] at hroom ⊢
      rw [List.foldl_cons, hm]
      exact ih hroom
    · have hm : untrained s m = notice 0x96 (ringSource m) s := if_neg hup
      have htake : ((m :: l).filter fun n => (linkAt n s).state != 2) = m :: l.filter fun n => (linkAt n s).state != 2 := by simp [hup]
      rw [htake, List.length_cons] at hroom
      rw [htake, List.foldl_cons, hm]
      obtain ⟨e, he, hcode, -, hsource, -⟩ : Logged 0x96 clsNotice (ringSource m) s (notice 0x96 (ringSource m) s) := notice_logged (by unfold LogRoom; omega) (.inr (by decide))
      have hlinks : (notice 0x96 (ringSource m) s).links = s.links := (notice_frame (ps := [.log, .setNow, .regs]) (.refl s)) .links (by decide)
      generalize notice 0x96 (ringSource m) s = x at he hlinks ⊢
      have hat (n : Nat) : linkAt n x = linkAt n s := congrArg (tget Link.down n) hlinks
      obtain ⟨es, hes, hmap⟩ := ih (s := x) (by simp only [he, hat, List.length_append, List.length_cons, List.length_nil]; omega)
      refine ⟨e :: es, ?_, ?_⟩
      · rw [hes, he, List.append_assoc, List.singleton_append]
      · simp only [hat] at hmap
        rw [List.map_cons, List.map_cons, hmap, hcode, hsource]
        rfl

theorem trainTimeout (hw : s.tablesWf = true) (halive : alive s = true) (h7 : phaseOf s = 7) (hlast : lasted (regNat rTRAIN_WAIT s) s.clock.phaseAt s = true)
    (hroom : s.log.entries.length + (portsDown s).length ≤ 31) (ha : applies .trainTimeout s = true) : Answers .trainTimeout s fun t =>
      phaseOf t = 8 ∧ t.links = s.links
        ∧ (t.log.entries.drop s.log.entries.length).map (fun e => (e.code, e.source)) = (portsDown s).map (fun n => (0x96#8, source 2 n))
        ∧ t.log.entries.take s.log.entries.length = s.log.entries ∧ OnlyChanges [.reached, .clock, .regs, .setNow, .log] s t := by
  refine answers_next rfl rfl ha fun q => ?_
  have hgo : (alive s && phaseOf s == 7 && lasted (regNat rTRAIN_WAIT s) s.clock.phaseAt s) = true := by simp [halive, h7, hlast]
  have heq : trainTimeoutApply (withReached q s) = setPhase 8 ((mappedPorts s).foldl untrained (withReached q s)) := if_pos hgo
  have hframe : OnlyChanges [.reached, .clock, .regs, .setNow, .log] s (trainTimeoutApply (withReached q s)) := withReached_frame (trainTimeoutApply_frame (.refl _))
  have hdown : portsDown s = (mappedPorts s).filter fun n => (linkAt n (withReached q s)).state != 2 := by
    unfold portsDown mappedPorts
    rw [List.filter_filter]
    exact List.filter_congr fun n _ => Bool.and_comm _ _
  obtain ⟨es, hes, hmap⟩ := untrained_entries (s := withReached q s) (hdown ▸ hroom)
  rw [← hdown] at hmap
  have hfw : ((mappedPorts s).foldl untrained (withReached q s)).tablesWf = true :=
    (Keeps.foldl (.refl _) fun _ _ h => untrained_keeps h).tablesWf (show (withReached q s).tablesWf = true from hw)
  rw [heq] at hframe ⊢
  generalize (mappedPorts s).foldl untrained (withReached q s) = x at hes hfw hframe ⊢
  have hlog : (setPhase 8 x).log.entries = s.log.entries ++ es := hes
  refine ⟨phaseOf_setPhase (by decide) (regs_wf hfw), hframe .links (by decide), ?_, ?_, hframe⟩
  · rw [hlog, List.drop_left, hmap]
  · rw [hlog, List.take_left]

end

theorem phaseTimeouts : Claims.PhaseTimeouts := fun _ hw halive =>
  ⟨imageTimeout hw halive, lockTimeout hw halive, trainTimeout hw halive⟩

end Sys2Proof.Machine
end

section
/-! PROOF. Start-up reads its trims, and what they calibrate (R359 to R361, R368). -/

namespace Sys2Proof.Machine

-- The inclusions that frames ask for are auto parameters, whose code is compiled: with proofs elaborated in order no thread waits for it.
set_option Elab.async false

/-! ### The words of the trim set -/

section
variable {s t x y : State} {w : List Word} {b : BootInput} {a k n off : Nat} {v : Word}

/-- A list's words stored at their places. -/
def wordsStored (l : List (Word × Nat)) (t : Table Word) : Table Word := l.foldl (fun t x => tset 0#32 x.2 x.1 t) t

theorem tget_wordsStored {l : List Word} {m : Nat} {t : Table Word} (h : tableWf 0#32 t = true) :
    tget 0#32 k (wordsStored (l.zipIdx m) t) = if m ≤ k ∧ k < m + l.length then l.getD (k - m) 0#32 else tget 0#32 k t := by
  induction l generalizing m t with
  | nil => exact (if_neg (by simp)).symm
  | cons v l ih =>
    have hstep : wordsStored ((v :: l).zipIdx m) t = wordsStored (l.zipIdx (m + 1)) (tset 0#32 m v t) := rfl
    rw [hstep, ih (tset_wf m v t h), List.length_cons]
    rcases lt_trichotomy k m with hlt | rfl | hgt
    · rw [if_neg (by omega), if_neg (by omega), tget_tset_ne (by omega)]
    · rw [if_neg (by omega), if_pos (by omega), tget_tset_self _ _ _ h, Nat.sub_self]
      rfl
    · rw [tget_tset_ne (by omega), show k - m = (k - (m + 1)) + 1 by omega, List.getD_cons_succ]
      exact if_congr (by omega) rfl rfl

theorem trimWord_trimsStored (hk : k < 1024) : trimWord k (trimsStored w s) = w.getD k 0#32 := by
  have h : trimWord k (trimsStored w s) = tget 0#32 k (wordsStored ((w.take 1024).zipIdx 0) []) := rfl
  rw [h, tget_wordsStored rfl, List.length_take, Nat.sub_zero, Nat.zero_add]
  by_cases hlen : k < w.length
  · rw [if_pos (by omega)]
    simp [List.getD_eq_getElem?_getD, hk]
  · rw [if_neg (by omega), List.getD_eq_default _ _ (by omega)]
    rfl

theorem trimsJudged_spec (hw : s.tablesWf = true) : let x := trimsJudged w s
    x.boot.trimsValid = trimsGood w ∧ x.tabs.trims = (trimsStored w s).tabs.trims ∧ x.out = s.out ++ (List.range 1024).map .trimRead ∧ x.build = s.build
      ∧ x.tablesWf = true ∧ (trimsGood w = false → (reg rCFG_STATUS x).getLsbD 1 = true) := by
  have hb : (trimsStored w s).boot.trimsValid = trimsGood w ∧ (trimsStored w s).out = s.out ++ (List.range 1024).map .trimRead ∧ (trimsStored w s).build = s.build := ⟨rfl, rfl, rfl⟩
  have hkeep : Keeps s (trimsStored w s) := by
    have h : Keeps s (presentAll ((List.range 1024).map .trimRead) s) := presentAll_keeps (.refl s)
    exact storeTrims_keeps (s := { presentAll ((List.range 1024).map .trimRead) s with
      boot := { (presentAll ((List.range 1024).map .trimRead) s).boot with trimsValid := trimsGood w } }) { h with }
  unfold trimsJudged
  generalize trimsStored w s = p at hb hkeep ⊢
  obtain ⟨hvalid, hout, hbuild⟩ := hb
  have hpw : p.tablesWf = true := hkeep.tablesWf hw
  split
  · next hgood => exact ⟨hvalid, rfl, hout, hbuild, hpw, fun h => absurd hgood (by simp [h])⟩
  · have hf : OnlyChanges [.setNow, .regs, .log] p (cfgBit 1 (notice 0x92 (source 0 0) p)) := cfgBit_frame (notice_frame (.refl p))
    have hnw : (notice 0x92 (source 0 0) p).tablesWf = true := (notice_keeps (.refl p)).tablesWf hpw
    have hcw : (cfgBit 1 (notice 0x92 (source 0 0) p)).tablesWf = true := (cfgBit_keeps (.refl _)).tablesWf hnw
    have hmark : (reg rCFG_STATUS (cfgBit 1 (notice 0x92 (source 0 0) p))).getLsbD 1 = true := getLsbD_orReg_mask (regs_wf hnw) (by decide)
    generalize cfgBit 1 (notice 0x92 (source 0 0) p) = c at hf hcw hmark ⊢
    have hboot : c.boot = p.boot := hf .boot (by decide)
    exact ⟨hboot ▸ hvalid, hf .trims (by decide), (hf .out (by decide)).trans hout, (hf .build (by decide)).trans hbuild, hcw, fun _ => hmark⟩

/-! ### The settings of the ASSAY page -/

/-- A setting of the assay's leaves the thresholds clamped, and its floor. -/
theorem thresholdTaken (hk : k < 2) (ho : off = 0x040 + 4 * k ∨ off = 0x048 + 4 * k) (hw : s.tablesWf = true) : let t := assaySetting off v s
    t.tablesWf = true ∧ ∀ j, j < 2 → reg (0x0B048 + 4 * j) t = (if off = 0x048 + 4 * j then v &&& 0x3FFF#32 else reg (0x0B048 + 4 * j) s)
      ∧ regNat (0x0B040 + 4 * j) t = min (if off = 0x040 + 4 * j then v.toNat % 2 ^ 14 else regNat (0x0B040 + 4 * j) s) (regNat (0x0B048 + 4 * j) t) := by
  rw [assaySetting_threshold hk ho]
  have hregs : tableWfBy regReset s.regs = true := regs_wf hw
  have h14 : (v &&& 0x3FFF#32).toNat = v.toNat % 2 ^ 14 := toNat_and_low (k := 14) rfl (by decide)
  refine ⟨(clampTh_keeps (setReg_keeps (.refl s))).tablesWf hw, fun j hj => ?_⟩
  obtain ⟨hth, hfloor⟩ := clampTh_spec hj (setReg_regs_wf (a := 0x0B000 + off) (v := v &&& 0x3FFF#32) hregs)
  refine ⟨hfloor.trans ?_, hth.trans (congrArg₂ min ?_ rfl)⟩
  · split
    · next h =>
      rw [show 0x0B048 + 4 * j = 0x0B000 + off by omega]
      exact reg_setReg_self hregs
    · exact reg_setReg_ne (by omega)
  · split
    · next h =>
      rw [show 0x0B040 + 4 * j = 0x0B000 + off by omega, ← h14]
      exact regNat_setReg_self hregs
    · exact regNat_setReg_ne (by omega)

/-- A setting that ends as one register's value. -/
structure SetsReg (a : Nat) (v : Word) (s t : State) : Prop where
  value : reg a t = v
  others : RegsKeep [a] s t
  tables : t.tablesWf = true

theorem setReg_setsReg (hw : s.tablesWf = true) : SetsReg a v s (setReg a v s) :=
  ⟨reg_setReg_self (regs_wf hw), setReg_regsKeep (.refl s) List.mem_cons_self, (setReg_keeps (.refl s)).tablesWf hw⟩

theorem SetsReg.emptied (h : SetsReg a v s t) : SetsReg a v s (emptyWindow t) := ⟨h.value, h.others, h.tables⟩

theorem policyTaken (hw : s.tablesWf = true) : SetsReg rPOLICY (policyKept v) s (assaySetting 0x050 v s) := by
  rw [assaySetting_policy]
  split
  · exact setReg_setsReg hw
  · exact (setReg_setsReg hw).emptied

/-- STEP as it is kept. -/
def stepKept (v : Word) : Word := if fieldOf v 0 13 = 0 then 1#32 else if 4096 < fieldOf v 0 13 then 0x1000#32 else BitVec.ofNat 32 (fieldOf v 0 13)
/-- The field of WINDOW, whose 7 is taken as 6; and WINDOW as it is kept. -/
def fieldWindow (v : Word) : Nat := if fieldOf v 0 3 = 7 then 6 else fieldOf v 0 3
def windowKept (v : Word) : Word := BitVec.ofNat 32 (fieldWindow v)

theorem toNat_stepKept : (stepKept v).toNat = min 4096 (max 1 (v.toNat % 2 ^ 13)) := by
  have hn : fieldOf v 0 13 = v.toNat % 2 ^ 13 := rfl
  have hlt : fieldOf v 0 13 < 2 ^ 13 := fieldOf_lt (n := 13)
  rw [← hn]
  unfold stepKept
  split
  · next h0 => rw [h0]; rfl
  · split
    · next h1 => rw [Nat.min_eq_left (by omega)]; rfl
    · rw [BitVec.toNat_ofNat]
      omega

theorem toNat_windowKept : (windowKept v).toNat = min 6 (v.toNat % 8) := by
  have hv : fieldOf v 0 3 = v.toNat % 8 := rfl
  rw [windowKept, fieldWindow, BitVec.toNat_ofNat, hv]
  split <;> omega

theorem stepTaken (hw : s.tablesWf = true) : SetsReg rSTEP (stepKept v) s (assaySetting 0x05C v s) := setReg_setsReg hw

theorem windowTaken (hw : s.tablesWf = true) : SetsReg rWINDOW (windowKept v) s (assaySetting 0x060 v s) := by
  have h : assaySetting 0x060 v s = if fieldWindow v = regNat rWINDOW s then setReg rWINDOW (windowKept v) s
      else emptyWindow (setReg rWINDOW (windowKept v) s) := rfl
  rw [h]
  split
  · exact setReg_setsReg hw
  · exact (setReg_setsReg hw).emptied

/-- The two floors and the two thresholds, each from its word. -/
def thresholdsTaken (f : Nat → Word) (s : State) : State :=
  assaySetting 0x044 (f 0x044) (assaySetting 0x040 (f 0x040) (assaySetting 0x04C (f 0x04C) (assaySetting 0x048 (f 0x048) s)))
/-- The other five settings. -/
def policiesTaken (f : Nat → Word) (s : State) : State :=
  assaySetting 0x060 (f 0x060) (assaySetting 0x05C (f 0x05C) (assaySetting 0x058 (f 0x058) (assaySetting 0x054 (f 0x054) (assaySetting 0x050 (f 0x050) s))))

theorem thresholdsTaken_spec (hw : s.tablesWf = true) (f : Nat → Word) : let t := thresholdsTaken f s
    t.tablesWf = true ∧ ∀ j, j < 2 → reg (0x0B048 + 4 * j) t = f (0x048 + 4 * j) &&& 0x3FFF#32
      ∧ regNat (0x0B040 + 4 * j) t = min ((f (0x040 + 4 * j)).toNat % 2 ^ 14) ((f (0x048 + 4 * j)).toNat % 2 ^ 14) := by
  unfold thresholdsTaken
  obtain ⟨hw1, h1⟩ := thresholdTaken (k := 0) (off := 0x048) (v := f 0x048) (by decide) (.inr rfl) hw
  generalize assaySetting 0x048 (f 0x048) s = s1 at hw1 h1 ⊢
  obtain ⟨hw2, h2⟩ := thresholdTaken (k := 1) (off := 0x04C) (v := f 0x04C) (by decide) (.inr rfl) hw1
  generalize assaySetting 0x04C (f 0x04C) s1 = s2 at hw2 h2 ⊢
  obtain ⟨hw3, h3⟩ := thresholdTaken (k := 0) (off := 0x040) (v := f 0x040) (by decide) (.inl rfl) hw2
  generalize assaySetting 0x040 (f 0x040) s2 = s3 at hw3 h3 ⊢
  obtain ⟨hw4, h4⟩ := thresholdTaken (k := 1) (off := 0x044) (v := f 0x044) (by decide) (.inl rfl) hw3
  generalize assaySetting 0x044 (f 0x044) s3 = s4 at hw4 h4 ⊢
  have hfloor (j : Nat) (hj : j < 2) : reg (0x0B048 + 4 * j) s4 = f (0x048 + 4 * j) &&& 0x3FFF#32 ∧ reg (0x0B048 + 4 * j) s3 = f (0x048 + 4 * j) &&& 0x3FFF#32 := by
    have hj2 : j = 0 ∨ j = 1 := by omega
    rw [(h4 j hj).1, if_neg (by omega), (h3 j hj).1, if_neg (by omega), (h2 j hj).1]
    rcases hj2 with rfl | rfl
    · rw [if_neg (by decide), (h1 0 hj).1, if_pos rfl]
      exact ⟨rfl, rfl⟩
    · exact ⟨rfl, rfl⟩
  refine ⟨hw4, fun j hj => ⟨(hfloor j hj).1, ?_⟩⟩
  have hfloorNat (t : State) (h : reg (0x0B048 + 4 * j) t = f (0x048 + 4 * j) &&& 0x3FFF#32) : regNat (0x0B048 + 4 * j) t = (f (0x048 + 4 * j)).toNat % 2 ^ 14 :=
    (congrArg BitVec.toNat h).trans (toNat_and_low (k := 14) rfl (by decide))
  have hj2 : j = 0 ∨ j = 1 := by omega
  rw [(h4 j hj).2, hfloorNat s4 (hfloor j hj).1]
  rcases hj2 with rfl | rfl
  · rw [if_neg (by decide), (h3 0 hj).2, if_pos rfl, hfloorNat s3 (hfloor 0 hj).2, Nat.min_assoc, Nat.min_self]
  · rw [if_pos rfl]

/-- The registers of the five settings. -/
def policyRegs : List Nat := [rPOLICY, rTARGET, rBAND, rSTEP, rWINDOW]

theorem policiesTaken_spec (hw : s.tablesWf = true) (f : Nat → Word) : let t := policiesTaken f s
    reg rPOLICY t = policyKept (f 0x050) ∧ reg rTARGET t = f 0x054 &&& 0xFFFF#32 ∧ reg rBAND t = f 0x058 &&& 0xFFFF#32 ∧ reg rSTEP t = stepKept (f 0x05C)
      ∧ reg rWINDOW t = windowKept (f 0x060) ∧ RegsKeep policyRegs s t := by
  unfold policiesTaken
  have h1 := policyTaken (v := f 0x050) hw
  generalize assaySetting 0x050 (f 0x050) s = s1 at h1 ⊢
  have h2 : SetsReg rTARGET (f 0x054 &&& 0xFFFF#32) s1 (assaySetting 0x054 (f 0x054) s1) := setReg_setsReg h1.tables
  generalize assaySetting 0x054 (f 0x054) s1 = s2 at h2 ⊢
  have h3 : SetsReg rBAND (f 0x058 &&& 0xFFFF#32) s2 (assaySetting 0x058 (f 0x058) s2) := setReg_setsReg h2.tables
  generalize assaySetting 0x058 (f 0x058) s2 = s3 at h3 ⊢
  have h4 := stepTaken (v := f 0x05C) h3.tables
  generalize assaySetting 0x05C (f 0x05C) s3 = s4 at h4 ⊢
  have h5 := windowTaken (v := f 0x060) h4.tables
  generalize assaySetting 0x060 (f 0x060) s4 = s5 at h5 ⊢
  refine ⟨?_, ?_, ?_, ?_, h5.value, fun a ha => ?_⟩
  · rw [h5.others _ (by decide), h4.others _ (by decide), h3.others _ (by decide), h2.others _ (by decide), h1.value]
  · rw [h5.others _ (by decide), h4.others _ (by decide), h3.others _ (by decide), h2.value]
  · rw [h5.others _ (by decide), h4.others _ (by decide), h3.value]
  · rw [h5.others _ (by decide), h4.value]
  · simp only [policyRegs, List.mem_cons, List.not_mem_nil, or_false, not_or] at ha
    obtain ⟨ha1, ha2, ha3, ha4, ha5⟩ := ha
    rw [h5.others _ (by simpa using ha5), h4.others _ (by simpa using ha4), h3.others _ (by simpa using ha3), h2.others _ (by simpa using ha2), h1.others _ (by simpa using ha1)]

/-- The nine settings from their words (R361, R428, R429). -/
theorem settingsTaken_spec (hw : s.tablesWf = true) (f : Nat → Word) : AssayTakes (fun i => f (0x040 + 4 * (i - 275))) (policiesTaken f (thresholdsTaken f s)) := by
  obtain ⟨htw, hth⟩ := thresholdsTaken_spec hw f
  generalize thresholdsTaken f s = t at htw hth ⊢
  obtain ⟨hp, ht, hb, hs, hwin, hkeep⟩ := policiesTaken_spec htw f
  generalize policiesTaken f t = u at hp ht hb hs hwin hkeep ⊢
  refine ⟨fun k hk => ?_, hp, ht, hb, (congrArg BitVec.toNat hs).trans toNat_stepKept, (congrArg BitVec.toNat hwin).trans toNat_windowKept⟩
  obtain ⟨hfloor, hlow⟩ := hth k hk
  have hk2 : k = 0 ∨ k = 1 := by omega
  have hmem : 0x0B048 + 4 * k ∉ policyRegs ∧ 0x0B040 + 4 * k ∉ policyRegs := by rcases hk2 with rfl | rfl <;> decide
  have hw1 : 0x040 + 4 * (277 + k - 275) = 0x048 + 4 * k := by omega
  have hw2 : 0x040 + 4 * (275 + k - 275) = 0x040 + 4 * k := by rw [Nat.add_sub_cancel_left]
  simp only [hw1, hw2]
  exact ⟨(hkeep _ hmem.1).trans hfloor, (congrArg BitVec.toNat (hkeep _ hmem.2)).trans hlow⟩

/-! ### What the trims calibrate -/

/-- The setting that the trims give an offset of the ASSAY page. -/
def assayTrim (off : Nat) (s : State) : Word := trimOr (275 + (off - 0x040) / 4) (regReset (pageBase pASSAY + off)) s

theorem trimOr_congr {d : Word} (hb : t.boot = s.boot) (ht : t.tabs.trims = s.tabs.trims) : trimOr n d t = trimOr n d s := by
  unfold trimOr trimWord
  rw [hb, ht]

theorem assayTrims_eq : assayTrims s = policiesTaken (fun off => assayTrim off s) (thresholdsTaken (fun off => assayTrim off s) s) := by
  have hfold (l : List Nat) (t : State) (ht : ∀ off, assayTrim off t = assayTrim off s) :
      l.foldl (fun s off => assaySetting off (assayTrim off s) s) t = l.foldl (fun t off => assaySetting off (assayTrim off s) t) t := by
    induction l generalizing t with
    | nil => rfl
    | cons off l ih =>
      have hf : OnlyChanges [.regs, .assayWin, .setNow] t (assaySetting off (assayTrim off t) t) := assaySetting_frame (.refl t)
      rw [List.foldl_cons, List.foldl_cons, ih _ fun o => (trimOr_congr (hf .boot (by decide)) (hf .trims (by decide))).trans (ht o), ht off]
  have heq : assayTrims s = [0x048, 0x04C, 0x040, 0x044, 0x050, 0x054, 0x058, 0x05C, 0x060].foldl (fun s off => assaySetting off (assayTrim off s) s) s := rfl
  rw [heq, hfold _ s fun _ => rfl]
  simp only [List.foldl_cons, List.foldl_nil, policiesTaken, thresholdsTaken]

/-- The registers that no step of start-up but the trims' writes: those outside the page headers but CONFIG.STATUS and the log's overrun. -/
def RegsApart (s t : State) : Prop := ∀ a, 0x040 ≤ a % 0x1000 → a ≠ rCFG_STATUS → a ≠ rOVERRUN → reg a t = reg a s

theorem RegsApart.trans (h : RegsApart s t) (h' : RegsApart t x) : RegsApart s x := fun a h1 h2 h3 => (h' a h1 h2 h3).trans (h a h1 h2 h3)

/-- What a trim set has calibrated (R359, R361). -/
structure Calibrated (w : List Word) (s t : State) : Prop where
  valid : t.boot.trimsValid = trimsGood w
  words : ∀ k, k < 1024 → trimWord k t = w.getD k 0#32
  out : t.out = s.out ++ (List.range 1024).map .trimRead
  build : t.build = s.build
  delay : reg rINPUT_DELAY t = trimOr 258 0#32 t &&& 0xFFFF#32
  phy : ∀ n, n < s.build.ringPorts → reg (rPHY_CFG_LO n) t = trimOr (259 + 2 * n) 0#32 t ∧ reg (rPHY_CFG_LO n + 4) t = trimOr (260 + 2 * n) 0#32 t
  assay : AssayTakes (fun i => assayTrim (0x040 + 4 * (i - 275)) t) t

theorem assayTakes_apart {f g : Nat → Word} (h : AssayTakes f s) (hf : ∀ i, 275 ≤ i → i ≤ 283 → g i = f i) (hr : RegsApart s t) : AssayTakes g t := by
  obtain ⟨hth, hp, ht, hb, hstep, hwin⟩ := h
  unfold AssayTakes
  refine ⟨fun k hk => ?_, ?_, ?_, ?_, ?_, ?_⟩
  · have hk2 : k = 0 ∨ k = 1 := by omega
    rw [regNat, hf _ (by omega) (by omega), hf _ (by omega) (by omega)]
    rcases hk2 with rfl | rfl
    · rw [hr (0x0B048 + 4 * 0) (by decide) (by decide) (by decide), hr (0x0B040 + 4 * 0) (by decide) (by decide) (by decide)]
      exact hth 0 hk
    · rw [hr (0x0B048 + 4 * 1) (by decide) (by decide) (by decide), hr (0x0B040 + 4 * 1) (by decide) (by decide) (by decide)]
      exact hth 1 hk
  · rw [hr _ (by decide) (by decide) (by decide), hf _ (by decide) (by decide), hp]
  · rw [hr _ (by decide) (by decide) (by decide), hf _ (by decide) (by decide), ht]
  · rw [hr _ (by decide) (by decide) (by decide), hf _ (by decide) (by decide), hb]
  · rw [regNat, hr _ (by decide) (by decide) (by decide), hf _ (by decide) (by decide)]
    exact hstep
  · rw [regNat, hr _ (by decide) (by decide) (by decide), hf _ (by decide) (by decide)]
    exact hwin

theorem rPHY_apart : 0x040 ≤ rPHY_CFG_LO n % 0x1000 ∧ rPHY_CFG_LO n ≠ rCFG_STATUS ∧ rPHY_CFG_LO n ≠ rOVERRUN
    ∧ 0x040 ≤ (rPHY_CFG_LO n + 4) % 0x1000 ∧ rPHY_CFG_LO n + 4 ≠ rCFG_STATUS ∧ rPHY_CFG_LO n + 4 ≠ rOVERRUN := by
  unfold rPHY_CFG_LO pageBase pRING rCFG_STATUS rOVERRUN
  omega

theorem Calibrated.kept (h : Calibrated w s t) (hr : RegsApart t x) (hv : x.boot.trimsValid = t.boot.trimsValid) (ht : x.tabs.trims = t.tabs.trims) (ho : x.out = t.out)
    (hb : x.build = t.build) : Calibrated w s x := by
  have hor (n : Nat) (d : Word) : trimOr n d x = trimOr n d t := by
    unfold trimOr trimWord
    rw [hv, ht]
  refine ⟨hv.trans h.valid, fun k hk => ?_, ho.trans h.out, hb.trans h.build, ?_, fun n hn => ?_, assayTakes_apart h.assay (fun i _ _ => hor _ _) hr⟩
  · rw [trimWord, ht]
    exact h.words k hk
  · rw [hr _ (by decide) (by decide) (by decide), hor]
    exact h.delay
  · obtain ⟨h1, h2, h3, h4, h5, h6⟩ := rPHY_apart (n := n)
    rw [hr _ h1 h2 h3, hr _ h4 h5 h6, hor, hor]
    exact h.phy n hn

/-- A port's PHY settings take their trims. -/
def phyTaken (s : State) (n : Nat) : State :=
  setReg (rPHY_CFG_LO n + 4) (trimOr (260 + 2 * n) 0#32 s) (setReg (rPHY_CFG_LO n) (trimOr (259 + 2 * n) 0#32 s) s)

theorem phyTaken_keeps {r : State} (h : Keeps r s) : Keeps r (phyTaken s n) := setReg_keeps (setReg_keeps h)

theorem trimOr_phyTaken {d : Word} {m : Nat} : trimOr m d (phyTaken s n) = trimOr m d s := trimOr_congr rfl rfl

theorem phyTaken_self (hw : s.tablesWf = true) : reg (rPHY_CFG_LO n) (phyTaken s n) = trimOr (259 + 2 * n) 0#32 s ∧ reg (rPHY_CFG_LO n + 4) (phyTaken s n) = trimOr (260 + 2 * n) 0#32 s :=
  ⟨(reg_setReg_ne (by omega)).trans (reg_setReg_self (regs_wf hw)), reg_setReg_self (setReg_regs_wf (regs_wf hw))⟩

theorem phyTaken_other (h1 : a ≠ rPHY_CFG_LO n) (h2 : a ≠ rPHY_CFG_LO n + 4) : reg a (phyTaken s n) = reg a s :=
  (reg_setReg_ne h2).trans (reg_setReg_ne h1)

/-- Every port's PHY settings take their trims (R361). -/
theorem phyTrims_spec (hw : s.tablesWf = true) (hn : n < s.build.ringPorts) :
    reg (rPHY_CFG_LO n) (phyTrims s) = trimOr (259 + 2 * n) 0#32 s ∧ reg (rPHY_CFG_LO n + 4) (phyTrims s) = trimOr (260 + 2 * n) 0#32 s := by
  have heq : phyTrims s = (List.range s.build.ringPorts).foldl phyTaken s := rfl
  rw [heq]
  refine foldl_establishes (I := fun t => t.tablesWf = true ∧ ∀ k, trimOr k 0#32 t = trimOr k 0#32 s) (x := n)
    (Q := fun t => reg (rPHY_CFG_LO n) t = trimOr (259 + 2 * n) 0#32 s ∧ reg (rPHY_CFG_LO n + 4) t = trimOr (260 + 2 * n) 0#32 s)
    (fun t y ht => ⟨(phyTaken_keeps (.refl t)).tablesWf ht.1, fun k => trimOr_phyTaken.trans (ht.2 k)⟩) (fun t y ht hq => ?_) (fun t ht => ?_) (List.mem_range.mpr hn) ⟨hw, fun _ => rfl⟩
  · rcases eq_or_ne n y with rfl | hne
    · rw [← ht.2, ← ht.2]
      exact phyTaken_self ht.1
    · have hapart : rPHY_CFG_LO n ≠ rPHY_CFG_LO y ∧ rPHY_CFG_LO n ≠ rPHY_CFG_LO y + 4 ∧ rPHY_CFG_LO n + 4 ≠ rPHY_CFG_LO y ∧ rPHY_CFG_LO n + 4 ≠ rPHY_CFG_LO y + 4 := by
        unfold rPHY_CFG_LO pageBase pRING
        omega
      obtain ⟨h1, h2, h3, h4⟩ := hapart
      rw [phyTaken_other h1 h2, phyTaken_other h3 h4]
      exact hq
  · rw [← ht.2, ← ht.2]
    exact phyTaken_self ht.1

theorem phyTrims_other (h : a < 0x18000) : reg a (phyTrims s) = reg a s := by
  have hfold (l : List Nat) (t : State) : reg a (l.foldl phyTaken t) = reg a t := by
    induction l generalizing t with
    | nil => rfl
    | cons n l ih =>
      have hn : a ≠ rPHY_CFG_LO n ∧ a ≠ rPHY_CFG_LO n + 4 := by
        unfold rPHY_CFG_LO pageBase pRING
        omega
      exact (ih (phyTaken t n)).trans (phyTaken_other hn.1 hn.2)
  exact hfold _ s

/-- The registers of the nine settings. -/
def assayRegs : List Nat := [rTH_E2M1, rTH_E4M3, rFLOOR_E2M1, rFLOOR_E4M3, rPOLICY, rTARGET, rBAND, rSTEP, rWINDOW]

theorem thresholdsTaken_regsKeep {f : Nat → Word} : RegsKeep assayRegs s (thresholdsTaken f s) := by
  have hstep {k off : Nat} {r t : State} {v : Word} (hk : k < 2) (ho : off = 0x040 + 4 * k ∨ off = 0x048 + 4 * k) (h : RegsKeep assayRegs r t) :
      RegsKeep assayRegs r (assaySetting off v t) := by
    rw [assaySetting_threshold hk ho]
    refine clampTh_regsKeep (setReg_regsKeep h ?_) (by decide) (by decide)
    have hk2 : k = 0 ∨ k = 1 := by omega
    rcases hk2 with rfl | rfl <;> rcases ho with rfl | rfl <;> decide
  exact hstep (k := 1) (by decide) (.inl rfl) (hstep (k := 0) (by decide) (.inl rfl) (hstep (k := 1) (by decide) (.inr rfl) (hstep (k := 0) (by decide) (.inr rfl) (.refl s))))

theorem assayTrims_regsKeep (hw : s.tablesWf = true) : RegsKeep assayRegs s (assayTrims s) := by
  rw [assayTrims_eq]
  have hkeep := thresholdsTaken_regsKeep (s := s) (f := fun off => assayTrim off s)
  obtain ⟨htw, -⟩ := thresholdsTaken_spec hw fun off => assayTrim off s
  exact hkeep.then ((policiesTaken_spec htw _).2.2.2.2.2.mono (by decide))

/-- The trims are read, judged, and calibrate (R359 to R361). -/
theorem trimPhase_spec (hw : s.tablesWf = true) : let t := trimPhase w s
    Calibrated w s t ∧ t.clock = s.clock ∧ t.tablesWf = true ∧ (trimsGood w = false → (reg rCFG_STATUS t).getLsbD 1 = true) := by
  rw [trimPhase_eq]
  obtain ⟨hvalid, htrims, hout, hbuild, hxw, hmark⟩ := trimsJudged_spec (w := w) hw
  have hwords (k : Nat) (hk : k < 1024) : trimWord k (trimsJudged w s) = w.getD k 0#32 := by
    rw [trimWord, htrims]
    exact trimWord_trimsStored hk
  have hclock : (trimsJudged w s).clock = s.clock := (trimsJudged_frame (ps := [.out, .trims, .boot, .setNow, .regs, .log]) (.refl s)).clock_eq
  generalize trimsJudged w s = x at hvalid htrims hout hbuild hxw hmark hwords hclock ⊢
  have hf1 : OnlyChanges [.regs, .mer] x (delayTaken x) := delayTaken_frame (.refl x)
  have hw1 : (delayTaken x).tablesWf = true := (setReg_keeps (s := { x with mer := { x.mer with delayAt := (trimOr 258 0#32 x &&& 0xFFFF#32).toNat } }) (.refl _)).tablesWf hxw
  have hdelay : reg rINPUT_DELAY (delayTaken x) = trimOr 258 0#32 x &&& 0xFFFF#32 :=
    reg_setReg_self (s := { x with mer := { x.mer with delayAt := (trimOr 258 0#32 x &&& 0xFFFF#32).toNat } }) (regs_wf hxw)
  have hk1 : RegsKeep [rINPUT_DELAY] x (delayTaken x) := setReg_regsKeep (s := { x with mer := { x.mer with delayAt := (trimOr 258 0#32 x &&& 0xFFFF#32).toNat } }) (.refl x) List.mem_cons_self
  generalize delayTaken x = y at hf1 hw1 hdelay hk1 ⊢
  have hf2 : OnlyChanges [.regs] y (phyTrims y) := phyTrims_frame (.refl y)
  have hw2 : (phyTrims y).tablesWf = true := (Keeps.foldl (.refl y) fun t n h => phyTaken_keeps (n := n) h).tablesWf hw1
  have hphy (n : Nat) (hn : n < y.build.ringPorts) := phyTrims_spec hw1 hn
  have hk2 (a : Nat) (h : a < 0x18000) : reg a (phyTrims y) = reg a y := phyTrims_other h
  generalize phyTrims y = z at hf2 hw2 hphy hk2 ⊢
  have hf3 : OnlyChanges [.regs, .assayWin, .setNow] z (assayTrims z) := assayTrims_frame (.refl z)
  have hw3 : (assayTrims z).tablesWf = true := (assayTrims_keeps (.refl z)).tablesWf hw2
  have hassay : AssayTakes (fun i => assayTrim (0x040 + 4 * (i - 275)) z) (assayTrims z) := assayTrims_eq (s := z) ▸ settingsTaken_spec hw2 fun off => assayTrim off z
  have hk3 := assayTrims_regsKeep hw2
  generalize assayTrims z = t at hf3 hw3 hassay hk3 ⊢
  have hf : OnlyChanges [.regs, .mer, .assayWin, .setNow] x t := ((hf1.mono (by decide)).trans (hf2.mono (by decide))).trans (hf3.mono (by decide))
  have hor (n : Nat) (d : Word) : trimOr n d t = trimOr n d x := trimOr_congr (hf .boot (by decide)) (hf .trims (by decide))
  have hory (n : Nat) (d : Word) : trimOr n d y = trimOr n d x := trimOr_congr (hf1 .boot (by decide)) (hf1 .trims (by decide))
  have horz (n : Nat) (d : Word) : trimOr n d z = trimOr n d y := trimOr_congr (hf2 .boot (by decide)) (hf2 .trims (by decide))
  refine ⟨⟨?_, fun k hk => ?_, (hf .out (by decide)).trans hout, (hf .build (by decide)).trans hbuild, ?_, fun n hn => ?_, ?_⟩, hf.clock_eq.trans hclock, hw3, fun hbad => ?_⟩
  · exact (congrArg Boot.trimsValid (hf .boot (by decide) : t.boot = x.boot)).trans hvalid
  · rw [← hwords k hk, trimWord, trimWord, (hf .trims (by decide) : t.tabs.trims = x.tabs.trims)]
  · rw [hor, ← hdelay, hk3 _ (by decide), hk2 _ (by decide)]
  · have hny : n < y.build.ringPorts := by rwa [(hf1 .build (by decide) : y.build = x.build), hbuild]
    have hmem : rPHY_CFG_LO n ∉ assayRegs ∧ rPHY_CFG_LO n + 4 ∉ assayRegs := by
      simp only [assayRegs, rTH_E2M1, rTH_E4M3, rFLOOR_E2M1, rFLOOR_E4M3, rPOLICY, rTARGET, rBAND, rSTEP, rWINDOW, rPHY_CFG_LO, pageBase, pRING, List.mem_cons, List.not_mem_nil, or_false]
      omega
    rw [hor, hor, hk3 _ hmem.1, hk3 _ hmem.2, ← hory, ← hory]
    exact hphy n hny
  · have hsame : (fun i => assayTrim (0x040 + 4 * (i - 275)) t) = fun i => assayTrim (0x040 + 4 * (i - 275)) z :=
      funext fun i => (hor _ _).trans ((horz _ _).trans (hory _ _)).symm
    rw [hsame]
    exact hassay
  · rw [hk3 _ (by decide), hk2 _ (by decide), hk1 _ (by decide)]
    exact hmark hbad

/-! ### The self-test of a block without faulty rows, and the phase of the image -/

/-- The block's own self-test, its faulty rows recorded (R362). -/
def testRecorded (rows : List (Nat × Nat)) (s : State) : State := irq pPOWER 1 { s with boot := { s.boot with testRows := rows } }

theorem selfTest_of_sound (h : failedMacros (testRecorded [] s) = []) : selfTest [] s = testRecorded [] s := by
  have hplanes (l : List Nat) : l.foldl (fun s p => if shareFails p s then failPlane p s else s) (testRecorded [] s) = testRecorded [] s := by
    induction l with
    | nil => rfl
    | cons p l ih =>
      have hp : shareFails p (testRecorded [] s) = false := by rw [shareFails, h, List.any_nil]
      rw [List.foldl_cons, hp, if_neg (by decide)]
      exact ih
  have heq : selfTest [] s = (let t := (List.range (testRecorded [] s).build.planes).foldl (fun s p => if shareFails p s then failPlane p s else s) (testRecorded [] s)
      if (failedMacros t).any fun m => (Config.macroPlane m).isNone then fabricFatalNow 0xF0 (source 0 0) t else t) := rfl
  rw [heq, hplanes]
  dsimp only
  rw [h, List.any_nil, if_neg (by decide)]

/-- A block whose trims name no faulty row, or are invalid, has no macro that fails. -/
theorem failedMacros_of_none (hv : s.boot.trimsValid = true → ∀ i, i < 256 → bitOf (trimWord (2 + i) s) 31 = false) : failedMacros (testRecorded [] s) = [] := by
  have hnamed : ((List.range 256).filterMap fun i => let w := trimWord (2 + i) (testRecorded [] s)
      if (testRecorded [] s).boot.trimsValid && bitOf w 31 then some (fieldOf w 12 12) else none) = [] := by
    refine List.filterMap_eq_nil_iff.mpr fun i hi => if_neg ?_
    rw [Bool.and_eq_true]
    rintro ⟨h1, h2⟩
    have h3 : bitOf (trimWord (2 + i) s) 31 = true := h2
    rw [hv h1 i (List.mem_range.mp hi)] at h3
    exact absurd h3 (by decide)
  unfold failedMacros
  dsimp only at hnamed ⊢
  rw [hnamed]
  rfl

theorem testRecorded_regsApart {rows : List (Nat × Nat)} : RegsApart s (testRecorded rows s) := fun a ha _ _ =>
  reg_irq_ne (s := { s with boot := { s.boot with testRows := rows } }) (by
    unfold rIrqRaw pageBase pPOWER
    omega)

theorem setPhase_regsApart : RegsApart s (setPhase n s) := fun a _ h _ => setReg_regsKeep (.refl s) (List.mem_singleton.mpr rfl) a (by simpa using h)

theorem defaultsNow_regsApart {code : Nat} (hc : codePage code (source 0 0) = pCONFIG) : RegsApart s (defaultsNow code s) := fun a ha h ho => by
  have hirq (p : Nat) : a ≠ rIrqRaw p := by
    unfold rIrqRaw pageBase
    omega
  have hlog : a ∉ logRegs (codePage code (source 0 0)) := by
    simp only [logRegs, List.mem_cons, rErrCode, rErrCount, rIrqRaw, pageBase, List.not_mem_nil, or_false]
    omega
  exact (reg_absentIrq fun n => hirq _).trans ((reg_irq_ne (hirq _)).trans ((reg_setReg_ne h).trans (reg_notice_ne hlog)))

/-- The defaults clear no bit of CONFIG.STATUS. -/
theorem getLsbD_defaultsNow {code i : Nat} (hw : s.tablesWf = true) (hc : codePage code (source 0 0) = pCONFIG) (h : (reg rCFG_STATUS s).getLsbD i = true) :
    (reg rCFG_STATUS (defaultsNow code s)).getLsbD i = true := by
  have hnw : (notice code (source 0 0) s).tablesWf = true := (notice_keeps (.refl s)).tablesWf hw
  have hreg : reg rCFG_STATUS (defaultsNow code s) = reg rCFG_STATUS (cfgBit 0 (notice code (source 0 0) s)) :=
    (reg_absentIrq (ringIrq_ne (by decide))).trans (reg_irq_ne (by decide))
  have hn : reg rCFG_STATUS (notice code (source 0 0) s) = reg rCFG_STATUS s := reg_notice_ne (by rw [hc]; decide)
  rw [hreg, cfgBit, reg_setReg_self (regs_wf hnw), hn, BitVec.getLsbD_or, h, Bool.true_or]

/-- Phase 4 begins, and ends at once where no source of the image is named (R363, R368). -/
theorem imagePhase_spec (hw : s.tablesWf = true) : let t := imagePhase s
    RegsApart s t ∧ t.boot.trimsValid = s.boot.trimsValid ∧ t.tabs.trims = s.tabs.trims ∧ t.out = s.out ∧ t.build = s.build ∧ t.clock.rstN = s.clock.rstN
      ∧ phaseOf t = (if configSrc s < 2 then 4 else 5) ∧ t.clock.phase = (if configSrc s < 2 then 4 else 5)
      ∧ (2 ≤ configSrc s → (reg rCFG_STATUS t).getLsbD 0 = true ∧ ((reg rCFG_STATUS s).getLsbD 1 = true → (reg rCFG_STATUS t).getLsbD 1 = true)) := by
  have heq : imagePhase s = if configSrc s < 2 then setPhase 4 s else afterImage (defaultsNow 0x91 (setPhase 4 s)) := rfl
  rw [heq]
  have hr : RegsApart s (setPhase 4 s) := setPhase_regsApart
  have hpw : (setPhase 4 s).tablesWf = true := (setPhase_keeps (.refl s)).tablesWf hw
  by_cases hsrc : configSrc s < 2
  · rw [if_pos hsrc, if_pos hsrc]
    exact ⟨hr, rfl, rfl, rfl, rfl, rfl, phaseOf_setPhase (by decide) (regs_wf hw), rfl, fun h => absurd hsrc (by omega)⟩
  · rw [if_neg hsrc, if_neg hsrc]
    have hfacts : (setPhase 4 s).boot = s.boot ∧ (setPhase 4 s).tabs.trims = s.tabs.trims ∧ (setPhase 4 s).out = s.out ∧ (setPhase 4 s).build = s.build
        ∧ (setPhase 4 s).clock.rstN = s.clock.rstN := ⟨rfl, rfl, rfl, rfl, rfl⟩
    have hbit1 : (reg rCFG_STATUS (setPhase 4 s)).getLsbD 1 = (reg rCFG_STATUS s).getLsbD 1 := by
      rw [reg_setPhase (regs_wf hw)]
      exact getLsbD_withPhase (by decide)
    generalize setPhase 4 s = x at hr hpw hfacts hbit1 ⊢
    obtain ⟨hb, ht, ho, hbuild, hrst⟩ := hfacts
    have hd := defaultsNow_regsApart (s := x) (code := 0x91) rfl
    have hf : OnlyChanges [.setNow, .regs, .log] x (defaultsNow 0x91 x) := defaultsNow_frame (.refl x)
    have hdw : (defaultsNow 0x91 x).tablesWf = true := (defaultsNow_keeps (.refl x)).tablesWf hpw
    obtain ⟨hbit0, -, hclock⟩ := defaultsNow_spec (code := 0x91) hpw
    have hbit1' : (reg rCFG_STATUS x).getLsbD 1 = true → (reg rCFG_STATUS (defaultsNow 0x91 x)).getLsbD 1 = true := getLsbD_defaultsNow hpw rfl
    generalize defaultsNow 0x91 x = y at hd hf hdw hbit0 hclock hbit1' ⊢
    obtain ⟨h5, hc, -, hvalid, hlow, hkeep⟩ := afterImage_spec hdw
    have hft : OnlyChanges [.boot, .clock, .regs] y (afterImage y) := afterImage_frame (.refl y)
    generalize afterImage y = t at h5 hc hvalid hlow hkeep hft ⊢
    have hla : RegsApart y t := fun a _ h _ => hkeep a (by simpa using h)
    refine ⟨(hr.trans hd).trans hla, ?_, ?_, ?_, ?_, ?_, h5, ?_, fun _ => ⟨(hlow 0 (by decide)).trans hbit0, fun h1 => (hlow 1 (by decide)).trans (hbit1' (hbit1.trans h1))⟩⟩
    · rw [hvalid, (hf .boot (by decide) : y.boot = x.boot), hb]
    · rw [(hft .trims (by decide) : t.tabs.trims = y.tabs.trims), (hf .trims (by decide) : y.tabs.trims = x.tabs.trims), ht]
    · rw [(hft .out (by decide) : t.out = y.out), (hf .out (by decide) : y.out = x.out), ho]
    · rw [(hft .build (by decide) : t.build = y.build), (hf .build (by decide) : y.build = x.build), hbuild]
    · rw [hc, hclock]
      exact hrst
    · rw [hc]

/-! ### Start-up -/

/-- Power-on: the reference's edge is taken up, and phase 3 begins (R359). -/
def poweredOn (s : State) : State :=
  setPhase 3 (sourceEdge { s with clock := { s.clock with rstN := true, reached := Place.start, held := [], due := [], found := [], sampled := [] } })

theorem poweredOn_spec (hw : s.tablesWf = true) : let t := poweredOn s
    t.clock.rstN = true ∧ t.clock.fabFault = s.clock.fabFault ∧ t.out = s.out ∧ t.build = s.build ∧ t.tablesWf = true := by
  have hf : OnlyChanges [.setNow, .regs, .log, .mer] { s with clock := { s.clock with rstN := true, reached := Place.start, held := [], due := [], found := [], sampled := [] } }
      (sourceEdge { s with clock := { s.clock with rstN := true, reached := Place.start, held := [], due := [], found := [], sampled := [] } }) := sourceEdge_frame (.refl _)
  have hsw : (sourceEdge { s with clock := { s.clock with rstN := true, reached := Place.start, held := [], due := [], found := [], sampled := [] } }).tablesWf = true :=
    (sourceEdge_keeps (.refl _)).tablesWf hw
  unfold poweredOn
  generalize sourceEdge { s with clock := { s.clock with rstN := true, reached := Place.start, held := [], due := [], found := [], sampled := [] } } = x at hf hsw ⊢
  have hclock := hf.clock_eq
  refine ⟨?_, ?_, hf .out (by decide), hf .build (by decide), (setPhase_keeps (.refl x)).tablesWf hsw⟩
  · exact (congrArg Clock.rstN hclock :)
  · exact (congrArg Clock.fabFault hclock :)

/-- What start-up leaves of a block whose trims name no faulty row. -/
theorem startupApply_spec (hw : s.tablesWf = true) (hr : s.clock.rstN = false) (hfault : s.clock.fabFault = false) (hb : b.testRows = [])
    (hrows : trimsGood b.trims = true → ∀ i, i < 256 → bitOf (b.trims.getD (2 + i) 0#32) 31 = false) : let t := startupApply b s
    Calibrated b.trims s t ∧ t.clock.rstN = true ∧ phaseOf t = (if configSrc t < 2 then 4 else 5) ∧ t.clock.phase = (if configSrc t < 2 then 4 else 5)
      ∧ (trimsGood b.trims = false → (reg rCFG_STATUS t).getLsbD 0 = true ∧ (reg rCFG_STATUS t).getLsbD 1 = true) := by
  have heq : startupApply b s = (let t := selfTest b.testRows (trimPhase b.trims (poweredOn s))
      if alive t then imagePhase t else { t with clock := { t.clock with phase := 4 } }) := by
    unfold startupApply poweredOn
    exact if_neg (by simp [hr])
  rw [heq, hb]
  obtain ⟨hon, hfon, hout, hbuild, hpw⟩ := poweredOn_spec hw
  generalize poweredOn s = p at hon hfon hout hbuild hpw ⊢
  obtain ⟨hcal, hclock, htw, hmark⟩ := trimPhase_spec (w := b.trims) hpw
  generalize trimPhase b.trims p = x at hcal hclock htw hmark ⊢
  have hsound : failedMacros (testRecorded [] x) = [] := by
    refine failedMacros_of_none fun hv i hi => ?_
    rw [hcal.words _ (by omega)]
    exact hrows (hcal.valid.symm.trans hv) i hi
  rw [selfTest_of_sound hsound]
  have hapart : RegsApart x (testRecorded [] x) := testRecorded_regsApart
  have hmark' : (reg rCFG_STATUS (testRecorded [] x)) = reg rCFG_STATUS x := reg_irq_ne (s := { x with boot := { x.boot with testRows := [] } }) (by decide)
  have hyw : (testRecorded [] x).tablesWf = true := (irq_keeps (s := { x with boot := { x.boot with testRows := [] } }) (.refl _)).tablesWf htw
  have hfacts : (testRecorded [] x).boot.trimsValid = x.boot.trimsValid ∧ (testRecorded [] x).tabs.trims = x.tabs.trims ∧ (testRecorded [] x).out = x.out
      ∧ (testRecorded [] x).build = x.build ∧ (testRecorded [] x).clock = x.clock := ⟨rfl, rfl, rfl, rfl, rfl⟩
  generalize testRecorded [] x = y at hapart hmark' hyw hfacts ⊢
  obtain ⟨hv1, ht1, ho1, hb1, hc1⟩ := hfacts
  have halive : alive y = true := by
    rw [alive, hc1, hclock, hon, hfon, hfault]
    rfl
  dsimp only
  rw [if_pos halive]
  obtain ⟨hia, hiv, hit, hio, hib, hirst, hiphase, hiclock, hibits⟩ := imagePhase_spec hyw
  generalize imagePhase y = t at hia hiv hit hio hib hirst hiphase hiclock hibits ⊢
  have hsrc : configSrc t = configSrc y := by
    unfold configSrc
    rw [hiv, hit]
  have hcalp : Calibrated b.trims p t := (hcal.kept hapart hv1 ht1 ho1 hb1).kept hia hiv hit hio hib
  refine ⟨⟨hcalp.valid, hcalp.words, hout ▸ hcalp.out, hcalp.build.trans hbuild, hcalp.delay, hbuild ▸ hcalp.phy, hcalp.assay⟩, ?_, hsrc ▸ hiphase, hsrc ▸ hiclock, fun hbad => ?_⟩
  · rw [hirst, hc1, hclock]
    exact hon
  · have hsrcy : 2 ≤ configSrc y := by
      rw [configSrc, hv1, hcal.valid, hbad, if_neg (by decide)]
    obtain ⟨h0, h1⟩ := hibits hsrcy
    exact ⟨h0, h1 (by rw [hmark']; exact hmark hbad)⟩

/-- Settings that take their reset values. -/
theorem calibrationDefaults_of_reset (h : Calibrated w s t) (hbad : trimsGood w = false) : CalibrationDefaults t := by
  have hor (n : Nat) (d : Word) : trimOr n d t = d := if_neg (by rw [h.valid, hbad]; decide)
  have hassay := h.assay
  refine ⟨?_, fun n hn _ => ?_, ?_⟩
  · rw [h.delay, hor]
    rfl
  · obtain ⟨hlo, hhi⟩ := h.phy n (h.build ▸ hn)
    rw [reg64, hlo, hhi, hor, hor]
    rfl
  · have hset (off : Nat) : assayTrim off t = regReset (pageBase pASSAY + off) := hor _ _
    simp only [AssayTakes, hset] at hassay
    obtain ⟨hth, hp, ht, hb, hstep, hwin⟩ := hassay
    have hth0 := hth 0 (by decide)
    have hth1 := hth 1 (by decide)
    simp only [List.forall_mem_cons, List.not_mem_nil, false_imp_iff, implies_true, and_true]
    exact ⟨BitVec.eq_of_toNat_eq (hth0.2.trans (by decide)), BitVec.eq_of_toNat_eq (hth1.2.trans (by decide)), hth0.1.trans (by decide), hth1.1.trans (by decide), hp.trans (by decide),
      ht.trans (by decide), hb.trans (by decide), BitVec.eq_of_toNat_eq (hstep.trans (by decide)), BitVec.eq_of_toNat_eq (hwin.trans (by decide))⟩

end

theorem startupWithoutTrims : Claims.StartupWithoutTrims := by
  intro b s hw hr hfault hdue hb
  have hanswer {P : State → Prop} (h : P (startupApply b s)) : Answers (.startup b) s P := answers_unplaced rfl rfl hdue h
  refine ⟨fun hbad => hanswer ?_, fun hgood hrows => hanswer ?_⟩
  · obtain ⟨hcal, hrst, hphase, hclock, hbits⟩ := startupApply_spec hw hr hfault hb fun h => absurd h (by simp [hbad])
    generalize startupApply b s = t at hcal hrst hphase hclock hbits ⊢
    have hsrc : ¬ configSrc t < 2 := by
      rw [configSrc, hcal.valid, hbad, if_neg (by decide)]
      decide
    rw [if_neg hsrc] at hphase hclock
    obtain ⟨h0, h1⟩ := hbits hbad
    exact ⟨hrst, hcal.valid.trans hbad, hphase, hclock, h0, h1, calibrationDefaults_of_reset hcal hbad, by simp [mgmtServes, hrst, hclock], hcal.out⟩
  · obtain ⟨hcal, hrst, hphase, hclock, -⟩ := startupApply_spec hw hr hfault hb fun _ => hrows
    generalize startupApply b s = t at hcal hrst hphase hclock ⊢
    have hsrc : configSrc t = fieldOf (b.trims.getD 284 0#32) 0 2 := by
      rw [configSrc, hcal.valid, hgood, if_pos rfl]
      exact congrArg (fieldOf · 0 2) (hcal.words 284 (by decide))
    have hor (n : Nat) (d : Word) (hn : n < 1024) : trimOr n d t = b.trims.getD n 0#32 := (if_pos (hcal.valid.trans hgood)).trans (hcal.words n hn)
    have hserves : mgmtServes t = true := by
      rw [mgmtServes, hrst, hclock]
      split <;> rfl
    refine ⟨hrst, hcal.valid.trans hgood, hsrc ▸ hphase, hserves, hcal.words, ?_, fun n hn hn8 => ?_, ?_, hcal.out⟩
    · rw [hcal.delay, hor _ _ (by decide)]
    · obtain ⟨hlo, hhi⟩ := hcal.phy n hn
      rw [hlo, hhi, hor _ _ (by omega), hor _ _ (by omega)]
      exact ⟨rfl, rfl⟩
    · refine assayTakes_apart hcal.assay (fun i h1 h2 => ?_) fun _ _ _ _ => rfl
      have hi : 275 + (0x040 + 4 * (i - 275) - 0x040) / 4 = i := by omega
      rw [assayTrim, hi, hor _ _ (by omega)]

/-- Settles O12: start-up is its phases' updates in a row, each with what it writes; what one phase wrote the later ones keep, because they write none of its registers. -/
theorem startUpPhases : Obligations.StartUpPhases := ⟨startupWithoutTrims, phaseTimeouts, startUpEnds⟩

end Sys2Proof.Machine
end

section
/-! PROOF. Fabric-fatal faults, and the loss of the service at the first edge after one (R351). -/

namespace Sys2Proof.Machine

-- The inclusions that frames ask for are auto parameters, whose code is compiled: with proofs elaborated in order no thread waits for it.
set_option Elab.async false

section
variable {r s : State} {ps : List Part} {code : Nat} {src : BitVec 16}

theorem noteFatal_frame (h : OnlyChanges ps r s) (hq : [.regs] ⊆ ps := by decide) : OnlyChanges ps r (noteFatal code s) :=
  h.then (ps := [.regs]) (.ite (OnlyChanges.refl s) (setReg64_frame (setReg_frame (OnlyChanges.refl s)))) hq

theorem countEcc_frame (h : OnlyChanges ps r s) (hq : [.regs] ⊆ ps := by decide) : OnlyChanges ps r (countEcc code s) :=
  h.then (ps := [.regs]) (.ite (count_frame (.refl s)) (.ite (count_frame (.refl s)) (.refl s))) hq

/-- The block stops as of a fault. -/
def faultRaised (s : State) : State := { s with clock := { s.clock with fabFault := true, fabReady := false, readyNext := false } }
/-- A fault entered, kept where it is the first, and raised. -/
def fatalNoted (code : Nat) (src : BitVec 16) (s : State) : State :=
  irq pGLOBAL 0 (noteFatal code (logFault ⟨code, clsFabricFatal, src, none, none⟩ s))

theorem fabricFatalNow_eq (h : alive s = true) : fabricFatalNow code src s = faultRaised (fatalNoted code src s) := if_neg (by simp [h])

theorem fatalNoted_frame (h : OnlyChanges ps r s) (hq : [.log, .setNow, .regs] ⊆ ps := by decide) : OnlyChanges ps r (fatalNoted code src s) :=
  h.then (ps := [.log, .setNow, .regs]) (irq_frame (noteFatal_frame (logFault_frame (.refl s)))) hq

theorem faultRaised_frame (h : OnlyChanges ps r s) (hq : [.clock] ⊆ ps := by decide) : OnlyChanges ps r (faultRaised s) :=
  h.then (ps := [.clock]) (OnlyChanges.next (ps := [.clock]) (.refl s) fun p hp => by cases p <;> simp [Part.same, faultRaised] at hp ⊢) hq

/-- The codes of fabric-fatal faults are no page's but GLOBAL's. -/
theorem codePage_fabric (h : isFabricCode code = true) : codePage code src = pGLOBAL ∧ plainCode code ∧ code ≠ 0 ∧ code < 256 := by
  have h' : code = 0xF0 ∨ code = 0xF1 ∨ code = 0xF2 := by simpa [isFabricCode, or_assoc] using h
  rcases h' with rfl | rfl | rfl <;> exact ⟨rfl, .inr (by decide), by decide, by decide⟩

/-- The first fatal code and its transit are kept. -/
theorem noteFatal_spec (hw : s.tablesWf = true) : let t := noteFatal code s
    (reg rFATAL_CODE s = 0#32 → reg rFATAL_CODE t = BitVec.ofNat 32 code ∧ reg64 rFATAL_TRANSIT_LO t = s.clock.transit)
      ∧ (reg rFATAL_CODE s ≠ 0#32 → reg rFATAL_CODE t = reg rFATAL_CODE s) ∧ t.tablesWf = true := by
  refine ⟨fun h0 => ?_, fun h1 => ?_, (noteFatal_keeps (.refl s)).tablesWf hw⟩
  · have heq : noteFatal code s = setReg64 rFATAL_TRANSIT_LO s.clock.transit (setReg rFATAL_CODE (BitVec.ofNat 32 code) s) := if_neg (by simp [h0])
    rw [heq]
    have hx : tableWfBy regReset (setReg rFATAL_CODE (BitVec.ofNat 32 code) s).regs = true := setReg_regs_wf (regs_wf hw)
    refine ⟨?_, reg64_setReg64_self hx⟩
    exact (reg_setReg_ne (by decide)).trans ((reg_setReg_ne (by decide)).trans (reg_setReg_self (regs_wf hw)))
  · have heq : noteFatal code s = s := if_pos (by simp [h1])
    rw [heq]

theorem fatalNoted_spec (hw : s.tablesWf = true) (hroom : LogRoom s) (hc : isFabricCode code = true) : let t := fatalNoted code src s
    Logged code 4 src s t ∧ (reg (rIrqRaw pGLOBAL) t).getLsbD 0 = true
      ∧ (reg rFATAL_CODE s = 0#32 → reg rFATAL_CODE t = BitVec.ofNat 32 code ∧ reg64 rFATAL_TRANSIT_LO t = s.clock.transit)
      ∧ (reg rFATAL_CODE s ≠ 0#32 → reg rFATAL_CODE t = reg rFATAL_CODE s) := by
  obtain ⟨hpage, hplain, -, -⟩ := codePage_fabric (src := src) hc
  unfold fatalNoted
  have hlog : Logged code 4 src s (logFault ⟨code, clsFabricFatal, src, none, none⟩ s) := logFault_logged (e := ⟨code, clsFabricFatal, src, none, none⟩) hroom hplain
  have hfatal : reg rFATAL_CODE (logFault ⟨code, clsFabricFatal, src, none, none⟩ s) = reg rFATAL_CODE s :=
    reg_logFault_ne (e := ⟨code, clsFabricFatal, src, none, none⟩) (show rFATAL_CODE ∉ logRegs (codePage code src) by rw [hpage]; decide)
  have hclock : (logFault ⟨code, clsFabricFatal, src, none, none⟩ s).clock = s.clock := (logFault_frame (ps := [.log, .setNow, .regs]) (.refl s)).clock_eq
  have hxw : (logFault ⟨code, clsFabricFatal, src, none, none⟩ s).tablesWf = true := (logFault_keeps (.refl s)).tablesWf hw
  generalize logFault ⟨code, clsFabricFatal, src, none, none⟩ s = x at hlog hfatal hclock hxw ⊢
  obtain ⟨hfirst, hlater, hyw⟩ := noteFatal_spec (code := code) hxw
  have hf : OnlyChanges [.regs] x (noteFatal code x) := noteFatal_frame (.refl x)
  rw [hfatal] at hfirst hlater
  generalize noteFatal code x = y at hfirst hlater hyw hf ⊢
  refine ⟨Logged.of_eq hlog rfl rfl (hf .log (by decide)), irq_raised (regs_wf hyw) (by decide), fun h0 => ?_, fun h1 => (reg_irq_ne (by decide)).trans (hlater h1)⟩
  obtain ⟨h1, h2⟩ := hfirst h0
  refine ⟨(reg_irq_ne (by decide)).trans h1, ?_⟩
  rw [reg64, reg_irq_ne (by decide), reg_irq_ne (by decide), ← hclock]
  exact h2

end

/-- A fabric-fatal fault, of either command, at its place. -/
theorem fabricFatal_answers {code : BitVec 8} {src : BitVec 16} {place : FaultPlace} {c : Instr} {s : State} (hw : s.tablesWf = true) (ha : alive s = true)
    (hcode : code = 0xF0#8 ∨ code = 0xF1#8 ∨ code = 0xF2#8) (hroom : LogRoom s) (hc : c = .fabricFatal code src ∨ c = .faultDetect code src place) (happ : applies c s = true) :
    Answers c s fun t => t.clock.fabFault = true ∧ t.clock.fabReady = false ∧ t.clock.rstN = true ∧ Logged code.toNat 4 src s t ∧ (reg (rIrqRaw pGLOBAL) t).getLsbD 0 = true
      ∧ (reg rFATAL_CODE s = 0#32 → reg rFATAL_CODE t = code.setWidth 32 ∧ reg64 rFATAL_TRANSIT_LO t = s.clock.transit) ∧ (reg rFATAL_CODE s ≠ 0#32 → reg rFATAL_CODE t = reg rFATAL_CODE s)
      ∧ OnlyChanges [.reached, .clock, .regs, .setNow, .log] s t := by
  have hfab : isFabricCode code.toNat = true := by rcases hcode with rfl | rfl | rfl <;> rfl
  have hP (q : Place) : let t := fabricFatalNow code.toNat src (countEcc code.toNat (withReached q s))
      t.clock.fabFault = true ∧ t.clock.fabReady = false ∧ t.clock.rstN = true ∧ Logged code.toNat 4 src s t ∧ (reg (rIrqRaw pGLOBAL) t).getLsbD 0 = true
        ∧ (reg rFATAL_CODE s = 0#32 → reg rFATAL_CODE t = code.setWidth 32 ∧ reg64 rFATAL_TRANSIT_LO t = s.clock.transit) ∧ (reg rFATAL_CODE s ≠ 0#32 → reg rFATAL_CODE t = reg rFATAL_CODE s)
        ∧ OnlyChanges [.reached, .clock, .regs, .setNow, .log] s t := by
    have hf : OnlyChanges [.regs] (withReached q s) (countEcc code.toNat (withReached q s)) := countEcc_frame (.refl _)
    have hreg : reg rFATAL_CODE (countEcc code.toNat (withReached q s)) = reg rFATAL_CODE s := by
      rcases hcode with rfl | rfl | rfl
      · exact reg_count_ne (s := withReached q s) (by decide)
      · rfl
      · rfl
    have hxw : (countEcc code.toNat (withReached q s)).tablesWf = true := (countEcc_keeps (.refl _)).tablesWf (show (withReached q s).tablesWf = true from hw)
    generalize countEcc code.toNat (withReached q s) = x at hf hreg hxw ⊢
    have hclock : x.clock = (withReached q s).clock := hf.clock_eq
    have hlogx : x.log = s.log := hf .log (by decide)
    have halive : alive x = true := by
      rw [alive, hclock]
      exact ha
    have hrst : x.clock.rstN = true := (Bool.and_eq_true_iff.mp halive).1
    obtain ⟨hlog, hirq, hfirst, hlater⟩ := fatalNoted_spec (src := src) hxw (by rw [LogRoom, hlogx]; exact hroom) hfab
    have hframe : OnlyChanges [.reached, .clock, .regs, .setNow, .log] s (fabricFatalNow code.toNat src x) := by
      rw [fabricFatalNow_eq halive]
      exact withReached_frame (faultRaised_frame (fatalNoted_frame (hf.mono (by decide))))
    rw [fabricFatalNow_eq halive] at hframe ⊢
    have hfn : OnlyChanges [.log, .setNow, .regs] x (fatalNoted code.toNat src x) := fatalNoted_frame (.refl x)
    have hnclock := hfn.clock_eq
    generalize fatalNoted code.toNat src x = y at hlog hirq hfirst hlater hframe hnclock ⊢
    refine ⟨rfl, rfl, ?_, Logged.of_eq hlog hlogx (congrArg Clock.transit hclock :) rfl, hirq, fun h0 => ?_, fun h1 => ?_, hframe⟩
    · exact (congrArg Clock.rstN hnclock).trans hrst
    · obtain ⟨h1, h2⟩ := hfirst (hreg.trans h0)
      refine ⟨h1.trans ?_, h2.trans (congrArg Clock.transit hclock :)⟩
      rcases hcode with rfl | rfl | rfl <;> rfl
    · exact (hlater (hreg ▸ h1)).trans hreg
  rcases hc with rfl | rfl
  · refine answers_next rfl rfl happ fun q => ?_
    have heq : fabricFatalApply code src (withReached q s) = fabricFatalNow code.toNat src (countEcc code.toNat (withReached q s)) := by
      unfold fabricFatalApply
      rw [if_pos hfab, if_pos (show alive (withReached q s) = true from ha)]
    rw [heq]
    exact hP q
  · refine answers_next rfl rfl happ fun q => ?_
    have heq : faultDetectApply code src place (withReached q s) = fabricFatalNow code.toNat src (countEcc code.toNat (withReached q s)) := by
      have halive : ¬ (!alive (withReached q s)) = true := by simp [show alive (withReached q s) = true from ha]
      unfold faultDetectApply
      dsimp only
      rw [if_neg halive]
      rcases hcode with rfl | rfl | rfl <;> rfl
    rw [heq]
    exact hP q

/-! ### The loss of the service -/

section
variable {s t x : State} {n : Nat}

/-- A link in reset. -/
def LinkQuiet (l : Link) : Prop := l.state = 0 ∧ l.phyEnable = false

theorem linksLost_quiet (hw : s.tablesWf = true) : LinkQuiet (linkAt n (linksLost s)) := by
  have hkeep (t : State) (y : Nat × Link) (ht : t.tablesWf = true) : (changeLink y.1 linkInReset t).tablesWf = true := (changeLink_keeps (fun _ _ => linkInReset_ok) (.refl t)).tablesWf ht
  have hset (t : State) (m : Nat) (ht : t.tablesWf = true) : LinkQuiet (linkAt m (changeLink m linkInReset t)) := by
    rw [linkAt_changeLink_self (links_wf_of_tables ht)]
    exact ⟨rfl, rfl⟩
  have hstay (t : State) (y : Nat × Link) (ht : t.tablesWf = true) (hq : LinkQuiet (linkAt n t)) : LinkQuiet (linkAt n (changeLink y.1 linkInReset t)) := by
    rcases eq_or_ne n y.1 with rfl | hne
    · exact hset t _ ht
    · rw [linkAt_changeLink_ne hne]
      exact hq
  rcases tget_eq_or_mem (d := Link.down) (k := n) (t := s.links) with hnone | hmem
  · refine (List.foldlRecOn (motive := fun t => t.tablesWf = true ∧ LinkQuiet (linkAt n t)) s.links _ ⟨hw, ?_⟩ fun t ht y _ => ⟨hkeep t y ht.1, hstay t y ht.1 ht.2⟩).2
    rw [linkAt, hnone]
    exact ⟨rfl, rfl⟩
  · exact foldl_establishes (I := fun t => t.tablesWf = true) (Q := fun t => LinkQuiet (linkAt n t)) hkeep hstay (fun t ht => hset t n ht) hmem hw

/-- Links that a step sets to links in reset stay so. -/
theorem setLink_quiet {m : Nat} {l : Link} (hw : tableWf Link.down s.links = true) (h : LinkQuiet (linkAt n s)) (hl : LinkQuiet l) : LinkQuiet (linkAt n (setLink m l s)) := by
  rcases eq_or_ne n m with rfl | hne
  · rw [linkAt_setLink_self hw]
    exact hl
  · rw [linkAt_setLink_ne hne]
    exact h

/-- All links are in reset. -/
structure LinksQuiet (s : State) : Prop where
  tables : tableWf Link.down s.links = true
  quiet : ∀ n, LinkQuiet (linkAt n s)

theorem LinksQuiet.set {m : Nat} {l : Link} (h : LinksQuiet s) (hl : LinkQuiet l) : LinksQuiet (setLink m l s) :=
  ⟨setLink_links_wf h.tables, fun _ => setLink_quiet h.tables (h.quiet _) hl⟩

theorem LinksQuiet.mem {y : Nat × Link} (h : LinksQuiet s) (hy : y ∈ s.links) : LinkQuiet y.2 := by
  rw [← tget_of_mem h.tables hy]
  exact h.quiet y.1

theorem LinksQuiet.of_links (h : LinksQuiet s) (hl : t.links = s.links) : LinksQuiet t :=
  ⟨hl ▸ h.tables, fun n => by rw [linkAt, hl]; exact h.quiet n⟩

theorem paceEdge_quiet (h : LinksQuiet s) : LinksQuiet (paceEdge s) := by
  refine List.foldlRecOn (motive := LinksQuiet) _ _ h fun t ht m _ => ?_
  dsimp only
  split
  · exact ht
  · exact ht.set (ht.quiet m)

theorem addsEdge_quiet (h : LinksQuiet s) : LinksQuiet (addsEdge s) := by
  have hshow : LinksQuiet (showingsDelivered s) := by
    refine List.foldlRecOn (motive := LinksQuiet) _ _ h fun t ht y hy => ?_
    split
    · exact ht
    · exact ht.set (h.mem hy)
  rw [addsEdge_eq]
  refine LinksQuiet.of_links (s := headAddsReady (showingsDelivered s)) ?_ rfl
  refine List.foldlRecOn (motive := LinksQuiet) _ _ hshow fun t ht y hy => ?_
  cases y.2.adds with
  | nil => exact ht
  | cons a rest => exact ht.set (hshow.mem hy)

/-- Every line keeps its configuration. -/
theorem linesLost_cfg (hl : tableWf Line.idle s.lines = true) : (lineAt n (linesLost s)).cfg = (lineAt n s).cfg := by
  refine (List.foldlRecOn (motive := fun t : State => tableWf Line.idle t.lines = true ∧ (lineAt n t).cfg = (lineAt n s).cfg) s.lines _ ⟨hl, rfl⟩ fun t ht y hy => ⟨tset_wf _ _ _ ht.1, ?_⟩).2
  rcases eq_or_ne n y.1 with rfl | hne
  · rw [lineAt_setLine_self ht.1, lineAt, tget_of_mem hl hy]
  · rw [lineAt_setLine_ne hne]
    exact ht.2

/-- Every queue keeps its configuration, and what it has fetched is lost. -/
theorem queuesLost_spec (hq : tableWf QueueSt.idle s.queues = true) : (queueAt n (queuesLost s)).cfg = (queueAt n s).cfg ∧ (queueAt n (queuesLost s)).fetched = [] := by
  constructor
  · refine (List.foldlRecOn (motive := fun t : State => tableWf QueueSt.idle t.queues = true ∧ (queueAt n t).cfg = (queueAt n s).cfg) s.queues _ ⟨hq, rfl⟩ fun t ht y hy => ⟨tset_wf _ _ _ ht.1, ?_⟩).2
    rcases eq_or_ne n y.1 with rfl | hne
    · rw [queueAt_setQueue_self ht.1, queueAt, tget_of_mem hq hy]
    · rw [queueAt_setQueue_ne hne]
      exact ht.2
  · have hstay (t : State) (y : Nat × QueueSt) (ht : tableWf QueueSt.idle t.queues = true) (h : (queueAt n t).fetched = []) :
        (queueAt n (setQueue y.1 { y.2 with fetched := [], records := [], badRecords := [] } t)).fetched = [] := by
      rcases eq_or_ne n y.1 with rfl | hne
      · rw [queueAt_setQueue_self ht]
      · rw [queueAt_setQueue_ne hne]
        exact h
    rcases tget_eq_or_mem (d := QueueSt.idle) (k := n) (t := s.queues) with hnone | hmem
    · refine (List.foldlRecOn (motive := fun t : State => tableWf QueueSt.idle t.queues = true ∧ (queueAt n t).fetched = []) s.queues _ ⟨hq, ?_⟩
        fun t ht y _ => ⟨tset_wf _ _ _ ht.1, hstay t y ht.1 ht.2⟩).2
      rw [queueAt, hnone]
      rfl
    · exact foldl_establishes (I := fun t : State => tableWf QueueSt.idle t.queues = true) (Q := fun t => (queueAt n t).fetched = []) (fun t y ht => tset_wf _ _ _ ht)
        hstay (fun t ht => by rw [queueAt_setQueue_self ht]) hmem hq

theorem queuesEdge_spec (hw : s.tablesWf = true) : (queueAt n (queuesEdge s)).cfg = (queueAt n s).cfg ∧ (queueAt n (queuesEdge s)).fetched = (queueAt n s).fetched := by
  refine (List.foldlRecOn (motive := fun t : State => tableWf QueueSt.idle t.queues = true ∧ (queueAt n t).cfg = (queueAt n s).cfg ∧ (queueAt n t).fetched = (queueAt n s).fetched) s.queues _
    ⟨(queues_wf hw).1, rfl, rfl⟩ fun t ht y hy => ?_).2
  split
  · refine ⟨tset_wf _ _ _ ht.1, ?_⟩
    rcases eq_or_ne n y.1 with rfl | hne
    · rw [queueAt_setQueue_self ht.1]
      exact ht.2
    · rw [queueAt_setQueue_ne hne]
      exact ht.2
  · exact ht

/-- What the loss of the service leaves (R351). -/
theorem serviceLost_spec (hw : s.tablesWf = true) : let t := serviceLost s
    LinksQuiet t ∧ t.clock.found = [] ∧ t.ops = [] ∧ t.late = [] ∧ t.ledgers = [] ∧ t.verdicts = [] ∧ t.mem = [] ∧ t.memLate = [] ∧ t.tabs.tallies = []
      ∧ (∀ n, (lineAt n t).cfg = (lineAt n s).cfg) ∧ (∀ q, (queueAt q t).cfg = (queueAt q s).cfg ∧ (queueAt q t).fetched = []) := by
  have hquiet (n : Nat) : LinkQuiet (linkAt n (linksLost s)) := linksLost_quiet hw
  have hlinks : tableWf Link.down (linksLost s).links = true :=
    links_wf_of_tables ((Keeps.foldl (.refl s) fun _ _ h => changeLink_keeps (fun _ _ => linkInReset_ok) h).tablesWf hw)
  have hf1 : OnlyChanges [.links, .setNow, .regs] s (linksLost s) := linksLost_frame (.refl s)
  rw [serviceLost_eq]
  generalize linksLost s = a at hquiet hlinks hf1 ⊢
  have hlines : a.lines = s.lines := hf1 .lines (by decide)
  have hline (n : Nat) : (lineAt n (linesLost a)).cfg = (lineAt n s).cfg := by
    rw [linesLost_cfg (hlines ▸ lines_wf hw), lineAt, hlines]
    rfl
  have hf2 : OnlyChanges [.lines, .stalls, .planes] a (planesLost (stallsLost (linesLost a))) := planesLost_frame (stallsLost_frame (linesLost_frame (.refl a)))
  have hf2' : OnlyChanges [.stalls, .planes] (linesLost a) (planesLost (stallsLost (linesLost a))) := planesLost_frame (stallsLost_frame (.refl _))
  generalize planesLost (stallsLost (linesLost a)) = b at hf2 hf2' ⊢
  have hqueues : b.queues = s.queues := (hf2 .queues (by decide)).trans (hf1 .queues (by decide))
  have hqueue (n : Nat) : (queueAt n (queuesLost b)).cfg = (queueAt n s).cfg ∧ (queueAt n (queuesLost b)).fetched = [] := by
    obtain ⟨h1, h2⟩ := queuesLost_spec (n := n) (hqueues ▸ (queues_wf hw).1)
    rw [h1, queueAt, hqueues]
    exact ⟨rfl, h2⟩
  have hf3 : OnlyChanges [.queues] b (queuesLost b) := queuesLost_frame (.refl b)
  generalize queuesLost b = c at hqueue hf3 ⊢
  refine ⟨LinksQuiet.of_links (s := a) ⟨hlinks, hquiet⟩ ?_, rfl, rfl, rfl, rfl, rfl, rfl, rfl, rfl, fun n => ?_, hqueue⟩
  · exact (hf3 .links (by decide)).trans (hf2 .links (by decide))
  · have h : c.lines = (linesLost a).lines := (hf3 .lines (by decide)).trans (hf2' .lines (by decide))
    rw [← hline n]
    exact congrArg (fun l => (tget Line.idle n l).cfg) h

end

/-- The first edge after a fault: the service is lost, and nothing of it begins again. -/
theorem firstEdge_faulted {e : State} (hw : e.tablesWf = true) (hfault : e.clock.fabFault = true) : let t := firstEdge e
    t.clock.fabFault = true ∧ t.clock.fclk = e.clock.fclk ∧ t.clock.found = [] ∧ t.ops = [] ∧ t.late = [] ∧ t.ledgers = [] ∧ t.verdicts = [] ∧ t.mem = [] ∧ t.memLate = []
      ∧ (∀ n i, tally n i t = 0#32) ∧ (∀ p, LinkQuiet (linkAt p t)) ∧ (∀ n, (lineAt n t).cfg = (lineAt n e).cfg)
      ∧ (∀ q, (queueAt q t).cfg = (queueAt q e).cfg ∧ (queueAt q t).fetched = []) ∧ t.tabs.ephemeris = e.tabs.ephemeris ∧ t.groups = e.groups := by
  have heq : fatalEdge e = serviceLost e := if_pos hfault
  rw [firstEdge, heq]
  obtain ⟨hquiet, hfound, hops, hlate, hledgers, hverdicts, hmem, hmemLate, htallies, hlines, hqueues⟩ := serviceLost_spec hw
  have hxw : (serviceLost e).tablesWf = true := (serviceLost_keeps (.refl e)).tablesWf hw
  have hkept : (serviceLost e).clock.fabFault = e.clock.fabFault ∧ (serviceLost e).clock.fclk = e.clock.fclk ∧ (serviceLost e).tabs.ephemeris = e.tabs.ephemeris ∧ (serviceLost e).groups = e.groups := by
    have hf : OnlyChanges [.links, .setNow, .regs, .lines, .stalls, .planes, .queues, .due, .found, .tallies, .mem, .memLate, .verdicts, .ledgers, .ops, .late, .pageWait, .injected] e (serviceLost e) := by
      rw [serviceLost_eq]
      exact servicesCleared_frame (queuesLost_frame (planesLost_frame (stallsLost_frame (linesLost_frame (linksLost_frame (.refl e))))))
    have hclock := hf .clock (by decide)
    exact ⟨(congrArg Clock.fabFault hclock :), (congrArg Clock.fclk hclock :), hf .ephemeris (by decide), hf .groups (by decide)⟩
  generalize serviceLost e = x at hquiet hfound hops hlate hledgers hverdicts hmem hmemLate htallies hlines hqueues hxw hkept ⊢
  obtain ⟨hfaulted, hfclk, heph, hgroups⟩ := hkept
  have hpace := paceEdge_quiet hquiet
  have hf1 : OnlyChanges [.links, .owner, .setNow, .regs] x (ownerEdge (paceEdge x)) := ownerEdge_frame (paceEdge_frame (.refl x))
  have hl1 : (ownerEdge (paceEdge x)).links = (paceEdge x).links := (ownerEdge_frame (ps := [.owner, .setNow, .regs]) (.refl _)) .links (by decide)
  have hw1 : (ownerEdge (paceEdge x)).tablesWf = true := (ownerEdge_keeps (paceEdge_keeps (.refl x))).tablesWf hxw
  have hq1 : LinksQuiet (ownerEdge (paceEdge x)) := hpace.of_links hl1
  generalize ownerEdge (paceEdge x) = a at hf1 hl1 hw1 hq1 ⊢
  obtain ⟨b, hpower⟩ := powerEdge_clock (s := a)
  have hf2 : OnlyChanges [.stalls, .planes, .regs, .setNow, .log, .steward, .clock] a (powerEdge a) := powerEdge_frame (.refl a)
  have hw2 : (powerEdge a).tablesWf = true := (powerEdge_keeps (.refl a)).tablesWf hw1
  generalize powerEdge a = p at hpower hf2 hw2 ⊢
  rw [hf1.clock_eq] at hpower
  have hphase : phaseEdge p = p := by
    unfold phaseEdge
    exact if_pos (by rw [alive, hpower]; simp [hfaulted, hfault])
  rw [hphase]
  have hqp : LinksQuiet p := hq1.of_links (hf2 .links (by decide))
  have hqueue (q : Nat) : (queueAt q (queuesEdge p)).cfg = (queueAt q e).cfg ∧ (queueAt q (queuesEdge p)).fetched = [] := by
    obtain ⟨h1, h2⟩ := queuesEdge_spec (n := q) hw2
    have hsame : queueAt q p = queueAt q x := congrArg (tget QueueSt.idle q) (((hf2 .queues (by decide) : p.queues = a.queues)).trans (hf1 .queues (by decide)))
    rw [h1, h2, hsame]
    exact hqueues q
  have hf3 : OnlyChanges [.queues] p (queuesEdge p) := queuesEdge_frame (.refl p)
  have hf3' : OnlyChanges [.links, .owner, .setNow, .regs, .stalls, .planes, .log, .steward, .clock, .queues] x (queuesEdge p) :=
    ((hf1.mono (by decide)).trans (hf2.mono (by decide))).trans (hf3.mono (by decide))
  have hq3 : LinksQuiet (queuesEdge p) := hqp.of_links (hf3 .links (by decide))
  have hclock3 : (queuesEdge p).clock = { x.clock with fenced := b } := hf3.clock_eq.trans hpower
  generalize queuesEdge p = u at hqueue hf3' hq3 hclock3 ⊢
  have hf4 : OnlyChanges [.stalls, .due, .clock, .links] u (addsEdge (linesEdge u)) := addsEdge_frame (linesEdge_frame (.refl u))
  have hf4' : OnlyChanges [.stalls, .due] u (linesEdge u) := linesEdge_frame (.refl u)
  have hq4 : LinksQuiet (addsEdge (linesEdge u)) := addsEdge_quiet (hq3.of_links (hf4' .links (by decide)))
  have hclock4 : (addsEdge (linesEdge u)).clock.fabFault = (linesEdge u).clock.fabFault ∧ (addsEdge (linesEdge u)).clock.fclk = (linesEdge u).clock.fclk := by
    have hf : OnlyChanges [.links] (linesEdge u) (headAddsReady (showingsDelivered (linesEdge u))) := headAddsReady_frame (showingsDelivered_frame (.refl _))
    exact ⟨(congrArg Clock.fabFault hf.clock_eq :), (congrArg Clock.fclk hf.clock_eq :)⟩
  have hclock5 : (linesEdge u).clock.fabFault = u.clock.fabFault ∧ (linesEdge u).clock.fclk = u.clock.fclk := by
    have h := hf4' .clock (by decide)
    exact ⟨(congrArg Clock.fabFault h :), (congrArg Clock.fclk h :)⟩
  generalize addsEdge (linesEdge u) = t at hf4 hq4 hclock4 ⊢
  have hall : OnlyChanges [.links, .owner, .setNow, .regs, .stalls, .planes, .log, .steward, .clock, .queues, .due] x t := (hf3'.mono (by decide)).trans (hf4.mono (by decide))
  refine ⟨?_, ?_, (hall .found (by decide)).trans hfound, (hall .ops (by decide)).trans hops, (hall .late (by decide)).trans hlate, (hall .ledgers (by decide)).trans hledgers,
    (hall .verdicts (by decide)).trans hverdicts, (hall .mem (by decide)).trans hmem, (hall .memLate (by decide)).trans hmemLate, fun n i => ?_, hq4.quiet, fun n => ?_, fun q => ?_,
    (hall .ephemeris (by decide)).trans heph, (hall .groups (by decide)).trans hgroups⟩
  · rw [hclock4.1, hclock5.1, hclock3]
    exact hfaulted.trans hfault
  · rw [hclock4.2, hclock5.2, hclock3]
    exact hfclk
  · rw [tally, (hall .tallies (by decide) : t.tabs.tallies = x.tabs.tallies), htallies]
    rfl
  · rw [← hlines n]
    exact congrArg (fun l => (tget Line.idle n l).cfg) (hall .lines (by decide))
  · have hsame : queueAt q t = queueAt q u := congrArg (tget QueueSt.idle q) (hf4 .queues (by decide))
    rw [hsame]
    exact hqueue q

theorem timeAdvanced_changes {cycles ticks : Nat} {s : State} : OnlyChanges [.clock, .reached, .held, .due, .found, .setNow, .mer] s (timeAdvanced cycles ticks s) := by
  have hm : OnlyChanges [.mer] s (merBoundary (nextTransit cycles ticks s) cycles ticks s) := by
    unfold merBoundary
    split
    · exact .refl s
    · exact setMer_frame (.refl s)
  unfold timeAdvanced
  generalize merBoundary (nextTransit cycles ticks s) cycles ticks s = m at hm ⊢
  exact OnlyChanges.next (ps := [.clock, .reached, .held, .due, .found, .setNow]) (hm.mono (by decide)) (fun p hp => by cases p <;> simp [Part.same, advance] at hp ⊢)

/-- Settles O53: the fault is entered and raised where the block is alive, and the first edge after it clears the service part by part. -/
theorem fabricFatals : Obligations.FabricFatals := by
  refine ⟨fun code src place c s hw halive hcode hroom hc happ => fabricFatal_answers (allWf_tablesWf hw) halive hcode hroom hc happ,
    fun cycles ticks s hw hr hfault hheld hdue hboot hfits => answers_boundary hr hheld hdue hfits ?_⟩
  have hew : (edgeState cycles ticks s).tablesWf = true := (detectorBoundary_keeps (timeEdge_keeps (transitEnds_keeps (.refl s)))).tablesWf (allWf_tablesWf hw)
  obtain ⟨n, k, hclock, -⟩ := edgeState_clock (cycles := cycles) (ticks := ticks) hboot
  have hends := (transitEnds_spec (cycles := cycles) hboot).2.2.2
  have hf : OnlyChanges [.planes, .out, .setNow, .regs, .ops, .counts, .stalls, .clock, .mer, .links, .reached, .held, .due, .found] s (edgeState cycles ticks s) :=
    ((hends.mono (by decide)).trans (timeAdvanced_changes.mono (by decide))).trans (edgeState_frame.mono (by decide))
  generalize edgeState cycles ticks s = e at hew hclock hf ⊢
  have hefault : e.clock.fabFault = true := by
    rw [hclock]
    exact hfault
  obtain ⟨h1, h2, h3, h4, h5, h6, h7, h8, h9, h10, h11, h12, h13, h14, h15⟩ := firstEdge_faulted hew hefault
  generalize firstEdge e = t at h1 h2 h3 h4 h5 h6 h7 h8 h9 h10 h11 h12 h13 h14 h15 ⊢
  refine ⟨h1, ?_, h3, h4, h5, h6, h7, h8, h9, h10, h11, fun n => (h12 n).trans ?_, fun q => ⟨(h13 q).1.trans ?_, (h13 q).2⟩, h14.trans (hf .ephemeris (by decide)), h15.trans (hf .groups (by decide))⟩
  · rw [h2, hclock]
    rfl
  · exact congrArg (fun l => (tget Line.idle n l).cfg) (hf .lines (by decide))
  · exact congrArg (fun l => (tget QueueSt.idle q l).cfg) (hf .queues (by decide))

end Sys2Proof.Machine
end

section
/-! PROOF. Descriptors arrive: fetches, their errors, and decoding (R52, R215, R217, R246 to R249). -/

namespace Sys2Proof.Machine

-- The inclusions that frames ask for are auto parameters, whose code is compiled: with proofs elaborated in order no thread waits for it.
set_option Elab.async false

section
variable {r s : State} {ps : List Part}

theorem pinSlot_frame {q : Nat} {f : Fetched} {code : Nat} (h : OnlyChanges ps r s) (hq : [.orders, .queues] ⊆ ps := by decide) : OnlyChanges ps r (pinSlot q f code s) := by
  refine h.then (ps := [.orders, .queues]) ?_ hq
  unfold pinSlot
  dsimp only
  exact .ite (OnlyChanges.next (ps := [.orders, .queues]) (.refl s) fun p hp => by cases p <;> simp [Part.same, setQueue] at hp ⊢) (setQueue_frame (.refl s))
theorem decodeApply_frame {q : Nat} {slot : Nat} (h : OnlyChanges ps r s) (hq : [.orders, .queues] ⊆ ps := by decide) : OnlyChanges ps r (decodeApply q slot s) := by
  refine h.then (ps := [.orders, .queues]) ?_ hq
  unfold decodeApply
  dsimp only
  refine .ite (OnlyChanges.refl s) ?_
  split
  · exact OnlyChanges.refl s
  · exact .ite (.ite (pinSlot_frame (OnlyChanges.refl s)) (OnlyChanges.refl s)) (setQueue_frame (OnlyChanges.refl s))
theorem queueHalt_frame {q : Nat} {code : BitVec 8} (h : OnlyChanges ps r s) (hq : [.setNow, .regs, .queues] ⊆ ps := by decide) : OnlyChanges ps r (queueHalt q code s) :=
  h.then (ps := [.setNow, .regs, .queues]) (.ite (OnlyChanges.refl s) (irq_frame (setQueue_frame (OnlyChanges.refl s)))) hq
end

/-! ### What is due takes effect before a command that itself does nothing -/

section
variable {s : State} {n : Nat} {d : Due}

/-- A line that has not rung lets what is due in class 2 take effect before it is to be armed again, and changes nothing itself. -/
theorem answers_idleRearm_due {P : State → Prop} (hn : n < 16) (hdue : s.clock.due = [(duePlace d, d)]) (hcls : (duePlace d).cls = 2)
    (hreach : (dueApply d (atDue d s)).clock.reached = duePlace d) (hline : (lineAt n (dueApply d (atDue d s))).rangAt = none)
    (hP : ∀ q, P (withReached q (dueApply d (atDue d s)))) : Answers (.bellRearm n) s P := by
  refine answers_bellRearm_due hn hdue ?_ hreach ?_
  · unfold placeLe
    rw [hcls]
    rfl
  · rw [bellRearmApply_idle (s := withReached ⟨3, [n, 2]⟩ (dueApply d (atDue d s))) (.inl hline)]
    exact hP _

end

/-! ### Errors of a fetch -/

section
variable {s : State} {q slot k code i a : Nat} {v : QueueSt}

theorem queueHalt_spec {c : BitVec 8} (hq : tableWf QueueSt.idle s.queues = true) (hstate : (queueAt q s).state ≠ 2) : let t := queueHalt q c s
    queueAt q t = { queueAt q s with state := 2, err := c } ∧ (∀ r, r ≠ q → queueAt r t = queueAt r s) ∧ (∀ a, a ≠ rIrqRaw pQUEUE → reg a t = reg a s) ∧ t.log = s.log := by
  have heq : queueHalt q c s = irq pQUEUE 0 (setQueue q { queueAt q s with state := 2, err := c } s) := if_neg hstate
  rw [heq]
  exact ⟨queueAt_setQueue_self hq, fun r hr => queueAt_setQueue_ne hr, fun a ha => reg_irq_ne ha, rfl⟩

/-- An error of a fetch halts its queue, and the slot is to be fetched again (R52). -/
theorem memConsequence_fetch (hw : s.tablesWf = true) (hroom : LogRoom s) (hcode : code ∈ [0x60, 0x61, 0x62, 0x63]) (hstate : (queueAt q s).state ≠ 2) :
    let t := memConsequence (.descFetch q slot k) code s
    queueAt q t = { queueAt q s with nextFetch := slot, state := 2, err := BitVec.ofNat 8 code } ∧ (∀ r, r ≠ q → queueAt r t = queueAt r s) ∧ Logged code 0 0x3000#16 s t
      ∧ reg rLAST_ERR t = reg rLAST_ERR s ∧ OnlyChanges [.queues, .regs, .setNow, .log] s t := by
  have heq : memConsequence (.descFetch q slot k) code s = queueHalt q (BitVec.ofNat 8 code) (setQueue q { queueAt q s with nextFetch := slot } (notice code memSource s)) := rfl
  have hplain : plainCode code ∧ rLAST_ERR ∉ logRegs (codePage code memSource) := by
    simp only [List.mem_cons, List.not_mem_nil, or_false] at hcode
    rcases hcode with rfl | rfl | rfl | rfl <;> exact ⟨.inr (by decide), by decide⟩
  have hlog : Logged code 0 memSource s (notice code memSource s) := notice_logged hroom hplain.1
  have hlast : reg rLAST_ERR (notice code memSource s) = reg rLAST_ERR s := reg_notice_ne hplain.2
  have hf : OnlyChanges [.setNow, .regs, .log] s (notice code memSource s) := notice_frame (.refl s)
  rw [heq]
  generalize notice code memSource s = x at hlog hlast hf ⊢
  have hqueues : x.queues = s.queues := hf .queues (by decide)
  have hat (r : Nat) : queueAt r x = queueAt r s := congrArg (tget QueueSt.idle r) hqueues
  have hself : queueAt q (setQueue q { queueAt q s with nextFetch := slot } x) = { queueAt q s with nextFetch := slot } := queueAt_setQueue_self (hqueues ▸ (queues_wf hw).1)
  have hothers (r : Nat) (hr : r ≠ q) : queueAt r (setQueue q { queueAt q s with nextFetch := slot } x) = queueAt r s := (queueAt_setQueue_ne hr).trans (hat r)
  have hywf : tableWf QueueSt.idle (setQueue q { queueAt q s with nextFetch := slot } x).queues = true := tset_wf _ _ _ (hqueues ▸ (queues_wf hw).1)
  have hfy : OnlyChanges [.queues] x (setQueue q { queueAt q s with nextFetch := slot } x) := setQueue_frame (.refl x)
  generalize setQueue q { queueAt q s with nextFetch := slot } x = y at hself hothers hywf hfy ⊢
  have hregs (a : Nat) : reg a y = reg a x := congrArg (tget (regReset a) a) (hfy .regs (by decide))
  obtain ⟨h1, h2, h3, h4⟩ := queueHalt_spec (c := BitVec.ofNat 8 code) hywf (by rw [hself]; exact hstate)
  have hfz : OnlyChanges [.setNow, .regs, .queues] y (queueHalt q (BitVec.ofNat 8 code) y) := queueHalt_frame (.refl y)
  refine ⟨h1.trans (by rw [hself]), fun r hr => (h2 r hr).trans (hothers r hr), Logged.of_eq hlog rfl rfl (h4.trans (hfy .log (by decide))), ?_,
    ((hf.mono (by decide)).trans (hfy.mono (by decide))).trans (hfz.mono (by decide))⟩
  rw [h3 _ (by decide), hregs, hlast]

end

theorem fetchErrors : Claims.FetchErrors := by
  intro n q slot k code i a s hw hn hline hroom hcode hdue hstate
  have hf : OnlyChanges [.reached, .due, .regs] s (noteErr code i a (atDue (.memory (.descFetch q slot k) code i a) s)) := noteErr_frame ((atDue_onlyChanges _ s).mono (by decide))
  have hlast : reg rLAST_ERR (noteErr code i a (atDue (.memory (.descFetch q slot k) code i a) s)) = BitVec.ofNat 32 (code + 256 * i) :=
    reg_setReg_self (setReg_regs_wf (setReg_regs_wf (regs_wf hw)))
  have hxw : (noteErr code i a (atDue (.memory (.descFetch q slot k) code i a) s)).tablesWf = true := (noteErr_keeps (.refl _)).tablesWf
    (show (atDue (.memory (.descFetch q slot k) code i a) s).tablesWf = true from hw)
  have hclock : (noteErr code i a (atDue (.memory (.descFetch q slot k) code i a) s)).clock = (atDue (.memory (.descFetch q slot k) code i a) s).clock := rfl
  have hd : dueApply (.memory (.descFetch q slot k) code i a) (atDue (.memory (.descFetch q slot k) code i a) s) =
      memConsequence (.descFetch q slot k) code (noteErr code i a (atDue (.memory (.descFetch q slot k) code i a) s)) := rfl
  generalize noteErr code i a (atDue (.memory (.descFetch q slot k) code i a) s) = x at hf hlast hxw hclock hd
  have hat (r : Nat) : queueAt r x = queueAt r s := congrArg (tget QueueSt.idle r) (hf .queues (by decide))
  have hlogx : x.log = s.log := hf .log (by decide)
  obtain ⟨h1, h2, h3, h4, h5⟩ := memConsequence_fetch (q := q) (slot := slot) (k := k) hxw (by rw [LogRoom, hlogx]; exact hroom) (List.Sublist.subset (by decide) hcode) (by rw [hat]; exact hstate)
  have hcls : (duePlace (.memory (.descFetch q slot k) code i a)).cls = 2 := rfl
  refine answers_idleRearm_due hn hdue hcls ?_ ?_ fun p => ?_
  · rw [hd, h5.clock_eq, hclock]
    rfl
  · rw [hd]
    have hlines : (memConsequence (.descFetch q slot k) code x).lines = s.lines := (h5 .lines (by decide)).trans (hf .lines (by decide))
    exact (congrArg (fun l => (tget Line.idle n l).rangAt) hlines).trans hline
  · rw [hd]
    refine ⟨h1.trans (by rw [hat]), fun r hr => (h2 r hr).trans (hat r), Logged.of_eq h3 hlogx (congrArg Clock.transit hclock :) rfl, h4.trans hlast, ?_⟩
    exact ((hf.mono (by decide)).trans (h5.mono (by decide))).trans ((withReached_onlyChanges p _).mono (by decide))

/-! ### Decoding -/

section
variable {s : State} {q slot code : Nat} {f : Fetched}

/-- What decoding makes of the queue's fetched slots. -/
theorem setDecoded_eq {now : Nat} {l : List Fetched} :
    setDecoded slot code now l = l.map fun x => if x.slot = slot then { x with decoded := some (BitVec.ofNat 8 code), decodedAt := now } else x := by
  unfold setDecoded
  simp only [beq_iff_eq]

theorem decodeApply_eq (ha : alive s = true) (hf : ((queueAt q s).fetched.find? fun f => f.slot == slot && f.decoded.isNone) = some f) : decodeApply q slot s =
    if qStanding (queueAt q s) then (if slot = (queueAt q s).nextStart then pinSlot q f (staticCheck s (queueAt q s) f.words) s else s)
    else setQueue q { queueAt q s with fetched := setDecoded slot (staticCheck s (queueAt q s) f.words) s.clock.fclk (queueAt q s).fetched } s := by
  unfold decodeApply
  dsimp only
  rw [if_neg (by simp [ha]), hf]

/-- A slot of a standing queue is pinned while the store has room. -/
theorem pinSlot_pinned (h : code = 0 ∧ s.orders.length < 512) : pinSlot q f code s =
    { setQueue q { queueAt q s with nextStart := f.slot + 1, fetched := (queueAt q s).fetched.filter fun x => x.slot != f.slot } s with
      orders := s.orders ++ [⟨q, f.slot, f.words, 0, false⟩] } := by
  have hnot : ¬ (code = 0 ∧ 512 ≤ s.orders.length) := by omega
  unfold pinSlot
  dsimp only
  rw [if_neg hnot, if_pos h.1]

theorem pinSlot_failed (h : ¬ (code = 0 ∧ s.orders.length < 512)) : pinSlot q f code s =
    setQueue q { queueAt q s with nextStart := f.slot + 1, fetched := setDecoded f.slot (if code = 0 then 0x5B else code) s.clock.fclk (queueAt q s).fetched } s := by
  unfold pinSlot
  dsimp only
  by_cases h0 : code = 0
  · rw [if_pos (show code = 0 ∧ 512 ≤ s.orders.length by omega), if_neg (by decide), if_pos h0]
  · have hin : (if code = 0 ∧ 512 ≤ s.orders.length then 0x5B else code) = code := if_neg fun h => h0 h.1
    rw [hin, if_neg h0, if_neg h0]

end

theorem descriptorDecodes : Claims.DescriptorDecodes := by
  intro q slot f s hw ha hdue hfind
  have hqw := (queues_wf hw).1
  have hslot : f.slot = slot := by
    have h := List.find?_some hfind
    simp only [Bool.and_eq_true, beq_iff_eq] at h
    exact h.1
  have hparts : OnlyChanges [.orders, .queues] s (decodeApply q slot s) := decodeApply_frame (.refl s)
  refine answers_unplaced rfl rfl hdue ?_
  have hmarked (c : Nat) : setDecoded slot c s.clock.fclk (queueAt q s).fetched =
      (queueAt q s).fetched.map fun x => if x.slot = slot then { x with decoded := some (BitVec.ofNat 8 c), decodedAt := s.clock.fclk } else x := setDecoded_eq
  have heq := decodeApply_eq ha hfind
  by_cases hstanding : qStanding (queueAt q s) = true
  · rw [if_pos hstanding] at heq
    have hplain : ¬ qStanding (queueAt q s) = false := by simp [hstanding]
    by_cases hnext : slot = (queueAt q s).nextStart
    · rw [if_pos hnext] at heq
      by_cases hroom : staticCheck s (queueAt q s) f.words = 0 ∧ s.orders.length < 512
      · rw [pinSlot_pinned hroom, hslot] at heq
        rw [heq] at hparts ⊢
        refine ⟨fun r hr => queueAt_setQueue_ne hr, hparts.mono (by decide), ?_⟩
        rw [if_neg hplain, if_neg (not_not.mpr hnext), if_pos hroom]
        have hself : queueAt q (setQueue q { queueAt q s with nextStart := slot + 1, fetched := (queueAt q s).fetched.filter fun x => x.slot != slot } s) =
            { queueAt q s with nextStart := slot + 1, fetched := (queueAt q s).fetched.filter fun x => x.slot != slot } := queueAt_setQueue_self hqw
        refine ⟨rfl, (congrArg QueueSt.nextStart hself).trans rfl, fun x hx => ?_⟩
        have hx' : x ∈ (queueAt q s).fetched.filter fun x => x.slot != slot := (congrArg (x ∈ QueueSt.fetched ·) hself).mp hx
        simpa using (List.mem_filter.mp hx').2
      · rw [pinSlot_failed hroom, hslot, hmarked] at heq
        rw [heq] at hparts ⊢
        refine ⟨fun r hr => queueAt_setQueue_ne hr, hparts.mono (by decide), ?_⟩
        rw [if_neg hplain, if_neg (not_not.mpr hnext), if_neg hroom]
        exact ⟨queueAt_setQueue_self hqw, rfl⟩
    · rw [if_neg hnext] at heq
      rw [heq]
      refine ⟨fun _ _ => rfl, .refl s, ?_⟩
      rw [if_neg hplain, if_pos hnext]
      exact ⟨rfl, rfl⟩
  · rw [if_neg hstanding, hmarked] at heq
    rw [heq] at hparts ⊢
    refine ⟨fun r hr => queueAt_setQueue_ne hr, hparts.mono (by decide), ?_⟩
    rw [if_pos (by simpa using hstanding)]
    exact ⟨queueAt_setQueue_self hqw, rfl⟩

/-! ### Fetches -/

section
variable {s : State} {q i : Nat}

/-- A read that the port takes: issued where an enabled window holds it, an error found elsewhere. -/
theorem memIssue_read {u : State} {urgent : Bool} {addr sectors hint i : Nat} {p : Purpose} (hcan : memCan false urgent addr (32 * sectors) s = true) (hid : freeId false s = some i) :
    (memIssue false urgent addr sectors hint p [] s).getD u = if inWindow addr (32 * sectors) s = true then
      present (.memRead i addr sectors hint urgent) { s with mem := s.mem ++ [⟨false, i, addr, sectors, urgent, p, s.clock.now, [], false, false⟩] }
      else find_ (.memory p 0x63 0 addr) s := by
  unfold memIssue
  rw [if_neg (by simp [hcan]), hid]
  dsimp only
  by_cases hwin : inWindow addr (32 * sectors) s = true
  · rw [if_pos hwin, if_neg (by simp [hwin])]
    rfl
  · rw [if_neg hwin, if_pos (by simpa using hwin)]
    rfl

end

theorem descriptorFetches : Claims.DescriptorFetches := by
  intro q cyc i s hw ha hdue hfetch hyields hfresh hnone hcan hid
  refine answers_unplaced rfl rfl hdue ?_
  have hany : ((queueAt q s).fetched.any fun f => f.slot == (queueAt q s).nextFetch) = false := by
    rw [List.any_eq_false]
    intro f hf
    simpa using hfresh f hf
  have heq : fetchApply q s = (memIssue false true (fetchAddr (queueAt q s)) 2 hSTREAM (.descFetch q (queueAt q s).nextFetch 1) []
      (setQueue q { queueAt q s with nextFetch := ((queueAt q s).nextFetch + 1) % queueSize (queueAt q s) } s)).getD s := by
    unfold fetchApply
    dsimp only
    rw [if_neg (by simp [ha, hfetch, hyields]), if_neg (by simp [hany, hnone])]
  rw [heq]
  have hself : queueAt q (setQueue q { queueAt q s with nextFetch := ((queueAt q s).nextFetch + 1) % queueSize (queueAt q s) } s) =
      { queueAt q s with nextFetch := ((queueAt q s).nextFetch + 1) % queueSize (queueAt q s) } := queueAt_setQueue_self (queues_wf hw).1
  have hothers (r : Nat) (hr : r ≠ q) : queueAt r (setQueue q { queueAt q s with nextFetch := ((queueAt q s).nextFetch + 1) % queueSize (queueAt q s) } s) = queueAt r s :=
    queueAt_setQueue_ne hr
  have hf : OnlyChanges [.queues] s (setQueue q { queueAt q s with nextFetch := ((queueAt q s).nextFetch + 1) % queueSize (queueAt q s) } s) := setQueue_frame (.refl s)
  rw [memIssue_read (s := setQueue q { queueAt q s with nextFetch := ((queueAt q s).nextFetch + 1) % queueSize (queueAt q s) } s) hcan hid]
  have hwindow : inWindow (fetchAddr (queueAt q s)) (32 * 2) (setQueue q { queueAt q s with nextFetch := ((queueAt q s).nextFetch + 1) % queueSize (queueAt q s) } s) =
      inWindow (fetchAddr (queueAt q s)) 64 s := rfl
  rw [hwindow]
  generalize setQueue q { queueAt q s with nextFetch := ((queueAt q s).nextFetch + 1) % queueSize (queueAt q s) } s = x at hself hothers hf ⊢
  have haddr : fetchAddr (queueAt q s) = (queueAt q s).descBase + 64 * (queueAt q s).nextFetch := rfl
  rw [haddr]
  have hnow : x.clock = s.clock := hf.clock_eq
  by_cases hwin : inWindow ((queueAt q s).descBase + 64 * (queueAt q s).nextFetch) 64 s = true
  · rw [if_pos hwin]
    refine ⟨hothers, hself, ?_⟩
    rw [if_pos hwin]
    refine ⟨congrArg (· ++ _) (hf .out (by decide)), ?_, ?_⟩
    · rw [← (hf .mem (by decide) : x.mem = s.mem), ← hnow]
      rfl
    · exact present_frame (OnlyChanges.next (ps := [.mem]) (hf.mono (by decide)) fun p hp => by cases p <;> simp [Part.same] at hp ⊢)
  · rw [if_neg hwin]
    refine ⟨hothers, hself, ?_⟩
    rw [if_neg hwin]
    refine ⟨?_, findDue_frame (hf.mono (by decide))⟩
    unfold Found
    rw [← hnow]
    rfl

/-- Settles O32: a fetch is one read of its slot, its error is the consequence of what was due, and decoding marks or pins the slot. -/
theorem descriptorsArrive : Obligations.DescriptorsArrive := ⟨descriptorFetches, fetchErrors, descriptorDecodes⟩

end Sys2Proof.Machine
end

section
/-! PROOF. Up phases open and close (R251, R252, R266). -/

namespace Sys2Proof.Machine

-- The inclusions that frames ask for are auto parameters, whose code is compiled: with proofs elaborated in order no thread waits for it.
set_option Elab.async false

section
variable {r s : State} {ps : List Part}

theorem endDiscard_frame {o : Op} (h : OnlyChanges ps r s) (hq : [.stalls] ⊆ ps := by decide) : OnlyChanges ps r (endDiscard o s) :=
  h.then (ps := [.stalls]) (.foldl (OnlyChanges.refl s) fun _ _ h1 => .ite (setStall_frame h1) h1) hq
theorem upOpenApply_frame {id : OpId} {p : Nat} (h : OnlyChanges ps r s) (hq : [.stalls, .ops] ⊆ ps := by decide) : OnlyChanges ps r (upOpenApply id p s) :=
  h.then (ps := [.stalls, .ops]) (withRunning_frame (fun _ _ h1 => .ite h1 (endDiscard_frame (setOp_frame h1))) (OnlyChanges.refl s)) hq
theorem upCloseApply_frame {id : OpId} {p : Nat} (h : OnlyChanges ps r s) (hq : [.ops] ⊆ ps := by decide) : OnlyChanges ps r (upCloseApply id p s) :=
  h.then (ps := [.ops]) (withRunning_frame (fun _ _ h1 => .ite h1 (setOp_frame h1)) (OnlyChanges.refl s)) hq
end

section
variable {s t : State} {id : OpId} {o : Op} {p n : Nat} {f : Op → State → State}

theorem withOp_eq (ho : opAt id s = some o) : withOp id f s = f o s := by rw [withOp, ho]

theorem withRunning_eq (ha : alive s = true) (ho : opAt id s = some o) (hr : runs o = true) : withRunning id f s = f o s := by
  rw [withRunning, withOp_eq ho, if_pos (by rw [ha, hr]; rfl)]

theorem alive_of_serving (h : serving s = true) : alive s = true := (Bool.and_eq_true_iff.mp h).1

/-- An operation that is put in its own place stands there, and no other moves. -/
theorem opAt_setOp_of {o' : Op} (ho : opAt id s = some o) (hid : o'.id = id) : opAt id (setOp o' s) = some o' := by
  subst hid
  exact opAt_setOp_self ho

theorem stallAt_of_stalls (h : t.stalls = s.stalls) : stallAt n t = stallAt n s := congrArg (tget StallSt.quiet n) h

/-- A member takes beats of the operation's tag again. -/
def discardEnded (o : Op) (s : State) (n : Nat) : State :=
  if (stallAt n s).dropTags.any (fun x => x.1 == dLedger o.d) then setStall n { stallAt n s with dropTags := (stallAt n s).dropTags.filter fun x => x.1 != dLedger o.d } s else s

theorem endDiscard_eq : endDiscard o s = o.members.foldl (discardEnded o) s := rfl

theorem discardEnded_wf (h : tableWf StallSt.quiet s.stalls = true) : tableWf StallSt.quiet (discardEnded o s n).stalls = true := by
  unfold discardEnded
  split
  · exact tset_wf _ _ _ h
  · exact h

theorem discardEnded_self (h : tableWf StallSt.quiet s.stalls = true) : ∀ x ∈ (stallAt n (discardEnded o s n)).dropTags, x.1 ≠ dLedger o.d := by
  unfold discardEnded
  split
  · rw [stallAt_setStall_self h]
    intro x hx
    simpa using (List.mem_filter.mp hx).2
  · next hnone =>
    intro x hx heq
    exact hnone (List.any_eq_true.mpr ⟨x, hx, by simpa using heq⟩)

theorem discardEnded_ne {m : Nat} (h : n ≠ m) : stallAt n (discardEnded o s m) = stallAt n s := by
  unfold discardEnded
  split
  · exact stallAt_setStall_ne h
  · rfl

/-- Members that have discarded a tag take its beats again. -/
theorem endDiscard_spec (hw : tableWf StallSt.quiet s.stalls = true) (hn : n ∈ o.members) : ∀ x ∈ (stallAt n (endDiscard o s)).dropTags, x.1 ≠ dLedger o.d := by
  rw [endDiscard_eq]
  refine foldl_establishes (f := discardEnded o) (I := fun t : State => tableWf StallSt.quiet t.stalls = true) (Q := fun t => ∀ x ∈ (stallAt n t).dropTags, x.1 ≠ dLedger o.d) (fun _ _ h => discardEnded_wf h)
    (fun t m ht hq => ?_) (fun _ h => discardEnded_self h) hn hw
  rcases eq_or_ne n m with rfl | hne
  · exact discardEnded_self ht
  · rw [discardEnded_ne hne]
    exact hq

theorem mem_members_of_contributors (h : n ∈ contributors o) : n ∈ o.members := by
  unfold contributors at h
  split at h
  · cases h
  · split at h
    · exact (List.mem_filter.mp h).1
    · exact h

/-- The operation whose up phase on the plane has opened. -/
def upOpened (o : Op) (p : Nat) : Op := { o with upOpen := o.upOpen ++ [p], upHold := if o.maskGroup then o.upHold ++ [p] else o.upHold, progress := true }

theorem upOpenApply_eq (hs : serving s = true) (ho : opAt id s = some o) (hr : runs o = true) : upOpenApply id p s =
    if !serving s || !upMayOpen o p s || !(streamsOn p s o || streamRoom p s) then s
    else endDiscard o (setOp (if (planeChunks o p).isEmpty then closeUp (upOpened o p) p s else upOpened o p) s) :=
  withRunning_eq (alive_of_serving hs) ho hr

theorem upCloseApply_eq (hs : serving s = true) (ho : opAt id s = some o) (hr : runs o = true) : upCloseApply id p s =
    if !o.upOpen.contains p || !upAccepted o p then s else setOp (closeUp o p s) s :=
  withRunning_eq (alive_of_serving hs) ho hr

theorem closeUp_spec : p ∉ (closeUp o p s).upOpen ∧ p ∈ (closeUp o p s).upDone ∧ (closeUp o p s).id = o.id :=
  ⟨by simp [closeUp], by simp [closeUp], rfl⟩

/-- A conflict on the plane keeps an up phase closed. -/
theorem upMayOpen_of_conflict {x : Op} (hx : x ∈ s.ops) (hid : x.id ≠ o.id) (hp : p ∈ x.upOpen) (hshare : sharesStall o x = true) : upMayOpen o p s = false := by
  have h : (s.ops.any fun x => x.id != o.id && upConflict o x p) = true := by
    refine List.any_eq_true.mpr ⟨x, hx, ?_⟩
    simp [hid, upConflict, hp, hshare]
  simp [upMayOpen, h]

end

/-- Settles O36: each clause is one branch of the two updates. -/
theorem upPhases : Obligations.UpPhases := by
  intro id p o s hw hs hdue ho hr
  have hid : o.id = id := opAt_id ho
  have hopen {P : State → Prop} (h : P (upOpenApply id p s)) : Answers (.upPhaseOpen id p) s P := answers_unplaced rfl rfl hdue h
  have hclose {P : State → Prop} (h : P (upCloseApply id p s)) : Answers (.upPhaseClose id p) s P := answers_unplaced rfl rfl hdue h
  refine ⟨fun hmay hnot hroom => hopen ?_, fun hmay hroom => hopen ?_, fun x hx hne hp hshare => hopen ?_, fun hp hdone => hclose ?_, fun hchunks hleft => hclose ?_⟩
  · rw [upOpenApply_eq hs ho hr, if_pos (by simp [hnot, hroom])]
    exact .refl s
  · have hf : OnlyChanges [.stalls, .ops] s (upOpenApply id p s) := upOpenApply_frame (.refl s)
    rw [upOpenApply_eq hs ho hr, if_neg (by simp [hs, hmay, hroom])] at hf ⊢
    have hnew (o' : Op) (hid' : o'.id = id) (h : if planeChunks o p = [] then p ∉ o'.upOpen ∧ p ∈ o'.upDone else p ∈ o'.upOpen) :
        (∃ x : Op, opAt id (endDiscard o (setOp o' s)) = some x ∧ (if planeChunks o p = [] then p ∉ x.upOpen ∧ p ∈ x.upDone else p ∈ x.upOpen))
          ∧ (∀ n ∈ contributors o, ∀ x ∈ (stallAt n (endDiscard o (setOp o' s))).dropTags, x.1 ≠ dLedger o.d) ∧ (∀ i, i ≠ id → opAt i (endDiscard o (setOp o' s)) = opAt i s) := by
      have hops : (endDiscard o (setOp o' s)).ops = (setOp o' s).ops := (endDiscard_frame (ps := [.stalls]) (.refl _)) .ops (by decide)
      refine ⟨⟨o', ?_, h⟩, fun n hn => endDiscard_spec (s := setOp o' s) (show tableWf StallSt.quiet s.stalls = true from stalls_wf (allWf_tablesWf hw)) (mem_members_of_contributors hn), fun i hi => ?_⟩
      · rw [opAt, hops]
        exact opAt_setOp_of ho hid'
      · rw [opAt, hops]
        exact opAt_setOp_ne (hid' ▸ hi)
    by_cases hchunks : planeChunks o p = []
    · rw [if_pos (by simp [hchunks])] at hf ⊢
      obtain ⟨h1, h2, h3⟩ := closeUp_spec (o := upOpened o p) (p := p) (s := s)
      obtain ⟨k1, k2, k3⟩ := hnew (closeUp (upOpened o p) p s) (h3.trans hid) (by rw [if_pos hchunks]; exact ⟨h1, h2⟩)
      exact ⟨k1, k2, k3, hf.mono (by decide)⟩
    · rw [if_neg (by simpa using hchunks)] at hf ⊢
      obtain ⟨k1, k2, k3⟩ := hnew (upOpened o p) hid (by rw [if_neg hchunks]; simp [upOpened])
      exact ⟨k1, k2, k3, hf.mono (by decide)⟩
  · rw [upOpenApply_eq hs ho hr, if_pos (by simp [upMayOpen_of_conflict hx (hid ▸ hne) hp hshare])]
    exact .refl s
  · have haccepted : upAccepted o p = true := by
      unfold upAccepted
      rw [Bool.or_eq_true, List.all_eq_true]
      exact .inr hdone
    rw [upCloseApply_eq hs ho hr, if_neg (by simp [hp, haccepted])]
    obtain ⟨h1, h2, h3⟩ := closeUp_spec (o := o) (p := p) (s := s)
    exact ⟨⟨closeUp o p s, opAt_setOp_of ho (h3.trans hid), h1, h2⟩, fun i hi => opAt_setOp_ne (by rw [h3, hid]; exact hi), setOp_frame (.refl s)⟩
  · have haccepted : upAccepted o p = false := by
      obtain ⟨n, hn, hnot⟩ := hleft
      unfold upAccepted
      rw [Bool.or_eq_false_iff, List.all_eq_false]
      exact ⟨by simpa using hchunks, n, hn, by simp [hnot]⟩
    rw [upCloseApply_eq hs ho hr, if_pos (by simp [haccepted])]
    exact .refl s

end Sys2Proof.Machine
end

section
/-! PROOF. Beats on the up ports, and what a failure leaves of its operation (R20, R27, R30, R252, R257). -/

namespace Sys2Proof.Machine

-- The inclusions that frames ask for are auto parameters, whose code is compiled: with proofs elaborated in order no thread waits for it.
set_option Elab.async false

section
variable {r s : State} {ps : List Part}

theorem freeOpPool_frame {o : Op} (h : OnlyChanges ps r s) (hq : [.planes] ⊆ ps := by decide) : OnlyChanges ps r (freeOpPool o s) :=
  h.then (ps := [.planes]) (.foldl (OnlyChanges.refl s) fun _ _ h1 => poolGive_frame h1) hq
theorem dropPages_frame {id : OpId} (h : OnlyChanges ps r s) (hq : [.ops, .planes] ⊆ ps := by decide) : OnlyChanges ps r (dropPages id s) :=
  h.then (ps := [.ops, .planes]) (withOp_frame (fun _ _ h1 => setOp_frame (freeOpPool_frame h1)) (OnlyChanges.refl s)) hq
theorem releaseBias_frame {id : OpId} (h : OnlyChanges ps r s) (hq : [.ledgers] ⊆ ps := by decide) : OnlyChanges ps r (releaseBias id s) :=
  h.then (ps := [.ledgers]) (.foldl (OnlyChanges.refl s) fun _ _ h1 => .ite (setLedger_frame h1) h1) hq
theorem endHoldFailed_frame {o : Op} (h : OnlyChanges ps r s) (hq : [.ledgers, .log, .planes] ⊆ ps := by decide) : OnlyChanges ps r (endHoldFailed o s) :=
  h.then (ps := [.ledgers, .log, .planes]) (.ite (releaseBias_frame (OnlyChanges.refl s)) (releaseBias_frame (.ite (setLedger_frame (OnlyChanges.refl
      s)) (.ite (setLedger_frame (OnlyChanges.refl s)) (freeLedger_frame (OnlyChanges.refl s)))))) hq
theorem pageWaitEnd_frame {id : OpId} (h : OnlyChanges ps r s) (hq : [.pageWait] ⊆ ps := by decide) : OnlyChanges ps r (pageWaitEnd id s) :=
  h.then (ps := [.pageWait]) (OnlyChanges.next (ps := [.pageWait]) (OnlyChanges.refl s) fun p hp => by cases p <;> simp [Part.same, pageWaitEnd] at hp ⊢) hq
theorem leaveLists_frame {id : OpId} (h : OnlyChanges ps r s) (hq : [.pageWait, .ledgers] ⊆ ps := by decide) : OnlyChanges ps r (leaveLists id s) :=
  h.then (ps := [.pageWait, .ledgers]) (pageWaitEnd_frame (.foldl (OnlyChanges.refl s) fun _ _ h1 => .ite (setLedger_frame h1) h1)) hq
theorem abandonSteps_frame {l : Leg} (h : OnlyChanges ps r s) (hq : [.links] ⊆ ps := by decide) : OnlyChanges ps r (abandonSteps l s) :=
  h.then (ps := [.links]) (.foldl (OnlyChanges.refl s) fun _ _ h1 => .ite h1 (queueFlit_frame h1)) hq
theorem stopLeg_frame {id : OpId} (h : OnlyChanges ps r s) (hq : [.verdicts, .ops, .links] ⊆ ps := by decide) : OnlyChanges ps r (stopLeg id s) := by
  refine h.then (ps := [.verdicts, .ops, .links]) ?_ hq
  unfold stopLeg
  refine withOp_frame (fun _ _ h1 => ?_) (OnlyChanges.refl s)
  split
  · exact h1
  · exact setVerdict_frame (setOp_frame (abandonSteps_frame h1))
theorem logFail_frame {o : Op} {code : Nat} (h : OnlyChanges ps r s) (hq : [.setNow, .regs, .log] ⊆ ps := by decide) : OnlyChanges ps r (logFail o code s) :=
  h.then (ps := [.setNow, .regs, .log]) (.ite (OnlyChanges.refl s) (.ite (noticeLedger_frame (OnlyChanges.refl s)) (notice_frame (OnlyChanges.refl
      s)))) hq
theorem endChain_frame {o : Op} (h : OnlyChanges ps r s) (hq : [.log] ⊆ ps := by decide) : OnlyChanges ps r (endChain o s) :=
  h.then (ps := [.log]) (.ite (closeLedgerChain_frame (OnlyChanges.refl s)) (OnlyChanges.refl s)) hq
theorem discardBeats_frame {o : Op} (h : OnlyChanges ps r s) (hq : [.setNow, .regs, .stalls] ⊆ ps := by decide) : OnlyChanges ps r (discardBeats o s) :=
  h.then (ps := [.setNow, .regs, .stalls]) (.ite (OnlyChanges.refl s) (.foldl (OnlyChanges.refl s) fun _ _ h1 => irq_frame (setStall_frame h1))) hq
theorem opFail_frame {id : OpId} {code : Nat} (h : OnlyChanges ps r s) (hq : [.ops, .log, .setNow, .regs, .stalls, .planes, .ledgers, .pageWait, .verdicts, .links] ⊆ ps := by decide) : OnlyChanges ps r (opFail id code s) :=
  h.then (ps := [.ops, .log, .setNow, .regs, .stalls, .planes, .ledgers, .pageWait, .verdicts, .links]) (withOp_frame (fun _ _ h1 => .ite h1
      (modOp_frame (endChain_frame (discardBeats_frame (dropPages_frame (endHoldFailed_frame (leaveLists_frame (stopLeg_frame (logFail_frame
      h1))))))))) (OnlyChanges.refl s)) hq
theorem upHeld_frame {stall : Nat} {p : Nat} (h : OnlyChanges ps r s) (hq : [.stalls] ⊆ ps := by decide) : OnlyChanges ps r (upHeld stall p s) :=
  h.then (ps := [.stalls]) (setStall_frame (OnlyChanges.refl s)) hq
theorem countDiscarded_frame {stall : Nat} (h : OnlyChanges ps r s) (hq : [.stalls] ⊆ ps := by decide) : OnlyChanges ps r (countDiscarded stall s) :=
  h.then (ps := [.stalls]) (setStall_frame (OnlyChanges.refl s)) hq
theorem countUp_frame {stall : Nat} {p : Nat} (h : OnlyChanges ps r s) (hq : [.stalls] ⊆ ps := by decide) : OnlyChanges ps r (countUp stall p s) :=
  h.then (ps := [.stalls]) (setStall_frame (OnlyChanges.refl s)) hq
theorem dropBeat_frame {stall : Nat} {p : Nat} {tag : Nat} {chunk : Nat} {last : Bool} {x : Nat × Nat × Nat} (h : OnlyChanges ps r s) (hq : [.stalls] ⊆ ps := by decide) : OnlyChanges ps r (dropBeat stall p tag chunk last x s) :=
  h.then (ps := [.stalls]) (.when (countDiscarded_frame (countUp_frame (OnlyChanges.refl s))) fun h1 => setStall_frame h1) hq
theorem beatFails_frame {o : Op} (h : OnlyChanges ps r s) (hq : [.found] ⊆ ps := by decide) : OnlyChanges ps r (beatFails o s) :=
  h.then (ps := [.found]) (findDue_frame (OnlyChanges.refl s)) hq
theorem takeUpBeat_frame {o : Op} {stall : Nat} {p : Nat} {chunk : Nat} {last : Bool} {data : BitVec 512} {scale : BitVec 32} (h : OnlyChanges ps r s) (hq : [.found, .stalls, .ops] ⊆ ps := by decide) : OnlyChanges ps r (takeUpBeat o stall p chunk last data scale s) :=
  h.then (ps := [.found, .stalls, .ops]) (.ite (beatFails_frame (countUp_frame (OnlyChanges.refl s))) (.ite (countDiscarded_frame (setOp_frame
      (countUp_frame (OnlyChanges.refl s)))) (setOp_frame (countUp_frame (OnlyChanges.refl s))))) hq
theorem upBeatApply_frame {stall : Nat} {p : Nat} {tag : Nat} {chunk : Nat} {last : Bool} {data : BitVec 512} {scale : BitVec 32} {cyc : Nat} (h : OnlyChanges ps r s) (hq : [.stalls, .found, .ops] ⊆ ps := by decide) : OnlyChanges ps r (upBeatApply stall p tag chunk last data scale cyc s) := by
  refine h.then (ps := [.stalls, .found, .ops]) ?_ hq
  unfold upBeatApply
  refine .unless (upHeld_frame (OnlyChanges.refl s)) fun h1 => ?_
  split
  · exact dropBeat_frame (OnlyChanges.refl s)
  · split
    · exact h1
    · exact .ite (takeUpBeat_frame (OnlyChanges.refl s)) (.ite (beatFails_frame (countUp_frame (OnlyChanges.refl s))) h1)
end

/-! ### What a failure leaves of its operation, of the others and of the log -/

section
variable {r s t u : State} {id : OpId} {o : Op} {code : Nat} {ps : List Part}

/-- No other operation changes, and this one stays. -/
structure OpStays (id : OpId) (s t : State) : Prop where
  others : ∀ i, i ≠ id → opAt i t = opAt i s
  stays : ∀ o, opAt id s = some o → ∃ o', opAt id t = some o'

theorem OpStays.refl (s : State) : OpStays id s s := ⟨fun _ _ => rfl, fun o h => ⟨o, h⟩⟩

theorem OpStays.trans (h : OpStays id s t) (h' : OpStays id t u) : OpStays id s u :=
  ⟨fun i hi => (h'.others i hi).trans (h.others i hi), fun o ho => by obtain ⟨o', ho'⟩ := h.stays o ho; exact h'.stays o' ho'⟩

theorem opAt_of_ops (h : t.ops = s.ops) (j : OpId) : opAt j t = opAt j s := congrArg (findOp j) h

theorem OpStays.of_frame (h : OnlyChanges ps s t) (hp : .ops ∉ ps := by decide) : OpStays id s t := by
  have hops : t.ops = s.ops := h .ops hp
  exact ⟨fun i _ => opAt_of_ops hops i, fun o ho => ⟨o, (opAt_of_ops hops id).trans ho⟩⟩

theorem OpStays.setOp {o' : Op} (ho : opAt id s = some o) (hid : o'.id = id) : OpStays id s (setOp o' s) :=
  ⟨fun _ hi => opAt_setOp_ne (hid ▸ hi), fun _ _ => ⟨o', opAt_setOp_of ho hid⟩⟩

theorem stopLeg_stays : OpStays id s (stopLeg id s) := by
  unfold stopLeg withOp
  cases ho : opAt id s with
  | none => exact .refl s
  | some o =>
    dsimp only
    cases hl : o.leg with
    | none => exact .refl s
    | some l =>
      have hops : (abandonSteps l s).ops = s.ops := (abandonSteps_frame (ps := [.links]) (.refl s)) .ops (by decide)
      have ho' : opAt id (abandonSteps l s) = some o := (opAt_of_ops hops id).trans ho
      have h1 : OpStays id s (abandonSteps l s) := .of_frame (ps := [.links]) (abandonSteps_frame (.refl s))
      have h2 : OpStays id (abandonSteps l s) (Sys2Proof.Machine.setOp { o with leg := none } (abandonSteps l s)) := .setOp ho' (opAt_id ho :)
      exact (h1.trans h2).trans (.of_frame (ps := [.verdicts]) (setVerdict_frame (.refl _)))

theorem dropPages_stays : OpStays id s (dropPages id s) := by
  unfold dropPages withOp
  cases ho : opAt id s with
  | none => exact .refl s
  | some o =>
    have hops : (freeOpPool o s).ops = s.ops := (freeOpPool_frame (ps := [.planes]) (.refl s)) .ops (by decide)
    have h1 : OpStays id s (freeOpPool o s) := .of_frame (ps := [.planes]) (freeOpPool_frame (.refl s))
    exact h1.trans (.setOp ((opAt_of_ops hops id).trans ho) (opAt_id ho :))

/-- The log's entries stay as they are. -/
def EntriesKept (s t : State) : Prop := t.log.entries = s.log.entries

theorem EntriesKept.of_frame (h : OnlyChanges ps s t) (hp : .log ∉ ps := by decide) : EntriesKept s t := congrArg ErrLog.entries (h .log hp)

theorem freeLedger_entries {l : Nat} : EntriesKept s (freeLedger l s) := by
  have h : EntriesKept s (setLedger l { Ledger.free with waiting := (ledgerAt l s).waiting } (freeLedgerPool (ledgerAt l s) s)) :=
    .of_frame (ps := [.ledgers, .planes]) (setLedger_frame (freeLedgerPool_frame (.refl s)))
  exact h

theorem endHoldFailed_entries : EntriesKept s (endHoldFailed o s) := by
  have hbias {x : State} (h : EntriesKept s x) : EntriesKept s (releaseBias o.id x) := (EntriesKept.of_frame (ps := [.ledgers]) (releaseBias_frame (.refl x))).trans h
  unfold endHoldFailed
  dsimp only
  split
  · exact hbias rfl
  · refine hbias ?_
    split
    · exact .of_frame (ps := [.ledgers]) (setLedger_frame (.refl s))
    · split
      · exact .of_frame (ps := [.ledgers]) (setLedger_frame (.refl s))
      · exact freeLedger_entries

theorem endChain_entries : EntriesKept s (endChain o s) := by
  unfold endChain
  split
  · rfl
  · rfl

/-- What a failure undoes before the operation is marked failed. -/
def failUndone (id : OpId) (o : Op) (code : Nat) (s : State) : State :=
  endChain o (discardBeats o (dropPages id (endHoldFailed o (leaveLists id (stopLeg id (logFail o code s))))))

theorem failUndone_stays : OpStays id s (failUndone id o code s) := by
  have h1 : OpStays id s (logFail o code s) := .of_frame (ps := [.setNow, .regs, .log]) (logFail_frame (.refl s))
  have h2 (x : State) : OpStays id x (endHoldFailed o (leaveLists id x)) := .of_frame (ps := [.ledgers, .log, .planes, .pageWait]) (endHoldFailed_frame (leaveLists_frame (.refl x)))
  have h3 (x : State) : OpStays id x (endChain o (discardBeats o x)) := .of_frame (ps := [.log, .stalls, .setNow, .regs]) (endChain_frame (discardBeats_frame (.refl x)))
  exact (((h1.trans stopLeg_stays).trans (h2 _)).trans dropPages_stays).trans (h3 _)

theorem failUndone_entries : EntriesKept (logFail o code s) (failUndone id o code s) := by
  have h1 (x : State) : EntriesKept x (leaveLists id (stopLeg id x)) := .of_frame (ps := [.ledgers, .pageWait, .verdicts, .ops, .links]) (leaveLists_frame (stopLeg_frame (.refl x)))
  have h2 (x : State) : EntriesKept x (discardBeats o (dropPages id x)) := .of_frame (ps := [.stalls, .setNow, .regs, .ops, .planes]) (discardBeats_frame (dropPages_frame (.refl x)))
  exact endChain_entries.trans ((h2 _).trans (endHoldFailed_entries.trans (h1 _)))

theorem failUndone_frame (h : OnlyChanges ps r s) (hq : [.setNow, .regs, .log, .verdicts, .ops, .links, .pageWait, .ledgers, .planes, .stalls] ⊆ ps := by decide) :
    OnlyChanges ps r (failUndone id o code s) :=
  h.then (ps := [.setNow, .regs, .log, .verdicts, .ops, .links, .pageWait, .ledgers, .planes, .stalls])
    (endChain_frame (discardBeats_frame (dropPages_frame (endHoldFailed_frame (leaveLists_frame (stopLeg_frame (logFail_frame (.refl s)))))))) hq

/-- An operation that has failed. -/
def failedOp (code : Nat) (transit : Word64) (o : Op) : Op :=
  { o with fail := some (BitVec.ofNat 8 code, transit), upOpen := [], upHold := [], beats := [], summed := [], passed := [], limbs := [], fresh := [], folded := [], foldBuf := [], down := [], replay := none, comparing := false, save := none, eg := { o.eg with recallDue := false, reEmit := false } }

theorem opFail_eq (ho : opAt id s = some o) (hf : o.fail = none) : opFail id code s = modOp id (failedOp code (failUndone id o code s).clock.transit) (failUndone id o code s) := by
  have h : opFail id code s = if o.fail.isSome then s else modOp id (failedOp code (failUndone id o code s).clock.transit) (failUndone id o code s) := withOp_eq ho
  rw [h, if_neg (by simp [hf])]

/-- A failure marks its operation in this transit and enters the log as its code does (R257). -/
theorem opFail_spec (ho : opAt id s = some o) (hf : o.fail = none) : let t := opFail id code s
    (∃ o' : Op, opAt id t = some o' ∧ o'.fail = some (BitVec.ofNat 8 code, s.clock.transit) ∧ o'.beats = [] ∧ o'.upOpen = []) ∧ (∀ i, i ≠ id → opAt i t = opAt i s)
      ∧ EntriesKept (logFail o code s) t := by
  rw [opFail_eq ho hf]
  have hclock : (failUndone id o code s).clock = s.clock :=
    (failUndone_frame (ps := [.setNow, .regs, .log, .verdicts, .ops, .links, .pageWait, .ledgers, .planes, .stalls]) (.refl s)).clock_eq
  have hstays : OpStays id s (failUndone id o code s) := failUndone_stays
  have hentries : EntriesKept (logFail o code s) (failUndone id o code s) := failUndone_entries
  obtain ⟨o1, ho1⟩ := hstays.stays o ho
  rw [hclock]
  generalize failUndone id o code s = x at hclock hstays hentries ho1 ⊢
  have heq : modOp id (failedOp code s.clock.transit) x = setOp (failedOp code s.clock.transit o1) x := by rw [modOp, ho1]
  have hid : (failedOp code s.clock.transit o1).id = id := (opAt_id ho1 :)
  rw [heq]
  exact ⟨⟨failedOp code s.clock.transit o1, opAt_setOp_of ho1 hid, rfl, rfl, rfl⟩, fun i hi => (opAt_setOp_ne (hid ▸ hi)).trans (hstays.others i hi), hentries⟩

theorem logFail_logged (hroom : LogRoom s) (hc : descriptorCode code = true) (hp : plainCode code) : Logged code 0 (failSource o code s) s (logFail o code s) := by
  unfold logFail
  rw [if_neg (by simp [hc])]
  split
  · exact logFault_logged (e := ⟨code, clsNotice, failSource o code s, some (dLedger o.d, o.attempt), none⟩) hroom hp
  · exact notice_logged hroom hp

end

theorem foundFailures : Claims.FoundFailures := by
  intro n id o s hw hn hline hroom ho hf hdue
  have hd : dueApply (.failed id 0x5A queueSource) (atDue (.failed id 0x5A queueSource) s) = opFail id 0x5A (atDue (.failed id 0x5A queueSource) s) := rfl
  have hframe : OnlyChanges [.setNow, .regs, .log, .verdicts, .ops, .links, .pageWait, .ledgers, .planes, .stalls] (atDue (.failed id 0x5A queueSource) s) (opFail id 0x5A (atDue (.failed id 0x5A queueSource) s)) :=
    opFail_frame (.refl _)
  obtain ⟨hself, hothers, hentries⟩ := opFail_spec (code := 0x5A) (s := atDue (.failed id 0x5A queueSource) s) ho hf
  have hlog : Logged 0x5A 0 queueSource (atDue (.failed id 0x5A queueSource) s) (logFail o 0x5A (atDue (.failed id 0x5A queueSource) s)) :=
    logFail_logged hroom rfl (.inr (by decide))
  refine answers_idleRearm_due hn hdue rfl ?_ ?_ fun p => ?_
  · rw [hd, hframe.clock_eq]
    rfl
  · rw [hd]
    exact (congrArg (fun l => (tget Line.idle n l).rangAt) (hframe .lines (by decide))).trans hline
  · rw [hd]
    generalize opFail id 0x5A (atDue (.failed id 0x5A queueSource) s) = t at hself hothers hentries hframe ⊢
    refine ⟨hself, ?_, hothers⟩
    obtain ⟨e, he, hrest⟩ := hlog
    exact ⟨e, hentries.trans he, hrest⟩

/-! ### Beats on an up port -/

section
variable {s t : State} {stall p k : Nat} {o : Op} {last : Bool} {data : BitVec 512} {scale : BitVec 32}

theorem getLsbD_bit8 (hp : p < 8) : (BitVec.ofNat 8 (2 ^ p)).getLsbD p = true := by
  rw [BitVec.getLsbD_ofNat]
  simp [hp]

/-- The tile's beat is accepted. -/
structure BeatTaken (stall p : Nat) (s t : State) : Prop where
  valid : (stallAt stall t).upValid.getLsbD p = false
  beats : (stallAt stall t).upBeats = (stallAt stall s).upBeats + 1
  others : StallsKeep stall s t

theorem countUp_taken (hw : tableWf StallSt.quiet s.stalls = true) (hp : p < 8) : BeatTaken stall p s (countUp stall p s) := by
  have hself : stallAt stall (countUp stall p s) = { stallAt stall s with upBeats := (stallAt stall s).upBeats + 1, upValid := (stallAt stall s).upValid &&& ~~~(BitVec.ofNat 8 (2 ^ p)) } :=
    stallAt_setStall_self hw
  refine ⟨?_, by rw [hself], fun n hn => stallAt_setStall_ne hn⟩
  rw [hself]
  show ((stallAt stall s).upValid &&& ~~~(BitVec.ofNat 8 (2 ^ p))).getLsbD p = false
  rw [BitVec.getLsbD_and, BitVec.getLsbD_not, getLsbD_bit8 hp, Bool.not_true, Bool.and_false, Bool.and_false]

theorem discarded_countUp (hw : tableWf StallSt.quiet s.stalls = true) : (stallAt stall (countUp stall p s)).discarded = (stallAt stall s).discarded :=
  (congrArg StallSt.discarded (stallAt_setStall_self hw)).trans rfl

theorem innerWf_of_allWf (hw : s.allWf = true) : s.innerWf = true := by
  rw [allWf_eq, Bool.and_eq_true, Bool.and_eq_true] at hw
  exact hw.2.2

/-- The beats that an operation keeps are a canonical table. -/
theorem op_beats_wf (hw : s.allWf = true) (ho : o ∈ s.ops) : tableWf none o.beats = true := ((Keeps.refl s).ops o ho).beats (innerWf_of_allWf hw)

theorem BeatTaken.of_stalls {u : State} (h : BeatTaken stall p s t) (hs : u.stalls = t.stalls) : BeatTaken stall p s u :=
  ⟨by rw [stallAt_of_stalls hs]; exact h.valid, by rw [stallAt_of_stalls hs]; exact h.beats, fun n hn => (stallAt_of_stalls hs).trans (h.others n hn)⟩

theorem countDiscarded_spec (hw : tableWf StallSt.quiet s.stalls = true) : let t := countDiscarded stall s
    stallAt stall t = { stallAt stall s with discarded := satAdd (stallAt stall s).discarded 1 } ∧ (∀ n, n ≠ stall → stallAt n t = stallAt n s) :=
  ⟨stallAt_setStall_self hw, fun _ hn => stallAt_setStall_ne hn⟩

theorem upHeld_spec (hw : tableWf StallSt.quiet s.stalls = true) (hp : p < 8) : let t := upHeld stall p s
    (stallAt stall t).upValid.getLsbD p = true ∧ (stallAt stall t).upBeats = (stallAt stall s).upBeats ∧ StallsKeep stall s t ∧ OnlyChanges [.stalls] s t := by
  have hself : stallAt stall (upHeld stall p s) = { stallAt stall s with upValid := (stallAt stall s).upValid ||| BitVec.ofNat 8 (2 ^ p) } := stallAt_setStall_self hw
  refine ⟨?_, ?_, fun n hn => stallAt_setStall_ne hn, setStall_frame (.refl s)⟩
  · rw [hself, BitVec.getLsbD_or, getLsbD_bit8 hp, Bool.or_true]
  · rw [hself]

theorem beatFails_spec (hw : tableWf StallSt.quiet s.stalls = true) (hp : p < 8) : let t := beatFails o (countUp stall p s)
    BeatTaken stall p s t ∧ Found (.failed o.id 0x5A queueSource) s t ∧ OnlyChanges [.stalls, .found] s t :=
  ⟨(countUp_taken hw hp).of_stalls rfl, rfl, findDue_frame (setStall_frame (.refl s))⟩

/-- The operation after a beat that continues its attempt. -/
def beatAdvanced (o : Op) (stall p k : Nat) (last : Bool) : Op := setProg { o with progress := true } stall p (progNext o (progAt o stall p) p k last)
/-- The beat stored. -/
def beatStored (o : Op) (stall p k : Nat) (last : Bool) (data : BitVec 512) (scale : BitVec 32) : Op :=
  { beatAdvanced o stall p k last with beats := tset none (beatKey stall k (beatNo (progAt o stall p) k)) (some ⟨data, scale⟩) o.beats }

theorem takeUpBeat_eq : takeUpBeat o stall p k last data scale s =
    if !(contributors o).contains stall || beatBad o (progAt o stall p) p k last then beatFails o (countUp stall p s)
    else if (progAt o stall p).attempt < (progAt o stall p).want then countDiscarded stall (setOp (beatAdvanced o stall p k last) (countUp stall p s))
    else setOp (beatStored o stall p k last data scale) (countUp stall p s) := rfl

theorem upBeatApply_eq {tag cyc : Nat} (hon : upOn p (s.clock.fclk + cyc) s = true) (hdrop : dropFor stall p tag s = none) (ho : upOpFor stall p tag s = some o) :
    upBeatApply stall p tag k last data scale cyc s = if upTakes o stall p then takeUpBeat o stall p k last data scale s
      else if astray o stall p k s then beatFails o (countUp stall p s) else upHeld stall p s := by
  have hoff : ¬ (!upOn p (stamp cyc s) s) = true := by simp [stamp, hon]
  unfold upBeatApply
  rw [if_neg hoff, hdrop, ho]

/-- A beat whose plane, chunk or place is wrong breaks its operation. -/
theorem beatBad_of_place {v : TileProg} (h : maskPlane o.planes k ≠ p ∨ upChunks o.d ≤ k ∨ k ∈ v.done) : beatBad o v p k last = true := by
  unfold beatBad
  rcases h with h | h | h <;> simp [h]

theorem findOp_of_mem {l : List Op} (h : o ∈ l) : ∃ x, findOp o.id l = some x := by
  induction l with
  | nil => cases h
  | cons a l ih =>
    unfold findOp
    split
    · exact ⟨a, rfl⟩
    · next hne =>
      rcases List.mem_cons.mp h with rfl | hl
      · exact absurd rfl hne
      · exact ih hl

end

theorem upPortBeats : Claims.UpPortBeats := by
  intro stall p tag chunk last data scale cyc s hw hdue hstall hplane hp
  dsimp only
  have hsw := stalls_wf (allWf_tablesWf hw)
  have hanswer {P : State → Prop} (h : P (upBeatApply stall p tag.toNat chunk.toNat last data scale cyc s)) : Answers (.upBeat stall p tag chunk last data scale cyc) s P := by
    refine answers_unplaced (f := upBeatApply stall p tag.toNat chunk.toNat last data scale cyc) ?_ rfl hdue h
    exact if_neg (by simp [hstall, hplane])
  have hheld := upHeld_spec (stall := stall) hsw hp
  refine ⟨fun hoff => hanswer ?_, fun o hon hdrop ho hclaim => ?_⟩
  · have heq : upBeatApply stall p tag.toNat chunk.toNat last data scale cyc s = upHeld stall p s := if_pos (by simp [stamp, hoff])
    rw [heq]
    exact hheld
  · have heq := upBeatApply_eq (k := chunk.toNat) (last := last) (data := data) (scale := scale) hon hdrop ho
    have hmem : o ∈ s.ops := List.mem_of_find?_eq_some ho
    have hrun : runs o = true := by
      have h := List.find?_some ho
      simp only [Bool.and_eq_true] at h
      exact h.1.1.1.1
    have hfail : o.fail = none := by
      have h : o.fail.isNone = true := by
        simp only [runs, Bool.and_eq_true] at hrun
        exact hrun.1.1
      simpa using h
    have hfound : ∃ x, opAt o.id (countUp stall p s) = some x := findOp_of_mem hmem
    obtain ⟨x, hx⟩ := hfound
    have hbeats : tableWf none o.beats = true := op_beats_wf hw hmem
    have hup := countUp_taken (stall := stall) hsw hp
    have hfails (h : upBeatApply stall p tag.toNat chunk.toNat last data scale cyc s = beatFails o (countUp stall p s)) :
        Answers (.upBeat stall p tag chunk last data scale cyc) s fun t => ((stallAt stall t).upValid.getLsbD p = false ∧ (stallAt stall t).upBeats = (stallAt stall s).upBeats + 1 ∧ StallsKeep stall s t)
          ∧ Found (.failed o.id 0x5A queueSource) s t ∧ OnlyChanges [.stalls, .found] s t := by
      obtain ⟨h1, h2, h3⟩ := beatFails_spec (stall := stall) (o := o) hsw hp
      refine hanswer ?_
      rw [h]
      exact ⟨⟨h1.valid, h1.beats, h1.others⟩, h2, h3⟩
    have htakes (h : stall ∉ contributors o ∨ progDone (progAt o stall p) = false) : upTakes o stall p = true := by
      rcases h with h | h <;> simp [upTakes, hclaim, h]
    rw [takeUpBeat_eq] at heq
    refine ⟨fun hout => ?_, fun hin hdone => ?_, fun hin hopen => ⟨fun hbad => ?_, fun hplace => ?_, fun hgood hcur => hanswer ?_, fun hgood hlate => hanswer ?_⟩⟩
    · rw [if_pos (htakes (.inl hout)), if_pos (by simp [hout])] at heq
      exact hfails heq
    · rw [if_neg (by simp [upTakes, hclaim, hin, hdone])] at heq
      by_cases hastray : astray o stall p chunk.toNat s = true
      · rw [if_pos hastray] at heq ⊢
        exact hfails heq
      · rw [if_neg hastray] at heq ⊢
        refine hanswer ?_
        rw [heq]
        exact hheld
    · rw [if_pos (htakes (.inr hopen)), if_pos (by simp [hbad])] at heq
      exact hfails heq
    · rw [if_pos (htakes (.inr hopen)), if_pos (by simp [beatBad_of_place hplace])] at heq
      exact hfails heq
    · rw [if_pos (htakes (.inr hopen)), if_neg (by simp [hin, hgood]), if_neg (by omega)] at heq
      rw [heq]
      have hself : opAt o.id (setOp (beatStored o stall p chunk.toNat last data scale) (countUp stall p s)) = some (beatStored o stall p chunk.toNat last data scale) :=
        opAt_setOp_self (o := beatStored o stall p chunk.toNat last data scale) hx
      have h := hup.of_stalls (u := setOp (beatStored o stall p chunk.toNat last data scale) (countUp stall p s)) rfl
      refine ⟨⟨h.valid, h.beats, h.others⟩, ⟨_, hself, tget_tset_self _ _ _ hbeats, hfail⟩, fun i hi => opAt_setOp_ne hi, setOp_frame (setStall_frame (.refl s))⟩
    · rw [if_pos (htakes (.inr hopen)), if_neg (by simp [hin, hgood]), if_pos hlate] at heq
      rw [heq]
      have hself : opAt o.id (setOp (beatAdvanced o stall p chunk.toNat last) (countUp stall p s)) = some (beatAdvanced o stall p chunk.toNat last) :=
        opAt_setOp_self (o := beatAdvanced o stall p chunk.toNat last) hx
      have hupw : tableWf StallSt.quiet (setOp (beatAdvanced o stall p chunk.toNat last) (countUp stall p s)).stalls = true := tset_wf _ _ _ hsw
      obtain ⟨hd, hdo⟩ := countDiscarded_spec (stall := stall) hupw
      have h := hup.of_stalls (u := setOp (beatAdvanced o stall p chunk.toNat last) (countUp stall p s)) rfl
      refine ⟨⟨?_, ?_, fun n hn => (hdo n hn).trans (h.others n hn)⟩, ?_, ⟨_, hself, rfl, hfail⟩, fun i hi => opAt_setOp_ne hi, setStall_frame (setOp_frame (setStall_frame (.refl s)))⟩
      · rw [hd]
        exact h.valid
      · rw [hd]
        exact h.beats
      · rw [hd]
        exact congrArg (satAdd · 1) (discarded_countUp hsw)

/-- Settles O35: each clause is one branch of what a beat does, and a failure is what its operation's end undoes. -/
theorem upBeats : Obligations.UpBeats := ⟨upPortBeats, foundFailures⟩

end Sys2Proof.Machine
end

section
/-! PROOF. Recalls, restarts and verdicts of ring legs (R302, R304, R305, R347). -/

namespace Sys2Proof.Machine

-- The inclusions that frames ask for are auto parameters, whose code is compiled: with proofs elaborated in order no thread waits for it.
set_option Elab.async false

section
variable {r s : State} {ps : List Part}

theorem setLeg_frame {id : OpId} {f : Leg → Leg} (h : OnlyChanges ps r s) (hq : [.ops] ⊆ ps := by decide) : OnlyChanges ps r (setLeg id f s) :=
  h.then (ps := [.ops]) (modOp_frame (OnlyChanges.refl s)) hq
theorem floodRecall_frame {l : Leg} {code : BitVec 8} (h : OnlyChanges ps r s) (hq : [.links] ⊆ ps := by decide) : OnlyChanges ps r (floodRecall l code s) :=
  h.then (ps := [.links]) (.foldl (OnlyChanges.refl s) fun _ _ h1 => queueFlit_frame h1) hq
theorem recallHeard_frame {id : OpId} {g : Leg} {code : BitVec 8} (h : OnlyChanges ps r s) (hq : [.links, .ops] ⊆ ps := by decide) : OnlyChanges ps r (recallHeard id g code s) :=
  h.then (ps := [.links, .ops]) (.ite (OnlyChanges.refl s) (floodRecall_frame (setLeg_frame (OnlyChanges.refl s)))) hq
theorem recallCycle_frame {p : Nat} {tag : Nat} {resend : List Nat} {recallOnly : List Nat} (h : OnlyChanges ps r s) (hq : [.planes] ⊆ ps := by decide) : OnlyChanges ps r (recallCycle p tag resend recallOnly s) :=
  h.then (ps := [.planes]) (setPlane_frame (OnlyChanges.refl s)) hq
theorem recallNow_frame {id : OpId} {resend : Bool} (h : OnlyChanges ps r s) (hq : [.ops, .regs, .setNow, .planes] ⊆ ps := by decide) : OnlyChanges ps r (recallNow id resend s) :=
  h.then (ps := [.ops, .regs, .setNow, .planes]) (withOp_frame (fun _ _ h1 => setOp_frame (perf_frame (.foldl h1 fun _ _ h2 => recallCycle_frame h2)))
      (OnlyChanges.refl s)) hq
theorem verdictStart_frame {tg : Nat} {seq : BitVec 16} {attempt : Nat} (h : OnlyChanges ps r s) (hq : [.links, .verdicts] ⊆ ps := by decide) : OnlyChanges ps r (verdictStart tg seq attempt s) :=
  h.then (ps := [.links, .verdicts]) (sendGained_frame (setVerdict_frame (OnlyChanges.refl s))) hq
theorem restartLeg_frame {id : OpId} {code : BitVec 8} (h : OnlyChanges ps r s) (hq : [.links, .verdicts, .ops] ⊆ ps := by decide) : OnlyChanges ps r (restartLeg id code s) := by
  refine h.then (ps := [.links, .verdicts, .ops]) ?_ hq
  unfold restartLeg
  dsimp only
  refine withOp_frame (fun _ _ h1 => ?_) (OnlyChanges.refl s)
  split
  · exact h1
  · exact verdictStart_frame (setOp_frame (.foldl (abandonSteps_frame h1) fun _ _ h2 => queueFlit_frame h2))
theorem applyLegRecall_frame {o : Op} {code : BitVec 8} (h : OnlyChanges ps r s) (hq : [.links, .verdicts, .ops, .regs, .setNow, .planes] ⊆ ps := by decide) : OnlyChanges ps r (applyLegRecall o code s) :=
  h.then (ps := [.links, .verdicts, .ops, .regs, .setNow, .planes]) (restartLeg_frame (modOp_frame (recallNow_frame (OnlyChanges.refl s)))) hq
theorem recallApply_frame {id : OpId} (h : OnlyChanges ps r s) (hq : [.links, .verdicts, .ops, .regs, .setNow, .planes] ⊆ ps := by decide) : OnlyChanges ps r (recallApply id s) := by
  refine h.then (ps := [.links, .verdicts, .ops, .regs, .setNow, .planes]) ?_ hq
  unfold recallApply
  dsimp only
  refine withRunning_frame (fun _ _ h1 => ?_) (OnlyChanges.refl s)
  split
  · exact applyLegRecall_frame h1
  · exact .ite h1 (modOp_frame (recallNow_frame h1))
theorem legProgress_frame {tgroup : Nat} {seq : BitVec 16} (h : OnlyChanges ps r s) (hq : [.ops] ⊆ ps := by decide) : OnlyChanges ps r (legProgress tgroup seq s) :=
  h.then (ps := [.ops]) (OnlyChanges.next (ps := [.ops]) (OnlyChanges.refl s) fun p hp => by cases p <;> simp [Part.same, legProgress] at hp ⊢) hq
theorem verdictPassNow_frame {tg : Nat} {seq : BitVec 16} {attempt : Nat} (h : OnlyChanges ps r s) (hq : [.ops, .links, .verdicts] ⊆ ps := by decide) : OnlyChanges ps r (verdictPassNow tg seq attempt s) :=
  h.then (ps := [.ops, .links, .verdicts]) (.ite (OnlyChanges.refl s) (legProgress_frame (sendGained_frame (setVerdict_frame (OnlyChanges.refl s)))))
      hq
theorem verdictPassApply_frame {tg : Nat} {seq : BitVec 16} (h : OnlyChanges ps r s) (hq : [.ops, .links, .verdicts] ⊆ ps := by decide) : OnlyChanges ps r (verdictPassApply tg seq s) := by
  refine h.then (ps := [.ops, .links, .verdicts]) ?_ hq
  unfold verdictPassApply
  dsimp only
  split
  · exact OnlyChanges.refl s
  · exact .ite (OnlyChanges.refl s) (verdictPassNow_frame (OnlyChanges.refl s))
end

/-! ### A RECALL message on VC3 -/

section
variable {s t : State} {id : OpId} {o : Op} {g : Leg} {code : BitVec 8} {port p : Nat} {f : Leg → Leg}

theorem setLeg_eq (ho : opAt id s = some o) : setLeg id f s = setOp { o with leg := o.leg.map f, progress := true } s := by rw [setLeg, modOp, ho]

theorem opAt_setLeg (ho : opAt id s = some o) : opAt id (setLeg id f s) = some { o with leg := o.leg.map f, progress := true } := by
  rw [setLeg_eq ho]
  exact opAt_setOp_of ho (opAt_id ho :)

/-- All queues of a port's channels are there. -/
def ChannelsThere (s : State) : Prop := ∀ p, (linkAt p s).txq.length = 4

theorem queueFlit_channels {f : TxFlit} {vc : Nat} (hw : tableWf Link.down s.links = true) (h : ChannelsThere s) : ChannelsThere (queueFlit p vc f s) := fun q => by
  rcases eq_or_ne q p with rfl | hne
  · rw [linkAt_queueFlit_self hw]
    simpa using h q
  · rw [linkAt_queueFlit_ne hne]
    exact h q

theorem queueFlit_links_wf {f : TxFlit} {vc : Nat} (hw : tableWf Link.down s.links = true) : tableWf Link.down (queueFlit p vc f s).links = true := setLink_links_wf hw

/-- A flit that a channel holds stays there as another is queued. -/
theorem mem_queueFlit {f x : TxFlit} {vc q k : Nat} (hw : tableWf Link.down s.links = true) (h : x ∈ (linkAt q s).txq.getD k []) : x ∈ (linkAt q (queueFlit p vc f s)).txq.getD k [] := by
  rcases eq_or_ne q p with rfl | hne
  · rw [linkAt_queueFlit_self hw]
    show x ∈ ((linkAt q s).txq.set vc ((linkAt q s).txq.getD vc [] ++ [f])).getD k []
    rw [List.getD_eq_getElem?_getD, List.getElem?_set]
    rw [List.getD_eq_getElem?_getD] at h
    split
    · next heq =>
      subst heq
      by_cases hlt : vc < (linkAt q s).txq.length
      · rw [if_pos hlt]
        simp [List.getD_eq_getElem?_getD, h]
      · rw [List.getElem?_eq_none (by omega)] at h
        cases h
    · exact h
  · rw [linkAt_queueFlit_ne hne]
    exact h

theorem mem_queueFlit_self {f : TxFlit} {vc : Nat} (hw : tableWf Link.down s.links = true) (hc : ChannelsThere s) (hvc : vc < 4) : f ∈ (linkAt p (queueFlit p vc f s)).txq.getD vc [] := by
  rw [linkAt_queueFlit_self hw]
  show f ∈ ((linkAt p s).txq.set vc ((linkAt p s).txq.getD vc [] ++ [f])).getD vc []
  rw [List.getD_eq_getElem?_getD, List.getElem?_set, if_pos rfl, if_pos (by rw [hc p]; exact hvc)]
  simp

/-- A RECALL goes to every neighbour of the definition. -/
theorem floodRecall_spec (hw : tableWf Link.down s.links = true) (hc : ChannelsThere s) :
    ∀ p ∈ floodPorts (groupAt g.tgroup s) s, ctlFlit (recallMsg g.tgroup g.seq code) ∈ (linkAt p (floodRecall g code s)).txq.getD 3 [] := by
  intro p hp
  exact foldl_establishes (f := fun s p => queueFlit p 3 (ctlFlit (recallMsg g.tgroup g.seq code)) s) (I := fun t => tableWf Link.down t.links = true ∧ ChannelsThere t)
    (Q := fun t => ctlFlit (recallMsg g.tgroup g.seq code) ∈ (linkAt p t).txq.getD 3 []) (fun t q ht => ⟨queueFlit_links_wf ht.1, queueFlit_channels ht.1 ht.2⟩)
    (fun t q ht h => mem_queueFlit ht.1 h) (fun t ht => mem_queueFlit_self ht.1 ht.2 (by decide)) hp ⟨hw, hc⟩

/-- A recall that is news is noted and passed on (R302). -/
theorem recallHeard_spec (hw : tableWf Link.down s.links = true) (hc : ChannelsThere s) (ho : opAt id s = some o) (hfirst : g.recallAt = none) : let t := recallHeard id g code s
    (∃ o', opAt id t = some o' ∧ o'.leg = o.leg.map fun g => { g with recallAt := some code, notBefore := s.clock.transit + 1 })
      ∧ (∀ p ∈ floodPorts (groupAt g.tgroup s) s, ctlFlit (recallMsg g.tgroup g.seq code) ∈ (linkAt p t).txq.getD 3 []) := by
  have heq : recallHeard id g code s = floodRecall g code (setLeg id (fun g => { g with recallAt := some code, notBefore := s.clock.transit + 1 }) s) := if_neg (by simp [hfirst])
  have hself := opAt_setLeg (f := fun g => { g with recallAt := some code, notBefore := s.clock.transit + 1 }) ho
  have hframe : OnlyChanges [.ops] s (setLeg id (fun g => { g with recallAt := some code, notBefore := s.clock.transit + 1 }) s) := setLeg_frame (.refl s)
  have hports : floodPorts (groupAt g.tgroup (setLeg id (fun g => { g with recallAt := some code, notBefore := s.clock.transit + 1 }) s))
      (setLeg id (fun g => { g with recallAt := some code, notBefore := s.clock.transit + 1 }) s) = floodPorts (groupAt g.tgroup s) s := by
    rw [setLeg_eq ho]
    rfl
  rw [heq]
  generalize setLeg id (fun g => { g with recallAt := some code, notBefore := s.clock.transit + 1 }) s = x at hself hframe hports ⊢
  have hlinks : x.links = s.links := hframe .links (by decide)
  have hxc : ChannelsThere x := fun p => by
    rw [linkAt, hlinks]
    exact hc p
  refine ⟨⟨_, (opAt_of_ops ((floodRecall_frame (ps := [.links]) (.refl x)) .ops (by decide)) id).trans hself, rfl⟩, ?_⟩
  rw [← hports]
  exact floodRecall_spec (hlinks ▸ hw) hxc

end

theorem recallMessages (port cyc : Nat) (m : CtlMsg) (o : Op) (g : Leg) (s : State) (hw : s.allWf = true) (hdue : s.clock.due = []) (hport : hasPort port s = true) (ha : alive s = true)
    (hm : HeadMessage port 0x04#8 m s) (hvc : m.vc = 3) (hleg : legOp (m.payload.getD 1 0#8).toNat (BitVec.ofNat 16 (leNat (sliceB m.payload 2 2))) s = some (o, g)) (ho : opAt o.id s = some o)
    (hg : o.leg = some g) (hc : ∀ p, (linkAt p s).txq.length = 4) :
    let code := m.payload.getD 4 0#8
    (port ∈ g.recallEcho → Answers (.recallMsgReceive port cyc) s fun t =>
        (∃ o', opAt o.id t = some o' ∧ o'.leg = some { g with recallEcho := g.recallEcho.filter (· != port) }) ∧ OnlyChanges [.ops, .links] s t)
      ∧ (port ∉ g.recallEcho → g.recallAt = none → Answers (.recallMsgReceive port cyc) s fun t =>
        (∃ o', opAt o.id t = some o' ∧ o'.leg = some { g with recallFrom := g.recallFrom ++ [port], recallAt := some code, notBefore := s.clock.transit + 1 })
          ∧ (∀ p ∈ floodPorts (groupAt g.tgroup s) s, ctlFlit (recallMsg g.tgroup g.seq code) ∈ (linkAt p t).txq.getD 3 []) ∧ OnlyChanges [.ops, .links] s t) := by
  dsimp only
  have hlw := links_wf_of_tables (allWf_tablesWf hw)
  obtain ⟨rest, hrest⟩ := hm
  have hanswer {P : State → Prop} (h : P (recallReceive port s)) : Answers (.recallMsgReceive port cyc) s P := by
    refine answers_unplaced (f := recallReceive port) ?_ rfl hdue h
    exact if_pos hport
  have hnone : relayMarker port m s = none := if_pos (by simp [hvc])
  have heq : recallReceive port s = recallMsgApply port m (setLink port { linkAt port s with rxCtl := rest } s) := by
    unfold recallReceive
    dsimp only
    rw [if_neg (by simp [ha]), hrest]
    dsimp only
    rw [hnone]
  have hlegx : legOp (m.payload.getD 1 0#8).toNat (BitVec.ofNat 16 (leNat (sliceB m.payload 2 2))) (setLink port { linkAt port s with rxCtl := rest } s) = some (o, g) := hleg
  have hox : opAt o.id (setLink port { linkAt port s with rxCtl := rest } s) = some o := ho
  have happly : recallMsgApply port m (setLink port { linkAt port s with rxCtl := rest } s) =
      if g.recallEcho.contains port then setLeg o.id (fun g => { g with recallEcho := g.recallEcho.filter (· != port) }) (setLink port { linkAt port s with rxCtl := rest } s)
      else recallHeard o.id g (m.payload.getD 4 0#8) (setLeg o.id (fun g => { g with recallFrom := g.recallFrom ++ [port] }) (setLink port { linkAt port s with rxCtl := rest } s)) := by
    unfold recallMsgApply
    dsimp only
    rw [hlegx]
    dsimp only
    rw [if_pos hvc]
  rw [happly] at heq
  refine ⟨fun hecho => hanswer ?_, fun hnew hfirst => hanswer ?_⟩
  · rw [heq, if_pos (by simpa using hecho)]
    exact ⟨⟨_, opAt_setLeg hox, by rw [hg]; rfl⟩, setLeg_frame (setLink_frame (.refl s))⟩
  · rw [heq, if_neg (by simpa using hnew)]
    have hown := opAt_setLeg (f := fun g => { g with recallFrom := g.recallFrom ++ [port] }) hox
    have hports : floodPorts (groupAt g.tgroup (setLeg o.id (fun g => { g with recallFrom := g.recallFrom ++ [port] }) (setLink port { linkAt port s with rxCtl := rest } s)))
        (setLeg o.id (fun g => { g with recallFrom := g.recallFrom ++ [port] }) (setLink port { linkAt port s with rxCtl := rest } s)) = floodPorts (groupAt g.tgroup s) s := by
      rw [setLeg_eq hox]
      rfl
    have hframe : OnlyChanges [.ops, .links] s (setLeg o.id (fun g => { g with recallFrom := g.recallFrom ++ [port] }) (setLink port { linkAt port s with rxCtl := rest } s)) :=
      setLeg_frame (setLink_frame (.refl s))
    have hlinks : (setLeg o.id (fun g => { g with recallFrom := g.recallFrom ++ [port] }) (setLink port { linkAt port s with rxCtl := rest } s)).links =
        (setLink port { linkAt port s with rxCtl := rest } s).links := (setLeg_frame (ps := [.ops]) (.refl _)) .links (by decide)
    have hwx : tableWf Link.down (setLink port { linkAt port s with rxCtl := rest } s).links = true := setLink_links_wf hlw
    have hcx : ChannelsThere (setLink port { linkAt port s with rxCtl := rest } s) := fun q => by
      rcases eq_or_ne q port with rfl | hne
      · rw [linkAt_setLink_self hlw]
        exact hc q
      · rw [linkAt_setLink_ne hne]
        exact hc q
    generalize setLeg o.id (fun g => { g with recallFrom := g.recallFrom ++ [port] }) (setLink port { linkAt port s with rxCtl := rest } s) = x at hown hports hframe hlinks ⊢
    obtain ⟨⟨o', ho', hleg'⟩, hflood⟩ := recallHeard_spec (g := g) (code := m.payload.getD 4 0#8) (hlinks ▸ hwx) (fun q => by rw [linkAt, hlinks]; exact hcx q) hown hfirst
    refine ⟨⟨o', ho', ?_⟩, hports ▸ hflood, recallHeard_frame hframe⟩
    rw [hleg', hframe.clock_eq, hg]
    rfl

/-! ### The restart of a leg -/

section
variable {s t : State} {id : OpId} {o : Op} {g : Leg} {code : BitVec 8}

/-- Contributors are asked for their beats again. -/
def askedAgain (o : Op) : Op :=
  (planesOf o.planes).foldl (fun o p => ((contributors o).filter (resendsTo o p)).foldl (fun o n => setProg o n p (askAgain (progAt o n p))) o) o

theorem askedAgain_eq (o : Op) : ∃ prog, askedAgain o = { o with prog := prog } := by
  have hinner (p : Nat) (l : List Nat) (x : Op) (h : ∃ prog, x = { o with prog := prog }) :
      ∃ prog, l.foldl (fun o n => setProg o n p (askAgain (progAt o n p))) x = { o with prog := prog } := by
    induction l generalizing x with
    | nil => exact h
    | cons n l ih =>
      obtain ⟨prog, rfl⟩ := h
      exact ih _ ⟨_, rfl⟩
  have houter (l : List Nat) (x : Op) (h : ∃ prog, x = { o with prog := prog }) :
      ∃ prog, l.foldl (fun o p => ((contributors o).filter (resendsTo o p)).foldl (fun o n => setProg o n p (askAgain (progAt o n p))) o) x = { o with prog := prog } := by
    induction l generalizing x with
    | nil => exact h
    | cons p l ih => exact ih _ (hinner p _ x h)
  exact houter _ o ⟨o.prog, rfl⟩

/-- The operation whose output has been recalled. -/
def recalledOp (resend : Bool) (o : Op) : Op :=
  let o' := if resend then askedAgain o else o
  let again := (planesOf o.planes).filter fun p => !(planeChunks o p).isEmpty
  { o' with eg := { o'.eg with shown := false, chunkOut := [], endedAt := 0, ended := false }, down := [], upDone := if resend then o'.upDone.filter (fun p => !again.contains p) else o'.upDone, recalled := o.recalled || o.eg.shown, progress := true }

/-- The recalls that wait on the operation's planes. -/
def recallsQueued (resend : Bool) (o : Op) (s : State) : State :=
  (opPlanes o s).foldl (fun s p =>
    let rs := if resend then o.members.filter (resendsTo o p) else []
    recallCycle p (dLedger o.d) rs (o.members.filter fun n => !rs.contains n) s) s

theorem recallNow_eq {resend : Bool} (ho : opAt id s = some o) : recallNow id resend s = setOp (recalledOp resend o) (perf pcRecalls 1 (recallsQueued resend o s)) := withOp_eq ho

theorem recalledOp_keeps (resend : Bool) (o : Op) : (recalledOp resend o).id = o.id ∧ (recalledOp resend o).attempt = o.attempt ∧ (recalledOp resend o).leg = o.leg ∧ (recalledOp resend o).d = o.d := by
  cases resend with
  | false => exact ⟨rfl, rfl, rfl, rfl⟩
  | true =>
    obtain ⟨prog, h⟩ := askedAgain_eq o
    have heq : (recalledOp true o).id = (askedAgain o).id ∧ (recalledOp true o).attempt = (askedAgain o).attempt ∧ (recalledOp true o).leg = (askedAgain o).leg ∧ (recalledOp true o).d = (askedAgain o).d :=
      ⟨rfl, rfl, rfl, rfl⟩
    rw [h] at heq
    exact heq

theorem recallsQueued_frame {r : State} {ps : List Part} {resend : Bool} (h : OnlyChanges ps r s) (hq : [.planes] ⊆ ps := by decide) : OnlyChanges ps r (recallsQueued resend o s) :=
  h.then (ps := [.planes]) (.foldl (.refl s) fun _ _ h1 => recallCycle_frame h1) hq

theorem opAt_recallNow {resend : Bool} (ho : opAt id s = some o) : opAt id (recallNow id resend s) = some (recalledOp resend o) := by
  rw [recallNow_eq ho]
  have hops : (perf pcRecalls 1 (recallsQueued resend o s)).ops = s.ops := (perf_frame (ps := [.planes, .regs, .setNow]) (recallsQueued_frame (.refl s))) .ops (by decide)
  exact opAt_setOp_of ((opAt_of_ops hops id).trans ho) ((recalledOp_keeps resend o).1.trans (opAt_id ho))

theorem verdicts_wf (h : s.tablesWf = true) : tableWf Verdict.idle s.verdicts = true := (Keeps.refl s).verdicts h

theorem verdictAt_of_verdicts {k : Nat} (h : t.verdicts = s.verdicts) : verdictAt k t = verdictAt k s := congrArg (tget Verdict.idle k) h

theorem verdictStart_spec (hw : tableWf Verdict.idle s.verdicts = true) {tg attempt : Nat} {seq : BitVec 16} : (verdictAt (verdictKey tg seq) (verdictStart tg seq attempt s)).passed = false := by
  unfold verdictStart
  dsimp only
  rw [verdictAt_of_verdicts ((sendGained_frame (ps := [.links]) (.refl _)) .verdicts (by decide)), verdictAt_setVerdict_self hw]

/-- The state in which a leg's open steps have ended and its markers lead the data channels. -/
def legStopped (o : Op) (l : Leg) (code : BitVec 8) (s : State) : State :=
  (legSends l (dOp o.d == oALLTOALL) (abandonSteps l s)).foldl (fun s p => queueFlit p.1 p.2 (ctlFlit (recallMsg l.tgroup l.seq code)) s) (abandonSteps l s)

/-- The leg of a new attempt. -/
def legAnew (o : Op) (l : Leg) (s0 s : State) : Leg :=
  { l with attempt := l.attempt + 1, started := [], tx := [], got := [], region := [], stats := [], images := [], beatsOut := [], delivered := [], reduced := false, markers := (legRecvs l (dOp o.d == oALLTOALL) s).filter (fun k => !l.marked.contains k), marked := [], recallAt := none, recallEcho := (floodPorts (groupAt l.tgroup s0) s).filter (fun p => !l.recallFrom.contains p), recallFrom := [], notBefore := s.clock.transit + 1, relap := false, lapDone := [] }

theorem restartLeg_eq (ho : opAt id s = some o) (hg : o.leg = some g) : restartLeg id code s =
    verdictStart g.tgroup g.seq (g.attempt + 1) (setOp { o with leg := some (legAnew o g s (legStopped o g code s)), legFlags := fNone } (legStopped o g code s)) := by
  unfold restartLeg
  rw [withOp_eq ho, hg]
  rfl

theorem legStopped_frame {r : State} {ps : List Part} (h : OnlyChanges ps r s) (hq : [.links] ⊆ ps := by decide) : OnlyChanges ps r (legStopped o g code s) :=
  h.then (ps := [.links]) (.foldl (abandonSteps_frame (.refl s)) fun _ _ h1 => queueFlit_frame h1) hq

/-- A leg restarts one attempt further, with nothing started, received or delivered. -/
theorem restartLeg_spec (hw : tableWf Verdict.idle s.verdicts = true) (ho : opAt id s = some o) (hg : o.leg = some g) : let t := restartLeg id code s
    opAt id t = some { o with leg := some (legAnew o g s (legStopped o g code s)), legFlags := fNone } ∧ (verdictAt (verdictKey g.tgroup g.seq) t).passed = false := by
  rw [restartLeg_eq ho hg]
  have hf : OnlyChanges [.links] s (legStopped o g code s) := legStopped_frame (.refl s)
  generalize legStopped o g code s = x at hf ⊢
  have hself : opAt id (setOp { o with leg := some (legAnew o g s x), legFlags := fNone } x) = some { o with leg := some (legAnew o g s x), legFlags := fNone } :=
    opAt_setOp_of ((opAt_of_ops (hf .ops (by decide)) id).trans ho) (opAt_id ho :)
  refine ⟨(opAt_of_ops ((verdictStart_frame (ps := [.links, .verdicts]) (.refl _)) .ops (by decide)) id).trans hself, verdictStart_spec ?_⟩
  exact (hf .verdicts (by decide) : x.verdicts = s.verdicts) ▸ hw

/-- The operation of a leg that is recalled, one attempt further. -/
def attemptedAnew (resend : Bool) (fclk : Nat) (o : Op) : Op :=
  let o := clearEgress (if resend then clearContribution o else o)
  { o with attempt := o.attempt + 1, replayed := true, eg := { o.eg with measAt := fclk } }

theorem attemptedAnew_spec {resend : Bool} {fclk : Nat} (hg : o.leg = some g) : let x := attemptedAnew resend fclk o
    x.id = o.id ∧ x.attempt = o.attempt + 1 ∧ x.replayed = true ∧ x.eg.next = 0 ∧ x.leg = some g := by
  have hnext (y : Op) : (clearEgress y).eg.next = 0 := rfl
  have hclear (y : Op) : (clearEgress y).id = y.id ∧ (clearEgress y).attempt = y.attempt ∧ (clearEgress y).leg = y.leg := by
    unfold clearEgress
    dsimp only
    split <;> exact ⟨rfl, rfl, rfl⟩
  have hmain (y : Op) (h1 : y.id = o.id) (h2 : y.attempt = o.attempt) (h3 : y.leg = some g) :
      (clearEgress y).id = o.id ∧ (clearEgress y).attempt + 1 = o.attempt + 1 ∧ (clearEgress y).leg = some g := by
    obtain ⟨k1, k2, k3⟩ := hclear y
    exact ⟨k1.trans h1, congrArg (· + 1) (k2.trans h2), k3.trans h3⟩
  cases resend with
  | false =>
    obtain ⟨h1, h2, h3⟩ := hmain o rfl rfl hg
    exact ⟨h1, h2, rfl, hnext o, h3⟩
  | true =>
    obtain ⟨h1, h2, h3⟩ := hmain (clearContribution o) rfl rfl hg
    exact ⟨h1, h2, rfl, hnext (clearContribution o), h3⟩

/-- A recall restarts the leg (R304, R347). -/
theorem applyLegRecall_spec (hw : tableWf Verdict.idle s.verdicts = true) (ho : opAt id s = some o) (hg : o.leg = some g) : let t := applyLegRecall o code s
    (∃ o' s0 s1, opAt id t = some o' ∧ o'.attempt = o.attempt + 1 ∧ o'.replayed = true ∧ o'.eg.next = 0 ∧ o'.leg = some (legAnew o' g s0 s1) ∧ s1.clock = s.clock)
      ∧ (verdictAt (verdictKey g.tgroup g.seq) t).passed = false := by
  have hid : o.id = id := opAt_id ho
  obtain ⟨k1, k2, k3, k4⟩ := recalledOp_keeps (!isClosing (dOp o.d)) o
  have heq : applyLegRecall o code s = restartLeg o.id code (modOp o.id (attemptedAnew (!isClosing (dOp o.d)) (recallNow o.id (!isClosing (dOp o.d)) s).clock.fclk) (recallNow o.id (!isClosing (dOp o.d)) s)) := rfl
  rw [heq, hid]
  have hx := opAt_recallNow (resend := !isClosing (dOp o.d)) ho
  have hf : OnlyChanges [.ops, .regs, .setNow, .planes] s (recallNow id (!isClosing (dOp o.d)) s) := recallNow_frame (.refl s)
  generalize recallNow id (!isClosing (dOp o.d)) s = x at hx hf ⊢
  obtain ⟨a1, a2, a3, a4, a5⟩ := attemptedAnew_spec (resend := !isClosing (dOp o.d)) (fclk := x.clock.fclk) (k3.trans hg)
  have hmod : modOp id (attemptedAnew (!isClosing (dOp o.d)) x.clock.fclk) x = setOp (attemptedAnew (!isClosing (dOp o.d)) x.clock.fclk (recalledOp (!isClosing (dOp o.d)) o)) x := by
    rw [modOp, hx]
  have hidy : (attemptedAnew (!isClosing (dOp o.d)) x.clock.fclk (recalledOp (!isClosing (dOp o.d)) o)).id = id := a1.trans (k1.trans hid)
  rw [hmod]
  have hy := opAt_setOp_of hx hidy
  have hfy : OnlyChanges [.ops] x (setOp (attemptedAnew (!isClosing (dOp o.d)) x.clock.fclk (recalledOp (!isClosing (dOp o.d)) o)) x) := setOp_frame (.refl x)
  generalize attemptedAnew (!isClosing (dOp o.d)) x.clock.fclk (recalledOp (!isClosing (dOp o.d)) o) = p at a1 a2 a3 a4 a5 hidy hy hfy ⊢
  generalize setOp p x = y at hy hfy ⊢
  have hverdicts : y.verdicts = s.verdicts := (hfy .verdicts (by decide)).trans (hf .verdicts (by decide))
  obtain ⟨h1, h2⟩ := restartLeg_spec (code := code) (hverdicts ▸ hw) hy a5
  have hstop : OnlyChanges [.links] y (legStopped p g code y) := legStopped_frame (.refl y)
  refine ⟨⟨{ p with leg := some (legAnew p g y (legStopped p g code y)), legFlags := fNone }, y, legStopped p g code y, h1, a2.trans (by rw [k2]), a3, a4, rfl, ?_⟩, h2⟩
  rw [hstop.clock_eq, hfy.clock_eq, hf.clock_eq]

end

theorem recallRestarts (id : OpId) (cyc : Nat) (code : BitVec 8) (o : Op) (g : Leg) (s : State) (hw : s.allWf = true) (ha : alive s = true) (ho : opAt id s = some o) (hr : runs o = true)
    (hg : o.leg = some g) (hcode : g.recallAt = some code) (hbefore : g.notBefore.toNat ≤ s.clock.transit.toNat) (happ : applies (.recallOp id cyc) s = true) :
    Answers (.recallOp id cyc) s fun t =>
      (∃ o' g', opAt id t = some o' ∧ o'.attempt = o.attempt + 1 ∧ o'.replayed = true ∧ o'.eg.next = 0 ∧ o'.leg = some g' ∧ g'.attempt = g.attempt + 1 ∧ g'.recallAt = none
          ∧ g'.started = [] ∧ g'.tx = [] ∧ g'.got = [] ∧ g'.images = [] ∧ g'.delivered = [] ∧ g'.notBefore = s.clock.transit + 1)
        ∧ (verdictAt (verdictKey g.tgroup g.seq) t).passed = false ∧ t.ledgers = s.ledgers := by
  refine answers_next rfl rfl happ fun q => ?_
  have hox : opAt id (withReached q s) = some o := ho
  have heq : recallApply id (withReached q s) = applyLegRecall o code (withReached q s) := by
    unfold recallApply
    rw [withRunning_eq (s := withReached q s) ha hox hr]
    have hbind : (o.leg.bind fun g => if g.notBefore.toNat ≤ (withReached q s).clock.transit.toNat then g.recallAt else none) = some code := by
      rw [hg]
      exact (if_pos hbefore).trans hcode
    rw [hbind]
  have hf : OnlyChanges [.links, .verdicts, .ops, .regs, .setNow, .planes] (withReached q s) (applyLegRecall o code (withReached q s)) := applyLegRecall_frame (.refl _)
  obtain ⟨⟨o', s0, s1, h1, h2, h3, h4, h5, h6⟩, hv⟩ := applyLegRecall_spec (s := withReached q s) (code := code) (verdicts_wf (allWf_tablesWf hw)) hox hg
  rw [heq]
  generalize applyLegRecall o code (withReached q s) = t at hf h1 hv ⊢
  refine ⟨⟨o', legAnew o' g s0 s1, h1, h2, h3, h4, h5, rfl, rfl, rfl, rfl, rfl, rfl, rfl, ?_⟩, hv, hf .ledgers (by decide)⟩
  exact (congrArg (fun c : Clock => c.transit + 1) h6 :)

/-! ### The verdict of a leg -/

section
variable {s : State} {tg : Nat} {seq : BitVec 16} {o : Op} {g : Leg}

/-- What a verdict waits for (R305). -/
def VerdictThrough (tg : Nat) (seq : BitVec 16) (o : Op) (g : Leg) (s : State) : Prop :=
  egHeld o = false ∧ (o.eg.spec = true → o.eg.trueAU ≠ none) ∧ g.tx = [] ∧ (∀ x ∈ s.links, ∀ r ∈ x.2.relays, r.group = tg → r.seq ≠ seq)
    ∧ legReceived o (ledgerAt (dLedger o.d) s) g = true ∧ legSent o (ledgerAt (dLedger o.d) s) g = true

/-- What holds a verdict back. -/
def verdictWaits (tg : Nat) (seq : BitVec 16) (o : Op) (g : Leg) (s : State) : Bool :=
  egHeld o || (o.eg.spec && o.eg.trueAU.isNone) || !g.tx.isEmpty || s.links.any (fun x => x.2.relays.any fun t => t.group == tg && t.seq == seq)
    || !legReceived o (ledgerAt (dLedger o.d) s) g || !legSent o (ledgerAt (dLedger o.d) s) g

theorem verdictWaits_iff : verdictWaits tg seq o g s = false ↔ VerdictThrough tg seq o g s := by
  unfold verdictWaits VerdictThrough
  simp only [Bool.or_eq_false_iff, Bool.not_eq_false', List.any_eq_false, and_assoc]
  refine and_congr Iff.rfl (and_congr ?_ (and_congr ?_ (and_congr ?_ Iff.rfl)))
  · cases o.eg.spec <;> cases o.eg.trueAU <;> simp
  · simp
  · refine forall_congr' fun x => forall_congr' fun _ => ?_
    simp

theorem verdictPassApply_eq (hleg : legOp tg seq s = some (o, g)) (ha : alive s = true) (hn : 1 < g.n) (hr : LegRuns o g) :
    verdictPassApply tg seq s = if verdictWaits tg seq o g s then s else verdictPassNow tg seq g.attempt s := by
  obtain ⟨hrun, hclaim, -, hrecall⟩ := hr
  unfold verdictPassApply
  rw [hleg]
  dsimp only
  refine if_congr ?_ rfl rfl
  have h1 : decide (g.n ≤ 1) = false := by simp [hn]
  simp only [ha, hrun, hclaim, hrecall, h1, verdictWaits, Bool.not_true, Bool.false_or, Option.isSome_none, bne_self_eq_false]

/-- The verdict passes, once. -/
theorem verdictPassNow_spec {attempt : Nat} (hw : tableWf Verdict.idle s.verdicts = true) : let t := verdictPassNow tg seq attempt s
    (verdictAt (verdictKey tg seq) t).passed = true ∧ ∀ k, k ≠ verdictKey tg seq → verdictAt k t = verdictAt k s := by
  unfold verdictPassNow
  dsimp only
  split
  · next h => exact ⟨h, fun _ _ => rfl⟩
  · have hrest (z : State) (l : GroupDef) (a b : List Nat) (m : Nat → Nat → List Byte) (k : Nat) : verdictAt k (legProgress tg seq (sendGained l a b m z)) = verdictAt k z :=
      verdictAt_of_verdicts ((legProgress_frame (ps := [.ops, .links]) (sendGained_frame (.refl z))) .verdicts (by decide))
    exact ⟨by rw [hrest, verdictAt_setVerdict_self hw], fun k hk => by rw [hrest, verdictAt_setVerdict_ne hk]⟩

end

theorem verdictPasses : Claims.VerdictPasses := by
  intro tg seq o g s hw ha hleg hn hr happ
  have heq (q : Place) : verdictPassApply tg seq (withReached q s) = if verdictWaits tg seq o g s then withReached q s else verdictPassNow tg seq g.attempt (withReached q s) :=
    verdictPassApply_eq (s := withReached q s) hleg ha hn hr
  refine ⟨fun hthrough => answers_next rfl rfl happ fun q => ?_, fun hnot => answers_next rfl rfl happ fun q => ?_⟩
  · have hgo : verdictWaits tg seq o g s = false := verdictWaits_iff.mpr hthrough
    rw [heq, if_neg (by simp [hgo])]
    obtain ⟨h1, h2⟩ := verdictPassNow_spec (s := withReached q s) (tg := tg) (seq := seq) (attempt := g.attempt) (verdicts_wf (allWf_tablesWf hw))
    exact ⟨h1, h2, withReached_frame (verdictPassNow_frame (.refl _))⟩
  · have hstop : verdictWaits tg seq o g s = true := by
      rw [← Bool.not_eq_false, verdictWaits_iff]
      exact hnot
    rw [heq, if_pos hstop]
    exact withReached_onlyChanges q s

/-- Settles O49: a recall is noted and passed on, or restarts its leg, and a verdict passes exactly where nothing holds it back. -/
theorem legsEndOrRestart : Obligations.LegsEndOrRestart := ⟨⟨recallMessages, recallRestarts⟩, verdictPasses⟩

end Sys2Proof.Machine
end

section
/-! PROOF. Claims of ledgers (R151, R155, R156, R218, R266, R449). -/

namespace Sys2Proof.Machine

-- The inclusions that frames ask for are auto parameters, whose code is compiled: with proofs elaborated in order no thread waits for it.
set_option Elab.async false

section
variable {s t : State} {id : OpId} {o : Op} {l : Ledger}

/-! ### Wait lists -/

theorem modOp_eq {f : Op → Op} (ho : opAt id s = some o) : modOp id f s = setOp (f o) s := by rw [modOp, ho]

/-- The operation waits in no list. -/
def WaitsNowhere (id : OpId) (s : State) : Prop := ∀ k, id ∉ (ledgerAt k s).waiting

/-- The ledger without the operation in its list. -/
def unlisted (id : OpId) (v : Ledger) : Ledger := { v with waiting := v.waiting.filter (· != id) }
/-- The ledger with the operation at its list's end. -/
def listed (id : OpId) (v : Ledger) : Ledger := { v with waiting := v.waiting ++ [id] }
/-- The operation while it waits for its ledger. -/
def waitingOp (o : Op) : Op := { o with claim := .waiting }

theorem filter_ne_of_not_mem {w : List OpId} (h : id ∉ w) : w.filter (· != id) = w :=
  List.filter_eq_self.mpr fun _ hx => bne_iff_ne.mpr fun he => h (he ▸ hx)

theorem WaitsNowhere.not_listed (hw : tableWf Ledger.free s.ledgers = true) (hno : WaitsNowhere id s) {x : Nat × Ledger} (hx : x ∈ s.ledgers) : x.2.waiting.contains id = false := by
  have hget : ledgerAt x.1 s = x.2 := tget_of_mem hw hx
  have hnot : id ∉ x.2.waiting := hget ▸ hno x.1
  simpa using hnot

/-- One that waits in no list leaves none. -/
theorem leaveLists_of_waitsNowhere (hw : tableWf Ledger.free s.ledgers = true) (hno : WaitsNowhere id s) : leaveLists id s = pageWaitEnd id s := by
  unfold leaveLists
  dsimp only
  refine congrArg (pageWaitEnd id) (List.foldlRecOn (motive := (· = s)) s.ledgers _ rfl fun t ht x hx => ?_)
  rw [if_neg (by simp only [hno.not_listed hw hx, Bool.false_eq_true, not_false_eq_true])]
  exact ht

/-- Operations that take part in the claims of their own ledger alone: they fold no bias ledger. -/
theorem claimLists_of_not_closing (h : isClosing (dOp o.d) = false) : claimLists o s = [dLedger o.d] := by
  simp [claimLists, biasLedger, h]

/-- The list of one ledger, as a wait for others leaves it. -/
def leftOther (id : OpId) (ls : List Nat) (s : State) (x : Nat × Ledger) : State :=
  if x.2.waiting.contains id && !ls.contains x.1 then setLedger x.1 (unlisted id (ledgerAt x.1 s)) s else s
/-- The list of one ledger that an operation joins. -/
def joined (id : OpId) (s : State) (n : Nat) : State := if (ledgerAt n s).waiting.contains id then s else setLedger n (listed id (ledgerAt n s)) s

theorem joinLists_steps : joinLists o s = modOp o.id waitingOp ((claimLists o s).foldl (joined o.id) (s.ledgers.foldl (leftOther o.id (claimLists o s)) s)) := rfl

theorem leftOther_of_waitsNowhere {ls : List Nat} (hw : tableWf Ledger.free s.ledgers = true) (hno : WaitsNowhere id s) : s.ledgers.foldl (leftOther id ls) s = s :=
  List.foldlRecOn (motive := (· = s)) s.ledgers _ rfl fun t ht x hx => by
    rw [leftOther, hno.not_listed hw hx, Bool.false_and, if_neg Bool.false_ne_true]
    exact ht

/-- A wait of one that waits nowhere: it joins its ledger's list at the end. -/
theorem joinLists_eq (hw : tableWf Ledger.free s.ledgers = true) (hno : WaitsNowhere o.id s) (hc : isClosing (dOp o.d) = false) :
    joinLists o s = modOp o.id waitingOp (setLedger (dLedger o.d) (listed o.id (ledgerAt (dLedger o.d) s)) s) := by
  have hnot : (ledgerAt (dLedger o.d) s).waiting.contains o.id = false := by simpa using hno (dLedger o.d)
  rw [joinLists_steps, leftOther_of_waitsNowhere hw hno, claimLists_of_not_closing hc, List.foldl_cons, List.foldl_nil, joined, hnot, if_neg Bool.false_ne_true]

/-- What a wait leaves: the operation waits, at its ledger's end alone. -/
theorem joinLists_spec (hw : tableWf Ledger.free s.ledgers = true) (ho : opAt o.id s = some o) (hno : WaitsNowhere o.id s) (hc : isClosing (dOp o.d) = false) :
    let t := joinLists o s
    opAt o.id t = some (waitingOp o) ∧ ledgerAt (dLedger o.d) t = listed o.id (ledgerAt (dLedger o.d) s) ∧ (∀ k, k ≠ dLedger o.d → ledgerAt k t = ledgerAt k s)
      ∧ OnlyChanges [.ops, .ledgers] s t := by
  have ho' : opAt o.id (setLedger (dLedger o.d) (listed o.id (ledgerAt (dLedger o.d) s)) s) = some o := ho
  rw [joinLists_eq hw hno hc, modOp_eq ho']
  refine ⟨opAt_setOp_of ho' rfl, ledgerAt_setLedger_self hw, fun k hk => ledgerAt_setLedger_ne hk, setOp_frame (setLedger_frame (.refl s))⟩

/-! ### The claim that takes its ledger -/

/-- The operation that has claimed its ledger. -/
def claimedOp (o : Op) (l : Ledger) (now : Nat) : Op :=
  { o with claim := .claimed, firstContrib := l.contribs == 0, blocks0 := l.blocks, addAt := now, eg := { o.eg with spec := false, a := 0, u := 0 }, progress := true }

/-- A claim without a closing: its ledger is taken and the operation waits nowhere any more. -/
theorem claimNow_eq (hc : isClosing (dOp o.d) = false)
    (hw : tableWf Ledger.free (setLedger (dLedger o.d) (claimedState o (unlisted o.id l)) s).ledgers = true)
    (hno : WaitsNowhere o.id (setLedger (dLedger o.d) (claimedState o (unlisted o.id l)) s)) :
    claimNow o l s = pageWaitEnd o.id (setOp (claimedOp o l s.clock.fclk) (pageWaitEnd o.id (setLedger (dLedger o.d) (claimedState o (unlisted o.id l)) s))) := by
  have hbias (x : State) : biasLedger o x = none := by simp [biasLedger, hc]
  have heq : claimNow o l s = pageWaitEnd o.id (setOp (claimedOp o l (leaveLists o.id (setLedger (dLedger o.d) (claimedState o (unlisted o.id l)) s)).clock.fclk)
      (leaveLists o.id (setLedger (dLedger o.d) (claimedState o (unlisted o.id l)) s))) := by
    unfold claimNow
    simp only [hc, Bool.false_and, Bool.false_eq_true, if_false, hbias]
    rfl
  rw [heq, leaveLists_of_waitsNowhere hw hno]
  rfl

theorem claimedState_waiting : (claimedState o l).waiting = l.waiting := by
  unfold claimedState
  dsimp only
  split
  · rfl
  · rfl

theorem waitsNowhere_claimed (hw : tableWf Ledger.free s.ledgers = true) (hno : ∀ k, k ≠ dLedger o.d → o.id ∉ (ledgerAt k s).waiting) :
    WaitsNowhere o.id (setLedger (dLedger o.d) (claimedState o (unlisted o.id l)) s) := fun k => by
  rcases eq_or_ne k (dLedger o.d) with rfl | hne
  · rw [ledgerAt_setLedger_self hw, claimedState_waiting]
    simp [unlisted]
  · rw [ledgerAt_setLedger_ne hne]
    exact hno k hne

/-- What a claim leaves that takes its ledger. -/
structure Claimed (o : Op) (l : Ledger) (s t : State) : Prop where
  op : opAt o.id t = some (claimedOp o l s.clock.fclk)
  ledger : ledgerAt (dLedger o.d) t = claimedState o (unlisted o.id l)
  others : ∀ k, k ≠ dLedger o.d → ledgerAt k t = ledgerAt k s
  pageWait : ∀ x ∈ t.pageWait, x.1 ≠ o.id
  frame : OnlyChanges [.ops, .ledgers, .pageWait] s t

theorem claimNow_spec (hc : isClosing (dOp o.d) = false) (hw : tableWf Ledger.free s.ledgers = true) (ho : opAt o.id s = some o)
    (hno : ∀ k, k ≠ dLedger o.d → o.id ∉ (ledgerAt k s).waiting) : Claimed o l s (claimNow o l s) := by
  have hw' : tableWf Ledger.free (setLedger (dLedger o.d) (claimedState o (unlisted o.id l)) s).ledgers = true := tset_wf _ _ _ hw
  have ho' : opAt o.id (pageWaitEnd o.id (setLedger (dLedger o.d) (claimedState o (unlisted o.id l)) s)) = some o := ho
  rw [claimNow_eq hc hw' (waitsNowhere_claimed hw hno)]
  refine ⟨opAt_setOp_of ho' rfl, ledgerAt_setLedger_self hw, fun k hk => ledgerAt_setLedger_ne hk, fun x hx => ?_,
    pageWaitEnd_frame (setOp_frame (pageWaitEnd_frame (setLedger_frame (.refl s))))⟩
  exact bne_iff_ne.mp (List.mem_filter.mp hx).2

/-! ### The pages of a claim -/

/-- No page of the ledger is spilled or in partial mode, among the first that the count needs. -/
def PagesResident (l : Ledger) (n : Nat) : Prop :=
  ∀ p, ∀ i ∈ List.range (planePages l.fmt l.planes n p), (pageSt l p i).spilled = false ∧ (pageSt l p i).partialMode = false

theorem filter_resident {n p : Nat} (h : PagesResident l n) :
    (List.range (planePages l.fmt l.planes n p)).filter (fun i => (pageSt l p i).spilled || (pageSt l p i).partialMode) = [] :=
  List.filter_eq_nil_iff.mpr fun i hi => by
    obtain ⟨hs, hp⟩ := h p i hi
    simp [hs, hp]

/-- A first contribution of one limb to resident pages, with no ring region, takes no page. -/
theorem takePlane_nothing {n p : Nat} {tw : Bool} (h : PagesResident l n) (hc : l.contribs = 0) : takePlane l n 1 1 tw p (o, s) = some (o, s) := by
  have hfree : ¬ freePages p s - opPages o p < (1 - 1) * (List.range (planePages l.fmt l.planes n p)).length := by omega
  unfold takePlane
  dsimp only
  rw [if_neg hfree, filter_resident h, if_pos hc]
  simp [takePool]

theorem takePages_nothing {n : Nat} {tw : Bool} (h : PagesResident l n) (hc : l.contribs = 0) : takePages o l n 1 1 tw s = some (o, s) := by
  have hneeds : pageNeeds l n 1 1 tw = [] := by
    refine List.filter_eq_nil_iff.mpr fun p _ => ?_
    have hany : (List.range (planePages l.fmt l.planes n p)).any (fun i => (pageSt l p i).spilled || (pageSt l p i).partialMode) = false :=
      List.any_eq_false.mpr fun i hi => by
        obtain ⟨hs, hp⟩ := h p i hi
        simp [hs, hp]
    simp [hany, hc]
  have hblocked : pagesBlocked o.id [] s = false := by simp [pagesBlocked]
  unfold takePages
  dsimp only
  rw [hneeds, hblocked, if_neg Bool.false_ne_true]
  exact List.foldlRecOn (motive := (· = some (o, s))) _ _ rfl fun x hx p _ => by rw [hx, Option.bind_some, takePlane_nothing h hc]

/-! ### What a claim comes to -/

/-- A claim in its turn: the operation runs, names a ledger and folds no other, and it stands where it may claim. -/
structure ClaimTurn (o : Op) (s : State) : Prop where
  at_ : opAt o.id s = some o
  alive : alive s = true
  runs : runs o = true
  names : namesLedger (dOp o.d) = true
  notClosing : isClosing (dOp o.d) = false
  turn : (o.claim = .starting ∧ (ledgerAt (dLedger o.d) s).waiting = []) ∨ (o.claim = .waiting ∧ (ledgerAt (dLedger o.d) s).waiting.head? = some o.id)

variable (h : ClaimTurn o s)
include h

theorem ClaimTurn.bias (x : State) : biasLedger o x = none := by simp [biasLedger, h.notClosing]
theorem ClaimTurn.biasBad : biasBad o s = false := by rw [Machine.biasBad, h.bias]
theorem ClaimTurn.biasFree : biasFree o s = true := by rw [Machine.biasFree, h.bias]

theorem ClaimTurn.go : (!namesLedger (dOp o.d) || o.claim == .claimed || o.claim == .none) = false ∧ (o.claim == .starting && listsBusy o s) = false
    ∧ (o.claim == .waiting && !headsLists o s) = false := by
  have hlists := claimLists_of_not_closing (s := s) h.notClosing
  rcases h.turn with ⟨hclaim, hw⟩ | ⟨hclaim, hw⟩
  · refine ⟨by simp [h.names, hclaim], ?_, by simp [hclaim]⟩
    simp [listsBusy, hlists, hw]
  · refine ⟨by simp [h.names, hclaim], by simp [hclaim], ?_⟩
    simp [headsLists, hlists, hw]

/-- A claim that fails takes the lowest code of its stage (R449). -/
theorem ClaimTurn.fails {c : Nat} (hres : claimTable o s = .fails c) : claimTry o.id s = opFail o.id (lowest (c :: claimChecks o s)) s := by
  obtain ⟨h1, h2, h3⟩ := h.go
  unfold claimTry
  rw [withRunning_eq h.alive h.at_ h.runs, h1, h2, h3, hres, h.biasBad]
  rfl

theorem ClaimTurn.waits (hres : claimTable o s = .waits) : claimTry o.id s = claimWait o s := by
  obtain ⟨h1, h2, h3⟩ := h.go
  unfold claimTry
  rw [withRunning_eq h.alive h.at_ h.runs, h1, h2, h3, hres, h.biasBad]
  rfl

/-- A wait is a failure where the descriptor asks for the ledger at once (R155). -/
theorem ClaimTurn.claimWait_eq : claimWait o s = if dExcl o.d = true then opFail o.id (lowest (0x52 :: claimChecks o s)) s else joinLists o s := by
  rw [claimWait, h.biasBad]
  rfl

theorem ClaimTurn.noRoom (hres : claimTable o s = .claims) (hchecks : lowest (claimChecks o s) = 0) (hroom : claimRoom o (claimedLedger o s) s = false) :
    claimTry o.id s = joinLists o s := by
  obtain ⟨h1, h2, h3⟩ := h.go
  unfold claimTry
  rw [withRunning_eq h.alive h.at_ h.runs, h1, h2, h3, hres, h.biasBad, h.biasFree]
  simp only [Bool.false_eq_true, if_false, check, Bool.not_true, hchecks, ne_eq, not_true, hroom, Bool.not_false, if_true]

/-- The ledger that a claim takes, with the state that it has from then on. -/
def heldLedger (o : Op) (s : State) : State := setLedger (dLedger o.d) { claimedLedger o s with state := if hasAttrs (claimedLedger o s) then (claimedLedger o s).state else 2 } s

theorem ClaimTurn.takes (hres : claimTable o s = .claims) (hchecks : lowest (claimChecks o s) = 0) (hroom : claimRoom o (claimedLedger o s) s = true)
    (hlimbs : limbsOf o.d = 1) (hcontribs : (claimedLedger o s).contribs = 0) (hpages : PagesResident (claimedLedger o s) (contribN o)) :
    claimTry o.id s = claimNow o (claimedLedger o s) (heldLedger o s) := by
  obtain ⟨h1, h2, h3⟩ := h.go
  have hregion : regionN o = 1 := by rw [regionN, h.notClosing]; rfl
  have htake (tw : Bool) : takePages o (claimedLedger o s) (contribN o) (limbsOf o.d) (regionN o) tw (heldLedger o s) = some (o, heldLedger o s) := by
    rw [hlimbs, hregion]
    exact takePages_nothing hpages hcontribs
  unfold claimTry
  rw [withRunning_eq h.alive h.at_ h.runs, h1, h2, h3, hres, h.biasBad, h.biasFree]
  unfold heldLedger at htake ⊢
  dsimp only at htake
  simp only [Bool.false_eq_true, if_false, check, Bool.not_true, hchecks, ne_eq, not_true, hroom, htake]

theorem ClaimTurn.takes_spec (hw : tableWf Ledger.free s.ledgers = true) (hno : ∀ k, k ≠ dLedger o.d → o.id ∉ (ledgerAt k s).waiting) (hres : claimTable o s = .claims)
    (hchecks : lowest (claimChecks o s) = 0) (hroom : claimRoom o (claimedLedger o s) s = true) (hlimbs : limbsOf o.d = 1) (hcontribs : (claimedLedger o s).contribs = 0)
    (hpages : PagesResident (claimedLedger o s) (contribN o)) : Claimed o (claimedLedger o s) s (claimTry o.id s) := by
  have hother (k : Nat) (hk : k ≠ dLedger o.d) : ledgerAt k (heldLedger o s) = ledgerAt k s := ledgerAt_setLedger_ne hk
  have hat : opAt o.id (heldLedger o s) = some o := h.at_
  have hheld : OnlyChanges [.ops, .ledgers, .pageWait] s (heldLedger o s) := setLedger_frame (.refl s)
  obtain ⟨hop, hledger, hothers, hwait, hframe⟩ := claimNow_spec (l := claimedLedger o s) (s := heldLedger o s) h.notClosing (tset_wf _ _ _ hw) hat fun k hk => (hother k hk).symm ▸ hno k hk
  rw [h.takes hres hchecks hroom hlimbs hcontribs hpages]
  exact ⟨hop, hledger, fun k hk => (hothers k hk).trans (hother k hk), hwait, hheld.trans hframe⟩

end

/-! ### The rows of the claim table -/

section
variable {s t : State} {id : OpId} {o : Op} {l : Ledger}

/-- What the claims of openings, copies and selections have in common: no contribution to a ledger that another opened. -/
structure ClaimsFree (c : Nat) : Prop where
  names : namesLedger c = true
  noSum : isSum c = false
  noAdd : c ≠ oLEDGER_ADD
  noClose : c ≠ oLEDGER_CLOSE

theorem ClaimsFree.open_ : ClaimsFree oLEDGER_OPEN := ⟨by decide, by decide, by decide, by decide⟩

theorem isCopy_cases {c : Nat} (h : isCopy c = true) : c = oBROADCAST ∨ c = oALLGATHER ∨ c = oALLTOALL := by simpa [isCopy, or_assoc] using h
theorem isSelect_cases {c : Nat} (h : isSelect c = true) : c = oMAX ∨ c = oARGMAX ∨ c = oTOPK ∨ c = oSAMPLE := by simpa [isSelect, or_assoc] using h

theorem ClaimsFree.of_copy_or_select {c : Nat} (h : isCopy c = true ∨ isSelect c = true) : ClaimsFree c := by
  rcases h with h | h
  · rcases isCopy_cases h with rfl | rfl | rfl <;> exact ⟨by decide, by decide, by decide, by decide⟩
  · rcases isSelect_cases h with rfl | rfl | rfl | rfl <;> exact ⟨by decide, by decide, by decide, by decide⟩

theorem not_open_of_copy_or_select {c : Nat} (h : isCopy c = true ∨ isSelect c = true) : c ≠ oLEDGER_OPEN ∧ isOneShot c = false := by
  rcases h with h | h
  · rcases isCopy_cases h with rfl | rfl | rfl <;> exact ⟨by decide, by decide⟩
  · rcases isSelect_cases h with rfl | rfl | rfl | rfl <;> exact ⟨by decide, by decide⟩

theorem isClosing_of_not_sum {c : Nat} (h : isSum c = false) : isClosing c = false := by rw [isClosing, h, Bool.false_and]

theorem ClaimsFree.checks (hk : ClaimsFree (dOp o.d)) : claimChecks o s = [] := by
  have hcontrib (l : Ledger) : contribChecks o l = [] := by
    unfold contribChecks
    dsimp only
    rw [if_neg (by simp only [hk.noAdd, hk.noClose, or_self, not_false_eq_true])]
  unfold claimChecks
  simp [hcontrib, isClosing_of_not_sum hk.noSum]

theorem ClaimsFree.table (hk : ClaimsFree (dOp o.d)) (hstate : (ledgerAt (dLedger o.d) s).state = 0) (hhold : (ledgerAt (dLedger o.d) s).holder = none) (hsave : saveAhead o.id s = false) :
    claimTable o s = .claims := by
  unfold claimTable
  simp [hk.noAdd, hk.noClose, hstate, hhold, hsave]

theorem ClaimsFree.limbs (hk : ClaimsFree (dOp o.d)) : limbsOf o.d = 1 := by simp [limbsOf, hk.noSum]
theorem ClaimsFree.contribN (hk : ClaimsFree (dOp o.d)) : contribN o = 0 := by simp [Machine.contribN, hk.noSum]

theorem planePages_zero {fmt : BitVec 4} {planes p : Nat} : planePages fmt planes 0 p = 0 := by
  have helems : planeElems fmt planes 0 p = 0 := by
    unfold planeElems
    dsimp only
    split
    · rfl
    · simp only [Nat.zero_div, Nat.zero_mod, Nat.zero_add, ite_self, Nat.add_zero]
      have hpos : 0 < homeCount planes := by unfold homeCount; omega
      rw [Nat.div_eq_of_lt (by omega), Nat.zero_mul]
  rw [planePages, helems]
  rfl

theorem pagesResident_zero : PagesResident l 0 := fun p i hi => by
  rw [planePages_zero] at hi
  exact absurd hi (by simp)

theorem pagesResident_of_nil {n : Nat} (h : l.pages = []) : PagesResident l n := fun p i _ => by
  have hget : pageSt l p i = PageSt.resident := by rw [pageSt, h]; rfl
  rw [hget]
  exact ⟨rfl, rfl⟩

/-- Opening its pages changes nothing else of a ledger. -/
theorem openPages_eq : openPages l s = { l with pages := (openPages l s).pages } := by
  have hinner (p k : Nat) (m : Nat) (x : Ledger) (hx : x = { l with pages := x.pages }) :
      let y := (List.range m).foldl (fun l i => setPageSt p (k + i) ⟨true, false, []⟩ l) x
      y = { l with pages := y.pages } :=
    List.foldlRecOn (motive := fun y : Ledger => y = { l with pages := y.pages }) _ _ hx fun y hy i _ => by
      rw [setPageSt]
      generalize tset PageSt.resident (pageKey p (k + i)) ⟨true, false, []⟩ y.pages = pg
      rw [hy]
  exact List.foldlRecOn (motive := fun y : Ledger => y = { l with pages := y.pages }) _ _ rfl fun y hy p _ => hinner p _ _ y hy

theorem tidyWait_of_running (ho : opAt id s = some o) (hf : o.fail = none) : tidyWait id s = s := by
  rw [tidyWait, withOp_eq ho, hf]
  rfl

theorem opAt_tidyWait {i : OpId} : opAt i (tidyWait id s) = opAt i s := by
  unfold tidyWait withOp
  cases opAt id s with
  | none => rfl
  | some o =>
    dsimp only
    split
    · rfl
    · rfl

theorem ledgerClaimApply_eq (ho : opAt id s = some o) (ha : alive s = true) (hr : runs o = true) (hclaim : o.claim = .starting) (hsizes : o.sizesPending = false) :
    ledgerClaimApply id s = tidyWait id (claimTry id s) := by
  rw [ledgerClaimApply, withRunning_eq ha ho hr, hclaim, hsizes]
  rfl

theorem fail_of_runs (hr : runs o = true) : o.fail = none := by
  simp only [runs, Bool.and_eq_true] at hr
  simpa using hr.1.1


/-! ### Opening, copies and selections -/

theorem claimTurn_of_free (ho : opAt o.id s = some o) (ha : alive s = true) (hr : runs o = true) (hclaim : o.claim = .starting) (hwait : (ledgerAt (dLedger o.d) s).waiting = [])
    (hk : ClaimsFree (dOp o.d)) : ClaimTurn o s :=
  ⟨ho, ha, hr, hk.names, isClosing_of_not_sum hk.noSum, .inl ⟨hclaim, hwait⟩⟩

theorem claimTurn_of_add (ho : opAt o.id s = some o) (ha : alive s = true) (hr : runs o = true) (hadd : dOp o.d = oLEDGER_ADD)
    (hturn : (o.claim = .starting ∧ (ledgerAt (dLedger o.d) s).waiting = []) ∨ (o.claim = .waiting ∧ (ledgerAt (dLedger o.d) s).waiting.head? = some o.id)) : ClaimTurn o s :=
  ⟨ho, ha, hr, hadd ▸ by decide, hadd ▸ by decide, hturn⟩

/-- What an opening leaves of its ledger. -/
structure Opened (o : Op) (v : Ledger) : Prop where
  state : v.state = 1
  holder : v.holder = none
  fmt : v.fmt = dInFmt o.d
  planes : v.planes = o.planes
  sat : v.sat = dSat o.d
  count : v.count = dCount o.d
  contribs : v.contribs = 0
  flags : v.flags = fNone
  acc : v.acc = []
  seed : v.seed = dSeed o.d
  pos : v.pos = o.pos

theorem opened_claimed (hop : dOp o.d = oLEDGER_OPEN) : Opened o (claimedState o (unlisted o.id (claimedLedger o s))) := by
  have hl : claimedLedger o s = openPages (openedBy o (ledgerAt (dLedger o.d) s).waiting) s := if_pos (.inl hop)
  rw [hl, openPages_eq]
  unfold claimedState
  dsimp only
  rw [if_pos hop]
  exact ⟨rfl, rfl, rfl, rfl, rfl, rfl, rfl, rfl, rfl, rfl, rfl⟩

theorem contribs_claimed_free (hk : ClaimsFree (dOp o.d)) : (claimedLedger o s).contribs = 0 := by
  unfold claimedLedger
  dsimp only
  split
  · rw [openPages_eq]
    rfl
  · rw [if_neg (by simp only [hk.noAdd, hk.noClose, or_self, not_false_eq_true])]
    rfl

/-- The claim of an opening, a copy or a selection that finds its ledger FREE and has room for its output. -/
theorem free_takes (hw : tableWf Ledger.free s.ledgers = true) (h : ClaimTurn o s) (hk : ClaimsFree (dOp o.d)) (hno : WaitsNowhere o.id s) (hstate : (ledgerAt (dLedger o.d) s).state = 0)
    (hhold : (ledgerAt (dLedger o.d) s).holder = none) (hsave : saveAhead o.id s = false) (hroom : claimRoom o (claimedLedger o s) s = true) :
    Claimed o (claimedLedger o s) s (claimTry o.id s) :=
  h.takes_spec hw (fun k _ => hno k) (hk.table hstate hhold hsave) (by rw [hk.checks]; rfl) hroom hk.limbs (contribs_claimed_free hk) (hk.contribN ▸ pagesResident_zero)

/-- What a claim leaves that has taken its ledger, once its waits are tidied: nothing more. -/
theorem Claimed.tidied (h : Claimed o l s t) (hr : runs o = true) : tidyWait o.id t = t := tidyWait_of_running h.op (fail_of_runs hr :)

theorem waited_tidied (hw : tableWf Ledger.free s.ledgers = true) (h : ClaimTurn o s) (hno : WaitsNowhere o.id s) :
    tidyWait o.id (joinLists o s) = joinLists o s :=
  tidyWait_of_running (joinLists_spec hw h.at_ hno h.notClosing).1 (fail_of_runs h.runs :)

/-! ### Contributions -/

/-- The checks of a contribution that may be taken pass (R449). -/
theorem checks_of_addMay (h : AddMay o s) : lowest (claimChecks o s) = 0 := by
  obtain ⟨hop, -, -, -, -, -, -, -, hcount, hfmt, hlimbs⟩ := h
  have hl : claimLedger o s = ledgerAt (dLedger o.d) s := if_neg (by rw [hop]; decide)
  have hclosing : isClosing (dOp o.d) = false := hop ▸ by decide
  have hcontrib : contribChecks o (ledgerAt (dLedger o.d) s) = [] := by
    unfold contribChecks
    dsimp only
    rw [if_pos (.inl hop)]
    have hpath : (intPath (ledgerAt (dLedger o.d) s).fmt != (dInFmt o.d == fmtI32)) = false := by
      cases hi : intPath (ledgerAt (dLedger o.d) s).fmt <;> simp_all
    have hlimb : (dLimbs o.d != 1 && intPath (ledgerAt (dLedger o.d) s).fmt) = false := by
      cases hi : intPath (ledgerAt (dLedger o.d) s).fmt <;> simp_all
    simp [hpath, hlimb, Bool.and_assoc, hcount, check]
  unfold claimChecks
  dsimp only
  rw [hl, hcontrib, hclosing]
  simp [lowest]

theorem addMay_takes (hw : tableWf Ledger.free s.ledgers = true) (h : ClaimTurn o s) (hmay : AddMay o s) (hno : ∀ k, k ≠ dLedger o.d → o.id ∉ (ledgerAt k s).waiting) :
    Claimed o (ledgerAt (dLedger o.d) s) s (claimTry o.id s) := by
  have hchecks := checks_of_addMay hmay
  obtain ⟨hop, hstate, hhold, hsave, hcontribs, hpages, hlimbs, -, -, -, -⟩ := hmay
  have hl : claimedLedger o s = ledgerAt (dLedger o.d) s := by
    unfold claimedLedger
    dsimp only
    rw [if_neg (by rw [hop]; decide), if_pos (.inl hop)]
  have hres : claimTable o s = .claims := by
    unfold claimTable
    simp [hop, hstate, hhold, hsave]
  have hroom : claimRoom o (claimedLedger o s) s = true := by
    have hout : hasOutput (dOp o.d) = false := hop ▸ by decide
    rw [claimRoom, hout]
    rfl
  exact hl ▸ h.takes_spec hw hno hres hchecks hroom hlimbs (hl ▸ hcontribs) (pagesResident_of_nil (hl ▸ hpages))

theorem Claimed.addClaimed (h : Claimed o (ledgerAt (dLedger o.d) s) s t) (hmay : AddMay o s) (hr : runs o = true) : AddClaimed o s t := by
  obtain ⟨hop, hstate, -, -, hcontribs, -⟩ := hmay
  obtain ⟨hat, hledger, hothers, hwait, hframe⟩ := h
  have hst : claimedState o (unlisted o.id (ledgerAt (dLedger o.d) s)) = { unlisted o.id (ledgerAt (dLedger o.d) s) with state := 1, holder := some o.id } := by
    unfold claimedState
    dsimp only
    rw [if_neg (by rw [hop]; decide), if_pos hop]
  rw [hst] at hledger
  refine ⟨⟨_, hat, rfl, ?_, fail_of_runs hr⟩, ?_, ?_, ?_, ?_, hwait, hothers, hframe.mono (by decide)⟩
  · exact beq_iff_eq.mpr hcontribs
  · rw [hledger]
  · rw [hledger]
  · rw [hledger]
    rfl
  · rw [hledger]
    simp [unlisted]

end

theorem claimsLedgerClaims : Claims.LedgerClaims := by
  intro id o s hw ha ho hr hclaim hsizes hno
  obtain rfl : o.id = id := opAt_id ho
  have hl := ledgers_wf (allWf_tablesWf hw)
  have hclaimed {P : State → Prop} (happ : applies (.ledgerClaim o.id) s = true) (hP : ∀ q, P (tidyWait o.id (claimTry o.id (withReached q s)))) : Answers (.ledgerClaim o.id) s P :=
    answers_next rfl rfl happ fun q => by
      rw [ledgerClaimApply_eq (s := withReached q s) ho ha hr hclaim hsizes]
      exact hP q
  have hopened {P : State → Prop} (hop : dOp o.d = oLEDGER_OPEN) (happ : applies (.ledgerOpen o.id) s = true) (hP : ∀ q, P (tidyWait o.id (claimTry o.id (withReached q s)))) :
      Answers (.ledgerOpen o.id) s P :=
    answers_next rfl rfl happ fun q => by
      have hof : ofOp oLEDGER_OPEN o.id (ledgerClaimApply o.id) (withReached q s) = ledgerClaimApply o.id (withReached q s) := by
        rw [ofOp, withRunning_eq (s := withReached q s) ha ho hr, if_pos (by simp [hop])]
      rw [hof, ledgerClaimApply_eq (s := withReached q s) ho ha hr hclaim hsizes]
      exact hP q
  have hadd (q : Place) (hop : dOp o.d = oLEDGER_ADD) (hwait : (ledgerAt (dLedger o.d) s).waiting = []) : ClaimTurn o (withReached q s) :=
    claimTurn_of_add ho ha hr hop (.inl ⟨hclaim, hwait⟩)
  have hfailed {q : Place} {c : Nat} (h : ClaimTurn o (withReached q s)) (hres : claimTable o (withReached q s) = .fails c) :
      ∃ o' : Op, opAt o.id (tidyWait o.id (claimTry o.id (withReached q s))) = some o' ∧ o'.fail = some (BitVec.ofNat 8 (lowest (c :: claimChecks o s)), s.clock.transit) := by
    obtain ⟨⟨o', ho', hf', -, -⟩, -, -⟩ := opFail_spec (code := lowest (c :: claimChecks o s)) (s := withReached q s) ho (fail_of_runs hr)
    exact ⟨o', by rw [opAt_tidyWait, h.fails hres]; exact ho', hf'⟩
  dsimp only
  refine ⟨fun hop hstate hhold hwait hsave happ => hopened hop happ fun q => ?_, fun hkind hstate hhold hwait hsave happ => hclaimed happ fun q => ?_,
    fun hmay hwait happ => hclaimed happ fun q => ?_, fun hop hstate hhold hwait happ => hclaimed happ fun q => ?_, fun hop hstate hwait happ => hclaimed happ fun q => ?_,
    fun hop hstate hwait happ => hopened hop happ fun q => ?_⟩
  · have hk : ClaimsFree (dOp o.d) := hop ▸ ClaimsFree.open_
    have hturn : ClaimTurn o (withReached q s) := claimTurn_of_free ho ha hr hclaim hwait hk
    have hroom : claimRoom o (claimedLedger o (withReached q s)) (withReached q s) = true := by
      have hout : hasOutput (dOp o.d) = false := hop ▸ by decide
      rw [claimRoom, hout]
      rfl
    have hc := free_takes (s := withReached q s) hl hturn hk hno hstate hhold hsave hroom
    rw [hc.tidied hr]
    obtain ⟨hat, hledger, hothers, -, hframe⟩ := hc
    have hopen : Opened o (ledgerAt (dLedger o.d) (claimTry o.id (withReached q s))) := hledger ▸ opened_claimed hop
    obtain ⟨h1, h2, h3, h4, h5, h6, h7, h8, h9, h10, h11⟩ := hopen
    exact ⟨⟨_, hat, rfl⟩, hothers, ⟨h1, h2, h3, h4, h5, h6, h7, h8, h9, h10, h11⟩, withReached_frame (hframe.mono (by decide))⟩
  · have hk : ClaimsFree (dOp o.d) := .of_copy_or_select hkind
    have hturn : ClaimTurn o (withReached q s) := claimTurn_of_free ho ha hr hclaim hwait hk
    have hsame : claimRoom o (claimedLedger o (withReached q s)) (withReached q s) = claimRoom o (claimedLedger o s) s := rfl
    cases hroom : claimRoom o (claimedLedger o s) s with
    | true =>
      have hc := free_takes (s := withReached q s) hl hturn hk hno hstate hhold hsave (hsame.trans hroom)
      rw [hc.tidied hr]
      obtain ⟨hat, hledger, hothers, -, hframe⟩ := hc
      obtain ⟨hnopen, -⟩ := not_open_of_copy_or_select hkind
      have hst (v : Ledger) : claimedState o v = { v with state := 2, holder := some o.id } := by
        unfold claimedState
        dsimp only
        rw [if_neg hnopen, if_neg hk.noAdd]
      refine ⟨hothers, withReached_frame (hframe.mono (by decide)), ?_⟩
      rw [if_pos rfl, hledger, hst]
      exact ⟨⟨_, hat, rfl⟩, rfl, rfl⟩
    | false =>
      have heq : claimTry o.id (withReached q s) = joinLists o (withReached q s) :=
        hturn.noRoom (hk.table (s := withReached q s) hstate hhold hsave) (by rw [hk.checks]; rfl) (hsame.trans hroom)
      obtain ⟨hat, hledger, hothers, hframe⟩ := joinLists_spec (s := withReached q s) hl ho hno hturn.notClosing
      rw [heq, waited_tidied (s := withReached q s) hl hturn hno]
      refine ⟨hothers, withReached_frame (hframe.mono (by decide)), ?_⟩
      rw [if_neg Bool.false_ne_true]
      refine ⟨⟨_, hat, rfl⟩, hledger.trans ?_⟩
      exact congrArg (fun w => { ledgerAt (dLedger o.d) s with waiting := w ++ [o.id] }) hwait
  · have hc : Claimed o (ledgerAt (dLedger o.d) s) (withReached q s) (claimTry o.id (withReached q s)) :=
      addMay_takes (s := withReached q s) hl (hadd q hmay.1 hwait) hmay fun k _ => hno k
    rw [hc.tidied hr]
    obtain ⟨h1, h2, h3, h4, h5, h6, h7, hframe⟩ := Claimed.addClaimed (s := withReached q s) hc hmay hr
    exact ⟨h1, h2, h3, h4, h5, h6, h7, withReached_frame hframe⟩
  · have hturn := hadd q hop hwait
    have hres : claimTable o (withReached q s) = .waits := by
      have hheld : (ledgerAt (dLedger o.d) (withReached q s)).holder.isSome = true := Option.isSome_iff_ne_none.mpr hhold
      have hst : (ledgerAt (dLedger o.d) (withReached q s)).state = 1 := hstate
      unfold claimTable
      simp [hop, hst, hheld]
    rw [hturn.waits hres, hturn.claimWait_eq]
    by_cases hexcl : dExcl o.d = true
    · rw [if_pos hexcl, if_pos hexcl, opAt_tidyWait]
      obtain ⟨⟨o', ho', hf', -, -⟩, -, -⟩ := opFail_spec (code := lowest (0x52 :: claimChecks o s)) (s := withReached q s) ho (fail_of_runs hr)
      exact ⟨o', ho', hf'⟩
    · obtain ⟨hat, hledger, hothers, hframe⟩ := joinLists_spec (s := withReached q s) hl ho hno hturn.notClosing
      rw [if_neg hexcl, if_neg hexcl, waited_tidied (s := withReached q s) hl hturn hno]
      refine ⟨⟨_, hat, rfl⟩, hledger.trans ?_, withReached_frame (hframe.mono (by decide))⟩
      exact congrArg (fun w => { ledgerAt (dLedger o.d) s with waiting := w ++ [o.id] }) hwait
  · refine hfailed (hadd q hop hwait) ?_
    rcases hstate with h | h
    · have hst : (ledgerAt (dLedger o.d) (withReached q s)).state = 0 := h
      simp [claimTable, hop, hst]
    · have hst : (ledgerAt (dLedger o.d) (withReached q s)).state = 3 := h
      simp [claimTable, hop, hst]
  · have hk : ClaimsFree (dOp o.d) := hop ▸ ClaimsFree.open_
    have hres : claimTable o (withReached q s) = .fails 0x51 := by
      have huser : (oLEDGER_OPEN == oLEDGER_ADD || oLEDGER_OPEN == oLEDGER_CLOSE) = false := by decide
      rcases hstate with h | h
      · have hst : (ledgerAt (dLedger o.d) (withReached q s)).state = 1 := h
        simp [claimTable, hop, hst, huser]
      · have hst : (ledgerAt (dLedger o.d) (withReached q s)).state = 3 := h
        simp [claimTable, hop, hst, huser]
    have h := hfailed (q := q) (claimTurn_of_free ho ha hr hclaim hwait hk) hres
    rw [hk.checks] at h
    exact h

theorem claimsWaitingClaims : Claims.WaitingClaims := by
  intro o rest s hw ha ho hr hclaim hmay hlist hrest hno
  have hl := ledgers_wf (allWf_tablesWf hw)
  have hturn (q : Place) : ClaimTurn o (withReached q s) := claimTurn_of_add ho ha hr hmay.1 (.inr ⟨hclaim, by
    have h : (ledgerAt (dLedger o.d) (withReached q s)).waiting = o.id :: rest := hlist
    rw [h]
    rfl⟩)
  have hclaimed (q : Place) : Claimed o (ledgerAt (dLedger o.d) s) (withReached q s) (claimTry o.id (withReached q s)) := addMay_takes (s := withReached q s) hl (hturn q) hmay hno
  have hresult (q : Place) : AddClaimed o s (claimTry o.id (withReached q s)) := by
    obtain ⟨h1, h2, h3, h4, h5, h6, h7, hframe⟩ := Claimed.addClaimed (s := withReached q s) (hclaimed q) hmay hr
    exact ⟨h1, h2, h3, h4, h5, h6, h7, withReached_frame hframe⟩
  refine ⟨fun l hln happ => answers_next rfl rfl happ fun q => ?_, fun hpage happ => answers_next rfl rfl happ fun q => ?_⟩
  · have hheld : (ledgerAt (dLedger o.d) (claimTry o.id (withReached q s))).holder.isSome = true := by
      obtain ⟨-, -, hh, -⟩ := hresult q
      rw [hh]
      rfl
    have hserve : waitListApply l (withReached q s) = claimTry o.id (withReached q s) := by
      have hlive : (!alive (withReached q s)) = false := congrArg (!·) ha
      have hw' : (ledgerAt (dLedger o.d) (withReached q s)).waiting = o.id :: rest := hlist
      unfold waitListApply
      rw [hlive, if_neg Bool.false_ne_true, hln, hw', List.length_cons, serveList, hw']
      dsimp only
      rw [(hclaimed q).tidied hr, hheld, Bool.or_true, if_pos rfl]
    rw [hserve]
    refine ⟨hresult q, ?_⟩
    rw [(hclaimed q).ledger, claimedState_waiting]
    show List.filter (· != o.id) (ledgerAt (dLedger o.d) s).waiting = rest
    rw [hlist, List.filter_cons_of_neg (by simp), filter_ne_of_not_mem hrest]
  · obtain ⟨needs, hmem⟩ := hpage
    have hany : (withReached q s).pageWait.any (fun x => x.1 == o.id) = true := List.any_eq_true.mpr ⟨_, hmem, beq_self_eq_true o.id⟩
    have heq : pageGrantApply o.id (withReached q s) = claimTry o.id (withReached q s) := by
      rw [pageGrantApply, withRunning_eq (s := withReached q s) ha ho hr, hclaim, hany, if_pos (by decide), (hclaimed q).tidied hr]
    rw [heq]
    exact hresult q

/-- Settles O42: a first claim by the claim table, a wait at its list's end, and the claim of a list's head or of one that waited for pages. -/
theorem ledgersAreClaimed : Obligations.LedgersAreClaimed := ⟨claimsLedgerClaims, claimsWaitingClaims⟩

end Sys2Proof.Machine
end

section
/-! PROOF. Seals and the delivery of failures (R36, R144, R159, R255 to R257, R268, R269). -/

namespace Sys2Proof.Machine

-- The inclusions that frames ask for are auto parameters, whose code is compiled: with proofs elaborated in order no thread waits for it.
set_option Elab.async false

section
variable {r s : State} {ps : List Part}

theorem addSealed_frame {o : Op} (h : OnlyChanges ps r s) (hq : [.log, .ops, .ledgers] ⊆ ps := by decide) : OnlyChanges ps r (addSealed o s) :=
  h.then (ps := [.log, .ops, .ledgers]) (endChain_frame (modOp_frame (setLedger_frame (OnlyChanges.refl s)))) hq
theorem ledgerSealed_frame {o : Op} (h : OnlyChanges ps r s) (hq : [.log, .ops, .ledgers, .planes] ⊆ ps := by decide) : OnlyChanges ps r (ledgerSealed o s) :=
  h.then (ps := [.log, .ops, .ledgers, .planes]) (.ite (addSealed_frame (OnlyChanges.refl s)) (.ite (OnlyChanges.refl s) (releaseBias_frame
      (freeLedger_frame (OnlyChanges.refl s))))) hq
theorem setAlmWord_frame {e : Nat} {w : Nat} {v : Word} (h : OnlyChanges ps r s) (hq : [.almanac] ⊆ ps := by decide) : OnlyChanges ps r (setAlmWord e w v s) :=
  h.then (ps := [.almanac]) (OnlyChanges.next (ps := [.almanac]) (OnlyChanges.refl s) fun p hp => by cases p <;> simp [Part.same, setAlmWord] at hp ⊢) hq
theorem almanacSeal_frame {e : Nat} {a : Int} {u : Int} {hit : Bool} (h : OnlyChanges ps r s) (hq : [.almanac] ⊆ ps := by decide) : OnlyChanges ps r (almanacSeal e a u hit s) :=
  h.then (ps := [.almanac]) (.ite (setAlmWord_frame (setAlmWord_frame (OnlyChanges.refl s))) (setAlmWord_frame (setAlmWord_frame (OnlyChanges.refl
      s)))) hq
theorem raiseTh_frame {th : Nat} {floor : Nat} (h : OnlyChanges ps r s) (hq : [.regs, .setNow] ⊆ ps := by decide) : OnlyChanges ps r (raiseTh th floor s) :=
  h.then (ps := [.regs, .setNow]) (.when (setReg_frame (OnlyChanges.refl s)) fun h1 => irq_frame h1) hq
theorem lowerTh_frame {th : Nat} (h : OnlyChanges ps r s) (hq : [.regs] ⊆ ps := by decide) : OnlyChanges ps r (lowerTh th s) :=
  h.then (ps := [.regs]) (setReg_frame (OnlyChanges.refl s)) hq
theorem ctlUpdate_frame {fb : Nat} {nb : Nat} (h : OnlyChanges ps r s) (hq : [.assayWin, .regs, .setNow] ⊆ ps := by decide) : OnlyChanges ps r (ctlUpdate fb nb s) :=
  h.then (ps := [.assayWin, .regs, .setNow]) (.ite (OnlyChanges.refl s) (.unless (OnlyChanges.next (ps := [.assayWin]) (OnlyChanges.refl s) fun p hp => by cases p <;> simp [Part.same] at hp ⊢) fun h1 => .ite (.ite (raiseTh_frame (raiseTh_frame (setReg_frame h1))) (.when (setReg_frame h1) fun h2 => setRotActive_frame h2)) (.when (setReg_frame h1) fun h3 => .ite (setRotActive_frame h3) (lowerTh_frame (lowerTh_frame h3))))) hq
theorem assaySealed_frame {o : Op} (h : OnlyChanges ps r s) (hq : [.almanac, .assayWin, .regs, .setNow] ⊆ ps := by decide) : OnlyChanges ps r (assaySealed o s) := by
  refine h.then (ps := [.almanac, .assayWin, .regs, .setNow]) ?_ hq
  unfold assaySealed
  dsimp only
  refine .unless ?_ fun h1 => ctlUpdate_frame h1
  split
  · exact OnlyChanges.refl s
  · exact .ite (almanacSeal_frame (OnlyChanges.refl s)) (OnlyChanges.refl s)
theorem noteSealed_frame {o : Op} (h : OnlyChanges ps r s) (hq : [.log] ⊆ ps := by decide) : OnlyChanges ps r (noteSealed o s) :=
  h.then (ps := [.log]) (.ite (OnlyChanges.next (ps := [.log]) (OnlyChanges.refl s) fun p hp => by cases p <;> simp [Part.same] at hp ⊢) (OnlyChanges.refl s)) hq
theorem completionTally_frame {o : Op} (h : OnlyChanges ps r s) (hq : [.tallies] ⊆ ps := by decide) : OnlyChanges ps r (completionTally o s) :=
  h.then (ps := [.tallies]) (.ite (OnlyChanges.refl s) (.foldl (OnlyChanges.refl s) fun _ _ h1 => addTally_frame h1)) hq
theorem issueRecords_frame (h : OnlyChanges ps r s) (hq : [.found, .mem, .counts, .out] ⊆ ps := by decide) : OnlyChanges ps r (issueRecords s) :=
  h.then (ps := [.found, .mem, .counts, .out]) (.foldl (OnlyChanges.refl s) fun _ _ h1 => .foldl h1 fun _ _ h2 => .ite h2 (memTry_frame h2)) hq
theorem recordOut_frame {o : Op} {b : List Byte} (h : OnlyChanges ps r s) (hq : [.found, .mem, .counts, .out, .queues] ⊆ ps := by decide) : OnlyChanges ps r (recordOut o b s) :=
  h.then (ps := [.found, .mem, .counts, .out, .queues]) (issueRecords_frame (setQueue_frame (OnlyChanges.refl s))) hq
theorem endOp_frame {o : Op} (h : OnlyChanges ps r s) (hq : [.orders, .ops] ⊆ ps := by decide) : OnlyChanges ps r (endOp o s) :=
  h.then (ps := [.orders, .ops]) (OnlyChanges.next (ps := [.orders]) (t := removeOp o.id s) (removeOp_frame (OnlyChanges.refl s)) fun p hp => by cases p <;> simp [Part.same, endOp] at hp ⊢) hq
theorem failHalts_frame {o : Op} {code : BitVec 8} (h : OnlyChanges ps r s) (hq : [.setNow, .regs, .queues] ⊆ ps := by decide) : OnlyChanges ps r (failHalts o code s) :=
  h.then (ps := [.setNow, .regs, .queues]) (.ite (queueHalt_frame (OnlyChanges.refl s)) (OnlyChanges.refl s)) hq
end

/-! ### Completion tallies -/

section
variable {s t u : State} {o : Op} {b : List Byte}

theorem CompletionCounted.of_tallies {s' t' : State} (h : CompletionCounted o s t) (hb : s.build = s'.build) (hs : s.tabs.tallies = s'.tabs.tallies) (ht : t'.tabs.tallies = t.tabs.tallies) :
    CompletionCounted o s' t' := fun hm n j hj => by
  have hts (m i : Nat) : tally m i s' = tally m i s := congrArg (tget 0#32 (tallyKey m i)) hs.symm
  have htt : tally n j t' = tally n j t := congrArg (tget 0#32 (tallyKey n j)) ht
  have hst (m : Nat) : hasStall m s' = hasStall m s := congrArg (fun b => decide (m < leaves b)) hb.symm
  rw [htt, h hm n j hj, hts, hst]

/-- A completion counts one in its tally (R256). -/
theorem completionTally_counted (hw : tableWf 0#32 s.tabs.tallies = true) : CompletionCounted o s (completionTally o s) := fun hm n j hj => by
  unfold completionTally
  by_cases hnone : (!dCompEn o.d || decide (48 ≤ dCompTally o.d)) = true
  · have hnot : ¬ (dCompEn o.d = true ∧ dCompTally o.d < 48 ∧ hasStall (dCompStall o.d) s = true ∧ n = dCompStall o.d ∧ j = dCompTally o.d) := fun h => by
      obtain ⟨hen, hlt, -⟩ := h
      simp [hen] at hnone
      omega
    rw [if_pos hnone, if_neg hnot]
  · have hgo : dCompEn o.d = true ∧ dCompTally o.d < 48 := by simpa using hnone
    obtain ⟨hen, hlt⟩ := hgo
    rw [if_neg hnone, hm, if_neg Bool.false_ne_true]
    cases hs : hasStall (dCompStall o.d) s with
    | false =>
      rw [List.filter_cons_of_neg (by simp [hs]), if_neg (by simp)]
      rfl
    | true =>
      rw [List.filter_cons_of_pos (by exact hs)]
      show tally n j (setTally (dCompStall o.d) (dCompTally o.d) (tally (dCompStall o.d) (dCompTally o.d) s + 1#32) s) = _
      by_cases hat : n = dCompStall o.d ∧ j = dCompTally o.d
      · obtain ⟨rfl, rfl⟩ := hat
        rw [if_pos ⟨hen, hlt, rfl, rfl, rfl⟩, tally_setTally_self hw]
        rfl
      · rw [if_neg (fun h => hat h.2.2.2), tally_setTally_ne (n := dCompStall o.d) (i := dCompTally o.d) (hlt.trans (by decide)) hj (fun h => hat (Prod.mk.inj h))]

/-! ### Completion records -/

theorem leBytes_length (n x : Nat) : (leBytes n x).length = n := by simp [leBytes]

theorem recordOf_length {ws : List Nat} (h : ws.length = 8) : (recordOf ws).length = 32 := by
  have hlen (l : List Nat) : (recordOf l).length = 4 * l.length := by
    induction l with
    | nil => rfl
    | cons w l ih =>
      have hcons : recordOf (w :: l) = leBytes 4 (w % 2 ^ 32) ++ recordOf l := rfl
      rw [hcons, List.length_append, leBytes_length, ih, List.length_cons]
      omega
  rw [hlen, h]

/-- The status is the record's first byte (R268). -/
theorem recordOf_status (w : Nat) (ws : List Nat) : ((recordOf (w :: ws)).headD 0#8).toNat = w % 256 := by
  have hhead : (recordOf (w :: ws)).headD 0#8 = BitVec.ofNat 8 (w % 2 ^ 32) := rfl
  rw [hhead, BitVec.toNat_ofNat]
  omega

theorem failRecord_spec {code : BitVec 8} {transit : Word64} : (failRecord o code transit s).length = 32 ∧ ((failRecord o code transit s).headD 0#8).toNat = code.toNat := by
  refine ⟨recordOf_length rfl, (recordOf_status _ _).trans ?_⟩
  have hlt := code.isLt
  omega

theorem sealRecord_spec : (sealRecord o s).length = 32 ∧ ((sealRecord o s).headD 0#8).toNat = 0 := by
  refine ⟨recordOf_length rfl, (recordOf_status _ _).trans ?_⟩
  dsimp only
  generalize BitVec.toNat _ = f
  generalize hasStats o _ = st
  cases st with
  | false => simp only [Bool.false_eq_true, if_false]; omega
  | true => simp only [if_true]; omega

/-- The record joins its queue's records; no other queue changes, and the queue keeps the rest. -/
theorem recordOut_spec (hw : tableWf QueueSt.idle s.queues = true) : let t := recordOut o b s
    queueAt o.id.queue t = { queueAt o.id.queue s with records := (queueAt o.id.queue s).records ++ [(o.id.slot, b)] }
      ∧ tableWf QueueSt.idle t.queues = true := by
  have hq : (recordOut o b s).queues = (setQueue o.id.queue { queueAt o.id.queue s with records := (queueAt o.id.queue s).records ++ [(o.id.slot, b)] } s).queues :=
    (issueRecords_frame (ps := [.found, .mem, .counts, .out]) (.refl _)) .queues (by decide)
  exact ⟨(congrArg (tget QueueSt.idle o.id.queue) hq).trans (queueAt_setQueue_self hw), hq ▸ tset_wf _ _ _ hw⟩

/-- An operation that has ended is no more among the operations. -/
theorem opAt_endOp : opAt o.id (endOp o s) = none := by
  show findOp o.id (s.ops.filter fun x => x.id != o.id) = none
  cases h : findOp o.id (s.ops.filter fun x => x.id != o.id) with
  | none => rfl
  | some x =>
    have hne := (List.mem_filter.mp (findOp_mem h)).2
    rw [findOp_id h] at hne
    simp at hne

end

/-! ### The delivery of a failure -/

section
variable {s t : State} {id : OpId} {o : Op} {code : BitVec 8} {at' : Word64}

/-- A failure that is delivered. -/
def delivered (o : Op) (code : BitVec 8) (at' : Word64) (s : State) : State :=
  endOp o (failHalts o code (recordOut o (failRecord o code at' s) (completionTally o (perf pcFails 1 s))))

theorem descriptorFailApply_eq (ha : alive s = true) (ho : opAt id s = some o) (hf : o.fail = some (code, at')) :
    descriptorFailApply id s = if s.clock.transit = at' then s else delivered o code at' s := by
  rw [descriptorFailApply, withOp_eq ho, hf]
  simp only [ha, Bool.not_true, Bool.false_or, beq_iff_eq]
  rfl

/-- A queue that halts with a failure keeps its records. -/
theorem failHalts_spec (hw : tableWf QueueSt.idle s.queues = true) : let t := failHalts o code s
    (queueAt o.id.queue t).records = (queueAt o.id.queue s).records
      ∧ (qHaltOnErr (queueAt o.id.queue s) = true → (queueAt o.id.queue s).state = 1 → (queueAt o.id.queue t).state = 2) := by
  unfold failHalts
  dsimp only
  by_cases hgo : (qHaltOnErr (queueAt o.id.queue s) && (queueAt o.id.queue s).state == 1) = true
  · have hst : (queueAt o.id.queue s).state = 1 := by simpa using (Bool.and_eq_true_iff.mp hgo).2
    obtain ⟨hself, -⟩ := queueHalt_spec (c := code) hw (by rw [hst]; decide)
    rw [if_pos hgo, hself]
    exact ⟨rfl, fun _ _ => rfl⟩
  · rw [if_neg hgo]
    exact ⟨rfl, fun hq hs => absurd (by simp [hq, hs]) hgo⟩

/-- What a delivery leaves: the operation has ended, its tally and record are on their way, and a queue that asks for it halts. -/
theorem delivered_spec (hw : s.tablesWf = true) : let t := delivered o code at' s
    opAt o.id t = none ∧ CompletionCounted o s t ∧ RecordQueued o code.toNat s t
      ∧ (qHaltOnErr (queueAt o.id.queue s) = true → (queueAt o.id.queue s).state = 1 → (queueAt o.id.queue t).state = 2) ∧ t.ledgers = s.ledgers := by
  obtain ⟨hqw, -⟩ := queues_wf hw
  have hp : OnlyChanges [.regs, .setNow] s (perf pcFails 1 s) := perf_frame (.refl s)
  have hct := completionTally_counted (o := o) (s := perf pcFails 1 s) (by rw [show (perf pcFails 1 s).tabs.tallies = s.tabs.tallies from hp .tallies (by decide)]; exact tally_wf hw)
  have hcf : OnlyChanges [.regs, .setNow, .tallies] s (completionTally o (perf pcFails 1 s)) := completionTally_frame (hp.mono (by decide))
  obtain ⟨hlen, hstatus⟩ := failRecord_spec (o := o) (s := s) (code := code) (transit := at')
  unfold delivered
  generalize failRecord o code at' s = b at hlen hstatus ⊢
  generalize hx : completionTally o (perf pcFails 1 s) = x at hct hcf ⊢
  have hqx : x.queues = s.queues := hcf .queues (by decide)
  have hqa (n : Nat) : queueAt n x = queueAt n s := congrArg (tget QueueSt.idle n) hqx
  obtain ⟨hrec, hqy⟩ := recordOut_spec (o := o) (b := b) (s := x) (hqx ▸ hqw)
  have hrf : OnlyChanges [.found, .mem, .counts, .out, .queues] x (recordOut o b x) := recordOut_frame (.refl x)
  generalize recordOut o b x = y at hrec hqy hrf ⊢
  rw [hqa] at hrec
  have hfy : OnlyChanges [.setNow, .regs, .queues] y (failHalts o code y) := failHalts_frame (.refl y)
  have hhalt := failHalts_spec (o := o) (code := code) hqy
  generalize failHalts o code y = z at hfy hhalt ⊢
  obtain ⟨hrecords, hstate⟩ := hhalt
  have hend (n : Nat) : queueAt n (endOp o z) = queueAt n z := rfl
  refine ⟨opAt_endOp, CompletionCounted.of_tallies hct (hp .build (by decide)) (hp .tallies (by decide)) ?_, ⟨b, ?_, hlen, hstatus⟩, fun hq hs => ?_, ?_⟩
  · exact (hfy .tallies (by decide)).trans (hrf .tallies (by decide))
  · rw [hend, hrecords, hrec]
  · rw [hend]
    refine hstate ?_ ?_
    · rw [hrec]
      exact hq
    · rw [hrec]
      exact hs
  · exact (hfy .ledgers (by decide)).trans ((hrf .ledgers (by decide)).trans (hcf .ledgers (by decide)))

end

theorem failuresDelivered : Claims.FailuresDelivered := by
  intro id o code at' s hw ha ho hf happ
  obtain rfl : o.id = id := opAt_id ho
  have heq (q : Place) := descriptorFailApply_eq (s := withReached q s) ha ho hf
  refine ⟨fun hlater => answers_next rfl rfl happ fun q => ?_, fun hnow => answers_next rfl rfl happ fun q => ?_⟩
  · have hne : (withReached q s).clock.transit ≠ at' := hlater
    rw [heq, if_neg hne]
    exact delivered_spec (s := withReached q s) (allWf_tablesWf hw)
  · have hat : (withReached q s).clock.transit = at' := hnow
    rw [heq, if_pos hat]
    exact withReached_frame (.refl _)

/-! ### Seals -/

section
variable {s t : State} {id : OpId} {o : Op}

/-- The values of a contribution go over the accumulators (R145). -/
def merged (fresh : Table (Option Word64)) (acc : Table Word64) : Table Word64 :=
  fresh.foldl (fun t x => match x.2 with | none => t | some w => tset 0#64 x.1 w t) acc

theorem merged_cons_none {k : Nat} {fr : Table (Option Word64)} {acc : Table Word64} : merged ((k, none) :: fr) acc = merged fr acc := rfl
theorem merged_cons_some {k : Nat} {w : Word64} {fr : Table (Option Word64)} {acc : Table Word64} : merged ((k, some w) :: fr) acc = merged fr (tset 0#64 k w acc) := rfl

theorem tget_merged {fresh : Table (Option Word64)} {acc : Table Word64} (hf : tableWf none fresh = true) (ha : tableWf 0#64 acc = true) (e : Nat) :
    tget 0#64 e (merged fresh acc) = (tget none e fresh).getD (tget 0#64 e acc) := by
  induction fresh generalizing acc with
  | nil => rfl
  | cons x fr ih =>
    obtain ⟨k, v⟩ := x
    unfold tableWf tableWfBy at hf
    simp only [Bool.and_eq_true] at hf
    obtain ⟨⟨habove, -⟩, hfr⟩ := hf
    have hcons : tget none e ((k, v) :: fr) = if e = k then v else tget none e fr := rfl
    have hlater : tget none k fr = none := tget_of_keysAbove fr habove (Nat.le_refl k)
    cases v with
    | none =>
      rw [merged_cons_none, ih hfr ha, hcons]
      split
      · next h => rw [h, hlater]
      · rfl
    | some w =>
      rw [merged_cons_some, ih hfr (tset_wf k w acc ha), hcons]
      split
      · next h =>
        rw [h, hlater, tget_tset_self k w acc ha]
        rfl
      · next h => rw [tget_tset_ne h]

/-- The ledger of a contribution that has sealed, none of whose pages stays in memory. -/
def addedLedger (o : Op) (l : Ledger) : Ledger :=
  { l with acc := merged o.fresh l.acc, flags := l.flags ||| o.freshFlags, contribs := l.contribs + 1, holder := none }

theorem addSealed_ledger (hw : tableWf Ledger.free s.ledgers = true) (hpool : o.poolPages = []) : let t := addSealed o s
    ledgerAt (dLedger o.d) t = addedLedger o (ledgerAt (dLedger o.d) s) ∧ ∀ k, k ≠ dLedger o.d → ledgerAt k t = ledgerAt k s := by
  have hpart (e : Nat) : toPartial o (ledgerAt (dLedger o.d) s) e = false := by simp [toPartial, hpool]
  have hfr : OnlyChanges [.log, .ops] (setLedger (dLedger o.d) (addedLedger o (ledgerAt (dLedger o.d) s)) s) (addSealed o s) := by
    have heq : addSealed o s = endChain o (modOp o.id (fun o => { o with poolPages := o.poolPages.filter fun x => decide (2 ^ 20 ≤ x.2.1) })
        (setLedger (dLedger o.d) (addedLedger o (ledgerAt (dLedger o.d) s)) s)) := by
      unfold addSealed addPartials addedLedger merged
      simp only [hpool, List.foldl_nil, hpart, Bool.false_eq_true, if_false] <;> rfl
    rw [heq]
    exact endChain_frame (modOp_frame (.refl _))
  have hl (k : Nat) : ledgerAt k (addSealed o s) = ledgerAt k (setLedger (dLedger o.d) (addedLedger o (ledgerAt (dLedger o.d) s)) s) :=
    congrArg (tget Ledger.free k) (hfr .ledgers (by decide))
  exact ⟨(hl _).trans (ledgerAt_setLedger_self hw), fun k hk => (hl k).trans (ledgerAt_setLedger_ne hk)⟩

/-- What a seal does before the record goes out, of an operation on die without early output and without an area. -/
def sealSteps (o : Op) (s : State) : State := completionTally o (dropPages o.id (assaySealed o (ledgerSealed o s)))

theorem sealApply_unready (ha : alive s = true) (ho : opAt id s = some o) (hr : runs o = true) (hnot : sealReady o s = false) : sealApply id s = s := by
  rw [sealApply, withRunning_eq ha ho hr, hnot]
  rfl

theorem sealApply_eq (ha : alive s = true) (ho : opAt id s = some o) (hr : runs o = true) (hready : sealReady o s = true) (hleg : o.leg = none) (hearly : dEarly o.d = false)
    (hsave : dOp o.d ≠ oSAVE) (hrestore : dOp o.d ≠ oRESTORE) : sealApply id s = endOp o (recordOut o (sealRecord o s) (perf pcSeals 1 (noteSealed o (sealSteps o s)))) := by
  obtain rfl : o.id = id := opAt_id ho
  have hs (x : State) : saveSealed o x = x := (if_neg hsave).trans (if_neg hrestore)
  have hf (x : State) : forgetVerdict o x = x := by rw [forgetVerdict, hleg]
  have hrel (x : State) : releaseRest o x = x := by rw [releaseRest, hearly]; rfl
  rw [sealApply, withRunning_eq ha ho hr, hready]
  simp only [hs, hf, hrel]
  rfl

/-- What a seal leaves beside its ledger. -/
structure Sealed (o : Op) (s t : State) : Prop where
  ended : opAt o.id t = none
  counted : CompletionCounted o s t
  record : RecordQueued o 0 s t
  ledgers : t.ledgers = (ledgerSealed o s).ledgers

theorem sealApply_spec (hw : s.tablesWf = true) (ha : alive s = true) (ho : opAt o.id s = some o) (hr : runs o = true) (hready : sealReady o s = true) (hleg : o.leg = none)
    (hearly : dEarly o.d = false) (hsave : dOp o.d ≠ oSAVE) (hrestore : dOp o.d ≠ oRESTORE) : Sealed o s (sealApply o.id s) := by
  obtain ⟨hqw, -⟩ := queues_wf hw
  obtain ⟨hlen, hstatus⟩ := sealRecord_spec (o := o) (s := s)
  rw [sealApply_eq ha ho hr hready hleg hearly hsave hrestore]
  generalize sealRecord o s = b at hlen hstatus ⊢
  have hlf : OnlyChanges [.log, .ops, .ledgers, .planes] s (ledgerSealed o s) := ledgerSealed_frame (.refl s)
  have hdf : OnlyChanges [.almanac, .assayWin, .regs, .setNow, .ops, .planes] (ledgerSealed o s) (dropPages o.id (assaySealed o (ledgerSealed o s))) :=
    dropPages_frame (assaySealed_frame (.refl _))
  have hct := completionTally_counted (o := o) (s := dropPages o.id (assaySealed o (ledgerSealed o s)))
    (by rw [(hdf .tallies (by decide) :).trans (hlf .tallies (by decide))]; exact tally_wf hw)
  have hcf : OnlyChanges [.tallies] (dropPages o.id (assaySealed o (ledgerSealed o s))) (sealSteps o s) := completionTally_frame (.refl _)
  have hnf : OnlyChanges [.log, .regs, .setNow] (sealSteps o s) (perf pcSeals 1 (noteSealed o (sealSteps o s))) := perf_frame (noteSealed_frame (.refl _))
  unfold sealSteps at hcf hnf ⊢
  generalize dropPages o.id (assaySealed o (ledgerSealed o s)) = w at hdf hct hcf hnf ⊢
  generalize completionTally o w = x at hct hcf hnf ⊢
  generalize perf pcSeals 1 (noteSealed o x) = y at hnf ⊢
  have hqy : y.queues = s.queues := (hnf .queues (by decide)).trans ((hcf .queues (by decide)).trans ((hdf .queues (by decide)).trans (hlf .queues (by decide))))
  obtain ⟨hrec, -⟩ := recordOut_spec (o := o) (b := b) (s := y) (hqy ▸ hqw)
  have hrf : OnlyChanges [.found, .mem, .counts, .out, .queues] y (recordOut o b y) := recordOut_frame (.refl y)
  generalize recordOut o b y = z at hrec hrf ⊢
  have hqa : queueAt o.id.queue y = queueAt o.id.queue s := congrArg (tget QueueSt.idle o.id.queue) hqy
  rw [hqa] at hrec
  have hend : queueAt o.id.queue (endOp o z) = queueAt o.id.queue z := rfl
  refine ⟨opAt_endOp, CompletionCounted.of_tallies hct ((hdf .build (by decide)).trans (hlf .build (by decide))) ((hdf .tallies (by decide)).trans (hlf .tallies (by decide))) ?_,
    ⟨b, by rw [hend, hrec], hlen, hstatus⟩, ?_⟩
  · exact (hrf .tallies (by decide)).trans (hnf .tallies (by decide))
  · exact (hrf .ledgers (by decide)).trans ((hnf .ledgers (by decide)).trans ((hcf .ledgers (by decide)).trans (hdf .ledgers (by decide))))

theorem doneReady_of (h : o.doneAt = 0 ∨ o.doneAt + 5 ≤ s.clock.fclk) : doneReady o s = true := by
  unfold doneReady
  rcases h with h | h
  · simp [h]
  · simp [h]

theorem sealReady_of_noOutput (hclaim : namesLedger (dOp o.d) = true → o.claim = .claimed) (hleg : o.leg = none) (hout : hasOutput (dOp o.d) = false) (hat : o.addAt + 5 ≤ s.clock.fclk)
    (hdone : o.doneAt = 0 ∨ o.doneAt + 5 ≤ s.clock.fclk) (hsave : dOp o.d ≠ oSAVE) (hrestore : dOp o.d ≠ oRESTORE) (hadd : dOp o.d = oLEDGER_ADD → contribDone o = true) : sealReady o s = true := by
  have h1 : (!namesLedger (dOp o.d) || o.claim == .claimed) = true := by
    cases hn : namesLedger (dOp o.d) with
    | false => rfl
    | true => rw [hclaim hn]; rfl
  have h2 : legReady o s = true := by rw [legReady, hleg]
  unfold sealReady
  dsimp only
  rw [h1, h2, doneReady_of hdone, hout, if_neg Bool.false_ne_true, decide_eq_true hat, if_neg (by simp [hsave, hrestore])]
  split
  · next h => rw [hadd h]; rfl
  · rfl

theorem sealReady_of_output (hclaim : o.claim = .claimed) (hleg : o.leg = none) (hout : hasOutput (dOp o.d) = true) (hended : o.eg.ended = true) (hdown : o.down = [])
    (hheld : egHeld o = false) (hspec : o.eg.spec = false) (hbino : dBino o.d = false) (hat : o.eg.endedAt + 5 ≤ s.clock.fclk) (hdone : o.doneAt = 0 ∨ o.doneAt + 5 ≤ s.clock.fclk) :
    sealReady o s = true := by
  have hwait : outWait o s = 5 := by simp [outWait, hbino]
  have h2 : legReady o s = true := by rw [legReady, hleg]
  unfold sealReady
  dsimp only
  rw [hclaim, h2, doneReady_of hdone, hout, if_pos rfl, hended, hdown, hwait, decide_eq_true hat, specReady, hheld, hspec]
  simp

theorem sealReady_of_early (h : hasOutput (dOp o.d) = false ∧ s.clock.fclk < o.addAt + 5 ∨ 0 < o.doneAt ∧ s.clock.fclk < o.doneAt + 5) : sealReady o s = false := by
  unfold sealReady
  dsimp only
  rcases h with ⟨hout, hlt⟩ | ⟨hpos, hlt⟩
  · rw [hout, if_neg Bool.false_ne_true, decide_eq_false (by omega), Bool.false_and, Bool.and_false]
  · have hd : doneReady o s = false := by
      unfold doneReady
      rw [decide_eq_false (by omega), decide_eq_false (by omega)]
      rfl
    rw [hd, Bool.and_false, Bool.false_and]

theorem isClosing_cases {c : Nat} (h : isClosing c = true) : c = oREDUCE ∨ c = oALLREDUCE ∨ c = oREDUCE_SCATTER ∨ c = oLEDGER_CLOSE := by
  simp only [isClosing, isSum, Bool.and_eq_true, Bool.or_eq_true, beq_iff_eq, bne_iff_ne] at h
  obtain ⟨(((h | h) | h) | h) | h, hne⟩ := h
  · exact .inl h
  · exact .inr (.inl h)
  · exact .inr (.inr (.inl h))
  · exact absurd h hne
  · exact .inr (.inr (.inr h))

/-- A ledger that is freed is FREE, and the release of a bias ledger leaves it so. -/
theorem releaseBias_free {n : Nat} {i : OpId} (hw : tableWf Ledger.free s.ledgers = true) (h : (ledgerAt n s).state = 0) : (ledgerAt n (releaseBias i s)).state = 0 := by
  have hkeep : tableWf Ledger.free (releaseBias i s).ledgers = true ∧ (ledgerAt n (releaseBias i s)).state = 0 := by
    refine List.foldlRecOn (motive := fun t => tableWf Ledger.free t.ledgers = true ∧ (ledgerAt n t).state = 0) _ _ ⟨hw, h⟩ fun t ht x _ => ?_
    obtain ⟨htw, hts⟩ := ht
    split
    · dsimp only
      refine ⟨tset_wf _ _ _ htw, ?_⟩
      rcases eq_or_ne n x.1 with rfl | hne
      · rw [ledgerAt_setLedger_self htw, if_pos hts]
        rfl
      · rw [ledgerAt_setLedger_ne hne]
        exact hts
    · exact ⟨htw, hts⟩
  exact hkeep.2

theorem freeLedger_free {n : Nat} (hw : tableWf Ledger.free s.ledgers = true) : tableWf Ledger.free (freeLedger n s).ledgers = true ∧ (ledgerAt n (freeLedger n s)).state = 0 := by
  have hl : (freeLedger n s).ledgers = (setLedger n { Ledger.free with waiting := (ledgerAt n s).waiting } (freeLedgerPool (ledgerAt n s) s)).ledgers := rfl
  have hp : (freeLedgerPool (ledgerAt n s) s).ledgers = s.ledgers := (freeLedgerPool_frame (ps := [.planes]) (.refl s)) .ledgers (by decide)
  have hw' : tableWf Ledger.free (freeLedgerPool (ledgerAt n s) s).ledgers = true := hp ▸ hw
  refine ⟨hl ▸ tset_wf _ _ _ hw', ?_⟩
  have hat : ledgerAt n (freeLedger n s) = { Ledger.free with waiting := (ledgerAt n s).waiting } := ledgerAt_setLedger_self hw'
  rw [hat]
  rfl

end

theorem claimsSeals : Claims.Seals := by
  intro id o s hw ha ho hr hleg hearly happ
  obtain rfl : o.id = id := opAt_id ho
  have ht := allWf_tablesWf hw
  have hl := ledgers_wf ht
  have hops := (Keeps.refl s).ops o (findOp_mem ho)
  have hsealed (q : Place) (hready : sealReady o (withReached q s) = true) (hsave : dOp o.d ≠ oSAVE) (hrestore : dOp o.d ≠ oRESTORE) :
      Sealed o (withReached q s) (sealApply o.id (withReached q s)) := sealApply_spec (s := withReached q s) ht ha ho hr hready hleg hearly hsave hrestore
  refine ⟨fun hkind hat hdone => answers_next rfl rfl happ fun q => ?_, fun hop hclaim hcontrib hpool hat hdone => answers_next rfl rfl happ fun q => ?_,
    fun hclosing hclaim hended hdown hheld hspec hbino hat hdone => answers_next rfl rfl happ fun q => ?_, fun hnot => answers_next rfl rfl happ fun q => ?_⟩
  · have hfacts : (namesLedger (dOp o.d) = true → o.claim = .claimed) ∧ hasOutput (dOp o.d) = false ∧ dOp o.d ≠ oSAVE ∧ dOp o.d ≠ oRESTORE ∧ dOp o.d ≠ oLEDGER_ADD
        ∧ (dOp o.d = oLEDGER_OPEN ∨ (!namesLedger (dOp o.d)) = true) := by
      rcases hkind with hop | hop | ⟨hop, hclaim⟩
      · rw [hop]; exact ⟨fun h => absurd h (by decide), by decide, by decide, by decide, by decide, by decide⟩
      · rw [hop]; exact ⟨fun h => absurd h (by decide), by decide, by decide, by decide, by decide, by decide⟩
      · rw [hop]; exact ⟨fun _ => hclaim, by decide, by decide, by decide, by decide, by decide⟩
    obtain ⟨hclaim, hout, hsave, hrestore, hnadd, hno⟩ := hfacts
    obtain ⟨h1, h2, h3, h4⟩ := hsealed q (sealReady_of_noOutput hclaim hleg hout hat hdone hsave hrestore fun h => absurd h hnadd) hsave hrestore
    have hkeep : ledgerSealed o (withReached q s) = withReached q s := (if_neg hnadd).trans (if_pos hno)
    exact ⟨h1, h2, h3, h4.trans ((congrArg State.ledgers hkeep).trans rfl)⟩
  · have hsave : dOp o.d ≠ oSAVE := by rw [hop]; decide
    have hrestore : dOp o.d ≠ oRESTORE := by rw [hop]; decide
    obtain ⟨h1, h2, h3, h4⟩ := hsealed q (sealReady_of_noOutput (fun _ => hclaim) hleg (by rw [hop]; decide) hat hdone hsave hrestore fun _ => hcontrib) hsave hrestore
    have hadd : ledgerSealed o (withReached q s) = addSealed o (withReached q s) := if_pos hop
    obtain ⟨hself, hothers⟩ := addSealed_ledger (s := withReached q s) hl hpool
    have hat' (k : Nat) : ledgerAt k (sealApply o.id (withReached q s)) = ledgerAt k (addSealed o (withReached q s)) :=
      congrArg (tget Ledger.free k) (h4.trans (congrArg State.ledgers hadd))
    dsimp only
    rw [hat', hself]
    refine ⟨h1, h2, h3, rfl, rfl, rfl, rfl, fun e => ?_, fun k hk => (hat' k).trans (hothers k hk)⟩
    have hacc : tableWf 0#64 (ledgerAt (dLedger o.d) s).acc = true := (Keeps.refl s).ledgerAt.acc (innerWf_of_allWf hw)
    exact tget_merged (hops.fresh (innerWf_of_allWf hw)) hacc e
  · have hfacts : dOp o.d ≠ oSAVE ∧ dOp o.d ≠ oRESTORE ∧ dOp o.d ≠ oLEDGER_ADD ∧ dOp o.d ≠ oLEDGER_OPEN ∧ namesLedger (dOp o.d) = true := by
      rcases isClosing_cases hclosing with h | h | h | h <;> rw [h] <;> decide
    obtain ⟨hsave, hrestore, hnadd, hnopen, hnames⟩ := hfacts
    have hout : hasOutput (dOp o.d) = true := by rw [hasOutput, hclosing]; rfl
    obtain ⟨h1, h2, h3, h4⟩ := hsealed q (sealReady_of_output hclaim hleg hout hended hdown hheld hspec hbino hat hdone) hsave hrestore
    have hfree : ledgerSealed o (withReached q s) = releaseBias o.id (freeLedger (dLedger o.d) (withReached q s)) := (if_neg hnadd).trans (if_neg (by simp [hnopen, hnames]))
    obtain ⟨hfw, hfs⟩ := freeLedger_free (n := dLedger o.d) (s := withReached q s) hl
    refine ⟨h1, h2, h3, ?_⟩
    have hat' : ledgerAt (dLedger o.d) (sealApply o.id (withReached q s)) = ledgerAt (dLedger o.d) (releaseBias o.id (freeLedger (dLedger o.d) (withReached q s))) :=
      congrArg (tget Ledger.free (dLedger o.d)) (h4.trans (congrArg State.ledgers hfree))
    rw [hat']
    exact releaseBias_free hfw hfs
  · rw [sealApply_unready (s := withReached q s) ha ho hr (sealReady_of_early hnot)]
    exact withReached_frame (.refl _)

/-- Settles O43: a seal ends its operation with its tally, record and ledger, and a failure is delivered in a later transit. -/
theorem operationsEnd : Obligations.OperationsEnd := ⟨claimsSeals, failuresDelivered⟩

end Sys2Proof.Machine
end

section
/-! PROOF. Read data, write responses and timeouts of the memory port (R45 to R52, R269, R411). -/

namespace Sys2Proof.Machine

-- The inclusions that frames ask for are auto parameters, whose code is compiled: with proofs elaborated in order no thread waits for it.
set_option Elab.async false

section
variable {r s : State} {ps : List Part}

theorem opProgress_frame {id : OpId} (h : OnlyChanges ps r s) (hq : [.ops] ⊆ ps := by decide) : OnlyChanges ps r (opProgress id s) :=
  h.then (ps := [.ops]) (modOp_frame (OnlyChanges.refl s)) hq
theorem removeReq_frame {m : MemReq} (h : OnlyChanges ps r s) (hq : [.mem] ⊆ ps := by decide) : OnlyChanges ps r (removeReq m s) :=
  h.then (ps := [.mem]) (OnlyChanges.next (ps := [.mem]) (OnlyChanges.refl s) fun p hp => by cases p <;> simp [Part.same, removeReq] at hp ⊢) hq
theorem lateAnswer_frame {m : MemReq} (h : OnlyChanges ps r s) (hq : [.mem, .found] ⊆ ps := by decide) : OnlyChanges ps r (lateAnswer m s) :=
  h.then (ps := [.mem, .found]) (findDue_frame (removeReq_frame (OnlyChanges.refl s))) hq
end

/-! ### Read data -/

section
variable {s t : State} {r r' : MemReq} {id : BitVec 8} {data : BitVec 1024} {poison : BitVec 4} {err : Bool}

theorem read_of_find (h : (s.mem.find? fun r => !r.write && r.id == id.toNat) = some r) : r.write = false ∧ r.id = id.toNat := by
  have hr := List.find?_some h
  simpa using hr

theorem write_of_find (h : (s.mem.find? fun r => r.write && r.id == id.toNat) = some r) : r.write = true ∧ r.id = id.toNat := by
  have hr := List.find?_some h
  simpa using hr

theorem mem_removeReq : ∀ x ∈ (removeReq r s).mem, x.write ≠ r.write ∨ x.id ≠ r.id := fun x hx => by
  have h := (List.mem_filter.mp hx).2
  by_cases hw : x.write = r.write
  · exact .inr fun hid => by simp [hw, hid] at h
  · exact .inl hw

theorem no_read_left (hr : r.write = false ∧ r.id = id.toNat) (ht : t.mem = (removeReq r s).mem) : ∀ x ∈ t.mem, x.write = true ∨ x.id ≠ id.toNat := fun x hx => by
  obtain ⟨hw, hid⟩ := hr
  rcases mem_removeReq x (ht ▸ hx) with h | h
  · exact .inl (by rw [hw] at h; simpa using h)
  · exact .inr (hid ▸ h)

theorem no_write_left (hr : r.write = true ∧ r.id = id.toNat) (ht : t.mem = (removeReq r s).mem) : ∀ x ∈ t.mem, x.write = false ∨ x.id ≠ id.toNat := fun x hx => by
  obtain ⟨hw, hid⟩ := hr
  rcases mem_removeReq x (ht ▸ hx) with h | h
  · exact .inl (by rw [hw] at h; simpa using h)
  · exact .inr (hid ▸ h)

/-- A read with the next beat's sectors, as the port answers them. -/
def readTaken (r : MemReq) (data : BitVec 1024) (poison : BitVec 4) (err : Bool) : MemReq := { takeBeat r data poison with err := (takeBeat r data poison).err || err }

/-- The operation that a request serves has made progress. -/
def served (r : MemReq) (s : State) : State := match purposeOp r.purpose with | some o => opProgress o s | none => s

theorem served_frame {a : State} {ps : List Part} (h : OnlyChanges ps a s) (hq : [.ops] ⊆ ps := by decide) : OnlyChanges ps a (served r s) := by
  unfold served
  cases purposeOp r.purpose with
  | none => exact h
  | some o => exact opProgress_frame h hq

theorem memReadApply_late (ha : alive s = true) (h : (s.mem.find? fun r => !r.write && r.id == id.toNat) = some r) (hto : timedOut r s = true) :
    memReadApply id data poison err true s = lateAnswer r s := by
  unfold memReadApply
  rw [if_neg (by simp [ha]), h]
  dsimp only
  rw [if_pos hto]
  rfl

theorem memReadApply_more (ha : alive s = true) (h : (s.mem.find? fun r => !r.write && r.id == id.toNat) = some r) (hto : timedOut r s = false) :
    memReadApply id data poison err false s = { served r s with mem := (served r s).mem.map fun x => if !x.write && x.id == r.id then readTaken r data poison err else x } := by
  unfold memReadApply
  rw [if_neg (by simp [ha]), h]
  dsimp only
  rw [hto, if_neg Bool.false_ne_true]
  rfl

theorem memReadApply_last (ha : alive s = true) (h : (s.mem.find? fun r => !r.write && r.id == id.toNat) = some r) (hto : timedOut r s = false) :
    memReadApply id data poison err true s =
      if (readTaken r data poison err).err = true then find_ (.memory r.purpose 0x60 r.id r.addr) (perfLater pcRdSectors r.sectors (removeReq r (served r s)))
      else if (readTaken r data poison err).poisoned = true then find_ (.memory r.purpose 0x61 r.id r.addr) (perfLater pcRdSectors r.sectors (removeReq r (served r s)))
      else memDeliver r.purpose (readTaken r data poison err).got (perfLater pcRdSectors r.sectors (removeReq r (served r s))) := by
  unfold memReadApply
  rw [if_neg (by simp [ha]), h]
  dsimp only
  rw [hto, if_neg Bool.false_ne_true]
  rfl

theorem find_replaced {l : List MemReq} {n : Nat} (h : (l.find? fun r => !r.write && r.id == n) = some r) (hn : r.id = n) (hr' : (!r'.write && r'.id == n) = true) :
    ((l.map fun x => if !x.write && x.id == r.id then r' else x).find? fun r => !r.write && r.id == n) = some r' := by
  rw [hn]
  induction l with
  | nil => simp at h
  | cons x l ih =>
    rw [List.map_cons]
    cases hx : !x.write && x.id == n with
    | true => rw [if_pos rfl, List.find?_cons_of_pos (by exact hr')]
    | false =>
      rw [List.find?_cons_of_neg (by simp [hx])] at h
      rw [if_neg Bool.false_ne_true, List.find?_cons_of_neg (by simp [hx]), ih h]

end

theorem memoryReads : Claims.MemoryReads := by
  intro id data poison cyc r s hw ha hdue hfind
  have hr := read_of_find hfind
  have hanswer {err last : Bool} {P : State → Prop} (h : P (memReadApply id data poison err last s)) : Answers (.memReadData id data poison err last cyc) s P :=
    answers_unplaced (f := memReadApply id data poison err last) rfl rfl hdue h
  have hgot {err : Bool} : (readTaken r data poison err).got = r.got ++ leBytes (32 * min (4 - (r.addr + r.got.length) / 32 % 4) (r.sectors - r.got.length / 32))
      (data.toNat / 2 ^ (256 * ((r.addr + r.got.length) / 32 % 4))) := by
    rw [← Nat.shiftRight_eq_div_pow]
    rfl
  have hpoison {err : Bool} : (readTaken r data poison err).poisoned = (r.poisoned || (List.range (min (4 - (r.addr + r.got.length) / 32 % 4) (r.sectors - r.got.length / 32))).any
      fun k => poison.getLsbD ((r.addr + r.got.length) / 32 % 4 + k)) := rfl
  have herr {err : Bool} : (readTaken r data poison err).err = (r.err || err) := rfl
  dsimp only
  rw [← hgot (err := false)]
  refine ⟨fun hto => hanswer ?_, fun hto => ⟨hanswer ?_, fun q slot k hpurpose hre hrp hclean hstate => hanswer ?_, fun err hbad => hanswer ?_⟩⟩
  · rw [memReadApply_late ha hfind hto]
    have hl : lateAnswer r s = find_ (.memory r.purpose 0x62 id.toNat r.addr) (removeReq r s) := by
      rw [lateAnswer, hr.1, hr.2]
      rfl
    rw [hl]
    exact ⟨rfl, no_read_left hr rfl, findDue_frame (removeReq_frame (.refl s))⟩
  · rw [memReadApply_more ha hfind hto]
    have hmem : (served r s).mem = s.mem := (served_frame (ps := [.ops]) (.refl s)) .mem (by decide)
    refine ⟨⟨readTaken r data poison false, ?_, rfl, rfl⟩, ?_⟩
    · show (((served r s).mem.map _).find? _) = _
      rw [hmem]
      exact find_replaced hfind hr.2 (by simp [readTaken, takeBeat, hr.1, hr.2])
    · exact (served_frame (r := r) (ps := [.mem, .ops]) (.refl s)).next (ps := [.mem, .ops]) fun p hp => by cases p <;> simp [Part.same] at hp ⊢
  · have hop : served r s = s := by rw [served, hpurpose]; rfl
    have hok : (readTaken r data poison false).err = false := by rw [herr, hre]; rfl
    have hnp : (readTaken r data poison false).poisoned = false := by
      rw [hpoison, hrp, Bool.false_or]
      exact List.any_eq_false.mpr fun j hj => by rw [hclean j (List.mem_range.mp hj)]; decide
    rw [memReadApply_last ha hfind hto, hok, hnp, if_neg Bool.false_ne_true, if_neg Bool.false_ne_true, hop, hpurpose]
    have hstate' : ((queueAt q (perfLater pcRdSectors r.sectors (removeReq r s))).state == 0) = false := beq_eq_false_iff_ne.mpr hstate
    have heq : memDeliver (.descFetch q slot k) (readTaken r data poison false).got (perfLater pcRdSectors r.sectors (removeReq r s)) =
        setQueue q { queueAt q s with fetched := (queueAt q s).fetched ++ [⟨slot, (List.range 16).map fun i => word32At (readTaken r data poison false).got (4 * i), none, 0⟩] }
          (perfLater pcRdSectors r.sectors (removeReq r s)) := if_neg (by rw [hstate']; exact Bool.false_ne_true)
    rw [heq]
    exact ⟨queueAt_setQueue_self (queues_wf hw).1, no_read_left hr rfl, fun p hp => queueAt_setQueue_ne hp, setQueue_frame (perfLater_frame (removeReq_frame (.refl s)))⟩
  · have hbase : OnlyChanges [.mem, .ops, .counts] s (perfLater pcRdSectors r.sectors (removeReq r (served r s))) := perfLater_frame (removeReq_frame (served_frame (.refl s)))
    have hleft : ∀ x ∈ (perfLater pcRdSectors r.sectors (removeReq r (served r s))).mem, x.write = true ∨ x.id ≠ id.toNat := no_read_left hr rfl
    have hfound : (perfLater pcRdSectors r.sectors (removeReq r (served r s))).clock.found = s.clock.found := congrArg Clock.found hbase.clock_eq
    rw [memReadApply_last ha hfind hto, herr, ← hr.2]
    generalize perfLater pcRdSectors r.sectors (removeReq r (served r s)) = t at hbase hleft hfound ⊢
    have hnote (code : Nat) : Found (.memory r.purpose code r.id r.addr) s (find_ (.memory r.purpose code r.id r.addr) t) := congrArg (holdInsert _ _) hfound
    by_cases he : (r.err || err) = true
    · rw [if_pos he, if_pos he]
      exact ⟨hnote _, hr.2 ▸ hleft, findDue_frame (hbase.mono (by decide))⟩
    · have hp : (readTaken r data poison err).poisoned = true := by
        rw [hpoison]
        rcases hbad with h | h | ⟨j, hj, hb⟩
        · exact absurd h he
        · rw [h]; rfl
        · exact Bool.or_eq_true_iff.mpr (.inr (List.any_eq_true.mpr ⟨j, List.mem_range.mpr hj, hb⟩))
      rw [if_neg he, if_neg he, if_pos hp]
      exact ⟨hnote _, hr.2 ▸ hleft, findDue_frame (hbase.mono (by decide))⟩

/-! ### Requests that wait for the port -/

section
variable {s t : State} {r : MemReq} {id : BitVec 8} {q slot : Nat}

theorem mem_holdInsert_self {α : Type} {p : Place} {c : α} {l : List (Place × α)} : (p, c) ∈ holdInsert p c l := by
  induction l with
  | nil => exact List.mem_singleton_self _
  | cons y l ih =>
    rw [holdInsert]
    split
    · exact List.mem_cons_of_mem _ ih
    · exact List.mem_cons_self

/-- A request whose error has been found is not made again. -/
theorem memHas_found {p : Purpose} {code i a : Nat} : memHas p (find_ (.memory p code i a) s) = true := by
  have hmem : (duePlace (.memory p code i a), Due.memory p code i a) ∈ (find_ (.memory p code i a) s).clock.found := mem_holdInsert_self
  unfold memHas
  dsimp only
  rw [Bool.or_eq_true]
  exact .inr (List.any_eq_true.mpr ⟨_, hmem, beq_self_eq_true p⟩)

theorem issuePartials_quiet {i : OpId} (h : ∀ o ∈ s.ops, o.poolPages = [] ∧ o.sizesPending = false) : issuePartials i s = s := by
  unfold issuePartials withRunning withOp
  cases ho : opAt i s with
  | none => rfl
  | some o =>
    dsimp only
    rw [(h o (findOp_mem ho)).1]
    exact ite_self s

theorem sizesIssue_quiet {i : OpId} (h : ∀ o ∈ s.ops, o.poolPages = [] ∧ o.sizesPending = false) : sizesIssue i s = s := by
  unfold sizesIssue withOp
  cases ho : opAt i s with
  | none => rfl
  | some o =>
    dsimp only
    rw [(h o (findOp_mem ho)).2]
    cases o.leg with
    | none => rfl
    | some g => rfl

/-- Where nothing but records waits for the port, an attempt to issue what waited is the records' alone. -/
theorem memRetry_quiet (h : ∀ o ∈ s.ops, o.poolPages = [] ∧ o.sizesPending = false) (hrec : issueRecords s = s) : memRetry s = s := by
  unfold memRetry
  rw [hrec]
  exact List.foldlRecOn (motive := (· = s)) s.ops _ rfl fun x hx o _ => by rw [hx, issuePartials_quiet h, sizesIssue_quiet h]

/-- Records whose writes are on their way, or whose error is about to take effect, are not written again. -/
theorem issueRecords_pending (h : ∀ x ∈ s.queues, x.2.records = [] ∨ (x.1 = q ∧ ∃ b, x.2.records = [(slot, b)])) (hm : memHas (.record q slot) s = true) : issueRecords s = s := by
  refine List.foldlRecOn (motive := (· = s)) s.queues _ rfl fun t ht x hx => ?_
  subst ht
  rcases h x hx with hr | ⟨rfl, b, hr⟩
  · rw [hr]
    rfl
  · rw [hr, List.foldl_cons, List.foldl_nil]
    dsimp only
    rw [hm, Bool.true_or, Bool.true_or, if_pos rfl]

theorem records_none (hw : tableWf QueueSt.idle s.queues = true) (h : ∀ k, (queueAt k s).records = []) : ∀ x ∈ s.queues, x.2.records = [] := fun x hx => by
  have hget : queueAt x.1 s = x.2 := tget_of_mem hw hx
  exact hget ▸ h x.1

theorem records_at {P : Nat → QueueSt → Prop} (h : ∀ x ∈ s.queues, P x.1 x.2) (hidle : ∀ k, P k QueueSt.idle) (k : Nat) : P k (queueAt k s) := by
  by_cases hk : queueAt k s = QueueSt.idle
  · rw [hk]
    exact hidle k
  · exact h _ (mem_of_tget_ne hk)

/-! ### Write responses -/

/-- A response to a write that still counts, of a record or of another purpose. -/
theorem writeResponse_eq {records err : Bool} (ha : alive s = true) (h : (s.mem.find? fun r => r.write && r.id == id.toNat) = some r)
    (hrec : (match r.purpose with | .record _ _ => true | _ => false) = records) :
    writeResponse records id err s = if timedOut r s = true then memRetry (lateAnswer r s)
      else memRetry (if err = true then find_ (.memory r.purpose 0x64 r.id r.addr) (removeReq r (served r s)) else writeDone r.purpose (removeReq r (served r s))) := by
  unfold writeResponse
  rw [if_neg (by simp [ha]), h]
  dsimp only
  subst hrec
  rw [if_neg (by cases r.purpose <;> simp)]
  rfl

/-- HEAD passes the one slot whose record is in memory (R269). -/
theorem advanceHead_one {n : Nat} {v : QueueSt} (hn : 2 ≤ n) (h : v.written = [v.head]) :
    advanceHead n v = { v with written := [], head := (v.head + 1) % queueSize v, lap := if v.head + 1 = queueSize v then !v.lap else v.lap } := by
  obtain ⟨m, rfl⟩ : ∃ m, n = m + 2 := ⟨n - 2, by omega⟩
  have hin : v.written.contains v.head = true := by simp [h]
  have hfilter : v.written.filter (· != v.head) = [] := by simp [h]
  rw [advanceHead, if_pos hin, hfilter, advanceHead, if_neg (by simp)]

theorem queueSize_ge (v : QueueSt) : 2 ≤ queueSize v := Nat.le_self_pow (n := max 1 (fieldOf v.cfg 8 5)) (by omega) 2

/-- A record that is in memory takes HEAD past its slot, where that stood next. -/
def recordTaken (slot : Nat) (v : QueueSt) : QueueSt :=
  { v with records := [], written := [], head := (slot + 1) % queueSize v, lap := if slot + 1 = queueSize v then !v.lap else v.lap }

theorem writeDone_record {b : List Byte} (hrec : (queueAt q s).records = [(slot, b)]) (hst : qStanding (queueAt q s) = false) (hslot : slot = (queueAt q s).head) (hwr : (queueAt q s).written = []) :
    writeDone (.record q slot) s = setQueue q (recordTaken slot (queueAt q s)) s := by
  have hdrop : dropRecord slot (queueAt q s).records = [] := by rw [hrec]; exact if_pos rfl
  have hcond : ¬ (slot < (queueAt q s).head ∧ bitOf (queueAt q s).cfg 2 = true) := by
    have hb : bitOf (queueAt q s).cfg 2 = false := hst
    simp [hb]
  unfold writeDone
  dsimp only
  rw [hdrop, if_neg hcond, hwr, advanceHead_one (queueSize_ge _) (by simp [hslot])]
  subst hslot
  rfl

end

theorem memoryWrites : Claims.MemoryWrites := by
  intro id r s hw ha hdue
  obtain ⟨hqw, -⟩ := queues_wf hw
  refine ⟨fun oid o v hfind hpurpose hto ho hsave hquiet hrecords => ?_, fun q slot b hfind hpurpose hrec hquiet hst hslot hwritten => ?_,
    fun q slot k hfind hpurpose hquiet hrecords hroom hstate happ => answers_next rfl rfl happ fun q' => ?_⟩
  · obtain rfl : o.id = oid := opAt_id ho
    have hr := write_of_find hfind
    have heq : writeResponse false id false s = memRetry (writeDone (.saveWrite o.id) (removeReq r (opProgress o.id s))) := by
      rw [writeResponse_eq ha hfind (by rw [hpurpose]), hto, if_neg Bool.false_ne_true, if_neg Bool.false_ne_true, served, hpurpose]
      rfl
    have hprog : opProgress o.id s = setOp { o with progress := true } s := modOp_eq ho
    have ho' : opAt o.id (removeReq r (opProgress o.id s)) = some { o with progress := true } := by
      rw [hprog]
      exact opAt_setOp_of (s := s) ho rfl
    have hdone : writeDone (.saveWrite o.id) (removeReq r (opProgress o.id s)) =
        setOp { o with progress := true, save := some { v with issued := v.issued - 1 } } (removeReq r (opProgress o.id s)) := by
      refine (modOp_eq ho').trans ?_
      rw [hsave]
    have hframe : OnlyChanges [.ops, .mem] s (setOp { o with progress := true, save := some { v with issued := v.issued - 1 } } (removeReq r (opProgress o.id s))) :=
      setOp_frame (removeReq_frame (opProgress_frame (.refl s)))
    have hops : ∀ x ∈ (setOp { o with progress := true, save := some { v with issued := v.issued - 1 } } (removeReq r (opProgress o.id s))).ops, x.poolPages = [] ∧ x.sizesPending = false := by
      intro x hx
      have hold := hquiet.2 o (findOp_mem ho)
      rcases replaceOp_mem hx with rfl | hx
      · exact hold
      · have hx' : x ∈ (setOp { o with progress := true } s).ops := hprog ▸ hx
        rcases replaceOp_mem hx' with rfl | hx'
        · exact hold
        · exact hquiet.2 x hx'
    refine answers_unplaced (f := writeResponse false id false) rfl rfl hdue ?_
    rw [heq, hdone, memRetry_quiet hops (issueRecords_none (by rw [(hframe .queues (by decide) :)]; exact hrecords))]
    exact ⟨opAt_setOp_of ho' rfl, no_write_left hr rfl, hframe⟩
  · have hr := write_of_find hfind
    have hserved : served r s = s := by rw [served, hpurpose]; rfl
    have heq (err : Bool) : writeResponse true id err s = if timedOut r s = true then memRetry (lateAnswer r s)
        else memRetry (if err = true then find_ (.memory (.record q slot) 0x64 r.id r.addr) (removeReq r s) else writeDone (.record q slot) (removeReq r s)) := by
      rw [writeResponse_eq ha hfind (by rw [hpurpose]), hserved, hpurpose]
    have hkept (code : Nat) : memRetry (find_ (.memory (.record q slot) code r.id r.addr) (removeReq r s)) = find_ (.memory (.record q slot) code r.id r.addr) (removeReq r s) :=
      memRetry_quiet hquiet.2 (issueRecords_pending hquiet.1 memHas_found)
    have hlate : lateAnswer r s = find_ (.memory (.record q slot) 0x65 r.id r.addr) (removeReq r s) := by
      rw [lateAnswer, hpurpose, hr.1]
      rfl
    have hmem : (removeReq r s).mem = s.mem.filter (fun x => !(x.write && x.id == id.toNat)) := by
      show s.mem.filter _ = _
      rw [hr.1, hr.2]
      simp
    have hanswer {err : Bool} {P : State → Prop} (h : P (writeResponse true id err s)) : Answers (.completionRecordWrite id err) s P :=
      answers_unplaced (f := writeResponse true id err) rfl rfl hdue h
    refine ⟨fun err hto => hanswer ?_, fun hto => hanswer ?_, fun hto => hanswer ?_⟩
    · rw [heq, if_pos hto, hlate, hkept, hr.2]
      exact ⟨rfl, hmem, findDue_frame (removeReq_frame (.refl s))⟩
    · have hdone := writeDone_record (s := removeReq r s) hrec hst hslot hwritten
      have hself : queueAt q (setQueue q (recordTaken slot (queueAt q s)) (removeReq r s)) = recordTaken slot (queueAt q s) := queueAt_setQueue_self hqw
      have hothers (p : Nat) (hp : p ≠ q) : queueAt p (setQueue q (recordTaken slot (queueAt q s)) (removeReq r s)) = queueAt p s := queueAt_setQueue_ne hp
      have hnone (k : Nat) : (queueAt k (setQueue q (recordTaken slot (queueAt q s)) (removeReq r s))).records = [] := by
        rcases eq_or_ne k q with rfl | hk
        · rw [hself]
          rfl
        · rw [hothers k hk]
          exact (records_at (P := fun k v => v.records = [] ∨ (k = q ∧ ∃ b, v.records = [(slot, b)])) hquiet.1 (fun _ => .inl rfl) k).resolve_right fun h => hk h.1
      rw [heq, hto, if_neg Bool.false_ne_true, if_neg Bool.false_ne_true, hdone]
      show _ ∧ _
      rw [show queueAt q (removeReq r s) = queueAt q s from rfl,
        memRetry_quiet (s := setQueue q (recordTaken slot (queueAt q s)) (removeReq r s)) hquiet.2 (issueRecords_none (records_none (tset_wf _ _ _ hqw) hnone)), hself]
      exact ⟨rfl, rfl, rfl, hothers, no_write_left hr rfl, setQueue_frame (removeReq_frame (.refl s))⟩
    · rw [heq, hto, if_neg Bool.false_ne_true, if_pos rfl, hkept, hr.2]
      exact ⟨rfl, hmem, findDue_frame (removeReq_frame (.refl s))⟩
  · have hfind' : ((withReached q' s).mem.find? fun r => r.write == false && r.id == id.toNat) = some r := hfind
    have hr : r.write = false ∧ r.id = id.toNat := by
      have h := List.find?_some hfind
      simpa using h
    have heq : memTimeoutApply false id (withReached q' s) = if timedOut r (withReached q' s) = true
        then memRetry (memConsequence r.purpose 0x62 (noteErr 0x62 r.id r.addr { removeReq r (withReached q' s) with memLate := s.memLate ++ [r] })) else withReached q' s := by
      have hlive : alive (withReached q' s) = true := ha
      unfold memTimeoutApply
      rw [if_neg (by simp [hlive]), hfind']
      dsimp only
      cases hto : timedOut r (withReached q' s) with
      | true => rfl
      | false => rfl
    by_cases hearly : s.clock.now < r.issuedAt + regNat rTIMEOUT s * unitsUs
    · have hto : ¬ timedOut r (withReached q' s) = true := fun h => by
        have h' : r.issuedAt + regNat rTIMEOUT s * unitsUs ≤ s.clock.now := of_decide_eq_true h
        omega
      rw [heq, if_neg hto, if_pos hearly]
      exact withReached_frame (.refl _)
    · have hto : timedOut r (withReached q' s) = true := decide_eq_true (show r.issuedAt + regNat rTIMEOUT s * unitsUs ≤ s.clock.now by omega)
      rw [heq, if_pos hto, if_neg hearly, hpurpose, hr.2]
      have hremoved : OnlyChanges [.reached, .mem, .memLate] s (removeReq r (withReached q' s)) := withReached_frame (removeReq_frame (.refl _))
      have hyf : OnlyChanges [.reached, .mem, .memLate] s { removeReq r (withReached q' s) with memLate := s.memLate ++ [r] } :=
        hremoved.next (ps := [.reached, .mem, .memLate]) fun p hp => by cases p <;> simp [Part.same] at hp ⊢
      have hyl : r ∈ ({ removeReq r (withReached q' s) with memLate := s.memLate ++ [r] } : State).memLate := List.mem_append_right _ (List.mem_singleton_self r)
      have hyw : ({ removeReq r (withReached q' s) with memLate := s.memLate ++ [r] } : State).tablesWf = true := hw
      have hyt : ({ removeReq r (withReached q' s) with memLate := s.memLate ++ [r] } : State).clock.transit = s.clock.transit := rfl
      generalize ({ removeReq r (withReached q' s) with memLate := s.memLate ++ [r] } : State) = y at hyf hyl hyw hyt ⊢
      have hnf : OnlyChanges [.regs] y (noteErr 0x62 id.toNat r.addr y) := noteErr_frame (.refl y)
      have hlast : reg rLAST_ERR (noteErr 0x62 id.toNat r.addr y) = BitVec.ofNat 32 (0x62 + 256 * id.toNat) := reg_setReg_self (setReg_regs_wf (setReg_regs_wf (regs_wf hyw)))
      have hxw : (noteErr 0x62 id.toNat r.addr y).tablesWf = true := (noteErr_keeps (.refl _)).tablesWf hyw
      generalize noteErr 0x62 id.toNat r.addr y = x at hnf hlast hxw ⊢
      have hqx (n : Nat) : queueAt n x = queueAt n s := congrArg (tget QueueSt.idle n) ((hnf .queues (by decide)).trans (hyf .queues (by decide)))
      have hlogx : x.log = s.log := (hnf .log (by decide)).trans (hyf .log (by decide))
      obtain ⟨h1, h2, h3, h4, h5⟩ := memConsequence_fetch (q := q) (slot := slot) (k := k) (code := 0x62) hxw (by rw [LogRoom, hlogx]; exact hroom) (by decide) (by rw [hqx]; exact hstate)
      have hzw : (memConsequence (.descFetch q slot k) 0x62 x).tablesWf = true := (memConsequence_keeps (.refl _)).tablesWf hxw
      generalize memConsequence (.descFetch q slot k) 0x62 x = z at h1 h2 h3 h4 h5 hzw ⊢
      have hops : z.ops = s.ops := (h5 .ops (by decide)).trans ((hnf .ops (by decide)).trans (hyf .ops (by decide)))
      have hnone (n : Nat) : (queueAt n z).records = [] := by
        have hn : (queueAt n s).records = [] := records_at (P := fun _ v => v.records = []) hrecords (fun _ => rfl) n
        rcases eq_or_ne n q with rfl | hne
        · rw [h1, hqx]
          exact hn
        · rw [h2 n hne, hqx]
          exact hn
      rw [memRetry_quiet (by rw [hops]; exact hquiet.2) (issueRecords_none (records_none (queues_wf hzw).1 hnone))]
      rw [hqx] at h1
      have hlate : z.memLate = y.memLate := (h5 .memLate (by decide)).trans (hnf .memLate (by decide))
      refine ⟨h1, ?_, h4.trans hlast, hlate ▸ hyl, ((hyf.mono (by decide)).trans (hnf.mono (by decide))).trans (h5.mono (by decide))⟩
      obtain ⟨e, he, hcode, hcls, hsrc, htransit⟩ := h3
      exact ⟨e, he.trans (by rw [hlogx]), hcode, hcls, hsrc, htransit.trans (by rw [hnf.clock_eq, hyt])⟩

/-- Settles O34: what read data, write responses and timeouts leave, of requests that still count and of late ones. -/
theorem memoryResponses : Obligations.MemoryResponses := ⟨memoryReads, memoryWrites⟩

end Sys2Proof.Machine
end

section
/-! PROOF. Starts of descriptors and of standing orders (R243, R253, R254, R262, R263, R279, R449). -/

namespace Sys2Proof.Machine

-- The inclusions that frames ask for are auto parameters, whose code is compiled: with proofs elaborated in order no thread waits for it.
set_option Elab.async false

section
variable {r s : State} {ps : List Part}

theorem noteGate_frame {id : OpId} {step : Nat} (h : OnlyChanges ps r s) (hq : [.ops, .found] ⊆ ps := by decide) : OnlyChanges ps r (noteGate id step s) :=
  h.then (ps := [.ops, .found]) (withOp_frame (fun _ _ h1 => setOp_frame (.ite (noticeNext_frame h1) h1)) (OnlyChanges.refl s)) hq
theorem sizesIssue_frame {id : OpId} (h : OnlyChanges ps r s) (hq : [.found, .mem, .counts, .out] ⊆ ps := by decide) : OnlyChanges ps r (sizesIssue id s) := by
  refine h.then (ps := [.found, .mem, .counts, .out]) ?_ hq
  unfold sizesIssue
  dsimp only
  refine withOp_frame (fun _ _ h1 => ?_) (OnlyChanges.refl s)
  split
  · exact h1
  · exact .ite h1 (memTry_frame h1)
theorem attachLeg_frame {id : OpId} (h : OnlyChanges ps r s) (hq : [.groups, .ops, .links, .verdicts, .found, .mem, .counts, .out] ⊆ ps := by decide) : OnlyChanges ps r (attachLeg id s) :=
  h.then (ps := [.groups, .ops, .links, .verdicts, .found, .mem, .counts, .out]) (withOp_frame (fun _ _ h1 => .ite h1 (.unless (setGroup_frame h1) fun
      h2 => .when (.when (setOp_frame h2) fun h4 => verdictStart_frame h4) fun h3 => sizesIssue_frame h3)) (OnlyChanges.refl s)) hq
theorem startOp_frame {q : Nat} {slot : Nat} {run : Nat} {d : List Word} {gated : Bool} (h : OnlyChanges ps r s) (hq : [.groups, .ops, .links, .verdicts, .found, .mem, .counts, .out, .regs, .setNow, .clock, .log, .stalls, .planes, .ledgers, .pageWait] ⊆ ps := by decide) : OnlyChanges ps r (startOp q slot run d gated s) :=
  h.then (ps := [.groups, .ops, .links, .verdicts, .found, .mem, .counts, .out, .regs, .setNow, .clock, .log, .stalls, .planes, .ledgers, .pageWait]) (.ite (attachLeg_frame (noteGate_frame (perf_frame (setGated_frame (OnlyChanges.next (ps := [.ops]) (OnlyChanges.refl s) fun p hp => by cases p <;> simp [Part.same] at hp ⊢))))) (opFail_frame (modOp_frame (noteGate_frame (perf_frame (setGated_frame (OnlyChanges.next (ps := [.ops]) (OnlyChanges.refl s) fun p hp => by cases p <;> simp [Part.same] at hp ⊢))))))) hq
theorem failOp_frame {q : Nat} {slot : Nat} {d : List Word} {code : Nat} (h : OnlyChanges ps r s) (hq : [.ops, .log, .setNow, .regs, .stalls, .planes, .ledgers, .pageWait, .verdicts, .links] ⊆ ps := by decide) : OnlyChanges ps r (failOp q slot d code s) :=
  h.then (ps := [.ops, .log, .setNow, .regs, .stalls, .planes, .ledgers, .pageWait, .verdicts, .links]) (opFail_frame (OnlyChanges.next (ps := [.ops]) (OnlyChanges.refl s) fun p hp => by cases p <;> simp [Part.same] at hp ⊢)) hq
theorem passSlot_frame {q : Nat} {slot : Nat} (h : OnlyChanges ps r s) (hq : [.queues] ⊆ ps := by decide) : OnlyChanges ps r (passSlot q slot s) :=
  h.then (ps := [.queues]) (setQueue_frame (OnlyChanges.refl s)) hq
theorem trigTake_frame {d : List Word} {members : List Nat} {take : Bool} (h : OnlyChanges ps r s) (hq : [.tallies] ⊆ ps := by decide) : OnlyChanges ps r (trigTake d members take s) :=
  h.then (ps := [.tallies]) (.ite (.foldl (OnlyChanges.refl s) fun _ _ h1 => addTally_frame h1) (OnlyChanges.refl s)) hq
theorem startApply_frame {only : Nat → Bool} {q : Nat} (h : OnlyChanges ps r s) (hq : [.ops, .log, .setNow, .regs, .stalls, .planes, .ledgers, .pageWait, .verdicts, .links, .queues, .groups, .found, .mem, .counts, .out, .clock, .tallies] ⊆ ps := by decide) : OnlyChanges ps r (startApply only q s) := by
  refine h.then (ps := [.ops, .log, .setNow, .regs, .stalls, .planes, .ledgers, .pageWait, .verdicts, .links, .queues, .groups, .found, .mem, .counts,
      .out, .clock, .tallies]) ?_ hq
  unfold startApply
  dsimp only
  refine .ite (OnlyChanges.refl s) ?_
  split
  · exact OnlyChanges.refl s
  · exact .ite (OnlyChanges.refl s) (.ite (failOp_frame (.ite (setQueue_frame (OnlyChanges.refl s)) (passSlot_frame (OnlyChanges.refl s)))) (.ite
        (OnlyChanges.refl s) (startOp_frame (passSlot_frame (trigTake_frame (OnlyChanges.refl s))))))
theorem standingRunApply_frame {q : Nat} {slot : Nat} (h : OnlyChanges ps r s) (hq : [.groups, .ops, .links, .verdicts, .found, .mem, .counts, .out, .regs, .setNow, .clock, .log, .stalls, .planes, .ledgers, .pageWait, .queues, .orders, .tallies] ⊆ ps := by decide) : OnlyChanges ps r (standingRunApply q slot s) := by
  refine h.then (ps := [.groups, .ops, .links, .verdicts, .found, .mem, .counts, .out, .regs, .setNow, .clock, .log, .stalls, .planes, .ledgers,
      .pageWait, .queues, .orders, .tallies]) ?_ hq
  unfold standingRunApply
  dsimp only
  refine .ite (OnlyChanges.refl s) ?_
  split
  · exact OnlyChanges.refl s
  · next o _ => exact .ite (OnlyChanges.refl s) (startOp_frame (setQueue_frame (OnlyChanges.next (ps := [.orders]) (t := trigTake o.words (opMembers (queueAt q s) o.words s) true s) (trigTake_frame (OnlyChanges.refl s)) fun p hp => by cases p <;> simp [Part.same] at hp ⊢)))
end

/-! ### Triggers -/

section
variable {s t : State} {id : OpId} {o : Op} {d : List Word} {members : List Nat} {take : Bool} {q slot run : Nat} {gated : Bool}

/-- One amount added to one tally of each of some stalls. -/
theorem tally_foldl_addTally {l : List Nat} {i : Nat} {a : Word} (hl : l.Nodup) (hi : i < 64) (hw : tableWf 0#32 s.tabs.tallies = true) {n j : Nat} (hj : j < 64) :
    tally n j (l.foldl (fun s n => addTally n i a s) s) = if j = i ∧ n ∈ l then tally n j s + a else tally n j s := by
  induction l generalizing s with
  | nil => simp
  | cons m l ih =>
    obtain ⟨hm, hl⟩ := List.nodup_cons.mp hl
    rw [List.foldl_cons, ih hl (tset_wf _ _ _ hw)]
    by_cases hat : n = m ∧ j = i
    · obtain ⟨rfl, rfl⟩ := hat
      rw [if_neg (fun h => hm h.2), if_pos ⟨rfl, List.mem_cons_self⟩]
      exact tally_setTally_self hw
    · have hsame : tally n j (addTally m i a s) = tally n j s := tally_setTally_ne (n := m) (i := i) hi hj (fun h => hat (Prod.mk.inj h))
      rw [hsame]
      have hiff : (j = i ∧ n ∈ m :: l) ↔ (j = i ∧ n ∈ l) := by
        rw [List.mem_cons]
        exact ⟨fun h => ⟨h.1, h.2.resolve_left fun hn => hat ⟨hn, h.1⟩⟩, fun h => ⟨h.1, .inr h.2⟩⟩
      simp only [hiff]

theorem dTrigTally_lt : dTrigTally d < 64 := Nat.mod_lt _ (by decide)

/-- A trigger that acts as a TAKE consumes its threshold from every tested tally (R254). -/
theorem trigTake_taken (hw : tableWf 0#32 s.tabs.tallies = true) (hm : members.Nodup) : TriggerTaken d members take s (trigTake d members take s) := fun n j hj => by
  have hstalls : trigStalls d members = if dTrigMembers d = true then members else [dTrigStall d] := rfl
  have hnd : (trigStalls d members).Nodup := by
    rw [hstalls]
    split
    · exact hm
    · exact List.nodup_singleton _
  unfold trigTake
  by_cases hgo : dTrigEn d = true ∧ take = true
  · obtain ⟨hen, htake⟩ := hgo
    rw [if_pos (by simp [hen, htake]), tally_foldl_addTally hnd dTrigTally_lt hw hj, hstalls]
    have hiff : (dTrigEn d = true ∧ take = true ∧ j = dTrigTally d ∧ n ∈ (if dTrigMembers d = true then members else [dTrigStall d])) ↔
        (j = dTrigTally d ∧ n ∈ (if dTrigMembers d = true then members else [dTrigStall d])) := ⟨fun h => h.2.2, fun h => ⟨hen, htake, h⟩⟩
    simp only [hiff, BitVec.sub_eq_add_neg]
  · rw [if_neg (by simpa using hgo), if_neg (fun h => hgo ⟨h.1, h.2.1⟩)]

/-- A trigger changes tallies alone. -/
theorem trigTake_eq : ∃ T : Table Word, trigTake d members take s = { s with tabs := { s.tabs with tallies := T } } := by
  have hfold (l : List Nat) : ∃ T : Table Word, l.foldl (fun s n => addTally n (dTrigTally d) (-(dThreshold d)) s) s = { s with tabs := { s.tabs with tallies := T } } := by
    refine List.foldlRecOn (motive := fun t => ∃ T : Table Word, t = { s with tabs := { s.tabs with tallies := T } }) l _ ⟨s.tabs.tallies, rfl⟩ fun t ht n _ => ?_
    obtain ⟨T, rfl⟩ := ht
    exact ⟨_, rfl⟩
  unfold trigTake
  split
  · exact hfold _
  · exact ⟨s.tabs.tallies, rfl⟩

theorem opMembers_nodup {v : QueueSt} : (opMembers v d s).Nodup := by
  unfold opMembers
  split
  · unfold groupMembers
    split
    · exact List.nodup_range.filter _
    · exact List.nodup_range.map fun a b h => by simpa using h
  · exact List.nodup_nil

/-! ### The operation that joins -/

/-- The operation of this identifier and descriptor stands last, behind those of the list. -/
def JoinedLast (id : OpId) (d : List Word) (l : List Op) (s : State) : Prop := ∃ o, s.ops = l ++ [o] ∧ o.id = id ∧ o.d = d

theorem findOp_append {l : List Op} (hl : ∀ x ∈ l, x.id ≠ o.id) : findOp o.id (l ++ [o]) = some o := by
  induction l with
  | nil => exact if_pos rfl
  | cons x l ih =>
    rw [List.cons_append, findOp, if_neg (hl x List.mem_cons_self)]
    exact ih fun y hy => hl y (List.mem_cons_of_mem _ hy)

theorem replaceOp_append {l : List Op} {o' : Op} (hl : ∀ x ∈ l, x.id ≠ o'.id) (hid : o.id = o'.id) : replaceOp o' (l ++ [o]) = l ++ [o'] := by
  induction l with
  | nil => exact if_pos hid
  | cons x l ih =>
    rw [List.cons_append, replaceOp, if_neg (hl x List.mem_cons_self), ih fun y hy => hl y (List.mem_cons_of_mem _ hy)]
    rfl

theorem JoinedLast.of_ops {l : List Op} (h : JoinedLast id d l s) (ht : t.ops = s.ops) : JoinedLast id d l t := by
  obtain ⟨o, ho, hid⟩ := h
  exact ⟨o, ht.trans ho, hid⟩

theorem JoinedLast.at_ {l : List Op} (h : JoinedLast id d l s) (hl : ∀ x ∈ l, x.id ≠ id) : ∃ o, s.ops = l ++ [o] ∧ opAt id s = some o ∧ o.d = d := by
  obtain ⟨o, ho, rfl, hd⟩ := h
  exact ⟨o, ho, (congrArg (findOp o.id) ho).trans (findOp_append hl), hd⟩

theorem JoinedLast.setOp {l : List Op} {o' : Op} (h : JoinedLast id d l s) (hl : ∀ x ∈ l, x.id ≠ id) (ho : opAt id s = some o) (hid : o'.id = o.id) (hd : o'.d = o.d) :
    JoinedLast id d l (setOp o' s) := by
  obtain ⟨o1, hops, hat, hd1⟩ := h.at_ hl
  obtain rfl : o1 = o := Option.some.inj (hat.symm.trans ho)
  have hid' : o'.id = id := hid.trans (opAt_id ho)
  refine ⟨o', ?_, hid', hd.trans hd1⟩
  show replaceOp o' s.ops = _
  rw [hops, replaceOp_append (hid' ▸ hl) hid.symm]

theorem JoinedLast.modOp {l : List Op} {f : Op → Op} (h : JoinedLast id d l s) (hl : ∀ x ∈ l, x.id ≠ id) (hf : ∀ o, (f o).id = o.id) (hd : ∀ o, (f o).d = o.d) : JoinedLast id d l (modOp id f s) := by
  unfold Machine.modOp
  cases ho : opAt id s with
  | none => exact h
  | some o => exact h.setOp hl ho (hf o) (hd o)

theorem JoinedLast.stopLeg {l : List Op} (h : JoinedLast id d l s) (hl : ∀ x ∈ l, x.id ≠ id) : JoinedLast id d l (stopLeg id s) := by
  unfold Machine.stopLeg withOp
  cases ho : opAt id s with
  | none => exact h
  | some o =>
    dsimp only
    cases o.leg with
    | none => exact h
    | some g =>
      have ha : (abandonSteps g s).ops = s.ops := (abandonSteps_frame (ps := [.links]) (.refl s)) .ops (by decide)
      have hset := (h.of_ops ha).setOp (o' := { o with leg := none }) hl ((opAt_of_ops ha id).trans ho) rfl rfl
      exact hset.of_ops rfl

theorem JoinedLast.dropPages {l : List Op} (h : JoinedLast id d l s) (hl : ∀ x ∈ l, x.id ≠ id) : JoinedLast id d l (dropPages id s) := by
  unfold Machine.dropPages withOp
  cases ho : opAt id s with
  | none => exact h
  | some o =>
    have hf : (freeOpPool o s).ops = s.ops := (freeOpPool_frame (ps := [.planes]) (.refl s)) .ops (by decide)
    exact (h.of_ops hf).setOp hl ((opAt_of_ops hf id).trans ho) rfl rfl

/-- A failure of the operation that stands last leaves it there. -/
theorem JoinedLast.opFail {l : List Op} {code : Nat} (h : JoinedLast id d l s) (hl : ∀ x ∈ l, x.id ≠ id) (ho : opAt id s = some o) (hf : o.fail = none) : JoinedLast id d l (opFail id code s) := by
  rw [opFail_eq ho hf]
  refine JoinedLast.modOp ?_ hl (fun _ => rfl) fun _ => rfl
  have h1 : (logFail o code s).ops = s.ops := (logFail_frame (ps := [.setNow, .regs, .log]) (.refl s)) .ops (by decide)
  have h2 (x : State) : (endHoldFailed o (leaveLists id x)).ops = x.ops := (endHoldFailed_frame (ps := [.ledgers, .log, .planes, .pageWait]) (leaveLists_frame (.refl x))) .ops (by decide)
  have h3 (x : State) : (endChain o (discardBeats o x)).ops = x.ops := (endChain_frame (ps := [.log, .stalls, .setNow, .regs]) (discardBeats_frame (.refl x))) .ops (by decide)
  exact JoinedLast.of_ops (JoinedLast.dropPages (JoinedLast.of_ops (JoinedLast.stopLeg (h.of_ops h1) hl) (h2 _)) hl) (h3 _)

/-- A failure of the operation that stands last: it stands there with its code and the transit. -/
theorem opFail_last {l : List Op} {code : Nat} (hs : s.ops = l ++ [o]) (hl : ∀ x ∈ l, x.id ≠ o.id) (hf : o.fail = none) :
    ∃ o' : Op, (Machine.opFail o.id code s).ops = l ++ [o'] ∧ o'.id = o.id ∧ o'.d = o.d ∧ o'.fail = some (BitVec.ofNat 8 code, s.clock.transit) := by
  have ho : opAt o.id s = some o := (congrArg (findOp o.id) hs).trans (findOp_append hl)
  obtain ⟨o', hops, hat, hd⟩ := (JoinedLast.opFail (d := o.d) (code := code) ⟨o, hs, rfl, rfl⟩ hl ho hf).at_ hl
  obtain ⟨⟨o2, ho2, hfail, -, -⟩, -, -⟩ := opFail_spec (code := code) ho hf
  have heq : o' = o2 := Option.some.inj (hat.symm.trans ho2)
  exact ⟨o', hops, opAt_id hat, hd, heq ▸ hfail⟩

/-! ### A start -/

/-- The state in which a start's leg is checked: the operation has joined, and nothing is gated. -/
def joinedOp (o : Op) (s : State) : State := noteGate o.id 0 (perf pcStarted 1 (setGated false { s with ops := s.ops ++ [o] }))

theorem joinedOp_frame : OnlyChanges [.ops, .found, .clock, .regs, .setNow] s (joinedOp o s) := by
  have h : OnlyChanges [.ops, .found, .clock, .regs, .setNow] s { s with ops := s.ops ++ [o] } := .next (ps := [.ops, .found, .clock, .regs, .setNow]) (.refl s) fun p hp => by cases p <;> simp [Part.same] at hp ⊢
  exact noteGate_frame (perf_frame (setGated_frame h))

theorem joinedOp_transit : (joinedOp o s).clock.transit = s.clock.transit := by
  have hg (x : State) : (setGated false x).clock.transit = x.clock.transit := by
    unfold setGated
    dsimp only
    split
    · rfl
    · rfl
  have hp (x : State) : (perf pcStarted 1 x).clock.transit = x.clock.transit := congrArg Clock.transit (perf_frame (ps := [.regs, .setNow]) (.refl x)).clock_eq
  have hn (x : State) : (noteGate o.id 0 x).clock.transit = x.clock.transit := (congrArg Clock.transit ((noteGate_frame (id := o.id) (step := 0) (ps := [.ops, .found]) (.refl x)) .clock (by decide) :) :)
  exact (hn _).trans ((hp _).trans (hg _))

/-- The operation after the marks of its first step's window. -/
def markedOp (o : Op) (credit bad : Bool) : Op := { o with creditOnly := credit, entryBad := bad }

theorem noteGate_eq {step : Nat} (ho : opAt o.id s = some o) : ∃ (credit bad : Bool) (t : State), noteGate o.id step s = setOp (markedOp o credit bad) t ∧ t.ops = s.ops := by
  unfold noteGate
  rw [withOp_eq ho]
  refine ⟨_, _, _, rfl, ?_⟩
  split
  · rfl
  · rfl

theorem joinedOp_ops (hl : ∀ x ∈ s.ops, x.id ≠ o.id) : ∃ credit bad, (joinedOp o s).ops = s.ops ++ [markedOp o credit bad] := by
  have hx : (perf pcStarted 1 (setGated false { s with ops := s.ops ++ [o] })).ops = s.ops ++ [o] :=
    (perf_frame (ps := [.clock, .setNow, .regs]) (setGated_frame (.refl _))) .ops (by decide)
  unfold joinedOp
  generalize perf pcStarted 1 (setGated false { s with ops := s.ops ++ [o] }) = x at hx ⊢
  obtain ⟨credit, bad, t, heq, hops⟩ := noteGate_eq (step := 0) (s := x) ((congrArg (findOp o.id) hx).trans (findOp_append hl))
  refine ⟨credit, bad, ?_⟩
  rw [heq]
  show replaceOp (markedOp o credit bad) t.ops = _
  rw [hops, hx]
  exact replaceOp_append hl rfl

/-- An operation that claims no ledger, as its leg's checks have failed. -/
def unclaimed (o : Op) : Op := { o with claim := .none }

theorem startOp_eq : startOp q slot run d gated s = if legStartCheck (queueAt q s) d s = 0 then attachLeg ⟨q, slot, run⟩ (joinedOp (newOp q slot run d gated s) s)
    else opFail ⟨q, slot, run⟩ (legStartCheck (queueAt q s) d s) (modOp ⟨q, slot, run⟩ unclaimed (joinedOp (newOp q slot run d gated s) s)) := rfl

/-- The leg of a start that its checks let pass (R279). -/
def newLeg (d : List Word) (s : State) : Leg :=
  { tgroup := lgGroup d, seq := (groupAt (lgGroup d) s).legSeq, attempt := 0, n := gN (groupAt (lgGroup d) s), pos := gPos (groupAt (lgGroup d) s) s, twoWay := lgTwoWay d, wire := lgWire d, started := [], tx := [], got := [], region := [], stats := [], images := [], beatsOut := [], delivered := [], reduced := false, markers := [], marked := [], recallAt := none, recallFrom := [], recallEcho := [], notBefore := s.clock.transit, relap := false, lapDone := [], sizes := [] }

theorem gPos_of_self {g : GroupDef} (h : reg rSELF t = reg rSELF s) : gPos g t = gPos g s := by
  unfold gPos selfCoord
  rw [h]

theorem joinedOp_self : reg rSELF (joinedOp o s) = reg rSELF s := by
  have hg (x : State) : reg rSELF (setGated false x) = reg rSELF x := by
    unfold setGated
    dsimp only
    split
    · rfl
    · exact (reg_irq_ne (by decide)).trans rfl
  have hp (x : State) : reg rSELF (perf pcStarted 1 x) = reg rSELF x := by
    unfold perf
    split
    · rfl
    · dsimp only
      split
      · exact (reg_irq_ne (by decide)).trans (reg_count_ne (by decide))
      · exact reg_count_ne (by decide)
  have hn (x : State) : reg rSELF (noteGate o.id 0 x) = reg rSELF x := (noteGate_frame (ps := [.ops, .found]) (.refl x)).reg_eq (by decide) _
  exact (hn _).trans ((hp _).trans (hg _))

theorem groups_of_verdictStart {tg n : Nat} {seq : BitVec 16} : (verdictStart tg seq n s).groups = s.groups ∧ (verdictStart tg seq n s).ops = s.ops := by
  have h : OnlyChanges [.links, .verdicts] s (verdictStart tg seq n s) := verdictStart_frame (.refl s)
  exact ⟨h .groups (by decide), h .ops (by decide)⟩

variable (hl : ∀ x ∈ s.ops, x.id ≠ ⟨q, slot, run⟩)
include hl

/-- The operation stands last as its start is checked. -/
theorem joined_last : ∃ credit bad, (joinedOp (newOp q slot run d gated s) s).ops = s.ops ++ [markedOp (newOp q slot run d gated s) credit bad]
    ∧ opAt ⟨q, slot, run⟩ (joinedOp (newOp q slot run d gated s) s) = some (markedOp (newOp q slot run d gated s) credit bad) := by
  obtain ⟨credit, bad, hops⟩ := joinedOp_ops (o := newOp q slot run d gated s) hl
  exact ⟨credit, bad, hops, (congrArg (findOp _) hops).trans (findOp_append (o := markedOp (newOp q slot run d gated s) credit bad) hl)⟩

omit hl in
theorem JoinedLast.attachLeg {i : OpId} {l : List Op} (h : JoinedLast i d l s) (hn : ∀ x ∈ l, x.id ≠ i) : JoinedLast i d l (attachLeg i s) := by
  unfold Machine.attachLeg withOp
  cases ho : opAt i s with
  | none => exact h
  | some o =>
    dsimp only
    have hset {g : Leg} {b : Bool} : JoinedLast i d l (Machine.setOp { o with leg := some g, sizesPending := b } (setGroup (lgGroup o.d) { groupAt (lgGroup o.d) s with legSeq := (groupAt (lgGroup o.d) s).legSeq + 1 } s)) :=
      (h.of_ops (t := setGroup (lgGroup o.d) { groupAt (lgGroup o.d) s with legSeq := (groupAt (lgGroup o.d) s).legSeq + 1 } s) rfl).setOp hn ho rfl rfl
    have hsizes {x : State} (hx : JoinedLast i d l x) : JoinedLast i d l (sizesIssue i x) := hx.of_ops ((sizesIssue_frame (ps := [.found, .mem, .counts, .out]) (.refl x)) .ops (by decide))
    have hverdict {x : State} {tg n : Nat} {seq : BitVec 16} (hx : JoinedLast i d l x) : JoinedLast i d l (verdictStart tg seq n x) := hx.of_ops groups_of_verdictStart.2
    have hchoice {x y : State} {b : Prop} [Decidable b] (hx : JoinedLast i d l x) (hy : JoinedLast i d l y) : JoinedLast i d l (if b then x else y) := by
      split
      · exact hx
      · exact hy
    refine hchoice h (hchoice (h.of_ops rfl) (hchoice (hsizes ?_) ?_))
    · exact hchoice (hverdict hset) hset
    · exact hchoice (hverdict hset) hset

/-- Whatever its leg's checks find, the operation of a start stands last. -/
theorem startOp_last : ∃ o : Op, (startOp q slot run d gated s).ops = s.ops ++ [o] ∧ o.id = ⟨q, slot, run⟩ ∧ o.d = d := by
  obtain ⟨credit, bad, hops, hat⟩ := joined_last (d := d) (gated := gated) hl
  have hlast : JoinedLast ⟨q, slot, run⟩ d s.ops (joinedOp (newOp q slot run d gated s) s) := ⟨_, hops, rfl, rfl⟩
  rw [startOp_eq]
  split
  · exact hlast.attachLeg hl
  · rw [modOp_eq hat]
    exact JoinedLast.opFail (hlast.setOp hl hat (o' := unclaimed _) rfl rfl) hl (opAt_setOp_of hat rfl) rfl

/-- A start without ring leg (R253). -/
theorem startOp_noLeg (hring : dRingLeg d = 0) : startOp q slot run d gated s = joinedOp (newOp q slot run d gated s) s := by
  obtain ⟨credit, bad, -, hat⟩ := joined_last (d := d) (gated := gated) hl
  have hcheck : legStartCheck (queueAt q s) d s = 0 := if_pos hring
  rw [startOp_eq, if_pos hcheck, attachLeg, withOp_eq hat]
  exact if_pos hring

/-- A start whose definition is FENCED fails (R307). -/
theorem startOp_fenced (hring : dRingLeg d ≠ 0) (hf : (groupAt (lgGroup d) s).fenced = true) :
    let t := startOp q slot run d gated s
    (∃ o : Op, t.ops = s.ops ++ [o] ∧ o.id = ⟨q, slot, run⟩ ∧ o.d = d ∧ o.fail = some (0x25#8, s.clock.transit)) ∧ t.groups = s.groups := by
  obtain ⟨credit, bad, hops, hat⟩ := joined_last (d := d) (gated := gated) hl
  have hcheck : legStartCheck (queueAt q s) d s = 0x25 := (if_neg hring).trans (if_pos hf)
  have hframe : OnlyChanges [.ops, .found, .clock, .regs, .setNow] s (joinedOp (newOp q slot run d gated s) s) := joinedOp_frame
  have htransit : (joinedOp (newOp q slot run d gated s) s).clock.transit = s.clock.transit := joinedOp_transit
  rw [startOp_eq, hcheck, if_neg (by decide), modOp_eq hat]
  generalize joinedOp (newOp q slot run d gated s) s = x at hops hat hframe htransit ⊢
  have hops' : (setOp (unclaimed (markedOp (newOp q slot run d gated s) credit bad)) x).ops = s.ops ++ [unclaimed (markedOp (newOp q slot run d gated s) credit bad)] := by
    show replaceOp _ x.ops = _
    rw [hops]
    exact replaceOp_append hl rfl
  obtain ⟨o', h1, h2, h3, h4⟩ := opFail_last (code := 0x25) hops' hl rfl
  have hfr : OnlyChanges [.ops, .log, .setNow, .regs, .stalls, .planes, .ledgers, .pageWait, .verdicts, .links] x
      (opFail ⟨q, slot, run⟩ 0x25 (setOp (unclaimed (markedOp (newOp q slot run d gated s) credit bad)) x)) := opFail_frame (setOp_frame (.refl x))
  refine ⟨⟨o', h1, h2, h3, h4.trans ?_⟩, (hfr .groups (by decide)).trans (hframe .groups (by decide))⟩
  rw [show (setOp (unclaimed (markedOp (newOp q slot run d gated s) credit bad)) x).clock.transit = s.clock.transit from htransit]

/-- A start with a ring leg of several chips (R279). -/
theorem startOp_leg (hw : tableWf GroupDef.clear s.groups = true) (hring : dRingLeg d ≠ 0) (hf : (groupAt (lgGroup d) s).fenced = false) (hspec : legSpecBad (queueAt q s) d s = false)
    (ha2a : dOp d ≠ oALLTOALL) (hn : 1 < gN (groupAt (lgGroup d) s)) :
    let t := startOp q slot run d gated s
    (∃ o : Op, t.ops = s.ops ++ [o] ∧ o.id = ⟨q, slot, run⟩ ∧ o.d = d ∧ o.leg = some (newLeg d s)) ∧ (groupAt (lgGroup d) t).legSeq = (groupAt (lgGroup d) s).legSeq + 1 := by
  obtain ⟨credit, bad, hops, hat⟩ := joined_last (d := d) (gated := gated) hl
  have hcheck : legStartCheck (queueAt q s) d s = 0 := (if_neg hring).trans ((if_neg (by rw [hf]; exact Bool.false_ne_true)).trans (if_neg (by rw [hspec]; exact Bool.false_ne_true)))
  have hframe : OnlyChanges [.ops, .found, .clock, .regs, .setNow] s (joinedOp (newOp q slot run d gated s) s) := joinedOp_frame
  have htransit : (joinedOp (newOp q slot run d gated s) s).clock.transit = s.clock.transit := joinedOp_transit
  have hself : reg rSELF (joinedOp (newOp q slot run d gated s) s) = reg rSELF s := joinedOp_self
  rw [startOp_eq, if_pos hcheck]
  generalize joinedOp (newOp q slot run d gated s) s = x at hops hat hframe htransit hself ⊢
  have hgroups : x.groups = s.groups := hframe .groups (by decide)
  have hg : groupAt (lgGroup d) x = groupAt (lgGroup d) s := congrArg (tget GroupDef.clear (lgGroup d)) hgroups
  have hleg : newLeg d x = newLeg d s := by
    unfold newLeg
    rw [hg, htransit, gPos_of_self hself]
  have heq : attachLeg ⟨q, slot, run⟩ x = verdictStart (lgGroup d) (groupAt (lgGroup d) x).legSeq 0
      (setOp { markedOp (newOp q slot run d gated s) credit bad with leg := some (newLeg d x), sizesPending := false }
        (setGroup (lgGroup d) { groupAt (lgGroup d) x with legSeq := (groupAt (lgGroup d) x).legSeq + 1 } x)) := by
    have hno : (dOp d == oALLTOALL) = false := beq_eq_false_iff_ne.mpr ha2a
    have hd : (markedOp (newOp q slot run d gated s) credit bad).d = d := rfl
    rw [attachLeg, withOp_eq hat]
    simp only [hd]
    have hmany : ¬ (gN (groupAt (lgGroup d) x) ≤ 1 ∧ false = false) := by rw [hg]; omega
    have hone : 1 < gN (groupAt (lgGroup d) x) := by rw [hg]; exact hn
    rw [if_neg hring, hno, if_neg hmany, if_neg Bool.false_ne_true, if_pos hone]
    rfl
  obtain ⟨hvg, hvo⟩ := groups_of_verdictStart (tg := lgGroup d) (n := 0) (seq := (groupAt (lgGroup d) x).legSeq)
    (s := setOp { markedOp (newOp q slot run d gated s) credit bad with leg := some (newLeg d x), sizesPending := false }
        (setGroup (lgGroup d) { groupAt (lgGroup d) x with legSeq := (groupAt (lgGroup d) x).legSeq + 1 } x))
  rw [heq]
  refine ⟨⟨{ markedOp (newOp q slot run d gated s) credit bad with leg := some (newLeg d x), sizesPending := false }, hvo.trans ?_, rfl, rfl, congrArg some hleg⟩, ?_⟩
  · show replaceOp _ x.ops = _
    rw [hops]
    exact replaceOp_append hl rfl
  · have hgt := congrArg (tget GroupDef.clear (lgGroup d)) hvg
    refine (congrArg GroupDef.legSeq (hgt.trans (groupAt_setGroup_self (s := x) (hgroups ▸ hw)))).trans ?_
    rw [hg]

end

/-! ### The head descriptor of a queue -/

section
variable {s t : State} {f : Fetched} {q : Nat} {only : Nat → Bool} (hs : serving s = true) (hr : qRuns (queueAt q s) = true) (hhead : headDesc (queueAt q s) s.clock.fclk = some f)
  (honly : only (dOp f.words) = true) (hst : qStanding (queueAt q s) = false)
include hs hr hhead honly hst

theorem startApply_eq : startApply only q s = if (f.decoded.getD 0#8).toNat ≠ 0 then failOp q f.slot f.words (f.decoded.getD 0#8).toNat (passSlot q f.slot s)
    else if (!startReady q f.words s || !startOpen q f.words s) = true then s
    else startOp q f.slot 0 f.words (stepGated (queueAt q s) f.words 0 s) (passSlot q f.slot (trigTake f.words (opMembers (queueAt q s) f.words s) (dTrigTake f.words) s)) := by
  unfold startApply
  dsimp only
  rw [if_neg (by simp [hs, hr]), hhead]
  dsimp only
  rw [honly, hst, if_neg (by simp)]
  simp only [Bool.false_or, Bool.false_eq_true, if_false]

/-- The head descriptor starts where its time, its trigger and the bounds let it. -/
theorem startApply_starts (hdec : f.decoded = some 0#8) (hready : startReady q f.words s = true) (hopen : startOpen q f.words s = true) :
    startApply only q s = startOp q f.slot 0 f.words (stepGated (queueAt q s) f.words 0 s) (passSlot q f.slot (trigTake f.words (opMembers (queueAt q s) f.words s) (dTrigTake f.words) s)) := by
  rw [startApply_eq hs hr hhead honly hst, hdec, if_neg (by simp), hready, hopen]
  rfl

/-- A head descriptor that failed its static checks fails with their code. -/
theorem startApply_fails {k : BitVec 8} (hdec : f.decoded = some k) (hk : k ≠ 0#8) : startApply only q s = failOp q f.slot f.words k.toNat (passSlot q f.slot s) := by
  have hne : k.toNat ≠ 0 := fun h => hk (BitVec.eq_of_toNat_eq h)
  rw [startApply_eq hs hr hhead honly hst, hdec]
  exact if_pos hne

theorem startApply_waits (hdec : f.decoded = some 0#8) (hnot : startReady q f.words s = false) : startApply only q s = s := by
  rw [startApply_eq hs hr hhead honly hst, hdec, if_neg (by simp), hnot]
  rfl

end

section
variable {s t : State} {q slot run : Nat} {d : List Word} {gated : Bool} {v : QueueSt} {T : Table Word}

/-- The queue after its slot has started. -/
def passedQueue (slot : Nat) (v : QueueSt) : QueueSt := { v with nextStart := (slot + 1) % queueSize v, fetched := v.fetched.filter fun f => f.slot != slot }

/-- The state of a start: a trigger's tallies and the queue have changed since the head descriptor was looked at. -/
def startState (q : Nat) (v : QueueSt) (T : Table Word) (s : State) : State := setQueue q v { s with tabs := { s.tabs with tallies := T } }

theorem passSlot_eq : passSlot q slot { s with tabs := { s.tabs with tallies := T } } = startState q (passedQueue slot (queueAt q s)) T s := rfl

theorem startState_frame {a : State} {ps : List Part} (h : OnlyChanges ps a s) (hq : [.queues, .tallies] ⊆ ps := by decide) : OnlyChanges ps a (startState q v T s) :=
  h.then (ps := [.queues, .tallies]) (setQueue_frame (OnlyChanges.next (ps := [.queues, .tallies]) (.refl s) fun p hp => by cases p <;> simp [Part.same] at hp ⊢)) hq

/-- What a start without ring leg leaves. -/
theorem startOp_started {x : State} (hl : ∀ o ∈ s.ops, o.id ≠ ⟨q, slot, run⟩) (hops : x.ops = s.ops) (hmem : opMembers (queueAt q x) d x = opMembers (queueAt q s) d s)
    (hc : x.clock.transit = s.clock.transit) (hring : dRingLeg d = 0) : let t := startOp q slot run d gated x
    Started q slot run d s t ∧ OnlyChanges [.ops, .found, .clock, .regs, .setNow] x t := by
  have hl' : ∀ o ∈ x.ops, o.id ≠ ⟨q, slot, run⟩ := hops ▸ hl
  obtain ⟨credit, bad, hjoined, -⟩ := joined_last (d := d) (gated := gated) hl'
  rw [startOp_noLeg hl' hring]
  exact ⟨⟨_, hjoined.trans (by rw [hops]), rfl, rfl, hmem, hc, rfl, rfl, rfl⟩, joinedOp_frame⟩

theorem failOp_spec {code : Nat} (hl : ∀ o ∈ s.ops, o.id ≠ ⟨q, slot, 0⟩) : let t := failOp q slot d code s
    (∃ o : Op, t.ops = s.ops ++ [o] ∧ o.id = ⟨q, slot, 0⟩ ∧ o.fail = some (BitVec.ofNat 8 code, s.clock.transit)) ∧ t.tabs = s.tabs ∧ t.queues = s.queues := by
  obtain ⟨o', h1, h2, -, h4⟩ := opFail_last (s := { s with ops := s.ops ++ [unclaimed (newOp q slot 0 d false s)] }) (o := unclaimed (newOp q slot 0 d false s)) (code := code) rfl hl rfl
  have hf : OnlyChanges [.ops, .log, .setNow, .regs, .stalls, .planes, .ledgers, .pageWait, .verdicts, .links] { s with ops := s.ops ++ [unclaimed (newOp q slot 0 d false s)] } (failOp q slot d code s) :=
    opFail_frame (.refl _)
  refine ⟨⟨o', h1, h2, h4⟩, ?_, hf .queues (by decide)⟩
  have h (p : Part) (hp : p ∉ [Part.ops, .log, .setNow, .regs, .stalls, .planes, .ledgers, .pageWait, .verdicts, .links]) := hf p hp
  have e1 : (failOp q slot d code s).tabs.trims = s.tabs.trims := h .trims (by decide)
  have e2 : (failOp q slot d code s).tabs.ephemeris = s.tabs.ephemeris := h .ephemeris (by decide)
  have e3 : (failOp q slot d code s).tabs.masks = s.tabs.masks := h .masks (by decide)
  have e4 : (failOp q slot d code s).tabs.profiles = s.tabs.profiles := h .profiles (by decide)
  have e5 : (failOp q slot d code s).tabs.musters = s.tabs.musters := h .musters (by decide)
  have e6 : (failOp q slot d code s).tabs.lineMembers = s.tabs.lineMembers := h .lineMembers (by decide)
  have e7 : (failOp q slot d code s).tabs.almanac = s.tabs.almanac := h .almanac (by decide)
  have e8 : (failOp q slot d code s).tabs.tallies = s.tabs.tallies := h .tallies (by decide)
  generalize (failOp q slot d code s).tabs = tb at e1 e2 e3 e4 e5 e6 e7 e8
  cases tb
  cases hb : s.tabs
  simp_all

end

/-! ### What the start of a head descriptor leaves -/

section
variable {s t : State} {q slot : Nat} {d : List Word} {v : QueueSt} {T : Table Word}

theorem queueAt_startState (hq : tableWf QueueSt.idle s.queues = true) : queueAt q (startState q v T s) = v := queueAt_setQueue_self (s := { s with tabs := { s.tabs with tallies := T } }) hq
theorem queueAt_startState_ne {r : Nat} (hr : r ≠ q) : queueAt r (startState q v T s) = queueAt r s := queueAt_setQueue_ne hr

/-- A start reads of its queue what the start has left unchanged: its group and its CFG. -/
theorem opMembers_startState (hq : tableWf QueueSt.idle s.queues = true) (hg : v.group = (queueAt q s).group) :
    opMembers (queueAt q (startState q v T s)) d (startState q v T s) = opMembers (queueAt q s) d s := by
  have hgroup : descGroup v d = descGroup (queueAt q s) d := by rw [descGroup, hg, descGroup]
  rw [queueAt_startState hq]
  unfold opMembers
  rw [hgroup]
  rfl

theorem legSpecBad_startState (hq : tableWf QueueSt.idle s.queues = true) (hg : v.cfg = (queueAt q s).cfg) :
    legSpecBad (queueAt q (startState q v T s)) d (startState q v T s) = legSpecBad (queueAt q s) d s := by
  have hbound : ephBound v = ephBound (queueAt q s) := by rw [ephBound, hg, ephBound]
  have hgates : gatesLater v d (startState q v T s) = gatesLater (queueAt q s) d s := by
    unfold gatesLater
    rw [hbound]
    rfl
  rw [queueAt_startState hq]
  unfold legSpecBad
  rw [hgates]
  rfl

end

section
variable {s t : State} {f : Fetched} {q : Nat} {only : Nat → Bool} (hw : s.tablesWf = true) (hs : serving s = true) (hr : qRuns (queueAt q s) = true)
  (hhead : headDesc (queueAt q s) s.clock.fclk = some f) (honly : only (dOp f.words) = true) (hst : qStanding (queueAt q s) = false) (hl : ∀ o ∈ s.ops, o.id ≠ ⟨q, f.slot, 0⟩)
include hw hs hr hhead honly hst hl

theorem startApply_started (hdec : f.decoded = some 0#8) (hring : dRingLeg f.words = 0) (hready : startReady q f.words s = true) (hopen : startOpen q f.words s = true) :
    let t := startApply only q s
    Started q f.slot 0 f.words s t ∧ TriggerTaken f.words (opMembers (queueAt q s) f.words s) (dTrigTake f.words) s t ∧ (queueAt q t).nextStart = (f.slot + 1) % queueSize (queueAt q s)
      ∧ (∀ x ∈ (queueAt q t).fetched, x.slot ≠ f.slot) ∧ (∀ r, r ≠ q → queueAt r t = queueAt r s) ∧ OnlyChanges [.found, .clock, .ops, .queues, .tallies, .regs, .setNow] s t := by
  obtain ⟨hqw, -⟩ := queues_wf hw
  have htaken := trigTake_taken (d := f.words) (take := dTrigTake f.words) (tally_wf hw) (opMembers_nodup (d := f.words) (s := s) (v := queueAt q s))
  obtain ⟨T, hT⟩ := trigTake_eq (d := f.words) (members := opMembers (queueAt q s) f.words s) (take := dTrigTake f.words) (s := s)
  rw [hT] at htaken
  rw [startApply_starts hs hr hhead honly hst hdec hready hopen, hT, passSlot_eq]
  have hself : queueAt q (startState q (passedQueue f.slot (queueAt q s)) T s) = passedQueue f.slot (queueAt q s) := queueAt_startState hqw
  have hothers (r : Nat) (hr : r ≠ q) : queueAt r (startState q (passedQueue f.slot (queueAt q s)) T s) = queueAt r s := queueAt_startState_ne hr
  have hmem := opMembers_startState (d := f.words) (T := T) (v := passedQueue f.slot (queueAt q s)) hqw rfl
  have hframe : OnlyChanges [.queues, .tallies] s (startState q (passedQueue f.slot (queueAt q s)) T s) := startState_frame (.refl s)
  obtain ⟨hops, htransit, htallies⟩ : (startState q (passedQueue f.slot (queueAt q s)) T s).ops = s.ops ∧ (startState q (passedQueue f.slot (queueAt q s)) T s).clock.transit = s.clock.transit
      ∧ (startState q (passedQueue f.slot (queueAt q s)) T s).tabs.tallies = T := ⟨rfl, rfl, rfl⟩
  generalize startState q (passedQueue f.slot (queueAt q s)) T s = x at hself hothers hmem hframe hops htransit htallies ⊢
  obtain ⟨hstarted, hf⟩ := startOp_started (gated := stepGated (queueAt q s) f.words 0 s) hl hops hmem htransit hring
  generalize startOp q f.slot 0 f.words (stepGated (queueAt q s) f.words 0 s) x = t at hstarted hf ⊢
  have hqa (r : Nat) : queueAt r t = queueAt r x := congrArg (tget QueueSt.idle r) (hf .queues (by decide))
  have htt : t.tabs.tallies = T := (hf .tallies (by decide)).trans htallies
  refine ⟨hstarted, fun n j hj => ?_, ?_, fun y hy => ?_, fun r hr => (hqa r).trans (hothers r hr), (hframe.mono (by decide)).trans (hf.mono (by decide))⟩
  · exact (congrArg (tget 0#32 (tallyKey n j)) htt).trans (htaken n j hj)
  · rw [hqa, hself]
    rfl
  · rw [hqa, hself] at hy
    exact bne_iff_ne.mp (List.mem_filter.mp hy).2

theorem startApply_failed {k : BitVec 8} (hdec : f.decoded = some k) (hk : k ≠ 0#8) : let t := startApply only q s
    (∃ o : Op, t.ops = s.ops ++ [o] ∧ o.id = ⟨q, f.slot, 0⟩ ∧ o.fail = some (k, s.clock.transit)) ∧ t.tabs = s.tabs ∧ (queueAt q t).nextStart = (f.slot + 1) % queueSize (queueAt q s) := by
  rw [startApply_fails hs hr hhead honly hst hdec hk]
  have hself : queueAt q (passSlot q f.slot s) = passedQueue f.slot (queueAt q s) := queueAt_setQueue_self (queues_wf hw).1
  obtain ⟨hops, htransit, htabs'⟩ : (passSlot q f.slot s).ops = s.ops ∧ (passSlot q f.slot s).clock.transit = s.clock.transit ∧ (passSlot q f.slot s).tabs = s.tabs := ⟨rfl, rfl, rfl⟩
  generalize passSlot q f.slot s = x at hself hops htransit htabs' ⊢
  obtain ⟨⟨o, h1, h2, h3⟩, htabs, hqueues⟩ := failOp_spec (q := q) (slot := f.slot) (d := f.words) (code := k.toNat) (s := x) (hops ▸ hl)
  refine ⟨⟨o, h1.trans (by rw [hops]), h2, h3.trans ?_⟩, htabs.trans htabs', ?_⟩
  · rw [BitVec.ofNat_toNat, BitVec.setWidth_eq, htransit]
  · have hqa : queueAt q (failOp q f.slot f.words k.toNat x) = queueAt q x := congrArg (tget QueueSt.idle q) hqueues
    rw [hqa, hself]
    rfl

theorem startApply_leg (hdec : f.decoded = some 0#8) (hring : dRingLeg f.words ≠ 0) (hready : startReady q f.words s = true) (hopen : startOpen q f.words s = true) :
    let t := startApply only q s
    let tg := lgGroup f.words
    let g := groupAt tg s
    ∃ o : Op, t.ops = s.ops ++ [o] ∧ o.id = ⟨q, f.slot, 0⟩ ∧ o.d = f.words ∧
      (if g.fenced then o.fail = some (0x25#8, s.clock.transit) ∧ t.groups = s.groups
       else legSpecBad (queueAt q s) f.words s = false → dOp f.words ≠ oALLTOALL → 1 < gN g →
        (∃ l : Leg, o.leg = some l ∧ l.tgroup = tg ∧ l.seq = g.legSeq ∧ l.n = gN g ∧ l.pos = gPos g s ∧ l.attempt = 0) ∧ (groupAt tg t).legSeq = g.legSeq + 1) := by
  obtain ⟨T, hT⟩ := trigTake_eq (d := f.words) (members := opMembers (queueAt q s) f.words s) (take := dTrigTake f.words) (s := s)
  rw [startApply_starts hs hr hhead honly hst hdec hready hopen, hT, passSlot_eq]
  have hspec := legSpecBad_startState (d := f.words) (T := T) (v := passedQueue f.slot (queueAt q s)) (queues_wf hw).1 rfl
  have hgroups : (startState q (passedQueue f.slot (queueAt q s)) T s).groups = s.groups := rfl
  have hpos (g : GroupDef) : gPos g (startState q (passedQueue f.slot (queueAt q s)) T s) = gPos g s := rfl
  obtain ⟨hops, htransit⟩ : (startState q (passedQueue f.slot (queueAt q s)) T s).ops = s.ops ∧ (startState q (passedQueue f.slot (queueAt q s)) T s).clock.transit = s.clock.transit := ⟨rfl, rfl⟩
  generalize startState q (passedQueue f.slot (queueAt q s)) T s = x at hspec hgroups hpos hops htransit ⊢
  have hg : groupAt (lgGroup f.words) x = groupAt (lgGroup f.words) s := congrArg (tget GroupDef.clear (lgGroup f.words)) hgroups
  have hlx : ∀ o ∈ x.ops, o.id ≠ ⟨q, f.slot, 0⟩ := hops ▸ hl
  dsimp only
  cases hfenced : (groupAt (lgGroup f.words) s).fenced with
  | true =>
    obtain ⟨⟨o, h1, h2, h3, h4⟩, hgs⟩ := startOp_fenced (gated := stepGated (queueAt q s) f.words 0 s) hlx hring (by rw [hg, hfenced])
    exact ⟨o, h1.trans (by rw [hops]), h2, h3, (if_pos rfl).mpr ⟨h4.trans (by rw [htransit]), hgs.trans hgroups⟩⟩
  | false =>
    by_cases hgood : legSpecBad (queueAt q s) f.words s = false ∧ dOp f.words ≠ oALLTOALL ∧ 1 < gN (groupAt (lgGroup f.words) s)
    · obtain ⟨hsp, ha2a, hn⟩ := hgood
      obtain ⟨⟨o, h1, h2, h3, h4⟩, hseq⟩ := startOp_leg (gated := stepGated (queueAt q s) f.words 0 s) hlx (hgroups ▸ groups_wf hw) hring (by rw [hg, hfenced]) (hspec.trans hsp) ha2a (by rw [hg]; exact hn)
      rw [hg] at hseq
      refine ⟨o, h1.trans (by rw [hops]), h2, h3, (if_neg Bool.false_ne_true).mpr fun _ _ _ => ⟨⟨newLeg f.words x, h4, rfl, ?_, ?_, ?_, rfl⟩, hseq⟩⟩
      · exact congrArg GroupDef.legSeq hg
      · exact congrArg gN hg
      · exact (congrArg (gPos · x) hg).trans (hpos _)
    · obtain ⟨o, h1, h2, h3⟩ := startOp_last (d := f.words) (gated := stepGated (queueAt q s) f.words 0 s) hlx
      exact ⟨o, h1.trans (by rw [hops]), h2, h3, (if_neg Bool.false_ne_true).mpr fun h4 h5 h6 => absurd ⟨h4, h5, h6⟩ hgood⟩

end

section
variable {s t : State} {f : Fetched} {q slot : Nat} {only : Nat → Bool} {o : Order}

theorem startReady_of_fenced {d : List Word} (hnot : s.clock.fenced = true ∨ (dOp d = oFENCE ∧ liveOps q s ≠ 0)) : startReady q d s = false := by
  unfold startReady
  rcases hnot with h | ⟨hop, hlive⟩
  · rw [h]
    rfl
  · have hl : (dOp d != oFENCE || liveOps q s == 0) = false := by simp [hop, hlive]
    rw [hl, Bool.and_false]

/-- Nothing starts while the fabric is FENCED, and no FENCE while an earlier descriptor of its queue is live. -/
theorem startApply_kept (hs : serving s = true) (hr : qRuns (queueAt q s) = true) (hhead : headDesc (queueAt q s) s.clock.fclk = some f) (honly : only (dOp f.words) = true)
    (hdec : f.decoded = some 0#8) (hnot : s.clock.fenced = true ∨ (dOp f.words = oFENCE ∧ liveOps q s ≠ 0)) : startApply only q s = s := by
  unfold startApply
  dsimp only
  rw [if_neg (by simp [hs, hr]), hhead]
  dsimp only
  rw [honly, hdec, startReady_of_fenced hnot, if_neg (by simp), if_neg (by simp), if_pos (by simp)]

/-! ### Runs of standing orders -/

/-- The orders after one of them has begun its next run. -/
def ranOrders (q slot : Nat) (l : List Order) : List Order := l.map fun x => if x.queue == q && x.slot == slot then { x with run := x.run + 1 } else x

theorem find_ranOrders {l : List Order} (h : (l.find? fun o => o.queue == q && o.slot == slot) = some o) :
    ((ranOrders q slot l).find? fun o => o.queue == q && o.slot == slot) = some { o with run := o.run + 1 } := by
  induction l with
  | nil => simp at h
  | cons x l ih =>
    rw [ranOrders, List.map_cons]
    cases hx : x.queue == q && x.slot == slot with
    | true =>
      rw [List.find?_cons_of_pos (by exact hx)] at h
      obtain rfl : x = o := Option.some.inj h
      rw [if_pos rfl, List.find?_cons_of_pos (by exact hx)]
    | false =>
      rw [List.find?_cons_of_neg (by simp [hx])] at h
      rw [if_neg Bool.false_ne_true, List.find?_cons_of_neg (by simp [hx])]
      exact ih h

variable (hw : s.tablesWf = true) (hs : serving s = true) (hr : qRuns (queueAt q s) = true) (hst : qStanding (queueAt q s) = true)
  (ho : (s.orders.find? fun o => o.queue == q && o.slot == slot) = some o)
include hs hr hst ho

theorem standingRunApply_kept (hnot : o.unpin = true ∨ orderBusy q slot s = true) : standingRunApply q slot s = s := by
  have hstop : (o.unpin || orderBusy q slot s || !startReady q o.words s || !startOpen q o.words s) = true := by
    rcases hnot with h | h <;> simp [h]
  unfold standingRunApply
  dsimp only
  rw [if_neg (by simp [hs, hr, hst]), ho]
  exact if_pos hstop

/-- The state of a run's start: the trigger's tallies, the count of runs and the order's number have changed. -/
def runState (q slot : Nat) (v : QueueSt) (T : Table Word) (s : State) : State := startState q v T { s with orders := ranOrders q slot s.orders }

theorem standingRunApply_runs (hun : o.unpin = false) (hbusy : orderBusy q slot s = false) (hready : startReady q o.words s = true) (hopen : startOpen q o.words s = true) {T : Table Word}
    (hT : trigTake o.words (opMembers (queueAt q s) o.words s) true s = { s with tabs := { s.tabs with tallies := T } }) :
    standingRunApply q slot s = startOp q slot o.run o.words (stepGated (queueAt q s) o.words 0 s) (runState q slot { queueAt q s with runs := (queueAt q s).runs + 1 } T s) := by
  unfold standingRunApply
  dsimp only
  rw [if_neg (by simp [hs, hr, hst]), ho]
  dsimp only
  rw [if_neg (by simp [hun, hbusy, hready, hopen]), hT]
  rfl

include hw
theorem standingRunApply_started (hl : ∀ x ∈ s.ops, x.id ≠ ⟨q, slot, o.run⟩) (hun : o.unpin = false) (hbusy : orderBusy q slot s = false) (hring : dRingLeg o.words = 0)
    (hready : startReady q o.words s = true) (hopen : startOpen q o.words s = true) : let t := standingRunApply q slot s
    Started q slot o.run o.words s t ∧ TriggerTaken o.words (opMembers (queueAt q s) o.words s) true s t ∧ (queueAt q t).runs = (queueAt q s).runs + 1
      ∧ (t.orders.find? fun o => o.queue == q && o.slot == slot) = some { o with run := o.run + 1 }
      ∧ OnlyChanges [.found, .clock, .ops, .queues, .orders, .tallies, .regs, .setNow] s t := by
  obtain ⟨hqw, -⟩ := queues_wf hw
  have htaken := trigTake_taken (d := o.words) (take := true) (tally_wf hw) (opMembers_nodup (d := o.words) (s := s) (v := queueAt q s))
  obtain ⟨T, hT⟩ := trigTake_eq (d := o.words) (members := opMembers (queueAt q s) o.words s) (take := true) (s := s)
  rw [standingRunApply_runs hs hr hst ho hun hbusy hready hopen hT]
  rw [hT] at htaken
  have hself : queueAt q (runState q slot { queueAt q s with runs := (queueAt q s).runs + 1 } T s) = { queueAt q s with runs := (queueAt q s).runs + 1 } := queueAt_startState (s := { s with orders := ranOrders q slot s.orders }) hqw
  have hmem : opMembers (queueAt q (runState q slot { queueAt q s with runs := (queueAt q s).runs + 1 } T s)) o.words (runState q slot { queueAt q s with runs := (queueAt q s).runs + 1 } T s) = opMembers (queueAt q s) o.words s :=
    opMembers_startState (d := o.words) (T := T) (v := { queueAt q s with runs := (queueAt q s).runs + 1 }) (s := { s with orders := ranOrders q slot s.orders }) hqw rfl
  have hframe : OnlyChanges [.queues, .tallies, .orders] s (runState q slot { queueAt q s with runs := (queueAt q s).runs + 1 } T s) :=
    startState_frame (OnlyChanges.next (ps := [.queues, .tallies, .orders]) (.refl s) fun p hp => by cases p <;> simp [Part.same] at hp ⊢)
  obtain ⟨hops, htransit, htallies, horders⟩ : (runState q slot { queueAt q s with runs := (queueAt q s).runs + 1 } T s).ops = s.ops
      ∧ (runState q slot { queueAt q s with runs := (queueAt q s).runs + 1 } T s).clock.transit = s.clock.transit
      ∧ (runState q slot { queueAt q s with runs := (queueAt q s).runs + 1 } T s).tabs.tallies = T
      ∧ (runState q slot { queueAt q s with runs := (queueAt q s).runs + 1 } T s).orders = ranOrders q slot s.orders := ⟨rfl, rfl, rfl, rfl⟩
  generalize runState q slot { queueAt q s with runs := (queueAt q s).runs + 1 } T s = x at hself hmem hframe hops htransit htallies horders ⊢
  obtain ⟨hstarted, hf⟩ := startOp_started (gated := stepGated (queueAt q s) o.words 0 s) hl hops hmem htransit hring
  generalize startOp q slot o.run o.words (stepGated (queueAt q s) o.words 0 s) x = t at hstarted hf ⊢
  have hqa : queueAt q t = queueAt q x := congrArg (tget QueueSt.idle q) (hf .queues (by decide))
  have htt : t.tabs.tallies = T := (hf .tallies (by decide)).trans htallies
  have hto : t.orders = ranOrders q slot s.orders := (hf .orders (by decide)).trans horders
  refine ⟨hstarted, fun n j hj => (congrArg (tget 0#32 (tallyKey n j)) htt).trans (htaken n j hj), ?_, ?_, (hframe.mono (by decide)).trans (hf.mono (by decide))⟩
  · rw [hqa, hself]
  · rw [hto]
    exact find_ranOrders ho

end

theorem descriptorStarts : Claims.DescriptorStarts := by
  intro q f c s hw hs hr hhead hc happ hl
  have hanswer {P : State → Prop} (h : ∀ (only : Nat → Bool), only (dOp f.words) = true → ∀ q', P (startApply only q (withReached q' s))) : Answers c s P := by
    rcases hc with rfl | ⟨rfl, hop⟩ | ⟨rfl, hop⟩
    · exact answers_next rfl rfl happ fun q' => h _ rfl q'
    · exact answers_next rfl rfl happ fun q' => h (fun o => o == oBARRIER) (beq_iff_eq.mpr hop) q'
    · exact answers_next rfl rfl happ fun q' => h (fun o => o == oFENCE) (beq_iff_eq.mpr hop) q'
  dsimp only
  refine ⟨fun hdec hst hring hready hopen => hanswer fun only honly q' => ?_, fun k hdec hk hst => hanswer fun only honly q' => ?_,
    fun hdec hst hring hready hopen => hanswer fun only honly q' => ?_, fun hdec hnot => ?_⟩
  · obtain ⟨h1, h2, h3, h4, h5, h6⟩ := startApply_started (s := withReached q' s) hw hs hr hhead honly hst hl hdec hring hready hopen
    exact ⟨h1, h2, h3, h4, h5, withReached_frame (h6.mono (by decide))⟩
  · exact startApply_failed (s := withReached q' s) hw hs hr hhead honly hst hl hdec hk
  · exact startApply_leg (s := withReached q' s) hw hs hr hhead honly hst hl hdec hring hready hopen
  · refine hanswer fun only honly q' => ?_
    rw [startApply_kept (s := withReached q' s) hs hr hhead honly hdec hnot]
    exact withReached_frame (.refl _)

theorem standingRuns : Claims.StandingRuns := by
  intro q slot o s hw hs hr hst ho happ hl
  refine ⟨fun hun hbusy hring hready hopen => answers_next rfl rfl happ fun q' => ?_, fun hnot => answers_next rfl rfl happ fun q' => ?_⟩
  · obtain ⟨h1, h2, h3, h4, h5⟩ := standingRunApply_started (s := withReached q' s) hw hs hr hst ho hl hun hbusy hring hready hopen
    exact ⟨h1, h2, h3, h4, withReached_frame (h5.mono (by decide))⟩
  · rw [standingRunApply_kept (s := withReached q' s) hs hr hst ho hnot]
    exact withReached_frame (.refl _)

/-- Settles O33: a head descriptor, a ring leg and a pinned order start as their trigger, window and bounds let them. -/
theorem operationsStart : Obligations.OperationsStart := ⟨descriptorStarts, standingRuns⟩

end Sys2Proof.Machine
end

section
/-! PROOF. A frame that waits on a channel and is neither DATA nor CONTROL (R300, R419). -/

namespace Sys2Proof.Machine

-- The inclusions that frames ask for are auto parameters, whose code is compiled: with proofs elaborated in order no thread waits for it.
set_option Elab.async false

/-- A port whose channel 3 holds a HEARTBEAT frame, with an injection of kind 4 armed whose occasion has come. -/
def heartbeatWaits : State :=
  let r := State.resetOf ⟨4, 1, 1, 1, false, 0, 1⟩
  { r with
    clock := { r.clock with rstN := true, phase := 8 }
    regs := [(rINJECT, 0x80000004#32)]
    injected := some 0x80000004#32
    links := [(0, { Link.down with state := 2, credit := [8, 8, 8, 8], cap := [8, 8, 8, 8], txq := [[], [], [], [⟨fkHEARTBEAT, 0, false, 0, []⟩]] })] }

theorem heartbeatWaits_ready : heartbeatWaits.allWf = true ∧ heartbeatWaits.clock.due = [] ∧ hasPort 0 heartbeatWaits = true ∧ txFree 0 0 heartbeatWaits = true ∧ (linkAt 0 heartbeatWaits).retx = []
    ∧ vcReady 0 3 (heartbeatWaits.clock.fclk + 0) heartbeatWaits = true ∧ injects 4 0 heartbeatWaits = true := by decide +kernel

/-- The frame leaves as it is: an injection fires with a DATA or a CONTROL flit only, and this one stays armed. -/
theorem heartbeatWaits_keepsInjection : (match exec (.flitTransmit 0 0) heartbeatWaits with | .next t => reg rINJECT_COUNT t == 0#32 | _ => false) = true := by decide +kernel

theorem heartbeatWaits_count : reg rINJECT_COUNT heartbeatWaits = 0#32 := by decide +kernel

/-- Refutes O46: a channel may hold a frame that is neither DATA nor CONTROL, and with such a frame an armed injection does not fire. -/
theorem not_linksSend : ¬ Obligations.LinksSend := by
  rintro ⟨-, -, h⟩
  obtain ⟨hw, hdue, hport, hfree, hretx, hready, hinj⟩ := heartbeatWaits_ready
  obtain ⟨-, -, hfires, -⟩ := h 0 0 heartbeatWaits hw hdue hport (by decide) hfree
  obtain ⟨t, he, -, -, hcount, -⟩ := hfires hretx ⟨3, by decide, hready⟩ hinj
  have hkept := heartbeatWaits_keepsInjection
  rw [he] at hkept
  rw [heartbeatWaits_count] at hcount
  have hone : reg rINJECT_COUNT t = 1#32 := hcount.trans (by decide)
  simp [hone] at hkept

end Sys2Proof.Machine
end

section
/-! PROOF. A recall that saturates its counter (R390, R417). -/

namespace Sys2Proof.Machine

-- The inclusions that frames ask for are auto parameters, whose code is compiled: with proofs elaborated in order no thread waits for it.
set_option Elab.async false

/-- A block in service, whose counter of recalls is one short of its greatest value. -/
def recallsNearFull : State :=
  let r := State.resetOf ⟨4, 1, 1, 1, false, 0, 1⟩
  { r with
    clock := { r.clock with rstN := true, phase := 8 }
    regs := [(rPERF pcRecalls, 0xFFFFFFFE#32)] }

/-- An ALLREDUCE on die whose speculative output has missed, so that a recall is due. -/
def recallDueOp : Op :=
  let o := newOp 0 0 0 [BitVec.ofNat 32 oALLREDUCE] false recallsNearFull
  { o with eg := { o.eg with recallDue := true } }

def recallSaturates : State := { recallsNearFull with ops := [recallDueOp] }

theorem recallSaturates_ready : recallSaturates.allWf = true ∧ alive recallSaturates = true ∧ opAt ⟨0, 0, 0⟩ recallSaturates = some recallDueOp ∧ runs recallDueOp = true
    ∧ isClosing (dOp recallDueOp.d) = true ∧ recallDueOp.leg = none ∧ recallDueOp.eg.recallDue = true ∧ applies (.recallOp ⟨0, 0, 0⟩ 0) recallSaturates = true := by decide +kernel

/-- The counter reaches its greatest value, which raises the PERF page's cause in this transit. -/
theorem recallSaturates_raises : (match exec (.recallOp ⟨0, 0, 0⟩ 0) recallSaturates with | .next t => t.setNow != recallSaturates.setNow | _ => false) = true := by decide +kernel

/-- Refutes O44: a recall counts in its performance counter, and where that saturates, its page's cause is noted among the bits that events of the transit have set, beside the pieces of state that the statement lets change. -/
theorem not_earlyAndSpeculativeOutput : ¬ Obligations.EarlyAndSpeculativeOutput := by
  rintro ⟨-, h⟩
  obtain ⟨hw, ha, ho, hr, hclosing, hleg, hdue, happ⟩ := recallSaturates_ready
  obtain ⟨-, hrecall, -⟩ := h ⟨0, 0, 0⟩ 0 recallDueOp recallSaturates hw ha ho hr hclosing hleg
  obtain ⟨t, he, -, -, hframe⟩ := hrecall hdue happ
  have hkept : t.setNow = recallSaturates.setNow := hframe .setNow (by decide)
  have hraises := recallSaturates_raises
  rw [he] at hraises
  simp [hkept] at hraises

end Sys2Proof.Machine
end

section
/-! PROOF. A ring step that starts while an older one of its number stands among the leg's steps (R285, R419). -/

namespace Sys2Proof.Machine

-- The inclusions that frames ask for are auto parameters, whose code is compiled: with proofs elaborated in order no thread waits for it.
set_option Elab.async false

/-- A block in service with two ring ports, of which port 0 leads to the neighbour and is UP, and an injection of kind 3 armed for it, whose occasion has come. -/
def injectionArmed : State :=
  let r := State.resetOf ⟨4, 1, 2, 1, false, 0, 1⟩
  let s := { r with
    clock := { r.clock with rstN := true, phase := 9, fabReady := true }
    injected := some 0x80000003#32
    links := [(0, { Link.down with state := 2 })]
    ledgers := [(0, { Ledger.free with state := 2, count := 128, planes := 1 })] }
  setReg (rPORTMAP 0) 0x4#32 (setReg rCFG_STATUS 0x900#32 (setReg rINJECT 0x80000003#32 s))

/-- The leg of a ring of two; a step of the same number and direction, left over on port 1, stands among its steps. -/
def leftoverLeg : Leg :=
  { (default : Leg) with n := 2, tx := [{ (default : TxStep) with step := 1, port := 1 }] }

/-- An ALLREDUCE of 128 elements whose contribution is done. -/
def leftoverOp : Op :=
  { newOp 0 0 0 [BitVec.ofNat 32 oALLREDUCE] false injectionArmed with claim := .claimed, leg := some leftoverLeg, added := true, foldDone := true }

def leftoverStep : State := { injectionArmed with ops := [leftoverOp] }

theorem leftoverStep_ready : leftoverStep.allWf = true ∧ alive leftoverStep = true ∧ opAt ⟨0, 0, 0⟩ leftoverStep = some leftoverOp ∧ LegRuns leftoverOp leftoverLeg
    ∧ sendPort (groupAt leftoverLeg.tgroup leftoverStep) false leftoverStep = some 0 ∧ applies (.ringStepStart ⟨0, 0, 0⟩ false 1 0) leftoverStep = true ∧ isClosing (dOp leftoverOp.d) = true
    ∧ StepFree leftoverOp leftoverLeg 0 1 leftoverStep ∧ rsChunks leftoverOp (ledgerAt (dLedger leftoverOp.d) leftoverStep) leftoverLeg (rsOut leftoverLeg.pos 1 leftoverLeg.n false) false ≠ 0
    ∧ localDone leftoverOp = true ∧ (dirNat false, 1) ∉ leftoverLeg.started ∧ injects 3 0 leftoverStep = true ∧ reg rINJECT_COUNT leftoverStep = 0#32 := by
  unfold LegRuns StepFree
  decide +kernel

/-- The first chunk goes to the step left over, at a port that the injection does not name: it stays armed. -/
theorem leftoverStep_keepsInjection : (match exec (.ringStepStart ⟨0, 0, 0⟩ false 1 0) leftoverStep with | .next t => reg rINJECT_COUNT t == 0#32 | _ => false) = true := by decide +kernel

/-- Refutes O48: where a step of the same number and direction stands among the leg's steps, the new step's first chunk is given to that one, and the injection that waits at the new step's port does not fire. -/
theorem not_ringStepsRun : ¬ Obligations.RingStepsRun := by
  rintro ⟨h, -⟩
  obtain ⟨hw, ha, ho, hlegruns, hport, happ, hclosing, hfree, hchunks, hdone, hstarted, hinj, hcount0⟩ := leftoverStep_ready
  obtain ⟨hstarts, -, -⟩ := h ⟨0, 0, 0⟩ false 1 0 0 leftoverOp leftoverLeg leftoverStep hw ha ho hlegruns hport (by decide)
  obtain ⟨t, he, -, hfires, -⟩ := hstarts happ hclosing (by decide) (by decide) hfree hchunks hdone hstarted
  obtain ⟨hcount, -, -⟩ := hfires hinj
  have hkept := leftoverStep_keepsInjection
  rw [he] at hkept
  rw [hcount0] at hcount
  have hone : reg rINJECT_COUNT t = 1#32 := hcount.trans (by decide)
  simp [hone] at hkept

end Sys2Proof.Machine
end

section
/-! PROOF. Two operations of one name: the beat that the exchange picks is the other one's (R14, R445). -/

namespace Sys2Proof.Machine

-- The inclusions that frames ask for are auto parameters, whose code is compiled: with proofs elaborated in order no thread waits for it.
set_option Elab.async false

/-- A BROADCAST of one element from this root, of which stall 1 has presented its beat. -/
def beatOfStall1 (root : Nat) (s : State) : Op :=
  { newOp 0 0 0 [BitVec.ofNat 32 oBROADCAST, 0, 0, 1, 0, 0, BitVec.ofNat 32 (root * 2 ^ 16)] false s with
    claim := .claimed, members := [root], planes := 1, beats := [(beatKey 1 0 0, some ⟨0#512, 0#32⟩)] }

def oneNameTwice : State :=
  let r := State.resetOf ⟨4, 1, 1, 1, false, 0, 1⟩
  let s := { r with clock := { r.clock with rstN := true, phase := 9, fabReady := true } }
  { s with ops := [beatOfStall1 0 s, beatOfStall1 1 s] }

/-- The operation that the name gives: stall 1, whose beat waits, is not its root. -/
def firstOfName : Op := beatOfStall1 0 { oneNameTwice with ops := [] }

theorem oneNameTwice_ready : oneNameTwice.allWf = true ∧ serving oneNameTwice = true ∧ oneNameTwice.clock.due = [] ∧ opAt ⟨0, 0, 0⟩ oneNameTwice = some firstOfName ∧ runs firstOfName = true
    ∧ firstOfName.claim = .claimed ∧ firstOfName.leg = none ∧ planesOf firstOfName.planes = [0] ∧ dOp firstOfName.d = oBROADCAST ∧ firstOfName.eg.ended = false
    ∧ copyWaits firstOfName 0 1 = [(0, 0)] ∧ exchPick 0 (oneNameTwice.clock.fclk + 0) oneNameTwice = some ⟨⟨0, 0, 0⟩, 0, 1⟩ ∧ firstOfName.passed = [] := by decide +kernel

/-- The beat of the other operation of the name passes nothing here. -/
theorem oneNameTwice_keepsPassed : (match exec (.broadcast ⟨0, 0, 0⟩ 0) oneNameTwice with | .next t => (opAt ⟨0, 0, 0⟩ t).all fun o => o.passed == [] | _ => false) = true := by decide +kernel

/-- Refutes O37: where two operations bear one name, the exchange may pick the beat of a member that the first of them does not have, and then none passes. -/
theorem not_sumsAccumulate : ¬ Obligations.SumsAccumulate := by
  rintro ⟨-, h, -⟩
  obtain ⟨hw, hserv, hdue, ho, hr, hclaim, hleg, hplane, hop, hended, hwaits, hpick, hpassed⟩ := oneNameTwice_ready
  obtain ⟨hmine, -⟩ := h ⟨0, 0, 0⟩ 0 0 (.broadcast ⟨0, 0, 0⟩ 0) firstOfName ⟨⟨0, 0, 0⟩, 0, 1⟩ (0, 0) [] oneNameTwice hw hserv hdue ho hr hclaim hleg hplane
    (.inl ⟨.inl ⟨rfl, hop⟩, hended, hwaits.symm⟩) hpick
  obtain ⟨t, he, ⟨o', ho', hpass, -⟩, -, -⟩ := hmine rfl
  have hkept := oneNameTwice_keepsPassed
  rw [he] at hkept
  have hnone : o'.passed = [] := by simpa [ho'] using hkept
  rw [hnone, hpassed] at hpass
  exact absurd hpass (by simp [tset])

end Sys2Proof.Machine
end

section
/-! PROOF. A step of an ALLTOALL that a fired injection still inverts (R290, R419). -/

namespace Sys2Proof.Machine

-- The inclusions that frames ask for are auto parameters, whose code is compiled: with proofs elaborated in order no thread waits for it.
set_option Elab.async false

/-- A step whose current chunk an injection has struck, with nothing of it left to go. -/
def invertedStep : TxStep := { (default : TxStep) with step := 1, hit := true }

/-- A ring of two whose table gives 16 elements to the other position. -/
def invertedLeg : Leg := { (default : Leg) with n := 2, tx := [invertedStep], sizes := [0, 0, 0, 0, 0, 16, 0, 0] }

def inService : State :=
  let r := State.resetOf ⟨4, 1, 1, 1, false, 0, 1⟩
  { r with clock := { r.clock with rstN := true, phase := 9, fabReady := true } }

/-- An ALLTOALL of one beat of 16 binary32 elements, which has come and passed the exchange. -/
def invertedOp : Op :=
  { newOp 0 0 0 [BitVec.ofNat 32 (oALLTOALL + 7 * 2 ^ 16 + 7 * 2 ^ 21), 0, 0, 16] false inService with
    claim := .claimed, members := [0], planes := 1, leg := some invertedLeg, beats := [(beatKey 0 0 0, some ⟨0#512, 0#32⟩)], passed := [(beatKey 0 0 0, 1)] }

def invertedState : State := { inService with ops := [invertedOp] }

/-- What the other position is to receive. -/
def invertedWire : List Byte :=
  ((a2aPieces invertedLeg false).map fun j => imageWire (legHdr invertedLeg kA2A false 5 j invertedLeg.pos 1)
    (localImage invertedOp (a2aEntry invertedLeg j 0) (a2aEntry invertedLeg j 0 + a2aEntry invertedLeg j 1))).flatten

theorem invertedState_ready : A2aReady ⟨0, 0, 0⟩ invertedOp invertedLeg invertedState := by
  unfold A2aReady
  decide +kernel

theorem invertedStep_ready : allBeats invertedOp = true ∧ a2aEntry invertedLeg invertedLeg.pos 1 = 0 ∧ findTx invertedLeg false 1 = some invertedStep
    ∧ (linkAt 0 invertedState).txq.length = 4 ∧ stepPayload 0 0 invertedState = [] ∧ injects 3 0 invertedState = false ∧ a2aPieces invertedLeg false ≠ [] := by decide +kernel

/-- The bytes that go out are not those of the chunk: its payload is inverted. -/
theorem invertedState_sends : (match exec (.alltoall ⟨0, 0, 0⟩ 0) invertedState with | .next t => decide ((stepPayload 0 0 t).take invertedWire.length = invertedWire) | _ => true) = false := by
  decide +kernel

/-- Refutes O41: a step that an injection has struck keeps its mark where no byte of the chunk was left to go, and the next chunk goes out inverted. -/
theorem not_tablesAndAreas : ¬ Obligations.TablesAndAreas := by
  rintro ⟨-, h, -⟩
  obtain ⟨hbeats, hnone, hfind, hqueues, hpayload, hinj, hpieces⟩ := invertedStep_ready
  obtain ⟨-, hfeed, -⟩ := h ⟨0, 0, 0⟩ 0 invertedOp invertedLeg invertedState invertedState_ready
  have honly : ∀ y ∈ invertedLeg.tx, y.port = invertedStep.port → y.sid = invertedStep.sid → y = invertedStep := fun y hy _ _ => List.mem_singleton.mp hy
  obtain ⟨t, he, -, hwire, -⟩ := hfeed false invertedStep hbeats (.inr hnone) hfind rfl rfl rfl rfl rfl honly hqueues hpayload hinj hpieces
  have hsent := invertedState_sends
  rw [he] at hsent
  exact of_decide_eq_false hsent hwire

end Sys2Proof.Machine
end

section
/-! PROOF. Packed beats: what an element of a packed beat reads (R28, R19). -/

namespace Sys2Proof.Machine

/-! ### Widths -/

theorem fmtWidth_cases (f : Fmt) : fmtWidth f = 4 ∨ fmtWidth f = 8 ∨ fmtWidth f = 16 ∨ fmtWidth f = 32 ∨ fmtWidth f = 64 := by
  unfold fmtWidth
  split <;> simp

theorem fmtWidth_pos (f : Fmt) : 0 < fmtWidth f := by rcases fmtWidth_cases f with h | h | h | h | h <;> omega

/-- A beat is filled by its elements. -/
theorem fmtWidth_perBeat (f : Fmt) : fmtWidth f * perBeat f = 512 := by
  unfold perBeat
  rcases fmtWidth_cases f with h | h | h | h | h <;> rw [h]

theorem perBeat_pos (f : Fmt) : 0 < perBeat f := by
  have h := fmtWidth_perBeat f
  exact Nat.pos_of_ne_zero fun h0 => by simp [h0] at h

/-- A chunk holds 64 beats. -/
theorem perChunk_eq (f : Fmt) : perChunk f = 64 * perBeat f := by
  unfold perChunk perBeat
  rcases fmtWidth_cases f with h | h | h | h | h <;> rw [h]

/-! ### Packed codes -/

/-- The first k codes, each in its own field of w bits. -/
def packed (w : Nat) (c : Nat → Nat) : Nat → Nat
  | 0 => 0
  | k + 1 => packed w c k + (c k % 2 ^ w) <<< (w * k)

theorem packed_lt (w : Nat) (c : Nat → Nat) (k : Nat) : packed w c k < 2 ^ (w * k) := by
  induction k with
  | zero => exact Nat.one_pos
  | succ k ih =>
    have hc : c k % 2 ^ w + 1 ≤ 2 ^ w := Nat.mod_lt _ (Nat.two_pow_pos w)
    calc packed w c k + (c k % 2 ^ w) <<< (w * k) < 2 ^ (w * k) + c k % 2 ^ w * 2 ^ (w * k) := by rw [Nat.shiftLeft_eq]; omega
      _ = (c k % 2 ^ w + 1) * 2 ^ (w * k) := by ring
      _ ≤ 2 ^ w * 2 ^ (w * k) := Nat.mul_le_mul_right _ hc
      _ = 2 ^ (w * (k + 1)) := by rw [← pow_add]; congr 1; ring

theorem bitsAt_packed {w k i : Nat} {c : Nat → Nat} (hi : i < k) : bitsAt (packed w c k) (w * i) w = c i % 2 ^ w := by
  induction k with
  | zero => omega
  | succ k ih =>
    rw [bitsAt, packed, Nat.shiftRight_eq_div_pow, Nat.shiftLeft_eq]
    rcases Nat.lt_succ_iff_lt_or_eq.mp hi with hlt | rfl
    · have hsplit : w * k = w * i + w + w * (k - i - 1) := by
        obtain ⟨j, rfl⟩ := Nat.exists_eq_add_of_lt hlt
        rw [show i + j + 1 - i - 1 = j by omega]
        ring
      have hfield : c k % 2 ^ w * 2 ^ (w * k) = 2 ^ (w * i) * (2 ^ w * (c k % 2 ^ w * 2 ^ (w * (k - i - 1)))) := by
        rw [hsplit, pow_add, pow_add]
        ring
      rw [hfield, Nat.add_mul_div_left _ _ (Nat.two_pow_pos _), Nat.add_mul_mod_self_left, ← Nat.shiftRight_eq_div_pow]
      exact ih hlt
    · rw [Nat.add_mul_div_right _ _ (Nat.two_pow_pos _), Nat.div_eq_of_lt (packed_lt w c i), Nat.zero_add, Nat.mod_mod]

theorem packed_congr {w k : Nat} {c c' : Nat → Nat} (h : ∀ i, i < k → c i = c' i) : packed w c k = packed w c' k := by
  induction k with
  | zero => rfl
  | succ k ih => rw [packed, packed, ih fun i hi => h i (by omega), h k (by omega)]

/-- Codes summed in their fields one after the other. -/
theorem foldl_packed (w : Nat) (c : Nat → Nat) (k : Nat) : (List.range k).foldl (fun acc i => acc + (c i % 2 ^ w) <<< (w * i)) 0 = packed w c k := by
  induction k with
  | zero => rfl
  | succ k ih => rw [List.range_succ, List.foldl_concat, ih, packed]

/-- The codes of the elements of beat n that lie within [lo, hi), and 0 elsewhere. -/
def codeWithin (code : Nat → Nat) (lo hi e : Nat) : Nat := if lo ≤ e ∧ e < hi then code e else 0

theorem packBeat_eq {f : Fmt} {code : Nat → Nat} {lo hi n : Nat} :
    packBeat f code lo hi n = BitVec.ofNat 512 (packed (fmtWidth f) (fun i => codeWithin code lo hi (n * perBeat f + i)) (perBeat f)) := by
  rw [packBeat, ← foldl_packed]
  congr 2
  funext acc i
  by_cases h : lo ≤ n * perBeat f + i ∧ n * perBeat f + i < hi <;> simp [codeWithin, h]

theorem packBeat_toNat {f : Fmt} {code : Nat → Nat} {lo hi n : Nat} :
    (packBeat f code lo hi n).toNat = packed (fmtWidth f) (fun i => codeWithin code lo hi (n * perBeat f + i)) (perBeat f) := by
  rw [packBeat_eq, BitVec.toNat_ofNat, ← fmtWidth_perBeat f]
  exact Nat.mod_eq_of_lt (packed_lt ..)

/-- A packed beat reads the code of each of its elements. -/
theorem beatElem_packBeat {f : Fmt} {code : Nat → Nat} {lo hi n i : Nat} (hi' : i < perBeat f) (hlo : lo ≤ n * perBeat f + i) (hhi : n * perBeat f + i < hi) :
    beatElem f (packBeat f code lo hi n) i = code (n * perBeat f + i) % 2 ^ fmtWidth f := by
  rw [beatElem, packBeat_toNat, bitsAt_packed hi', codeWithin, if_pos ⟨hlo, hhi⟩]

/-- What a beat reads fits its width. -/
theorem beatElem_mod {f : Fmt} {x : BitVec 512} {i : Nat} : beatElem f x i % 2 ^ fmtWidth f = beatElem f x i := Nat.mod_mod _ _

end Sys2Proof.Machine
end

section
/-! PROOF. BROADCAST and ALLGATHER give their members' elements unchanged to the crier (R20, R247, R258). -/

namespace Sys2Proof.Machine

-- The inclusions that frames ask for are auto parameters, whose code is compiled: with proofs elaborated in order no thread waits for it.
set_option Elab.async false

section
variable {s t : State} {o : Op} {id : OpId} {code : Nat} {f : State → State}

/-- A row acts on a running operation of its code. -/
theorem ofOp_eq (ha : alive s = true) (ho : opAt id s = some o) (hr : runs o = true) (hop : dOp o.d = code) : ofOp code id f s = f s := by
  rw [ofOp, withRunning_eq ha ho hr, if_pos (by simp [hop])]

end

/-! ### The beats of a contribution of one limb stream -/

section
variable {a b n : Nat}

theorem lt_ceilDiv (hb : 0 < b) : n < ceilDiv a b ↔ n * b < a := by
  rw [ceilDiv, Nat.lt_iff_add_one_le, Nat.le_div_iff_mul_le hb, Nat.add_mul]
  omega

variable {d : List Word} {c e : Nat}

theorem chunkInStream_of_lt (h : c < streamChunks d) : chunkInStream d c = c := by
  rw [chunkInStream, Nat.mod_eq_of_lt (by omega)]

theorem upChunks_one (hc : hasContrib d = true) (hl : limbsOf d = 1) : upChunks d = streamChunks d := by rw [upChunks, if_pos hc, hl, Nat.one_mul]

/-- Beat n of a contribution is beat n % 64 of its chunk n / 64. -/
theorem beat_exists (hc : hasContrib d = true) (hl : limbsOf d = 1) (hn : n * perBeat (dInFmt d) < dCount d) :
    n / 64 < upChunks d ∧ n % 64 < chunkBeats d (n / 64) := by
  have hb := perBeat_pos (dInFmt d)
  generalize hB : perBeat (dInFmt d) = b at hn hb
  have hsplit : n * b = n / 64 * (64 * b) + n % 64 * b := by
    conv_lhs => rw [← Nat.div_add_mod n 64]
    ring
  have hchunk : n / 64 < streamChunks d := by
    rw [streamChunks, perChunk_eq, hB, lt_ceilDiv (by omega)]
    omega
  refine ⟨by rwa [upChunks_one hc hl], ?_⟩
  rw [chunkBeats, chunkElems, chunkInStream_of_lt hchunk, perChunk_eq, hB, lt_ceilDiv hb]
  have hlt : n % 64 * b < 64 * b := Nat.mul_lt_mul_of_pos_right (Nat.mod_lt _ (by omega)) hb
  omega

/-- The beat and the place in it of an element. -/
theorem elem_place (he : e < dCount d) : e / perBeat (dInFmt d) * perBeat (dInFmt d) < dCount d :=
  Nat.lt_of_le_of_lt (Nat.div_mul_le_self _ _) he

end

/-! ### Beats that have passed -/

section
variable {s : State} {o : Op} {id : OpId} {p t n c b : Nat}

theorem beat_of_allBeats (h : allBeats o = true) (hn : n ∈ contributors o) (hc : c < upChunks o.d) (hb : b < chunkBeats o.d c) :
    ∃ x, beatOfOp o n c b = some x ∧ beatPassed o n c b = true := by
  have hx := List.all_eq_true.mp (List.all_eq_true.mp (List.all_eq_true.mp h n hn) c (List.mem_range.mpr hc)) b (List.mem_range.mpr hb)
  obtain ⟨hsome, hpass⟩ := Bool.and_eq_true_iff.mp hx
  obtain ⟨x, hx⟩ := Option.isSome_iff_exists.mp hsome
  exact ⟨x, hx, hpass⟩

theorem planeChunks_lt (h : c ∈ planeChunks o p) : c < upChunks o.d := List.mem_range.mp (List.mem_of_mem_filter h)

theorem copyWaits_none (h : allBeats o = true) (hn : n ∈ contributors o) : copyWaits o p n = [] := by
  refine List.flatMap_eq_nil_iff.mpr fun c hc => ?_
  rw [List.map_eq_nil_iff, List.filter_eq_nil_iff]
  intro b hb
  obtain ⟨x, -, hpass⟩ := beat_of_allBeats h hn (planeChunks_lt hc) (List.mem_range.mp hb)
  simp [hpass]

/-- No beat of a copy waits once all have passed. -/
theorem treeBeats_copy_none (hcopy : isCopy (dOp o.d) = true) (h : allBeats o = true) : treeBeats o p s = [] := by
  have hnone : (contributors o).filter (fun n => !(copyWaits o p n).isEmpty) = [] :=
    List.filter_eq_nil_iff.mpr fun n hn => by simp [copyWaits_none h hn]
  unfold treeBeats
  simp [hcopy, hnone]

/-- Where none of an operation's beats waits, none passes. -/
theorem passBeats_none (ho : opAt id s = some o) (h : ∀ p, treeBeats o p s = []) : passBeats id t s = s := by
  rw [passBeats, withOp_eq ho]
  refine List.foldl_fixed' (fun p => ?_) _
  rw [passBeat, withOp_eq ho, if_pos (by simp [h])]

end

/-! ### Beats given to the crier -/

section
variable {s : State} {o : Op} {id : OpId} {t : Nat} {b : DnBeat} {bs : List DnBeat}

/-- A beat as the crier has it: from some cycle on, under some serial number. -/
def GivenAs (b x : DnBeat) : Prop := ∃ t k, x = { b with from' := t, serial := k }

theorem queueBeat_empty (h : b.dest = []) : queueBeat id t s b = s := if_pos (by simp [h])

theorem queueBeat_spec (ho : opAt id s = some o) (hb : b.dest ≠ []) : ∃ x, GivenAs b x ∧ opAt id (queueBeat id t s b) = some { o with down := o.down ++ [x] } := by
  have hid := opAt_id ho
  refine ⟨{ b with from' := t, serial := (planeAt b.plane s).queued + 1 }, ⟨t, (planeAt b.plane s).queued + 1, rfl⟩, ?_⟩
  rw [queueBeat, if_neg (by simpa using hb), withOp_eq ho]
  exact opAt_setOp_of (by exact ho) hid

end

/-! ### Copies on die -/

section
variable {s : State} {o o' o'' : Op} {id : OpId} {t n : Nat} {ns ms : List Nat} {c : CopyBeat}

/-- These beats of the local image have been presented: each is noted and given to the crier, and nothing else of the operation changes that a copy reads. -/
structure Presented (o : Op) (ns : List Nat) (o' : Op) : Prop where
  same : ∃ p f, o' = { o with summed := o'.summed, progress := p, freshFlags := f, down := o'.down }
  noted : tableWf 0 o.summed = true → tableWf 0 o'.summed = true ∧ ∀ n, tget 0 n o'.summed = if n ∈ ns then 1 else tget 0 n o.summed
  given : ∀ n ∈ ns, ∀ c, copyBeatAt o n = some c → ∃ x ∈ o'.down, GivenAs (copyDn o n c) x
  kept : ∀ x ∈ o.down, x ∈ o'.down

theorem Presented.nil : Presented o [] o := ⟨⟨_, _, rfl⟩, fun hw => ⟨hw, fun n => by simp⟩, by simp, fun x h => h⟩

theorem Presented.copyBeatAt_eq (h : Presented o ns o') : copyBeatAt o' n = copyBeatAt o n := by
  obtain ⟨p, f, he⟩ := h.same
  rw [he]
  rfl

theorem Presented.copyDn_eq (h : Presented o ns o') : copyDn o' n c = copyDn o n c := by
  obtain ⟨p, f, he⟩ := h.same
  rw [he]
  rfl

theorem Presented.receivers_eq (h : Presented o ns o') : receivers o' = receivers o := by
  obtain ⟨p, f, he⟩ := h.same
  rw [he]
  rfl

theorem Presented.append (h : Presented o ns o') (h' : Presented o' ms o'') : Presented o (ns ++ ms) o'' where
  same := by
    obtain ⟨p, f, he⟩ := h.same
    obtain ⟨p', f', he'⟩ := h'.same
    refine ⟨p', f', he'.trans ?_⟩
    rw [he]
  noted hw := by
    obtain ⟨hw', hns⟩ := h.noted hw
    obtain ⟨hw'', hms⟩ := h'.noted hw'
    refine ⟨hw'', fun n => ?_⟩
    rw [hms, hns]
    by_cases h1 : n ∈ ms <;> simp [h1]
  given n hn c hc := by
    rcases List.mem_append.mp hn with hn | hn
    · obtain ⟨x, hx, hg⟩ := h.given n hn c hc
      exact ⟨x, h'.kept x hx, hg⟩
    · obtain ⟨x, hx, hg⟩ := h'.given n hn c (h.copyBeatAt_eq.trans hc)
      exact ⟨x, hx, h.copyDn_eq ▸ hg⟩
  kept x hx := h'.kept x (h.kept x hx)

theorem copyPresent_spec (ho : opAt id s = some o) (hc : copyBeatAt o n = some c) (hr : receivers o ≠ []) :
    ∃ o', opAt id (copyPresent id t s n) = some o' ∧ Presented o [n] o' := by
  have hid := opAt_id ho
  have h1 := opAt_setOp_of (o' := { o with summed := tset 0 n 1 o.summed, progress := true }) ho hid
  have h2 := opAt_setOp_of (o' := { o with summed := tset 0 n 1 o.summed, progress := true, freshFlags := o.freshFlags ||| c.flags }) h1 hid
  have h3 : opAt id (copyFlags id (copyPlane o n) c.flags (setOp { o with summed := tset 0 n 1 o.summed, progress := true } s))
      = some { o with summed := tset 0 n 1 o.summed, progress := true, freshFlags := o.freshFlags ||| c.flags } := by
    rw [copyFlags, modOp_eq h1, opAt_of_ops (raisePlane_frame (ps := [.setNow, .regs]) (.refl _) (by decide) .ops (by decide))]
    exact h2
  obtain ⟨x, hx, h4⟩ := queueBeat_spec (t := t) (b := copyDn o n c) h3 hr
  refine ⟨{ o with summed := tset 0 n 1 o.summed, progress := true, freshFlags := o.freshFlags ||| c.flags, down := o.down ++ [x] }, ?_,
    ⟨true, o.freshFlags ||| c.flags, rfl⟩, fun hw => ⟨tset_wf _ _ _ hw, fun m => ?_⟩, fun m hm c' hc' => ?_, fun y hy => ?_⟩
  · rw [copyPresent, withOp_eq ho, hc]
    exact h4
  · by_cases h : m = n
    · subst h
      simpa using tget_tset_self m 1 o.summed hw
    · simpa [h] using tget_tset_ne h 1 o.summed
  · obtain rfl := List.mem_singleton.mp hm
    obtain rfl := Option.some.inj (hc.symm.trans hc')
    exact ⟨x, by simp, hx⟩
  · exact List.mem_append_left _ hy

theorem foldl_copyPresent (ho : opAt id s = some o) (hc : ∀ n ∈ ns, ∃ c, copyBeatAt o n = some c) (hr : receivers o ≠ []) :
    ∃ o', opAt id (ns.foldl (copyPresent id t) s) = some o' ∧ Presented o ns o' := by
  induction ns generalizing s o with
  | nil => exact ⟨o, ho, .nil⟩
  | cons n ns ih =>
    obtain ⟨c, hn⟩ := hc n (List.mem_cons_self ..)
    obtain ⟨o1, ho1, h1⟩ := copyPresent_spec (t := t) ho hn hr
    obtain ⟨o2, ho2, h2⟩ := ih ho1 (fun m hm => by rw [h1.copyBeatAt_eq]; exact hc m (List.mem_cons_of_mem _ hm)) (by rwa [h1.receivers_eq])
    exact ⟨o2, ho2, h1.append h2⟩

/-- The number of beats of the local image. -/
def copyCount (o : Op) : Nat := ceilDiv (copyTotal o) (perBeat (dInFmt o.d))

theorem copyReady_lt {k : Nat} (h : n ∈ copyReady o k) : n < copyCount o := by
  have h := (List.takeWhile_sublist _).mem (List.mem_of_mem_filter h)
  simpa [copyCount] using (List.mem_filter.mp h).2

/-- Where every beat has passed and none has gone out, all of a chunk can go. -/
theorem mem_copyReady (hc : ∀ n, n < copyCount o → ∃ c, copyBeatAt o n = some c) (hs : o.summed = []) (hn : n < copyCount o) : n ∈ copyReady o (n / 64) := by
  have hall : ∀ l : List Nat, (∀ m ∈ l, m < copyCount o) → l.takeWhile (fun m => tget 0 m o.summed == 1 || (copyBeatAt o m).isSome) = l :=
    fun l hl => List.takeWhile_eq_self_iff.mpr fun m hm => by
      obtain ⟨c, hc⟩ := hc m (hl m hm)
      simp [hc]
  unfold copyReady
  dsimp only
  rw [hall _ fun m hm => by simpa [copyCount] using (List.mem_filter.mp hm).2]
  refine List.mem_filter.mpr ⟨List.mem_filter.mpr ⟨List.mem_map.mpr ⟨n % 64, List.mem_range.mpr (Nat.mod_lt _ (by decide)), Nat.div_add_mod n 64⟩, ?_⟩, ?_⟩
  · simpa [copyCount] using hn
  · simp [hs]

/-- Once every beat has passed, all of the output goes to the crier, and it ends. -/
theorem copyOnDie_spec (ho : opAt id s = some o) (hc : ∀ n, n < copyCount o → ∃ c, copyBeatAt o n = some c) (hs : o.summed = []) (hr : receivers o ≠ []) :
    ∃ o', opAt id (copyOnDie id t s) = some o' ∧ o'.eg.ended = true ∧ ∀ n, n < copyCount o → ∀ c, copyBeatAt o n = some c → ∃ x ∈ o'.down, GivenAs (copyDn o n c) x := by
  obtain ⟨o1, ho1, h1⟩ := foldl_copyPresent (t := t) (ns := (List.range (ceilDiv (copyCount o) 64)).flatMap (copyReady o)) ho
    (fun n hn => by
      obtain ⟨k, -, hk⟩ := List.mem_flatMap.mp hn
      exact hc n (copyReady_lt hk)) hr
  have hmem (n : Nat) (hn : n < copyCount o) : n ∈ (List.range (ceilDiv (copyCount o) 64)).flatMap (copyReady o) :=
    List.mem_flatMap.mpr ⟨n / 64, List.mem_range.mpr ((lt_ceilDiv (by decide)).mpr (by omega)), mem_copyReady hc hs hn⟩
  have hdone : ((List.range (copyCount o)).all fun n => tget 0 n o1.summed == 1) = true :=
    List.all_eq_true.mpr fun n hn => by simp [(h1.noted (by rw [hs]; rfl)).2, hmem n (List.mem_range.mp hn)]
  rw [List.foldl_flatMap] at ho1
  refine ⟨{ o1 with eg := { o1.eg with ended := true } }, ?_, rfl, fun n hn c hc => h1.given n (hmem n hn) c hc⟩
  rw [copyOnDie, withOp_eq ho]
  refine (congrArg (opAt id) (modOp_eq ho1)).trans ?_
  rw [show (if ((List.range (ceilDiv (copyTotal o) (perBeat (dInFmt o.d)))).all fun n => tget 0 n o1.summed == 1) = true then { o1 with eg := { o1.eg with ended := true } } else o1)
    = { o1 with eg := { o1.eg with ended := true } } from if_pos hdone]
  have hid : o1.id = id := opAt_id ho1
  exact opAt_setOp_of ho1 hid

/-- The work of a copy on die whose beats have all passed. -/
theorem copyWork_spec {cyc : Nat} (hserv : serving s = true) (ho : opAt id s = some o) (hrun : runs o = true) (hclaim : o.claim = .claimed) (hleg : o.leg = none) (hended : o.eg.ended = false)
    (hcopy : isCopy (dOp o.d) = true) (hall : allBeats o = true) : copyWork id cyc s = copyOnDie id (stamp cyc s) s := by
  rw [copyWork, withRunning_eq (alive_of_serving hserv) ho hrun, if_neg (by simp [hserv, hclaim, hended])]
  dsimp only
  rw [passBeats_none ho fun p => treeBeats_copy_none hcopy hall, if_neg (by simp [hleg])]

end

/-! ### What a copied beat reads -/

section
variable {o : Op} {n i : Nat} {x : Beat} {y : DnBeat}

/-- A beat of a format without scales reads as it came, and bears no scale. -/
theorem copyDn_reads (hscaled : fmtScaled (dInFmt o.d) = false) (hout : dOutFmt o.d = dInFmt o.d) (hi : i < perBeat (dInFmt o.d)) (hn : n * perBeat (dInFmt o.d) + i < copyTotal o)
    (hy : GivenAs (copyDn o n (copyConvert o n x)) y) :
    y.dest = receivers o ∧ y.plane = maskPlane o.planes (n / 64) ∧ y.offset = n ∧ y.kind = kDATA ∧ y.scale = 0#32
      ∧ beatElem (dInFmt o.d) y.data i = beatElem (dInFmt o.d) x.data i := by
  obtain ⟨t, k, rfl⟩ := hy
  refine ⟨rfl, rfl, rfl, rfl, ?_, ?_⟩
  · exact if_pos (by simp [hout, hscaled])
  · have hcodes : (copyConvert o n x).codes = (List.range (min (perBeat (dInFmt o.d)) (copyTotal o - n * perBeat (dInFmt o.d)))).map (beatElem (dInFmt o.d) x.data) := by
      rw [copyConvert, if_neg (by simp [hscaled])]
    have hlen : i < (copyConvert o n x).codes.length := by
      rw [hcodes, List.length_map, List.length_range]
      omega
    have hread := beatElem_packBeat (f := dInFmt o.d) (code := fun i => (copyConvert o n x).codes.getD i 0) (lo := 0) (n := 0) hi (Nat.zero_le _) (by simpa using hlen)
    have hcode : (copyConvert o n x).codes.getD (0 * perBeat (dInFmt o.d) + i) 0 = beatElem (dInFmt o.d) x.data i := by
      rw [List.getD_eq_getElem _ _ (by simpa using hlen)]
      simp [hcodes]
    rw [hcode, beatElem_mod, ← hout] at hread
    rw [← hout]
    exact hread

end

/-! ### The two rows -/

section
variable {o : Op} {n : Nat}

theorem contrib_of_copy (h : isCopy (dOp o.d) = true) : hasContrib o.d = true ∧ limbsOf o.d = 1 := by
  rcases isCopy_cases h with h | h | h <;> simp [hasContrib, limbsOf, h, isCopy, isSelect, isSum, oBROADCAST, oALLGATHER, oALLTOALL, oREDUCE, oALLREDUCE, oREDUCE_SCATTER, oLEDGER_ADD, oLEDGER_CLOSE]

/-- The source beat of a BROADCAST, from its root. -/
theorem copyBeatAt_broadcast (hop : dOp o.d = oBROADCAST) (hroot : dRoot o.d ∈ o.members) (hall : allBeats o = true) (hn : n * perBeat (dInFmt o.d) < dCount o.d) :
    ∃ x, beatOfOp o (dRoot o.d) (n / 64) (n % 64) = some x ∧ copyBeatAt o n = some (copyConvert o n x) := by
  obtain ⟨hcontrib, hlimbs⟩ := contrib_of_copy (o := o) (by simp [hop, isCopy])
  obtain ⟨hc, hb⟩ := beat_exists hcontrib hlimbs hn
  have hmem : dRoot o.d ∈ contributors o := by simp [contributors, hcontrib, hop, hroot]
  obtain ⟨x, hx, hpass⟩ := beat_of_allBeats hall hmem hc hb
  have hsrc : copySrc o n = (dRoot o.d, n / 64, n % 64) := if_pos (by simp [hop])
  refine ⟨x, hx, ?_⟩
  rw [copyBeatAt, hsrc]
  simp [hpass, hx]

/-- The source beat of a gathered image: beat n % K of the member of rank n / K, where each gives K beats. -/
theorem copyBeatAt_gather {K : Nat} (hcopy : isCopy (dOp o.d) = true) (hop : dOp o.d ≠ oBROADCAST) (hall : allBeats o = true) (hK : dCount o.d = K * perBeat (dInFmt o.d))
    (hn : n < o.members.length * K) :
    ∃ x, beatOfOp o (o.members.getD (n / K) 0) (n % K / 64) (n % K % 64) = some x ∧ copyBeatAt o n = some (copyConvert o n x) := by
  have hb := perBeat_pos (dInFmt o.d)
  have hKpos : 0 < K := Nat.pos_of_ne_zero fun h => by simp [h] at hn
  obtain ⟨hcontrib, hlimbs⟩ := contrib_of_copy hcopy
  have hrank : n / K < o.members.length := (Nat.div_lt_iff_lt_mul hKpos).mpr hn
  have hin : n % K * perBeat (dInFmt o.d) < dCount o.d := by
    rw [hK]
    exact Nat.mul_lt_mul_of_pos_right (Nat.mod_lt _ hKpos) hb
  obtain ⟨hc, hbt⟩ := beat_exists hcontrib hlimbs hin
  have hmem : o.members.getD (n / K) 0 ∈ contributors o := by
    rw [List.getD_eq_getElem _ _ hrank]
    simp [contributors, hcontrib, hop]
  obtain ⟨x, hx, hpass⟩ := beat_of_allBeats hall hmem hc hbt
  have hdiv : n * perBeat (dInFmt o.d) / max 1 (dCount o.d) = n / K := by
    rw [hK, Nat.max_eq_right (Nat.mul_pos hKpos hb), Nat.mul_div_mul_right _ _ hb]
  have hmod : (n * perBeat (dInFmt o.d) - n / K * dCount o.d) / perBeat (dInFmt o.d) = n % K := by
    rw [hK, ← Nat.mul_assoc, ← Nat.sub_mul, Nat.mul_div_cancel _ hb, Nat.mod_eq_sub, Nat.mul_comm K]
  have hsrc : copySrc o n = (o.members.getD (n / K) 0, n % K / 64, n % K % 64) := by
    rw [copySrc, if_neg (by simp [hop])]
    dsimp only
    rw [hdiv, hmod]
  refine ⟨x, hx, ?_⟩
  rw [copyBeatAt, hsrc]
  simp only [hpass, hx, if_true, Option.map_some]

end

/-- Settles O39: each beat of the local image has its source, goes to the crier once, and reads there as it came. -/
theorem copiesDeliver : Obligations.CopiesDeliver := by
  intro id cyc o s hw hserv hdue ho hrun hclaim hleg hended hsummed hall hbad hscaled hout hrecv f b
  have hb : 0 < b := perBeat_pos f
  have ha := alive_of_serving hserv
  constructor
  · intro hop hroot
    refine answers_unplaced rfl rfl hdue ?_
    have hcopy : isCopy (dOp o.d) = true := by simp [hop, isCopy]
    rw [ofOp_eq ha ho hrun hop, copyWork_spec hserv ho hrun hclaim hleg hended hcopy hall]
    have htotal : copyTotal o = dCount o.d := if_pos (by simp [hop])
    have hsrc (n : Nat) (hn : n * b < dCount o.d) := copyBeatAt_broadcast hop hroot hall hn
    obtain ⟨o', ho', hend, hgiven⟩ := copyOnDie_spec (t := stamp cyc s) ho
      (fun n hn => let ⟨x, _, hx⟩ := hsrc n (by rwa [copyCount, lt_ceilDiv hb, htotal] at hn); ⟨_, hx⟩) hsummed hrecv
    refine ⟨o', ho', hend, fun e he => ?_⟩
    obtain ⟨x, hbeat, hx⟩ := hsrc (e / b) (elem_place he)
    obtain ⟨y, hy, hg⟩ := hgiven (e / b) (by rw [copyCount, lt_ceilDiv hb, htotal]; exact elem_place he) _ hx
    obtain ⟨hdest, hplane, hoff, hkind, hscale, hdata⟩ := copyDn_reads (i := e % b) hscaled hout (Nat.mod_lt _ hb) (by rw [htotal, Nat.mul_comm, Nat.div_add_mod]; exact he) hg
    have hto : receivers o = o.members.filter fun n => n != dRoot o.d := by
      rw [receivers, if_neg (by simp [hop, oBROADCAST, oREDUCE]), if_pos (by simp [hop])]
    exact ⟨x, hbeat, y, hy, hdest.trans hto, hplane, hoff, hkind, hscale, hdata⟩
  · intro hop hdiv
    refine answers_unplaced rfl rfl hdue ?_
    have hcopy : isCopy (dOp o.d) = true := by simp [hop, isCopy]
    rw [ofOp_eq ha ho hrun hop, copyWork_spec hserv ho hrun hclaim hleg hended hcopy hall]
    have hnot : dOp o.d ≠ oBROADCAST := by simp [hop, oBROADCAST, oALLGATHER]
    have htotal : copyTotal o = o.members.length * dCount o.d := if_neg (by simp [hnot])
    obtain ⟨K, hK⟩ : ∃ K, dCount o.d = K * b := ⟨dCount o.d / b, (Nat.div_mul_cancel (Nat.dvd_of_mod_eq_zero hdiv)).symm⟩
    have hcount (n : Nat) : n < copyCount o ↔ n < o.members.length * K := by
      rw [copyCount, lt_ceilDiv hb, htotal, hK, ← Nat.mul_assoc]
      exact Nat.mul_lt_mul_right hb
    have hsrc (n : Nat) (hn : n < o.members.length * K) := copyBeatAt_gather hcopy hnot hall hK hn
    obtain ⟨o', ho', hend, hgiven⟩ := copyOnDie_spec (t := stamp cyc s) ho (fun n hn => let ⟨x, _, hx⟩ := hsrc n ((hcount n).mp hn); ⟨_, hx⟩) hsummed hrecv
    refine ⟨o', ho', hend, fun r i hr hi => ?_⟩
    have hbeatno : (r * dCount o.d + i) / b = r * K + i / b := by rw [hK, ← Nat.mul_assoc, Nat.mul_comm _ b, Nat.mul_add_div hb]
    have hinK : i / b < K := (Nat.div_lt_iff_lt_mul hb).mpr (hK ▸ hi)
    have hKpos : 0 < K := Nat.lt_of_le_of_lt (Nat.zero_le _) hinK
    have hlt : r * K + i / b < o.members.length * K :=
      calc r * K + i / b < r * K + K := by omega
        _ = (r + 1) * K := by ring
        _ ≤ o.members.length * K := Nat.mul_le_mul_right _ hr
    obtain ⟨x, hbeat, hx⟩ := hsrc _ hlt
    rw [show (r * K + i / b) / K = r by rw [Nat.mul_comm, Nat.mul_add_div hKpos, Nat.div_eq_of_lt hinK, Nat.add_zero],
      show (r * K + i / b) % K = i / b by rw [Nat.mul_comm, Nat.mul_add_mod, Nat.mod_eq_of_lt hinK]] at hbeat
    obtain ⟨y, hy, hg⟩ := hgiven _ ((hcount _).mpr hlt) _ hx
    have hin : (r * K + i / b) * b + i % b < copyTotal o := by
      have hsplit : (r * K + i / b) * b + i % b = r * dCount o.d + i := by rw [Nat.add_mul, Nat.mul_assoc, ← hK, Nat.add_assoc, Nat.mul_comm (i / b), Nat.div_add_mod]
      rw [hsplit, htotal]
      calc r * dCount o.d + i < r * dCount o.d + dCount o.d := by omega
        _ = (r + 1) * dCount o.d := by ring
        _ ≤ o.members.length * dCount o.d := Nat.mul_le_mul_right _ hr
    obtain ⟨hdest, hplane, hoff, hkind, hscale, hdata⟩ := copyDn_reads (i := i % b) hscaled hout (Nat.mod_lt _ hb) hin hg
    have hto : receivers o = o.members := by
      rw [receivers, if_neg (by simp [hop, oALLGATHER, oREDUCE]), if_neg (by simp [hnot])]
    rw [hbeatno]
    exact ⟨x, hbeat, y, hy, hdest.trans hto, hplane, hoff, hkind, hscale, hdata⟩

end Sys2Proof.Machine
end

section
/-! PROOF. The order of candidates is total, and the selecting rows deliver the earliest (R129, R132). -/

namespace Sys2Proof.Machine

-- The inclusions that frames ask for are auto parameters, whose code is compiled: with proofs elaborated in order no thread waits for it.
set_option Elab.async false

/-! ### The key of R129 -/

section
variable {a b c : Cand} {k : CandKind}

/-- The number that a dyadic stands for. -/
def dyVal (a : Dy) : ℚ := a.m * 2 ^ a.e

theorem dyVal_align {a : Dy} {e : Int} (h : e ≤ a.e) : dyVal a = dyAlign a e * 2 ^ e := by
  obtain ⟨n, hn⟩ : ∃ n : Nat, a.e = n + e := ⟨(a.e - e).toNat, by omega⟩
  rw [dyVal, dyAlign, hn, zpow_add₀ (by norm_num)]
  simp [mul_assoc]

theorem dyLt_iff {a b : Dy} : dyLt a b = true ↔ dyVal a < dyVal b := by
  rw [dyVal_align (min_le_left a.e b.e), dyVal_align (min_le_right a.e b.e), mul_lt_mul_iff_left₀ (by positivity)]
  simp [dyLt]

theorem dyEq_iff {a b : Dy} : dyEq a b = true ↔ dyVal a = dyVal b := by
  rw [dyVal_align (min_le_left a.e b.e), dyVal_align (min_le_right a.e b.e), mul_left_inj' (by positivity)]
  simp [dyEq]

/-- The number by which candidates of one class compare: only finite ones do. -/
def candVal (k : CandKind) (v : Word) : ℚ := if candClass k v = 1 then dyVal (candNum k v) else 0

/-- The key of R129: the greater class and the greater number come first, then the smaller index and the smaller word. -/
def candKey (k : CandKind) (c : Cand) : ℕᵒᵈ ×ₗ ℚᵒᵈ ×ₗ ℕ ×ₗ ℕ :=
  toLex (OrderDual.toDual (candClass k c.value), toLex (OrderDual.toDual (candVal k c.value), toLex (c.index.toNat, c.value.toNat)))

theorem candKey_lt : candKey k a < candKey k b ↔ candClass k b.value < candClass k a.value ∨ candClass k a.value = candClass k b.value ∧
    (candVal k b.value < candVal k a.value ∨ candVal k a.value = candVal k b.value ∧ (a.index.toNat < b.index.toNat ∨ a.index.toNat = b.index.toNat ∧ a.value.toNat < b.value.toNat)) := by
  simp [candKey, Prod.Lex.toLex_lt_toLex]

theorem earlier_iff : earlier k a b = true ↔ candKey k a < candKey k b := by
  rw [candKey_lt, earlier]
  dsimp only
  by_cases hclass : candClass k a.value = candClass k b.value
  · rw [if_neg (by simpa using hclass)]
    have hindex : a.index.toNat = b.index.toNat ↔ a.index = b.index := BitVec.toNat_inj
    by_cases hfin : candClass k a.value = 1
    · have ha : candVal k a.value = dyVal (candNum k a.value) := if_pos hfin
      have hb : candVal k b.value = dyVal (candNum k b.value) := if_pos (hclass ▸ hfin)
      rw [ha, hb]
      by_cases hval : dyVal (candNum k a.value) = dyVal (candNum k b.value)
      · rw [if_neg (by simp [dyEq_iff.mpr hval])]
        by_cases hi : a.index = b.index <;> simp [hclass, hval, hi, hindex]
      · rw [if_pos (by simpa [hfin] using mt dyEq_iff.mp hval), dyLt_iff]
        simp [hclass, hval]
    · have ha : candVal k a.value = 0 := if_neg hfin
      have hb : candVal k b.value = 0 := if_neg (hclass ▸ hfin)
      rw [if_neg (by simp [hfin]), ha, hb]
      by_cases hi : a.index = b.index <;> simp [hclass, hi, hindex]
  · rw [if_pos (by simpa using hclass)]
    simp [hclass]

theorem not_earlier_iff : earlier k a b = false ↔ candKey k b ≤ candKey k a := by
  rw [← not_lt, ← earlier_iff, Bool.not_eq_true]

end

/-! ### The earliest of a list -/

section
variable {a b c x : Cand} {k : CandKind} {l : List Cand} {n : Nat}

theorem candKey_best : candKey k (best k a b) ≤ candKey k a ∧ candKey k (best k a b) ≤ candKey k b := by
  unfold best
  split
  · next h => exact ⟨(earlier_iff.mp h).le, le_rfl⟩
  · next h => exact ⟨le_rfl, not_earlier_iff.mp (by simpa using h)⟩

theorem best_mem : best k a b = a ∨ best k a b = b := by
  unfold best
  split
  · exact .inr rfl
  · exact .inl rfl

/-- The best of a list is in it, and nothing of it is earlier. -/
theorem bestOf_spec : bestOf k a l ∈ a :: l ∧ ∀ x ∈ a :: l, candKey k (bestOf k a l) ≤ candKey k x := by
  unfold bestOf
  induction l generalizing a with
  | nil => simp
  | cons b l ih =>
    obtain ⟨hmem, hle⟩ := ih (a := best k a b)
    have hbest := hle _ (List.mem_cons_self ..)
    refine ⟨?_, fun x hx => ?_⟩
    · rw [List.foldl_cons]
      rcases List.mem_cons.mp hmem with h | h
      · rw [h]
        rcases best_mem (k := k) (a := a) (b := b) with hb | hb <;> simp [hb]
      · simp [h]
    · rcases List.mem_cons.mp hx with rfl | hx
      · exact hbest.trans candKey_best.1
      · rcases List.mem_cons.mp hx with rfl | hx
        · exact hbest.trans candKey_best.2
        · exact hle x (List.mem_cons_of_mem _ hx)

/-! ### Candidates in order -/

theorem candInsert_perm : (candInsert k c l).Perm (c :: l) := by
  induction l with
  | nil => exact .refl _
  | cons d l ih =>
    unfold candInsert
    split
    · exact .refl _
    · exact (ih.cons d).trans (.swap ..)

/-- In key order. -/
def InOrder (k : CandKind) (l : List Cand) : Prop := l.Pairwise fun a b => candKey k a ≤ candKey k b

theorem candInsert_inOrder (h : InOrder k l) : InOrder k (candInsert k c l) := by
  induction l with
  | nil => exact List.pairwise_singleton _ _
  | cons d l ih =>
    obtain ⟨hd, hl⟩ := List.pairwise_cons.mp h
    unfold candInsert
    split
    · next hc =>
      have hcd := (earlier_iff.mp hc).le
      refine List.pairwise_cons.mpr ⟨fun x hx => ?_, h⟩
      rcases List.mem_cons.mp hx with rfl | hx
      · exact hcd
      · exact hcd.trans (hd x hx)
    · next hc =>
      refine List.pairwise_cons.mpr ⟨fun x hx => ?_, ih hl⟩
      rcases List.mem_cons.mp (candInsert_perm.mem_iff.mp hx) with rfl | hx
      · exact not_earlier_iff.mp (by simpa using hc)
      · exact hd x hx

theorem candSort_perm : (candSort k l).Perm l := by
  suffices h : ∀ acc, (l.foldl (fun acc c => candInsert k c acc) acc).Perm (acc ++ l) by simpa [candSort] using h []
  induction l with
  | nil => intro acc; simp
  | cons c l ih =>
    intro acc
    refine (ih (candInsert k c acc)).trans ((candInsert_perm.append_right l).trans ?_)
    exact List.perm_middle.symm

theorem candSort_inOrder : InOrder k (candSort k l) := by
  suffices h : ∀ acc, InOrder k acc → InOrder k (l.foldl (fun acc c => candInsert k c acc) acc) from h [] List.Pairwise.nil
  induction l with
  | nil => exact fun acc h => h
  | cons c l ih => exact fun acc h => ih _ (candInsert_inOrder h)

/-- What an insertion brings among the first n depends on the first n. -/
theorem take_candInsert : (candInsert k c (l.take n)).take n = (candInsert k c l).take n := by
  induction l generalizing n with
  | nil => simp
  | cons d l ih =>
    cases n with
    | zero => simp
    | succ n =>
      simp only [List.take_succ_cons, candInsert]
      split
      · cases n <;> simp [List.take_take]
      · simp [ih]

/-- Keeping the first n at each insertion keeps the first n of all. -/
theorem foldl_keepK : l.foldl (keepK k n) [] = (candSort k l).take n := by
  suffices h : ∀ acc, l.foldl (keepK k n) (acc.take n) = (l.foldl (fun acc c => candInsert k c acc) acc).take n by simpa [candSort] using h []
  induction l with
  | nil => exact fun acc => rfl
  | cons c l ih =>
    intro acc
    rw [List.foldl_cons, List.foldl_cons, ← ih, keepK, take_candInsert]

/-- The first n candidates: as many as there are, in order, of the list, and nothing else of it is earlier. -/
theorem topK_spec : let L := (candSort k l).take n
    L.length = min n l.length ∧ L.Pairwise (fun a b => earlier k b a = false) ∧ (∀ x ∈ L, x ∈ l) ∧ ∀ y ∈ l, y ∉ L → ∀ x ∈ L, earlier k y x = false := by
  have hperm := candSort_perm (k := k) (l := l)
  have hord := candSort_inOrder (k := k) (l := l)
  refine ⟨by rw [List.length_take, hperm.length_eq], ?_, fun x hx => hperm.mem_iff.mp (List.mem_of_mem_take hx), fun y hy hnot x hx => ?_⟩
  · exact (hord.sublist (List.take_sublist _ _)).imp not_earlier_iff.mpr
  · have hdrop : y ∈ (candSort k l).drop n := by
      have hmem := hperm.mem_iff.mpr hy
      rw [← List.take_append_drop n (candSort k l)] at hmem
      exact (List.mem_append.mp hmem).resolve_left hnot
    have hsplit := hord
    rw [InOrder, ← List.take_append_drop n (candSort k l), List.pairwise_append] at hsplit
    exact not_earlier_iff.mpr (hsplit.2.2 x hx y hdrop)

end

/-! ### The elements of a contribution, beat by beat -/

/-- Blocks of b of the first N numbers, one after the other. -/
theorem range_blocks {b N K : Nat} (hK : N ≤ K * b) : (List.range K).flatMap (fun j => (List.range (min b (N - j * b))).map fun i => j * b + i) = List.range N := by
  suffices h : (List.range K).flatMap (fun j => (List.range (min b (N - j * b))).map fun i => j * b + i) = List.range (min N (K * b)) by rw [h, Nat.min_eq_left hK]
  clear hK
  induction K with
  | zero => simp
  | succ K ih =>
    rw [List.range_succ, List.flatMap_append, ih, List.flatMap_singleton]
    by_cases h : N ≤ K * b
    · rw [show N - K * b = 0 by omega, Nat.min_zero, List.range_zero, List.map_nil, List.append_nil, Nat.min_eq_left h, Nat.min_eq_left (by rw [Nat.add_mul]; omega)]
    · rw [Nat.min_eq_right (by omega), ← List.range_add, Nat.add_mul]
      congr 1
      omega

/-- The beats of a contribution. -/
def beatGrid (d : List Word) : List (Nat × Nat) := (List.range (upChunks d)).flatMap fun c => (List.range (chunkBeats d c)).map fun b => (c, b)

section
variable {d : List Word} {c bt e i : Nat}

theorem le_ceilDiv_mul {a b : Nat} (hb : 0 < b) : a ≤ ceilDiv a b * b := by
  have h := (lt_ceilDiv (a := a) (n := ceilDiv a b) hb).not.mp (Nat.lt_irrefl _)
  omega

theorem mem_beatGrid {x : Nat × Nat} : x ∈ beatGrid d ↔ x.1 < upChunks d ∧ x.2 < chunkBeats d x.1 := by
  simp [beatGrid, List.mem_flatMap, Prod.ext_iff]

theorem chunkBeats_le : chunkBeats d c ≤ 64 := by
  by_contra h
  have hb := perBeat_pos (dInFmt d)
  have h64 := (lt_ceilDiv (n := 64) hb).mp (show 64 < ceilDiv (chunkElems d c) (perBeat (dInFmt d)) by rw [← chunkBeats]; omega)
  have hle : chunkElems d c ≤ perChunk (dInFmt d) := Nat.min_le_left ..
  rw [perChunk_eq] at hle
  omega

/-- The elements of the beats, beat by beat, are the elements in order. -/
theorem beatGrid_elems (hcontrib : hasContrib d = true) (hlimbs : limbsOf d = 1) :
    (beatGrid d).flatMap (fun x => (List.range (beatElems d x.1 x.2)).map fun i => (x.1 * 64 + x.2) * perBeat (dInFmt d) + i) = List.range (dCount d) := by
  have hb := perBeat_pos (dInFmt d)
  have hup := upChunks_one hcontrib hlimbs
  have hall : dCount d ≤ upChunks d * perChunk (dInFmt d) := by
    rw [hup]
    exact le_ceilDiv_mul (by rw [perChunk_eq]; omega)
  rw [← range_blocks hall, beatGrid, List.flatMap_assoc]
  refine List.flatMap_congr fun c hc => ?_
  have hc : c < streamChunks d := hup ▸ List.mem_range.mp hc
  have hchunk : chunkElems d c = min (perChunk (dInFmt d)) (dCount d - c * perChunk (dInFmt d)) := by rw [chunkElems, chunkInStream_of_lt hc]
  rw [List.flatMap_map, ← hchunk, ← range_blocks (b := perBeat (dInFmt d)) (K := chunkBeats d c) (le_ceilDiv_mul hb), List.map_flatMap]
  refine List.flatMap_congr fun bt hbt => ?_
  have h64 : bt < 64 := Nat.lt_of_lt_of_le (List.mem_range.mp hbt) chunkBeats_le
  have hbase : beatBase d c bt = c * perChunk (dInFmt d) + bt * perBeat (dInFmt d) := by rw [beatBase, chunkInStream_of_lt hc]
  have hle : bt * perBeat (dInFmt d) + perBeat (dInFmt d) ≤ perChunk (dInFmt d) := by
    rw [perChunk_eq, ← Nat.succ_mul]
    exact Nat.mul_le_mul_right _ h64
  have hcount : beatElems d c bt = min (perBeat (dInFmt d)) (chunkElems d c - bt * perBeat (dInFmt d)) := by
    rw [beatElems, hbase, hchunk]
    omega
  rw [hcount, List.map_map]
  refine List.map_congr_left fun i _ => ?_
  simp only [Function.comp_apply, perChunk_eq]
  ring

/-- A list over the beats and their elements is the list over the elements. -/
theorem beatGrid_map {α : Type} {g : Nat × Nat → Nat → α} {F : Nat → α} (hcontrib : hasContrib d = true) (hlimbs : limbsOf d = 1)
    (h : ∀ x ∈ beatGrid d, ∀ i, i < beatElems d x.1 x.2 → g x i = F ((x.1 * 64 + x.2) * perBeat (dInFmt d) + i)) :
    (beatGrid d).flatMap (fun x => (List.range (beatElems d x.1 x.2)).map (g x)) = (List.range (dCount d)).map F := by
  rw [← beatGrid_elems hcontrib hlimbs, List.map_flatMap]
  refine List.flatMap_congr fun x hx => ?_
  rw [List.map_map]
  exact List.map_congr_left fun i hi => h x hx i (List.mem_range.mp hi)

end

/-! ### The candidates of a selecting operation -/

section
variable {s : State} {o : Op} {id : OpId} {p t n c bt e i : Nat} {x : Nat × Nat} {m : Nat × Nat} {l : List Cand}

theorem contrib_of_select (h : isSelect (dOp o.d) = true) : hasContrib o.d = true ∧ limbsOf o.d = 1 ∧ contributors o = o.members ∧ receivers o = o.members := by
  have hcontrib : hasContrib o.d = true := by simp [hasContrib, h]
  have hcases := isSelect_cases h
  refine ⟨hcontrib, ?_, ?_, ?_⟩
  · rcases hcases with h | h | h | h <;> simp [limbsOf, h, isSum, oMAX, oARGMAX, oTOPK, oSAMPLE, oREDUCE, oALLREDUCE, oREDUCE_SCATTER, oLEDGER_ADD, oLEDGER_CLOSE]
  · rcases hcases with h | h | h | h <;> simp [contributors, hcontrib, h, oMAX, oARGMAX, oTOPK, oSAMPLE, oBROADCAST]
  · rcases hcases with h | h | h | h <;> simp [receivers, h, oMAX, oARGMAX, oTOPK, oSAMPLE, oBROADCAST, oREDUCE]

theorem not_copy_or_sum (h : isSelect (dOp o.d) = true) : isCopy (dOp o.d) = false ∧ isSum (dOp o.d) = false := by
  rcases isSelect_cases h with h | h | h | h <;> rw [h] <;> decide

/-- No beat of a selection waits once all have passed. -/
theorem treeBeats_select_none (hsel : isSelect (dOp o.d) = true) (h : allBeats o = true) (hm : o.members ≠ []) : treeBeats o p s = [] := by
  obtain ⟨-, -, hcontrib, -⟩ := contrib_of_select hsel
  obtain ⟨hcopy, hsum⟩ := not_copy_or_sum hsel
  obtain ⟨n, hn⟩ := List.exists_mem_of_ne_nil _ hm
  have hnone : selectWaits o p = [] := by
    refine List.flatMap_eq_nil_iff.mpr fun c hc => ?_
    rw [List.map_eq_nil_iff, List.filter_eq_nil_iff]
    intro b hb
    obtain ⟨x, -, hpass⟩ := beat_of_allBeats h (hcontrib ▸ hn) (planeChunks_lt hc) (List.mem_range.mp hb)
    have hkey : beatPassed o 0 c b = beatPassed o n c b := by simp [beatPassed, passKey, hcopy]
    simp [hkey, hpass]
  unfold treeBeats
  simp [hcopy, hsum, hnone]

/-- The candidates that a member's beat brings are those of its elements. -/
theorem beatCands_eq (hsel : isSelect (dOp o.d) = true) (h : allBeats o = true) (hx : x ∈ beatGrid o.d) (hm : m ∈ o.members.zipIdx) :
    (beatCands o m.2 m.1 x.1 x.2).map Prod.fst = (List.range (beatElems o.d x.1 x.2)).map fun i => MemberCand o m.2 m.1 ((x.1 * 64 + x.2) * perBeat (dInFmt o.d) + i) := by
  obtain ⟨hcontrib, hlimbs, hall, -⟩ := contrib_of_select hsel
  have hb := perBeat_pos (dInFmt o.d)
  obtain ⟨hc, hbt⟩ := mem_beatGrid.mp hx
  have hmem : m.1 ∈ contributors o := hall ▸ List.fst_mem_of_mem_zipIdx hm
  obtain ⟨y, hy, -⟩ := beat_of_allBeats h hmem hc hbt
  have h64 : x.2 < 64 := Nat.lt_of_lt_of_le hbt chunkBeats_le
  have hbase : beatBase o.d x.1 x.2 = (x.1 * 64 + x.2) * perBeat (dInFmt o.d) := by
    rw [beatBase, chunkInStream_of_lt (upChunks_one hcontrib hlimbs ▸ hc), perChunk_eq]
    ring
  rw [beatCands, hy]
  simp only [List.map_map]
  refine List.map_congr_left fun i hi => ?_
  have hi : i < perBeat (dInFmt o.d) := Nat.lt_of_lt_of_le (List.mem_range.mp hi) (Nat.min_le_left ..)
  have hdiv : ((x.1 * 64 + x.2) * perBeat (dInFmt o.d) + i) / perBeat (dInFmt o.d) = x.1 * 64 + x.2 := by
    rw [Nat.mul_comm, Nat.mul_add_div hb, Nat.div_eq_of_lt hi, Nat.add_zero]
  have hmod : ((x.1 * 64 + x.2) * perBeat (dInFmt o.d) + i) % perBeat (dInFmt o.d) = i := by rw [Nat.mul_comm, Nat.mul_add_mod, Nat.mod_eq_of_lt hi]
  have hchunk : (x.1 * 64 + x.2) / 64 = x.1 := by omega
  have hbeat : (x.1 * 64 + x.2) % 64 = x.2 := by omega
  simp only [Function.comp_apply, MemberCand, hdiv, hmod, hchunk, hbeat, hy, hbase, Option.getD_some]

/-! ### The local result -/

/-- All candidates, beat by beat and member by member. -/
def allCands (o : Op) : List Cand := (beatGrid o.d).flatMap fun x => o.members.zipIdx.flatMap fun m => (beatCands o m.2 m.1 x.1 x.2).map Prod.fst

theorem mem_allCands (hsel : isSelect (dOp o.d) = true) (h : allBeats o = true) {y : Cand} :
    y ∈ allCands o ↔ ∃ m ∈ o.members.zipIdx, ∃ e, e < dCount o.d ∧ y = MemberCand o m.2 m.1 e := by
  obtain ⟨hcontrib, hlimbs, -, -⟩ := contrib_of_select hsel
  have helem (e : Nat) : e < dCount o.d ↔ ∃ x ∈ beatGrid o.d, ∃ i, i < beatElems o.d x.1 x.2 ∧ (x.1 * 64 + x.2) * perBeat (dInFmt o.d) + i = e := by
    rw [← List.mem_range, ← beatGrid_elems hcontrib hlimbs]
    simp only [List.mem_flatMap, List.mem_map, List.mem_range]
  constructor
  · intro hy
    obtain ⟨x, hx, hy⟩ := List.mem_flatMap.mp hy
    obtain ⟨m, hm, hy⟩ := List.mem_flatMap.mp hy
    rw [beatCands_eq hsel h hx hm] at hy
    obtain ⟨i, hi, rfl⟩ := List.mem_map.mp hy
    exact ⟨m, hm, _, (helem _).mpr ⟨x, hx, i, List.mem_range.mp hi, rfl⟩, rfl⟩
  · rintro ⟨m, hm, e, he, rfl⟩
    obtain ⟨x, hx, i, hi, rfl⟩ := (helem e).mp he
    refine List.mem_flatMap.mpr ⟨x, hx, List.mem_flatMap.mpr ⟨m, hm, ?_⟩⟩
    rw [beatCands_eq hsel h hx hm]
    exact List.mem_map.mpr ⟨i, List.mem_range.mpr hi, rfl⟩

theorem length_allCands (hsel : isSelect (dOp o.d) = true) (h : allBeats o = true) : (allCands o).length = o.members.length * dCount o.d := by
  obtain ⟨hcontrib, hlimbs, -, -⟩ := contrib_of_select hsel
  have hbeat (x : Nat × Nat) (hx : x ∈ beatGrid o.d) : (o.members.zipIdx.flatMap fun m => (beatCands o m.2 m.1 x.1 x.2).map Prod.fst).length = o.members.length * beatElems o.d x.1 x.2 := by
    rw [List.length_flatMap, List.map_congr_left (g := fun _ => beatElems o.d x.1 x.2) fun m hm => by rw [beatCands_eq hsel h hx hm, List.length_map, List.length_range]]
    simp
  have hcount : ((beatGrid o.d).map fun x => beatElems o.d x.1 x.2).sum = dCount o.d := by
    have hlen := congrArg List.length (beatGrid_elems hcontrib hlimbs)
    simpa [List.length_flatMap] using hlen
  rw [allCands, List.length_flatMap, List.map_congr_left hbeat, List.sum_map_mul_left, hcount]

/-- Without MAX the local result is the earliest of all candidates. -/
theorem selectLocal_topK (hop : dOp o.d ≠ oMAX) : selectLocal o = (candSort (candKind o) (allCands o)).take (selK o) := by
  rw [← foldl_keepK, allCands, List.foldl_flatMap, selectLocal, if_neg (by simp [hop])]
  exact congrArg (fun f => List.foldl f [] (beatGrid o.d)) (funext fun acc => funext fun x => List.foldl_flatMap.symm)

/-- The candidates of an element of MAX. -/
def elemCands (o : Op) (e : Nat) : List Cand := o.members.zipIdx.map fun m => MemberCand o m.2 m.1 e

/-- The best of a list that has one. -/
def bestOrFiller (k : CandKind) : List Cand → Cand
  | [] => fillerPair
  | c :: r => bestOf k c r

/-- MAX gives the best candidate of each element. -/
theorem selectLocal_max (hop : dOp o.d = oMAX) (h : allBeats o = true) : selectLocal o = (List.range (dCount o.d)).map fun e => bestOrFiller (candKind o) (elemCands o e) := by
  have hsel : isSelect (dOp o.d) = true := by simp [isSelect, hop]
  obtain ⟨hcontrib, hlimbs, -, -⟩ := contrib_of_select hsel
  rw [← beatGrid_map (g := fun x i => bestOrFiller (candKind o) ((o.members.zipIdx.map fun m => (beatCands o m.2 m.1 x.1 x.2).map Prod.fst).map fun l => l.getD i fillerPair)) hcontrib hlimbs]
  · rw [selectLocal, if_pos (by simp [hop])]
    refine List.flatMap_congr fun x hx => List.map_congr_left fun i hi => ?_
    generalize List.map (fun l : List Cand => l.getD i fillerPair) _ = l
    cases l <;> rfl
  · intro x hx i hi
    rw [List.map_map]
    refine congrArg _ (List.map_congr_left fun m hm => ?_)
    rw [Function.comp_apply, beatCands_eq hsel h hx hm, List.getD_eq_getElem _ _ (by simpa using hi)]
    simp

/-! ### The result goes to the crier -/

theorem queueBeats_spec {bs : List DnBeat} (ho : opAt id s = some o) :
    ∃ ds, opAt id (queueBeats id t bs s) = some { o with down := o.down ++ ds } ∧ ∀ b ∈ bs, b.dest ≠ [] → ∃ x ∈ ds, GivenAs b x := by
  induction bs generalizing s o with
  | nil => exact ⟨[], by simpa [queueBeats] using ho, by simp⟩
  | cons b bs ih =>
    by_cases hb : b.dest = []
    · obtain ⟨ds, h, hall⟩ := ih ho
      refine ⟨ds, ?_, fun c hc hd => ?_⟩
      · rw [queueBeats, List.foldl_cons, queueBeat_empty hb]
        exact h
      · rcases List.mem_cons.mp hc with rfl | hc
        · exact absurd hb hd
        · exact hall c hc hd
    · obtain ⟨x, hx, h1⟩ := queueBeat_spec (t := t) ho hb
      obtain ⟨ds, h, hall⟩ := ih h1
      refine ⟨x :: ds, ?_, fun c hc hd => ?_⟩
      · rw [queueBeats, List.foldl_cons]
        simpa [queueBeats] using h
      · rcases List.mem_cons.mp hc with rfl | hc
        · exact ⟨x, List.mem_cons_self .., hx⟩
        · obtain ⟨y, hy, hg⟩ := hall c hc hd
          exact ⟨y, List.mem_cons_of_mem _ hy, hg⟩

theorem selectFlags_frame : OnlyChanges [.setNow, .regs] s (selectFlags o s).2 := by
  unfold selectFlags
  generalize List.range (upChunks o.d) = cs
  suffices h : ∀ x : Flags × State, OnlyChanges [.setNow, .regs] s x.2 → OnlyChanges [.setNow, .regs] s (cs.foldl _ x).2 from h _ (.refl s)
  induction cs with
  | nil => exact fun x h => h
  | cons c cs ih => exact fun x h => ih _ (raisePlane_frame h)

/-- A selection whose every candidate has passed. -/
def selectedOp (t : Nat) (o : Op) (s : State) : Op := { o with added := true, addAt := t, freshFlags := o.freshFlags ||| (selectFlags o s).1, progress := true }

theorem selectEnd_eq (ho : opAt id s = some o) (hleg : o.leg = none) (hall : allBeats o = true) :
    selectEnd id t s = presentPairs id t (selectLocal o) (setOp (selectedOp t o s) (selectFlags o s).2) := by
  have hflags : opAt id (selectFlags o s).2 = some o := (opAt_of_ops (selectFlags_frame .ops (by decide)) id).trans ho
  rw [selectEnd, withOp_eq ho, if_neg (by simp [hall])]
  dsimp only
  rw [modOp_eq hflags]
  split
  · rfl
  · next g hg => simp [hleg] at hg

/-- The work of a selection on die whose beats have all passed: its result goes to the crier in pairs, and the output ends. -/
theorem selectWork_spec {cyc : Nat} (hserv : serving s = true) (ho : opAt id s = some o) (hrun : runs o = true) (hclaim : o.claim = .claimed) (hleg : o.leg = none) (hadded : o.added = false)
    (hsel : isSelect (dOp o.d) = true) (hall : allBeats o = true) (hm : o.members ≠ []) :
    ∃ o', opAt id (selectWork id cyc s) = some o' ∧ o'.eg.ended = true ∧ o'.added = true ∧ ∀ b ∈ pairsDn o (selN o) (selectLocal o), b.dest ≠ [] → ∃ x ∈ o'.down, GivenAs b x := by
  have hid := opAt_id ho
  have hflags : opAt id (selectFlags o s).2 = some o := (opAt_of_ops (selectFlags_frame .ops (by decide)) id).trans ho
  have h1 := opAt_setOp_of (o' := selectedOp (stamp cyc s) o s) hflags hid
  generalize ho1 : selectedOp (stamp cyc s) o s = o1 at h1
  have hpairs : pairsDn o1 (selN o1) = pairsDn o (selN o) := by subst ho1; rfl
  have hadd : o1.added = true := by subst ho1; rfl
  have hid1 : o1.id = id := by subst ho1; exact hid
  obtain ⟨ds, h2, hgiven⟩ := queueBeats_spec (t := stamp cyc s) (bs := pairsDn o1 (selN o1) (selectLocal o))
    (opAt_setOp_of (o' := { o1 with eg := { o1.eg with ended := true } }) h1 hid1)
  refine ⟨{ o1 with eg := { o1.eg with ended := true }, down := o1.down ++ ds }, ?_, rfl, hadd, fun b hb hd => ?_⟩
  · rw [selectWork, withRunning_eq (alive_of_serving hserv) ho hrun, if_neg (by simp [hserv, hclaim, hadded]), passBeats_none ho fun p => treeBeats_select_none hsel hall hm,
      selectEnd_eq ho hleg hall, ho1, presentPairs, withOp_eq h1]
    exact h2
  · obtain ⟨x, hx, hg⟩ := hgiven b (hpairs ▸ hb) hd
    exact ⟨x, List.mem_append_right _ hx, hg⟩

end

/-- Settles O40: the local result is sorted by the key of R129, and its pairs go to every member. -/
theorem selectionsDeliver : Obligations.SelectionsDeliver := by
  intro id cyc c o s hw hserv hdue ho hrun hclaim hleg hadded hall hbad hm hrow k n
  have ha := alive_of_serving hserv
  have hsel : isSelect (dOp o.d) = true := by rcases hrow with ⟨-, h⟩ | ⟨-, h⟩ | ⟨-, h⟩ | ⟨-, h⟩ <;> simp [isSelect, h]
  have hanswer {P : State → Prop} (h : P (selectWork id cyc s)) : Answers c s P := by
    rcases hrow with ⟨rfl, hop⟩ | ⟨rfl, hop⟩ | ⟨rfl, hop⟩ | ⟨rfl, hop⟩ <;> exact answers_unplaced rfl rfl hdue (by rwa [ofOp_eq ha ho hrun hop])
  obtain ⟨-, -, -, hrecv⟩ := contrib_of_select hsel
  obtain ⟨o', ho', hend, hadd, hgiven⟩ := selectWork_spec (cyc := cyc) hserv ho hrun hclaim hleg hadded hsel hall hm
  have hn : selN o = n := by simp only [selN, selK, n, beq_iff_eq]
  refine hanswer ⟨o', selectLocal o, ho', hend, hadd, fun i hi => ?_, fun hop => ?_, fun hop => ?_⟩
  · obtain ⟨x, hx, t, q, rfl⟩ := hgiven _ (List.mem_map.mpr ⟨i, List.mem_range.mpr (hn ▸ hi), rfl⟩) (by rwa [hrecv])
    exact ⟨_, hx, hrecv, rfl, rfl, rfl, by rw [hn], rfl⟩
  · rw [selectLocal_max hop hall]
    refine ⟨by simp, fun e he => ?_⟩
    have hget : ((List.range (dCount o.d)).map fun e => bestOrFiller (candKind o) (elemCands o e))[e]? = some (bestOrFiller k (elemCands o e)) := by simp [he, k]
    rw [hget]
    have hne : elemCands o e ≠ [] := by simpa [elemCands] using hm
    obtain ⟨a, l, hl⟩ := List.exists_cons_of_ne_nil hne
    obtain ⟨hmem, hle⟩ := bestOf_spec (k := k) (a := a) (l := l)
    rw [← hl] at hmem hle
    rw [hl, bestOrFiller]
    refine ⟨?_, fun m hm' x hx => ?_⟩
    · obtain ⟨m, hm', he'⟩ := List.mem_map.mp hmem
      exact ⟨m, hm', congrArg some he'.symm⟩
    · obtain rfl := Option.some.inj hx
      exact not_earlier_iff.mpr (hle _ (List.mem_map.mpr ⟨m, hm', rfl⟩))
  · rw [selectLocal_topK hop]
    obtain ⟨hlen, hpair, hsub, hrest⟩ := topK_spec (k := k) (l := allCands o) (n := selK o)
    have hk : selK o = n := by simpa [selN, hop] using hn
    refine ⟨?_, hpair, fun x hx => (mem_allCands hsel hall).mp (hsub x hx), fun m hm' e he hnot => hrest _ ((mem_allCands hsel hall).mpr ⟨m, hm', e, he, rfl⟩) hnot⟩
    rw [← length_allCands hsel hall, ← hk]
    exact hlen

end Sys2Proof.Machine
end

section
/-! PROOF. An egress on die: its groups of blocks, one after the other, go to the crier (R166, R259). -/

namespace Sys2Proof.Machine

-- The inclusions that frames ask for are auto parameters, whose code is compiled: with proofs elaborated in order no thread waits for it.
set_option Elab.async false

section
variable {r s : State} {ps : List Part}

theorem queueBeat_frame {id : OpId} {t : Nat} {b : DnBeat} (h : OnlyChanges ps r s) (hq : [.ops, .planes] ⊆ ps := by decide) : OnlyChanges ps r (queueBeat id t s b) :=
  h.then (ps := [.ops, .planes]) (.ite (OnlyChanges.refl s) (withOp_frame (fun _ _ h1 => setOp_frame (setPlane_frame h1)) (OnlyChanges.refl s))) hq
theorem queueBeats_frame {id : OpId} {t : Nat} {bs : List DnBeat} (h : OnlyChanges ps r s) (hq : [.ops, .planes] ⊆ ps := by decide) : OnlyChanges ps r (queueBeats id t bs s) :=
  h.then (ps := [.ops, .planes]) (.foldl (OnlyChanges.refl s) fun _ _ h1 => queueBeat_frame h1) hq

end

/-! ### What the conversion reads stays -/

section
variable {s s' x0 : State} {o p : Op} {l : Ledger} {id : OpId} {t e j k hi : Nat} {js : List Nat} {B : Table Word64}

/-- A ledger with these block words. -/
def withBlocks (B : Table Word64) (l : Ledger) : Ledger := { l with blocks := B }

theorem setBlocks_spec {n : Nat} (hw : tableWf Ledger.free s.ledgers = true) (hl : ledgerAt n s = withBlocks B l) {X : Table Word64} :
    ∃ B', ledgerAt n (setLedger n { ledgerAt n s with blocks := X } s) = withBlocks B' l := by
  rw [ledgerAt_setLedger_self hw, hl]
  exact ⟨X, rfl⟩

/-- Blocks that a conversion covers: the elements of block j of a ledger. -/
def blockElems (l : Ledger) (j : Nat) : List Nat := (List.range (min l.count (32 * j + 32) - 32 * j)).map fun i => 32 * j + i

/-- A block as an operation that holds no bias ledger converts it. -/
def blockOf (o : Op) (l : Ledger) (j : Nat) : BlockOut := (egressBlock (egCtx o l) j ((blockElems l j).map (egVal o l)) ((blockElems l j).map fun _ => 0#64)).1

/-- The egress of an operation as it goes on: the factors and what it speculates on are those of its start. -/
structure EgSame (o : Op) (E : Egress) : Prop where
  a : E.a = o.eg.a
  u : E.u = o.eg.u
  spec : E.spec = o.eg.spec
  trueAU : E.trueAU = o.eg.trueAU

theorem EgSame.refl : EgSame o o.eg := ⟨rfl, rfl, rfl, rfl⟩

theorem EgSame.egCtx_eq {E : Egress} {P : Bool} {D : List DnBeat} (h : EgSame o E) : egCtx { o with eg := E, progress := P, down := D } (withBlocks B l) = egCtx o l := by
  simp only [egCtx, withBlocks, h.a, h.u]

theorem heldBias_none (h : heldBias o s = none) (hd : p.d = o.d) (hc : p.cop = o.cop) : heldBias p s' = none := by
  unfold heldBias at h ⊢
  rw [hd, hc]
  exact if_neg fun hb => by simp [hb] at h

theorem biasVal_none (h : heldBias o s = none) : biasVal o s e = 0#64 := by simp [biasVal, h]

/-- Without a partial page or a bias ledger there is nothing to fold. -/
theorem foldMissing_none (hp : foldPages o (ledgerAt (dLedger o.d) s) = []) (hb : heldBias o s = none) : foldMissing o s = [] := by
  simp [foldMissing, foldReads, hp, hb]

theorem needsFold_none (hp : foldPages o (ledgerAt (dLedger o.d) s) = []) (hb : heldBias o s = none) : needsFold o s = false := by
  simp [needsFold, hp, hb]

/-! ### Blocks -/

/-- The blocks js have been converted, in an operation and a state of before: only the counts of the egress, the flags and the ledger's block words have changed. -/
structure Converted (o : Op) (l : Ledger) (x0 : State) (js : List Nat) (y : Op × State × Blocks) : Prop where
  op : ∃ E, y.1 = { o with eg := E } ∧ EgSame o E
  blocks : y.2.2 = js.map fun j => (j, blockOf o l j)
  frame : OnlyChanges [.setNow, .regs, .ledgers] x0 y.2.1
  ledger : ∃ B, ledgerAt (dLedger o.d) y.2.1 = withBlocks B l
  wf : tableWf Ledger.free y.2.1.ledgers = true

theorem convertBlock_spec {y : Op × State × Blocks} (hb : ∀ s e, biasVal o s e = 0#64) (h : Converted o l x0 js y) :
    Converted o l x0 (js ++ [j]) (convertBlock l (egCtx o l) l.count y j) := by
  obtain ⟨q, s, bs⟩ := y
  obtain ⟨⟨E, hq, hE⟩, hbs, hf, ⟨B, hl⟩, hw⟩ := h
  simp only at hq hbs hf hl hw
  subst hq
  have hbias : (List.map (fun i => 32 * j + i) (List.range (min l.count (32 * j + 32) - 32 * j))).map (biasVal { o with eg := E } s) = (blockElems l j).map fun _ => 0#64 :=
    List.map_congr_left fun e _ => hb s e
  have hr (p : Nat) (f : Flags) : (raisePlane p f s).ledgers = s.ledgers := raisePlane_frame (ps := [.setNow, .regs]) (.refl _) (by decide) .ledgers (by decide)
  have hl1 (p : Nat) (f : Flags) : ledgerAt (dLedger o.d) (raisePlane p f s) = withBlocks B l := (congrArg (tget Ledger.free (dLedger o.d)) (hr p f)).trans hl
  refine ⟨⟨_, rfl, hE.a, hE.u, hE.spec, hE.trueAU⟩, ?_, ?_, ?_, ?_⟩
  · show bs ++ [_] = _
    rw [List.map_append, hbs, hbias]
    rfl
  · unfold convertBlock
    exact .ite (setLedger_frame (raisePlane_frame hf)) (raisePlane_frame hf)
  · unfold convertBlock
    dsimp only
    split
    · exact setBlocks_spec ((hr ..).symm ▸ hw) (hl1 ..)
    · exact ⟨B, hl1 ..⟩
  · unfold convertBlock
    dsimp only
    split
    · exact tset_wf _ _ _ ((hr ..).symm ▸ hw)
    · exact (hr ..).symm ▸ hw

/-- The blocks of a list are converted one after the other. -/
theorem convertBlocks_spec (hb : ∀ s e, biasVal o s e = 0#64) (hl : ledgerAt (dLedger o.d) s = l) (hw : tableWf Ledger.free s.ledgers = true) :
    Converted o l s js (js.foldl (convertBlock l (egCtx o l) l.count) (o, s, [])) := by
  suffices h : ∀ ks y, Converted o l s ks y → Converted o l s (ks ++ js) (js.foldl (convertBlock l (egCtx o l) l.count) y) from
    h [] (o, s, []) ⟨⟨_, rfl, .refl⟩, rfl, .refl s, ⟨l.blocks, hl⟩, hw⟩
  induction js with
  | nil => exact fun ks y h => by simpa using h
  | cons j js ih => exact fun ks y h => by simpa using ih _ _ (convertBlock_spec hb h)

/-- The code of an element, among converted blocks that hold its own. -/
theorem blockCode_of_mem {f : Nat → BlockOut} (h : e / 32 ∈ js) : blockCode (js.map fun j => (j, f j)) e = (f (e / 32)).elems.getD (e % 32) 0 := by
  have hfind : (js.map fun j => (j, f j)).find? (fun x => x.1 == e / 32) = some (e / 32, f (e / 32)) := by
    induction js with
    | nil => simp at h
    | cons j js ih =>
      by_cases hj : j = e / 32
      · simp [hj]
      · simpa [hj] using ih (by simpa [Ne.symm hj] using h)
  rw [blockCode, blockAt, hfind]
  rfl

end

/-! ### Groups of blocks -/

section
variable {s s' x0 : State} {o p : Op} {l : Ledger} {id : OpId} {t e j k f stop : Nat} {B : Table Word64} {c : EgCtx} {y : Op × State × Blocks} {acc : Blocks}

/-- What the crier is given of a group of blocks from element k to `stop`. -/
def groupGiven (id : OpId) (t : Nat) (l : Ledger) (c : EgCtx) (k stop : Nat) (y : Op × State × Blocks) : State :=
  let o := y.1
  let b := perBeat (outFmtOf o)
  let entries := if c.decided then entryBeats o (ownPos o) (egStart o l) o.eg.patchOut o.eg.patch false else []
  let s := setOp { o with eg := { o.eg with next := stop, measAt := t, patchOut := o.eg.patchOut + entries.length }, progress := true } y.2.1
  queueBeats id (t + stageWait s) (sumBeats o l y.2.2 0 l.count (k / b) (ceilDiv stop b) (if c.decided then kPRIMARY else kDATA) ++ entries) s

/-- The end of the group that begins at element k. -/
def groupStop (o : Op) (l : Ledger) (k : Nat) : Nat := min l.count ((k / groupElems (outFmtOf o) + 1) * groupElems (outFmtOf o))

/-- The blocks of the group that begins at element k. -/
def groupBlocks (o : Op) (l : Ledger) (k : Nat) : List Nat := (List.range (ceilDiv (groupStop o l k - k) 32)).map fun i => k / 32 + i

theorem useTrue_none (h : p.eg.trueAU = none) : useTrue p = p := by
  rw [useTrue, h]

theorem egSpan_die (h : p.leg = none) : egSpan p l = (0, l.count) := by
  rw [egSpan, h]

/-- One group on die. -/
theorem egressGroups_step (hp : opAt id s = some p) (hleg : p.leg = none) (htrue : p.eg.trueAU = none) (hl : ledgerAt (dLedger p.d) s = l) (hgo : p.eg.next < l.count)
    (hready : groupStop p l p.eg.next ≤ egReady p l s) (hb : ∀ s e, biasVal p s e = 0#64) (hw : tableWf Ledger.free s.ledgers = true) :
    egressGroups (f + 1) id t (s, acc) = egressGroups f id t
      (groupGiven id t l (egCtx p l) p.eg.next (groupStop p l p.eg.next) ((groupBlocks p l p.eg.next).foldl (convertBlock l (egCtx p l) l.count) (p, s, [])), []) := by
  have hconv := convertBlocks_spec (js := groupBlocks p l p.eg.next) hb hl hw
  rw [egressGroups, hp]
  dsimp only
  rw [useTrue_none htrue, ite_self, hl, egSpan_die hleg]
  dsimp only
  rw [Nat.max_zero]
  unfold groupStop at hready
  rw [if_neg (by omega)]
  unfold groupGiven groupBlocks groupStop at *
  generalize List.foldl (convertBlock l (egCtx p l) l.count) (p, s, []) _ = y at hconv ⊢
  obtain ⟨E, hy, -⟩ := hconv.op
  have hgather : gathers y.1 = false := by simp [gathers, hy, hleg]
  dsimp only
  simp only [hgather, Bool.not_false, Bool.and_true, Bool.false_eq_true, if_false]

/-- An egress that has converted its last element has no group to go on with. -/
theorem egressGroups_done (hp : opAt id s = some p) (hleg : p.leg = none) (htrue : p.eg.trueAU = none) (hl : p.eg.next = (ledgerAt (dLedger p.d) s).count) :
    egressGroups f id t (s, acc) = (s, acc) := by
  cases f with
  | zero => rfl
  | succ f =>
    rw [egressGroups, hp]
    dsimp only
    rw [useTrue_none htrue, ite_self, egSpan_die hleg]
    exact if_pos (.inl (by simp [hl]))

/-! ### What the crier has of an egress -/

/-- A beat with the element's converted code, for its receivers, at its home plane. -/
def BeatOf (o : Op) (l : Ledger) (e : Nat) (x : DnBeat) : Prop :=
  x.dest = sumTo o l (e / perBeat (outFmtOf o)) ∧ x.plane = homePlane l.fmt l.planes e ∧ x.offset = e / perBeat (outFmtOf o)
    ∧ x.kind = (if (egCtx o l).decided then kPRIMARY else kDATA)
    ∧ beatElem (outFmtOf o) x.data (e % perBeat (outFmtOf o)) = (blockOf o l (e / 32)).elems.getD (e % 32) 0 % 2 ^ fmtWidth (outFmtOf o)

/-- An egress has converted the elements below k, and the crier has them. -/
structure EgReach (o : Op) (l : Ledger) (x0 : State) (k : Nat) (s : State) : Prop where
  op : ∃ E P D, opAt o.id s = some { o with eg := E, progress := P, down := D } ∧ EgSame o E ∧ E.next = k ∧ ∀ e, e < k → sumTo o l (e / perBeat (outFmtOf o)) ≠ [] → ∃ x ∈ D, BeatOf o l e x
  frame : OnlyChanges [.ops, .planes, .setNow, .regs, .ledgers] x0 s
  ledger : ∃ B, ledgerAt (dLedger o.d) s = withBlocks B l
  wf : tableWf Ledger.free s.ledgers = true

theorem groupElems_dvd (f : Fmt) : 32 ∣ groupElems f := by
  unfold groupElems perBeat
  rcases fmtWidth_cases f with h | h | h | h | h <;> rw [h] <;> decide

theorem le_groupElems (f : Fmt) : 32 ≤ groupElems f := Nat.le_max_left ..

/-- A placement chunk holds whole beats of every output format. -/
theorem homePlane_beat (f g : Fmt) (m : Nat) : homePlane g m (e / perBeat f * perBeat f) = homePlane g m e := by
  have hdvd : perBeat f ∣ perChunk g := by
    unfold perBeat perChunk
    rcases fmtWidth_cases f with hf | hf | hf | hf | hf <;> rcases fmtWidth_cases g with hg | hg | hg | hg | hg <;> rw [hf, hg] <;> decide
  obtain ⟨q, hq⟩ := hdvd
  rw [homePlane, homePlane, hq, ← Nat.div_div_eq_div_mul, Nat.mul_div_cancel _ (perBeat_pos f), Nat.div_div_eq_div_mul]

/-- The beats of the group that begins at a whole group hold its elements. -/
theorem groupBeats_spec (hk : 32 ∣ k) (he : k ≤ e) (hstop : e < stop) (hcount : stop ≤ l.count) {bs : Blocks}
    (hbs : bs = ((List.range (ceilDiv (stop - k) 32)).map fun i => k / 32 + i).map fun j => (j, blockOf o l j)) {kind : Nat} (hkind : kind = if (egCtx o l).decided then kPRIMARY else kDATA) :
    ∃ b ∈ sumBeats o l bs 0 l.count (k / perBeat (outFmtOf o)) (ceilDiv stop (perBeat (outFmtOf o))) kind, b.dest = sumTo o l (e / perBeat (outFmtOf o)) ∧ ∀ x, GivenAs b x → BeatOf o l e x := by
  have hb := perBeat_pos (outFmtOf o)
  obtain ⟨q, rfl⟩ := hk
  have hmem : e / 32 ∈ (List.range (ceilDiv (stop - 32 * q) 32)).map fun i => 32 * q / 32 + i :=
    List.mem_map.mpr ⟨e / 32 - q, List.mem_range.mpr ((lt_ceilDiv (by decide)).mpr (by omega)), by omega⟩
  have helem : e / perBeat (outFmtOf o) * perBeat (outFmtOf o) + e % perBeat (outFmtOf o) = e := by rw [Nat.mul_comm, Nat.div_add_mod]
  refine ⟨_, List.mem_map.mpr ⟨e / perBeat (outFmtOf o), List.mem_filter.mpr ⟨List.mem_range.mpr ((lt_ceilDiv hb).mpr ?_), ?_⟩, rfl⟩, rfl, ?_⟩
  · exact Nat.lt_of_le_of_lt (Nat.div_mul_le_self ..) hstop
  · simpa using Nat.div_le_div_right he
  · rintro x ⟨t, i, rfl⟩
    refine ⟨rfl, homePlane_beat .., rfl, hkind, ?_⟩
    refine (beatElem_packBeat (Nat.mod_lt _ hb) (Nat.zero_le _) (by omega)).trans ?_
    rw [helem, hbs, blockCode_of_mem hmem]

section
variable (hleg : o.leg = none) (htrue : o.eg.trueAU = none) (hbias : heldBias o x0 = none)
include hleg htrue hbias

/-- One group goes to the crier. -/
theorem groupGiven_reach (hr : EgReach o l x0 k s) (hk : 32 ∣ k) (hgo : k < l.count)
    (hready : ∀ s E P D B, EgSame o E → ledgerAt (dLedger o.d) s = withBlocks B l → l.count ≤ egReady { o with eg := E, progress := P, down := D } (withBlocks B l) s) :
    ∃ s', egressGroups (f + 1) o.id t (s, acc) = egressGroups f o.id t (s', []) ∧ EgReach o l x0 (groupStop o l k) s' := by
  obtain ⟨⟨E, P, D, hp, hE, rfl, hgiven⟩, hframe, ⟨B, hl⟩, hw⟩ := hr
  generalize hpe : ({ o with eg := E, progress := P, down := D } : Op) = p at hp
  have hnobias (s : State) (e : Nat) : biasVal p s e = 0#64 := biasVal_none (heldBias_none hbias (by subst hpe; rfl) (by subst hpe; rfl))
  have hstop : groupStop p (withBlocks B l) E.next = groupStop o l E.next := by subst hpe; rfl
  have hctx : egCtx p (withBlocks B l) = egCtx o l := by subst hpe; exact hE.egCtx_eq
  have hcount : groupStop o l E.next ≤ l.count := Nat.min_le_left ..
  have hlp : ledgerAt (dLedger p.d) s = withBlocks B l := by subst hpe; exact hl
  have hconv := convertBlocks_spec (js := groupBlocks p (withBlocks B l) E.next) hnobias hlp hw
  have hnext : p.eg.next = E.next := by subst hpe; rfl
  have hstep := egressGroups_step (f := f) (t := t) (acc := acc) hp (by subst hpe; exact hleg) (by subst hpe; exact hE.trueAU.trans htrue) hlp (by rw [hnext]; exact hgo)
    (by rw [hnext, hstop]; subst hpe; exact hcount.trans (hready s E P D B hE hl)) hnobias hw
  rw [hnext, hstop] at hstep
  refine ⟨_, hstep, ?_⟩
  generalize List.foldl (convertBlock (withBlocks B l) (egCtx p (withBlocks B l)) (withBlocks B l).count) (p, s, []) (groupBlocks p (withBlocks B l) E.next) = y at hconv ⊢
  obtain ⟨q, s2, bs⟩ := y
  obtain ⟨⟨E2, hy, hE2⟩, hbs, hf, ⟨B2, hl2⟩, hw2⟩ := hconv
  simp only at hy hbs hf hl2 hw2
  have hblocks : blockOf p (withBlocks B l) = blockOf o l := by
    funext j
    unfold blockOf
    rw [hctx]
    subst hpe
    rfl
  have hjs : groupBlocks p (withBlocks B l) E.next = (List.range (ceilDiv (groupStop o l E.next - E.next) 32)).map fun i => E.next / 32 + i := by rw [groupBlocks, hstop]
  rw [hblocks, hjs] at hbs
  have hp2 : opAt o.id s2 = some p := (opAt_of_ops (hf .ops (by decide)) o.id).trans hp
  subst hpe hy
  unfold groupGiven
  dsimp only
  generalize hn : (if (egCtx { o with eg := E, progress := P, down := D } (withBlocks B l)).decided = true then _ else ([] : List DnBeat)) = entries
  obtain ⟨ds, hq, hall⟩ := queueBeats_spec (t := t + stageWait s2)
    (bs := sumBeats o l bs 0 l.count (E.next / perBeat (outFmtOf o)) (ceilDiv (groupStop o l E.next) (perBeat (outFmtOf o))) (if (egCtx o l).decided = true then kPRIMARY else kDATA) ++ entries)
    (opAt_setOp_of (o' := { o with eg := { E2 with next := groupStop o l E.next, measAt := t, patchOut := E2.patchOut + entries.length }, progress := true, down := D }) hp2 rfl)
  refine ⟨⟨{ E2 with next := groupStop o l E.next, measAt := t, patchOut := E2.patchOut + entries.length }, true, D ++ ds, ?_, ⟨hE2.a.trans hE.a, hE2.u.trans hE.u, hE2.spec.trans hE.spec, hE2.trueAU.trans hE.trueAU⟩, rfl, fun e he hto => ?_⟩, ?_, ?_, ?_⟩
  · rw [hctx]
    exact hq
  · by_cases hlt : e < E.next
    · obtain ⟨x, hx, hb⟩ := hgiven e hlt hto
      exact ⟨x, List.mem_append_left _ hx, hb⟩
    · obtain ⟨b, hmem, hdest, hb⟩ := groupBeats_spec (o := o) (l := l) hk (Nat.le_of_not_lt hlt) he hcount hbs rfl
      obtain ⟨x, hx, hg⟩ := hall b (List.mem_append_left _ hmem) (by rwa [hdest])
      exact ⟨x, List.mem_append_right _ hx, hb x hg⟩
  · exact queueBeats_frame (setOp_frame (hframe.trans (hf.mono (by decide))))
  · exact ⟨B2, (congrArg (tget Ledger.free (dLedger o.d)) (queueBeats_frame (ps := [.ops, .planes]) (setOp_frame (.refl s2)) (by decide) .ledgers (by decide))).trans hl2⟩
  · exact (queueBeats_frame (ps := [.ops, .planes]) (setOp_frame (.refl s2)) (by decide) .ledgers (by decide)).symm ▸ hw2

/-- Group by group the whole ledger goes to the crier. -/
theorem egressGroups_reach (hready : ∀ s E P D B, EgSame o E → ledgerAt (dLedger o.d) s = withBlocks B l → l.count ≤ egReady { o with eg := E, progress := P, down := D } (withBlocks B l) s)
    (hr : EgReach o l x0 k s) (hk : groupElems (outFmtOf o) ∣ k ∨ k = l.count) (hle : k ≤ l.count) (hfuel : l.count ≤ k + 32 * f) :
    ∃ s' bs, egressGroups f o.id t (s, acc) = (s', bs) ∧ EgReach o l x0 l.count s' := by
  induction f generalizing k s acc with
  | zero =>
    obtain rfl : k = l.count := by omega
    exact ⟨s, acc, rfl, hr⟩
  | succ f ih =>
    rcases Nat.lt_or_eq_of_le hle with hlt | rfl
    · have hdvd : groupElems (outFmtOf o) ∣ k := hk.resolve_right (by omega)
      obtain ⟨s', hs, hr'⟩ := groupGiven_reach (f := f) (t := t) (acc := acc) hleg htrue hbias hr ((groupElems_dvd _).trans hdvd) hlt hready
      obtain ⟨m, rfl⟩ := hdvd
      have hG := le_groupElems (outFmtOf o)
      have hstop : groupStop o l (groupElems (outFmtOf o) * m) = min l.count (groupElems (outFmtOf o) * (m + 1)) := by
        rw [groupStop, Nat.mul_div_cancel_left _ (by omega), Nat.mul_comm (m + 1)]
      rw [hs]
      rw [hstop] at hr'
      rw [Nat.mul_succ] at hr'
      refine ih hr' ?_ (Nat.min_le_left ..) (by omega)
      rcases Nat.le_total l.count (groupElems (outFmtOf o) * m + groupElems (outFmtOf o)) with h | h
      · exact .inr (Nat.min_eq_left h)
      · exact .inl (by rw [Nat.min_eq_right h, ← Nat.mul_succ]; exact Nat.dvd_mul_right ..)
    · refine ⟨s, acc, ?_, hr⟩
      obtain ⟨⟨E, P, D, hp, hE, hnext, -⟩, -, ⟨B, hl⟩, -⟩ := hr
      exact egressGroups_done hp hleg (hE.trueAU.trans htrue) (hnext.trans (congrArg Ledger.count hl).symm)

end

/-! ### The run of an egress -/

theorem endOutput_spec {d : Bool} (hp : opAt id s = some p) :
    (∃ D, opAt id (endOutput id t d s) = some { p with eg := { p.eg with ended := true }, down := p.down ++ D }) ∧ OnlyChanges [.ops, .planes] s (endOutput id t d s) := by
  have hid : p.id = id := opAt_id hp
  have h1 := opAt_setOp_of (o' := { p with eg := { p.eg with ended := true } }) hp hid
  rw [endOutput, withOp_eq hp]
  dsimp only
  split
  · obtain ⟨D, hD, -⟩ := queueBeats_spec (t := t) h1
    exact ⟨⟨D, hD⟩, queueBeats_frame (setOp_frame (.refl s))⟩
  · exact ⟨⟨[], by simpa using h1⟩, setOp_frame (.refl s)⟩

theorem egressEnd_die {bs : Blocks} (hp : opAt id s = some p) (hleg : p.leg = none) :
    egressEnd id t bs s = endOutput id (t + stageWait s) (egCtx p (ledgerAt (dLedger p.d) s)).decided s := by
  rw [egressEnd, withOp_eq hp]
  dsimp only
  split
  · rfl
  · next g hg => simp [hleg] at hg

/-- The egress of an operation on die whose accumulators are ready. -/
theorem egressRun_spec (hserv : serving s = true) (hp : opAt o.id s = some o) (hrun : runs o = true) (hclose : isClosing (dOp o.d) = true) (hclaim : o.claim = .claimed) (hleg : o.leg = none)
    (hheld : egHeld o = false) (hnext : o.eg.next = 0) (htrue : o.eg.trueAU = none) (hbias : heldBias o s = none) (hl : ledgerAt (dLedger o.d) s = l) (hw : tableWf Ledger.free s.ledgers = true)
    (hcount : 0 < l.count)
    (hready : ∀ s E P D B, EgSame o E → ledgerAt (dLedger o.d) s = withBlocks B l → l.count ≤ egReady { o with eg := E, progress := P, down := D } (withBlocks B l) s) :
    OnlyChanges [.ops, .planes, .setNow, .regs, .ledgers] s (egressRun o.id t s)
      ∧ ∃ o', opAt o.id (egressRun o.id t s) = some o' ∧ o'.eg.ended = true ∧ o'.eg.next = l.count ∧ ∀ e, e < l.count → sumTo o l (e / perBeat (outFmtOf o)) ≠ [] → ∃ x ∈ o'.down, BeatOf o l e x := by
  have hstart : EgReach o l s 0 s := ⟨⟨o.eg, o.progress, o.down, hp, .refl, hnext, by simp⟩, .refl s, ⟨l.blocks, hl⟩, hw⟩
  obtain ⟨s', bs, hgroups, hr⟩ := egressGroups_reach (t := t) (f := l.count / 32 + 2) (acc := []) hleg htrue hbias hready hstart (.inl (Nat.dvd_zero _)) (Nat.zero_le _) (by omega)
  obtain ⟨⟨E, P, D, hp', hE, hend, hgiven⟩, hframe, ⟨B, hl'⟩, -⟩ := hr
  generalize hq : ({ o with eg := E, progress := P, down := D } : Op) = q at hp'
  have hqd : q.d = o.d := by subst hq; rfl
  have hqleg : q.leg = none := by subst hq; exact hleg
  have hqnext : q.eg.next = l.count := by subst hq; exact hend
  have hqdown : q.down = D := by subst hq; rfl
  have hfill : fillEmpty t o l s = s := if_neg (by rw [egSpan_die hleg]; simp only; omega)
  have hconv : egConverted q (ledgerAt (dLedger q.d) s') = true := by
    rw [hqd, hl', egConverted, egSpan_die hqleg, hqnext]
    exact decide_eq_true (Nat.le_refl l.count)
  have hnot : egConverted o l = false := by
    rw [egConverted, egSpan_die hleg, hnext]
    exact decide_eq_false (by simp only; omega)
  have hrun' : egressRun o.id t s = endOutput o.id (t + stageWait s') (egCtx q (ledgerAt (dLedger q.d) s')).decided s' := by
    rw [egressRun, withRunning_eq (alive_of_serving hserv) hp hrun]
    dsimp only
    rw [hl, if_neg (by simp [hserv, hclose, hclaim, hheld, hnot]), hfill, hgroups]
    dsimp only
    rw [withOp_eq hp', if_pos hconv, egressEnd_die hp' hqleg]
  obtain ⟨⟨D', ho'⟩, hf⟩ := endOutput_spec (t := t + stageWait s') (d := (egCtx q (ledgerAt (dLedger q.d) s')).decided) hp'
  rw [hrun']
  refine ⟨hframe.trans (hf.mono (by decide)), _, ho', rfl, hqnext, fun e he hto => ?_⟩
  obtain ⟨x, hx, hb⟩ := hgiven e he hto
  exact ⟨x, List.mem_append_left _ (hqdown ▸ hx), hb⟩

/-! ### Folding before it -/

/-- The operation after phase 2, where there is nothing to fold. -/
def foldedOp (o : Op) : Op := if contribDone o && !o.foldDone then { o with foldDone := true, foldBuf := [] } else o

theorem foldLedger_none {off : Nat} {x : Op × State} (h : foldPages (if off = 0 then x.1 else noPool x.1) l = []) : foldLedger off l x = x := by
  rw [foldLedger]
  dsimp only
  rw [h]
  rfl

theorem foldStep_none (ha : alive s = true) (hp : opAt id s = some o) (hrun : runs o = true) (hfold : o.foldDone = false) (hpages : foldPages o (ledgerAt (dLedger o.d) s) = [])
    (hbias : heldBias o s = none) : foldStep id s = setOp { o with foldDone := true, foldBuf := [] } s := by
  rw [foldStep, withRunning_eq ha hp hrun, if_neg (by simp [hfold]), if_neg (by simp [foldMissing_none hpages hbias]), foldLedger_none (by simpa using hpages)]
  simp only [hbias]

/-- With nothing to fold, the egress runs on the operation with its fold noted. -/
theorem egressApply_eq {cyc : Nat} (ha : alive s = true) (hp : opAt id s = some o) (hrun : runs o = true) (hclose : isClosing (dOp o.d) = true) (hclaim : o.claim = .claimed)
    (hpages : foldPages o (ledgerAt (dLedger o.d) s) = []) (hbias : heldBias o s = none) :
    ∃ s', egressApply id cyc s = egressRun id (stamp cyc s') s' ∧ opAt id s' = some (foldedOp o) ∧ OnlyChanges [.ops] s s' := by
  rw [egressApply]
  rw [withRunning_eq ha hp hrun]
  unfold foldedOp
  by_cases hfold : (contribDone o && !o.foldDone) = true
  · have hnot : o.foldDone = false := by simpa using (Bool.and_eq_true_iff.mp hfold).2
    rw [if_pos (by simp [hclose, hclaim, Bool.and_eq_true_iff.mp hfold]), if_pos hfold, foldStep_none ha hp hrun hnot hpages hbias]
    have hid : o.id = id := opAt_id hp
    exact ⟨_, rfl, opAt_setOp_of hp hid, setOp_frame (.refl s)⟩
  · rw [if_neg (by simpa [hclose, hclaim] using hfold), if_neg hfold]
    exact ⟨s, rfl, hp, .refl s⟩

theorem foldedOp_same : ∃ F b, foldedOp o = { o with foldDone := F, foldBuf := b } := by
  unfold foldedOp
  split <;> exact ⟨_, _, rfl⟩

theorem foldedOp_done (h : contribDone o = true) : localDone (foldedOp o) = true := by
  unfold foldedOp
  cases hf : o.foldDone with
  | false =>
    rw [if_pos (by simp [h])]
    exact (Bool.and_true _).trans h
  | true =>
    rw [if_neg (by simp)]
    simp [localDone, h, hf]

theorem streams_die (hleg : o.leg = none) (hpages : foldPages o (ledgerAt (dLedger o.d) s) = []) (hbias : heldBias o s = none) : streams o s = (isOneShot (dOp o.d) && !o.eg.spec) := by
  simp [streams, hleg, needsFold_none hpages hbias]

/-- What is ready for the egress depends on nothing that the egress changes. -/
theorem egReady_same {E : Egress} {P : Bool} {D : List DnBeat} (hleg : o.leg = none) (hbias : heldBias o x0 = none)
    (hpages : foldPages o l = []) (hE : E.spec = o.eg.spec) (hl : ledgerAt (dLedger o.d) s = withBlocks B l) (hl0 : ledgerAt (dLedger o.d) x0 = l)
    (hready : if streams o x0 then l.count ≤ egReady o l x0 else contribDone o = true) : l.count ≤ egReady { foldedOp o with eg := E, progress := P, down := D } (withBlocks B l) s := by
  have hdone := foldedOp_done (o := o)
  obtain ⟨F, b, hf⟩ := foldedOp_same (o := o)
  rw [hf] at hdone ⊢
  have hpagesq : foldPages { o with foldDone := F, foldBuf := b, eg := E, progress := P, down := D } (ledgerAt (dLedger o.d) s) = [] := by rw [hl]; exact hpages
  have hstream : streams { o with foldDone := F, foldBuf := b, eg := E, progress := P, down := D } s = streams o x0 := by
    rw [streams_die (s := s) (o := { o with foldDone := F, foldBuf := b, eg := E, progress := P, down := D }) hleg hpagesq (heldBias_none hbias rfl rfl),
      streams_die (s := x0) (o := o) hleg (hl0.symm ▸ hpages) hbias]
    show (isOneShot (dOp o.d) && !E.spec) = _
    rw [hE]
  unfold egReady
  rw [hstream]
  simp only [hleg]
  by_cases hs : streams o x0 = true
  · rw [if_pos hs]
    rw [if_pos hs, egReady] at hready
    simp only [hleg, hs, if_true] at hready
    exact hready
  · rw [if_neg hs] at hready ⊢
    exact (if_pos (hdone hready)).ge

end

/-- An egress on die gives every element to the crier. -/
theorem egressToCrier : Claims.EgressToCrier := by
  intro id cyc o s hw hserv hdue ho hrun hclose hclaim hleg hheld hnext htrue hbias l hcount hpages hready f b
  refine answers_unplaced rfl rfl hdue ?_
  obtain ⟨s1, he, ho1, hf1⟩ := egressApply_eq (cyc := cyc) (alive_of_serving hserv) ho hrun hclose hclaim hpages hbias
  have hid := opAt_id ho
  have hl1 : ledgerAt (dLedger o.d) s1 = l := congrArg (tget Ledger.free (dLedger o.d)) (hf1 .ledgers (by decide))
  have hw1 : tableWf Ledger.free s1.ledgers = true := (hf1 .ledgers (by decide)).symm ▸ ledgers_wf (allWf_tablesWf hw)
  have hserv1 : serving s1 = true := (hf1.serving_eq (by decide)).trans hserv
  have hsame := fun (s' : State) (E : Egress) (P : Bool) (D : List DnBeat) (B : Table Word64) (hE : EgSame (foldedOp o) E) (hl' : ledgerAt (dLedger (foldedOp o).d) s' = withBlocks B l) =>
    egReady_same (s := s') (E := E) (P := P) (D := D) (B := B) (x0 := s) (l := l) hleg hbias hpages
      (by obtain ⟨F, b, hq⟩ := foldedOp_same (o := o); rw [hq] at hE; exact hE.spec)
      (by obtain ⟨F, b, hq⟩ := foldedOp_same (o := o); rw [hq] at hl'; exact hl') rfl hready
  obtain ⟨F, g, hq⟩ := foldedOp_same (o := o)
  rw [hq] at ho1 hsame
  subst hid
  obtain ⟨hframe, o', ho', hend, hnext', hgiven⟩ := egressRun_spec (t := stamp cyc s1) (o := { o with foldDone := F, foldBuf := g }) (l := l) hserv1 ho1 hrun hclose hclaim hleg hheld hnext htrue
    (heldBias_none hbias rfl rfl) hl1 hw1 hcount hsame
  rw [he]
  refine ⟨(hframe .out (by decide)).trans (hf1 .out (by decide)), o', ho', hend, hnext', fun e he hto => ?_⟩
  obtain ⟨x, hx, hdest, hplane, hoff, hkind, hdata⟩ := hgiven e he hto
  refine ⟨x, hx, hdest, hplane, hoff, hkind, hdata.trans ?_⟩
  have hzero : (blockElems l (e / 32)).map (biasVal o s) = (blockElems l (e / 32)).map fun _ => 0#64 := List.map_congr_left fun e _ => biasVal_none hbias
  show _ = (egressBlock (egCtx o l) (e / 32) ((blockElems l (e / 32)).map (egVal o l)) ((blockElems l (e / 32)).map (biasVal o s))).1.elems.getD (e % 32) 0 % 2 ^ fmtWidth f
  rw [hzero]
  rfl

end Sys2Proof.Machine
end

section
/-! PROOF. The crier presents the beats of a transit before it ends (R32, R33, R384). -/

namespace Sys2Proof.Machine

-- The inclusions that frames ask for are auto parameters, whose code is compiled: with proofs elaborated in order no thread waits for it.
set_option Elab.async false

/-- The outputs hold this one, and the operation has no beat left and has shown its output. -/
structure Shows (x : PortOut) (id : OpId) (t : State) : Prop where
  out : x ∈ t.out
  op : ∃ o, opAt id t = some o ∧ o.down = [] ∧ o.eg.shown = true

section
variable {x : PortOut} {id : OpId} {s t : State} {ps : List Part}

/-! ### What keeps an output shown -/

theorem Shows.next (h : Shows x id s) (hf : OnlyChanges ps s t) (hp : .ops ∉ ps ∧ .out ∉ ps := by decide) : Shows x id t :=
  ⟨(hf .out hp.2 : t.out = s.out) ▸ h.out, by rw [opAt_of_ops (hf .ops hp.1)]; exact h.op⟩

theorem Shows.present {y : PortOut} (h : Shows x id s) : Shows x id (present y s) := ⟨List.mem_append_left _ h.out, h.op⟩

theorem Shows.ite {p : Prop} [Decidable p] (hs : Shows x id s) (ht : Shows x id t) : Shows x id (if p then s else t) := by
  split
  · exact hs
  · exact ht

theorem Shows.foldl {α : Type} {f : State → α → State} {l : List α} (h : Shows x id s) (hf : ∀ t a, Shows x id t → Shows x id (f t a)) : Shows x id (l.foldl f s) := by
  induction l generalizing s with
  | nil => exact h
  | cons a l ih => exact ih (hf s a h)

theorem findOp_map {g : Op → Op} (hg : ∀ o, (g o).id = o.id) {l : List Op} : findOp id (l.map g) = (findOp id l).map g := by
  induction l with
  | nil => rfl
  | cons o l ih =>
    simp only [findOp, List.map_cons, hg] at ih ⊢
    split
    · rfl
    · exact ih

/-- Every operation takes other values, but keeps its name, its beats and its output. -/
theorem Shows.mapOps {g : Op → Op} (h : Shows x id s) (hg : ∀ o, (g o).id = o.id ∧ (g o).down = o.down ∧ (g o).eg = o.eg) : Shows x id { s with ops := s.ops.map g } := by
  obtain ⟨o, ho, hdown, hshown⟩ := h.op
  refine ⟨h.out, g o, ?_, (hg o).2.1.trans hdown, by rw [(hg o).2.2]; exact hshown⟩
  exact (findOp_map fun o => (hg o).1).trans (congrArg (Option.map g) ho)

theorem Shows.withOp {j : OpId} {f : Op → State → State} (h : Shows x id s) (hf : ∀ o, opAt j s = some o → Shows x id (f o s)) : Shows x id (withOp j f s) := by
  unfold Machine.withOp
  split
  · exact h
  · exact hf _ ‹_›

/-! ### The crier -/

/-- A beat as the crier presents it. -/
def beatOut (o : Op) (b : DnBeat) (t : Nat) : PortOut := .dn b.dest b.plane (dLedger o.d) b.offset b.kind b.data b.scale t

/-- The operation whose beat has been presented, in a block that is paired or not. -/
def beatShown (paired : Bool) (o : Op) (b : DnBeat) (t : Nat) : Op :=
  { o with
    eg := { o.eg with endedAt := max o.eg.endedAt t, shown := true, chunkOut := if dEarly o.d || paired then noteChunk b.chunk t o.eg.chunkOut else o.eg.chunkOut }
    down := o.down.filter (· != b)
    progress := true }

/-- The state with a beat presented, before its operation takes note. -/
def beatPresented (o : Op) (b : DnBeat) (n : Nat) (s : State) : State := perfLater pcDnBeats 1 (countDn b.dest (present (beatOut o b n) s))

theorem beatPresented_frame {o : Op} {b : DnBeat} {n : Nat} : OnlyChanges [.counts, .stalls, .out] s (beatPresented o b n s) :=
  perfLater_frame (countDn_frame (present_frame (.refl s)))

theorem beatPresented_out {o : Op} {b : DnBeat} {n : Nat} : (beatPresented o b n s).out = s.out ++ [beatOut o b n] :=
  ((perfLater_frame (ps := [.counts, .stalls]) (countDn_frame (.refl (present (beatOut o b n) s)))) .out (by decide) :)

theorem presentBeat_eq {o : Op} {b : DnBeat} {n : Nat} (ho : opAt id s = some o) :
    presentBeat id n b s = setOp (beatShown (binoPaired (beatPresented o b n s)) o b n) (beatPresented o b n s) := withOp_eq ho

theorem Shows.presentBeat {j : OpId} {b : DnBeat} {n : Nat} (h : Shows x id s) : Shows x id (presentBeat j n b s) := by
  refine h.withOp fun o ho => ?_
  show Shows x id (setOp (beatShown (binoPaired (beatPresented o b n s)) o b n) (beatPresented o b n s))
  obtain ⟨q, hq, hdown, hshown⟩ := h.op
  have hid : o.id = j := opAt_id ho
  have hops (i : OpId) : opAt i (beatPresented o b n s) = opAt i s := opAt_of_ops (beatPresented_frame .ops (by decide)) i
  refine ⟨by rw [show ∀ p : Op, (setOp p (beatPresented o b n s)).out = s.out ++ [beatOut o b n] from fun _ => beatPresented_out]; exact List.mem_append_left _ h.out, ?_⟩
  by_cases hj : id = j
  · subst hj
    obtain rfl : o = q := Option.some.inj (ho.symm.trans hq)
    exact ⟨_, opAt_setOp_of ((hops id).trans ho) hid, by rw [beatShown, hdown]; rfl, rfl⟩
  · exact ⟨q, (opAt_setOp_ne (o := beatShown (binoPaired (beatPresented o b n s)) o b n) (fun he => hj (he.trans hid))).trans ((hops id).trans hq), hdown, hshown⟩

theorem Shows.planeCycle {p n : Nat} (h : Shows x id s) : Shows x id (planeCycle p n s) := by
  have hset {v : PlaneSt} : Shows x id (setPlane p v s) := h.next (ps := [.planes]) (setPlane_frame (.refl s))
  unfold Machine.planeCycle
  dsimp only
  split
  · have hirq {t : State} (ht : Shows x id t) : Shows x id (irq pSTALL 2 t) := ht.next (ps := [.setNow, .regs]) (irq_frame (.refl t))
    exact .ite (.ite hset hset.present) (hirq (.present (.ite hset hset.present)))
  · split
    · exact h
    · exact hset.presentBeat

theorem Shows.planeRun {f p stop : Nat} (h : Shows x id s) : Shows x id (planeRun f p stop s) := by
  induction f generalizing s with
  | zero => exact h
  | succ f ih =>
    unfold Machine.planeRun
    split
    · exact h
    · exact .ite h (ih h.planeCycle)

end

/-! ### The one beat that waits -/

/-- The operations, the clock and the beat's plane are as they were. -/
structure Waits (b : DnBeat) (s0 s : State) : Prop where
  ops : s.ops = s0.ops
  clock : s.clock = s0.clock
  plane : planeAt b.plane s = planeAt b.plane s0

/-- The beat that waits is this operation's, and the plane has nothing to recall. -/
structure OneWaits (o : Op) (b : DnBeat) (s : State) : Prop where
  op : opAt o.id s = some o
  down : o.down = [b]
  others : ∀ x ∈ s.ops, x.id ≠ o.id → x.down = []
  same : ∀ x ∈ s.ops, x.id = o.id → x = o
  recalls : (planeAt b.plane s).recalls = []

section
variable {o : Op} {b : DnBeat} {s0 s : State} {p n : Nat}

theorem headBeat_mem {x : DnBeat} (h : headBeat p n o = some x) : x ∈ o.down ∧ x.plane = p := by
  have hmem : x ∈ o.down.filter fun b => b.plane == p && decide (b.from' ≤ n) := by
    unfold headBeat at h
    dsimp only at h
    generalize o.down.filter (fun b => b.plane == p && decide (b.from' ≤ n)) = l at h ⊢
    cases hf : l.find? fun b => b.kind != kPATCH with
    | some y =>
      rw [hf] at h
      exact Option.some.inj h ▸ List.mem_of_find?_eq_some hf
    | none =>
      rw [hf] at h
      exact List.mem_of_head? h
  obtain ⟨hx, hp⟩ := List.mem_filter.mp hmem
  exact ⟨hx, by simpa using (Bool.and_eq_true_iff.mp hp).1⟩

theorem mem_turnOrder {last : Option OpId} {l : List Op} (h : o ∈ l) : o ∈ turnOrder last l := by
  cases last with
  | none => exact h
  | some id =>
    simp only [turnOrder, List.mem_append, List.mem_filter]
    by_cases hid : o.id = id
    · exact .inr ⟨h, by simpa using hid⟩
    · refine .inl ?_
      rw [← List.takeWhile_append_dropWhile (p := fun o => o.id != id) (l := l), List.mem_append] at h
      rcases h with h | h
      · exact .inr h
      · refine .inl ?_
        cases hd : l.dropWhile fun o => o.id != id with
        | nil => rw [hd] at h; cases h
        | cons y l' =>
          have hy : (y.id != id) = false := by
            have := List.head?_dropWhile_not (fun o : Op => o.id != id) l
            rw [hd] at this
            simpa using this
          rw [hd] at h
          rcases List.mem_cons.mp h with rfl | h
          · exact absurd (by simpa using hy) hid
          · exact h

theorem mem_of_turnOrder {last : Option OpId} {l : List Op} (h : o ∈ turnOrder last l) : o ∈ l := by
  cases last with
  | none => exact h
  | some id =>
    simp only [turnOrder, List.mem_append, List.mem_filter] at h
    rcases h with (h | h) | h
    · exact (List.dropWhile_sublist _).subset (List.mem_of_mem_drop h)
    · exact (List.takeWhile_sublist _).subset h
    · exact h.1

theorem OneWaits.down_of_mem (h : OneWaits o b s) {x : Op} (hx : x ∈ s.ops) {y : DnBeat} (hy : y ∈ x.down) : x = o ∧ y = b := by
  by_cases hid : x.id = o.id
  · obtain rfl := h.same x hx hid
    rw [h.down] at hy
    exact ⟨rfl, List.mem_singleton.mp hy⟩
  · rw [h.others x hx hid] at hy
    cases hy

/-- No beat passes on another plane. -/
theorem OneWaits.findSome_other (h : OneWaits o b s) (hp : p ≠ b.plane) (last : Option OpId) :
    ((turnOrder last s.ops).findSome? fun o => (headBeat p n o).map fun b => (o.id, b)) = none := by
  refine List.findSome?_eq_none_iff.mpr fun x hx => ?_
  cases hh : headBeat p n x with
  | none => rfl
  | some y =>
    obtain ⟨hy, hyp⟩ := headBeat_mem hh
    obtain ⟨-, rfl⟩ := h.down_of_mem (mem_of_turnOrder hx) hy
    exact absurd hyp.symm hp

/-- On its plane, the beat that waits is the first one. -/
theorem OneWaits.findSome_self (h : OneWaits o b s) (hn : b.from' ≤ n) (last : Option OpId) :
    ((turnOrder last s.ops).findSome? fun o => (headBeat b.plane n o).map fun b => (o.id, b)) = some (o.id, b) := by
  have hmem : o ∈ s.ops := findOp_mem h.op
  have hhead : headBeat b.plane n o = some b := by
    unfold headBeat
    rw [h.down]
    by_cases hk : (b.kind != kPATCH) = true <;> simp [hn, hk]
  cases hf : (turnOrder last s.ops).findSome? fun o => (headBeat b.plane n o).map fun b => (o.id, b) with
  | none =>
    have := List.findSome?_eq_none_iff.mp hf o (mem_turnOrder hmem)
    rw [hhead] at this
    cases this
  | some z =>
    obtain ⟨x, hx, hz⟩ := List.exists_of_findSome?_eq_some hf
    obtain ⟨y, hy, rfl⟩ := Option.map_eq_some_iff.mp hz
    obtain ⟨rfl, rfl⟩ := h.down_of_mem (mem_of_turnOrder hx) (headBeat_mem hy).1
    rfl

theorem OneWaits.of_waits (h : OneWaits o b s0) (hw : Waits b s0 s) : OneWaits o b s :=
  ⟨(opAt_of_ops hw.ops o.id).trans h.op, h.down, hw.ops.symm ▸ h.others, hw.ops.symm ▸ h.same, hw.plane.symm ▸ h.recalls⟩

theorem Waits.refl : Waits b s s := ⟨rfl, rfl, rfl⟩

theorem Waits.planeCycle (h : OneWaits o b s0) (hw : Waits b s0 s) (hp : p ≠ b.plane) : Waits b s0 (planeCycle p n s) := by
  have hset {v : PlaneSt} : Waits b s0 (setPlane p v s) := ⟨hw.ops, hw.clock, (planeAt_setPlane_ne hp.symm).trans hw.plane⟩
  have hpresent {y : PortOut} {t : State} (ht : Waits b s0 t) : Waits b s0 (present y t) := ⟨ht.ops, ht.clock, ht.plane⟩
  have hite {q : Prop} [Decidable q] {t u : State} (ht : Waits b s0 t) (hu : Waits b s0 u) : Waits b s0 (if q then t else u) := by
    split
    · exact ht
    · exact hu
  unfold Machine.planeCycle
  dsimp only
  split
  · have hirq {t : State} (ht : Waits b s0 t) : Waits b s0 (irq pSTALL 2 t) := ⟨ht.ops, ht.clock, ht.plane⟩
    exact hite (hite hset (hpresent hset)) (hirq (hpresent (hite hset (hpresent hset))))
  · rw [(h.of_waits hw).findSome_other hp]
    exact hw

theorem Waits.planeRun (h : OneWaits o b s0) {f stop : Nat} (hw : Waits b s0 s) (hp : p ≠ b.plane) : Waits b s0 (planeRun f p stop s) := by
  induction f generalizing s with
  | zero => exact hw
  | succ f ih =>
    unfold Machine.planeRun
    split
    · exact hw
    · dsimp only
      split
      · exact hw
      · exact ih (hw.planeCycle h hp)

/-- The beats that wait on the plane are copies of the one. -/
theorem OneWaits.planeNext (h : OneWaits o b s) : planeNext b.plane s = some (max b.from' (planeAt b.plane s).dnNext) := by
  unfold Machine.planeNext
  dsimp only
  rw [h.recalls]
  refine (if_pos rfl).trans ?_
  have hmin : (s.ops.flatMap fun o => (o.down.filter fun x => x.plane == b.plane).map fun x => x.from').min? = some b.from' := by
    refine List.min?_eq_some_iff.mpr ⟨List.mem_flatMap.mpr ⟨o, findOp_mem h.op, ?_⟩, fun y hy => ?_⟩
    · rw [h.down]
      simp
    · obtain ⟨q, hq, hy⟩ := List.mem_flatMap.mp hy
      obtain ⟨z, hz, rfl⟩ := List.mem_map.mp hy
      exact ((h.down_of_mem hq (List.mem_filter.mp hz).1).2 ▸ le_rfl)
  rw [hmin]
  rfl

/-- The cycle in which the crier presents the one beat. -/
def beatAt (b : DnBeat) (s : State) : Nat := dutyNext b.plane (max (max b.from' (planeAt b.plane s).dnNext) s.clock.fclk) s

theorem le_dutyNext {m : Nat} : m ≤ dutyNext p m s := Nat.le_add_right _ _

theorem presentBeat_shows (ho : opAt o.id s = some o) (hdown : o.down = [b]) : Shows (beatOut o b n) o.id (presentBeat o.id n b s) := by
  rw [presentBeat_eq ho]
  refine ⟨?_, _, opAt_setOp_of ((opAt_of_ops (beatPresented_frame .ops (by decide)) o.id).trans ho) rfl, ?_, rfl⟩
  · show _ ∈ (beatPresented o b n s).out
    rw [beatPresented_out]
    exact List.mem_append_right _ (List.mem_singleton.mpr rfl)
  · rw [beatShown, hdown]
    simp

/-- On its plane, the crier presents the beat and then only others. -/
theorem OneWaits.planeRun (h : OneWaits o b s) {f stop : Nat} (hat : beatAt b s < stop) : Shows (beatOut o b (beatAt b s)) o.id (planeRun (f + 1) b.plane stop s) := by
  have hfrom : b.from' ≤ beatAt b s := ((le_max_left _ _).trans (le_max_left _ _)).trans le_dutyNext
  unfold Machine.planeRun
  rw [h.planeNext]
  dsimp only
  rw [if_neg (by exact Nat.not_le.mpr hat)]
  refine Shows.planeRun ?_
  show Shows _ _ (planeCycle b.plane (beatAt b s) s)
  unfold planeCycle
  dsimp only
  rw [h.recalls]
  dsimp only
  rw [h.findSome_self hfrom]
  exact presentBeat_shows (s := setPlane _ _ s) h.op h.down

theorem OneWaits.fuel (h : OneWaits o b s) : ∃ f, (s.ops.map fun o => o.down.length).sum + (planeAt b.plane s).recalls.length = f + 1 := by
  have hle : o.down.length ≤ (s.ops.map fun o => o.down.length).sum := List.le_sum_of_mem (List.mem_map_of_mem (findOp_mem h.op))
  rw [h.down] at hle
  exact ⟨_, (Nat.sub_add_cancel (Nat.le_add_right_of_le hle)).symm⟩

theorem planes_shows (h : OneWaits o b s0) {stop : Nat} (hat : beatAt b s0 < stop) {l : List Nat} (hl : b.plane ∈ l) (hw : Waits b s0 s) :
    Shows (beatOut o b (beatAt b s0)) o.id (l.foldl (fun s p => planeRun ((s.ops.map fun o => o.down.length).sum + (planeAt p s).recalls.length) p stop s) s) := by
  induction l generalizing s with
  | nil => cases hl
  | cons p l ih =>
    by_cases hp : p = b.plane
    · subst hp
      rw [List.foldl_cons]
      refine Shows.foldl ?_ fun t q ht => ht.planeRun
      have h1 := h.of_waits hw
      obtain ⟨f, hf⟩ := h1.fuel
      have hat1 : beatAt b s = beatAt b s0 := by simp only [beatAt, dutyNext, hw.clock, hw.plane]
      rw [hf, ← hat1]
      exact h1.planeRun (hat1 ▸ hat)
    · exact ih ((List.mem_cons.mp hl).resolve_left (Ne.symm hp)) (hw.planeRun h hp)

theorem crierRun_shows (h : OneWaits o b s) {stop : Nat} (hat : beatAt b s < stop) (hp : b.plane < s.build.planes) : Shows (beatOut o b (beatAt b s)) o.id (crierRun stop s) :=
  planes_shows h hat (List.mem_range.mpr hp) .refl

end

/-! ### The rest of the boundary -/

section
variable {x : PortOut} {id : OpId} {s : State} {cycles ticks : Nat}

theorem Shows.holdsEdge (h : Shows x id s) : Shows x id (holdsEdge s) :=
  h.mapOps (g := fun o => if o.upHold.isEmpty then o else { o with upHold := keepHolds o s }) fun o => by split <;> exact ⟨rfl, rfl, rfl⟩

theorem Shows.countIdle (h : Shows x id s) : Shows x id (countIdle cycles s) :=
  h.mapOps fun o => by
    split
    · exact ⟨rfl, rfl, rfl⟩
    · split <;> exact ⟨rfl, rfl, rfl⟩

theorem Shows.transitCounted (h : Shows x id s) : Shows x id (transitCounted cycles s) :=
  Shows.countIdle (h.next (ps := [.counts, .regs, .setNow]) (countTransit_frame (countsEdge_frame (.refl s))))

theorem Shows.countIdleRun (h : Shows x id s) : Shows x id (countIdleRun s) := ⟨h.out, h.op⟩

/-- What the crier has shown before the transit's end stands after it. -/
theorem transitEnds_shows (hb : s.boot.applying = none) (h : Shows x id (crierRun (s.clock.fclk + cycles) s)) : Shows x id (transitEnds cycles s) := by
  rw [transitEnds_eq hb]
  exact .ite h.holdsEdge.transitCounted.countIdleRun h.holdsEdge

theorem Shows.setMer {m : Meridian} (h : Shows x id s) : Shows x id { s with mer := m } := ⟨h.out, h.op⟩

theorem Shows.calStart (h : Shows x id s) : Shows x id (calStart s) := by
  have hm : Shows x id (Machine.setMer (measured (stampNow s) s.mer) s) := h.setMer
  have hcal : Machine.calStart s = if (merState (Machine.setMer (measured (stampNow s) s.mer) s) == 2 && timePort (calPort (Machine.setMer (measured (stampNow s) s.mer) s)) (Machine.setMer (measured (stampNow s) s.mer) s)) = true
      then frameOut (calPort (Machine.setMer (measured (stampNow s) s.mer) s)) (Machine.setMer (measured (stampNow s) s.mer) s).clock.fclk (.timeFrame (calPort (Machine.setMer (measured (stampNow s) s.mer) s)) (stampNow s)) (Machine.setMer (measured (stampNow s) s.mer) s)
      else calEnd 9 (Machine.setMer (measured (stampNow s) s.mer) s) := rfl
  rw [hcal]
  generalize Machine.setMer (measured (stampNow s) s.mer) s = y at hm
  have hframe {n : Nat} {z : PortOut} : Shows x id (frameOut n y.clock.fclk z y) :=
    Shows.present (hm.next (ps := [.links, .regs]) (setReg64_frame (setLink_frame (.refl y))))
  exact .ite hframe (hm.next (ps := [.setNow, .regs]) (calEnd_frame (.refl y)))

theorem Shows.delaySlew (h : Shows x id s) : Shows x id (delaySlew s) := by
  have hbit {t : State} (ht : Shows x id t) : Shows x id (calBit 11 false t) := ht.next (ps := [.regs]) (setReg_frame (.refl t))
  have hends {t : State} (ht : Shows x id t) : Shows x id (delaySlewEnds t) := .ite (hbit ht).calStart (hbit ht)
  unfold Machine.delaySlew
  exact .ite h (.ite (hends h.setMer) h.setMer)

theorem Shows.timeAdvanced (h : Shows x id s) : Shows x id (timeAdvanced cycles ticks s) := by
  have hm : Shows x id (merBoundary (nextTransit cycles ticks s) cycles ticks s) := by
    unfold merBoundary
    exact .ite h h.setMer
  exact ⟨hm.out, hm.op⟩

theorem Shows.edgeState (h : Shows x id (transitEnds cycles s)) : Shows x id (edgeState cycles ticks s) := by
  have ht := h.timeAdvanced (cycles := cycles) (ticks := ticks)
  have hl : Shows x id (Machine.delaySlew (lockRecord (Machine.timeAdvanced cycles ticks (transitEnds cycles s)))) := (ht.next (ps := [.mer, .regs]) (lockRecord_frame (.refl _))).delaySlew
  exact (hl.next (ps := [.mer, .regs]) (epochEdge_frame (.refl _))).next (ps := [.mer]) (detectorBoundary_frame (.refl _))

theorem Shows.memTry {write urgent : Bool} {addr sectors hint : Nat} {p : Purpose} {data : List Byte} (h : Shows x id s) :
    Shows x id (memTry write urgent addr sectors hint p data s) := by
  unfold Machine.memTry memIssue
  split
  · exact h
  · split
    · exact h
    · split
      · exact ⟨h.out, h.op⟩
      · refine .ite ⟨?_, h.op⟩ ⟨List.mem_append_left _ h.out, h.op⟩
        exact List.mem_append_left _ (List.mem_append_left _ h.out)

theorem Shows.bootIssue (h : Shows x id s) : Shows x id (bootIssue s) := by
  have hread {base have' total : Nat} {p : Purpose} : Shows x id (bootRead base have' total p s) := .ite h h.memTry
  exact .ite hread (.ite hread h)

theorem Shows.phaseEdge (h : Shows x id s) : Shows x id (phaseEdge s) := by
  have hsource : Shows x id (sourceEdge s) := h.next (ps := [.setNow, .regs, .log, .mer]) (sourceEdge_frame (.refl s))
  have hphase {n : Nat} {t : State} (ht : Shows x id t) : Shows x id (setPhase n t) := ⟨ht.out, ht.op⟩
  unfold Machine.phaseEdge
  dsimp only
  generalize sourceEdge s = y at hsource
  refine .ite h (.ite (hsource.next (ps := [.setNow, .regs, .clock]) (readyNow_frame (.refl y))) ?_)
  split
  · exact (hsource.next (ps := [.boot, .clock, .regs, .setNow, .log]) (imageCheck_frame (.refl y))).bootIssue
  · exact .ite (hphase (hsource.next (ps := [.regs, .steward, .setNow, .log]) (firmwarePhase_frame (.refl y)))) hsource.bootIssue
  · exact .ite (hsource.next (ps := [.clock, .regs, .links, .setNow]) (trainPhase_frame (.refl y))) hsource
  · exact .ite (hphase hsource) hsource
  · exact hsource

/-- The first edge of a transit without a loss keeps what has been shown. -/
theorem Shows.firstEdge (h : Shows x id s) (hfatal : fatalEdge s = s) : Shows x id (firstEdge s) := by
  unfold Machine.firstEdge
  rw [hfatal]
  have howner : Shows x id (ownerEdge (paceEdge s)) := h.next (ps := [.links, .owner, .setNow, .regs]) (ownerEdge_frame (paceEdge_frame (.refl s)))
  have hphase := (howner.next (ps := [.stalls, .planes, .regs, .setNow, .log, .steward, .clock]) (powerEdge_frame (.refl _))).phaseEdge
  exact ((hphase.next (ps := [.queues]) (queuesEdge_frame (.refl _))).next (ps := [.stalls, .due]) (linesEdge_frame (.refl _))).next (ps := [.clock, .links]) (addsEdge_frame (.refl _))

end

/-- The crier presents the one beat that waits. -/
theorem crierPresents : Claims.CrierPresents := by
  intro cycles ticks o b s _ halive _ hheld hdue hboot hfits ho hdown hothers hplane hrecalls _ hsame hat
  obtain ⟨hr, hf⟩ : s.clock.rstN = true ∧ s.clock.fabFault = false := by simpa [alive] using halive
  refine answers_boundary hr hheld hdue hfits ?_
  have hone : OneWaits o b s := ⟨ho, hdown, hothers, hsame, hrecalls⟩
  have hedge : Shows (beatOut o b (beatAt b s)) o.id (edgeState cycles ticks s) := (transitEnds_shows hboot (crierRun_shows hone hat hplane)).edgeState
  have hshows := hedge.firstEdge (fatalEdge_edgeState hboot hf)
  exact ⟨hshows.out, hshows.op⟩

/-- Settles O38: the egress converts and gives every element, and the crier presents what waits. -/
theorem egressDelivers : Obligations.EgressDelivers := ⟨egressToCrier, crierPresents⟩

end Sys2Proof.Machine
end

section
/-! PROOF. Mismatches of a binocular pair (R353, R354). -/

namespace Sys2Proof.Machine

-- The inclusions that frames ask for are auto parameters, whose code is compiled: with proofs elaborated in order no thread waits for it.
set_option Elab.async false

section
variable {r s : State} {ps : List Part} {id : OpId} {o : Op} {code : BitVec 8} {src : BitVec 16} {page : Option Nat} {resend : Bool}

theorem withholdWrite_frame {id : OpId} {req : BitVec 8} (h : OnlyChanges ps r s) (hq : [.out, .mem] ⊆ ps := by decide) : OnlyChanges ps r (withholdWrite id req s) := by
  refine h.then (ps := [.out, .mem]) ?_ hq
  unfold withholdWrite
  dsimp only
  split
  · exact OnlyChanges.refl s
  · next r _ => exact OnlyChanges.next (ps := [.out]) (t := removeReq r s) (removeReq_frame (OnlyChanges.refl s)) fun p hp => by cases p <;> simp [Part.same] at hp ⊢
theorem withholdFlit_frame {id : OpId} {port : Nat} (h : OnlyChanges ps r s) (hq : [.ops, .links] ⊆ ps := by decide) : OnlyChanges ps r (withholdFlit id port s) := by
  refine h.then (ps := [.ops, .links]) ?_ hq
  unfold withholdFlit
  dsimp only
  refine withOp_frame (fun _ _ h1 => ?_) (OnlyChanges.refl s)
  split
  · exact h1
  · exact setOp_frame (setLink_frame h1)
theorem struckNow_frame {id : OpId} {code : Nat} (h : OnlyChanges ps r s) (hq : [.ops] ⊆ ps := by decide) : OnlyChanges ps r (struckNow id code s) :=
  h.then (ps := [.ops]) (modOp_frame (OnlyChanges.refl s)) hq
theorem countMismatch_frame {code : Nat} (h : OnlyChanges ps r s) (hq : [.regs] ⊆ ps := by decide) : OnlyChanges ps r (countMismatch code s) :=
  h.then (ps := [.regs]) (.ite (count_frame (OnlyChanges.refl s)) (OnlyChanges.refl s)) hq
theorem replayNow_frame {id : OpId} {code : BitVec 8} (h : OnlyChanges ps r s) (hq : [.links, .verdicts, .ops, .regs, .setNow, .planes] ⊆ ps := by decide) : OnlyChanges ps r (replayNow id code s) := by
  refine h.then (ps := [.links, .verdicts, .ops, .regs, .setNow, .planes]) ?_ hq
  unfold replayNow
  dsimp only
  refine withOp_frame (fun _ _ h1 => ?_) (OnlyChanges.refl s)
  split
  · exact h1
  · refine .ite h1 ?_
    refine withOp_frame (fun _ _ h2 => ?_) (perf_frame (modOp_frame (recallNow_frame h1)))
    split
    · exact h2
    · exact .ite (restartLeg_frame (floodRecall_frame h2)) h2
theorem makeFaulted_frame {l : Nat} {code : BitVec 8} (h : OnlyChanges ps r s) (hq : [.setNow, .regs, .ledgers, .planes] ⊆ ps := by decide) : OnlyChanges ps r (makeFaulted l code s) :=
  h.then (ps := [.setNow, .regs, .ledgers, .planes]) (.ite (irq_frame (setLedger_frame (freeLedgerPool_frame (OnlyChanges.refl s)))) (OnlyChanges.refl
      s)) hq

theorem opAt_modOp {f : Op → Op} (ho : opAt id s = some o) (hid : (f o).id = id) : opAt id (modOp id f s) = some (f o) := by
  rw [modOp_eq ho]
  exact opAt_setOp_of ho hid

theorem opAt_struckNow {c : Nat} (ho : opAt id s = some o) : ∃ k, opAt id (struckNow id c s) = some { o with hit := k } := by
  refine ⟨if o.hit ≠ 0 then o.hit else if tget 0 (dLedger o.d) s.log.ledgerChains = 0 then c else tget 0 (dLedger o.d) s.log.ledgerChains, ?_⟩
  rw [struckNow, opAt_modOp ho (by split <;> exact (opAt_id ho :))]
  split <;> rfl

/-! ### A contained fault of a running operation -/

/-- A contained fault enters: what the first one of a transit counts, and its entry. -/
def containedLogged (id : OpId) (code : BitVec 8) (src : BitVec 16) (page : Option Nat) (o : Op) (s : State) : State :=
  logFault ⟨code.toNat, clsContained, src, some (dLedger o.d, o.attempt + 1), page⟩ (countMismatch code.toNat (struckNow id code.toNat (countEcc code.toNat s)))

/-- An operation struck in this transit. -/
def struckOp (transit : Word64) (attempt : Nat) (resend : Bool) (o : Op) : Op :=
  { o with struck := some transit, attempt := attempt, replay := some (resend || o.replay == some true) }

theorem containedHit_eq (ha : alive s = true) (h : HoldsNow id o s) (hatt : o.attempt < 2) :
    ∃ page, containedHit id code src resend s = modOp id (struckOp (containedLogged id code src page o s).clock.transit (o.attempt + 1) resend) (containedLogged id code src page o s) := by
  obtain ⟨ho, hrun, hnames, hholder, -, hstruck⟩ := h
  obtain ⟨⟨hfail, -⟩, -⟩ : (o.fail = none ∧ o.replay = none) ∧ o.comparing = false := by simpa [runs] using hrun
  refine ⟨seamPage ((planesOf o.planes).headD 0) src, ?_⟩
  have hfailed : failedNow o s = false := by rw [failedNow, hfail]
  have hholds : holds o s = true := by simp [holds, hnames, hholder, opAt_id ho]
  have hagain : (o.struck == some s.clock.transit) = false := by simpa using hstruck
  have hdec : decide (2 ≤ o.attempt) = false := by simpa using hatt
  rw [containedHit, withOp_eq ho, containedHitOn, withOp_eq ho]
  dsimp only
  rw [if_neg (by simp [ha]), if_neg (by simp [hfailed]), if_neg (by simp [hfail, hholds]), hagain, hdec]
  rfl

theorem plainCode_mismatch : plainCode 0x80 := .inr (by decide)

/-- A page's own registers are none that an entry may change. -/
theorem not_mem_logRegs {a p : Nat} (ha : 0x40 ≤ a % 0x1000) (ho : a ≠ rOVERRUN) : a ∉ logRegs p := by
  simp only [logRegs, rIrqRaw, rErrCode, rErrCount, pageBase, pERRLOG, List.mem_cons, List.not_mem_nil, or_false, not_or]
  exact ⟨by omega, by omega, by omega, by omega, ho, by omega, by omega⟩

/-- What a contained fault of a running operation leaves (R343). -/
theorem containedHit_spec (hw : s.tablesWf = true) (ha : alive s = true) (h : HoldsNow id o s) (hatt : o.attempt < 2) (hroom : LogRoom s) : let t := containedHit id 0x80#8 binoSource resend s
    (∃ k, opAt id t = some { o with hit := k, struck := some s.clock.transit, attempt := o.attempt + 1, replay := some resend })
      ∧ Logged 0x80 2 binoSource s t ∧ reg rMISMATCHES t = satAdd (reg rMISMATCHES s) 1 ∧ OnlyChanges [.ops, .regs, .setNow, .log] s t := by
  obtain ⟨page, heq⟩ := containedHit_eq (code := 0x80#8) (src := binoSource) (resend := resend) ha h hatt
  obtain ⟨ho, hrun, -, -, -, -⟩ := h
  obtain ⟨⟨-, hreplay⟩, -⟩ : (o.fail = none ∧ o.replay = none) ∧ o.comparing = false := by simpa [runs] using hrun
  have hid : o.id = id := opAt_id ho
  rw [heq]
  have hx : OnlyChanges [.ops] s (struckNow id 0x80 s) := struckNow_frame (.refl s)
  obtain ⟨k, hok⟩ : ∃ k, opAt id (struckNow id 0x80 s) = some { o with hit := k } := opAt_struckNow ho
  have hregs : tableWfBy regReset (struckNow id 0x80 s).regs = true := (hx .regs (by decide) : (struckNow id 0x80 s).regs = s.regs) ▸ regs_wf hw
  have hreg : reg rMISMATCHES (struckNow id 0x80 s) = reg rMISMATCHES s := hx.reg_eq (by decide) _
  have hcount : containedLogged id 0x80#8 binoSource page o s =
      logFault ⟨0x80, clsContained, binoSource, some (dLedger o.d, o.attempt + 1), page⟩ (count rMISMATCHES 1 (struckNow id 0x80 s)) := rfl
  rw [hcount]
  generalize struckNow id 0x80 s = x at hx hok hregs hreg ⊢
  have hy : OnlyChanges [.regs] x (count rMISMATCHES 1 x) := count_frame (.refl x)
  have hyreg : reg rMISMATCHES (count rMISMATCHES 1 x) = satAdd (reg rMISMATCHES s) 1 := (reg_count_self hregs).trans (congrArg (satAdd · 1) hreg)
  have hf : OnlyChanges [.ops, .regs] s (count rMISMATCHES 1 x) := (hx.mono (by decide)).trans (hy.mono (by decide))
  generalize count rMISMATCHES 1 x = y at hy hyreg hf ⊢
  have hroomy : LogRoom y := by
    rw [LogRoom, (hf .log (by decide) : y.log = s.log)]
    exact hroom
  have hlog := logFault_logged (e := ⟨0x80, clsContained, binoSource, some (dLedger o.d, o.attempt + 1), page⟩) hroomy plainCode_mismatch
  have hz : OnlyChanges [.setNow, .regs, .log] y (logFault ⟨0x80, clsContained, binoSource, some (dLedger o.d, o.attempt + 1), page⟩ y) := logFault_frame (.refl y)
  have hzreg : reg rMISMATCHES (logFault ⟨0x80, clsContained, binoSource, some (dLedger o.d, o.attempt + 1), page⟩ y) = reg rMISMATCHES y := reg_logFault_ne (not_mem_logRegs (by decide) (by decide))
  generalize logFault ⟨0x80, clsContained, binoSource, some (dLedger o.d, o.attempt + 1), page⟩ y = z at hlog hz hzreg ⊢
  have htransit : z.clock.transit = s.clock.transit := (congrArg Clock.transit hz.clock_eq).trans (congrArg Clock.transit hf.clock_eq)
  have hoz : opAt id z = some { o with hit := k } := (opAt_of_ops (hz .ops (by decide)) id).trans ((opAt_of_ops (hy .ops (by decide)) id).trans hok)
  have hall : OnlyChanges [.ops, .regs, .setNow, .log] s z := (hf.mono (by decide)).trans (hz.mono (by decide))
  have hend : OnlyChanges [.ops] z (modOp id (struckOp z.clock.transit (o.attempt + 1) resend) z) := modOp_frame (.refl z)
  refine ⟨⟨k, ?_⟩, Logged.of_eq hlog (hf .log (by decide)) (congrArg Clock.transit hf.clock_eq :) (hend .log (by decide)), ?_, hall.trans (hend.mono (by decide))⟩
  · rw [opAt_modOp hoz hid, htransit]
    simp [struckOp, hreplay]
  · exact (hend.reg_eq (by decide) _).trans (hzreg.trans hyreg)

/-! ### What a mismatch withholds -/

theorem withhold_frame {point : BinoPoint} (h : OnlyChanges ps r s) (hq : [.ops, .links, .out, .mem] ⊆ ps := by decide) : OnlyChanges ps r (withhold point s) := by
  refine h.then (ps := [.ops, .links, .out, .mem]) ?_ hq
  cases point with
  | downChunk _ => exact .refl s
  | ringFlit _ _ => exact withholdFlit_frame (.refl s)
  | memWrite _ _ => exact withholdWrite_frame (.refl s)

/-- A step left unfinished. -/
def stepCut (x : TxStep) : TxStep := { x with lastQueued := false, buf := [], head := [], left := 0, hit := false }

/-- A link without the flits of a step. -/
def flitsCut (x : TxStep) (l : Link) : Link := { l with txq := l.txq.map fun q => q.filter fun f => !(f.kind == 1 && f.step == x.sid) }

theorem withholdFlit_none {port : Nat} (ho : opAt id s = some o) (h : ∀ g, o.leg = some g → differingStep g port s = none) : withholdFlit id port s = s := by
  have hbind : (o.leg.bind fun g => (differingStep g port s).map fun t => (g, t)) = none := by
    cases hg : o.leg with
    | none => rfl
    | some g => exact congrArg (Option.map fun t => (g, t)) (h g hg)
  rw [withholdFlit, withOp_eq ho, hbind]

theorem withholdFlit_some {port : Nat} {g : Leg} {x : TxStep} (ho : opAt id s = some o) (hg : o.leg = some g) (h : differingStep g port s = some x) :
    withholdFlit id port s = setOp { o with leg := some (putTx (stepCut x) g) } (setLink port (flitsCut x (linkAt port s)) s) := by
  have hbind : (o.leg.bind fun g => (differingStep g port s).map fun t => (g, t)) = some (g, x) := by rw [hg, Option.bind_some, h]; rfl
  rw [withholdFlit, withOp_eq ho, hbind]
  rfl

/-- The operation of a mismatch keeps all but its leg. -/
theorem opAt_withhold {point : BinoPoint} (hp : pointOp point = id) (ho : opAt id s = some o) : ∃ g, opAt id (withhold point s) = some { o with leg := g } := by
  subst hp
  cases point with
  | downChunk _ => exact ⟨o.leg, ho⟩
  | ringFlit i port =>
    change opAt i s = some o at ho
    show ∃ g, opAt i (withholdFlit i port s) = some { o with leg := g }
    by_cases h : ∃ g x, o.leg = some g ∧ differingStep g port s = some x
    · obtain ⟨g, x, hg, hx⟩ := h
      rw [withholdFlit_some ho hg hx]
      exact ⟨_, opAt_setOp_of (s := setLink port (flitsCut x (linkAt port s)) s) ho (opAt_id ho :)⟩
    · refine ⟨o.leg, ?_⟩
      rw [withholdFlit_none ho fun g hg => ?_]
      · exact ho
      · by_contra hne
        obtain ⟨x, hx⟩ := Option.ne_none_iff_exists'.mp hne
        exact h ⟨g, x, hg, hx⟩
  | memWrite i req =>
    exact ⟨o.leg, (opAt_of_ops ((withholdWrite_frame (ps := [.out, .mem]) (.refl s)) .ops (by decide)) i).trans ho⟩

/-- The flit that differed is not sent, nor what follows it in its step. -/
theorem withholdFlit_links {port : Nat} (hw : tableWf Link.down s.links = true) (ho : opAt id s = some o) : let t := withholdFlit id port s
    (∀ p, p ≠ port → linkAt p t = linkAt p s)
      ∧ ∀ g x, o.leg = some g → differingStep g port s = some x → ∀ q ∈ (linkAt port t).txq, ∀ f ∈ q, f.kind = fkDATA → f.step ≠ x.sid := by
  constructor
  · intro p hp
    by_cases h : ∃ g x, o.leg = some g ∧ differingStep g port s = some x
    · obtain ⟨g, x, hg, hx⟩ := h
      rw [withholdFlit_some ho hg hx]
      exact linkAt_setLink_ne hp
    · rw [withholdFlit_none ho fun g hg => ?_]
      by_contra hne
      obtain ⟨x, hx⟩ := Option.ne_none_iff_exists'.mp hne
      exact h ⟨g, x, hg, hx⟩
  · intro g x hg hx q hq f hf hkind hstep
    rw [withholdFlit_some ho hg hx] at hq
    have hlink : linkAt port (setOp { o with leg := some (putTx (stepCut x) g) } (setLink port (flitsCut x (linkAt port s)) s)) = flitsCut x (linkAt port s) := linkAt_setLink_self hw
    rw [hlink] at hq
    obtain ⟨q', -, rfl⟩ := List.mem_map.mp hq
    obtain ⟨-, hkeep⟩ := List.mem_filter.mp hf
    simp [show f.kind = 1 from hkind, hstep] at hkeep

/-- The request whose data differed has not left. -/
theorem withholdWrite_spec {req : BitVec 8} {m : MemReq} (h : (s.mem.find? fun r => r.write && r.id == req.toNat && purposeOp r.purpose == some id) = some m) : let t := withholdWrite id req s
    t.mem = s.mem.filter (fun x => !(x.write && x.id == req.toNat)) ∧ ∀ x ∈ t.out, x ∈ s.out := by
  have hm := List.find?_some h
  simp only [Bool.and_eq_true, beq_iff_eq] at hm
  obtain ⟨⟨hwrite, hreq⟩, -⟩ := hm
  rw [withholdWrite, h]
  refine ⟨?_, fun x hx => ?_⟩
  · show (s.mem.filter fun x => !(x.write == m.write && x.id == m.id)) = _
    rw [hwrite, hreq]
    simp
  · rcases List.mem_append.mp hx with hx | hx
    · exact List.mem_reverse.mp ((List.dropWhile_sublist _).subset (List.mem_of_mem_drop (List.mem_reverse.mp hx)))
    · exact List.mem_reverse.mp ((List.takeWhile_sublist _).subset (List.mem_reverse.mp ((List.dropWhile_sublist _).subset hx)))

/-! ### Mismatches on an operation's output -/

/-- The comparison of an operation's stored state begins. -/
def compareBegun (o : Op) : Op := { o with comparing := true, progress := true }

/-- A mismatch withholds the output, enters as a contained fault, and holds the operation. -/
theorem binoMismatchOn_eq {point : BinoPoint} {o' : Op} (hp : pointOp point = id) (hpair : binoPaired s = true) (ho : opAt id s = some o) (hnames : namesLedger (dOp o.d) = true)
    (ho' : opAt id (containedHit id 0x80#8 binoSource (!isSum (dOp o.d)) (withhold point s)) = some o') (hrep : o'.replay.isSome = true) (hfail : o'.fail = none) :
    binoMismatchOn point s = setOp (compareBegun o') (containedHit id 0x80#8 binoSource (!isSum (dOp o.d)) (withhold point s)) := by
  have hsave : ¬(dOp o.d = oSAVE ∨ dOp o.d = oRESTORE) := by
    simp only [namesLedger, Bool.and_eq_true, bne_iff_ne] at hnames
    exact not_or.mpr ⟨hnames.1.2, hnames.2⟩
  rw [binoMismatchOn, hp, withOp_eq ho]
  dsimp only
  rw [if_neg (by simp [hpair]), if_neg hsave, withOp_eq ho', if_pos (by simp [hrep, hfail])]
  rfl

/-- What a mismatch leaves of its operation, the log and the count, after what it withholds. -/
theorem binoMismatchOn_spec {point : BinoPoint} (hw : s.tablesWf = true) (ha : alive s = true) (hroom : LogRoom s) (hpair : binoPaired s = true) (h : HoldsNow id o s) (hatt : o.attempt < 2)
    (hp : pointOp point = id) : let t := binoMismatchOn point s
    reg rMISMATCHES t = satAdd (reg rMISMATCHES s) 1 ∧ Logged 0x80 2 binoSource s t
      ∧ (∃ o', opAt id t = some o' ∧ o'.comparing = true ∧ o'.replay = some (!isSum (dOp o.d)) ∧ o'.attempt = o.attempt + 1) ∧ OnlyChanges [.ops, .regs, .setNow, .log] (withhold point s) t := by
  obtain ⟨ho, hrun, hnames, hholder, hstate, hstruck⟩ := h
  obtain ⟨⟨hfail, -⟩, -⟩ : (o.fail = none ∧ o.replay = none) ∧ o.comparing = false := by simpa [runs] using hrun
  have hid : o.id = id := opAt_id ho
  obtain ⟨g, hog⟩ := opAt_withhold hp ho
  have hf : OnlyChanges [.ops, .links, .out, .mem] s (withhold point s) := withhold_frame (.refl s)
  have hxw : (withhold point s).tablesWf = true := (withhold_keeps (.refl s)).tablesWf hw
  have hxa : alive (withhold point s) = true := by
    rw [alive, hf.clock_eq]
    exact ha
  have hxledgers : ledgerAt (dLedger o.d) (withhold point s) = ledgerAt (dLedger o.d) s := congrArg (tget Ledger.free (dLedger o.d)) (hf .ledgers (by decide))
  have hxh : HoldsNow id { o with leg := g } (withhold point s) :=
    ⟨hog, hrun, hnames, hxledgers.symm ▸ hholder, hxledgers.symm ▸ hstate, by rw [hf.clock_eq]; exact hstruck⟩
  have hxroom : LogRoom (withhold point s) := by
    rw [LogRoom, (hf .log (by decide) : (withhold point s).log = s.log)]
    exact hroom
  obtain ⟨⟨k, hok⟩, hlog, hreg, hframe⟩ := containedHit_spec (resend := !isSum (dOp o.d)) hxw hxa hxh hatt hxroom
  rw [binoMismatchOn_eq hp hpair ho hnames hok rfl hfail]
  generalize containedHit id 0x80#8 binoSource (!isSum (dOp o.d)) (withhold point s) = y at hok hlog hreg hframe ⊢
  generalize hz : ({ o with leg := g, hit := k, struck := some (withhold point s).clock.transit, attempt := o.attempt + 1, replay := some (!isSum (dOp o.d)) } : Op) = z at hok
  have hzid : z.id = id := by
    rw [← hz]
    exact hid
  refine ⟨hreg.trans (congrArg (satAdd · 1) (hf.reg_eq (by decide) _)), Logged.of_eq hlog (hf .log (by decide)) (congrArg Clock.transit hf.clock_eq :) rfl,
    ⟨compareBegun z, opAt_setOp_of hok hzid, rfl, ?_, ?_⟩, setOp_frame hframe⟩
  · rw [← hz]
    rfl
  · rw [← hz]
    rfl

theorem binoMismatch_answers {point : BinoPoint} (hw : s.allWf = true) (ha : alive s = true) (hb : s.build.paired = true) (hroom : LogRoom s) (hpair : binoPaired s = true) (h : HoldsNow id o s)
    (hatt : o.attempt < 2) (hp : pointOp point = id) (happ : applies (.binoMismatch point) s = true) : Answers (.binoMismatch point) s fun t =>
      reg rMISMATCHES t = satAdd (reg rMISMATCHES s) 1 ∧ Logged 0x80 2 0x8000#16 s t ∧ t.ledgers = s.ledgers
        ∧ (∃ o', opAt id t = some o' ∧ o'.comparing = true ∧ o'.replay = some (!isSum (dOp o.d)) ∧ o'.attempt = o.attempt + 1) ∧ OnlyChanges [.reached, .ops, .links, .mem, .out, .regs, .setNow, .log] s t
        ∧ (point = .downChunk id → t.links = s.links ∧ t.mem = s.mem ∧ t.out = s.out)
        ∧ (∀ port, point = .ringFlit id port → t.mem = s.mem ∧ t.out = s.out ∧ (∀ p, p ≠ port → linkAt p t = linkAt p s)
            ∧ ∀ g x, o.leg = some g → differingStep g port s = some x → ∀ q ∈ (linkAt port t).txq, ∀ f ∈ q, f.kind = fkDATA → f.step ≠ x.sid)
        ∧ (∀ req r, point = .memWrite id req → (s.mem.find? fun r => r.write && r.id == req.toNat && purposeOp r.purpose == some id) = some r →
            t.links = s.links ∧ t.mem = s.mem.filter (fun x => !(x.write && x.id == req.toNat)) ∧ ∀ x ∈ t.out, x ∈ s.out) := by
  refine answers_next (if_pos hb) rfl happ fun q => ?_
  have heq : binoMismatchApply point (withReached q s) = binoMismatchOn point (withReached q s) := if_pos ha
  rw [heq]
  obtain ⟨hreg, hlog, hop, hframe⟩ := binoMismatchOn_spec (s := withReached q s) (allWf_tablesWf hw) ha hroom hpair h hatt hp
  have hwith : OnlyChanges [.ops, .links, .out, .mem] (withReached q s) (withhold point (withReached q s)) := withhold_frame (.refl _)
  have hall : OnlyChanges [.reached, .ops, .links, .mem, .out, .regs, .setNow, .log] s (binoMismatchOn point (withReached q s)) :=
    withReached_frame ((hwith.mono (by decide)).trans (hframe.mono (by decide)))
  have hl := hframe .links (by decide)
  have hm := hframe .mem (by decide)
  have hout := hframe .out (by decide)
  generalize binoMismatchOn point (withReached q s) = t at hreg hlog hop hframe hall hl hm hout ⊢
  refine ⟨hreg, hlog, hall .ledgers (by decide), hop, hall, fun hd => ?_, fun port hd => ?_, fun req m hd hfind => ?_⟩
  · subst hd
    exact ⟨hl, hm, hout⟩
  · subst hd
    have hflit : OnlyChanges [.ops, .links] (withReached q s) (withholdFlit id port (withReached q s)) := withholdFlit_frame (.refl _)
    have hlink (p : Nat) : linkAt p t = linkAt p (withholdFlit id port (withReached q s)) := congrArg (tget Link.down p) hl
    obtain ⟨hothers, hcut⟩ := withholdFlit_links (s := withReached q s) (port := port) (links_wf hw) h.1
    exact ⟨hm.trans (hflit .mem (by decide)), hout.trans (hflit .out (by decide)), fun p hne => (hlink p).trans (hothers p hne), fun g x hg hx => hlink port ▸ hcut g x hg hx⟩
  · subst hd
    have hwrite : OnlyChanges [.out, .mem] (withReached q s) (withholdWrite id req (withReached q s)) := withholdWrite_frame (.refl _)
    obtain ⟨hmem, hsub⟩ := withholdWrite_spec (s := withReached q s) hfind
    exact ⟨hl.trans (hwrite .links (by decide)), hm.trans hmem, fun x hx => hsub x ((show t.out = (withholdWrite id req (withReached q s)).out from hout) ▸ hx)⟩

/-- A late mismatch is entered and counted, and changes nothing else. -/
theorem lateMismatch_answers {led : Option (BitVec 12)} (hw : s.allWf = true) (ha : alive s = true) (hb : s.build.paired = true) (hroom : LogRoom s) (hpair : binoPaired s = true)
    (happ : applies (.lateMismatch led) s = true) : Answers (.lateMismatch led) s fun t =>
      reg rLATE_MISMATCHES t = satAdd (reg rLATE_MISMATCHES s) 1 ∧ Logged 0x84 3 0x8000#16 s t ∧ OnlyChanges [.reached, .regs, .setNow, .log] s t := by
  refine answers_next (if_pos hb) rfl happ fun q => ?_
  have heq : lateMismatchApply led (withReached q s) = count rLATE_MISMATCHES 1
      (logFault ⟨0x84, clsLedgerFatal, binoSource, led.map fun l => (l.toNat, tget 0 l.toNat s.log.sealedAt), none⟩ (withReached q s)) := by
    refine if_neg ?_
    simp [show alive (withReached q s) = true from ha, show binoPaired (withReached q s) = true from hpair]
  rw [heq]
  generalize he : (⟨0x84, clsLedgerFatal, binoSource, led.map fun l => (l.toNat, tget 0 l.toNat s.log.sealedAt), none⟩ : LogIn) = e
  have hlog : Logged 0x84 3 binoSource s (logFault e (withReached q s)) := by
    subst he
    exact logFault_logged (s := withReached q s) hroom (.inr (by decide : 0x34 < 0x84 ∧ 0x84 < 256))
  have hf : OnlyChanges [.setNow, .regs, .log] (withReached q s) (logFault e (withReached q s)) := logFault_frame (.refl _)
  have hregs : tableWfBy regReset (logFault e (withReached q s)).regs = true := regs_wf ((logFault_keeps (.refl _)).tablesWf (show (withReached q s).tablesWf = true from allWf_tablesWf hw))
  have hreg : reg rLATE_MISMATCHES (logFault e (withReached q s)) = reg rLATE_MISMATCHES s := reg_logFault_ne (s := withReached q s) (not_mem_logRegs (by decide) (by decide))
  generalize logFault e (withReached q s) = x at hlog hf hregs hreg ⊢
  exact ⟨(reg_count_self hregs).trans (congrArg (satAdd · 1) hreg), Logged.of_eq hlog rfl rfl rfl, withReached_frame (count_frame (hf.mono (by decide)))⟩

end

end Sys2Proof.Machine
end

section
/-! PROOF. The comparison of stored state that a mismatch begins, and what a ledger-fatal fault leaves (R350, R354). -/

namespace Sys2Proof.Machine

-- The inclusions that frames ask for are auto parameters, whose code is compiled: with proofs elaborated in order no thread waits for it.
set_option Elab.async false

section
variable {r s t : State} {ps : List Part} {id : OpId} {o : Op} {l : Nat} {code : BitVec 8}

/-! ### A faulted ledger stays so when its holder fails -/

/-- The ledger is faulted, in a table in canonical form. -/
structure FaultStands (l : Nat) (code : BitVec 8) (s : State) : Prop where
  table : tableWf Ledger.free s.ledgers = true
  faulted : FaultedNow l code s

theorem FaultStands.of_ledgers (h : FaultStands l code s) (hl : t.ledgers = s.ledgers) : FaultStands l code t := by
  have hat : ledgerAt l t = ledgerAt l s := congrArg (tget Ledger.free l) hl
  exact ⟨hl ▸ h.table, by rw [FaultedNow, hat]; exact h.faulted⟩

theorem FaultStands.set {k : Nat} {v : Ledger} (h : FaultStands l code s) (hv : k = l → v.state = (ledgerAt k s).state ∧ v.fault = (ledgerAt k s).fault ∧ (v.holder = none ∨ v.holder = (ledgerAt k s).holder)
    ∧ v.acc = (ledgerAt k s).acc ∧ v.blocks = (ledgerAt k s).blocks ∧ v.pages = (ledgerAt k s).pages) : FaultStands l code (setLedger k v s) := by
  refine ⟨tset_wf _ _ _ h.table, ?_⟩
  rcases eq_or_ne l k with rfl | hne
  · obtain ⟨h1, h2, h3, h4, h5, h6⟩ := h.faulted
    obtain ⟨v1, v2, v3, v4, v5, v6⟩ := hv rfl
    rw [FaultedNow, ledgerAt_setLedger_self h.table]
    exact ⟨v1.trans h1, v2.trans h2, v3.elim (fun v3 => v3) fun v3 => v3.trans h3, v4.trans h4, v5.trans h5, v6.trans h6⟩
  · rw [FaultedNow, ledgerAt_setLedger_ne hne]
    exact h.faulted

theorem leaveLists_faultStands (h : FaultStands l code s) : FaultStands l code (leaveLists id s) := by
  refine FaultStands.of_ledgers (s := s.ledgers.foldl (fun s x => if x.2.waiting.contains id then
    (let v := ledgerAt x.1 s; setLedger x.1 { v with waiting := v.waiting.filter (· != id) } s) else s) s) ?_ rfl
  refine List.foldlRecOn (motive := FaultStands l code) _ _ h fun t ht x _ => ?_
  split
  · exact ht.set fun _ => ⟨rfl, rfl, .inr rfl, rfl, rfl, rfl⟩
  · exact ht

theorem releaseBias_faultStands (h : FaultStands l code s) : FaultStands l code (releaseBias id s) := by
  refine List.foldlRecOn (motive := FaultStands l code) _ _ h fun t ht x _ => ?_
  split
  · refine ht.set fun hk => ?_
    subst hk
    have hstate : ¬(ledgerAt x.1 t).state = 0 := by simp [ht.faulted.1]
    rw [if_neg hstate]
    exact ⟨rfl, rfl, .inl rfl, rfl, rfl, rfl⟩
  · exact ht

/-- The holder of a faulted ledger no longer holds it, so that its failure ends no hold. -/
theorem endHoldFailed_faultStands (h : FaultStands (dLedger o.d) code s) : FaultStands (dLedger o.d) code (endHoldFailed o s) := by
  have hholds : holds o s = false := by simp [holds, h.faulted.2.2.1]
  have heq : endHoldFailed o s = releaseBias o.id s := if_pos (by simp [hholds])
  rw [heq]
  exact releaseBias_faultStands h

theorem opFail_faultStands {c : Nat} (ho : opAt id s = some o) (hf : o.fail = none) (h : FaultStands (dLedger o.d) code s) : FaultStands (dLedger o.d) code (opFail id c s) := by
  rw [opFail_eq ho hf]
  have h1 : OnlyChanges [.setNow, .regs, .log, .verdicts, .ops, .links] s (stopLeg id (logFail o c s)) := stopLeg_frame (logFail_frame (.refl s))
  have h2 : FaultStands (dLedger o.d) code (endHoldFailed o (leaveLists id (stopLeg id (logFail o c s)))) :=
    endHoldFailed_faultStands (leaveLists_faultStands (h.of_ledgers (h1 .ledgers (by decide))))
  have h3 (x : State) : OnlyChanges [.log, .stalls, .setNow, .regs, .ops, .planes] x (endChain o (discardBeats o (dropPages id x))) := endChain_frame (discardBeats_frame (dropPages_frame (.refl x)))
  have h4 (x : State) (y : Word64) : OnlyChanges [.ops] x (modOp id (failedOp c y) x) := modOp_frame (.refl x)
  exact (h2.of_ledgers ((h3 _) .ledgers (by decide))).of_ledgers ((h4 _ _) .ledgers (by decide))

theorem makeFaulted_faultStands (hw : tableWf Ledger.free s.ledgers = true) (hstate : (ledgerAt l s).state = 1 ∨ (ledgerAt l s).state = 2) : FaultStands l code (makeFaulted l code s) := by
  have heq : makeFaulted l code s = irq pLEDGER 0 (setLedger l { ledgerAt l s with state := 3, holder := none, fault := code, acc := [], blocks := [], pages := [], almanac := 0#32 } (freeLedgerPool (ledgerAt l s) s)) := if_pos hstate
  rw [heq]
  have hpool : (freeLedgerPool (ledgerAt l s) s).ledgers = s.ledgers := (freeLedgerPool_frame (ps := [.planes]) (.refl s)) .ledgers (by decide)
  refine FaultStands.of_ledgers (s := setLedger l { ledgerAt l s with state := 3, holder := none, fault := code, acc := [], blocks := [], pages := [], almanac := 0#32 } (freeLedgerPool (ledgerAt l s) s)) ⟨?_, ?_⟩ rfl
  · exact tset_wf _ _ _ (hpool.symm ▸ hw)
  · rw [FaultedNow, ledgerAt_setLedger_self (hpool.symm ▸ hw)]
    exact ⟨rfl, rfl, rfl, rfl, rfl, rfl⟩

/-! ### A ledger-fatal fault of a holder -/

/-- The operation and its output are recalled, where some was shown. -/
def outputRecalled (id : OpId) (s : State) : State := withOp id (fun o s => if o.eg.shown then recallNow id false s else s) s

theorem opAt_outputRecalled (ho : opAt id s = some o) : ∃ o', opAt id (outputRecalled id s) = some o' ∧ o'.fail = o.fail ∧ o'.d = o.d := by
  have heq : outputRecalled id s = if o.eg.shown then recallNow id false s else s := withOp_eq ho
  rw [heq]
  split
  · exact ⟨_, opAt_recallNow ho, rfl, rfl⟩
  · exact ⟨o, ho, rfl, rfl⟩

theorem outputRecalled_frame : OnlyChanges [.ops, .regs, .setNow, .planes] s (outputRecalled id s) :=
  withOp_frame (fun _ _ h => .ite (recallNow_frame h) h) (.refl s)

/-- The entry of a ledger-fatal fault of the ledger's holder. -/
def holderLogged (id : OpId) (code : BitVec 8) (src : BitVec 16) (o : Op) (s : State) : State :=
  logFault ⟨code.toNat, clsLedgerFatal, src, some (dLedger o.d, o.attempt), none⟩ (struckNow id code.toNat s)

theorem opFatal_eq {src : BitVec 16} (ho : opAt id s = some o) (hnames : namesLedger (dOp o.d) = true) (hholder : (ledgerAt (dLedger o.d) s).holder = some id) :
    opFatal id code src s = opFail id code.toNat (makeFaulted (dLedger o.d) code (outputRecalled id (holderLogged id code src o s))) := by
  have hholds : holds o s = true := by simp [holds, hnames, hholder, opAt_id ho]
  have h1 : opFatal id code src s = ledgerFatalLog (dLedger o.d) code src s := by rw [opFatal, withOp_eq ho, if_pos hholds]
  have h2 : ledgerFatalLog (dLedger o.d) code src s = ledgerFatalNow (dLedger o.d) code (holderLogged id code src o s) := by
    unfold ledgerFatalLog
    rw [hholder]
    dsimp only
    rw [ho]
    rfl
  have hf : OnlyChanges [.setNow, .regs, .log, .ops] s (holderLogged id code src o s) := logFault_frame (struckNow_frame (.refl s))
  have hholder' : (ledgerAt (dLedger o.d) (holderLogged id code src o s)).holder = some id := (congrArg (fun t => (tget Ledger.free (dLedger o.d) t).holder) (hf .ledgers (by decide))).trans hholder
  rw [h1, h2, ledgerFatalNow, hholder']
  rfl

/-- A difference of the stored state faults the ledger and fails its holder (R354). -/
theorem opFatal_spec (hw : tableWf Ledger.free s.ledgers = true) (hroom : LogRoom s) (ho : opAt id s = some o) (hfail : o.fail = none) (hnames : namesLedger (dOp o.d) = true)
    (hholder : (ledgerAt (dLedger o.d) s).holder = some id) (hstate : (ledgerAt (dLedger o.d) s).state = 1 ∨ (ledgerAt (dLedger o.d) s).state = 2) : let t := opFatal id 0x81#8 binoSource s
    Logged 0x81 3 binoSource s t ∧ FaultedNow (dLedger o.d) 0x81#8 t ∧ FailedNow id 0x81#8 s t := by
  rw [opFatal_eq ho hnames hholder]
  have hx : OnlyChanges [.ops] s (struckNow id 0x81 s) := struckNow_frame (.refl s)
  obtain ⟨k, hok⟩ : ∃ k, opAt id (struckNow id 0x81 s) = some { o with hit := k } := opAt_struckNow ho
  have hroomx : LogRoom (struckNow id 0x81 s) := by
    rw [LogRoom, (hx .log (by decide) : (struckNow id 0x81 s).log = s.log)]
    exact hroom
  have hlog : Logged 0x81 3 binoSource s (holderLogged id 0x81#8 binoSource o s) := by
    refine Logged.of_eq (logFault_logged (e := ⟨0x81, clsLedgerFatal, binoSource, some (dLedger o.d, o.attempt), none⟩) hroomx ?_) (hx .log (by decide)) (congrArg Clock.transit hx.clock_eq :) rfl
    exact .inr (by decide : 0x34 < 0x81 ∧ 0x81 < 256)
  have hy : OnlyChanges [.setNow, .regs, .log] (struckNow id 0x81 s) (holderLogged id 0x81#8 binoSource o s) := logFault_frame (.refl _)
  have hoy : opAt id (holderLogged id 0x81#8 binoSource o s) = some { o with hit := k } := (opAt_of_ops (hy .ops (by decide)) id).trans hok
  have hxy : OnlyChanges [.ops, .setNow, .regs, .log] s (holderLogged id 0x81#8 binoSource o s) := (hx.mono (by decide)).trans (hy.mono (by decide))
  generalize holderLogged id 0x81#8 binoSource o s = y at hlog hoy hxy ⊢
  obtain ⟨o2, ho2, hfail2, hd2⟩ := opAt_outputRecalled hoy
  have hz : OnlyChanges [.ops, .regs, .setNow, .planes] y (outputRecalled id y) := outputRecalled_frame
  generalize outputRecalled id y = z at ho2 hz ⊢
  have hledgers : z.ledgers = s.ledgers := (hz .ledgers (by decide)).trans (hxy .ledgers (by decide))
  have hat : ledgerAt (dLedger o.d) z = ledgerAt (dLedger o.d) s := congrArg (tget Ledger.free (dLedger o.d)) hledgers
  have hstands : FaultStands (dLedger o.d) 0x81#8 (makeFaulted (dLedger o.d) 0x81#8 z) := makeFaulted_faultStands (hledgers.symm ▸ hw) (hat.symm ▸ hstate)
  have hv : OnlyChanges [.setNow, .regs, .ledgers, .planes] z (makeFaulted (dLedger o.d) 0x81#8 z) := makeFaulted_frame (.refl z)
  have hov : opAt id (makeFaulted (dLedger o.d) 0x81#8 z) = some o2 := (opAt_of_ops (hv .ops (by decide)) id).trans ho2
  have hall : OnlyChanges [.ops, .setNow, .regs, .log, .planes, .ledgers] s (makeFaulted (dLedger o.d) 0x81#8 z) := ((hxy.mono (by decide)).trans (hz.mono (by decide))).trans (hv.mono (by decide))
  have hlogv : (makeFaulted (dLedger o.d) 0x81#8 z).log = y.log := (hv .log (by decide)).trans (hz .log (by decide))
  generalize makeFaulted (dLedger o.d) 0x81#8 z = v at hstands hov hall hlogv ⊢
  have hfailv : o2.fail = none := hfail2.trans hfail
  obtain ⟨⟨o3, ho3, hfail3, -, -⟩, -, hentries⟩ := opFail_spec (code := 0x81) hov hfailv
  have hsame : logFail o2 0x81 v = v := if_pos (by decide)
  rw [hsame] at hentries
  refine ⟨?_, ?_, o3, ho3, hfail3.trans ?_⟩
  · obtain ⟨e, he, h1, h2, h3, h4⟩ := hlog
    exact ⟨e, by rw [← he, ← hlogv]; exact hentries, h1, h2, h3, h4⟩
  · rw [← show dLedger o2.d = dLedger o.d from congrArg dLedger hd2] at hstands ⊢
    exact (opFail_faultStands hov hfailv hstands).faulted
  · rw [hall.clock_eq]

/-! ### The comparison's outcome -/

/-- An operation whose comparison has ended. -/
def compareEnded (o : Op) : Op := { o with comparing := false, progress := true }

/-- The operation of a replay. -/
def replayedOp (resend : Bool) (o : Op) : Op := { clearEgress (if resend then clearContribution o else o) with replay := none, replayed := true }

/-- Two states of an operation agree in what a replay leaves. -/
structure ReplayKeeps (o o' : Op) : Prop where
  id : o'.id = o.id
  leg : o'.leg = o.leg
  comparing : o'.comparing = o.comparing
  attempt : o'.attempt = o.attempt
  fail : o'.fail = o.fail

theorem clearEgress_keeps (o : Op) : ReplayKeeps o (clearEgress o) := by
  have h {p : Prop} [Decidable p] : ReplayKeeps o (if p then clearFold o else o) := by
    split <;> exact ⟨rfl, rfl, rfl, rfl, rfl⟩
  exact ⟨h.id, h.leg, h.comparing, h.attempt, h.fail⟩

theorem replayedOp_keeps (resend : Bool) (o : Op) : ReplayKeeps o (replayedOp resend o) := by
  have h (x : Op) (hx : ReplayKeeps o x) : ReplayKeeps o { clearEgress x with replay := none, replayed := true } := by
    have hc := clearEgress_keeps x
    exact ⟨hc.id.trans hx.id, hc.leg.trans hx.leg, hc.comparing.trans hx.comparing, hc.attempt.trans hx.attempt, hc.fail.trans hx.fail⟩
  cases resend with
  | false => exact h o ⟨rfl, rfl, rfl, rfl, rfl⟩
  | true => exact h (clearContribution o) ⟨rfl, rfl, rfl, rfl, rfl⟩

theorem recalledOp_same (resend : Bool) (o : Op) : (recalledOp resend o).comparing = o.comparing ∧ (recalledOp resend o).fail = o.fail := by
  cases resend with
  | false => exact ⟨rfl, rfl⟩
  | true =>
    obtain ⟨prog, h⟩ := askedAgain_eq o
    have heq : (recalledOp true o).comparing = (askedAgain o).comparing ∧ (recalledOp true o).fail = (askedAgain o).fail := ⟨rfl, rfl⟩
    rw [h] at heq
    exact heq

/-- A replay of an operation on die. -/
theorem replayNow_eq {resend : Bool} (ho : opAt id s = some o) (hreplay : o.replay = some resend) (hfail : o.fail = none) (hleg : o.leg = none) :
    opAt id (replayNow id code s) = some (replayedOp resend (recalledOp resend o)) := by
  obtain ⟨hid, -, hlegr, -⟩ := recalledOp_keeps resend o
  have hor : opAt id (recallNow id resend s) = some (recalledOp resend o) := opAt_recallNow ho
  have hkeeps := replayedOp_keeps resend (recalledOp resend o)
  have hleg' : (replayedOp resend (recalledOp resend o)).leg = none := hkeeps.leg.trans (hlegr.trans hleg)
  have hidr : (replayedOp resend (recalledOp resend o)).id = id := hkeeps.id.trans (hid.trans (opAt_id ho))
  have hom : opAt id (modOp id (replayedOp resend) (recallNow id resend s)) = some (replayedOp resend (recalledOp resend o)) := opAt_modOp hor hidr
  have hop : opAt id (perf pcReplays 1 (modOp id (replayedOp resend) (recallNow id resend s))) = some (replayedOp resend (recalledOp resend o)) :=
    (opAt_of_ops ((perf_frame (ps := [.regs, .setNow]) (.refl _)) .ops (by decide)) id).trans hom
  have heq : replayNow id code s = perf pcReplays 1 (modOp id (replayedOp resend) (recallNow id resend s)) := by
    unfold replayNow
    rw [withOp_eq ho, hreplay]
    dsimp only
    rw [if_neg (by simp [hfail])]
    refine (withOp_eq hop).trans ?_
    rw [hleg']
  rw [heq]
  exact hop

/-- The outcome of the comparison of an operation's stored state. -/
theorem binoStateCompare_answers {resend : Bool} (hw : s.allWf = true) (ha : alive s = true) (hb : s.build.paired = true) (hroom : LogRoom s) (ho : opAt id s = some o) (hcomp : o.comparing = true) (hfail : o.fail = none)
    (hreplay : o.replay = some resend) (hleg : o.leg = none) (hsave : o.save = none) (hnames : namesLedger (dOp o.d) = true) (hholder : (ledgerAt (dLedger o.d) s).holder = some id)
    (hstate : (ledgerAt (dLedger o.d) s).state = 1 ∨ (ledgerAt (dLedger o.d) s).state = 2) :
    (applies (.binoStateCompare id true) s = true → Answers (.binoStateCompare id true) s fun t => Logged 0x81 3 0x8000#16 s t ∧ FaultedNow (dLedger o.d) 0x81#8 t ∧ FailedNow id 0x81#8 s t)
      ∧ (applies (.binoStateCompare id false) s = true → Answers (.binoStateCompare id false) s fun t =>
          (∃ o', opAt id t = some o' ∧ o'.comparing = false ∧ o'.replay = none ∧ o'.replayed = true ∧ o'.attempt = o.attempt ∧ o'.fail = none) ∧ t.ledgers = s.ledgers ∧ t.log = s.log) := by
  have hid : o.id = id := opAt_id ho
  have hended (q : Place) : opAt id (setOp (compareEnded o) (withReached q s)) = some (compareEnded o) := opAt_setOp_of (s := withReached q s) ho hid
  have heq (q : Place) (differ : Bool) : binoStateApply id differ (withReached q s) =
      if differ = true then opFatal id 0x81#8 binoSource (setOp (compareEnded o) (withReached q s)) else replayNow id 0x80#8 (setOp (compareEnded o) (withReached q s)) := by
    rw [binoStateApply, withOp_eq (s := withReached q s) ho]
    dsimp only
    rw [if_neg (by simp [show alive (withReached q s) = true from ha, hcomp])]
    rw [show o.save.isSome = false by rw [hsave]; rfl]
    cases differ <;> rfl
  constructor <;> intro happ <;> refine answers_next (if_pos hb) rfl happ fun q => ?_
  · rw [heq, if_pos rfl]
    exact opFatal_spec (o := compareEnded o) (s := setOp (compareEnded o) (withReached q s)) (ledgers_wf (s := s) (allWf_tablesWf hw)) hroom (hended q) hfail hnames hholder hstate
  · rw [heq, if_neg (by decide)]
    have hkeeps := replayedOp_keeps resend (recalledOp resend (compareEnded o))
    obtain ⟨h4, h5⟩ := recalledOp_same resend (compareEnded o)
    have hframe : OnlyChanges [.links, .verdicts, .ops, .regs, .setNow, .planes] (withReached q s) (replayNow id 0x80#8 (setOp (compareEnded o) (withReached q s))) := replayNow_frame (setOp_frame (.refl _))
    refine ⟨⟨_, replayNow_eq (hended q) hreplay hfail hleg, hkeeps.comparing.trans h4, rfl, rfl, hkeeps.attempt.trans (recalledOp_keeps resend (compareEnded o)).2.1, hkeeps.fail.trans (h5.trans hfail)⟩,
      hframe .ledgers (by decide), hframe .log (by decide)⟩

end

/-- A mismatch enters, holds its operation and withholds the output; the comparison's outcome faults the ledger or replays. -/
theorem binocularMismatches : Claims.BinocularMismatches := by
  intro s hw ha hb hroom
  refine ⟨fun id o point hpair h hatt _ hpoint happ => ?_, fun id o r ho hcomp hfail hreplay hleg hsave hnames hholder hstate => ?_, fun led hpair happ => ?_⟩
  · refine binoMismatch_answers hw ha hb hroom hpair h hatt ?_ happ
    rcases hpoint with rfl | ⟨port, rfl⟩ | ⟨req, rfl⟩ <;> rfl
  · exact binoStateCompare_answers hw ha hb hroom ho hcomp hfail hreplay hleg hsave hnames hholder hstate
  · exact lateMismatch_answers hw ha hb hroom hpair happ

end Sys2Proof.Machine
end

section
/-! PROOF. The sides of a binocular pair: commands, faults of a side, takeover and re-pairing (R356, R357, R416). -/

namespace Sys2Proof.Machine

-- The inclusions that frames ask for are auto parameters, whose code is compiled: with proofs elaborated in order no thread waits for it.
set_option Elab.async false

/-! ### BINO_STATE -/

section
variable {w : Word} {b : Bool}

theorem fieldOf_low2_or_bit5 : fieldOf (w ||| bit 5) 0 2 = fieldOf w 0 2 := by
  rw [fieldOf_eq_extract, fieldOf_eq_extract, BitVec.extractLsb'_or, show (bit 5).extractLsb' 0 2 = 0#2 by decide, BitVec.or_zero]

theorem fieldOf_low2_clear_bit5 : fieldOf (w &&& ~~~bit 5) 0 2 = fieldOf w 0 2 := by
  rw [fieldOf_eq_extract, fieldOf_eq_extract, BitVec.extractLsb'_and, show (~~~bit 5).extractLsb' 0 2 = BitVec.allOnes 2 by decide, BitVec.and_allOnes]

/-- BINO_STATE as the other side serves, SINGLE. -/
def movedState (toB : Bool) (w : Word) : Word := (w &&& 0x20#32) ||| (if toB then 0x13#32 else 0x02#32)

theorem fieldOf_movedState : fieldOf (movedState b w) 0 2 = if b then 3 else 2 := by
  rw [movedState, fieldOf_eq_extract, BitVec.extractLsb'_or, BitVec.extractLsb'_and, show (0x20#32).extractLsb' 0 2 = 0#2 by decide, BitVec.and_zero, BitVec.zero_or]
  cases b <;> rfl

theorem bitOf_movedState : bitOf (movedState b w) 4 = b := by
  cases b <;> simp [bitOf, movedState]

theorem fieldOf_paired : fieldOf ((w &&& ~~~3#32) ||| BitVec.ofNat 32 1) 0 2 = 1 := by
  rw [fieldOf_eq_extract, BitVec.extractLsb'_or, BitVec.extractLsb'_and, show (~~~3#32).extractLsb' 0 2 = 0#2 by decide, BitVec.and_zero, BitVec.zero_or]
  rfl

end

/-! ### The owner's commands -/

section
variable {s : State} {port master : Nat}

theorem binoCmd_eq (hb : s.build.paired = true) : binoCmd 1#32 s = takeoverApply s ∧ binoCmd 2#32 s = repairApply s ∧ binoCmd 3#32 s = repairWithdrawApply s := by
  refine ⟨?_, ?_, ?_⟩ <;> exact if_neg (by simp [hb])

theorem takeover_answers (ha : alive s = true) (hb : s.build.paired = true) (ho : OwnerTurn port master (.takeover (.mgmt port master)) s) :
    Answers (.takeover (.mgmt port master)) s fun t => Answered port master 0#32 s t ∧
      (if binoPaired s = true then Found (.takeover (bitOf (reg rBINO_STATE s) 4)) s t ∧ OnlyChanges [.reached, .found, .out] s t else OnlyChanges [.reached, .out] s t) := by
  have heq (q : Place) : takeoverApply (withReached q s) = if binoPaired s = true then find_ (.takeover (bitOf (reg rBINO_STATE s) 4)) (withReached q s) else withReached q s := by
    unfold takeoverApply
    rw [show alive (withReached q s) = true from ha, Bool.true_and]
    rfl
  have hframe (q : Place) : OnlyChanges [.found] (withReached q s) (takeoverApply (withReached q s)) := .ite (findDue_frame (.refl _)) (.refl _)
  refine answers_ownerWrite (addr := 0x0D044) (v := 1#32) (w := takeoverApply) ho rfl rfl rfl (fun _ => rfl) (fun q => (binoCmd_eq (s := withReached q s) hb).1)
    (fun q => (hframe q).requests_eq) fun q => ?_
  rw [heq]
  by_cases hp : binoPaired s = true
  · rw [if_pos hp, if_pos hp]
    exact ⟨rfl, rfl, present_withReached_frame (findDue_frame (.refl _))⟩
  · rw [if_neg hp, if_neg hp]
    exact ⟨rfl, present_withReached_frame (.refl _)⟩

theorem repair_answers (hw : s.tablesWf = true) (ha : alive s = true) (hb : s.build.paired = true) (ho : OwnerTurn port master (.repair (.mgmt port master)) s) :
    Answers (.repair (.mgmt port master)) s fun t => Answered port master 0#32 s t ∧ binoState t = binoState s
      ∧ (2 ≤ binoState s → bitOf (reg rBINO_STATE t) 5 = true) ∧ (binoState s < 2 → reg rBINO_STATE t = reg rBINO_STATE s) ∧ OnlyChanges [.reached, .regs, .setNow, .out] s t := by
  have heq (q : Place) : repairApply (withReached q s) = if 2 ≤ binoState s then orReg rBINO_STATE (bit 5) (withReached q s) else withReached q s := by
    unfold repairApply
    rw [show alive (withReached q s) = true from ha, Bool.true_and]
    exact if_congr decide_eq_true_iff rfl rfl
  have hframe (q : Place) : OnlyChanges [.setNow, .regs] (withReached q s) (repairApply (withReached q s)) := .ite (orReg_frame (.refl _)) (.refl _)
  refine answers_ownerWrite (addr := 0x0D044) (v := 2#32) (w := repairApply) ho rfl rfl rfl (fun _ => rfl) (fun q => (binoCmd_eq (s := withReached q s) hb).2.1)
    (fun q => (hframe q).requests_eq) fun q => ?_
  have hout : Answered port master 0#32 s (present (.mgmtRsp port master 0#32 false) (repairApply (withReached q s))) := congrArg (· ++ [PortOut.mgmtRsp port master 0#32 false]) ((hframe q) .out (by decide))
  refine ⟨hout, ?_⟩
  have hall : OnlyChanges [.reached, .regs, .setNow, .out] s (present (.mgmtRsp port master 0#32 false) (repairApply (withReached q s))) := present_withReached_frame ((hframe q).mono (by decide))
  rw [heq] at hall ⊢
  by_cases hp : 2 ≤ binoState s
  · rw [if_pos hp] at hall ⊢
    have hreg : reg rBINO_STATE (present (.mgmtRsp port master 0#32 false) (orReg rBINO_STATE (bit 5) (withReached q s))) = reg rBINO_STATE s ||| bit 5 :=
      reg_orReg_self (s := withReached q s) (regs_wf hw)
    refine ⟨?_, fun _ => ?_, fun h => absurd h (by omega), hall⟩
    · rw [binoState, hreg]
      exact fieldOf_low2_or_bit5
    · rw [hreg]
      simp [bitOf, bit]
  · rw [if_neg hp] at hall ⊢
    exact ⟨rfl, fun h => absurd h hp, fun _ => rfl, hall⟩

theorem repairWithdraw_answers (hw : s.tablesWf = true) (ha : alive s = true) (hb : s.build.paired = true) (ho : OwnerTurn port master (.repairWithdraw (.mgmt port master)) s) :
    Answers (.repairWithdraw (.mgmt port master)) s fun t => Answered port master 0#32 s t
      ∧ bitOf (reg rBINO_STATE t) 5 = false ∧ binoState t = binoState s ∧ RegsKeep [rBINO_STATE] s t ∧ OnlyChanges [.reached, .regs, .out] s t := by
  have heq (q : Place) : repairWithdrawApply (withReached q s) = setReg rBINO_STATE (reg rBINO_STATE s &&& ~~~(bit 5)) (withReached q s) := if_pos ha
  refine answers_ownerWrite (addr := 0x0D044) (v := 3#32) (w := repairWithdrawApply) ho rfl rfl rfl (fun _ => rfl) (fun q => (binoCmd_eq (s := withReached q s) hb).2.2)
    (fun q => by rw [heq]; rfl) fun q => ?_
  rw [heq]
  have hreg : reg rBINO_STATE (present (.mgmtRsp port master 0#32 false) (setReg rBINO_STATE (reg rBINO_STATE s &&& ~~~(bit 5)) (withReached q s))) = reg rBINO_STATE s &&& ~~~(bit 5) :=
    reg_setReg_self (s := withReached q s) (regs_wf hw)
  refine ⟨rfl, ?_, ?_, setReg_regsKeep (s := withReached q s) (.refl s) List.mem_cons_self, present_withReached_frame (setReg_frame (.refl _))⟩
  · rw [hreg]
    simp [bitOf, bit]
  · rw [binoState, hreg]
    exact fieldOf_low2_clear_bit5

end

/-! ### Re-pairing -/

section
variable {s : State} {n : Nat}

/-- What re-pairing leaves, where the block is SINGLE. -/
theorem pairAgain_spec (hw : s.tablesWf = true) (hsingle : 2 ≤ binoState s) : let t := pairAgain s
    binoState t = 1 ∧ (reg (rIrqRaw pBINOCULAR) t).getLsbD 2 = true ∧ OnlyChanges [.log, .regs, .setNow] s t := by
  have heq : pairAgain s = irq pBINOCULAR 2 (closeSourceChain (source 8 0) (closeSourceChain (source 8 1) (setBinoState 1 s))) := if_pos hsingle
  rw [heq]
  have hreg : reg rBINO_STATE (irq pBINOCULAR 2 (closeSourceChain (source 8 0) (closeSourceChain (source 8 1) (setBinoState 1 s)))) = (reg rBINO_STATE s &&& ~~~3#32) ||| BitVec.ofNat 32 1 :=
    (reg_irq_ne (by decide)).trans (reg_setReg_self (s := s) (regs_wf hw))
  refine ⟨?_, irq_raised (s := closeSourceChain (source 8 0) (closeSourceChain (source 8 1) (setBinoState 1 s))) (setReg_regs_wf (regs_wf hw)) (by decide),
    irq_frame (closeSourceChain_frame (closeSourceChain_frame (setReg_frame (.refl s))))⟩
  rw [binoState, hreg]
  exact fieldOf_paired

theorem pairAgain_answers (hw : s.allWf = true) (hn : n < 16) (hline : (lineAt n s).rangAt = none) (hsingle : 2 ≤ binoState s) (hdue : s.clock.due = [(duePlace .repaired, .repaired)]) :
    Answers (.bellRearm n) s fun t => binoState t = 1 ∧ (reg (rIrqRaw pBINOCULAR) t).getLsbD 2 = true ∧ OnlyChanges [.reached, .due, .log, .regs, .setNow] s t := by
  have hd : dueApply .repaired (atDue .repaired s) = pairAgain (atDue .repaired s) := rfl
  obtain ⟨hstate, hirq, hframe⟩ := pairAgain_spec (s := atDue .repaired s) (allWf_tablesWf hw) hsingle
  refine answers_idleRearm_due hn hdue rfl ?_ ?_ fun q => ?_
  · rw [hd]
    exact hframe .reached (by decide)
  · rw [hd]
    exact (congrArg (fun l => (tget Line.idle n l).rangAt) (hframe .lines (by decide))).trans hline
  · rw [hd]
    refine ⟨hstate, hirq, ?_⟩
    exact (((atDue_onlyChanges .repaired s).mono (by decide)).trans (hframe.mono (by decide))).trans ((withReached_onlyChanges q _).mono (by decide))

/-- The side that a REPAIR has reset. -/
def idleSide (s : State) : BitVec 16 := source 8 (if bitOf (reg rBINO_STATE s) 4 then 0 else 1)

theorem repairFail_answers (ha : alive s = true) (hdue : s.clock.due = [(duePlace .repaired, .repaired)]) (hroom : LogRoom s)
    (hplace : placeLe s.clock.reached ⟨2, [0x85, (idleSide s).toNat]⟩ = true) : Answers (.faultDetect 0x85#8 (idleSide s) .fabric) s fun t =>
      binoState t = binoState s ∧ t.clock.due = [] ∧ Logged 0x85 0 (idleSide s) s t := by
  have hlater : placeLe (duePlace .repaired) ⟨2, [0x85, (idleSide s).toNat]⟩ = false := by
    unfold idleSide
    split <;> decide
  have happ : applies (.faultDetect 0x85#8 (idleSide s) .fabric) s = true := by
    have hturn : turnNow (.faultDetect 0x85#8 (idleSide s) .fabric) ⟨2, [0x85, (idleSide s).toNat]⟩ s = true := by
      unfold turnNow
      rw [hplace]
      exact Bool.or_true _
    show (turnNow (.faultDetect 0x85#8 (idleSide s) .fabric) ⟨2, [0x85, (idleSide s).toNat]⟩ s && s.clock.due.all fun x => !placeLe x.1 ⟨2, [0x85, (idleSide s).toNat]⟩) = true
    rw [hturn, hdue, List.all_cons, hlater]
    rfl
  refine answers_next rfl rfl happ fun q => ?_
  have hany : (s.clock.due.any (fun x => x.2 == .repaired) && idleSide s == idleSide s) = true := by
    rw [hdue]
    simp
  have heq : faultDetectApply 0x85#8 (idleSide s) .fabric (withReached q s) = notice 0x85 (idleSide s) { withReached q s with clock := { (withReached q s).clock with due := [] } } := by
    have halive : ¬(!alive (withReached q s)) = true := by simp [show alive (withReached q s) = true from ha]
    have hrest : s.clock.due.filter (fun x => !(x.2 == .repaired)) = [] := by
      rw [hdue]
      rfl
    unfold faultDetectApply
    dsimp only
    rw [if_neg halive]
    have hfail : repairFail (idleSide s) (withReached q s) = notice 0x85 (idleSide s) { withReached q s with clock := { (withReached q s).clock with due := s.clock.due.filter fun x => !(x.2 == .repaired) } } := if_pos hany
    rw [hrest] at hfail
    exact hfail
  rw [heq]
  have hf : OnlyChanges [.setNow, .regs, .log] { withReached q s with clock := { (withReached q s).clock with due := [] } } (notice 0x85 (idleSide s) { withReached q s with clock := { (withReached q s).clock with due := [] } }) := notice_frame (.refl _)
  refine ⟨?_, hf .due (by decide), notice_logged (s := { withReached q s with clock := { (withReached q s).clock with due := [] } }) hroom (.inr (by decide))⟩
  exact congrArg (fieldOf · 0 2) (reg_notice_ne (s := { withReached q s with clock := { (withReached q s).clock with due := [] } }) (not_mem_logRegs (by decide) (by decide)))

end

/-- The idle side is paired again, unless it has failed its self-test before. -/
theorem pairAgainClaim : Claims.PairAgain := by
  intro n s hw ha _ hn hline hsingle hdue
  exact ⟨pairAgain_answers hw hn hline hsingle hdue, fun hroom hplace => repairFail_answers ha hdue hroom hplace⟩

/-! ### The other side serves -/

section
variable {s : State} {n code : Nat} {b : Bool} {src : BitVec 16}

/-- No operation's output has been shown. -/
def NoneShown (s : State) : Prop := ∀ o ∈ s.ops, o.eg.shown = false

theorem NoneShown.setOp {o : Op} (h : NoneShown s) (ho : o.eg.shown = false) : NoneShown (setOp o s) := fun x hx => by
  rcases replaceOp_mem hx with rfl | hx
  · exact ho
  · exact h x hx

/-- With no output shown, the move ends comparisons and strikes nothing. -/
theorem moveService_eq (h : NoneShown s) : OnlyChanges [.ops] (setReg rBINO_STATE (movedState b (reg rBINO_STATE s)) s) (moveService b s) := by
  have hmove : moveService b s = s.ops.foldl (fun s o => withOp o.id (fun o s =>
      let s := setOp { o with comparing := false } s
      if uncompared o s then containedHit o.id 0x83#8 (source 8 (if b then 1 else 0)) (!isSum (dOp o.d)) s else s) s) (setReg rBINO_STATE (movedState b (reg rBINO_STATE s)) s) := rfl
  rw [hmove]
  refine (List.foldlRecOn (motive := fun t => NoneShown t ∧ OnlyChanges [.ops] (setReg rBINO_STATE (movedState b (reg rBINO_STATE s)) s) t) s.ops _ ⟨show NoneShown (setReg rBINO_STATE (movedState b (reg rBINO_STATE s)) s) from h, .refl _⟩ fun t ht o _ => ?_).2
  unfold withOp
  cases ho : opAt o.id t with
  | none => exact ht
  | some x =>
    have hshown : x.eg.shown = false := ht.1 x (findOp_mem ho)
    have huncompared : uncompared x (setOp { x with comparing := false } t) = false := by simp [uncompared, hshown]
    dsimp only
    rw [huncompared, if_neg Bool.false_ne_true]
    exact ⟨ht.1.setOp hshown, setOp_frame ht.2⟩

theorem moveService_spec (hw : s.tablesWf = true) (h : NoneShown s) : let t := moveService b s
    binoState t = (if b then 3 else 2) ∧ bitOf (reg rBINO_STATE t) 4 = b ∧ RegsKeep [rBINO_STATE] s t ∧ OnlyChanges [.ops, .regs] s t := by
  have hf := moveService_eq (b := b) h
  have hreg : reg rBINO_STATE (moveService b s) = movedState b (reg rBINO_STATE s) := (hf.reg_eq (by decide) _).trans (reg_setReg_self (regs_wf hw))
  refine ⟨?_, ?_, fun a ha => (hf.reg_eq (by decide) a).trans (reg_setReg_ne (by simpa using ha)), ((setReg_frame (ps := [.regs]) (.refl s)).mono (by decide)).trans (hf.mono (by decide))⟩
  · rw [binoState, hreg, fieldOf_movedState]
  · rw [hreg, bitOf_movedState]

/-- A takeover that is due moves the service, without an entry. -/
theorem takeoverDue_answers (hw : s.allWf = true) (ha : alive s = true) (hn : n < 16) (hline : (lineAt n s).rangAt = none) (hdue : s.clock.due = [(duePlace (.takeover b), .takeover b)])
    (hpair : binoPaired s = true) (hserving : bitOf (reg rBINO_STATE s) 4 = b) (hshown : ∀ o ∈ s.ops, o.eg.shown = false) : Answers (.bellRearm n) s fun t =>
      binoState t = (if b then 2 else 3) ∧ bitOf (reg rBINO_STATE t) 4 = !b ∧ RegsKeep [rBINO_STATE] s t ∧ t.clock.due = [] ∧ t.ledgers = s.ledgers ∧ t.log = s.log := by
  have hd : dueApply (.takeover b) (atDue (.takeover b) s) = moveService (!b) (atDue (.takeover b) s) :=
    if_pos (by simp [show alive (atDue (.takeover b) s) = true from ha, show binoPaired (atDue (.takeover b) s) = true from hpair, show servingB (atDue (.takeover b) s) = b from hserving])
  obtain ⟨hstate, hserves, hregs, hframe⟩ := moveService_spec (b := !b) (s := atDue (.takeover b) s) (allWf_tablesWf hw) hshown
  refine answers_idleRearm_due hn hdue rfl ?_ ?_ fun q => ?_
  · rw [hd]
    exact hframe .reached (by decide)
  · rw [hd]
    exact (congrArg (fun l => (tget Line.idle n l).rangAt) (hframe .lines (by decide))).trans hline
  · rw [hd]
    exact ⟨hstate.trans (by cases b <;> rfl), hserves, hregs, hframe .due (by decide), hframe .ledgers (by decide), hframe .log (by decide)⟩

/-! ### Faults of a side -/

/-- What a count of fabric faults does to registers. -/
theorem countEcc_fabric {c : BitVec 8} (hw : s.tablesWf = true) (hc : isFabricCode c.toNat = true) : let t := countEcc c.toNat s
    reg rECC_UNCORRECTED t = (if c = 0xF0#8 then satAdd (reg rECC_UNCORRECTED s) 1 else reg rECC_UNCORRECTED s) ∧ RegsKeep [rECC_UNCORRECTED] s t := by
  have hcases : c = 0xF0#8 ∨ c = 0xF1#8 ∨ c = 0xF2#8 := by
    have h : c.toNat = 0xF0 ∨ c.toNat = 0xF1 ∨ c.toNat = 0xF2 := by simpa [isFabricCode, or_assoc] using hc
    exact h.imp BitVec.eq_of_toNat_eq (Or.imp BitVec.eq_of_toNat_eq BitVec.eq_of_toNat_eq)
  rcases hcases with rfl | rfl | rfl
  · exact ⟨reg_count_self (regs_wf hw), fun a ha => reg_count_ne (by simpa using ha)⟩
  · exact ⟨rfl, fun _ _ => rfl⟩
  · exact ⟨rfl, fun _ _ => rfl⟩

/-- The registers that a fabric-fatal fault may change besides those of its entry. -/
def fatalRegs : List Nat := [rFATAL_CODE, rFATAL_TRANSIT_LO, rFATAL_TRANSIT_LO + 4, rIrqRaw pGLOBAL]

/-- A fabric-fatal fault of any plain code. -/
theorem fabricFatalNow_spec (ha : alive s = true) (hroom : LogRoom s) (hc : plainCode code) : let t := fabricFatalNow code src s
    t.clock.fabFault = true ∧ Logged code 4 src s t ∧ ∀ a, 0x40 ≤ a % 0x1000 → a ≠ rOVERRUN → a ∉ fatalRegs → reg a t = reg a s := by
  rw [fabricFatalNow_eq ha]
  have hlog : Logged code 4 src s (logFault ⟨code, clsFabricFatal, src, none, none⟩ s) := logFault_logged (e := ⟨code, clsFabricFatal, src, none, none⟩) hroom hc
  have hnote : OnlyChanges [.regs] (logFault ⟨code, clsFabricFatal, src, none, none⟩ s) (noteFatal code (logFault ⟨code, clsFabricFatal, src, none, none⟩ s)) := noteFatal_frame (.refl _)
  refine ⟨rfl, Logged.of_eq hlog rfl rfl (hnote .log (by decide)), fun a h1 h2 h3 => ?_⟩
  simp only [fatalRegs, List.mem_cons, List.not_mem_nil, or_false, not_or] at h3
  obtain ⟨h4, h5, h6, h7⟩ := h3
  have hreg : reg a (noteFatal code (logFault ⟨code, clsFabricFatal, src, none, none⟩ s)) = reg a (logFault ⟨code, clsFabricFatal, src, none, none⟩ s) := by
    unfold noteFatal
    split
    · rfl
    · exact (reg_setReg_ne h6).trans ((reg_setReg_ne h5).trans (reg_setReg_ne h4))
  exact (reg_irq_ne h7).trans (hreg.trans (reg_logFault_ne (e := ⟨code, clsFabricFatal, src, none, none⟩) (not_mem_logRegs h1 h2)))

/-- A fault of a side that does not end the service of the block, as it is kept. -/
def sideNoted (c : BitVec 8) (s : State) : State := setReg rSIDE_FAULT_CODE (c.setWidth 32) (countEcc c.toNat s)

theorem sideNoted_frame {c : BitVec 8} : OnlyChanges [.regs] s (sideNoted c s) := setReg_frame (countEcc_frame (.refl s))

theorem sideNoted_spec {c : BitVec 8} (hw : s.tablesWf = true) (hc : isFabricCode c.toNat = true) : let t := sideNoted c s
    reg rSIDE_FAULT_CODE t = c.setWidth 32 ∧ reg rECC_UNCORRECTED t = (if c = 0xF0#8 then satAdd (reg rECC_UNCORRECTED s) 1 else reg rECC_UNCORRECTED s)
      ∧ RegsKeep [rECC_UNCORRECTED, rSIDE_FAULT_CODE] s t ∧ t.tablesWf = true := by
  obtain ⟨hecc, hkeep⟩ := countEcc_fabric hw hc
  have hxw : (countEcc c.toNat s).tablesWf = true := (countEcc_keeps (.refl s)).tablesWf hw
  refine ⟨reg_setReg_self (regs_wf hxw), (reg_setReg_ne (by decide)).trans hecc, fun a ha => ?_, (setReg_keeps (.refl _)).tablesWf hxw⟩
  obtain ⟨h1, h2⟩ : a ≠ rECC_UNCORRECTED ∧ a ≠ rSIDE_FAULT_CODE := by simpa using ha
  exact (reg_setReg_ne h2).trans (hkeep a (by simpa using h1))

/-- A fault of a side enters with the side as its source. -/
def sideLogged (b : Bool) (s : State) : State := logFault ⟨0x82, clsContained, source 8 (if b then 1 else 0), none, none⟩ s

theorem sideLogged_spec (hroom : LogRoom s) : let t := sideLogged b s
    Logged 0x82 2 (source 8 (if b then 1 else 0)) s t ∧ OnlyChanges [.setNow, .regs, .log] s t ∧ ∀ a, 0x40 ≤ a % 0x1000 → a ≠ rOVERRUN → reg a t = reg a s :=
  ⟨logFault_logged (e := ⟨0x82, clsContained, source 8 (if b then 1 else 0), none, none⟩) hroom (.inr (by decide : 0x34 < 0x82 ∧ 0x82 < 256)), logFault_frame (.refl s),
    fun _ h1 h2 => reg_logFault_ne (not_mem_logRegs h1 h2)⟩

/-- The effect of a side's fault on a side that does not end the service. -/
theorem sideFaultApply_eq {c : BitVec 8} (ha : alive s = true) (hc : isFabricCode c.toNat = true) (hw : s.tablesWf = true) : sideFaultApply b c s =
    if binoPaired s = false ∧ bitOf (reg rBINO_STATE s) 4 = b then fabricFatalNow 0xF2 (source 8 (if b then 1 else 0)) (countEcc c.toNat s)
    else if bitOf (reg rBINO_POLICY s) 0 = true then fabricFatalNow 0x82 (source 8 (if b then 1 else 0)) (sideNoted c s)
    else if binoPaired s = true then moveService (!b) (sideLogged b (sideNoted c s)) else sideLogged b (sideNoted c s) := by
  obtain ⟨-, hkeep⟩ := countEcc_fabric hw hc
  obtain ⟨-, -, hnoted, -⟩ := sideNoted_spec hw hc
  have hpair : binoPaired (countEcc c.toNat s) = binoPaired s := congrArg (fun w => fieldOf w 0 2 == 1) (hkeep rBINO_STATE (by decide))
  have hserving : servingB (countEcc c.toNat s) = bitOf (reg rBINO_STATE s) 4 := congrArg (bitOf · 4) (hkeep rBINO_STATE (by decide))
  have hpolicy : bitOf (reg rBINO_POLICY (sideNoted c s)) 0 = bitOf (reg rBINO_POLICY s) 0 := congrArg (bitOf · 0) (hnoted rBINO_POLICY (by decide))
  have hpair' : binoPaired (sideNoted c s) = binoPaired s := congrArg (fun w => fieldOf w 0 2 == 1) (hnoted rBINO_STATE (by decide))
  unfold sideFaultApply
  dsimp only
  rw [if_neg (by simp [ha, hc]), hpair, hserving]
  show (if (!binoPaired s && b == bitOf (reg rBINO_STATE s) 4) = true then _ else
      if bitOf (reg rBINO_POLICY (sideNoted c s)) 0 = true then fabricFatalNow 0x82 (source 8 (if b then 1 else 0)) (sideNoted c s)
      else if binoPaired (sideNoted c s) = true then moveService (!b) (sideLogged b (sideNoted c s)) else sideLogged b (sideNoted c s)) = _
  rw [hpolicy, hpair']
  refine if_congr ?_ rfl rfl
  rw [Bool.and_eq_true, beq_iff_eq, Bool.not_eq_true', eq_comm (a := b)]

/-- ECC_UNCORRECTED after a side's fault. -/
def eccAfter (c : BitVec 8) (s : State) : Word := if c = 0xF0#8 then satAdd (reg rECC_UNCORRECTED s) 1 else reg rECC_UNCORRECTED s

/-- A fault of either side of a paired block under AUTO: the other side serves. -/
theorem sideMoved_spec {c : BitVec 8} (hw : s.tablesWf = true) (hc : isFabricCode c.toNat = true) (hroom : LogRoom s) (hshown : NoneShown s) : let t := moveService (!b) (sideLogged b (sideNoted c s))
    binoState t = (if b then 2 else 3) ∧ bitOf (reg rBINO_STATE t) 4 = !b ∧ reg rSIDE_FAULT_CODE t = c.setWidth 32 ∧ Logged 0x82 2 (source 8 (if b then 1 else 0)) s t
      ∧ reg rECC_UNCORRECTED t = eccAfter c s ∧ OnlyChanges [.ops, .regs, .setNow, .log] s t := by
  obtain ⟨hcode, hecc, -, hyw⟩ := sideNoted_spec hw hc
  have hy : OnlyChanges [.regs] s (sideNoted c s) := sideNoted_frame
  obtain ⟨hlog, hz, hkeep⟩ := sideLogged_spec (b := b) (s := sideNoted c s) (by rw [LogRoom, (hy .log (by decide) : (sideNoted c s).log = s.log)]; exact hroom)
  have hzw : (sideLogged b (sideNoted c s)).tablesWf = true := (logFault_keeps (.refl _)).tablesWf hyw
  have hyz : OnlyChanges [.regs, .setNow, .log] s (sideLogged b (sideNoted c s)) := (hy.mono (by decide)).trans (hz.mono (by decide))
  have hnone : NoneShown (sideLogged b (sideNoted c s)) := fun o ho => hshown o ((hyz .ops (by decide) : (sideLogged b (sideNoted c s)).ops = s.ops) ▸ ho)
  obtain ⟨hstate, hserves, hregs, hf⟩ := moveService_spec (b := !b) hzw hnone
  exact ⟨hstate.trans (by cases b <;> rfl), hserves, (hregs _ (by decide)).trans ((hkeep _ (by decide) (by decide)).trans hcode),
    Logged.of_eq hlog (hy .log (by decide)) (congrArg Clock.transit hy.clock_eq :) (hf .log (by decide)), (hregs _ (by decide)).trans ((hkeep _ (by decide) (by decide)).trans hecc),
    (hyz.mono (by decide)).trans (hf.mono (by decide))⟩

/-- A fault of the side that does not serve a single block, under AUTO. -/
theorem sideLost_spec {c : BitVec 8} (hw : s.tablesWf = true) (hc : isFabricCode c.toNat = true) (hroom : LogRoom s) : let t := sideLogged b (sideNoted c s)
    reg rBINO_STATE t = reg rBINO_STATE s ∧ reg rSIDE_FAULT_CODE t = c.setWidth 32 ∧ Logged 0x82 2 (source 8 (if b then 1 else 0)) s t ∧ reg rECC_UNCORRECTED t = eccAfter c s
      ∧ OnlyChanges [.regs, .setNow, .log] s t := by
  obtain ⟨hcode, hecc, hother, -⟩ := sideNoted_spec hw hc
  have hy : OnlyChanges [.regs] s (sideNoted c s) := sideNoted_frame
  obtain ⟨hlog, hz, hkeep⟩ := sideLogged_spec (b := b) (s := sideNoted c s) (by rw [LogRoom, (hy .log (by decide) : (sideNoted c s).log = s.log)]; exact hroom)
  exact ⟨(hkeep _ (by decide) (by decide)).trans (hother _ (by decide)), (hkeep _ (by decide) (by decide)).trans hcode, Logged.of_eq hlog (hy .log (by decide)) (congrArg Clock.transit hy.clock_eq :) rfl,
    (hkeep _ (by decide) (by decide)).trans hecc, (hy.mono (by decide)).trans (hz.mono (by decide))⟩

/-- A fault of a side under POLICY 1. -/
theorem sideFatal_spec {c : BitVec 8} (hw : s.tablesWf = true) (ha : alive s = true) (hc : isFabricCode c.toNat = true) (hroom : LogRoom s) : let t := fabricFatalNow 0x82 src (sideNoted c s)
    t.clock.fabFault = true ∧ reg rSIDE_FAULT_CODE t = c.setWidth 32 ∧ Logged 0x82 4 src s t ∧ reg rECC_UNCORRECTED t = eccAfter c s := by
  obtain ⟨hcode, hecc, -, -⟩ := sideNoted_spec hw hc
  have hy : OnlyChanges [.regs] s (sideNoted c s) := sideNoted_frame
  have hya : alive (sideNoted c s) = true := by
    rw [alive, hy.clock_eq]
    exact ha
  obtain ⟨hfault, hlog, hkeep⟩ := fabricFatalNow_spec (code := 0x82) (src := src) hya (by rw [LogRoom, (hy .log (by decide) : (sideNoted c s).log = s.log)]; exact hroom) (.inr (by decide))
  exact ⟨hfault, (hkeep _ (by decide) (by decide) (by decide)).trans hcode, Logged.of_eq hlog (hy .log (by decide)) (congrArg Clock.transit hy.clock_eq :) rfl, (hkeep _ (by decide) (by decide) (by decide)).trans hecc⟩

/-- A fault of the side that serves a single block. -/
theorem sideOnly_spec {c : BitVec 8} (hw : s.tablesWf = true) (ha : alive s = true) (hc : isFabricCode c.toNat = true) (hroom : LogRoom s) : let t := fabricFatalNow 0xF2 src (countEcc c.toNat s)
    t.clock.fabFault = true ∧ Logged 0xF2 4 src s t ∧ reg rECC_UNCORRECTED t = eccAfter c s := by
  obtain ⟨hecc, -⟩ := countEcc_fabric hw hc
  have hy : OnlyChanges [.regs] s (countEcc c.toNat s) := countEcc_frame (.refl s)
  have hya : alive (countEcc c.toNat s) = true := by
    rw [alive, hy.clock_eq]
    exact ha
  obtain ⟨hfault, hlog, hkeep⟩ := fabricFatalNow_spec (code := 0xF2) (src := src) hya (by rw [LogRoom, (hy .log (by decide) : (countEcc c.toNat s).log = s.log)]; exact hroom) (.inr (by decide))
  exact ⟨hfault, Logged.of_eq hlog (hy .log (by decide)) (congrArg Clock.transit hy.clock_eq :) rfl, (hkeep _ (by decide) (by decide) (by decide)).trans hecc⟩

end

/-- Faults of a side, takeover and the owner's commands. -/
theorem binocularSides : Claims.BinocularSides := by
  refine ⟨fun b c s hw ha hb hc hroom happ => ?_, fun n b s hw ha hn hline hdue hpair hserving hshown => takeoverDue_answers hw ha hn hline hdue hpair hserving hshown,
    fun port master s hw ha hb => ⟨fun ho => takeover_answers ha hb ho, fun ho => repair_answers (allWf_tablesWf hw) ha hb ho, fun ho => repairWithdraw_answers (allWf_tablesWf hw) ha hb ho⟩⟩
  dsimp only
  have htw (q : Place) : (withReached q s).tablesWf = true := allWf_tablesWf hw
  have heq (q : Place) : sideFaultApply b c (withReached q s) =
      if binoPaired s = false ∧ bitOf (reg rBINO_STATE s) 4 = b then fabricFatalNow 0xF2 (source 8 (if b then 1 else 0)) (countEcc c.toNat (withReached q s))
      else if bitOf (reg rBINO_POLICY s) 0 = true then fabricFatalNow 0x82 (source 8 (if b then 1 else 0)) (sideNoted c (withReached q s))
      else if binoPaired s = true then moveService (!b) (sideLogged b (sideNoted c (withReached q s))) else sideLogged b (sideNoted c (withReached q s)) :=
    sideFaultApply_eq (s := withReached q s) ha hc (htw q)
  have hfault : s.clock.fabFault = false := by
    have h : s.clock.rstN = true ∧ s.clock.fabFault = false := by simpa [alive] using ha
    exact h.2
  refine ⟨fun hpair hpol hshown => ?_, fun hpair hserving hpol => ?_, fun hside hpol => ?_, fun hpair hserving => ?_⟩ <;> refine answers_next (if_pos hb) rfl happ fun q => ?_ <;> rw [heq]
  · rw [if_neg (by simp [hpair]), if_neg (by simp [hpol]), if_pos hpair]
    obtain ⟨h1, h2, h3, h4, h5, hf⟩ := sideMoved_spec (b := b) (htw q) hc hroom hshown
    exact ⟨h1, h2, h3, h4, h5, (congrArg Clock.fabFault hf.clock_eq).trans hfault, hf .ledgers (by decide)⟩
  · rw [if_neg fun h => hserving h.2, if_neg (by simp [hpol]), if_neg (by simp [hpair])]
    obtain ⟨h1, h2, h3, h4, hf⟩ := sideLost_spec (b := b) (htw q) hc hroom
    exact ⟨h1, h2, h3, h4, withReached_frame (hf.mono (by decide))⟩
  · rw [if_neg fun h => hside.elim (fun hp => by simp [h.1] at hp) fun hs => hs h.2, if_pos hpol]
    exact sideFatal_spec (htw q) ha hc hroom
  · rw [if_pos ⟨hpair, hserving⟩]
    exact sideOnly_spec (htw q) ha hc hroom

/-- Settles O55: each event of the pair runs its own steps on the register of the pair's state, the log and the operation that it strikes. -/
theorem binocularPair : Obligations.BinocularPair := ⟨binocularMismatches, binocularSides, pairAgainClaim⟩

end Sys2Proof.Machine
end
